-- ==== Sys2Proof/Word.lean ====
section
/-! DEFINITION. Word types and byte order.
Names for the widths the spec uses, and the little-endian reading and writing of fields (R10). -/

namespace Sys2Proof

abbrev Byte := BitVec 8
abbrev Half := BitVec 16
abbrev Word32 := BitVec 32
abbrev Word64 := BitVec 64

/-- The number in a little-endian run of bytes (R10). -/
def leNat : List Byte → Nat
  | [] => 0
  | b :: bs => b.toNat + 256 * leNat bs

/-- A number as `n` little-endian bytes, its higher bits dropped (R10). -/
def leBytes : Nat → Nat → List Byte
  | 0, _ => []
  | n + 1, v => BitVec.ofNat 8 v :: leBytes n (v / 256)

/-- The number in a big-endian run of bytes: machine-port addresses (R363). -/
def beNat (bs : List Byte) : Nat := leNat bs.reverse

/-- `n` zero bytes: reserved bytes and padding (R11). -/
def zeros (n : Nat) : List Byte := List.replicate n 0

/-- Bytes `[off, off + n)` of a byte string; bytes past its end read 0. -/
def slice (bs : List Byte) (off n : Nat) : List Byte :=
  let t := (bs.drop off).take n
  t ++ zeros (n - t.length)

/-- The little-endian field of `n` bytes at offset `off`. -/
def fieldAt (bs : List Byte) (off n : Nat) : Nat := leNat (slice bs off n)

/-- Bits `[hi:lo]` of a number (R9: bit 0 is the least significant). -/
def bitsOf (v hi lo : Nat) : Nat := v / 2 ^ lo % 2 ^ (hi - lo + 1)

/-- One bit of a number. -/
def bitAt (v i : Nat) : Bool := v / 2 ^ i % 2 == 1

/-- A Bool as the number 0 or 1. -/
def b2n (b : Bool) : Nat := if b then 1 else 0

end Sys2Proof
end

