-- ==== Sys2Proof/Syntax.lean ====
section
/-! DEFINITION. The commands of the block.
`Instr` has one constructor for each row of spec/opcode_table.json; the types before it are the commands' operands. Where the
spec leaves a result to the loader (R497), to a plan's arithmetic (R169) or to hardware outside the block, the result is an
operand of the command that delivers it (assumption log 9). -/

namespace Sys2Proof

/-- A track: one paper path (00, introduction). -/
inductive Track where
  | A | B
deriving DecidableEq, Repr, Inhabited

/-- A side of a track (Table 02-1). -/
inductive Side where
  | front | back
deriving DecidableEq, Repr, Inhabited

/-- Function 0 is the PF, 1 to 15 the VFs (R281). -/
abbrev Fn := Fin 16
/-- Line port 0 to 3 (Table 02-1). -/
abbrev Port := Fin 4
/-- Region REG0 to REG7 (R90). -/
abbrev Region := Fin 8

/-- A ring pair: function and pair number (R281, R286). -/
structure RingId where
  fn : Fn
  pair : Fin 8
deriving DecidableEq, Repr, Inhabited

/-! ### Descriptors (Tables 11-3 and 11-5) -/

/-- The header of a descriptor (Table 11-3). -/
structure Hdr where
  irq : Bool
  fence : Bool
  peg : Bool
  complPeg : Nat
  tag : Word64
deriving DecidableEq, Repr, Inhabited

structure ScanArmOp where
  track : Nat
  sides : Nat
  plan : Nat
deriving DecidableEq, Repr, Inhabited

structure CalRunOp where
  port : Nat
  addr : Nat
  len : Nat
deriving DecidableEq, Repr, Inhabited

structure ImageReadOp where
  plan : Nat
  cls : Nat
  prio : Nat
  coding : Nat
  outputs : Nat
  inAddr : Nat
  inLen : Nat
  width : Nat
  height : Nat
  comps : Nat
  bits : Nat
  pbAddr : Nat
  pbLen : Nat
deriving DecidableEq, Repr, Inhabited

structure SeqStepOp where
  plan : Nat
  cls : Nat
  prio : Nat
  flags : Nat
  seq : Nat
  limit : Nat
  tokAddr : Nat
  tokCount : Nat
deriving DecidableEq, Repr, Inhabited

structure TailorStepOp where
  plan : Nat
  flags : Nat
  count : Nat
  listAddr : Nat
  listLen : Nat
  step : Word32
deriving DecidableEq, Repr, Inhabited

structure PlanLoadOp where
  addr : Nat
  len : Nat
  allotment : Nat
  repAddr : Nat
  repLen : Nat
  rate : Nat
  width : Nat
  offset : Nat
  tracks : Nat
deriving DecidableEq, Repr, Inhabited

structure WardrobePinOp where
  plan : Nat
  op : Nat
deriving DecidableEq, Repr, Inhabited

structure PtEditOp where
  plan : Nat
  seq : Nat
  kind : Nat
  layer : Nat
  page : Nat
  srcSeq : Nat
  srcPage : Nat
deriving DecidableEq, Repr, Inhabited

structure PegWaitOp where
  peg : Nat
  target : Word32
  timeout : Nat
deriving DecidableEq, Repr, Inhabited

structure PegSignalOp where
  peg : Nat
  op : Nat
  value : Word32
deriving DecidableEq, Repr, Inhabited

structure SnapshotOp where
  T : Nat
  addr : Nat
  len : Nat
  mask : Nat
deriving DecidableEq, Repr, Inhabited

structure WindowOpenOp where
  win : Nat
  target : Nat
  access : Nat
  base : Nat
  len : Nat
deriving DecidableEq, Repr, Inhabited

structure TwinDmaOp where
  win : Nat
  src : Nat
  srcAddr : Nat
  off : Nat
  len : Nat
deriving DecidableEq, Repr, Inhabited

structure TestRunOp where
  test : Nat
  tile : Nat
  addr : Nat
  host : Nat
  len : Nat
deriving DecidableEq, Repr, Inhabited

/-- A descriptor's operands by opcode (Table 11-4); `aux` is what host memory holds where the descriptor points: the
parameter block of IMAGE_READ, the tokens of SEQ_STEP, the sample list of TAILOR_STEP, the source of TWIN_DMA. -/
inductive DescOp where
  | nop
  | scanArm (o : ScanArmOp)
  | scanDisarm (track : Nat)
  | calRun (o : CalRunOp)
  | imageRead (o : ImageReadOp) (aux : List Byte)
  | seqStep (o : SeqStepOp) (aux : List Byte)
  | tailorStep (o : TailorStepOp) (aux : List Byte)
  | planLoad (o : PlanLoadOp)
  | planUnload (plan : Nat)
  | wardrobePin (o : WardrobePinOp)
  | ptEdit (o : PtEditOp)
  | pegWait (o : PegWaitOp)
  | pegSignal (o : PegSignalOp)
  | foldOpen
  | foldClose (flags : Nat)
  | snapshot (o : SnapshotOp)
  | windowOpen (o : WindowOpenOp)
  | windowClose (win : Nat)
  | twinDma (o : TwinDmaOp) (aux : List Byte)
  | testRun (o : TestRunOp)
  | unknown (opcode : Nat)
deriving DecidableEq, Repr, Inhabited

/-- A descriptor as the module reads it. -/
structure Desc where
  hdr : Hdr
  op : DescOp
deriving DecidableEq, Repr, Inhabited

/-! ### What a segment did (chapters 04 to 08) -/

/-- The personality of a cell (Table 04-2); a DOT cell's operand formats belong to it (R93). -/
inductive Pers where
  | dot (fa fb : Nat)
  | vec | lut | red | geo | rinse
deriving DecidableEq, Repr, Inhabited

/-- The configuration of one cell of a segment, by relative tile number (R92). -/
structure CellCfg where
  tile : Nat
  cell : Nat
  pers : Pers
deriving DecidableEq, Repr, Inhabited

/-- A view: base bank row, width and height in elements (R119). -/
structure View where
  base : Nat
  w : Nat
  h : Nat
deriving DecidableEq, Repr, Inhabited

/-- A run of a view: its first element, the number of elements, their spacing, and whether it goes down a column (R120, R121). -/
structure Run where
  r : Nat
  c : Nat
  n : Nat
  s : Nat
  down : Bool
deriving DecidableEq, Repr, Inhabited

/-- A context-relative tile-store access of a slot program (R137, R138): `weights` names the pair, `atile` the tile, the view and its run the
words, `byteOff` and `len` the bytes of each; `stamp` is the hand-off buffer with its generation and last-read mark (R243); `scale` is, for
words of scale records, the operand (0 A, 1 B) and the number of records used from `byteOff` on (R165, R166); `op` is the operation's index in
the plan. -/
structure Acc where
  weights : Bool
  atile : Nat
  view : View
  run : Run
  byteOff : Nat
  len : Nat
  stamp : Option (Nat × Nat × Bool)
  scale : Option (Nat × Nat)
  op : Nat
deriving DecidableEq, Repr, Inhabited

/-- A position of a scratch key source: its place, segment id, token centre in page units and side (R202, R212). -/
structure PosInfo where
  pos : Nat
  seg : Nat
  x : Nat
  y : Nat
  side : Bool
deriving DecidableEq, Repr, Inhabited

/-- A bias table's index rule with its parameters and its FP16 entries in registers (Table 08-3): 0 CLIP_1D, 1 LOG_1D, 2 LOG_2D. -/
structure BiasP where
  rule : Nat
  c : Nat
  q : Nat
  e : Nat
  r : Nat
  n : Nat
  nx : Nat
  ny : Nat
  cross : Nat
  tab : List Nat
deriving DecidableEq, Repr, Inhabited

/-- One row of one head of an ATTN command (R194 to R205): formats, widths, scales, operand registers of the row, of each key
and each value, bias, masks ([0] causal, [1] segment, [2] padding), output registers, lane for the logsumexp, and registers for p in STORE mode.
`paged` is the sequence and layer of a paged key source, whose positions, sides and length the sequence gives (R201, R202); for a scratch source
they are `qi`, `kj` and `valid`. -/
structure AttnP where
  fq : Nat
  fk : Nat
  fv : Nat
  fo : Nat
  dk : Nat
  dv : Nat
  scale : Word32
  sq : Word32
  sk : Word32
  sv : Word32
  q : List Nat
  ks : List (List Nat)
  vs : List (List Nat)
  bias : Option BiasP
  masks : Nat
  paged : Option (Nat × Nat)
  valid : Nat
  qi : PosInfo
  kj : List PosInfo
  outInf : Bool
  out : List Nat
  lse : Option (Nat × Nat)
  store : List Nat
deriving DecidableEq, Repr, Inhabited

/-- The backward pass of one row (R203, R204): the forward row, its output and output gradient in FP32 registers, the saved
logsumexp's lane or the stored p, and the FP32 registers that dq, dk and dv are added into. -/
structure AttnBwdP where
  fwd : AttnP
  o : List Nat
  go : List Nat
  recompute : Bool
  gq : List Nat
  gk : List (List Nat)
  gv : List (List Nat)
deriving DecidableEq, Repr, Inhabited

/-- A tensor in registers: its words block by block and row by row in layout C`lay` (R170), or element by element for `lay` 0. `quant` is one pair of
scale and zero point, or one for each channel (R160); `scales` are the registers of its scale records and `order` their consumption order
(R165); `leastH` and `leastW` are the declared least height and width (R175). -/
structure TRef where
  fmt : Nat
  inf : Bool
  lay : Nat
  regs : List Nat
  h : Nat
  w : Nat
  c : Nat
  quant : List (Word32 × Int)
  scales : List Nat
  order : List Nat
  leastH : Nat
  leastW : Nat
deriving DecidableEq, Repr, Inhabited

/-- Window parameters (Table 07-2); padding mode 0 ZERO, 1 REPLICATE, 2 REFLECT. -/
structure WinP where
  kh : Nat
  kw : Nat
  sh : Nat
  sw : Nat
  dh : Nat
  dw : Nat
  pt : Nat
  pb : Nat
  pl : Nat
  pr : Nat
  mode : Nat
  groups : Nat
deriving DecidableEq, Repr, Inhabited

/-- The part of a map that a resize or a rotation works on (R182): the height and width of the whole source and the whole output, where the source
window begins in the source, and where the output part begins in the output. -/
structure GeoP where
  srcH : Nat
  srcW : Nat
  outH : Nat
  outW : Nat
  winY : Nat
  winX : Nat
  outY : Nat
  outX : Nat
deriving DecidableEq, Repr, Inhabited

/-- The sliding-window and geometric operators of chapter 07. A tensor of a stripe has no padding at a seam: `seamT` and `seamB` say that its upper or
lower edge is one (R185). `globSum` sums the rows of one stripe onto the sums of the stripes before it, `globDiv` divides the total by its count (R180). -/
inductive WinOp where
  | conv (p : WinP) (seamT seamB : Bool) (wt : TRef)
  | poolMax (p : WinP) (seamT seamB : Bool)
  | poolAvg (p : WinP) (seamT seamB : Bool) (exclude : Bool)
  | globSum (prev : Option TRef)
  | globDiv (count : Nat)
  | argmaxC (values : Option TRef)
  | resize (nearest : Bool) (g : GeoP)
  | affine (m : List Word32) (border : Option Word32) (g : GeoP)
  | flip (across along : Bool)
  | crop (left top : Nat)
deriving DecidableEq, Repr, Inhabited

/-- How an element of an output is narrowed: format, infinity mode, scale and zero point (R157, R160). -/
structure ElemP where
  fmt : Nat
  inf : Bool
  scale : Word32
  zero : Int
deriving DecidableEq, Repr, Inhabited

/-- One operation of a cell. Registers name the 32-byte operand registers of the requester (R131); they live
for one segment. -/
inductive CellOp where
  /-- Read the words of a run into registers from `reg` on, in the order of the run: a transposed read for a column (R122). -/
  | rd (a : Acc) (reg : Nat)
  /-- Write `len` bytes of each of the registers from `reg` on to the words of a run. -/
  | wr (a : Acc) (reg : Nat)
  /-- DOT: contract two registers into an accumulator of the tile in the cell's formats (R152 to R155); for MX pairs the registers and records of the
  first block's scales. -/
  | dot (ra rb acc : Nat) (sa sb : Nat × Nat)
  /-- Set an accumulator to 0. -/
  | clr (acc : Nat)
  /-- Requantise an INT32 accumulator (R156 and after R159): FP32, times the scale, narrowed into element `i` of a register. -/
  | requant (acc : Nat) (scale : Word32) (fmt : Nat) (inf : Bool) (reg i : Nat)
  /-- VEC element-wise FP32 operation of Table 09-15 on lane `i` of registers (R159). -/
  | vec (op ra rb rc rd i : Nat) (k : Word32)
  /-- LUT (R95): a 4 KiB table in registers from `tab`, entries of format `fmt`, base and step FP32, input lane to output lane. -/
  | lut (tab fmt : Nat) (base step : Word32) (ra rd i : Nat)
  /-- RED (R96): operation 0 sum, 1 max, 2 arg-max over `n` lanes; integer or FP32. -/
  | red (op : Nat) (isInt : Bool) (ra n rd i : Nat)
  /-- Convert lane `i` from one format to another (R156, R157). -/
  | conv (fa fb : Nat) (inf : Bool) (ra rd i : Nat)
  /-- GEO (R97): one bilinear sample of a tensor at 16.16 coordinates; the border is constant or the nearest sample. -/
  | geo (src : TRef) (ch : Nat) (x16 y16 : Int) (border : Option Word32) (dst : ElemP) (rd i : Nat)
  /-- Dynamic quantisation of `n` FP32 lanes from register `ra` on (R162): scale, zero point and codes to registers. -/
  | quantDyn (fmt mode ra n rs rd : Nat)
  /-- An MX block built from 32 FP32 lanes of four registers (R164): the elements to a register, the scale record to record `i` of another; `op` is the
  operation's index in the plan. -/
  | mxPack (fmt ra rd rs i op : Nat)
  /-- ATTN, forward and backward (R194 to R205). -/
  | attn (a : AttnP)
  | attnBwd (a : AttnBwdP)
  /-- A window or geometric operator from one tensor to another (chapter 07). -/
  | win (op : WinOp) (src dst : TRef)
  /-- KV_SCATTER (R210): word `part` of the key or the value of one head at a position, from a register to its place in the page (Table 08-5). -/
  | kvWr (seq layer pos head : Nat) (val : Bool) (part reg : Nat)
  /-- A paged ATTN's read of the same word (R207, R211). -/
  | kvRd (seq layer pos head : Nat) (val : Bool) (part reg : Nat)
  /-- The 16-byte token-log entry of a position into half `i` of a register (R212, R223). -/
  | logRd (seq pos reg i : Nat)
deriving DecidableEq, Repr, Inhabited

/-- One step of a slot program: the unstalled cycle of the segment in which the operation is issued, the cell that does it, the operation. -/
structure CellStep where
  cycle : Nat
  tile : Nat
  cell : Nat
  op : CellOp
deriving DecidableEq, Repr, Inhabited

/-- One word of a segment's DMA through slot 12 (R129, R138): the cycle, its pair and relative place, and the bytes from DRAM, or none for a read into
DRAM. -/
structure DmaP where
  cycle : Nat
  weights : Bool
  tile : Nat
  row : Nat
  bank : Nat
  data : Option (List Byte)
deriving DecidableEq, Repr, Inhabited

/-- An error found inside the segment (Table 17-2): 4 cell parity, 5 DOT residue, each with its cell, and 14 uncorrectable DRAM word, with its pseudo-channel
in place of the cell. -/
structure CellFault where
  kind : Nat
  tile : Nat
  cell : Nat
  cycle : Nat
deriving DecidableEq, Repr, Inhabited

/-- A word of a text line (Table 12-5): box, confidence probability as FP32, token numbers. -/
structure WordItem where
  box : List Nat
  p : Word32
  tokens : List Nat
deriving DecidableEq, Repr, Inhabited

/-- What a plan's EMIT operators delivered (Table 09-15, EMIT; Tables 12-5 and 12-6). -/
inductive Emit where
  | block (side : Side) (box : List Nat) (cls : Nat) (p : Word32)
  | line (side : Side) (bottom : Nat) (box : List Nat) (p : Word32) (block : Option Nat) (words : List WordItem)
  | field (name side : Nat) (p : Word32) (box : List Nat) (vtype decimals : Nat) (value : Int) (key val : List Nat)
  | table (name side : Nat) (p : Word32) (box : List Nat) (rows cols : Nat)
  | cell (row col rspan cspan : Nat) (p : Word32) (vtype : Nat) (box : List Nat) (value : Int) (decimals : Nat)
      (tokens : List Nat)
  | verdict (v : Word32)
  | token (t x y seg : Nat) (side : Bool)
  /-- The plan's output for a sequence or an image is complete. -/
  | done
  /-- The backward pass of one tailoring sample ended (R355): list index, loss, gradient of every tailored weight. -/
  | sample (idx : Nat) (loss : Word32) (grad : List Word32)
deriving DecidableEq, Repr, Inhabited

/-- What a router transfer carries: rows of the hem that the input of operator `op` takes across a seam, up the page or down it (R191), or the words of a
far read from another stripe's region (R114). -/
inductive MoveKind where
  | hem (op : Nat) (up : Bool)
  | far (stripe : Nat)
deriving DecidableEq, Repr, Inhabited

/-- A router transfer that a segment starts: its identifier, the cycle, the relative address that it reads, its length, and where it lands: a byte
offset in the hem's landing area, or a relative address in the reader's scratch. -/
structure MoveP where
  id : Nat
  kind : MoveKind
  cycle : Nat
  src : Nat
  len : Nat
  dst : Nat
deriving DecidableEq, Repr, Inhabited

/-- What the next segment of a stripe waits for at its start: input lines of the side in the tile store (R188), the side's last row (R189), and arrivals:
an operator with 0 for its hem from above, 1 from below, or an identifier with 2 for a far read, and the value its peg must reach (R114, R192). -/
structure GateP where
  lines : Nat
  lastRow : Bool
  pegs : List (Nat × Nat × Nat)
deriving DecidableEq, Repr, Inhabited

/-- A further stripe of a job: its placement in mesh coordinates and what its first segment waits for (R190). -/
structure StripeP where
  placement : List (Nat × Nat)
  gate : GateP
deriving DecidableEq, Repr, Inhabited

/-- A segment that ends (R101, R102): its job and stripe, the cycle count of its slot program, its actual duration in ns, the wait before it in ns
(R274) with the parts spent on hem pegs (R192) and on tiles (R106), the cycles of fetch wait that the loader counts in its estimate and the ns of any
other wait for a fetch or a copy (R102, R236), the remaining estimate of the band or step (R275), its cells' configuration (R92), the steps of
its slot program, its DMA, errors found, corrected DRAM words by pseudo-channel and word index (R420), items emitted by sequence (0 for the job itself),
hems and far reads it starts (R114, R191), the ATTN (true) or KV_SCATTER command and its layer that it belongs to (R210), whether that command ends
with it, and the command that the next segment begins (R216), whether find has passed the side's last band, whether it was the stripe's and the
job's last segment, a further stripe that starts next (R190), what the stripe's next segment waits for, the number of its slot program,
and whether that program and its copy are there (R99, R102, R238). -/
structure SegWork where
  job : Nat
  stripe : Nat
  cycles : Nat
  actualNs : Nat
  waitNs : Nat
  hemNs : Nat
  tileNs : Nat
  fetchEst : Nat
  fetchNs : Nat
  remainNs : Nat
  cells : List CellCfg
  ops : List CellStep
  dmas : List DmaP
  faults : List CellFault
  dram : List (Nat × Nat)
  emits : List (Nat × Emit)
  moves : List MoveP
  cmd : Option (Bool × Nat)
  cmdEnd : Bool
  nextCmd : Bool
  findPast : Bool
  stripeEnd : Bool
  last : Bool
  next : Option StripeP
  gate : GateP
  nextProg : Nat
  fetched : Bool
deriving DecidableEq, Repr, Inhabited

/-! ### The loader's choices (R497, Table 09-10) -/

/-- A stage entry of the plan report (R246). -/
structure StageEntry where
  kind : Nat
  tiles : Nat
  segments : Nat
  cycles : Nat
deriving DecidableEq, Repr, Inhabited

/-- A segment of a chain of dependent segments (R236): its unstalled cycles, the cycles of fetch wait counted, the bytes of the hem and of the DMA
that it waits for, and the bytes of the streamed slice that it needs (R241). -/
structure ChainSeg where
  cycles : Nat
  fetch : Nat
  hem : Nat
  dma : Nat
  slice : Nat
deriving DecidableEq, Repr, Inhabited

/-- A landing area in a stripe's scratch for the hem that operator `op`'s input takes from above or, `up`, from below (R191): its relative address. -/
structure LandP where
  op : Nat
  up : Bool
  addr : Nat
deriving DecidableEq, Repr, Inhabited

/-- Where a stripe's input lines go: the relative tiles, one after another, the lines on each, and the base row of their view (R119, R172). -/
structure InViewP where
  tiles : List Nat
  lines : Nat
  base : Nat
deriving DecidableEq, Repr, Inhabited

/-- A layer of a model in execution order: its weights' bytes and the slices of its segments when it streams (R241). -/
structure LayerP where
  bytes : Nat
  slices : List Nat
deriving DecidableEq, Repr, Inhabited

/-- The slot program of a segment for one mesh tile, and the program-store row that it is written to (R99, R238). -/
structure ProgP where
  seg : Nat
  tile : Nat
  row : Nat
  bytes : List Byte
deriving DecidableEq, Repr, Inhabited

/-- The loader's own lowering of one container (R497): the choices that do not follow from the container. The four chains are the longest of one
band through find, of one text line through read, of the structure work and of one page index's refill (R236, R247, R248, R223). `maxRecord` is the largest
record (R327); `image` is the model as the loader places it: runs of bytes by address relative to the weights pair (R137); `modelRows` the rows of its
weights; `programs` the slot programs (R238), `tables` the resident tables: runs of bytes by
tile-store address (Table 05-8); `gate` is what a job's first segment waits for, `cmd`
whether a step's first segment begins an ATTN or KV_SCATTER (R216). -/
structure Lowering where
  bandH : Nat
  stripeH : Nat
  find : List ChainSeg
  read : List ChainSeg
  struct : List ChainSeg
  refill : List ChainSeg
  peakScratch : Nat
  stages : List StageEntry
  segments : Nat
  maxSegCycles : Nat
  maxState : Nat
  maxStateRegion : Nat
  layers : List LayerP
  placement : List (Nat × Nat)
  scratchRows : Nat
  modelRows : Nat
  loadUs : Nat
  maxRecord : Nat
  image : List (Nat × List Byte)
  programs : List ProgP
  tables : List (Nat × List Byte)
  lands : List LandP
  input : InViewP
  gate : GateP
  cmd : Bool
deriving DecidableEq, Repr, Inhabited

/-! ### Twin frames (Tables 15-2 and 15-3) -/

structure HeartbeatP where
  state : Nat
  readyA : Bool
  readyB : Bool
  windows : Nat
  next : Word32
  commA : Word32
  commB : Word32
  posA : Int
  posB : Int
  trigA : Word32
  trigB : Word32
  restA : Word32
  restB : Word32
  digA : List Byte
  digB : List Byte
deriving DecidableEq, Repr, Inhabited

/-- One coefficient entry with its reference mean (Table 03-2, R61). -/
structure Coef where
  offset : Nat
  dead : Bool
  kept : Bool
  gain : Nat
  mean : Nat
deriving DecidableEq, Repr, Inhabited

/-- A coefficient set: one list of entries per colour (R61). -/
structure CoefSet where
  r : List Coef
  g : List Coef
  b : List Coef
deriving DecidableEq, Repr, Inhabited

/-- What SYNC carries for one track (R383). -/
structure SyncTrack where
  divN : Nat
  divF : Nat
  phase : Int
  highMark : Int
  trig : Nat
  position : Int
  edges : List Int
deriving DecidableEq, Repr, Inhabited

structure SyncP where
  a : SyncTrack
  b : SyncTrack
  nextPiece : Word32
  coefs : List (Nat × CoefSet)
deriving DecidableEq, Repr, Inhabited

/-- A WRITE frame (Table 15-1). -/
structure TwinWriteP where
  win : Nat
  xfer : Nat
  last : Bool
  off : Nat
  data : List Byte
deriving DecidableEq, Repr, Inhabited

/-! ### Other operands -/

/-- Where a host-memory read was made for (R285, R294). -/
inductive DmaSrc where
  | gather (fn : Fn)
  | fetch (r : RingId)
  | job (tag : Word64) (r : RingId)
deriving DecidableEq, Repr, Inhabited

/-- The result of a decode (R337, R344): rows of pixels with their components, how many rows were decoded, and whether the
stream was invalid. -/
structure DecodeResult where
  corrupt : Bool
  rowsDecoded : Nat
  pixels : List (List (List Nat))
deriving DecidableEq, Repr, Inhabited

/-- What the ROM finds at S1 in the PUF and the flash (R395 to R401). -/
structure FlashImage where
  magicOk : Bool
  version : Nat
  floorReq : Nat
  length : Nat
  leastChip : Nat
  sigOk : Bool
  bodyOk : Bool
  digest : List Byte
  regionDigest : List Byte
deriving DecidableEq, Repr, Inhabited

structure RomFacts where
  mpOctal : Bool
  recoveryStrap : Bool
  flashSingle : Bool
  pufOk : Bool
deriving DecidableEq, Repr, Inhabited

/-- Units of the lint sweep (Table 17-4). -/
inductive LintKind where
  | cellSignature (cell personality : Nat)
  | accMarch (page : Nat)
  | rowMarch (bank row : Nat)
  | spare
deriving DecidableEq, Repr, Inhabited

/-- Operations on J5's test access port (R488). -/
inductive TapOp where
  | bypass (tdi : Bool)
  | idcode
  | other (ir : Nat)
deriving DecidableEq, Repr, Inhabited

/-- The tracks that saw a PIECE_IN edge in one port cycle; `⟨true, true⟩` is R15's tie. -/
structure EdgeP where
  a : Bool
  b : Bool
  deriving DecidableEq, Repr

/-- The job and the stripe whose slot programs' copy has completed. -/
structure FetchedP where
  job : Nat
  stripe : Nat
  deriving DecidableEq, Repr

/-- The commands: one constructor per row of spec/opcode_table.json, in the table's order. -/
inductive Instr where
  | pieceInEdge (e : EdgeP)
  | gapUpdateBuilt (p : Port)
  | encoderCount (t : Track) (a b : Bool) (dt : Nat)
  | sublineTrigger (t : Track)
  | linePacket (p : Port) (lanes : List (List Byte))
  | registeredLineStored (p : Port)
  | leadingEdgeTimeout (t : Track)
  | trailingEdgeFound (t : Track)
  | overlength (t : Track)
  | lineCommitted (p : Port)
  | checkWindowCaptured (t : Track) (dramBad : Bool)
  | scanDisarmGap (t : Track)
  | scanDisarmEffect (t : Track)
  | calTrigger (p : Port)
  | reservationMove (t : Track)
  | segmentBoundary (w : SegWork)
  | programFetchComplete (p : FetchedP)
  | seqWatchdogExpiry (job tile : Nat)
  | endMarkMissing (job tile : Nat)
  | spareReloadDone (tile : Nat)
  | thermalSample (regions : List (List Int)) (chip : Int) (dram : List Int)
  | farReadLanded (id : Nat)
  | hemLanded (id : Nat)
  | scrubRead (tile bank row : Nat)
  | fieldDarn (tile bank row : Nat)
  | batchStepStart (plan : Nat)
  | saveComplete (job : Nat)
  | restoreComplete (job : Nat) (dramBad : Bool)
  | wardrobeLoadComplete (plan : Nat) (dramBad : Bool)
  | planLoadComplete (container : List Byte) (low lowC : Lowering)
  | relowerComplete (low lowC : Lowering)
  | planUnloadComplete (plan : Nat)
  | doorbellPoll
  | doorbellLineArrived (fn : Fn) (line : List Byte) (recHead : Word64) (healthHead : Word32)
  | descriptorFetched (r : RingId) (bytes aux : List Byte)
  | hostDmaError (src : DmaSrc) (addr : Word64) (kind : Nat)
  | hostReadTimeout (src : DmaSrc) (addr : Word64)
  | irqModerationTimer (r : RingId)
  | nop (r : RingId) (h : Hdr)
  | scanArm (r : RingId) (h : Hdr) (o : ScanArmOp)
  | scanDisarm (r : RingId) (h : Hdr) (track : Nat)
  | calRun (r : RingId) (h : Hdr) (o : CalRunOp)
  | imageRead (r : RingId) (h : Hdr) (o : ImageReadOp) (aux : List Byte)
  | seqStep (r : RingId) (h : Hdr) (o : SeqStepOp) (aux : List Byte)
  | tailorStep (r : RingId) (h : Hdr) (o : TailorStepOp) (aux : List Byte)
  | planLoad (r : RingId) (h : Hdr) (o : PlanLoadOp)
  | planUnload (r : RingId) (h : Hdr) (plan : Nat)
  | wardrobePin (r : RingId) (h : Hdr) (o : WardrobePinOp)
  | ptEdit (r : RingId) (h : Hdr) (o : PtEditOp)
  | pegWait (r : RingId) (h : Hdr) (o : PegWaitOp)
  | pegWaitTimeout (r : RingId)
  | pegSignal (r : RingId) (h : Hdr) (o : PegSignalOp)
  | foldOpen (r : RingId) (h : Hdr)
  | foldClose (r : RingId) (h : Hdr) (flags : Nat)
  | foldCommit
  | snapshot (r : RingId) (h : Hdr) (o : SnapshotOp)
  | snapshotCapture (bank : Fin 2)
  | snapshotGatherDone (bank : Fin 2)
  | windowOpen (r : RingId) (h : Hdr) (o : WindowOpenOp)
  | windowClose (r : RingId) (h : Hdr) (win : Nat)
  | twinDma (r : RingId) (h : Hdr) (o : TwinDmaOp) (aux : List Byte)
  | testRun (r : RingId) (h : Hdr) (o : TestRunOp)
  | recordCopy (fn : Fn) (dramBad : Bool)
  | stagingGrant
  | codecDecodeDone (engine : Fin 8) (res : DecodeResult)
  | codecEncodeDone (engine : Fin 8) (stream : List Byte)
  | tailoringCommit (job : Nat) (low : Lowering)
  | dictLoad
  | dictLoadDone (bytes : Option (List Byte))
  | read (addr : Word32) (len : Nat)
  | write (addr : Word32) (data : List Byte)
  | rateAcknowledge (v : Byte)
  | configurationWord (v : Word32)
  | readId
  | portReset
  | badCommandInverse (op inv : Byte)
  | heartbeat (seq : Half) (p : HeartbeatP)
  | heartbeatSend
  | heartbeatMissed
  | health (seq : Half) (cause : Nat) (pieceA pieceB : Word32)
  | sync (seq : Half) (p : SyncP)
  | windowState (seq : Half) (win access len : Nat)
  | pair (seq : Half) (unit role : Bool) (serial : List Byte)
  | twinWrite (seq : Half) (f : TwinWriteP)
  | writeDone (seq : Half) (xfer status : Nat)
  | ack (seq : Half)
  | nak (seq : Half)
  | twinFrameCrcFail
  | twinLinkUp (rate16 : Bool)
  | twinLinkDown
  | twinFenceIn (asserted : Bool)
  | handover
  | fenceClear
  | takeoverClear
  | powerOnReset (mainOk auxOk : Bool)
  | pllLock
  | romBoot (f : RomFacts)
  | firmwareRunning
  | regionFirmwareLoaded
  | dramTrained (ok : Bool)
  | bringupS5Start
  | fabricTestsDone (badRows : List (Nat × Nat × Nat)) (badTiles : List Nat)
  | resetN
  | perst
  | pwrCtrlReset
  | hostInterfaceReset (linkError : Bool)
  | hostLinkCorrectableError
  | functionLevelReset (fn : Fn)
  | vfEnable (mask : Half)
  | refclkLoss
  | refclkRestored
  | pwrMainLow
  | pwrMainReturn
  | bothInputsLow
  | holdUpEnd
  | chipParityError (unit : Fin 3)
  | ringRetryExhausted (g : Region)
  | regionControllerError (g : Region)
  | regionDrain (mask : Byte)
  | regionServe (mask : Byte)
  | healthAlertClear
  | lintUnit (tile : Nat) (k : LintKind) (faulty recurs : Bool)
  | lintOverdue (tile : Nat)
  | overrateClear (p : Port)
  | unexpectedClear (p : Port)
  | setupBusGo (p : Port)
  | setupBusDone (p : Port) (rx : Word64)
  | ringEnable (r : RingId)
  | ringDisable (r : RingId)
  | ringKick (fn : Fn)
  | recRingEnable (fn : Fn)
  | pegGrant (fn : Fn) (count : Nat)
  | healthLogEnable
  | attestGo (fn : Fn)
  | quoteStart (hostWriteOk : Bool)
  | attestationRenewal
  | attestationTreeRebuilt
  | updateStage
  | updateBlob
  | updateDone (bytes : List Byte) (writeOk : Bool)
  | regionApply (g : Region)
  | confirm
  | timebaseLowRead (fn : Fn)
  | termEnChange (level : Bool)
  | registerWrite (fn : Fn) (off size : Nat) (value : Word64)
  | pwrAuxLow
  | pwrAuxReturn
  | twinEnable (on : Bool)
  | msixVectorUnmask (fn : Fn) (vec : Fin 64)
  | testAccessPort (op : TapOp)
deriving DecidableEq, Repr, Inhabited

end Sys2Proof
end

