-- ==== Sys2Proof/Decode.lean ====
section
/-! DEFINITION. The command that a word of the opcode table's bits spells. spec/opcode_table.json gives no row any bits (the
block's commands are events, register accesses and descriptors, not instruction words), so no word spells a command. The
64 bytes of a descriptor are read and written in Machine/Operands.lean (parseDesc, encodeDesc). -/

namespace Sys2Proof

/-- No row of the table has bits. -/
def decodeTableWord (_nbits _w : Nat) : Option Instr := none

end Sys2Proof
end

