-- ==== Sys2Proof/Config.lean ====
section
/-! DEFINITION. What an implementation or a part fixes, and the values the spec leaves open. Every constant here has no body:
nothing can be proved about its value (assumption log 3, 6, 7, 8, 11, 12, 13). -/

namespace Sys2Proof.Config

open Sys2Proof

/-- A free value, drawn by the model's counter (log 3). -/
opaque freeNat : Nat → Nat
/-- A free 32-bit value, drawn by the model's counter (log 3). -/
opaque freeWord : Nat → Word32

/-- Cross-feed and line pitch of a port's sensor, in inches (R77, R85, R89): the spec names no register that holds them (log 7). -/
opaque pitchX : Nat → Rat
opaque pitchY : Nat → Rat

/-- The FP32 of an angle in degrees with a given tangent (R85), and FP32 cosine and sine of an angle in degrees (R88, R346): the
spec states no rounding for them (log 8). -/
opaque atanDeg : Rat → Word32
opaque cosDeg : Word32 → Word32
opaque sinDeg : Word32 → Word32
/-- How far the FP32 exponential of an operand lies from the nearest code: R196 bounds it by 2 units in the last place and says no
more (log 8). -/
opaque expError : Word32 → Nat
/-- How far the FP32 natural logarithm of R199 lies from the nearest code: the spec states no rounding for it, and the model lets it err as the
exponential may (log 8). -/
opaque lnError : Word32 → Nat

/-- The 10 check bits of a word: a SEC-DED code that the spec does not give (R133; log 6). -/
opaque checkBits : List Byte → BitVec 10

/-- XMSS signatures of RFC 8391: a tree's public key and the signature of a leaf over a message; the algorithm is the cited
standard's (R397, R404, R405; log 12). -/
opaque xmssPublic : List Byte → Nat → List Byte
opaque xmssSign : List Byte → Nat → Nat → List Byte → List Byte

/-- Facts of the part: the PUF's device key K (R395), serial number and identity certificate (R404), mask-ROM version and digest
(Table 16-7), module issue (Table 20-2) (log 13). -/
opaque pufKey : List Byte
opaque serial : List Byte
opaque identityCert : List Byte
opaque romVersion : Nat
opaque romDigest : List Byte
opaque issue : Byte

/-- Whether a port's sensor has switchable lamps (R42): the spec names no register that says so (log 13). -/
opaque lampsSwitchable : Nat → Bool

/-- The engine stepping the manual describes: C (00, Names; Table 20-2). -/
def stepping : Byte := 0x43

/-- Result of the check of a staged image or blob: signature verification is the cited standard's (R398, R400; log 12). -/
opaque imageSigOk : List Byte → Bool
opaque blobSigOk : List Byte → Bool

/-- The fields of a configuration blob, in the order of Table 16-5, and after them its version and 1 when its serial number is the module's or 0: the spec gives them no offsets (log 13). -/
opaque blobField : List Byte → Nat → Nat

/-- The digest of the tokeniser dictionary that a TABLES section names: its place in the section is the toolchain's (Table 09-2; log 35). -/
opaque tablesDigest : List Byte → Option (List Byte)

/-- The record of a scale stream that holds the scale of a block: the plan's consumption order, whose form in the SCALES section the spec does not give
(R165, Table 09-2; log 36). -/
opaque scalePos : List Byte → Nat → Nat → Nat

/-- Does a run of DRAM overlap the hamper or the line-window area (R380), given SCHED_DRAM_CARVE: the spec does not say where in DRAM the areas lie
(log 38). -/
opaque dramForbidden : Nat → Nat → Nat → Bool

/-- A free byte: what a page of the pool that nothing has written holds (R209; log 3). -/
opaque freeByte : Nat → Byte

end Sys2Proof.Config
end

