-- ==== Sys2Proof/Machine/Types.lean ====
section
/-! DEFINITION. The records that State is made of: ports, tracks, pieces, jobs, plans, sequences, posts, twin, trust, health.
Plain data; each docstring names the rule of spec/ that gives the state. -/

namespace Sys2Proof.Machine

open Sys2Proof

/-- Status codes (Table 11-8); the list is complete (R13). -/
inductive Status where
  | ok | truncated | pegTimeout | late | sampleBad
  | badOpcode | badDescriptor | notPermitted | badState | hostDmaError | ringFault
  | planCorrupt | planVersion | planBadFormat | planBadShape | planTooLarge | planUnknown | wardrobeFull
  | scanLimit | lineLost | refeedMismatch | pageGeometry
  | tsBound | tsReadOnly | tsHole | tsUncorrectable | scheduleSkew | scaleSkew | seqWatchdog | cellParity | dotResidue
  | dramUncorrectable | regionLost
  | pageShared | poolExhausted | seqTooLong | seqUnknown
  | inputTooLarge | implausible | inputCorrupt | tailorNoSamples
  | pegRange | foldAborted | foldLimit
  | twinLinkDown | windowClosed | windowBound
  | testFail | snapshotTooSoon
deriving DecidableEq, Repr, Inhabited

/-! ### Host interface -/

/-- A ring pair since its latest stop: `gen` counts the stops, so that what an earlier run of the pair started posts no completion (R294). -/
structure RingRef where
  fn : Fn
  pair : Fin 8
  gen : Nat
deriving DecidableEq, Repr, Inhabited

/-- A completion entry before it is written (Table 11-6). -/
structure Compl where
  hdr : Hdr
  opcode : Nat
  status : Status
  member : Bool
  arrived : Bool
  detail : List Byte
deriving DecidableEq, Repr, Inhabited

/-- An image of a post (R329 to R332, Table 12-7). -/
structure Image where
  side : Nat
  kind : Nat
  bits : Nat
  comps : Nat
  width : Nat
  height : Nat
  stride : Nat
  len : Nat
  data : List Byte
  dropped : Bool
  dpiX : Nat
  dpiY : Nat
deriving DecidableEq, Repr, Inhabited

/-- A post (chapter 12): the record bytes and images; the descriptor whose completion reports it, or the fold of a ring and the
member of it that made the post (R313). -/
structure Post where
  fn : Fn
  feed : Bool
  piece : Nat
  track : Nat
  done : Option (RingRef × Compl)
  record : List Byte
  images : List Image
  fold : Option (RingRef × Nat × Nat)
deriving DecidableEq, Repr, Inhabited

/-- What a fold member does at the commit (Table 11-9). -/
inductive FoldAct where
  | none
  | ptEdit (o : PtEditOp)
  | pegSignal (o : PegSignalOp)
  | windowOpen (o : WindowOpenOp)
  | record (p : Option Post)
  | swap
deriving DecidableEq, Repr, Inhabited

/-- A fold member (R309, R310): its job, and the status the job ended with. -/
structure Member where
  hdr : Hdr
  opcode : Nat
  act : FoldAct
  job : Option Nat
  ended : Option Status
  detail : List Byte
deriving DecidableEq, Repr, Inhabited

/-- A fold of a ring (R309), open or waiting for its commit (R310), or committed and waiting for the copies of its posts (R313);
`id` tells the folds of one ring apart. -/
structure FoldSt where
  id : Nat
  openHdr : Hdr
  members : List Member
  failed : Option (Nat × Nat × Status)
  closeHdr : Option Hdr
  hostAbort : Bool
  committed : Bool
deriving DecidableEq, Repr, Inhabited

/-- A ring pair (R286 to R294); `gen` counts its stops; `fetched` are the descriptors not yet started, of which the last `unfetched` still stand in
the submission ring. -/
structure RingPair where
  enable : Bool
  fault : Bool
  cause : Nat
  sqTail : Half
  sqHead : Half
  cqTail : Half
  cqHead : Half
  fetched : List Desc
  held : List Compl
  running : List (Word64 × Option Nat)
  pegWait : Bool
  unsignalled : Nat
  firstUnsig : Option Nat
  fold : Option FoldSt
  closed : List FoldSt
  nextFold : Nat
  gen : Nat
  unfetched : Nat
deriving DecidableEq, Repr, Inhabited

def RingPair.reset : RingPair :=
  { enable := false, fault := false, cause := 0, sqTail := 0, sqHead := 0, cqTail := 0, cqHead := 0, fetched := [], held := [],
    running := [], pegWait := false, unsignalled := 0, firstUnsig := none, fold := none, closed := [], nextFold := 0, gen := 0, unfetched := 0 }

/-- A quote request (R409): the operands captured are those in the registers when it starts. -/
structure QuoteSt where
  busy : Bool
  result : Nat
deriving DecidableEq, Repr, Inhabited

/-- One function (R281). -/
structure FnState where
  enabled : Bool
  grantError : Bool
  badWrite : Bool
  pegBase : Nat
  pegCount : Nat
  lineRead : Bool
  kickWaiting : Bool
  recEnable : Bool
  recTail : Word64
  recHead : Word64
  masked : List Nat
  pendingBits : List Nat
  quote : QuoteSt
  rings : Vector RingPair 8
deriving DecidableEq, Repr

/-- After reset every MSI-X vector is masked (PRESUMED: PCI Express resets the per-vector mask to 1; log 16). -/
def FnState.reset (pf : Bool) : FnState :=
  { enabled := pf, grantError := false, badWrite := false, pegBase := 0, pegCount := 0, lineRead := false, kickWaiting := false,
    recEnable := false, recTail := 0, recHead := 0, masked := List.range 64, pendingBits := [], quote := { busy := false, result := 0 },
    rings := Vector.replicate 8 RingPair.reset }

/-- A PEG_WAIT that stands (R307); the deadline is on the fabric time base. -/
structure PegWaitSt where
  r : RingRef
  hdr : Hdr
  peg : Nat
  target : Word32
  deadline : Option Nat
deriving DecidableEq, Repr, Inhabited

/-- A fold at its commit point (R311, R312). A step fold and a tailoring commit take effect in the commands that form them. -/
inductive FoldKey where
  | verdict (t : Track) (piece : Nat)
  | host (r : RingRef) (id : Nat)
deriving DecidableEq, Repr, Inhabited

/-! ### Line ports and tracks -/

/-- The settings of a port in force at arming (R58, R469; Tables 03-1, 20-6, 20-7). -/
structure PortCfg where
  track : Track
  side : Side
  width : Nat
  switched : Bool
  lanes : Nat
  laneRate : Nat
  offs : List Nat
  lossRun : Nat
  lossSide : Nat
  depth16 : Bool
  xavg : Nat
  subline : Bool
  mirror : Bool
  fillWhite : Bool
  crop : Bool
  twinKeep : Bool
  threshold : Nat
  minRun : Nat
  minCols : Nat
  trail : Nat
  leadWin : Nat
  skewK : Nat
  reject : Nat
  minPts : Nat
  tol : Nat
  maxFrac : Nat
  gapLines : Nat
  target : List Nat
  lmax : Nat
  lwinMiB : Nat
  cropMargin : Nat
  imgOut : Nat
  imgLayout : Nat
  quality : Nat
  bin : Nat × Nat × Nat × Nat
  backOffset : Nat
  stopLines : Nat
  sMax : Nat
  diff : Nat
deriving DecidableEq, Repr, Inhabited

/-- A recent sensor trigger and the colours received for it (R35). -/
structure TrigRec where
  num : Nat
  line : Int
  sub : Nat
  got : List Nat
deriving DecidableEq, Repr, Inhabited

/-- One colour of one paper position as received (R68); no samples when lost (R72). -/
structure ColLine where
  pos : Int
  col : Nat
  lost : Bool
  raw : List Nat
  fe : Nat
deriving DecidableEq, Repr, Inhabited

/-- A registered line with its status word (R72): raw samples and conditioned data by colour, a lost colour's taken from the line before where a piece
lies on the line and empty elsewhere (R36); `first` and `last` are its first and last paper pixel (R80), `fe` the front-end status, none where no packet
of the line came (R34). -/
structure RegLine where
  pos : Int
  pline : Int
  piece : Option Nat
  lost : List Bool
  data : List (List Nat)
  raw : List (List Nat)
  cols : Nat
  first : Nat
  last : Nat
  quad : Bool
  fe : Option Nat
deriving DecidableEq, Repr, Inhabited

/-- Calibration running (R62): dark and lamp sums per colour and pixel, lines seen per colour, triggers issued. -/
structure CalSt where
  r : RingRef
  hdr : Hdr
  op : CalRunOp
  switched : Bool
  issued : Nat
  darkN : List Nat
  darkSum : List (List Nat)
  lampN : List Nat
  lampSum : List (List Nat)
deriving DecidableEq, Repr, Inhabited

/-- Strip lines gathered in a gap (R65): lines after `start`, up to the line `stop` of the PIECE_IN edge once it has come; their number, sums by
colour and pixel, the last position used. -/
structure StripSt where
  start : Option Int
  stop : Option Int
  n : Nat
  sum : List (List Nat)
  lastPos : Int
deriving DecidableEq, Repr, Inhabited

/-- The skew of a side (R85): the angle, the leading-edge fit e = e0 + m·x, the left and right edge fits x = x0 + ml·ℓ and
x = xr + mr·ℓ, and the source. -/
structure SkewSt where
  theta : Word32
  e0 : Rat
  m : Rat
  x0 : Rat
  ml : Rat
  xr : Rat
  mr : Rat
  source : Nat
deriving DecidableEq, Repr, Inhabited

/-- A line port (chapters 02 and 03). -/
structure PortState where
  armed : Bool
  cfg : PortCfg
  locked : Bool
  goodRun : Nat
  badRun : Nat
  trigCount : Nat
  trigs : List TrigRec
  colLines : List ColLine
  nextPos : Int
  regQ : List RegLine
  storeQ : List RegLine
  window : List RegLine
  prev : Option RegLine
  inUse : Option CoefSet
  building : Option CoefSet
  buildDead : List Nat
  queued : Option (CoefSet × Int)
  calKey : Option (Nat × Bool)
  cal : Option CalSt
  calWait : List (RingRef × Hdr × CalRunOp)
  strip : StripSt
  gapDiscards : Nat
  lastFe : Option Nat
  lamps : List Nat
  switchedBy : Option Nat
  deadCols : List Nat
  reserved : List (Nat × Nat)
  engine : Option Nat
  overrate : Bool
  unexpected : Bool
  suBusy : Bool
  suRx : Word64
  check : List ColLine
  edgePts : List (Nat × Nat)
  sidePts : List (Nat × Nat × Nat)
deriving DecidableEq, Repr, Inhabited

def PortState.reset : PortState :=
  { (default : PortState) with trigCount := 0 }

/-- DIAG entries of one kind and side (R324). -/
structure Diag where
  kind : Nat
  side : Side
  count : Nat
  entries : List (Nat × Nat)
deriving DecidableEq, Repr, Inhabited

/-- A text line read on a piece: its bottom edge, the piece line at which it became final (R21), its plan (0 main, 1 companion). -/
structure TextLine where
  side : Side
  bottom : Nat
  box : List Nat
  p : Word32
  block : Option Nat
  words : List WordItem
  final : Nat
  plan : Nat
deriving DecidableEq, Repr, Inhabited

/-- A block of a side (Table 12-5). -/
structure BlockItem where
  side : Side
  box : List Nat
  cls : Nat
  p : Word32
  plan : Nat
deriving DecidableEq, Repr, Inhabited

/-- One side of a piece: piece lines with a lost colour (R36), skew (R85), conditioned lines by piece line, whether the last line has been
pressed and whether find has passed the last band, whether find and read have ended, the first line that showed paper, its
job and the slip of its jobs (R274). -/
structure PieceSide where
  lost : List Nat
  skew : Option SkewSt
  lines : List (Nat × List (List Nat))
  pressed : Bool
  findPast : Bool
  done : Bool
  lead : Option Int
  job : Option Nat
  slip : Int
deriving DecidableEq, Repr, Inhabited

/-- A token-log entry (R212). -/
structure Tok where
  num : Nat
  x : Nat
  y : Nat
  seg : Nat
  side : Bool
deriving DecidableEq, Repr, Inhabited

/-- A piece on a track (chapters 01 to 03, 10). `status` other than OK is the code it is posted with (R37, R27); `inFold` says that
its verdict fold waits to commit, `posted` that it has committed; `toks` are tokens read and not yet final, each with the piece line at which it
becomes final (R21, R22), `final` those that are. -/
structure Piece where
  num : Nat
  edgePos : Int
  edgeLine : Int
  line0 : Option Int
  T : Option Nat
  due : Nat
  lastPaper : Nat
  blank : Nat
  front : PieceSide
  back : PieceSide
  diag : List Diag
  text : List TextLine
  toks : List (Nat × Tok)
  final : List Tok
  blocks : List BlockItem
  items : List Emit
  images : List Image
  drops : Nat
  verdict : Option Word32
  qwLine : Option Nat
  companion : Bool
  restarted : Bool
  status : Status
  inFold : Bool
  posted : Bool
  seq : Nat
  joined : Bool
  sigmaSeq : Int
  structSteps : Nat
  structured : Bool
deriving DecidableEq, Repr, Inhabited

/-- Causes of FEED_HOLD on a track (Table 02-6). -/
structure Hold where
  window : Bool
  basket : Bool
  rate : Bool
  disarm : Bool
  twin : Bool
deriving DecidableEq, Repr, Inhabited

/-- A restart (R53, R55): restart line N, whether the hold is released, check-window triggers still to issue. -/
structure Restart where
  N : Int
  released : Bool
  drop : Nat
deriving DecidableEq, Repr, Inhabited

/-- A track (chapters 01, 02, 14): arming, divider and encoder, hold, restart, recorded PIECE_IN positions, pieces oldest first, and a
pending SCAN_DISARM with the pieces it waits for; `arming` is a SCAN_ARM that waits for tiles (R77), `rev` the sense of forward (Table 20-6), `trigPos` the
position at the last trigger and `lastCommit` the highest committed piece, 0xFFFF_FFFF before any (Table 15-3; log 26).
`restartBad` that its last restart failed (R387). `held`: FEED_HOLD has stood and the encoder has not come to rest since; `rested` that it has, with the
hold still standing; `again` is the line N + 1 until which a recorded edge is the same piece again (R57). `subDue` are the sub-line triggers still due with
their time, encoder line and sub-line (R41), `lastLine` the time of the last encoder line. `frontPos` is the last front position in the tile store. -/
structure TrackState where
  armed : Bool
  firstLight : Bool
  front : Option Port
  back : Option Port
  plan : Nat
  armedMax : Nat
  delta : Nat
  divN : Nat
  divF : Nat
  chA : Bool
  chB : Bool
  position : Int
  highMark : Int
  phase : Int
  encLine : Int
  frontPos : Int
  lastTrig : Option Nat
  lastLine : Option Nat
  period : Nat
  subDue : List (Nat × Int × Nat)
  quad : Bool
  hold : Hold
  held : Bool
  rested : Bool
  again : Option Int
  rateReq : Bool
  restart : Option Restart
  edges : List Int
  pieces : List Piece
  disarm : Option (List (RingRef × Hdr) × List Nat)
  arming : Option (RingRef × Hdr × ScanArmOp)
  rev : Bool
  trigPos : Int
  lastCommit : Word32
  lastPiece : Word32
  numbered : Bool
  commits : Word32
  restartBad : Bool
deriving DecidableEq, Repr, Inhabited

/-- At power-on the SCAN_DISARM cause stands (R375); the encoder channels are low (DESIGN CHOICE, log 14). -/
def TrackState.reset : TrackState :=
  { (default : TrackState) with lastCommit := 0xFFFFFFFF, hold := { window := false, basket := false, rate := false, disarm := true, twin := false } }

/-! ### Fabric and tile store -/

/-- A tile number of the fabric (chapters 04, 17); `cells` are the personalities of its cells that have been configured (R92). -/
structure TileSt where
  failed : Bool
  onSpare : Bool
  gone : Bool
  job : Option Nat
  resv : Option Port
  strikes : List Nat
  reload : Bool
  idleSince : Nat
  lintUnits : Nat
  sweepAt : Nat
  overdue : Bool
  cells : List (Nat × Pers)
deriving DecidableEq, Repr, Inhabited

/-- A region (R108, R109, R419, R421); `fw` is the digest of the controller firmware it runs (R413). -/
structure RegionSt where
  state : Nat
  failed : Bool
  spares : Nat
  test3 : Bool
  thermal : Nat
  fw : Option (List Byte)
  tiles : Vector TileSt 32
deriving DecidableEq, Repr

def RegionSt.reset : RegionSt :=
  { state := 0, failed := false, spares := 2, test3 := false, thermal := 0, fw := none, tiles := Vector.replicate 32 default }

/-- A router transfer (R114, R191): its job, the stripe and relative address that it reads, its length, the stripe and relative address that it lands in,
the key of its peg among the job's arrivals, and its bytes once it has started; before that it waits for its consumer's first segment. -/
structure Transfer where
  id : Nat
  hem : Bool
  job : Nat
  src : Nat
  addr : Nat
  len : Nat
  stripe : Nat
  dst : Nat
  key : Nat × Nat
  bytes : Option (List Byte)
deriving DecidableEq, Repr, Inhabited

/-- The tile store (chapter 05): its bytes, words with an error (1 correctable, 2 uncorrectable) keyed by word, darn entries
(bank key, row, patch row), bad patch rows, recent-error tables of banks and pseudo-channels (R420), rows whose uncorrectable word
was overwritten (R425), banks whose full table is logged. -/
structure TileStore where
  mem : List Host.Cell
  marks : List (Nat × Nat)
  darn : List (Nat × Nat × Nat)
  badPatch : List (Nat × Nat)
  recent : List (Nat × List (Nat × Nat))
  due : List (Nat × Nat)
  fullLogged : List Nat
deriving DecidableEq, Repr, Inhabited

/-! ### Jobs -/

/-- Job states (Table 10-2). -/
inductive JobState where
  | queued | ready | running | saved | done
deriving DecidableEq, Repr, Inhabited

/-- What a job runs on (chapter 10, introduction). -/
inductive JobKind where
  | side (t : Track) (piece : Nat) (s : Side)
  | image (o : ImageReadOp) (pb : List Byte)
  | tailor (o : TailorStepOp) (list : List Byte)
  | step
  | test (o : TestRunOp)
  /-- A SEQ_STEP before its sequence takes it (R299). -/
  | seq (o : SeqStepOp) (aux : List Byte)
deriving DecidableEq, Repr, Inhabited

/-- Where a stripe of a job stands: it waits for tiles, it is placed and waits for its next segment's inputs, program or rows, it is in a segment, in a
save, SAVED, in a restore, or its last segment has ended. -/
inductive LaneState where
  | want | wait | run | saving | saved | restoring | ended
deriving DecidableEq, Repr, Inhabited

/-- A stripe of a job on its placement (R190); a job on whole maps has one, stripe 0. `fetch`: the next program is not there yet; `gate`: what the next
segment waits for (R192); `remain`: the remaining estimate of its band or step (R275); `prog`: the number of the next program; `lines`: the input
lines written to its scratch (R172); `cmd`: its next segment begins an ATTN or KV_SCATTER (R216). -/
structure Lane where
  stripe : Nat
  region : Nat
  tiles : List Nat
  placement : List (Nat × Nat)
  shifted : Bool
  state : LaneState
  fetch : Bool
  gate : GateP
  remain : Nat
  prog : Nat
  lines : Nat
  cmd : Bool
deriving DecidableEq, Repr, Inhabited

/-- A job (R254, R255, R261, R274). `lanes` are its stripes (R190); `posting` holds a finished post that waits for basket space (R336); saved cells,
accumulators and bytes are by stripe; `arrived` counts the arrivals of each stripe's hems and far reads (R192), `scaleBlocks` the scale blocks used by
operation and operand (R166), `top` is the side's input line at which its map begins (R252), `begun` the input lines whose bands have started, `fault`
an error of a router transfer, which counts at the next boundary (R134, R135, R138), `scattered` the layers whose KV_SCATTER the running step has completed (R210). A job that is DONE stays until its
segments in other regions have ended (R193). `freedFor` is the job for which this one was pre-empted, until either starts (R257). -/
structure Job where
  id : Nat
  fn : Fn
  ring : Option RingRef
  hdr : Hdr
  opcode : Nat
  cls : Nat
  prio : Nat
  plan : Nat
  revision : Nat
  kind : JobKind
  state : JobState
  member : Bool
  started : Bool
  inputReady : Bool
  ctx : Option Nat
  lanes : List Lane
  top : Nat
  begun : Nat
  fault : Option (Status × List Byte)
  startAt : Nat
  readyAt : Nat
  savedAt : Nat
  slip : Int
  posting : Option Post
  victim : Bool
  freedFor : Option Nat
  saved : List Host.Cell
  savedAcc : List (Nat × Word32)
  savedBytes : List (Nat × Nat × Nat)
  damaged : Bool
  discard : Bool
  engine : Option Nat
  staging : Nat
  decoded : Bool
  pixels : List (List (List Nat))
  note : Status
  tag : Nat
  images : List Image
  text : List TextLine
  blocks : List BlockItem
  items : List Emit
  arrived : List ((Nat × Nat × Nat) × Nat)
  scaleBlocks : List ((Nat × Nat) × Nat)
  scattered : List Nat
deriving DecidableEq, Repr, Inhabited

/-- A context's two pairs (Table 05-6), as set for the placement of one stripe of its job (R141, R190); the model's rows lie in its ways, one way after
another (log 71). -/
structure CtxPairs where
  job : Nat
  stripe : Nat
  region : Nat
  sShift : Nat
  sBase : Nat
  sCount : Nat
  wShift : Nat
  wBase : Nat
  wCount : Nat
  wWays : List Nat
  wRows : Nat
deriving DecidableEq, Repr, Inhabited

/-- A model in the wardrobe (R268, R270, R271). -/
structure ModelSt where
  plan : Nat
  revision : Nat
  ways : List Nat
  pinned : Bool
  useTime : Nat
deriving DecidableEq, Repr, Inhabited

/-- A wardrobe load requested (R270): by a job, for its plan's revision, or by a WARDROBE_PIN. -/
structure LoadReq where
  plan : Nat
  revision : Nat
  feed : Bool
  pin : Option (RingRef × Hdr × Nat)
deriving DecidableEq, Repr, Inhabited

/-- An accounting record (Table 10-6); the last segments' actual and estimated times give the slowdown. -/
structure Acct where
  wait : Nat
  jobs : Nat
  preempt : Nat
  saveNs : Nat
  actual : Nat
  estimate : Nat
  recent : List (Nat × Nat)
  quick : Nat
  late : Nat
  wardBytes : Nat
  dram3 : Nat
deriving DecidableEq, Repr, Inhabited

/-! ### Plans -/

/-- A STAGES record (Table 09-2). -/
structure StageRec where
  kind : Nat
  seam : Nat
  first : Nat
  last : Nat
  input : Nat
deriving DecidableEq, Repr, Inhabited

/-- A TENSORS declaration (Table 09-14). -/
structure TensorRec where
  id : Nat
  kind : Nat
  fmt : Nat
  layout : Nat
  inf : Bool
  perChan : Bool
  rank : Nat
  off : Nat
  least : List Nat
  most : List Nat
  scale : Word32
  zero : Int
  scaleOff : Nat
deriving DecidableEq, Repr, Inhabited

/-- An operator record (R226). -/
structure OperRec where
  kind : Nat
  stage : Nat
  ins : List Nat
  outs : List Nat
  params : List Nat
deriving DecidableEq, Repr, Inhabited

/-- What the module reads from a container (R224 to R226, R499 to R501). -/
structure Container where
  feed : Bool
  zeroInit : Bool
  isComp : Bool
  concurrency : Nat
  digest : List Byte
  stages : List StageRec
  tensors : List TensorRec
  opers : List OperRec
  targets : Option (List Nat)
  dict : Option (List Byte)
  weights : List Byte
  scales : List Byte
  tables : List Byte
  comp : Option (List Byte)
  strings : List Byte
deriving DecidableEq, Repr, Inhabited

/-- What a plan was at an earlier revision, kept for the jobs started on it (R250, R273): container, lowering and streamed bytes. -/
structure OldLow where
  revision : Nat
  c : Container
  low : Lowering
  streamed : Nat
deriving DecidableEq, Repr, Inhabited

/-- A loaded plan or companion (R224 to R253). `stale`: a drain has left the plan on an old lowering whose successor does not fit
(R250); `storeBad`: its model in the model store has an uncorrectable word, so each load of it fails (Table 17-3); `ready`: its completion has been posted (R234). -/
structure PlanRec where
  handle : Nat
  fn : Fn
  main : Nat
  comp : Option Nat
  c : Container
  low : Lowering
  op : PlanLoadOp
  revision : Nat
  skewK : Nat
  H : Nat
  S : Nat
  footprint : Nat
  tputClass : Nat
  streamed : Nat
  batchPages : Nat
  bytes : Nat
  invalid : Bool
  stale : Bool
  storeBad : Bool
  unload : Option (RingRef × Hdr)
  batchStep : Nat
  olds : List OldLow
  ready : Bool
deriving DecidableEq, Repr, Inhabited

/-! ### Sequences and the page pool -/

/-- A page-table entry that is not empty (Table 08-6, R208). -/
inductive PtEntry where
  | present (page : Nat) (pinned : Bool)
  | absent
deriving DecidableEq, Repr, Inhabited

/-- Sequence states (Table 08-8). -/
inductive SeqState where
  | joining | running | waiting | needsRefill | paused | leaving
deriving DecidableEq, Repr, Inhabited

/-- A SEQ_STEP standing on a sequence (R218). -/
structure StepReq where
  job : Nat
  r : RingRef
  hdr : Hdr
  member : Bool
  joined : Bool
  leaveAfter : Bool
  generate : Bool
  limit : Nat
  written : Nat
deriving DecidableEq, Repr, Inhabited

/-- A sequence of a running batch (R212, R218): `fresh` are the positions that the next or running step appends, `next` the tokens that
step has written, `walk` the page-table version
that the running command walks, if one runs (R216), `refill` the entries that the refill pass has still to recompute, `regrown` all that were ABSENT when the
step began (R223, R502), `ended` that the plan's output for the sequence is complete, `granted` the entries of new page indices (R502). -/
structure SeqSt where
  id : Nat
  fn : Fn
  plan : Nat
  state : SeqState
  cls : Nat
  prio : Nat
  piece : Option (Track × Nat)
  len : Nat
  entries : List (Nat × PtEntry)
  walk : List (Nat × PtEntry)
  log : List Tok
  fresh : List Tok
  next : List Tok
  ended : Bool
  inStep : Bool
  joinedAt : Nat
  lastStep : Nat
  preLen : Nat
  granted : List Nat
  refill : List Nat
  regrown : List Nat
  req : Option StepReq
  deferred : Nat
  items : List Emit
deriving DecidableEq, Repr, Inhabited

/-- The page pool (R206 to R217): reference counts by page; pages held, each with the plan whose walker maps it and the version at
which it was freed; pages taken by batches; the walkers by plan with the version each walks. -/
structure Pool where
  refs : List (Nat × Nat)
  held : List (Nat × Nat × Word32)
  taken : Nat
  version : Word32
  walkers : List (Nat × Word32)
  seqs : List SeqSt
  nextSeq : Nat
  data : List (Nat × Byte)
deriving DecidableEq, Repr, Inhabited

/-! ### Posts -/

/-- The basket (R336). -/
structure Basket where
  building : List (Nat × Nat)
  committed : List Post
  hold : Bool
deriving DecidableEq, Repr, Inhabited

/-! ### Host images, tailoring, dictionary -/

/-- A codec engine (R339). -/
inductive Engine where
  | free
  | side (p : Port)
  | decode (job sample : Nat)
  | encode (job kind : Nat)
deriving DecidableEq, Repr, Inhabited

/-- The tokeniser dictionary (R349, R350, Table 20-10). -/
structure Dict where
  busy : Bool
  loaded : Bool
  error : Nat
  entries : List (List Byte)
  digest : List Byte
deriving DecidableEq, Repr, Inhabited

/-- A sample of a running TAILOR_STEP (R355, R357). -/
structure SampleSt where
  idx : Nat
  entry : List Byte
  key : Option Nat
  cacheStore : Bool
  decoded : Bool
  removed : Bool
  loss : Option Word32
deriving DecidableEq, Repr, Inhabited

/-- A running TAILOR_STEP (R355); `prep` is the new container and lowering that its commit will bring into force (R359). -/
structure TailorSt where
  job : Nat
  plan : Nat
  samples : List SampleSt
  grads : List Word32
  lossSum : Word32
  updated : Bool
  prep : Option (Container × Lowering)
deriving DecidableEq, Repr, Inhabited

/-- Tailoring (R353, R356): FP32 masters by plan, and the epoch cache, most recently used last, by function and key. -/
structure Tailor where
  masters : List (Nat × List Word32)
  cache : List (Nat × Nat × Nat)
  steps : List TailorSt
deriving DecidableEq, Repr, Inhabited

/-! ### Machine port -/

/-- The machine port (chapter 14): its copy of the verdict table, mode, dummy cycles and error count. -/
structure MachPort where
  table : Vector (List Byte) 256
  octal : Bool
  dummies : Nat
  errors : Word32
deriving DecidableEq, Repr

def MachPort.reset : MachPort :=
  { table := Vector.replicate 256 (zeros 16), octal := false, dummies := 20, errors := 0 }

/-! ### Twin -/

/-- Twin states (Table 15-5). -/
inductive TwinState where
  | solo | active | standby | takingOver | fenced
deriving DecidableEq, Repr, Inhabited

/-- An inbound window (R380). -/
structure Window where
  target : Nat
  access : Nat
  base : Nat
  len : Nat
deriving DecidableEq, Repr, Inhabited

/-- A TWIN_DMA whose WRITE_DONE has not arrived (R381). -/
structure TwinXfer where
  id : Nat
  r : RingRef
  hdr : Hdr
deriving DecidableEq, Repr, Inhabited

/-- Twin operation (chapter 15): `goodA` and `goodB` are the encoder lines from which every condition of readiness has held (R387), `partner` the record of
the partner's windows with the count of its last HEARTBEAT (R381), `badXfer` what inbound transfers have come to, `dram` the DRAM bytes that the
partner has written, `handoverTo` the first piece of a handover under way (R393). -/
structure Twin where
  state : TwinState
  linkUp : Bool
  rate16 : Bool
  readyA : Bool
  readyB : Bool
  goodA : Option Int
  goodB : Option Int
  fenced : Bool
  takeover : Bool
  refused : Bool
  fenceIn : Bool
  fenceOut : Bool
  txSeq : Half
  unacked : List (Half × List Byte)
  resends : Nat
  rxSeq : Option Half
  windows : List (Nat × Window)
  partner : List (Nat × Nat × Nat)
  partnerCount : Nat
  beat : Option HeartbeatP
  misses : Nat
  paired : Bool
  pairSent : Bool
  xfers : List TwinXfer
  nextXfer : Nat
  dram : List (Nat × Byte)
  badXfer : List (Nat × Nat)
  handoverTo : Option Nat
deriving DecidableEq, Repr, Inhabited

/-! ### Trust -/

/-- A measurement-log entry (Table 16-6). -/
structure LogEntry where
  kind : Nat
  fn : Nat
  index : Nat
  arg : Nat
  digest : List Byte
deriving DecidableEq, Repr, Inhabited

/-- Configuration blob fields (Table 16-5); `good` says that its signature verifies and its serial number is the module's or 0 (R400). -/
structure Blob where
  good : Bool
  debugOpen : Bool
  vfs : Nat
  regionUpdate : Bool
  quoteMs : Nat
  version : Nat
  digest : List Byte
deriving DecidableEq, Repr, Inhabited

/-- Flash contents the module acts on (Table 16-2). A floor record is floor, sequence number and whether its tag is valid;
a reservation record is tree kind, tree index, block and whether its tag is valid; a
certificate is tree index and the identity leaf that signed it. -/
structure Flash where
  slotA : Option FlashImage
  slotB : Option FlashImage
  floors : List (Nat × Nat × Bool)
  resv : List (Nat × Nat × Nat × Bool)
  certs : List (Nat × Nat)
  blob : Option Blob
deriving DecidableEq, Repr, Inhabited

/-- The security controller (chapter 16). -/
structure Sec where
  flash : Flash
  log : List LogEntry
  logCount : Nat
  running : List Byte
  overflow : Bool
  version : Nat
  floor : Nat
  floorBad : Bool
  blob : Blob
  blobDefault : Bool
  image : List Byte
  regionImage : List Byte
  tree : Nat
  leaf : Nat
  block : Option Nat
  idBlock : Option Nat
  idLeaf : Nat
  rebuilt : Bool
  lastQuote : Option Nat
  quoteNext : Nat
  updBusy : Bool
  updBlob : Bool
  updResult : Nat
  staged : Option FlashImage
deriving DecidableEq, Repr, Inhabited

/-! ### Health -/

/-- A health-log entry (Table 17-6). -/
structure HealthEntry where
  kind : Nat
  cls : Nat
  seq : Nat
  tb : Nat
  status : Option Status
  fn : Option Nat
  tile : Option Nat
  region : Option Nat
  unit : Option Nat
  addr : Nat
  arg : Nat
deriving DecidableEq, Repr, Inhabited

/-- The health controller (R424, R431, Table 20-12). -/
structure Health where
  alert : Bool
  logEnable : Bool
  count : Nat
  head : Word32
  lost : Word32
  lostFlag : Bool
  seq : Nat
  last : List HealthEntry
deriving DecidableEq, Repr, Inhabited

/-! ### Counters -/

/-- A SNAPSHOT that joined a bank (R459). -/
structure SnapJoin where
  r : RingRef
  hdr : Hdr
  op : SnapshotOp
deriving DecidableEq, Repr, Inhabited

/-- A shadow bank (R459, R460): its tick, who joined, and the copy once taken. -/
structure Bank where
  T : Nat
  joins : List SnapJoin
  taken : Bool
  shadow : List (Nat × Word64)
  acct : List Acct
deriving DecidableEq, Repr, Inhabited

/-! ### What leaves the module -/

/-- What the module sent outside. -/
inductive Output where
  | hostWrite (fn : Fn) (addr : Nat) (bytes : List Byte)
  | hostRead (fn : Fn) (addr len : Nat)
  | msix (fn : Fn) (vec : Nat)
  | trigger (p : Port) (num : Nat)
  | lamp (p : Port) (lamp : Nat) (on : Bool)
  | setupBus (p : Port) (bytes : List Byte) (div : Nat)
  | portData (bytes : List Byte)
  | regData (fn : Fn) (value : Word64)
  | twinFrame (bytes : List Byte)
  | tap (tdo : Word32)
deriving DecidableEq, Repr, Inhabited

end Sys2Proof.Machine
end

