-- ==== Sys2Proof/Machine/State.lean ====
section
/-! DEFINITION. The state of the block: every register, FIFO, buffer, counter, mode and pin the spec gives it, and the queue
of waiting commands. Plain data. Levels that the spec defines as functions of other state (FEED_HOLD, MACH_ALERT_N, fence
output, read-only register fields) are functions in Machine/Ops.lean and Machine/Registers.lean. -/

namespace Sys2Proof.Machine

open Sys2Proof

/-- Reasons to stop with a fault. The block has no event that stops the model: errors of the hardware end in the outcome
classes of Table 17-1, which are next states. -/
inductive Fault where
  /-- Raised by no command. Kept as the name for a command that the block could not carry at all; safe. -/
  | unsendable
deriving DecidableEq, Repr

/-- Reasons to give a command no meaning. -/
inductive Refusal where
  /-- The command has no meaning in the model yet. Safe. -/
  | notModelled (mnemonic : String)
  /-- TEST_ACCESS_PORT with an instruction other than BYPASS and IDCODE while the configuration blob opens the debug port
  (R488, Table 16-5): the spec says that a vendor-authenticated session exists and nothing of what it does. Safe. -/
  | debugPortOpen
deriving DecidableEq, Repr

/-- Clocks and the time base (R439, R441, R466). `freeCtr` is the model's own counter of free values (log 3). -/
structure Clock where
  timeBase : Word64
  running : Bool
  latch : Option Word32
  refclkOk : Bool
  freeCtr : Nat
deriving DecidableEq, Repr, Inhabited

/-- Why a module reset is held (R438, R443). -/
inductive Held where
  | no | thermal | clockLoss
deriving DecidableEq, Repr, Inhabited

/-- Supplies and temperature (R434, R435, R437, R438, Table 20-2). -/
structure Power where
  mainOk : Bool
  auxOk : Bool
  onAux : Bool
  tripSensor : Nat
  tripIndex : Nat
  held : Held
  device : Bool
  holdUp : Bool
  rails : Bool
  refresh2x : List Bool
  tripRun : List Nat
deriving DecidableEq, Repr, Inhabited

/-- Boot and straps (R399, R444 to R450, Table 20-2). -/
structure Boot where
  stage : Nat
  pufFail : Bool
  dramFail : Bool
  fabricFail : Bool
  slot : Bool
  mpOctal : Bool
  recoveryStrap : Bool
  flashSingle : Bool
  recovery : Bool
  resetCause : Nat
  termEn : Bool
deriving DecidableEq, Repr, Inhabited

/-- Pegs (R303), the adds that the next control cycle applies (R307), and the PEG_WAITs that stand (R307). -/
structure Pegs where
  val : List (Nat × Word32)
  later : List (Nat × Word32)
  waits : List PegWaitSt
deriving DecidableEq, Repr, Inhabited

/-- Jobs, contexts, wardrobe, accounting (chapter 10); `laterFails` counts the failing accesses and scale mismatches that no job reported (R140, R166). -/
structure Sched where
  jobs : List Job
  nextId : Nat
  contexts : List (Nat × CtxPairs)
  models : List ModelSt
  loads : List LoadReq
  acct : Vector Acct 16
  rr : Nat
  laterFails : Nat
deriving DecidableEq, Repr

/-- Loaded plans and the loader's queues (chapter 09); `grant` is the allotment limit read when the load under way started (R239, R469), `loading` the plan
whose load waits for its companion's model (R230), `made` the lowerings that the loader has made, by what it made them from (R497; log 70). -/
structure Plans where
  loaded : List PlanRec
  loadQ : List (RingRef × Hdr × PlanLoadOp)
  relowerQ : List Nat
  nextHandle : Nat
  grant : Nat
  loading : Option Nat
  made : List (List Byte × Lowering)
deriving DecidableEq, Repr, Inhabited

/-- The state of the module. -/
structure State where
  pending : List Instr
  out : List Output
  clk : Clock
  pwr : Power
  boot : Boot
  regs : List (Nat × Word64)
  fns : Vector FnState 16
  pegs : Pegs
  commitQ : List (Nat × FoldKey)
  trackA : TrackState
  trackB : TrackState
  ports : Vector PortState 4
  nextPiece : Word32
  regions : Vector RegionSt 8
  acc : List (Nat × Word32)
  transfers : List Transfer
  store : TileStore
  sched : Sched
  plans : Plans
  pool : Pool
  basket : Basket
  engines : Vector Engine 8
  dict : Dict
  tailor : Tailor
  port : MachPort
  twin : Twin
  sec : Sec
  health : Health
  cnt : List (Nat × Word64)
  banks : Vector (Option Bank) 2
deriving DecidableEq, Repr

/-- The tile store with nothing listed: every byte reads 0 (R143; before S5 a DESIGN CHOICE, log 5). -/
def TileStore.reset : TileStore :=
  { mem := [], marks := [], darn := [], badPatch := [], recent := [], due := [], fullLogged := [] }

/-- The defaults of the configuration blob (Table 16-5). -/
def Blob.default : Blob :=
  { good := true, debugOpen := false, vfs := 15, regionUpdate := true, quoteMs := 10, version := 0, digest := zeros 32 }

/-- Security state before the ROM has run: the flash holds no image, record or blob (DESIGN CHOICE, log 14); the running value
of the measurement log starts as 32 zero bytes (R403). -/
def Sec.reset : Sec :=
  { (default : Sec) with running := zeros 32, blob := Blob.default, blobDefault := true, image := zeros 32, regionImage := zeros 32 }

def Sched.reset : Sched :=
  { jobs := [], nextId := 0, contexts := [], models := [], loads := [], acct := Vector.replicate 16 default, rr := 0, laterFails := 0 }

def Pool.reset : Pool := { (default : Pool) with nextSeq := 1 }

/-- The machine right after a power-on reset: stage S0, rails good, PLL not locked, both supply inputs at their threshold
(R444, Table 18-7; the values the spec leaves to inputs, straps and flash are log 14). -/
def State.reset : State :=
  { pending := [], out := [],
    clk := { timeBase := 0, running := false, latch := none, refclkOk := true, freeCtr := 0 },
    pwr := { mainOk := true, auxOk := true, onAux := false, tripSensor := 0, tripIndex := 0, held := .no, device := false,
             holdUp := false, rails := true, refresh2x := [false, false, false, false], tripRun := List.replicate 13 0 },
    boot := { stage := 0, pufFail := false, dramFail := false, fabricFail := false, slot := false, mpOctal := false,
              recoveryStrap := false, flashSingle := false, recovery := false, resetCause := 0, termEn := false },
    regs := [],
    fns := Vector.ofFn fun i => FnState.reset (i.val == 0),
    pegs := { val := [], later := [], waits := [] },
    commitQ := [],
    trackA := TrackState.reset, trackB := TrackState.reset,
    ports := Vector.replicate 4 PortState.reset,
    nextPiece := 0,
    regions := Vector.replicate 8 RegionSt.reset,
    acc := [], transfers := [],
    store := TileStore.reset,
    sched := Sched.reset,
    plans := { loaded := [], loadQ := [], relowerQ := [], nextHandle := 1, grant := 0, loading := none, made := [] },
    pool := Pool.reset,
    basket := { building := [], committed := [], hold := false },
    engines := Vector.replicate 8 .free,
    dict := { busy := false, loaded := false, error := 0, entries := [], digest := zeros 32 },
    tailor := { masters := [], cache := [], steps := [] },
    port := MachPort.reset,
    twin := default,
    sec := Sec.reset,
    health := default,
    cnt := [],
    banks := Vector.replicate 2 none }

end Sys2Proof.Machine
end

