-- ==== Sys2Proof/Machine/Bits.lean ====
section
/-! DEFINITION. Rounding, checks and small arithmetic shared by the families. -/

namespace Sys2Proof.Machine

open Sys2Proof

/-- Quotient rounded to nearest, ties to even (R156: the module has no other rounding mode). -/
def roundEvenDiv (n : Int) (d : Nat) : Int :=
  let q := n.fdiv d
  let r := n - q * d
  if 2 * r < d then q else if 2 * r > d then q + 1 else if q % 2 = 0 then q else q + 1

/-- Round a rational to the nearest integer, ties to even. -/
def roundEvenRat (q : Rat) : Int := roundEvenDiv q.num q.den

/-- Clamp an integer. -/
def clampInt (x lo hi : Int) : Int := max lo (min x hi)

/-- Quotient rounded up. -/
def ceilDiv (a b : Nat) : Nat := (a + b - 1) / b

/-- The ceiling of a rational. -/
def ratCeil (q : Rat) : Int := -((-q.num).fdiv q.den)

/-- Sign-extend a number of `w` bits. -/
def signExt (v w : Nat) : Int := if v % 2 ^ w ≥ 2 ^ (w - 1) then (v % 2 ^ w : Nat) - (2 ^ w : Nat) else (v % 2 ^ w : Nat)

/-- An integer as `w` bits of two's complement. -/
def toBits (x : Int) (w : Nat) : Nat := (x % (2 ^ w : Nat)).toNat

/-- The XOR of bytes: the check byte of a verdict entry (Table 14-6). -/
def xorBytes (bs : List Byte) : Byte := bs.foldl (fun a b => a ^^^ b) 0

/-- One byte of CRC-32, polynomial 0x04C1_1DB7 reflected (R32). -/
def crcByte (c : Word32) (b : Byte) : Word32 :=
  let bit := fun (x : Word32) => if x &&& 1 = 1 then (x >>> 1) ^^^ 0xEDB88320#32 else x >>> 1
  bit (bit (bit (bit (bit (bit (bit (bit (c ^^^ b.setWidth 32))))))))

/-- CRC-32 as R32 gives it: initial value and final XOR all ones. -/
def crc32 (bs : List Byte) : Word32 := bs.foldl crcByte 0xFFFFFFFF#32 ^^^ 0xFFFFFFFF#32

/-- Fabric cycles in a time in ns, rounded up (R7: 1.4 GHz). -/
def nsToCycles (ns : Nat) : Nat := ceilDiv (7 * ns) 5

/-- Time in ns of fabric cycles, rounded down. -/
def cyclesToNs (c : Nat) : Nat := 5 * c / 7

/-- The first control cycle edge at or after a fabric cycle (R439: 350 MHz, every fourth fabric cycle). -/
def controlEdge (c : Nat) : Nat := 4 * ceilDiv c 4

/-- Insert into a list kept in rising order of a key, after equal keys. -/
def insertBy {α : Type} (le : α → α → Bool) (x : α) : List α → List α
  | [] => [x]
  | y :: ys => if le y x then y :: insertBy le x ys else x :: y :: ys

/-- Sort by insertion, stable. -/
def sortBy {α : Type} (le : α → α → Bool) (xs : List α) : List α := xs.foldl (fun acc x => insertBy le x acc) []

/-- Sum of numbers. -/
def sumNat (xs : List Nat) : Nat := xs.foldl (· + ·) 0

/-- The largest number, 0 for none. -/
def maxNat (xs : List Nat) : Nat := xs.foldl max 0

/-- Pad a completion detail to 16 bytes (Table 11-6). -/
def detail16 (bs : List Byte) : List Byte := slice bs 0 16

/-- Split into runs of `n`; fuel bounds the number of runs. -/
def chunksOf {α : Type} (n : Nat) : Nat → List α → List (List α)
  | 0, _ => []
  | f + 1, xs => if xs.isEmpty then [] else xs.take n :: chunksOf n f (xs.drop n)

/-- Do two lists have the same elements in order, as bytes? -/
def sameBytes (a b : List Byte) : Bool := decide (a = b)

/-- Replace the elements that satisfy a test. -/
def mapWhere {α : Type} (p : α → Bool) (f : α → α) (xs : List α) : List α := xs.map fun x => if p x then f x else x

end Sys2Proof.Machine
end

