-- ==== Sys2Proof/Machine/Flags.lean ====
section
/-! DEFINITION. Status codes, their classes, and the other code tables of the spec. -/

namespace Sys2Proof.Machine

open Sys2Proof

/-- The code of a status (Table 11-8). -/
def Status.code : Status → Nat
  | .ok => 0x0000 | .truncated => 0x0001 | .pegTimeout => 0x0002 | .late => 0x0003 | .sampleBad => 0x0004
  | .badOpcode => 0x0100 | .badDescriptor => 0x0101 | .notPermitted => 0x0102 | .badState => 0x0103 | .hostDmaError => 0x0104
  | .ringFault => 0x0105
  | .planCorrupt => 0x0200 | .planVersion => 0x0201 | .planBadFormat => 0x0202 | .planBadShape => 0x0203
  | .planTooLarge => 0x0204 | .planUnknown => 0x0205 | .wardrobeFull => 0x0206
  | .scanLimit => 0x0300 | .lineLost => 0x0301 | .refeedMismatch => 0x0302 | .pageGeometry => 0x0303
  | .tsBound => 0x0400 | .tsReadOnly => 0x0401 | .tsHole => 0x0402 | .tsUncorrectable => 0x0403 | .scheduleSkew => 0x0404
  | .scaleSkew => 0x0405 | .seqWatchdog => 0x0406 | .cellParity => 0x0407 | .dotResidue => 0x0408
  | .dramUncorrectable => 0x0409 | .regionLost => 0x040A
  | .pageShared => 0x0500 | .poolExhausted => 0x0501 | .seqTooLong => 0x0502 | .seqUnknown => 0x0503
  | .inputTooLarge => 0x0600 | .implausible => 0x0601 | .inputCorrupt => 0x0602 | .tailorNoSamples => 0x0603
  | .pegRange => 0x0700 | .foldAborted => 0x0701 | .foldLimit => 0x0702
  | .twinLinkDown => 0x0800 | .windowClosed => 0x0801 | .windowBound => 0x0802
  | .testFail => 0x0900 | .snapshotTooSoon => 0x0901

/-- The statuses, in the order of Table 11-8. -/
def Status.all : List Status :=
  ([.ok, .truncated, .pegTimeout, .late, .sampleBad, .badOpcode, .badDescriptor, .notPermitted, .badState, .hostDmaError] : List Status) ++
  ([.ringFault, .planCorrupt, .planVersion, .planBadFormat, .planBadShape, .planTooLarge, .planUnknown, .wardrobeFull, .scanLimit] : List Status) ++
  ([.lineLost, .refeedMismatch, .pageGeometry, .tsBound, .tsReadOnly, .tsHole, .tsUncorrectable, .scheduleSkew, .scaleSkew] : List Status) ++
  ([.seqWatchdog, .cellParity, .dotResidue, .dramUncorrectable, .regionLost, .pageShared, .poolExhausted, .seqTooLong] : List Status) ++
  ([.seqUnknown, .inputTooLarge, .implausible, .inputCorrupt, .tailorNoSamples, .pegRange, .foldAborted, .foldLimit] : List Status) ++
  ([.twinLinkDown, .windowClosed, .windowBound, .testFail, .snapshotTooSoon] : List Status)

/-- The status with a code, if the table lists it (R13). -/
def Status.ofCode (c : Nat) : Option Status := Status.all.find? fun s => s.code == c

/-- Class ERROR (Table 11-8): codes from 0x0100; OK and NOTE lie below. -/
def Status.isError (s : Status) : Bool := decide (0x0100 ≤ s.code)

/-- Codes that may stand in a verdict-table entry: the V column of Table 11-8. -/
def Status.isV : Status → Bool
  | .ok | .late | .lineLost | .refeedMismatch | .pageGeometry | .tsBound | .tsReadOnly | .tsUncorrectable | .scheduleSkew
  | .scaleSkew | .seqWatchdog | .cellParity | .dotResidue | .dramUncorrectable | .regionLost | .pageShared | .poolExhausted
  | .seqTooLong => true
  | _ => false

/-- Opcodes (Table 11-4). -/
def DescOpcode (o : DescOp) : Nat :=
  match o with
  | .nop => 0x00 | .scanArm _ => 0x01 | .scanDisarm _ => 0x02 | .calRun _ => 0x03 | .imageRead _ _ => 0x10 | .seqStep _ _ => 0x11
  | .tailorStep _ _ => 0x12 | .planLoad _ => 0x20 | .planUnload _ => 0x21 | .wardrobePin _ => 0x22 | .ptEdit _ => 0x30
  | .pegWait _ => 0x40 | .pegSignal _ => 0x41 | .foldOpen => 0x48 | .foldClose _ => 0x49 | .snapshot _ => 0x50
  | .windowOpen _ => 0x60 | .windowClose _ => 0x61 | .twinDma _ _ => 0x62 | .testRun _ => 0x70 | .unknown n => n

/-- Opcodes of the PF alone (Table 11-1). -/
def pfOnly (o : DescOp) : Bool :=
  match o with
  | .scanArm _ | .scanDisarm _ | .calRun _ | .windowOpen _ | .windowClose _ | .twinDma _ _ | .testRun _ => true
  | _ => false

/-- Opcodes that may be members of a fold (Table 11-4). A TAILOR_STEP is foldable with flag [0], the tailoring commit. -/
def foldable (o : DescOp) : Bool :=
  match o with
  | .nop | .imageRead _ _ | .seqStep _ _ | .ptEdit _ | .pegSignal _ | .windowOpen _ => true
  | .tailorStep o _ => bitAt o.flags 0
  | _ => false

/-- Descriptors that become jobs (R298, R299). -/
def jobDesc (o : DescOp) : Bool :=
  match o with
  | .imageRead _ _ | .seqStep _ _ | .tailorStep _ _ => true
  | .testRun o => decide (o.test ≤ 3)
  | _ => false

/-- Opcodes available before S6 (Table 18-8). -/
def earlyOpcode (o : DescOp) : Bool :=
  match o with
  | .nop | .calRun _ | .scanArm _ | .scanDisarm _ => true
  | _ => false

/-- Class of a health-log kind (Table 17-7): 0 CORRECTED, 1 CONTAINED, 2 REGION, 3 DEVICE. -/
def healthClass (kind : Nat) : Nat :=
  if kind ∈ [2, 4, 5, 6, 7, 8, 9, 11, 14, 15] then 1 else if kind ∈ [10, 12] then 2 else if kind = 24 then 3 else 0

/-- Priority class in force of a class byte: 0 is run as PROMPT (R254). -/
def runClass (c : Nat) : Nat := if c = 0 then 1 else c

end Sys2Proof.Machine
end

