-- ==== Sys2Proof/Machine/Sparse.lean ====
section
/-! DEFINITION. Sparse storage: a list of (key, value) pairs with rising keys that lists no key holding the value an unlisted
key reads as. Memory, pegs, counters, registers and page counts are kept this way, so that equal contents are equal data. -/

namespace Sys2Proof.Machine

open Sys2Proof

variable {α : Type} [DecidableEq α]

/-- The value listed for a key. -/
def smFind : List (Nat × α) → Nat → Option α
  | [], _ => none
  | (k, v) :: m, x => if k = x then some v else smFind m x

/-- The value of a key; unlisted keys read `d`. -/
def smGet (d : α) (m : List (Nat × α)) (k : Nat) : α := (smFind m k).getD d

/-- Unlist a key. -/
def smErase : List (Nat × α) → Nat → List (Nat × α)
  | [], _ => []
  | (k, v) :: m, x => if k = x then smErase m x else (k, v) :: smErase m x

/-- List a key with a value, in key order. -/
def smInsert : List (Nat × α) → Nat → α → List (Nat × α)
  | [], x, w => [(x, w)]
  | (k, v) :: m, x, w =>
    if x < k then (x, w) :: (k, v) :: m
    else if x = k then (x, w) :: m
    else (k, v) :: smInsert m x w

/-- Write a key: the value an unlisted key reads as is not listed. -/
def smSet (d : α) (m : List (Nat × α)) (k : Nat) (v : α) : List (Nat × α) :=
  if v = d then smErase m k else smInsert m k v

/-- Strictly rising keys. -/
def smSorted : List (Nat × α) → Bool
  | [] => true
  | [_] => true
  | (k, _) :: (l, w) :: m => decide (k < l) && smSorted ((l, w) :: m)

/-- The canonical form: strictly rising keys, no key listed with the unlisted value. -/
def smWf (d : α) (m : List (Nat × α)) : Bool := smSorted m && m.all fun c => decide (c.2 ≠ d)

/-- Write consecutive keys from `k`. -/
def smSetList (d : α) (m : List (Nat × α)) (k : Nat) : List α → List (Nat × α)
  | [] => m
  | v :: vs => smSetList d (smSet d m k v) (k + 1) vs

/-- Read `n` consecutive keys from `k`. -/
def smGetList (d : α) (m : List (Nat × α)) (k n : Nat) : List α := (List.range n).map fun i => smGet d m (k + i)

/-- The canonical form of the tile store's memory: what an unlisted byte reads as is 0 (R143). -/
abbrev Memory.wf (m : List Host.Cell) : Prop := smWf (0 : Byte) m = true

/-- Read one byte of the tile store. -/
def memByte (m : List Host.Cell) (a : Nat) : Byte := smGet (0 : Byte) m a

/-- Read `n` bytes of the tile store. -/
def memRead (m : List Host.Cell) (a n : Nat) : List Byte := smGetList (0 : Byte) m a n

/-- Write bytes to the tile store. -/
def memWrite (m : List Host.Cell) (a : Nat) (bs : List Byte) : List Host.Cell := smSetList (0 : Byte) m a bs

end Sys2Proof.Machine
end

