-- ==== Sys2Proof/Machine/Registers.lean ====
section
/-! DEFINITION. The set-up register map of chapter 20: every writable register with its width, its fields' mask, its reset
value and its stated ranges, and the named fields read from it. A register is keyed by function and BAR0 offset. -/

namespace Sys2Proof.Machine

open Sys2Proof

/-- Registers with a behaviour of their own beside holding a value. -/
inductive RegAct where
  | plain | ro | hifStatus | recCtrl | vfEnable | ringCtrl | kick | pegCount | lpStatus | setupCtrl | dictCtrl | twinCfg | twinStatus
  | twinCtrl | attestCtrl | updateCtrl | healthStatus | regionCtrl | logCtrl | pwrTrip | pwrCtrl | msixCtrl
deriving DecidableEq, Repr

/-- A register: width in bytes, writable bits, reset value, the check of its fields' ranges (R468), PF only, behaviour. -/
structure RegSpec where
  bytes : Nat
  mask : Nat
  reset : Nat
  ok : Nat → Bool
  pf : Bool
  act : RegAct

/-- A plain register of 4 bytes. -/
def rw32 (mask reset : Nat) (ok : Nat → Bool := fun _ => true) (pf : Bool := true) : Option RegSpec :=
  some { bytes := 4, mask := mask, reset := reset, ok := ok, pf := pf, act := .plain }

/-- A plain register of 8 bytes. -/
def rw64 (mask reset : Nat) (ok : Nat → Bool := fun _ => true) (pf : Bool := true) : Option RegSpec :=
  some { bytes := 8, mask := mask, reset := reset, ok := ok, pf := pf, act := .plain }

/-- A register with a behaviour of its own. -/
def actReg (act : RegAct) (mask reset : Nat) (ok : Nat → Bool := fun _ => true) (pf : Bool := true) : Option RegSpec :=
  some { bytes := 4, mask := mask, reset := reset, ok := ok, pf := pf, act := act }

/-- All bits of 64 from bit `lo` up: address fields. -/
def from64 (lo : Nat) : Nat := 2 ^ 64 - 2 ^ lo

/-- Is a field within its range? -/
def rng (v hi lo a b : Nat) : Bool := decide (a ≤ bitsOf v hi lo ∧ bitsOf v hi lo ≤ b)

/-- HIF_ (Table 20-3). -/
def hifSpec (o : Nat) : Option RegSpec :=
  if o = 0x00 then actReg .hifStatus 3 0 (pf := false)
  else if o = 0x04 then rw32 0x3F 0 (pf := false)
  else if o = 0x08 then rw64 (from64 6) 0 (pf := false)
  else if o = 0x10 then rw64 (from64 12) 0 (pf := false)
  else if o = 0x18 then rw32 0x3F 24 (fun v => rng v 5 0 24 32) false
  else if o = 0x1C then actReg .recCtrl 1 0 (pf := false)
  else if o = 0x20 ∨ o = 0x28 then rw64 (from64 3) 0 (pf := false)
  else if o = 0x30 then rw32 0x3F 0 (pf := false)
  else if o = 0x34 then rw32 1 0 (pf := false)
  else if o = 0x40 then rw32 0x1FFFF 10000 (fun v => rng v 16 0 250 100000 && bitsOf v 16 0 % 10 == 0)
  else if o = 0x44 then actReg .vfEnable 0xFFFE 0
  else if 0x80 ≤ o ∧ o < 0xC0 ∧ o % 4 = 0 then rw32 0xFFFFF 20000 (fun v => rng v 19 0 1 1000000)
  else none

/-- RING_ (Table 20-4). -/
def ringSpec (o : Nat) : Option RegSpec :=
  if o = 0x400 then actReg .kick 0xFFFFFFFF 0 (pf := false)
  else if o < 0x200 then
    let q := o % 0x40
    if q = 0x00 then actReg .ringCtrl 1 0 (pf := false)
    else if q = 0x04 ∨ q = 0x24 then actReg .ro 0 0 (pf := false)
    else if q = 0x08 then rw32 0xF 4 (fun v => rng v 3 0 4 12) false
    else if q = 0x0C then rw32 0x3F 0 (pf := false)
    else if q = 0x10 ∨ q = 0x18 then rw64 (from64 12) 0 (pf := false)
    else if q = 0x20 then rw32 0xFFFFFFFF 0 (pf := false)
    else none
  else none

/-- PEG_ (Table 20-5). -/
def pegSpec (o : Nat) : Option RegSpec :=
  if o < 0x40 ∧ o % 4 = 0 then rw32 0x1FFF 0 (fun v => rng v 12 0 512 8191)
  else if o < 0x80 ∧ o % 4 = 0 then actReg .pegCount 0x1FFF 0 (fun v => rng v 12 0 0 7680)
  else none

/-- LP_ (Table 20-6). -/
def lpSpec (o : Nat) : Option RegSpec :=
  if o < 0x400 then
    let q := o % 0x100
    if q = 0x00 then rw32 0x13FFF 8191
    else if q = 0x04 then rw32 0xFF03 0x2802 (fun v => rng v 1 0 0 2 && rng v 15 8 8 40)
    else if q = 0x08 then rw32 0x3F3F3F 0x100800
    else if q = 0x0C then rw32 0xFF0F 0x1002 (fun v => rng v 3 0 1 15 && rng v 15 8 1 255)
    else if q = 0x10 then actReg .lpStatus 6 0
    else if q = 0x20 then actReg .setupCtrl 0xFF0F 0x0801 (fun v => rng v 3 0 1 8 && rng v 15 8 8 255)
    else if q = 0x28 then rw64 (2 ^ 64 - 1) 0
    else if q = 0x30 then some { bytes := 8, mask := 0, reset := 0, ok := fun _ => true, pf := true, act := .ro }
    else none
  else if o = 0x400 then rw32 0x7777 0x7564
  else if o = 0x404 then rw32 0x0F0F 0 (fun v => rng v 2 0 0 4 && rng v 10 8 0 4)
  else if o = 0x408 then rw32 0xFF07 0x0804 (fun v => rng v 15 8 1 255)
  else if o = 0x440 ∨ o = 0x480 then rw32 0x1FFFF 64000 (fun v => rng v 16 0 1 64000)
  else if o = 0x444 ∨ o = 0x484 then rw32 0xFFFFFFFF 0x10000 (fun v => rng v 31 16 1 65535)
  else if o = 0x448 ∨ o = 0x488 then rw32 0xFFF 0
  else if o = 0x44C ∨ o = 0x48C then rw32 0xFFFF 1024
  else if o = 0x450 ∨ o = 0x490 then some { bytes := 8, mask := 0, reset := 0, ok := fun _ => true, pf := true, act := .ro }
  else none

/-- CND_ (Tables 03-1 and 20-7). -/
def cndSpec (o : Nat) : Option RegSpec :=
  if o < 0x400 then
    let q := o % 0x100
    if q = 0x00 then rw32 0xFF 0x78
    else if q = 0x08 then rw64 0x0FFF00FF0FFF3FFF (24 + 8 * 2 ^ 8 + 64 * 2 ^ 16 + 8 * 2 ^ 32 + 512 * 2 ^ 48)
      (fun v => rng v 7 0 1 255 && rng v 13 8 1 63 && rng v 27 16 1 4095 && rng v 39 32 1 255 && rng v 59 48 1 4095)
    else if q = 0x10 then rw32 0x0FFFFFFF (512 + 2 * 2 ^ 12 + 64 * 2 ^ 16)
      (fun v => rng v 11 0 16 2048 && rng v 15 12 1 15 && rng v 27 16 16 4095)
    else if q = 0x14 then rw32 0x7FFFFF (13 + 64 * 2 ^ 8 + 8 * 2 ^ 16)
      (fun v => rng v 7 0 1 255 && rng v 15 8 1 255 && rng v 22 16 4 64)
    else if q = 0x18 ∨ q = 0x1C ∨ q = 0x20 then rw32 0xFFFF 0x8000 (fun v => rng v 15 0 1 65535)
    else if q = 0x24 then rw32 0x3FF 0 (fun v => rng v 9 0 0 512)
    else if q = 0x28 then rw32 0xFF 16
    else if q = 0x2C then rw32 0x7F37 (16 + 75 * 256) (fun v => rng v 5 4 0 2 && rng v 14 8 1 100)
    else if q = 0x30 then rw32 0xFFFFFF3F (31 + 40 * 2 ^ 8 + 64 * 2 ^ 16 + 224 * 2 ^ 24)
      (fun v => rng v 5 0 15 63 && bitsOf v 5 0 % 2 == 1 && decide (bitsOf v 23 16 ≤ bitsOf v 31 24))
    else none
  else if o = 0x400 ∨ o = 0x404 then rw32 0xFFFF 16384 (fun v => rng v 15 0 1 65535)
  else none

/-- SCHED_ (Table 20-9). -/
def schedSpec (o : Nat) : Option RegSpec :=
  if o = 0x00 ∨ o = 0x04 then rw32 0xFFFF 0
  else if o = 0x08 then rw32 0x3FF 16
  else if o = 0x0C then rw32 0x7FF 1024 (fun v => rng v 10 0 0 1536 && bitsOf v 10 0 % 16 == 0)
  else if o = 0x10 ∨ o = 0x14 then rw32 0xFFFFFFFF 0
  else if o = 0x18 then rw32 0x1F1F1F1F 16
    (fun v => decide (bitsOf v 4 0 + bitsOf v 12 8 + bitsOf v 20 16 + bitsOf v 28 24 ≤ 16))
  else if o = 0x1C then rw32 0xFFFFFFFF (64 + 32 * 2 ^ 8 + 96 * 2 ^ 16 + 8 * 2 ^ 24) (fun v => rng v 15 8 16 255)
  else if o = 0x20 then rw32 0xFFFFFFFF (3584 + 2560 * 2 ^ 16)
  else if o = 0x24 then rw32 0xFFFF 0
  else if o = 0x28 then rw32 0xFFF 2048 (fun v => rng v 11 0 0 2048)
  else if o = 0x40 then rw32 0x1FF 384
  else if 0x40 < o ∧ o < 0x80 ∧ o % 4 = 0 then rw32 0x1FF 0
  else none

/-- SEQ_ (Table 20-10). -/
def seqSpec (o : Nat) : Option RegSpec :=
  if o = 0x00 then rw32 0xFF1F (13 + 128 * 256) (fun v => rng v 4 0 10 16 && rng v 15 8 1 128)
  else if o = 0x10 then rw64 (from64 5) 0
  else if o = 0x18 then rw32 0x7FFFFF 0
  else if o = 0x1C then actReg .dictCtrl 1 0
  else if o = 0x04 ∨ o = 0x08 ∨ o = 0x0C ∨ o = 0x20 then actReg .ro 0 0 (pf := false)
  else none

/-- SEC_ (Table 20-11). -/
def secSpec (o : Nat) : Option RegSpec :=
  if o = 0x00 ∨ o = 0x04 ∨ o = 0x54 then actReg .ro 0 0 (pf := false)
  else if o = 0x20 ∨ o = 0x28 ∨ o = 0x30 ∨ o = 0x38 ∨ o = 0x40 then rw64 (2 ^ 64 - 1) 0 (pf := false)
  else if o = 0x48 ∨ o = 0x4C then rw32 0xFFFFFFFF 0 (pf := false)
  else if o = 0x50 then actReg .attestCtrl 1 0 (pf := false)
  else if o = 0x80 then rw64 (2 ^ 64 - 1) 0
  else if o = 0x88 then rw32 0xFFFFFFFF 0
  else if o = 0x8C then actReg .updateCtrl 0xF7 0
  else if o = 0x90 then actReg .ro 0 0
  else none

/-- HEALTH_ (Table 20-12). -/
def healthSpec (o : Nat) : Option RegSpec :=
  if o = 0x00 then actReg .healthStatus 1 0
  else if o = 0x04 then rw32 0xFFFF000F (2 + 1000 * 2 ^ 16) (fun v => rng v 3 0 1 15 && rng v 31 16 1 65535)
  else if o = 0x08 then rw32 0xF 3 (fun v => rng v 3 0 1 15)
  else if o = 0x0C then rw32 0xFFFF 600 (fun v => rng v 15 0 1 65535)
  else if o = 0x10 then actReg .regionCtrl 0xFFFF 0
  else if o = 0x14 ∨ o = 0x38 then actReg .ro 0 0
  else if o = 0x20 then rw64 (from64 12) 0
  else if o = 0x28 then rw32 0x1F 12 (fun v => rng v 4 0 12 24)
  else if o = 0x2C then actReg .logCtrl 1 0
  else if o = 0x30 then rw64 (from64 2) 0
  else none

/-- The MSI-X table (R465): message address, data and vector control of 64 entries. -/
def msixSpec (o : Nat) : Option RegSpec :=
  if o < 0x400 then
    if o % 16 = 0 then rw64 (from64 2) 0 (pf := false)
    else if o % 16 = 8 then rw32 0xFFFFFFFF 0 (pf := false)
    else if o % 16 = 12 then actReg .msixCtrl 1 1 (pf := false)
    else none
  else none

/-- The register at a BAR0 offset of the PF (Table 20-1). -/
def regSpec (off : Nat) : Option RegSpec :=
  if off = 0x204 then actReg .pwrTrip 0x73 0
  else if off = 0x208 then actReg .pwrCtrl 1 0
  else if off < 0x1000 then none
  else if off < 0x2000 then hifSpec (off - 0x1000)
  else if off < 0x3000 then ringSpec (off - 0x2000)
  else if off < 0x4000 then pegSpec (off - 0x3000)
  else if off < 0x10000 then none
  else if off < 0x11000 then lpSpec (off - 0x10000)
  else if off < 0x12000 then cndSpec (off - 0x11000)
  else if off < 0x20000 then none
  else if off = 0x20018 then rw32 0xFFFFFF 0
  else if off = 0x21004 then rw32 0x3FF 10 (fun v => rng v 9 0 1 1000)
  else if off = 0x21008 then rw32 0xFFFF 0
  else if off < 0x22000 then none
  else if off < 0x23000 then schedSpec (off - 0x22000)
  else if off < 0x24000 then seqSpec (off - 0x23000)
  else if off = 0x30000 then rw32 0xFF 16 (fun v => rng v 7 0 2 255)
  else if off = 0x30004 then rw32 0xFF 0
  else if off = 0x31000 then actReg .twinCfg 7 0
  else if off = 0x31004 then actReg .twinStatus 0x700 0
  else if off = 0x31008 then actReg .twinCtrl 1 0
  else if off < 0x40000 then none
  else if off < 0x41000 then secSpec (off - 0x40000)
  else if off < 0x50000 then none
  else if off < 0x51000 then healthSpec (off - 0x50000)
  else if 0x80000 ≤ off ∧ off < 0x81000 then msixSpec (off - 0x80000)
  else none

/-- The key of a function's register. -/
def regKey (fn off : Nat) : Nat := fn * 0x100000 + off

/-- The reset value of a register (the Reset columns of chapter 20; a reserved offset reads 0, R11). -/
def regReset (off : Nat) : Nat := match regSpec off with
  | some r => r.reset
  | none => 0

/-- The value a register holds. -/
def regGet (s : State) (fn off : Nat) : Nat :=
  match smFind s.regs (regKey fn off) with
  | some v => v.toNat
  | none => regReset off

/-- Set a register, keeping only values other than the reset value listed. -/
def regSet (s : State) (fn off v : Nat) : State :=
  { s with regs := if v = regReset off then smErase s.regs (regKey fn off)
                   else smInsert s.regs (regKey fn off) (BitVec.ofNat 64 v) }

/-! ### Named fields -/

def evVector (s : State) (fn : Nat) : Nat := regGet s fn 0x1004
def doorbellAddr (s : State) (fn : Nat) : Nat := regGet s fn 0x1008
def recBase (s : State) (fn : Nat) : Nat := regGet s fn 0x1010
def recSize (s : State) (fn : Nat) : Nat := 2 ^ regGet s fn 0x1018
def recTailAddr (s : State) (fn : Nat) : Nat := regGet s fn 0x1020
def recHeadAddr (s : State) (fn : Nat) : Nat := regGet s fn 0x1028
def recVector (s : State) (fn : Nat) : Nat := regGet s fn 0x1030
def recIrq (s : State) (fn : Nat) : Bool := bitAt (regGet s fn 0x1034) 0
def pollNs (s : State) : Nat := regGet s 0 0x1040
def imgRatio (s : State) (fn : Nat) : Nat := regGet s 0 (0x1080 + 4 * fn)

def ringOff (p o : Nat) : Nat := 0x2000 + 0x40 * p + o
def ringN (s : State) (r : RingRef) : Nat := 2 ^ regGet s r.fn.val (ringOff r.pair.val 0x08)
def ringVector (s : State) (r : RingRef) : Nat := regGet s r.fn.val (ringOff r.pair.val 0x0C)
def sqBase (s : State) (r : RingRef) : Nat := regGet s r.fn.val (ringOff r.pair.val 0x10)
def cqBase (s : State) (r : RingRef) : Nat := regGet s r.fn.val (ringOff r.pair.val 0x18)
def irqCount (s : State) (r : RingRef) : Nat := bitsOf (regGet s r.fn.val (ringOff r.pair.val 0x20)) 11 0
def irqTimeNs (s : State) (r : RingRef) : Nat := bitsOf (regGet s r.fn.val (ringOff r.pair.val 0x20)) 31 12

def lpReg (s : State) (p : Port) (o : Nat) : Nat := regGet s 0 (0x10000 + 0x100 * p.val + o)
def cndReg (s : State) (p : Port) (o : Nat) : Nat := regGet s 0 (0x11000 + 0x100 * p.val + o)
def lpMap (s : State) : Nat := regGet s 0 0x10400
def trackReg (s : State) (t : Track) (o : Nat) : Nat := regGet s 0 ((match t with | .A => 0x10440 | .B => 0x10480) + o)
def lmaxLines (s : State) (t : Track) : Nat := regGet s 0 (match t with | .A => 0x11400 | .B => 0x11404)

def throttleCap (s : State) (g : Nat) : Nat := bitsOf (regGet s 0 0x20018) (3 * g + 2) (3 * g)
def scrubRelease (s : State) (fn : Nat) : Bool := bitAt (regGet s 0 0x21008) fn
def dueLines (s : State) (t : Track) : Nat := regGet s 0 (match t with | .A => 0x22000 | .B => 0x22004)
def monitorMargin (s : State) : Nat := regGet s 0 0x22008
def wardrobeRows (s : State) : Nat := regGet s 0 0x2200C
def wayOwner (s : State) (v : Nat) : Nat := bitsOf (regGet s 0 0x22010) (2 * v + 1) (2 * v)
def fnClass (s : State) (fn : Nat) : Nat := bitsOf (regGet s 0 0x22014) (2 * fn + 1) (2 * fn)
def dramShare (s : State) (k : Nat) : Nat := bitsOf (regGet s 0 0x22018) (8 * k + 4) (8 * k)
def carve (s : State) (i : Nat) : Nat := bitsOf (regGet s 0 0x2201C) (8 * i + 7) (8 * i) * 64
def tsGrantMiB (s : State) (fn : Nat) : Nat := regGet s 0 (0x22040 + 4 * fn)
def epochMiB (s : State) : Nat := regGet s 0 0x22028

def pageBytes (s : State) : Nat := 2 ^ bitsOf (regGet s 0 0x23000) 4 0
def poolAreaMiB (s : State) : Nat := bitsOf (regGet s 0 0x23000) 15 8 * 64

/-- High-water and low-water marks of the basket in MiB, clamped (R336). -/
def basketHigh (s : State) : Nat := min (bitsOf (regGet s 0 0x22020) 15 0) (carve s 0 - 64)
def basketLow (s : State) : Nat := min (bitsOf (regGet s 0 0x22020) 31 16) (basketHigh s - 64)

/-- Staging in bytes (R343): the register in MiB, or the whole free remainder of the 24 GiB when it is 0. -/
def stageBytes (s : State) : Nat :=
  let r := regGet s 0 0x22024
  let used := carve s 0 + carve s 1 + carve s 2 + carve s 3 + poolAreaMiB s + epochMiB s
  1048576 * (if r = 0 then 24 * 1024 - used else r)

def tileFailLimit (s : State) : Nat := bitsOf (regGet s 0 0x50004) 3 0
def tileWindowMs (s : State) : Nat := bitsOf (regGet s 0 0x50004) 31 16
def darnThreshold (s : State) : Nat := regGet s 0 0x50008
def lintPeriodS (s : State) : Nat := regGet s 0 0x5000C
def healthBase (s : State) : Nat := regGet s 0 0x50020
def healthSize (s : State) : Nat := 2 ^ regGet s 0 0x50028
def alertMask (s : State) : Nat := regGet s 0 0x30004

def twinEnabled (s : State) : Bool := bitAt (regGet s 0 0x31000) 0
def twinUnit (s : State) : Bool := bitAt (regGet s 0 0x31000) 1
def twinRole (s : State) : Bool := bitAt (regGet s 0 0x31000) 2

end Sys2Proof.Machine
end

