-- ==== Sys2Proof/Machine/Ops.lean ====
section
/-! DEFINITION. Named operations over the state that the families share: access to functions, rings, ports and tracks, free
values, outputs, counters (R455), MSI-X (R283), completions (R284, R288, R293), the health log (R431), pegs (R305), and the
levels that the spec defines as functions of the state. -/

namespace Sys2Proof.Machine

open Sys2Proof

/-! ### Access -/

/-- The fabric time base as a number (R441). -/
def State.now (s : State) : Nat := s.clk.timeBase.toNat

def State.fnOf (s : State) (f : Fn) : FnState := s.fns[f.val]

def State.modFn (s : State) (f : Fn) (g : FnState → FnState) : State := { s with fns := s.fns.set f.val (g s.fns[f.val]) }

def State.ring (s : State) (r : RingRef) : RingPair := (s.fnOf r.fn).rings[r.pair.val]

def State.modRing (s : State) (r : RingRef) (g : RingPair → RingPair) : State :=
  s.modFn r.fn fun f => { f with rings := f.rings.set r.pair.val (g f.rings[r.pair.val]) }

def State.lp (s : State) (p : Port) : PortState := s.ports[p.val]

def State.modPort (s : State) (p : Port) (g : PortState → PortState) : State :=
  { s with ports := s.ports.set p.val (g s.ports[p.val]) }

def State.track (s : State) (t : Track) : TrackState := match t with | .A => s.trackA | .B => s.trackB

def State.modTrack (s : State) (t : Track) (g : TrackState → TrackState) : State :=
  match t with | .A => { s with trackA := g s.trackA } | .B => { s with trackB := g s.trackB }

def State.reg8 (s : State) (g : Region) : RegionSt := s.regions[g.val]

def State.modRegion (s : State) (g : Region) (h : RegionSt → RegionSt) : State :=
  { s with regions := s.regions.set g.val (h s.regions[g.val]) }

/-- A tile by its number (R90: tile t lies in region t / 32); numbers from 256 up read tile 255. -/
def State.tile (s : State) (t : Nat) : TileSt := (s.reg8 (Fin.ofNat 8 (t / 32))).tiles[t % 32]

def State.modTile (s : State) (t : Nat) (h : TileSt → TileSt) : State :=
  s.modRegion (Fin.ofNat 8 (t / 32)) fun g => { g with tiles := g.tiles.set (t % 32) (h g.tiles[t % 32]) }

def allTracks : List Track := [.A, .B]
def allPorts : List Port := [0, 1, 2, 3]
def allFns : List Fn := [0, 1, 2, 3, 4, 5, 6, 7] ++ [8, 9, 10, 11, 12, 13, 14, 15]
def allPairs : List (Fin 8) := [0, 1, 2, 3, 4, 5, 6, 7]
def allRegions : List Region := [0, 1, 2, 3, 4, 5, 6, 7]
/-- The ring pair that a command or a register names, as it stands. -/
def State.ref (s : State) (i : RingId) : RingRef := { fn := i.fn, pair := i.pair, gen := (s.fnOf i.fn).rings[i.pair.val].gen }
/-- The pairs of a function, and every pair. -/
def fnRings (s : State) (f : Fn) : List RingRef := allPairs.map fun p => s.ref { fn := f, pair := p }
def allRings (s : State) : List RingRef := allFns.flatMap (fnRings s)

/-- Bit 0 for track A, 1 for track B, as the spec numbers tracks. -/
def trackNum : Track → Nat | .A => 0 | .B => 1
def trackOf (n : Nat) : Track := if n % 2 = 0 then .A else .B
def sideNum : Side → Nat | .front => 0 | .back => 1

/-- The armed port of a side. -/
def TrackState.portOf (t : TrackState) (sd : Side) : Option Port := match sd with | .front => t.front | .back => t.back
def TrackState.sides (t : TrackState) : List (Side × Port) :=
  (match t.front with | some p => [(Side.front, p)] | none => []) ++ (match t.back with | some p => [(Side.back, p)] | none => [])
def TrackState.portsOf (t : TrackState) : List Port := t.sides.map (·.2)

/-! ### Free values, outputs, counters -/

/-- Draw a free value: the counter of free values advances, so each draw is fresh (log 3). -/
def State.freeNat (s : State) : Nat × State :=
  (Config.freeNat s.clk.freeCtr, { s with clk := { s.clk with freeCtr := s.clk.freeCtr + 1 } })

def State.freeWord (s : State) : Word32 × State :=
  (Config.freeWord s.clk.freeCtr, { s with clk := { s.clk with freeCtr := s.clk.freeCtr + 1 } })

/-- The module sends something outside. -/
def State.emit (s : State) (o : Output) : State := { s with out := s.out ++ [o] }

/-- Counter families of Table 19-1. -/
def famTile : Nat := 0
def famRegion : Nat := 1
def famChip : Nat := 2
def famPort : Nat := 3

/-- The key of counter `idx` of an entry of a family (R456). -/
def cntKey (fam entry idx : Nat) : Nat := fam * 65536 + entry * 256 + idx

/-- A counter's value (R455). -/
def State.count (s : State) (fam entry idx : Nat) : Word64 := smGet (0 : Word64) s.cnt (cntKey fam entry idx)

/-- Count `n` events; counters wrap modulo 2^64 (R455). -/
def State.countN (s : State) (fam entry idx n : Nat) : State :=
  { s with cnt := smSet (0 : Word64) s.cnt (cntKey fam entry idx) (s.count fam entry idx + BitVec.ofNat 64 n) }

def State.chipCnt (s : State) (idx : Nat) (n : Nat := 1) : State := s.countN famChip 0 idx n
def State.portCnt (s : State) (p : Port) (idx : Nat) (n : Nat := 1) : State := s.countN famPort p.val idx n

/-- The port of a track that keeps the track's counts: its front port as armed, else as LP_MAP gives it (Table 19-2). -/
def State.frontPort (s : State) (t : Track) : Port :=
  match (s.track t).front with
  | some p => p
  | none => match allPorts.find? fun p => bitsOf (lpMap s) (4 * p.val + 1) (4 * p.val) == trackNum t with
    | some p => p
    | none => if t = .A then 0 else 2

/-- A write to host memory (R284). -/
def State.hostWrite (s : State) (fn : Fn) (addr : Nat) (bs : List Byte) : State :=
  (s.emit (.hostWrite fn addr bs)).chipCnt 40 bs.length

/-- A read of host memory is issued; its data arrive with a command (R280). -/
def State.hostRead (s : State) (fn : Fn) (addr len : Nat) : State :=
  (s.emit (.hostRead fn addr len)).chipCnt 39 len

/-! ### Interrupts (R283) -/

/-- Raise an MSI-X vector: a masked vector sets its pending bit. -/
def State.raiseVec (s : State) (fn : Fn) (vec : Nat) : State :=
  if vec ∈ (s.fnOf fn).masked then
    s.modFn fn fun f => { f with pendingBits := if vec ∈ f.pendingBits then f.pendingBits else f.pendingBits ++ [vec] }
  else s.emit (.msix fn vec)

/-- Raise the function's event vector. -/
def State.raiseEvent (s : State) (fn : Fn) : State := s.raiseVec fn (evVector s fn.val)

/-! ### Pegs -/

/-- A peg's value (R303). -/
def State.peg (s : State) (p : Nat) : Word32 := smGet (0 : Word32) s.pegs.val p

def State.setPeg (s : State) (p : Nat) (v : Word32) : State :=
  { s with pegs := { s.pegs with val := smSet (0 : Word32) s.pegs.val p v } }

def State.addPeg (s : State) (p : Nat) (v : Word32) : State := s.setPeg p (s.peg p + v)

/-- Ask for an add in the next control cycle (R307). -/
def State.laterPeg (s : State) (p : Nat) (v : Word32) : State :=
  { s with pegs := { s.pegs with later := s.pegs.later ++ [(p, v)] } }

/-- Does a peg lie in the function's grant (R304)? -/
def inGrant (s : State) (fn : Fn) (p : Nat) : Bool :=
  decide ((s.fnOf fn).pegBase ≤ p ∧ p < (s.fnOf fn).pegBase + (s.fnOf fn).pegCount)

/-- Pegs a function may wait on: its grant, and pegs 0 to 2 for the PF (R303, Table 11-1). -/
def mayWait (s : State) (fn : Fn) (p : Nat) : Bool := inGrant s fn p || (fn.val == 0 && decide (p ≤ 2))

/-- Has a peg reached a target (R306)? -/
def pegReached (peg v : Word32) : Bool := decide ((peg - v).toNat < 2 ^ 31)

/-! ### Completions -/

/-- The 32 bytes of a completion entry (Table 11-6). -/
def complBytes (c : Compl) (sqHead : Half) (phase : Bool) : List Byte :=
  leBytes 8 c.hdr.tag.toNat ++ leBytes 2 c.status.code ++ leBytes 2 sqHead.toNat ++
  leBytes 1 (b2n phase + 2 * b2n c.member + 4 * b2n c.arrived) ++ leBytes 1 c.opcode ++ leBytes 2 0 ++ detail16 c.detail

/-- Phase of the entry at counter `c` of a ring of `n` slots: 1 when c / n is even (R288). -/
def phaseAt (c n : Nat) : Bool := c / n % 2 == 0

/-- Is there room in the completion ring (R293)? -/
def cqRoom (s : State) (r : RingRef) : Bool :=
  decide (((s.ring r).cqTail - (s.ring r).cqHead).toNat < ringN s r)

/-- Interrupt moderation after an entry is written (R283): an IRQ flag or `count` unsignalled entries raise the vector now; else
the timer of `time_ns` runs from the first unsignalled entry. -/
def moderate (s : State) (r : RingRef) (irq : Bool) : State :=
  let n := (s.ring r).unsignalled + 1
  if irq || (decide (irqCount s r ≠ 0) && decide (irqCount s r ≤ n)) then
    (s.modRing r fun x => { x with unsignalled := 0, firstUnsig := none }).raiseVec r.fn (ringVector s r)
  else
    s.modRing r fun x => { x with unsignalled := n, firstUnsig := if x.firstUnsig.isSome then x.firstUnsig else some s.now }

/-- Drop the first running entry with a tag. -/
def dropTag (tag : Word64) : List (Word64 × Option Nat) → List (Word64 × Option Nat)
  | [] => []
  | e :: es => if e.1 = tag then es else e :: dropTag tag es

/-- Write a completion entry at the CQ tail; the peg add of flag [2] follows in the next control cycle (R307). -/
def writeCompl (s : State) (r : RingRef) (c : Compl) : State :=
  let rp := s.ring r
  let n := ringN s r
  let u := rp.cqTail.toNat
  let s := s.hostWrite r.fn (cqBase s r + 32 * (u % n)) (complBytes c rp.sqHead (phaseAt u n))
  let s := s.modRing r fun x => { x with cqTail := x.cqTail + 1, running := dropTag c.hdr.tag x.running }
  let s := if c.hdr.peg && inGrant s r.fn c.hdr.complPeg then s.laterPeg c.hdr.complPeg 1 else s
  moderate s r c.hdr.irq

/-- May the pair post and fetch, without a stop since (R294)? -/
def ringLive (s : State) (r : RingRef) : Bool := (s.ring r).enable && !(s.ring r).fault && (s.ring r).gen == r.gen

/-- A descriptor completes: the entry is written, held while the ring is full (R293), or discarded on a stopped pair (R294). -/
def postCompl (s : State) (r : RingRef) (c : Compl) : State :=
  if !ringLive s r then s
  else if cqRoom s r && (s.ring r).held.isEmpty then writeCompl s r c
  else s.modRing r fun x => { x with held := x.held ++ [c] }

/-- A plain completion. -/
def complete (s : State) (r : RingRef) (h : Hdr) (opcode : Nat) (st : Status) (detail : List Byte := []) : State :=
  postCompl s r { hdr := h, opcode := opcode, status := st, member := false, arrived := false, detail := detail }

/-- Write held completions while there is room (R293). -/
def flushHeld (s : State) (r : RingRef) : Nat → State
  | 0 => s
  | f + 1 =>
    match (s.ring r).held with
    | [] => s
    | c :: cs =>
      if ringLive s r && cqRoom s r then
        flushHeld (writeCompl (s.modRing r fun x => { x with held := cs }) r c) r f
      else s

/-! ### The peg file (R305) -/

/-- The completion of a PEG_WAIT (R307): opcode 0x40, the peg's value as detail. -/
def waitCompl (w : PegWaitSt) (v : Word32) (arrived : Bool) : Compl :=
  { hdr := w.hdr, opcode := 0x40, status := if arrived then .ok else .pegTimeout, member := false, arrived := arrived,
    detail := leBytes 4 v.toNat }

/-- Has a wait's timeout expired? -/
def waitExpired (s : State) (w : PegWaitSt) : Bool := match w.deadline with
  | some d => decide (d ≤ s.now)
  | none => false

/-- Judge one wait; a wait that has arrived does not time out. -/
def judgeWait (s : State) (w : PegWaitSt) : State :=
  if pegReached (s.peg w.peg) w.target then
    postCompl (s.modRing w.r fun x => { x with pegWait := false }) w.r (waitCompl w (s.peg w.peg) true)
  else if waitExpired s w then
    postCompl (s.modRing w.r fun x => { x with pegWait := false }) w.r (waitCompl w (s.peg w.peg) false)
  else { s with pegs := { s.pegs with waits := s.pegs.waits ++ [w] } }

/-- One arbitration of the peg file: SETs in the order given (function, then ring pair), ADDs summed, waits, timeouts (R305). -/
def pegArbitrate (s : State) (sets adds : List (Nat × Word32)) : State :=
  let adds := s.pegs.later ++ adds
  let ws := s.pegs.waits
  let s := { s with pegs := { s.pegs with later := [], waits := [] } }
  let s := sets.foldl (fun s u => s.setPeg u.1 u.2) s
  let s := adds.foldl (fun s u => s.addPeg u.1 u.2) s
  ws.foldl judgeWait s

/-! ### The health log (R431) -/

/-- An entry with nothing named. -/
def HealthEntry.of (kind arg : Nat) : HealthEntry :=
  { kind := kind, cls := healthClass kind, seq := 0, tb := 0, status := none, fn := none, tile := none, region := none, unit := none,
    addr := 0, arg := arg }

/-- The 32 bytes of an entry (Table 17-6). -/
def healthBytes (e : HealthEntry) (phase lost : Bool) : List Byte :=
  leBytes 2 e.kind ++ leBytes 1 e.cls ++ leBytes 1 (b2n phase + 2 * b2n lost) ++ leBytes 4 e.seq ++ leBytes 8 e.tb ++
  leBytes 2 ((e.status.map Status.code).getD 0) ++ leBytes 2 (e.fn.getD 0xFFFF) ++ leBytes 2 (e.tile.getD 0xFFFF) ++
  leBytes 1 (e.region.getD 0xFF) ++ leBytes 1 (e.unit.getD 0xFF) ++ leBytes 4 e.addr ++ leBytes 4 e.arg

/-- Has the health log room for an entry (R431)? -/
def healthRoom (s : State) : Bool :=
  s.health.logEnable &&
    decide ((BitVec.ofNat 32 s.health.count - s.health.head).toNat < healthSize s / 32)

/-- Log an entry. An entry without room is counted and marks the next one written. -/
def logHealth (s : State) (e0 : HealthEntry) : State :=
  let e := { e0 with cls := healthClass e0.kind, seq := s.health.seq, tb := s.now }
  let h := { s.health with seq := s.health.seq + 1 }
  let h := if e.cls ≥ 2 then { h with last := (h.last ++ [e]).drop (h.last.length + 1 - 16) } else h
  if healthRoom s then
    let n := healthSize s / 32
    let c := s.health.count
    let s := { s with health := { h with count := c + 1, lostFlag := false } }
    let s := s.hostWrite 0 (healthBase s + 32 * (c % n)) (healthBytes e (phaseAt c n) h.lostFlag)
    (s.laterPeg 2 1).raiseEvent 0
  else { s with health := { h with lost := h.lost + 1, lostFlag := true } }

/-! ### Levels that are functions of the state -/

/-- Number of set causes of FEED_HOLD as status-block bits [4:0] (Table 14-3, offset 20). -/
def Hold.bits (h : Hold) : Nat :=
  b2n h.window + 2 * b2n h.basket + 4 * b2n h.rate + 8 * b2n h.disarm + 16 * b2n h.twin

/-- FEED_HOLD of a track: the OR of its causes (R50); a fenced module releases it (R388), a standby too but for the twin cause (R386). -/
def feedHold (s : State) (t : Track) : Bool :=
  if s.twin.fenced then false
  else if s.twin.state = .standby then (s.track t).hold.twin
  else decide ((s.track t).hold.bits ≠ 0)

/-- Alert causes (Table 14-7). -/
def alertCauses (s : State) : Nat :=
  let ovr := fun t => allPorts.any fun p => (s.lp p).overrate && decide ((s.lp p).cfg.track = t)
  b2n (ovr .A) + 2 * b2n (ovr .B) + 4 * b2n (allPorts.any fun p => (s.lp p).unexpected) +
  8 * b2n (allPorts.any fun p => decide (16 ≤ (s.lp p).gapDiscards)) +
  16 * b2n (s.trackA.rateReq || s.trackB.rateReq) + 32 * b2n (s.health.alert || s.pwr.device) + 64 * b2n s.twin.takeover +
  128 * b2n (decide (s.boot.stage < 2))

/-- MACH_ALERT_N asserted: an unmasked cause stands (R376). -/
def machAlert (s : State) : Bool :=
  (List.range 8).any fun i => bitAt (alertCauses s) i && !bitAt (alertMask s) i

/-- Throttle level in force of a region (R109, Table 20-8). -/
def throttle (s : State) (g : Region) : Nat := max (s.reg8 g).thermal (throttleCap s g.val)

/-- A write of a function is ignored as a whole (R468). -/
def badWrite (s : State) (fn : Fn) : State := s.modFn fn fun f => { f with badWrite := true }

end Sys2Proof.Machine
end

