-- ==== Sys2Proof/Machine/TileStore.lean ====
section
/-! DEFINITION. The tile store (chapter 05): addresses and views, the wheel and latencies, error marks on words, context-relative
address checks, darning (R147, R425), the patrol scrub and darning commands. -/

namespace Sys2Proof.Machine

open Sys2Proof

/-! ### Addresses and views (R116, R119 to R122) -/

/-- A tile-store byte address (Table 05-1). -/
def tsAddr (tile row bank byte : Nat) : Nat := tile * 2 ^ 21 + row * 2 ^ 10 + bank * 32 + byte

def tsTile (a : Nat) : Nat := bitsOf a 28 21
def tsRow (a : Nat) : Nat := bitsOf a 20 10
def tsBank (a : Nat) : Nat := bitsOf a 9 5
def tsByte (a : Nat) : Nat := bitsOf a 4 0

/-- Addressable rows per bank (Table 05-2); rows from here to 2,047 are the hole. -/
def tsRows : Nat := 1536

/-- Does a physical address fall in the hole (R139)? -/
def inHole (a : Nat) : Bool := decide (tsRows ≤ tsRow a)

/-- Bank rows of one view row (R119). -/
def viewRows (w : Nat) : Nat := ceilDiv w 32

/-- Bank and bank row of element (r, c) of a view at base row `b`, `w` elements wide (R119). -/
def viewElem (b w r c : Nat) : Nat × Nat := ((r + c) % 32, b + r * viewRows w + c / 32)

/-- Slots a run takes: the largest number of its elements that share one bank (R120). -/
def runSlots (banks : List Nat) : Nat := maxNat ((List.range 32).map fun k => (banks.filter fun b => b % 32 == k).length)

/-- Slots of a strided run of 32 elements `s` apart (R121). -/
def stridedSlots (s : Nat) : Nat := Nat.gcd s 32

/-- The elements of a run, row and column of each. -/
def runElems (x : Run) : List (Nat × Nat) :=
  (List.range x.n).map fun k => if x.down then (x.r + k * x.s, x.c) else (x.r, x.c + k * x.s)

/-- Does a run stay in its view, with at most 32 elements at a spacing of 1 to 4,096 (R119 to R121)? -/
def runOk (v : View) (x : Run) : Bool :=
  decide (x.n ≤ 32 ∧ 1 ≤ x.s ∧ x.s ≤ 4096) && (runElems x).all fun e => decide (e.1 < v.h ∧ e.2 < v.w)

/-- Bank and bank row of each element of a run of a view. -/
def runPlaces (v : View) (x : Run) : List (Nat × Nat) := (runElems x).map fun e => viewElem v.base v.w e.1 e.2

/-- The slot of each element of a run after its first: the elements before it in the same bank (R120, R123). -/
def runOffsets (banks : List Nat) : List Nat :=
  (List.range banks.length).map fun k => ((banks.take k).filter fun b => b == banks.getD k 0).length

/-! ### Wheel and latency (R124, R131, R132) -/

/-- Owners of the wheel's slots (Table 05-4). -/
inductive SlotOwner where
  | cells | routerIn | routerOut | dma | feed | lintHost | scrub
deriving DecidableEq, Repr

def slotOwner (k : Nat) : SlotOwner :=
  if k < 10 then .cells else if k = 10 then .routerIn else if k = 11 then .routerOut else if k = 12 then .dma
  else if k = 13 then .feed else if k = 14 then .lintHost else .scrub

/-- The slot of a fabric cycle (R124). -/
def slotAt (tb : Nat) : Nat := tb % 16

/-- Mesh row and column of a tile (R104). -/
def meshRow (t : Nat) : Nat := t % 32 / 8
def meshCol (t : Nat) : Nat := t % 8

def absDiff (a b : Nat) : Nat := (a - b) + (b - a)

/-- Mesh hops between two tiles of a region. -/
def hops (a b : Nat) : Nat := absDiff (meshRow a) (meshRow b) + absDiff (meshCol a) (meshCol b)

/-- Hops from a tile to its region's ring port at row 0, column 3. -/
def portHops (t : Nat) : Nat := meshRow t + absDiff (meshCol t) 3

/-- Ring distance between regions. -/
def ringDist (a b : Nat) : Nat := min (absDiff a b) (8 - absDiff a b)

/-- Read latency in unstalled fabric cycles (Table 05-5). -/
def readLatency (a b : Nat) : Nat :=
  if a = b then 6
  else if a / 32 = b / 32 then 10 + 2 * hops a b
  else 34 + 4 * (ringDist (a / 32) (b / 32) - 1) + portHops a + portHops b

/-- Cycles from issue to arrival of a remote write over the mesh (R132). -/
def writeDelay (a b : Nat) : Nat := if a = b then 0 else 2 + 2 * hops a b

/-! ### Words and their errors (R133 to R135, R420) -/

/-- The key of a word and of a bank. -/
def wordKey (a : Nat) : Nat := a / 32
def bankKey (tile bank : Nat) : Nat := tile * 32 + bank
def bankOfWord (a : Nat) : Nat := bankKey (tsTile a) (tsBank a)

/-- The error mark of a word: 0 none, 1 correctable, 2 uncorrectable. -/
def markOf (s : State) (a : Nat) : Nat := smGet 0 s.store.marks (wordKey a)

def setMark (s : State) (a m : Nat) : State :=
  { s with store := { s.store with marks := smSet 0 s.store.marks (wordKey a) m } }

/-- Raise an address in a table of four (R420): a known address counts up; a new one replaces the lowest count, the oldest among
equals. The list is kept oldest first. -/
def raiseRecent (t : List (Nat × Nat)) (a : Nat) : List (Nat × Nat) :=
  if t.any fun e => e.1 == a then t.map fun e => if e.1 = a then (e.1, e.2 + 1) else e
  else if t.length < 4 then t ++ [(a, 1)]
  else
    let low := (t.drop 1).foldl (fun (m : Nat × Nat) e => if e.2 < m.2 then e else m) (t.headD (0, 0))
    (t.filter fun e => e.1 != low.1) ++ [(a, 1)]

def recentOf (s : State) (key : Nat) : List (Nat × Nat) := smGet [] s.store.recent key

/-- A corrected tile-store word is counted and its address recorded (R133, R420). -/
def noteCorrected (s : State) (a : Nat) : State :=
  let s := s.countN famTile (tsTile a) 10 1
  let k := bankOfWord a
  { s with store := { s.store with recent := smSet [] s.store.recent k (raiseRecent (recentOf s k) (wordKey a)) } }

/-- A corrected DRAM word: counted by pseudo-channel, logged as kind 13 at the threshold (R420). -/
def noteDramCorrected (s : State) (ch word : Nat) : State :=
  let s := s.countN famRegion (ch / 4) (30 + 8 * (ch % 4)) 1
  let k := 8192 + ch
  let t := raiseRecent (recentOf s k) word
  let s := { s with store := { s.store with recent := smSet [] s.store.recent k t } }
  if t.any fun e => e.1 == word && e.2 == darnThreshold s then
    logHealth s { HealthEntry.of 13 0 with unit := some ch, addr := word }
  else s

/-- An uncorrectable DRAM word: counted by pseudo-channel (Table 19-2). -/
def noteDramBad (s : State) (ch : Nat) : State := s.countN famRegion (ch / 4) (31 + 8 * (ch % 4)) 1

/-- Read the word at an address: its bytes and its mark; errors are counted as R133 and R134 lay down. -/
def readWord (s : State) (a : Nat) : List Byte × Nat × State :=
  let m := markOf s a
  let s := if m = 1 then noteCorrected s a else if m = 2 then s.countN famTile (tsTile a) 11 1 else s
  (memRead s.store.mem (32 * wordKey a) 32, m, s)

/-- Read `n` bytes from an address on, word by word, each word at the place that `at?` gives (none reads zeros): the bytes, the physical addresses of the
uncorrectable words among them, and the machine with its errors counted (R133, R134); fuel bounds the words. -/
def readVia (at? : Nat → Option Nat) (s : State) (a n : Nat) : Nat → List Byte × List Nat × State
  | 0 => ([], [], s)
  | f + 1 =>
    if n = 0 then ([], [], s)
    else
      let k := min n (32 - a % 32)
      match at? a with
      | none =>
        let t := readVia at? s (a + k) (n - k) f
        (zeros k ++ t.1, t.2)
      | some p =>
        let x := readWord s p
        let t := readVia at? x.2.2 (a + k) (n - k) f
        (slice x.1 (p % 32) k ++ t.1, (if x.2.1 = 2 then 32 * wordKey p :: t.2.1 else t.2.1), t.2.2)

/-- Read `n` bytes from a physical address. -/
def readBytes (s : State) (a n : Nat) : List Byte × List Nat × State := readVia some s a n (n + 1)

/-- Write bytes inside one word (R126, R135): a partial write over an uncorrectable word is not made; a whole-word write over one makes
its row due for darning (R425). The Bool tells whether the write was made. -/
def writeWord (s : State) (a : Nat) (bs : List Byte) : Bool × State :=
  let m := markOf s a
  if m = 2 ∧ bs.length < 32 then (false, s.countN famTile (tsTile a) 11 1)
  else
    let s := if m = 1 ∧ bs.length < 32 then noteCorrected s a else s
    let s := { s with store := { s.store with mem := memWrite s.store.mem a bs } }
    let s := if m = 0 then s else setMark s a 0
    (true, if m = 2 then
        { s with store := { s.store with due := s.store.due ++ [(bankOfWord a, tsRow a)] } }
      else s)

/-- Write a run of bytes from an address on, word by word, each word at the place that `at?` gives (none drops it); fuel bounds the words. The physical
addresses of the words whose partial write was refused (R135), and the machine. -/
def writeVia (at? : Nat → Option Nat) (s : State) (a : Nat) (bs : List Byte) : Nat → List Nat × State
  | 0 => ([], s)
  | f + 1 =>
    if bs.isEmpty then ([], s)
    else
      let n := 32 - a % 32
      match at? a with
      | none => writeVia at? s (a + n) (bs.drop n) f
      | some p =>
        let r := writeWord s p (bs.take n)
        let t := writeVia at? r.2 (a + n) (bs.drop n) f
        ((if r.1 then t.1 else 32 * wordKey p :: t.1), t.2)

/-- Write bytes to consecutive addresses; false when a partial write was refused. -/
def writeBytes (s : State) (a : Nat) (bs : List Byte) : Bool × State :=
  let r := writeVia some s a bs (bs.length + 1)
  (r.1.isEmpty, r.2)

/-! ### Context-relative accesses (R137 to R140) -/

/-- The tile set of a segment by region-free tile numbers. -/
abbrev TileSet := List Nat

/-- A context-relative place: its pair, tile, row, bank and byte. -/
structure RelPlace where
  weights : Bool
  tile : Nat
  row : Nat
  bank : Nat
  byteOff : Nat
deriving DecidableEq, Repr, Inhabited

/-- The place of a relative scratch address. -/
def placeOf (a : Nat) : RelPlace := { weights := false, tile := tsTile a, row := tsRow a, bank := tsBank a, byteOff := tsByte a }

/-- The address a place names, relative to its context (R140, Table 11-7). -/
def RelPlace.rel (x : RelPlace) : Nat := tsAddr x.tile x.row x.bank x.byteOff

/-- The physical row of a model's row over its ways, each of `n` rows. -/
def wayRow (ways : List Nat) (n row : Nat) : Nat := ways.getD (row / max 1 n) 0 * n + row % max 1 n

/-- The physical row of a row of the weights pair: row_base is the first row of the model's first way, and its ways follow one another in its rows
(R137; log 71). -/
def weightRow (c : CtxPairs) (row : Nat) : Nat := if c.wWays.isEmpty then row + c.wBase else wayRow c.wWays c.wRows row

/-- The physical address of a place through its pair (R138). -/
def RelPlace.phys (c : CtxPairs) (x : RelPlace) : Nat :=
  if x.weights then tsAddr ((x.tile + c.wShift) % 256) (weightRow c x.row) x.bank x.byteOff
  else tsAddr ((x.tile + c.sShift) % 256) (x.row + c.sBase) x.bank x.byteOff

/-- The address checks of Table 05-7 in order: the first that fails. -/
def RelPlace.check (c : CtxPairs) (set : TileSet) (write : Bool) (x : RelPlace) : Option Status :=
  if ¬ (x.row < if x.weights then c.wCount else c.sCount) then some .tsBound
  else if !x.weights && !(set.contains ((x.tile + c.sShift) % 256)) then some .tsBound
  else if x.weights && write then some .tsReadOnly
  else none

/-- The places of an access, in the order of its run (R119 to R122). -/
def accPlaces (x : Acc) : List RelPlace :=
  (runPlaces x.view x.run).map fun e => { weights := x.weights, tile := x.atile, row := e.2, bank := e.1, byteOff := x.byteOff }

/-! ### Darning (R147, R418, R425 to R427) -/

/-- Why a row is darned. -/
inductive DarnCause where
  | corrected | uncorrectable | march
deriving DecidableEq, Repr

/-- The first patch row of a bank that is neither used nor bad. -/
def freePatch (s : State) (bank : Nat) : Option Nat :=
  (List.range 32).find? fun p =>
    !(s.store.darn.any fun d => d.1 == bank && d.2.2 == p) && !(s.store.badPatch.any fun d => d.1 == bank && d.2 == p)

/-- Switch a row onto a patch row and log it as kind 1; its error counts clear, and correctable words are written corrected. -/
def doDarn (s : State) (tile bank row patch : Nat) : State :=
  let k := bankKey tile bank
  let word := wordKey (tsAddr tile row bank 0)
  let old := s.store.darn.find? fun d => d.1 == k && d.2.1 == row
  let st := s.store
  let st := { st with
    darn := (st.darn.filter fun d => !(d.1 == k && d.2.1 == row)) ++ [(k, row, patch)],
    badPatch := match old with | some d => st.badPatch ++ [(k, d.2.2)] | none => st.badPatch,
    recent := smSet [] st.recent k ((recentOf s k).filter fun e => e.1 != word),
    due := st.due.filter fun d => !(d.1 == k && d.2 == row),
    marks := if smGet 0 st.marks word = 1 then smSet 0 st.marks word 0 else st.marks }
  logHealth { s with store := st }
    { HealthEntry.of 1 patch with tile := some tile, region := some (tile / 32), unit := some bank, addr := tsAddr tile row bank 0 }

/-- The full table of a bank is logged once, as kind 3 (R425). -/
def logFull (s : State) (tile bank : Nat) : State :=
  let k := bankKey tile bank
  if k ∈ s.store.fullLogged then s
  else logHealth { s with store := { s.store with fullLogged := s.store.fullLogged ++ [k] } }
    { HealthEntry.of 3 0 with tile := some tile, region := some (tile / 32), unit := some bank }

/-- Darn a row. With no usable patch row, a corrected row stays in service and any other cause asks for the tile to fail; the Bool says
so. -/
def darnRow (s : State) (tile bank row : Nat) (c : DarnCause) : Bool × State :=
  match freePatch s (bankKey tile bank) with
  | some p => (false, doDarn s tile bank row p)
  | none => (decide (c ≠ .corrected), logFull s tile bank)

/-- Is a row at its corrected-error threshold (R420)? -/
def rowAtThreshold (s : State) (tile bank row : Nat) : Bool :=
  (recentOf s (bankKey tile bank)).any fun e => e.1 == wordKey (tsAddr tile row bank 0) && decide (darnThreshold s ≤ e.2)

/-- Is a row due because an uncorrectable word of it was overwritten (R425)? -/
def rowDue (s : State) (tile bank row : Nat) : Bool := s.store.due.any fun d => d.1 == bankKey tile bank && d.2 == row

end Sys2Proof.Machine
end

