-- ==== Sys2Proof/Machine/PlanQuery.lean ====
section
/-! DEFINITION. Questions about loaded plans: handles and their owners (R234, R282), stages, the paged decoder (R206, R208), the
per-step share of S (R248), and the wardrobe's ways (R268 to R271). -/

namespace Sys2Proof.Machine

open Sys2Proof

/-! ### Handles -/

/-- The loaded plan or companion with a handle. -/
def findPlan (s : State) (h : Nat) : Option PlanRec := s.plans.loaded.find? fun p => p.handle == h

/-- The plan a descriptor of a function may name: its own (R282), not a companion's (R251), loaded (R234), valid (R250), not being unloaded (R253). -/
def planOf (s : State) (fn : Fn) (h : Nat) : Option PlanRec :=
  match findPlan s h with
  | some p => if p.fn = fn ∧ p.main = p.handle ∧ p.ready ∧ ¬ p.invalid ∧ p.unload.isNone then some p else none
  | none => none

def modPlan (s : State) (h : Nat) (f : PlanRec → PlanRec) : State :=
  { s with plans := { s.plans with loaded := mapWhere (fun p => p.handle == h) f s.plans.loaded } }

/-- A plan as it was at a revision. -/
def planAt (p : PlanRec) (rev : Nat) : PlanRec :=
  match p.olds.find? fun o => o.revision == rev with
  | some o => { p with revision := rev, c := o.c, low := o.low, streamed := o.streamed }
  | none => p

/-- The plan of a job: one started before a relowering or a tailoring commit runs on what the plan was then (R250, R273). -/
def jobPlan (s : State) (j : Job) : Option PlanRec := (findPlan s j.plan).map fun p => if j.started then planAt p j.revision else p

/-! ### What a container holds -/

def hasStage (c : Container) (k : Nat) : Bool := c.stages.any fun st => st.kind == k

/-- ATTN operators with a paged key source (Table 09-15). -/
def pagedAttn (c : Container) : List OperRec := c.opers.filter fun o => o.kind == 0x11 && o.params.getD 5 0 == 1

/-- Does the plan have a paged decoder? -/
def paged (c : Container) : Bool := !(pagedAttn c).isEmpty

/-- The declared maximum length Lseq (R208). -/
def lseq (c : Container) : Nat := maxNat ((pagedAttn c).map fun o => o.params.getD 4 0)

/-- Layers of the paged decoder, numbered from 0. -/
def kvLayers (c : Container) : Nat := maxNat ((pagedAttn c).map fun o => o.params.getD 9 0 + 1)

/-- Page indices of a sequence: ⌈Lseq / 16⌉ (R208). -/
def pageSpan (c : Container) : Nat := ceilDiv (lseq c) 16

/-- A field of the TARGETS section (Table 09-13); 0 where there is none. -/
def target (c : Container) (i : Nat) : Nat := match c.targets with
  | some l => l.getD i 0
  | none => 0

/-- Maximum output tokens N_out. -/
def maxOut (c : Container) : Nat := target c 4

/-- The per-step share of S in ns: S / (N_out + 1) (R248). -/
def stepShare (p : PlanRec) : Nat := 1000 * p.S / (maxOut p.c + 1)

/-! ### Estimates of the lowering (R236, R241) -/

/-- The estimate of one segment of a chain in ns: its unstalled cycles, or in class 1 the time of its streamed slice at 256 GB/s when that is greater, one
boundary of 80 cycles and the fetch wait counted; before it the hem at the ring rate of 44.8 GB/s and its DMA at the rate of the region's pseudo-channels,
256 GB/s. -/
def chainSegNs (cls : Nat) (x : ChainSeg) : Nat :=
  max (cyclesToNs x.cycles) (if cls = 1 then ceilDiv x.slice 256 else 0) + cyclesToNs (80 + x.fetch) + ceilDiv (10 * x.hem) 448 + ceilDiv x.dma 256

/-- A stage estimate at a throughput class: the segments of its longest chain (R236, R241, R248). -/
def chainNs (cls : Nat) (xs : List ChainSeg) : Nat := sumNat (xs.map (chainSegNs cls))

def findNs (cls : Nat) (low : Lowering) : Nat := chainNs cls low.find
def readNs (cls : Nat) (low : Lowering) : Nat := chainNs cls low.read
def refillNs (p : PlanRec) : Nat := chainNs p.tputClass p.low.refill

/-- Bytes of a plan's slot programs, once (R238). -/
def progBytes (low : Lowering) : Nat := sumNat (low.programs.map fun p => p.bytes.length)

/-- Bytes of a batch's page tables and token logs for 1,024 sequences (R206). -/
def batchBytes (c : Container) : Nat := 1024 * (kvLayers c * pageSpan c * 4 + lseq c * 16)

/-! ### The wardrobe (R268 to R271) -/

/-- Rows and bytes of one way: W/16 rows on all 256 tiles. -/
def wayRows (s : State) : Nat := wardrobeRows s / 16
def wayBytes (s : State) : Nat := 16384 * wardrobeRows s

/-- Bytes of a container's weights, scale streams and tables (R239). -/
def containerModel (c : Container) : Nat := c.weights.length + c.scales.length + c.tables.length

/-- Bytes of a plan's model: what of its weights, scale streams and tables stays resident (R268, R273). -/
def modelBytes (p : PlanRec) : Nat := containerModel p.c - p.streamed

/-- Ways that a model needs; with no wardrobe none suffices. -/
def waysNeeded (s : State) (p : PlanRec) : Nat :=
  if modelBytes p = 0 then 0 else if wayBytes s = 0 then 17 else ceilDiv (modelBytes p) (wayBytes s)

/-- Ways owned by a client class (R269). -/
def classWays (s : State) (cls : Nat) : List Nat := (List.range 16).filter fun v => wayOwner s v == cls

/-- Ways that hold a model. -/
def usedWays (s : State) : List Nat := s.sched.models.flatMap (·.ways)

/-- The resident model of a plan at its revision in force. -/
def residentModel (s : State) (p : PlanRec) : Option ModelSt :=
  s.sched.models.find? fun m => m.plan == p.handle && m.revision == p.revision

/-- Is a plan's model resident? A plan without resident weights needs none. -/
def modelReady (s : State) (p : PlanRec) : Bool := modelBytes p == 0 || (residentModel s p).isSome

/-- Is a model in use: does a RUNNING job hold a weights pair in it? -/
def modelInUse (s : State) (m : ModelSt) : Bool :=
  s.sched.jobs.any fun j => (j.state == .running || j.state == .done) && j.plan == m.plan && j.revision == m.revision

/-- Is a plan the FEED plan named for an armed track (R271)? -/
def armedPlan (s : State) (h : Nat) : Bool := allTracks.any fun t => (s.track t).armed && !(s.track t).firstLight && (s.track t).plan == h

/-- Is a model pinned: by WARDROBE_PIN, as the companion of a loaded plan, or as the FEED plan of an armed track (R271)? -/
def modelPinned (s : State) (m : ModelSt) : Bool :=
  m.pinned || armedPlan s m.plan || (match findPlan s m.plan with
    | some p => p.main != p.handle
    | none => false)

/-- The client class of a plan's function. -/
def planClass (s : State) (p : PlanRec) : Nat := fnClass s p.fn.val

/-- Drop a model: its ways are free at once (R270). -/
def dropModel (s : State) (h : Nat) : State :=
  { s with sched := { s.sched with models := s.sched.models.filter fun m => m.plan != h } }

/-- The first `n` of the free ways of a class, a contiguous run of them when there is one (log 21). -/
def freeWays (s : State) (cls n : Nat) : Option (List Nat) :=
  let used := usedWays s
  let free := (classWays s cls).filter fun v => !used.contains v
  if free.length < n then none
  else match (List.range 16).find? fun v => (List.range n).all fun i => free.contains (v + i) with
    | some v => some ((List.range n).map (v + ·))
    | none => some (free.take n)

/-- Models of a class that may be evicted, least recently used first (R270). -/
def evictable (s : State) (cls : Nat) : List ModelSt :=
  let ms := s.sched.models.filter fun m => !modelPinned s m && !modelInUse s m && m.ways.any (fun v => wayOwner s v == cls)
  sortBy (fun a b => decide (a.useTime ≤ b.useTime)) ms

/-- Ways for a model, evicting as R270 lays down; none when no eviction frees enough. -/
def takeWays (s : State) (cls n : Nat) : List ModelSt → Option (List Nat × State)
  | [] => (freeWays s cls n).map fun w => (w, s)
  | m :: ms => match freeWays s cls n with
    | some w => some (w, s)
    | none => takeWays { s with sched := { s.sched with models := s.sched.models.filter fun x => x != m } } cls n ms

/-- Ways that pinned models of a class hold. -/
def pinnedWays (s : State) (cls : Nat) : Nat :=
  sumNat ((s.sched.models.filter (modelPinned s)).map fun m => (m.ways.filter fun v => wayOwner s v == cls).length)

/-- Do the ways of a class, less those of pinned models other than this plan's, suffice for it (R271)? -/
def pinFits (s : State) (p : PlanRec) : Bool :=
  let mine := sumNat ((s.sched.models.filter fun m => m.plan == p.handle && modelPinned s m).map fun m => m.ways.length)
  decide (waysNeeded s p + pinnedWays s (planClass s p) ≤ (classWays s (planClass s p)).length + mine)

/-- The physical address of an address relative to a model in its ways (log 71). -/
def modelPhys (ways : List Nat) (n a : Nat) : Nat := tsAddr (tsTile a) (wayRow ways n (tsRow a)) (tsBank a) (tsByte a)

/-- Write the bytes of a model that lie on the tiles in question as the loader placed them, through slot 12 (log 9); each word written stores new check
bits (R135). -/
def writeModel (s : State) (low : Lowering) (ways : List Nat) (on : Nat → Bool) : State :=
  low.image.foldl (fun s e =>
    (writeVia (fun a => if on (tsTile a) then some (modelPhys ways (wayRows s) a) else none) s e.1 e.2 (e.2.length + 1)).2) s

/-- Write the bytes of a plan's resident tables that lie on the tiles in question (Table 05-8). -/
def writeTables (s : State) (low : Lowering) (on : Nat → Bool) : State :=
  low.tables.foldl (fun s e =>
    (writeVia (fun a => if on (tsTile a) then some a else none) s e.1 e.2 (e.2.length + 1)).2) s

/-- Write a plan's slot programs to the program-store rows of the tiles in question: once in every region (R238, R239). -/
def writePrograms (s : State) (low : Lowering) (on : Nat → Bool) : State :=
  (List.range 8).foldl (fun s g => low.programs.foldl (fun s p =>
    (writeVia (fun a => if on (tsTile a) then some a else none) s (tsAddr (32 * g + p.tile) p.row 0 0) p.bytes (p.bytes.length + 1)).2) s) s

/-- Make a model resident in given ways (R270); its use time is now. -/
def placeModel (s : State) (p : PlanRec) (ways : List Nat) (pinned : Bool) : State :=
  let s := writeModel s p.low ways fun _ => true
  { s with sched := { s.sched with models := (s.sched.models.filter fun m => !(m.plan == p.handle && m.revision == p.revision)) ++
      [{ plan := p.handle, revision := p.revision, ways := ways, pinned := pinned, useTime := s.now }] } }

end Sys2Proof.Machine
end

