-- ==== Sys2Proof/Machine/Pool.lean ====
section
/-! DEFINITION. The key-value page pool: pages and their counts (R206, R209, R217), page-table entries (R208), page-table edits
(R213 to R216), and the ranking of sequences (R219). -/

namespace Sys2Proof.Machine

open Sys2Proof

/-- Is an entry PRESENT, ABSENT, PINNED (Table 08-6)? -/
def PtEntry.isPresent : PtEntry → Bool | .present _ _ => true | .absent => false
def PtEntry.isPinned : PtEntry → Bool | .present _ b => b | .absent => false
def PtEntry.pageNo : PtEntry → Option Nat | .present p _ => some p | .absent => none

/-! ### Pages -/

/-- Pages that remain for keys and values, at most 2^20 (R206; log 22). -/
def poolPages (s : State) : Nat := min (2 ^ 20) (1048576 * poolAreaMiB s / pageBytes s) - s.pool.taken

/-- Reference count of a page (R209). -/
def pageCount (s : State) (p : Nat) : Nat := smGet 0 s.pool.refs p

def pageHeld (s : State) (p : Nat) : Bool := s.pool.held.any fun h => h.1 == p

/-- Pages on the free list: neither named by an entry nor held (R209, R217). -/
def freePages (s : State) : Nat := poolPages s - s.pool.refs.length - s.pool.held.length

/-- The `n` lowest page numbers on the free list (log 22: the order of the free list). -/
def pickPages (s : State) (n : Nat) : List Nat :=
  ((List.range (s.pool.refs.length + s.pool.held.length + n)).filter fun p => pageCount s p == 0 && !pageHeld s p).take n

def setPageCount (s : State) (p n : Nat) : State := { s with pool := { s.pool with refs := smSet 0 s.pool.refs p n } }

/-- The contents of a page from the free list are undefined (R209): nothing of it is kept. -/
def erasePage (s : State) (p : Nat) : State :=
  { s with pool := { s.pool with data := s.pool.data.filter fun e => e.1 / 65536 != p } }

/-- A byte of a page: unwritten bytes are free values (R209; log 3). -/
def pageByte (s : State) (p off : Nat) : Byte := match smFind s.pool.data (p * 65536 + off) with
  | some b => b
  | none => Config.freeByte (p * 65536 + off)

/-- An entry that names a page is added. -/
def addRef (s : State) (p : Nat) : State := setPageCount s p (pageCount s p + 1)

/-- Does the batch of a plan have a walker that runs (R216)? -/
def walking (s : State) (plan : Nat) : Bool := s.pool.walkers.any fun w => w.1 == plan

/-- Does a walker that runs map a page: is it named in the version that the walker of a plan's batch took (R217)? -/
def mapsPage (s : State) (plan p : Nat) : Bool :=
  walking s plan && s.pool.seqs.any fun q => q.plan == plan && q.walk.any fun e => e.2.pageNo == some p

/-- An entry that named a page of a plan's batch is dropped: at count 0 the page is freed, or held while a walker that maps it runs (R217). -/
def dropRef (s : State) (plan p : Nat) : State :=
  let n := pageCount s p - 1
  let s := setPageCount s p n
  if n = 0 ∧ mapsPage s plan p then { s with pool := { s.pool with held := s.pool.held ++ [(p, plan, s.pool.version + 1)] } } else s

/-- A sequence of the step as a command finds it: it walks the entries in force; a released one is in no further command (R215, R216). -/
def SeqSt.walked (q : SeqSt) : SeqSt := if q.state = .leaving then { q with inStep := false, next := [], walk := [] } else { q with walk := q.entries }

/-- A walker of a plan's batch starts on the version in force: the first segment of an ATTN or KV_SCATTER starts (R216). -/
def startWalk (s : State) (plan : Nat) : State :=
  { s with pool := { s.pool with
      walkers := (s.pool.walkers.filter fun w => w.1 != plan) ++ [(plan, s.pool.version)],
      seqs := mapWhere (fun q => q.plan == plan && q.inStep) SeqSt.walked s.pool.seqs } }

/-- The walker of a plan's batch ends: the pages held for it return to the free list. -/
def endWalk (s : State) (plan : Nat) : State :=
  { s with pool := { s.pool with
      walkers := s.pool.walkers.filter (fun w => w.1 != plan), held := s.pool.held.filter (fun h => h.2.1 != plan),
      seqs := mapWhere (fun q => q.plan == plan) (fun q => { q with walk := [] }) s.pool.seqs } }

/-- A committed fold that edited a page table raises the version (R216). -/
def raiseVersion (s : State) : State := { s with pool := { s.pool with version := s.pool.version + 1 } }

/-! ### Sequences -/

def findSeq (s : State) (id : Nat) : Option SeqSt := s.pool.seqs.find? fun q => q.id == id

def modSeq (s : State) (id : Nat) (f : SeqSt → SeqSt) : State :=
  { s with pool := { s.pool with seqs := mapWhere (fun q => q.id == id) f s.pool.seqs } }

/-- The sequence a function's descriptor names in a plan's batch (R282). -/
def seqOf (s : State) (fn : Fn) (plan id : Nat) : Option SeqSt :=
  match findSeq s id with
  | some q => if q.fn = fn ∧ q.plan = plan then some q else none
  | none => none

/-- Sequences of a plan's batch. -/
def batchSeqs (s : State) (plan : Nat) : List SeqSt := s.pool.seqs.filter fun q => q.plan == plan

/-- The sequence of a FEED piece. -/
def pieceSeq (s : State) (t : Track) (num : Nat) : Option SeqSt := s.pool.seqs.find? fun q => q.piece == some (t, num)

def SeqSt.entry (q : SeqSt) (key : Nat) : Option PtEntry := smFind q.entries key
def SeqSt.setEntry (q : SeqSt) (key : Nat) (e : PtEntry) : SeqSt := { q with entries := smInsert q.entries key e }
def SeqSt.clearEntry (q : SeqSt) (key : Nat) : SeqSt := { q with entries := smErase q.entries key }

/-- Does a sequence hold ABSENT entries? -/
def SeqSt.hasAbsent (q : SeqSt) : Bool := q.entries.any fun e => e.2 == .absent

/-- Rank (R219): class, priority, piece number; the lower triple ranks higher. -/
def seqKey (q : SeqSt) : Nat × Nat × Nat := (q.cls, 255 - q.prio, match q.piece with | some (_, n) => n | none => 0)

def key3Lt (a b : Nat × Nat × Nat) : Bool :=
  decide (a.1 < b.1 ∨ (a.1 = b.1 ∧ (a.2.1 < b.2.1 ∨ (a.2.1 = b.2.1 ∧ a.2.2 < b.2.2))))

def ranksAbove (a b : SeqSt) : Bool := key3Lt (seqKey a) (seqKey b)

/-! ### Edits (R213 to R215, Table 08-7) -/

/-- Keys of the entries that an edit names: one layer, or all. -/
def editKeys (c : Container) (layer page : Nat) : List Nat :=
  if layer = 0xFFFF then (List.range (kvLayers c)).map fun l => l * pageSpan c + page
  else if layer < kvLayers c then [layer * pageSpan c + page] else []

/-- Do all the named entries satisfy a test, and is at least one named? -/
def allEntries (q : SeqSt) (c : Container) (layer page : Nat) (t : Option PtEntry → Bool) : Bool :=
  decide (page < pageSpan c) && !(editKeys c layer page).isEmpty && (editKeys c layer page).all fun k => t (q.entry k)

def isPresent? (e : Option PtEntry) : Bool := match e with | some e => e.isPresent | none => false
def isPinned? (e : Option PtEntry) : Bool := match e with | some e => e.isPinned | none => false

/-- The condition on which an edit aborts its fold, as the cause (Table 08-7, R214). -/
def editCheck (s : State) (fn : Fn) (o : PtEditOp) : Option Status :=
  match planOf s fn o.plan with
  | none => some .planUnknown
  | some p => match seqOf s fn p.handle o.seq with
    | none => some .seqUnknown
    | some q =>
      let ok := fun (b : Bool) => if b then none else some Status.badState
      match o.kind with
      | 1 => match s.pool.seqs.find? (fun x => x.id == o.srcSeq && x.plan == p.handle && decide (x.fn = fn)) with
        | none => some .seqUnknown
        | some src => ok (allEntries src p.c o.layer o.srcPage isPresent? && decide (16 * (o.srcPage + 1) ≤ src.len) &&
            allEntries q p.c o.layer o.page (·.isNone) && !q.inStep && decide (16 * o.page < q.len + 16))
      | 2 => ok (allEntries q p.c o.layer o.page isPresent?)
      | 3 => ok (allEntries q p.c o.layer o.page isPinned?)
      | 4 => ok (allEntries q p.c o.layer o.page fun e => isPresent? e && !isPinned? e)
      | _ => ok (decide (q.state ≠ .leaving))

/-- Copy a source sequence's token-log entries for one page index into a target's. -/
def shareLog (src q : SeqSt) (srcPage page : Nat) : List Tok :=
  (List.range (max q.log.length (16 * (page + 1)))).map fun i =>
    if 16 * page ≤ i ∧ i < 16 * (page + 1) then src.log.getD (16 * srcPage + i - 16 * page) default else q.log.getD i default

/-- Set or clear PINNED on an entry. -/
def pinEntry (b : Bool) (q : SeqSt) (key : Nat) : SeqSt := match q.entry key with
  | some (.present p _) => q.setEntry key (.present p b)
  | _ => q

/-- Share one layer's entry. -/
def shareOne (src : SeqSt) (p : PlanRec) (o : PtEditOp) (s : State) (l : Nat) : State :=
  match src.entry (l * pageSpan p.c + o.srcPage) with
  | some (.present pg _) => modSeq (addRef s pg) o.seq fun q => q.setEntry (l * pageSpan p.c + o.page) (.present pg false)
  | _ => s

/-- Drop one entry: PRESENT becomes ABSENT, and the page's count falls. -/
def dropOne (plan id : Nat) (s : State) (key : Nat) : State :=
  match (findSeq s id).bind (·.entry key) with
  | some (.present pg _) => modSeq (dropRef s plan pg) id fun q => q.setEntry key .absent
  | _ => s

/-- Layers that an edit names. -/
def editLayers (c : Container) (layer : Nat) : List Nat := if layer = 0xFFFF then List.range (kvLayers c) else [layer]

/-- After a drop, an open sequence outside a step has ABSENT entries below its length (Table 08-8). -/
def afterDrop (q : SeqSt) : SeqSt :=
  if (q.state = .waiting ∨ q.state = .running) ∧ ¬ q.inStep then { q with state := .needsRefill } else q

/-- Apply an edit whose check has passed (Table 08-7). -/
def editApply (s : State) (fn : Fn) (o : PtEditOp) : State :=
  match planOf s fn o.plan with
  | none => s
  | some p =>
    match o.kind with
    | 1 => match findSeq s o.srcSeq with
      | none => s
      | some src =>
        let s := (editLayers p.c o.layer).foldl (shareOne src p o) s
        modSeq s o.seq fun q => { q with len := max q.len (16 * (o.page + 1)), log := shareLog src q o.srcPage o.page }
    | 2 => modSeq s o.seq fun q => (editKeys p.c o.layer o.page).foldl (pinEntry true) q
    | 3 => modSeq s o.seq fun q => (editKeys p.c o.layer o.page).foldl (pinEntry false) q
    | 4 => modSeq ((editKeys p.c o.layer o.page).foldl (dropOne p.handle o.seq) s) o.seq afterDrop
    | _ => modSeq s o.seq fun q => { q with state := .leaving }

end Sys2Proof.Machine
end

