-- ==== Sys2Proof/Machine/Numeric.lean ====
section
/-! DEFINITION. Number formats, products and accumulation, narrowing, scales and block scales (chapter 06), and the work of LUT,
RED and GEO cells (R95 to R97). A value is exact; each rounding is the one that R154, R156 or R159 names. -/

namespace Sys2Proof.Machine

open Sys2Proof

/-- A floating-point value: not a number, a signed infinity, or a sign with an exact magnitude (negative zero is kept, R149). -/
inductive Fp where
  | nan
  | inf (neg : Bool)
  | fin (neg : Bool) (mag : Rat)
deriving DecidableEq, Repr

/-- 2 to an integer power. -/
def pow2 (e : Int) : Rat := if e < 0 then 1 / ((2 ^ (-e).toNat : Nat) : Rat) else ((2 ^ e.toNat : Nat) : Rat)

/-- The exponent of the greatest power of two at or below a positive magnitude. -/
def ilog2 (x : Rat) : Int :=
  let k : Int := (Nat.log2 x.num.toNat : Int) - (Nat.log2 x.den : Int)
  if pow2 (k + 1) ≤ x then k + 1 else if pow2 k ≤ x then k else k - 1

/-- A signed exact number as a value; zero is positive. -/
def fpOf (x : Rat) : Fp := if x < 0 then .fin true (-x) else .fin false x

/-- The signed number of a finite value. -/
def fpRat : Fp → Rat
  | .fin true m => -m
  | .fin false m => m
  | _ => 0

/-! ### Formats (Tables 06-1 and 06-2) -/

/-- Layout of a floating-point format: exponent bits, mantissa bits, bias. -/
structure FpFmt where
  eb : Nat
  mb : Nat
  bias : Nat
deriving DecidableEq, Repr

/-- The floating-point layout of a format code, MXFP4 elements included. -/
def fpFmt (code : Nat) : Option FpFmt :=
  match code with
  | 3 => some { eb := 4, mb := 3, bias := 7 }
  | 4 => some { eb := 5, mb := 2, bias := 15 }
  | 5 => some { eb := 5, mb := 10, bias := 15 }
  | 6 => some { eb := 8, mb := 7, bias := 127 }
  | 7 => some { eb := 8, mb := 23, bias := 127 }
  | 8 => some { eb := 2, mb := 1, bias := 1 }
  | _ => none

/-- Bits of an element (Table 06-1). -/
def fmtBits (code : Nat) : Nat :=
  match code with
  | 0 | 8 => 4
  | 1 | 3 | 4 | 9 => 8
  | 2 | 5 | 6 => 16
  | _ => 32

/-- Integer formats: INT4, INT8, INT16, INT32. -/
def fmtIsInt (code : Nat) : Bool := code == 0 || code == 1 || code == 2 || code == 10

/-- The code of the largest finite magnitude of a floating-point format (Table 06-2). -/
def fmtMaxCode (code : Nat) : Nat :=
  match code with
  | 3 => 0x7E
  | 4 => 0x7B
  | 5 => 0x7BFF
  | 6 => 0x7F7F
  | 7 => 0x7F7FFFFF
  | _ => 0x7

/-- The NaN the module writes in a format (Table 06-2). -/
def fmtNaN (code : Nat) : Nat :=
  match code with
  | 3 => 0x7F
  | 4 => 0x7E
  | 5 => 0x7E00
  | 6 => 0x7FC0
  | _ => 0x7FC00000

/-- Has the format infinities (Table 06-2)? -/
def fmtHasInf (code : Nat) : Bool := code == 4 || code == 5 || code == 6 || code == 7

/-- The magnitude of a code without its sign bit. -/
def fpMag (f : FpFmt) (c : Nat) : Rat :=
  let e := c / 2 ^ f.mb
  let m := c % 2 ^ f.mb
  if e = 0 then (m : Rat) * pow2 (1 - (f.bias : Int) - f.mb)
  else ((2 ^ f.mb + m : Nat) : Rat) * pow2 ((e : Int) - f.bias - f.mb)

/-- The value of a code (Tables 06-1 and 06-2): MXINT8 elements are code × 2^-6. -/
def fmtDecode (fmt code : Nat) : Fp :=
  match fpFmt fmt with
  | some f =>
    let w := fmtBits fmt
    let neg := bitAt code (w - 1)
    let c := code % 2 ^ (w - 1)
    if fmt = 3 ∧ c = 0x7F then .nan
    else if fmtHasInf fmt ∧ fmtMaxCode fmt + 1 < c then .nan
    else if fmtHasInf fmt ∧ c = fmtMaxCode fmt + 1 then .inf neg
    else .fin neg (fpMag f c)
  | none =>
    let x := signExt code (fmtBits fmt)
    if fmt = 9 then fpOf ((x : Rat) / 64) else fpOf (x : Rat)

/-- A magnitude rounded to nearest, ties to even, as a code without sign; codes past the largest finite one stand for overflow
(R156). -/
def fpRoundCode (f : FpFmt) (x : Rat) : Nat :=
  if x ≤ 0 then 0 else
    let e := max (ilog2 x) (1 - (f.bias : Int))
    let q := (roundEvenRat (x / pow2 (e - f.mb))).toNat
    ((e + f.bias - 1).toNat) * 2 ^ f.mb + q

/-- A value narrowed to a format (R156, R157, Table 06-4); `inf` is infinity mode. An MX element overflows past its largest magnitude on both sides,
and an MXFP4 element that rounds to zero is code 0 (log 69). -/
def fmtEncode (fmt : Nat) (inf : Bool) (x : Fp) : Nat :=
  match fpFmt fmt with
  | some f =>
    let w := fmtBits fmt
    let sgn := fun (n : Bool) => if n then 2 ^ (w - 1) else 0
    let top := fun (n : Bool) => sgn n + (if (inf && fmtHasInf fmt) || fmt = 7 then fmtMaxCode fmt + 1 else fmtMaxCode fmt)
    match x with
    | .nan => if fmt = 8 then 0 else fmtNaN fmt
    | .inf n => top n
    | .fin n m => let c := fpRoundCode f m
      if fmtMaxCode fmt < c then top n else if fmt = 8 ∧ c = 0 then 0 else sgn n + c
  | none =>
    let w := fmtBits fmt
    let hi : Int := (2 ^ (w - 1) : Nat) - 1
    let lo : Int := if fmt = 9 then -hi else -((2 ^ (w - 1) : Nat) : Int)
    match x with
    | .nan => 0
    | .inf n => toBits (if n then lo else hi) w
    | .fin n m =>
      let v := (if n then -m else m) * (if fmt = 9 then 64 else 1)
      toBits (clampInt (roundEvenRat v) lo hi) w

/-- FP32 value and code. -/
def f32 (w : Word32) : Fp := fmtDecode 7 w.toNat
def toF32 (x : Fp) : Word32 := BitVec.ofNat 32 (fmtEncode 7 true x)
def f32Rat (q : Rat) : Word32 := toF32 (fpOf q)
def f32NaN : Word32 := 0x7FC00000#32

/-! ### FP32 work (R154, R159) -/

/-- Exact sum of two values; an exact zero is negative only from two negative zeros. -/
def fpAdd (a b : Fp) : Fp :=
  match a, b with
  | .nan, _ | _, .nan => .nan
  | .inf m, .inf n => if m = n then .inf m else .nan
  | .inf m, _ => .inf m
  | _, .inf n => .inf n
  | .fin m x, .fin n y =>
    let r := (if m then -x else x) + (if n then -y else y)
    if r = 0 then .fin (m && n) 0 else fpOf r

/-- Exact product of two values. -/
def fpMul (a b : Fp) : Fp :=
  match a, b with
  | .nan, _ | _, .nan => .nan
  | .inf m, .inf n => .inf (m != n)
  | .inf m, .fin n y => if y = 0 then .nan else .inf (m != n)
  | .fin m x, .inf n => if x = 0 then .nan else .inf (m != n)
  | .fin m x, .fin n y => .fin (m != n) (x * y)

/-- Exact quotient of two values; a finite number over zero is infinite. -/
def fpDiv (a b : Fp) : Fp :=
  match a, b with
  | .nan, _ | _, .nan => .nan
  | .inf _, .inf _ => .nan
  | .inf m, .fin n _ => .inf (m != n)
  | .fin m _, .inf n => .fin (m != n) 0
  | .fin m x, .fin n y => if y = 0 then (if x = 0 then .nan else .inf (m != n)) else .fin (m != n) (x / y)

def fpNeg : Fp → Fp
  | .nan => .nan
  | .inf n => .inf (!n)
  | .fin n m => .fin (!n) m

def fpAbs : Fp → Fp
  | .nan => .nan
  | .inf _ => .inf false
  | .fin _ m => .fin false m

/-- a < b for values that are not NaN. -/
def fpLt (a b : Fp) : Bool :=
  match a, b with
  | .nan, _ | _, .nan => false
  | .inf m, .inf n => m && !n
  | .inf m, _ => m
  | _, .inf n => !n
  | x, y => decide (fpRat x < fpRat y)

def fpIsNaN : Fp → Bool
  | .nan => true
  | _ => false

/-- Square root: the magnitude carries a sticky half step far below an FP32 unit, so that its rounding is that of the exact root. -/
def fpSqrt : Fp → Fp
  | .nan => .nan
  | .inf n => if n then .nan else .inf false
  | .fin n m =>
    if m = 0 then .fin n 0 else if n then .nan else
      let big := m * ((4 ^ 120 : Nat) : Rat)
      let r := Nat.sqrt (big.num.toNat / big.den)
      let exact := decide (((r * r : Nat) : Rat) = big)
      .fin false (((2 * r + (if exact then 0 else 1) : Nat) : Rat) / ((2 ^ 121 : Nat) : Rat))

def f32Add (a b : Word32) : Word32 := toF32 (fpAdd (f32 a) (f32 b))
def f32Sub (a b : Word32) : Word32 := toF32 (fpAdd (f32 a) (fpNeg (f32 b)))
def f32Mul (a b : Word32) : Word32 := toF32 (fpMul (f32 a) (f32 b))
def f32Div (a b : Word32) : Word32 := toF32 (fpDiv (f32 a) (f32 b))

/-- The element-wise operations of Table 09-15 (R159): 0 add, 1 subtract, 2 multiply, 3 divide, 4 minimum, 5 maximum, 6 multiply-add
with one rounding, 7 negate, 8 absolute value, 9 square root, 10 reciprocal, 11 times the constant, 12 plus the constant. Minimum and
maximum of a NaN are NaN (DEDUCED: IEEE 754 names these operations; log 18). -/
def f32Op (op : Nat) (a b c k : Word32) : Word32 :=
  let x := f32 a
  let y := f32 b
  match op with
  | 0 => toF32 (fpAdd x y)
  | 1 => toF32 (fpAdd x (fpNeg y))
  | 2 => toF32 (fpMul x y)
  | 3 => toF32 (fpDiv x y)
  | 4 => if fpIsNaN x || fpIsNaN y then f32NaN else if fpLt y x then b else a
  | 5 => if fpIsNaN x || fpIsNaN y then f32NaN else if fpLt x y then b else a
  | 6 => toF32 (fpAdd (fpMul x y) (f32 c))
  | 7 => toF32 (fpNeg x)
  | 8 => toF32 (fpAbs x)
  | 9 => toF32 (fpSqrt x)
  | 10 => toF32 (fpDiv (fpOf 1) x)
  | 11 => toF32 (fpMul x (f32 k))
  | _ => toF32 (fpAdd x (f32 k))

/-! ### Elements in words (R150) -/

/-- Element `i` of a word in a format. -/
def elemGet (fmt : Nat) (w : List Byte) (i : Nat) : Nat :=
  let b := fmtBits fmt
  if b = 4 then bitsOf (fieldAt w (i / 2) 1) (4 * (i % 2) + 3) (4 * (i % 2)) else fieldAt w (i * (b / 8)) (b / 8)

/-- Replace bytes of a word. -/
def putBytes (w : List Byte) (off : Nat) (bs : List Byte) : List Byte :=
  slice w 0 off ++ bs ++ w.drop (off + bs.length)

/-- Set element `i` of a word in a format. -/
def elemSet (fmt : Nat) (w : List Byte) (i v : Nat) : List Byte :=
  let b := fmtBits fmt
  if b = 4 then
    let old := fieldAt w (i / 2) 1
    let x := if i % 2 = 0 then old / 16 * 16 + v % 16 else old % 16 + 16 * (v % 16)
    slice (putBytes w (i / 2) (leBytes 1 x)) 0 32
  else slice (putBytes w (i * (b / 8)) (leBytes (b / 8) v)) 0 32

/-- Elements of a 32-byte word. -/
def elemCount (fmt : Nat) : Nat := 256 / fmtBits fmt

/-! ### DOT (R152 to R155) -/

/-- The operand pairs of Table 06-3: 0 INT32, 1 FP32, 2 MX. -/
def dotPair (fa fb : Nat) : Option Nat :=
  if fa = fb ∧ fa ≤ 2 then some 0
  else if (fa = 3 ∨ fa = 4) ∧ (fb = 3 ∨ fb = 4) then some 1
  else if fa = fb ∧ (fa = 5 ∨ fa = 6) then some 1
  else if fa = fb ∧ (fa = 8 ∨ fa = 9) then some 2
  else none

/-- Saturating INT32 addition, and whether it saturated (R153). -/
def satAdd (a x : Int) : Int × Bool :=
  let r := a + x
  let c := clampInt r (-(2 ^ 31 : Nat)) ((2 ^ 31 : Nat) - 1)
  (c, decide (c ≠ r))

/-- An accumulator after the products of two words of an integer pair, and the saturating additions among them. -/
def dotInt (fmt : Nat) (acc : Word32) (a b : List Byte) : Word32 × Nat :=
  let w := fmtBits fmt
  let r := (List.range (elemCount fmt)).foldl
    (fun (st : Int × Nat) i =>
      let t := satAdd st.1 (signExt (elemGet fmt a i) w * signExt (elemGet fmt b i) w)
      (t.1, st.2 + b2n t.2))
    (signExt acc.toNat 32, 0)
  (BitVec.ofNat 32 (toBits r.1 32), r.2)

/-- An accumulator after the products of two words of a floating-point pair: each addition rounds once (R154). Elements are added
in their order in the word (R169 leaves the order to the loader; log 19). -/
def dotFp (fa fb : Nat) (acc : Word32) (a b : List Byte) : Word32 :=
  (List.range (elemCount fa)).foldl
    (fun s i => toF32 (fpAdd (f32 s) (fpMul (fmtDecode fa (elemGet fa a i)) (fmtDecode fb (elemGet fb b i))))) acc

/-- One MX block from its pairs of element codes: the products summed exactly, scaled by both block scales, added with one rounding; a scale of
0xFF gives NaN, and a contribution below the normal FP32 range becomes subnormal or zero before it is added (R155). -/
def mxStep (fmt : Nat) (acc : Word32) (ps : List (Nat × Nat)) (sa sb : Nat) : Word32 :=
  if sa = 0xFF ∨ sb = 0xFF then f32NaN else
    let sum := ps.foldl (fun (q : Rat) p => q + fpRat (fmtDecode fmt p.1) * fpRat (fmtDecode fmt p.2)) 0
    let v := fpOf (sum * pow2 (((sa : Int) - 127) + ((sb : Int) - 127)))
    let v := match v with
      | .fin n m => if m < pow2 (-126) then f32 (toF32 (.fin n m)) else v
      | _ => v
    toF32 (fpAdd (f32 acc) v)

/-- The MX block at an element offset of two words. -/
def dotMx (fmt : Nat) (acc : Word32) (a b : List Byte) (off sa sb : Nat) : Word32 :=
  mxStep fmt acc ((List.range 32).map fun i => (elemGet fmt a (off + i), elemGet fmt b (off + i))) sa sb

/-- An accumulator after one DOT of two words; MXFP4 words hold two blocks, and the scale codes of the second are `sa2`, `sb2`. -/
def dotWords (fa fb : Nat) (acc : Word32) (a b : List Byte) (sa sb sa2 sb2 : Nat) : Word32 × Nat :=
  match dotPair fa fb with
  | some 0 => dotInt fa acc a b
  | some 1 => (dotFp fa fb acc a b, 0)
  | some _ => if fa = 8 then (dotMx fa (dotMx fa acc a b 0 sa sb) a b 32 sa2 sb2, 0) else (dotMx fa acc a b 0 sa sb, 0)
  | none => (acc, 0)

/-! ### Scales and zero points (R160 to R164) -/

/-- Least and greatest code of an integer format. -/
def qMin (fmt : Nat) : Int := -((2 ^ (fmtBits fmt - 1) : Nat) : Int)
def qMax (fmt : Nat) : Int := ((2 ^ (fmtBits fmt - 1) : Nat) : Int) - 1

/-- A real value quantised (R160): r = 1/s in FP32, the product in FP32, rounded to even, less z, clamped. -/
def quantise (fmt : Nat) (s : Word32) (z : Int) (x : Word32) : Int :=
  match f32 (f32Mul x (f32Div 0x3F800000#32 s)) with
  | .nan => 0
  | .inf n => if n then qMin fmt else qMax fmt
  | .fin n m => clampInt (roundEvenRat (if n then -m else m) - z) (qMin fmt) (qMax fmt)

/-- The real value of a code (R160), in FP32. -/
def dequantise (s : Word32) (z q : Int) : Word32 := f32Mul s (f32Rat ((q + z : Int) : Rat))

/-- A positive, finite, normal FP32 value (R161). -/
def f32Normal (w : Word32) : Bool := decide (0x00800000 ≤ w.toNat ∧ w.toNat < 0x7F800000)

/-- The finite values among FP32 words (R162). -/
def finites (xs : List Word32) : List Rat := xs.filterMap fun w => match f32 w with
  | .fin n m => some (if n then -m else m)
  | _ => none

/-- Greatest and least of rationals, 0 for none. -/
def ratMax (xs : List Rat) : Rat := match xs with
  | [] => 0
  | y :: ys => ys.foldl (fun a b => if a < b then b else a) y
def ratMin (xs : List Rat) : Rat := match xs with
  | [] => 0
  | y :: ys => ys.foldl (fun a b => if b < a then b else a) y
def ratAbs (x : Rat) : Rat := if x < 0 then -x else x

/-- A computed scale held within 2^-126 and 2^126 (R162). -/
def clampScale (s : Rat) : Word32 :=
  if s < pow2 (-126) then f32Rat (pow2 (-126)) else if pow2 126 < s then f32Rat (pow2 126) else f32Rat s

/-- An integer saturated to INT32. -/
def satInt32 (x : Int) : Int := clampInt x (-(2 ^ 31 : Nat)) ((2 ^ 31 : Nat) - 1)

/-- The code of a value in a channel whose codes are all 0: infinities convert as Table 06-4 gives (R162). -/
def specialCode (fmt : Nat) (w : Word32) : Int := match f32 w with
  | .inf n => if n then qMin fmt else qMax fmt
  | _ => 0

/-- Scale, zero point and codes derived by Table 06-5; `mode` 0 symmetric, 1 asymmetric. -/
def quantDyn (fmt mode : Nat) (xs : List Word32) : Word32 × Int × List Int :=
  let fs := finites xs
  let one : Word32 := 0x3F800000#32
  if mode = 0 then
    let amax := ratMax (fs.map ratAbs)
    if amax = 0 then (one, 0, xs.map (specialCode fmt))
    else
      let s := clampScale (amax / (qMax fmt : Rat))
      (s, 0, xs.map (quantise fmt s 0))
  else
    let mx := ratMax fs
    let mn := ratMin fs
    if mn < mx then
      let s := clampScale ((mx - mn) / ((qMax fmt - qMin fmt : Int) : Rat))
      let z := roundEvenRat (fpRat (f32 (f32Mul (f32Rat mn) (f32Div one s)))) - qMin fmt
      (s, z, xs.map (quantise fmt s z))
    else (one, satInt32 (roundEvenRat mx), xs.map (specialCode fmt))

/-- An MX block built from 32 FP32 values: the scale code and the element codes (R164). -/
def mxPack (fmt : Nat) (xs : List Word32) : Nat × List Nat :=
  if xs.any fun w => fpIsNaN (f32 w) then (0xFF, xs.map fun _ => 0) else
    let amax := ratMax ((finites xs).map ratAbs)
    let e : Int := if fmt = 8 then 2 else 0
    let x : Int := if amax = 0 then 0 else clampInt (ilog2 amax - e) (-127) 127
    ((x + 127).toNat, xs.map fun w => match f32 w with
      | .fin n m => fmtEncode fmt false (.fin n (m / pow2 x))
      | v => fmtEncode fmt false v)

/-! ### LUT, RED and GEO cells (R95 to R97) -/

/-- A table look-up with linear interpolation; the entries are FP32 values here, and the interpolation rounds as FP32 work. -/
def lutLookup (tab : List Word32) (base step x : Word32) : Word32 :=
  let u := f32Mul (f32Sub x base) step
  let last := tab.length - 1
  match f32 u with
  | .nan => tab.headD 0
  | .inf n => if n then tab.headD 0 else tab.getD last 0
  | .fin n m =>
    if n && decide (m ≠ 0) then tab.headD 0
    else if ((last : Nat) : Rat) ≤ m then tab.getD last 0
    else
      let i := m.floor.toNat
      let fr := f32Rat (m - (i : Nat))
      let a := tab.getD i 0
      f32Add a (f32Mul fr (f32Sub (tab.getD (i + 1) 0) a))

/-- Does `b` replace `a` as the greatest? NaN is greater than every number; ties keep the earlier (R96). -/
def redGreater (a b : Fp) : Bool := if fpIsNaN a then false else if fpIsNaN b then true else fpLt a b

/-- Index of the greatest element, the lowest on ties, the lowest NaN when one is present (R96). -/
def argMax (xs : List Fp) : Nat :=
  ((xs.drop 1).foldl (fun (st : Nat × Fp × Nat) x => if redGreater st.2.1 x then (st.2.2, x, st.2.2 + 1) else (st.1, st.2.1, st.2.2 + 1))
    (0, xs.headD .nan, 1)).1

/-- Sum of integers in INT32, saturating as the accumulators do (R96, R153). -/
def redSumInt (xs : List Int) : Int := xs.foldl (fun a x => (satAdd a x).1) 0

/-- Sum in FP32, in element order; the first element starts it, so that negative zero is kept (R149). -/
def redSumFp : List Word32 → Word32
  | [] => 0
  | x :: xs => xs.foldl f32Add x

/-- A source sample of a GEO cell: outside the tensor it is the constant border or the nearest sample inside (R97). -/
def geoSample (px : Int → Int → Fp) (w h : Nat) (border : Option Fp) (x y : Int) : Fp :=
  if 0 ≤ x ∧ x < w ∧ 0 ≤ y ∧ y < h then px x y
  else match border with
    | some c => c
    | none => px (clampInt x 0 ((w : Int) - 1)) (clampInt y 0 ((h : Int) - 1))

/-- The exact sum of samples with positive weights; a sample of weight 1 is the value itself. -/
def blend : List (Rat × Fp) → Fp
  | [] => .fin false 0
  | [(k, v)] => if k = 1 then v else fpMul (.fin false k) v
  | (k, v) :: rest => fpAdd (fpMul (.fin false k) v) (blend rest)

/-- The bilinear blend of the four samples around 16.16 source coordinates (R97), exact before narrowing; a sample of weight 0 takes no part, so that
integer coordinates give the sample itself. -/
def geoBilinear (px : Int → Int → Fp) (w h : Nat) (border : Option Fp) (x16 y16 : Int) : Fp :=
  let x := x16.fdiv 65536
  let y := y16.fdiv 65536
  let fx : Rat := ((x16 - x * 65536 : Int) : Rat) / 65536
  let fy : Rat := ((y16 - y * 65536 : Int) : Rat) / 65536
  let g := geoSample px w h border
  blend ((([((1 - fy) * (1 - fx), x, y), ((1 - fy) * fx, x + 1, y), (fy * (1 - fx), x, y + 1), (fy * fx, x + 1, y + 1)] : List (Rat × Int × Int)).filter
    fun e => e.1 != 0).map fun e => (e.1, g e.2.1 e.2.2))

end Sys2Proof.Machine
end

