-- ==== Sys2Proof/Machine/Records.lean ====
section
/-! DEFINITION. Page records (chapter 12): text and confidences, chunks byte by byte, and the layout of a post. -/

namespace Sys2Proof.Machine

open Sys2Proof

/-! ### Text (R325, R326) -/

/-- Length of the well-formed UTF-8 sequence that a first byte opens, and the range of its second byte. -/
def utf8Lead (b : Nat) : Option (Nat × Nat × Nat) :=
  if b < 0x80 then some (1, 0, 0)
  else if 0xC2 ≤ b ∧ b ≤ 0xDF then some (2, 0x80, 0xBF)
  else if b = 0xE0 then some (3, 0xA0, 0xBF)
  else if b = 0xED then some (3, 0x80, 0x9F)
  else if 0xE1 ≤ b ∧ b ≤ 0xEF then some (3, 0x80, 0xBF)
  else if b = 0xF0 then some (4, 0x90, 0xBF)
  else if 0xF1 ≤ b ∧ b ≤ 0xF3 then some (4, 0x80, 0xBF)
  else if b = 0xF4 then some (4, 0x80, 0x8F)
  else none

/-- How many of the bytes after the first fit, up to `n`, the next one in a range. -/
def utf8Tail : Nat → Nat → Nat → List Byte → Nat
  | 0, _, _, _ => 0
  | _ + 1, _, _, [] => 0
  | n + 1, lo, hi, b :: bs => if lo ≤ b.toNat ∧ b.toNat ≤ hi then 1 + utf8Tail n 0x80 0xBF bs else 0

/-- Bytes of the next well-formed sequence or maximal subpart, and whether it is well-formed. -/
def utf8Next (bs : List Byte) : Nat × Bool :=
  match bs with
  | [] => (0, true)
  | b :: rest => match utf8Lead b.toNat with
    | none => (1, false)
    | some (n, lo, hi) => let k := 1 + utf8Tail (n - 1) lo hi rest; (k, k == n)

/-- Text with each maximal subpart of an ill-formed subsequence replaced by U+FFFD, and whether any was (R325). -/
def utf8Fix : Nat → List Byte → List Byte × Bool
  | 0, _ => ([], false)
  | f + 1, bs =>
    if bs.isEmpty then ([], false)
    else
      let n := utf8Next bs
      let r := utf8Fix f (bs.drop n.1)
      if n.2 then (bs.take n.1 ++ r.1, r.2) else ([0xEF, 0xBF, 0xBD] ++ r.1, true)

/-- Is a byte string well-formed UTF-8? -/
def utf8Ok (bs : List Byte) : Bool := !(utf8Fix bs.length bs).2

/-- The text of tokens: the dictionary strings in order (R325); a number past the dictionary gives no bytes (log 20). -/
def tokenText (dict : List (List Byte)) (toks : List Nat) : List Byte × Bool :=
  let raw := toks.flatMap fun t => dict.getD t []
  utf8Fix raw.length raw

/-- A confidence: round_even(255 × p), p clamped to 0 to 1, 0 for NaN (R326). -/
def confidence (p : Word32) : Nat :=
  match f32 p with
  | .nan => 0
  | .inf n => if n then 0 else 255
  | .fin n m => if n then 0 else if 1 ≤ m then 255 else (roundEvenRat (255 * m)).toNat

/-! ### Chunks (R320, Tables 12-1 to 12-7) -/

/-- A chunk: header and payload padded to a multiple of 8. -/
def chunk (ty flags : Nat) (body : List Byte) : List Byte :=
  let n := 8 * ceilDiv (8 + body.length) 8
  leBytes 2 ty ++ leBytes 2 flags ++ leBytes 4 n ++ body ++ zeros (n - 8 - body.length)

/-- A box: four unsigned 32-bit values. -/
def boxBytes (b : List Nat) : List Byte := (List.range 4).flatMap fun i => leBytes 4 (b.getD i 0)

/-- Token numbers, 4 bytes each. -/
def tokBytes (ts : List Nat) : List Byte := ts.flatMap (leBytes 4)

/-- A WORD chunk (Table 12-5), and whether its text was replaced. -/
def wordChunk (dict : List (List Byte)) (w : WordItem) : List Byte × Bool :=
  let t := tokenText dict w.tokens
  (chunk 5 0 (boxBytes w.box ++ leBytes 1 (confidence w.p) ++ leBytes 1 0 ++ leBytes 2 w.tokens.length ++ leBytes 4 t.1.length ++
    tokBytes w.tokens ++ t.1), t.2)

/-- A LINE chunk with its WORDs. -/
def lineChunk (dict : List (List Byte)) (feed : Bool) (l : TextLine) : List Byte × Bool :=
  let ws := l.words.map (wordChunk dict)
  (chunk 4 0 (boxBytes l.box ++ leBytes 4 (if feed then l.final else 0) ++ leBytes 1 (confidence l.p) ++ leBytes 1 l.plan ++
    leBytes 2 l.words.length) ++ ws.flatMap (·.1), ws.any (·.2))

/-- A BLOCK chunk with its LINEs. -/
def blockChunk (dict : List (List Byte)) (feed : Bool) (box : List Nat) (cls conf plan : Nat) (ls : List TextLine) : List Byte × Bool :=
  let cs := ls.map (lineChunk dict feed)
  (chunk 3 0 (boxBytes box ++ leBytes 2 cls ++ leBytes 1 conf ++ leBytes 1 plan ++ leBytes 4 ls.length) ++ cs.flatMap (·.1),
    cs.any (·.2))

/-- The bounding box of lines. -/
def boundBox (ls : List TextLine) : List Nat :=
  match ls with
  | [] => [0, 0, 0, 0]
  | l :: rest => rest.foldl (fun b x => [min (b.getD 0 0) (x.box.getD 0 0), min (b.getD 1 0) (x.box.getD 1 0),
      max (b.getD 2 0) (x.box.getD 2 0), max (b.getD 3 0) (x.box.getD 3 0)]) l.box

/-- The blocks of one side and plan: the plan's own in order, then one the module forms for the lines outside them (R321). -/
def planBlocks (dict : List (List Byte)) (feed : Bool) (blocks : List BlockItem) (text : List TextLine) (plan : Nat) : List Byte × Bool :=
  let bs := blocks.filter fun b => b.plan == plan
  let ls := text.filter fun l => l.plan == plan
  let own := (List.range bs.length).map fun i =>
    let b := bs.getD i default
    blockChunk dict feed b.box b.cls (confidence b.p) plan (ls.filter fun l => l.block == some i)
  let loose := ls.filter fun l => match l.block with
    | some i => decide (bs.length ≤ i)
    | none => true
  let extra := if loose.isEmpty then [] else [blockChunk dict feed (boundBox loose) 0xFFFF 0 plan loose]
  ((own ++ extra).flatMap (·.1), (own ++ extra).any (·.2))

/-- What a SIDE chunk holds (Table 12-4). -/
structure SideRec where
  side : Side
  port : Nat
  depth : Nat
  xavg : Nat
  theta : Word32
  wPu : Nat
  hPu : Nat
  wPx : Nat
  hLn : Nat
  puX : Word32
  puY : Word32
  affine : List Word32
  crop : List Int
  lead : Int
  T : Nat
  skewSrc : Nat
  cropped : Bool
  mirrored : Bool
deriving DecidableEq, Repr, Inhabited

/-- A SIDE chunk (Table 12-4). -/
def sideChunk (r : SideRec) : List Byte :=
  chunk 2 (b2n r.cropped + 2 * b2n r.mirrored)
    (leBytes 1 (sideNum r.side) ++ leBytes 1 r.port ++ leBytes 1 r.depth ++ leBytes 1 r.xavg ++ leBytes 4 r.theta.toNat ++
     leBytes 4 r.wPu ++ leBytes 4 r.hPu ++ leBytes 4 r.wPx ++ leBytes 4 r.hLn ++ leBytes 4 r.puX.toNat ++ leBytes 4 r.puY.toNat ++
     ((List.range 6).flatMap fun i => leBytes 4 (r.affine.getD i 0).toNat) ++
     ((List.range 4).flatMap fun i => leBytes 4 (toBits (r.crop.getD i 0) 32)) ++
     leBytes 4 (toBits r.lead 32) ++ leBytes 4 r.T ++ leBytes 1 r.skewSrc ++ zeros 7)

/-- The numeric value of a field: 0 for text (R323). -/
def fieldValue (vtype : Nat) (v : Int) : Nat := if vtype = 0 then 0 else toBits v 64

/-- A FIELD or CELL chunk of an emitted item (Table 12-6), and whether its text was replaced. -/
def itemChunk (dict : List (List Byte)) (e : Emit) : List Byte × Bool :=
  match e with
  | .field name side p box vtype decimals value key val =>
    let key := if name = 0xFFFF then key else []
    let kt := tokenText dict key
    let vt := tokenText dict val
    (chunk 6 0 (leBytes 2 name ++ leBytes 1 side ++ leBytes 1 (confidence p) ++ boxBytes (if side = 0xFF then [] else box) ++
      leBytes 1 vtype ++ leBytes 1 decimals ++ leBytes 2 0 ++ leBytes 8 (fieldValue vtype value) ++ leBytes 2 val.length ++
      leBytes 2 key.length ++ leBytes 4 kt.1.length ++ leBytes 4 vt.1.length ++ leBytes 4 0 ++ tokBytes key ++ tokBytes val ++
      kt.1 ++ vt.1), kt.2 || vt.2)
  | .cell row col rspan cspan p vtype box value decimals toks =>
    let t := tokenText dict toks
    (chunk 8 0 (leBytes 2 row ++ leBytes 2 col ++ leBytes 1 rspan ++ leBytes 1 cspan ++ leBytes 1 (confidence p) ++ leBytes 1 vtype ++
      boxBytes box ++ leBytes 8 (fieldValue vtype value) ++ leBytes 1 decimals ++ leBytes 1 0 ++ leBytes 2 toks.length ++
      leBytes 4 t.1.length ++ tokBytes toks ++ t.1), t.2)
  | _ => ([], false)

/-- Row and column of a cell, for the order of Table 12-1. -/
def cellPos (e : Emit) : Nat × Nat := match e with
  | .cell r c .. => (r, c)
  | _ => (0, 0)

/-- Each TABLE with the cells that follow it, row by row, column by column. -/
def tableChunks (dict : List (List Byte)) : List Emit → List (List Byte × Bool)
  | [] => []
  | .table name side p box rows cols :: es =>
    let cells := es.takeWhile fun e => match e with | .table .. => false | _ => true
    let cells := cells.filter fun e => match e with | .cell .. => true | _ => false
    let cells := sortBy (fun a b => decide ((cellPos a).1 < (cellPos b).1 ∨ ((cellPos a).1 = (cellPos b).1 ∧ (cellPos a).2 ≤ (cellPos b).2))) cells
    let cs := cells.map (itemChunk dict)
    (chunk 7 0 (leBytes 2 name ++ leBytes 1 side ++ leBytes 1 (confidence p) ++ boxBytes (if side = 0xFF then [] else box) ++
      leBytes 2 rows ++ leBytes 2 cols ++ leBytes 4 cells.length ++ leBytes 4 0) ++ cs.flatMap (·.1), cs.any (·.2)) :: tableChunks dict es
  | _ :: es => tableChunks dict es

/-- What a VERDICT chunk holds (Table 12-7). -/
structure VerdictRec where
  status : Status
  verdict : Word32
  line : Nat
  due : Nat
  qwLine : Option Nat
  index : Nat
  tb : Nat
  quick : Bool
  late : Bool
deriving DecidableEq, Repr, Inhabited

/-- A VERDICT chunk. -/
def verdictChunk (v : VerdictRec) : List Byte :=
  chunk 9 (b2n v.quick + 2 * b2n v.late)
    (leBytes 2 v.status.code ++ leBytes 2 0 ++ leBytes 4 v.verdict.toNat ++ leBytes 4 v.line ++ leBytes 4 v.due ++
     leBytes 4 (v.qwLine.getD 0xFFFFFFFF) ++ leBytes 4 v.index ++ leBytes 8 v.tb)

/-- An IMAGE_REF chunk; a dropped image has offset and length 0. -/
def imageRef (i : Image) (off : Nat) : List Byte :=
  chunk 10 (b2n i.dropped)
    (leBytes 1 i.side ++ leBytes 1 i.kind ++ leBytes 1 i.bits ++ leBytes 1 i.comps ++ leBytes 4 i.width ++ leBytes 4 i.height ++
     leBytes 4 i.stride ++ leBytes 8 (if i.dropped then 0 else off) ++ leBytes 8 (if i.dropped then 0 else i.len) ++
     leBytes 4 i.dpiX ++ leBytes 4 i.dpiY)

/-- A DIAG chunk: at most 1,024 entries written, all counted (R324). -/
def diagChunk (d : Diag) : List Byte :=
  chunk 11 0 (leBytes 2 d.kind ++ leBytes 1 (sideNum d.side) ++ leBytes 1 0 ++ leBytes 4 d.count ++
    (d.entries.take 1024).flatMap fun e => leBytes 4 e.1 ++ leBytes 4 e.2)

/-- A multiple of 32 at or above a length. -/
def align32 (n : Nat) : Nat := 32 * ceilDiv n 32

/-- Everything a post is built from. -/
structure RecSrc where
  status : Status
  source : Nat
  fn : Nat
  piece : Nat
  plan : Nat
  tag : Nat
  revision : Nat
  quick : Bool
  dropped : Bool
  restarted : Bool
  feed : Bool
  sides : List SideRec
  blocks : List BlockItem
  text : List TextLine
  items : List Emit
  verdict : Option VerdictRec
  images : List Image
  diag : List Diag
deriving DecidableEq, Repr, Inhabited

/-- SIDE chunks, each with its blocks, main plan first (R321). -/
def sideChunks (dict : List (List Byte)) (r : RecSrc) : List Byte × Bool :=
  let cs := r.sides.map fun sd =>
    let bs := r.blocks.filter fun b => b.side == sd.side
    let ls := r.text.filter fun l => l.side == sd.side
    let a := planBlocks dict r.feed bs ls 0
    let b := planBlocks dict r.feed bs ls 1
    (sideChunk sd ++ a.1 ++ b.1, a.2 || b.2)
  (cs.flatMap (·.1), cs.any (·.2))

/-- Offsets of the images from the start of the post, each on a 32-byte boundary (R334). -/
def imageOffsets (start : Nat) : List Image → List Nat
  | [] => []
  | i :: is => if i.dropped then 0 :: imageOffsets start is else start :: imageOffsets (align32 (start + i.len)) is

/-- The chunks after PAGE up to the verdict, and whether text was replaced. -/
def bodyChunks (dict : List (List Byte)) (r : RecSrc) : List Byte × Bool :=
  let sides := sideChunks dict r
  let fields := (r.items.filter fun e => match e with | .field .. => true | _ => false).map (itemChunk dict)
  let tables := tableChunks dict r.items
  (sides.1 ++ fields.flatMap (·.1) ++ tables.flatMap (·.1) ++ (match r.verdict with | some v => verdictChunk v | none => []),
   sides.2 || fields.any (·.2) || tables.any (·.2))

/-- DIAG chunks by kind, then side. -/
def diagChunks (ds : List Diag) : List Byte :=
  (sortBy (fun a b => decide (a.kind * 2 + sideNum a.side ≤ b.kind * 2 + sideNum b.side)) ds).flatMap diagChunk

/-- Length of the images and their padding. -/
def imagesEnd (start : Nat) : List Image → Nat
  | [] => start
  | i :: is => if i.dropped then imagesEnd start is else imagesEnd (align32 (start + i.len)) is

/-- The record of a post and its length with images (Table 12-3, R319, R320). -/
def buildRecord (dict : List (List Byte)) (r : RecSrc) (tb : Nat) : List Byte × Nat :=
  let body := bodyChunks dict r
  let diag := diagChunks r.diag
  let recLen := 64 + body.1.length + 48 * r.images.length + diag.length
  let offs := imageOffsets (align32 recLen) r.images
  let refs := (r.images.zip offs).flatMap fun p => imageRef p.1 p.2
  let postLen := imagesEnd (align32 recLen) r.images
  let page := chunk 1 (b2n r.quick + 2 * b2n r.dropped + 4 * b2n r.restarted + 8 * b2n body.2)
    (leBytes 2 1 ++ leBytes 2 r.status.code ++ leBytes 1 r.source ++ leBytes 1 r.sides.length ++ leBytes 2 r.fn ++ leBytes 4 r.piece ++
     leBytes 4 r.plan ++ leBytes 8 r.tag ++ leBytes 2 r.revision ++ leBytes 2 0 ++ leBytes 4 recLen ++ leBytes 4 postLen ++ leBytes 4 0 ++
     leBytes 8 tb ++ leBytes 8 0)
  (page ++ body.1 ++ refs ++ diag, postLen)

/-- Image bytes after the record, each padded to 32 (R334). -/
def imageBytes : List Image → List Byte
  | [] => []
  | i :: is => if i.dropped then imageBytes is else i.data ++ zeros (align32 i.data.length - i.data.length) ++ imageBytes is

/-- The bytes of a whole post. -/
def postBytes (p : Post) : List Byte :=
  let r := p.record ++ zeros (align32 p.record.length - p.record.length)
  r ++ imageBytes p.images

/-! ### The basket's occupancy (R336) -/

/-- Length of a post: its record and images as laid out (R319, R334). -/
def postLen (p : Post) : Nat := (postBytes p).length

/-- Bytes of the basket in use: posts being built, and posts committed and not yet delivered. -/
def basketUsed (s : State) : Nat := sumNat (s.basket.building.map (·.2)) + sumNat (s.basket.committed.map postLen)

/-- Size of the basket in bytes. -/
def basketSize (s : State) : Nat := 1048576 * carve s 0

def mib : Nat := 1048576

/-- Is the occupancy above the high-water mark? -/
def basketOver (s : State) : Bool := decide (mib * basketHigh s < basketUsed s)

/-! ### Images (R330 to R332) -/

/-- Row stride of a raw image (R330). -/
def rawStride (width depth : Nat) : Nat := align32 (3 * width * (depth / 8))

/-- A raw image of rows of pixels of three components (R330). -/
def rawImage (side depth dpiX dpiY : Nat) (rows : List (List (List Nat))) : Image :=
  let width := (rows.headD []).length
  let stride := rawStride width depth
  let rowBytes := fun (r : List (List Nat)) =>
    let b := r.flatMap fun px => (List.range 3).flatMap fun c => leBytes (depth / 8) (px.getD c 0)
    b ++ zeros (stride - b.length)
  { side := side, kind := 0, bits := depth, comps := 3, width := width, height := rows.length, stride := stride,
    len := stride * rows.length, data := rows.flatMap rowBytes, dropped := false, dpiX := dpiX, dpiY := dpiY }

/-- A quantisation-table entry scaled to quality q (R331). -/
def jpegQuant (e q : Nat) : Nat := min 255 (max 1 ((e * (101 - q) ^ 2 + 1300) / 2601))

/-- Luma of 8-bit samples (R332). -/
def lumaOf (px : List Nat) : Nat := (77 * px.getD 0 0 + 150 * px.getD 1 0 + 29 * px.getD 2 0 + 128) / 256

/-- Is a pixel black (R332)? μ is the mean of Y over a window centred on it, edges replicated. -/
def binBlack (ys : List (List Nat)) (w k low high : Nat) (y x : Nat) : Bool :=
  let h := ys.length
  let wd := (ys.headD []).length
  let at2 := fun (r c : Int) => (ys.getD (clampInt r 0 ((h : Int) - 1)).toNat []).getD (clampInt c 0 ((wd : Int) - 1)).toNat 0
  let half : Int := ((w / 2 : Nat) : Int)
  let sum := sumNat ((List.range w).flatMap fun (i : Nat) => (List.range w).map fun (j : Nat) => at2 ((y : Int) - half + i) ((x : Int) - half + j))
  let mu := sum / (w * w)
  let v := (ys.getD y []).getD x 0
  decide (v < low) || (decide (v ≤ high) && decide (256 * v < mu * (256 - k)))

/-- The bilevel image that a T.6 output encodes (R332): 1 for black. -/
def binImage (bin : Nat × Nat × Nat × Nat) (rows : List (List (List Nat))) : List (List Nat) :=
  let ys := rows.map fun r => r.map lumaOf
  (List.range ys.length).map fun y => (List.range (ys.getD y []).length).map fun x =>
    b2n (binBlack ys bin.1 bin.2.1 bin.2.2.1 bin.2.2.2 y x)

end Sys2Proof.Machine
end

