-- ==== Sys2Proof/Machine/Jobs.lean ====
section
/-! DEFINITION. Jobs: their records, contexts (R137), placements (R106), what a job gives up when it ends (R144), accounting (R279),
wardrobe loads (R270), pre-emption (R259, R260, R264) and the choice of what runs next (R255 to R257). -/

namespace Sys2Proof.Machine

open Sys2Proof

/-! ### Records -/

def findJob (s : State) (id : Nat) : Option Job := s.sched.jobs.find? fun j => j.id == id

def modJob (s : State) (id : Nat) (f : Job → Job) : State :=
  { s with sched := { s.sched with jobs := mapWhere (fun j => j.id == id) f s.sched.jobs } }

/-- Add a job; its number is the model's own (log 1). -/
def addJob (s : State) (j : Job) : Nat × State :=
  let id := s.sched.nextId
  (id, { s with sched := { s.sched with jobs := s.sched.jobs ++ [{ j with id := id }], nextId := id + 1 } })

def modAcct (s : State) (fn : Fn) (f : Acct → Acct) : State :=
  { s with sched := { s.sched with acct := s.sched.acct.set fn.val (f s.sched.acct[fn.val]) } }

/-- Does a kind run on a plan and count against its job concurrency (R255)? -/
def JobKind.isRun : JobKind → Bool
  | .seq _ _ | .test _ => false
  | _ => true

/-- Jobs of a plan that are READY, RUNNING or SAVED (R255). -/
def busyJobs (s : State) (plan : Nat) : Nat :=
  (s.sched.jobs.filter fun j => j.plan == plan && j.kind.isRun && (j.state == .ready || j.state == .running || j.state == .saved)).length

/-- Jobs QUEUED and READY over all functions (R299). -/
def waitingJobs (s : State) : Nat := (s.sched.jobs.filter fun j => j.state == .queued || j.state == .ready).length

/-! ### Placements (R104, R106) -/

/-- Tiles of a set of mesh coordinates in a region, shifted; none when one leaves the mesh. -/
def shiftTiles (g : Nat) (dr dc : Int) (pl : List (Nat × Nat)) : Option (List Nat) :=
  if pl.all fun p => decide (0 ≤ (p.1 : Int) + dr ∧ (p.1 : Int) + dr < 4 ∧ 0 ≤ (p.2 : Int) + dc ∧ (p.2 : Int) + dc < 8) then
    some (pl.map fun p => g * 32 + (8 * ((p.1 : Int) + dr) + ((p.2 : Int) + dc)).toNat)
  else none

/-- Shifts in the order of R106: none first, then ascending row shift, then ascending column shift. -/
def shiftOrder : List (Int × Int) :=
  (0, 0) :: ([-3, -2, -1, 0, 1, 2, 3].flatMap fun r => ([-7, -6, -5, -4, -3, -2, -1, 0, 1, 2, 3, 4, 5, 6, 7] : List Int).map fun c => (r, c)).filter
    fun d => d != (0, 0)

/-- Is a tile in service and neither reserved, held by a job nor waiting for its rows to be reloaded (R77, R106, R107)? -/
def tileServes (s : State) (t : Nat) : Bool :=
  let x := s.tile t
  !x.failed && !x.gone && x.resv.isNone && !x.reload && (s.reg8 (Fin.ofNat 8 (t / 32))).state == 0

def tileOpen (s : State) (t : Nat) : Bool := tileServes s t && (s.tile t).job.isNone

/-- Where a job is placed: region, shift and tiles. -/
structure Place where
  region : Nat
  dr : Int
  dc : Int
  tiles : List Nat
deriving DecidableEq, Repr, Inhabited

/-- The placement a region offers, unshifted first. -/
def regionPlace (ok : Nat → Bool) (g : Nat) (pl : List (Nat × Nat)) : List (Int × Int) → Option Place
  | [] => none
  | d :: ds => match shiftTiles g d.1 d.2 pl with
    | some ts => if ts.all ok then some { region := g, dr := d.1, dc := d.2, tiles := ts } else regionPlace ok g pl ds
    | none => regionPlace ok g pl ds

/-- The placement chosen by R106 among regions, the lowest-numbered first. -/
def findPlaceIn (ok : Nat → Bool) (pl : List (Nat × Nat)) : List Nat → Option Place
  | [] => none
  | g :: gs => match regionPlace ok g pl shiftOrder with
    | some p => some p
    | none => findPlaceIn ok pl gs

def findPlace (ok : Nat → Bool) (pl : List (Nat × Nat)) : Option Place := findPlaceIn ok pl (List.range 8)

/-- Placements for several stripes, one after another; no tile serves two of them, and two stripes may share a region (R190). -/
def findPlaces (ok : Nat → Bool) : List (List (Nat × Nat)) → List Nat → Option (List Place)
  | [], _ => some []
  | pl :: pls, used => match findPlace (fun t => ok t && !used.contains t) pl with
    | none => none
    | some p => (findPlaces ok pls (used ++ p.tiles)).map (p :: ·)

/-- The tile shift of a placement's scratch pair (Table 05-6). -/
def Place.shift (p : Place) : Nat := (((p.region * 32 : Nat) : Int) + 8 * p.dr + p.dc).toNat % 256

/-! ### Contexts -/

/-- The first context not in use (R137). -/
def freeContext (s : State) : Option Nat := (List.range 64).find? fun c => !(s.sched.contexts.any fun x => x.1 == c)

/-- The pairs of a stripe of a job. -/
def pairsOf (s : State) (job stripe : Nat) : Option CtxPairs :=
  (s.sched.contexts.find? fun x => x.2.job == job && x.2.stripe == stripe).map (·.2)

/-- A job's tiles: those of its stripes. -/
def Job.tiles (j : Job) : List Nat := j.lanes.flatMap (·.tiles)

/-- A job's tiles in a region. -/
def Job.tilesIn (j : Job) (g : Nat) : List Nat := j.tiles.filter fun t => t / 32 == g

/-- A stripe of a job. -/
def Job.lane (j : Job) (k : Nat) : Option Lane := j.lanes.find? fun l => l.stripe == k

def Job.setLane (j : Job) (k : Nat) (f : Lane → Lane) : Job := { j with lanes := mapWhere (fun l => l.stripe == k) f j.lanes }

def modLane (s : State) (job k : Nat) (f : Lane → Lane) : State := modJob s job fun j => j.setLane k f

/-- Is some stripe of a job in a save or a restore? -/
def Job.saving (j : Job) : Bool := j.lanes.any fun l => l.state == .saving || l.state == .restoring

/-- Is some stripe of a job in a segment? -/
def Job.inSegment (j : Job) : Bool := j.lanes.any fun l => l.state == .run

/-- The pairs of a stripe's placement: scratch rows begin above the wardrobe (R268); the weights pair begins at the model's first way and counts the rows of
its weights (Table 05-6). -/
def makePairs (s : State) (j : Job) (stripe : Nat) (p : PlanRec) (pl : Place) : CtxPairs :=
  let ways := match residentModel s p with | some m => m.ways | none => []
  { job := j.id, stripe := stripe, region := pl.region, sShift := pl.shift, sBase := wardrobeRows s, sCount := p.low.scratchRows, wShift := 0,
    wBase := ways.headD 0 * wayRows s, wCount := if ways.isEmpty then 0 else p.low.modelRows, wWays := ways, wRows := wayRows s }

/-- Give tiles to a job. -/
def holdTiles (s : State) (job : Nat) (ts : List Nat) : State := ts.foldl (fun s t => modTileJob s t (some job)) s
where
  modTileJob (s : State) (t : Nat) (j : Option Nat) : State := s.modTile t fun x => { x with job := j }

/-- Write rows of tiles to zero with valid check bits (R144). -/
def zeroRows (s : State) (ts : List Nat) (base count : Nat) : State :=
  let hit := fun (a : Nat) => ts.contains (tsTile a) && decide (base ≤ tsRow a ∧ tsRow a < base + count)
  { s with store := { s.store with mem := s.store.mem.filter (fun c => !hit c.1), marks := s.store.marks.filter fun m => !hit (32 * m.1) } }

/-- A stripe of a job releases its tiles and its pairs; its scratch rows are zeroed when its function has scrub-on-release (R144). -/
def freeLane (j : Job) (s : State) (l : Lane) : State :=
  let s := l.tiles.foldl (fun s t => s.modTile t fun x => { x with job := none, idleSince := s.now }) s
  let s := match scrubRelease s j.fn.val, pairsOf s j.id l.stripe with
    | true, some c => zeroRows s l.tiles c.sBase c.sCount
    | _, _ => s
  let s := { s with
    sched := { s.sched with contexts := s.sched.contexts.filter fun x => !(x.2.job == j.id && x.2.stripe == l.stripe) },
    acc := s.acc.filter fun a => !l.tiles.contains (a.1 / 16384) }
  modLane s j.id l.stripe fun x => { x with tiles := [] }

/-- A job gives up its engines, its transfers, its walker, and the tiles of those stripes that are in no segment; without such stripes its context too. -/
def releaseJob (s : State) (j : Job) : State :=
  let s := (j.lanes.filter fun l => l.state != .run).foldl (freeLane j) s
  let s := if j.kind = .step then endWalk s j.plan else s
  let s := { s with
    transfers := s.transfers.filter fun t => t.job != j.id,
    engines := s.engines.map fun e => match e with
      | .decode k _ => if k = j.id then .free else e
      | .encode k _ => if k = j.id then .free else e
      | _ => e }
  modJob s j.id fun x => { x with ctx := if j.inSegment then x.ctx else none, lanes := x.lanes.filter fun l => l.state == .run }

/-- Remove a job's record. -/
def removeJob (s : State) (id : Nat) : State :=
  { s with sched := { s.sched with jobs := s.sched.jobs.filter fun j => j.id != id } }

/-- The ways of a model of an old revision are freed when the last job that uses it has ended, and nothing is left of that revision (R250, R273, R359). -/
def dropOldModels (s : State) : State :=
  { s with
    plans := { s.plans with loaded := s.plans.loaded.map fun p =>
      { p with olds := p.olds.filter fun o => s.sched.jobs.any fun j => j.started && j.plan == p.handle && j.revision == o.revision } },
    sched := { s.sched with models := s.sched.models.filter fun m =>
      (match findPlan s m.plan with
        | some p => decide (p.revision ≤ m.revision)
        | none => false) || s.sched.jobs.any fun j => j.started && j.plan == m.plan && j.revision == m.revision } }

/-- A job is DONE: everything it holds is given up, that of a segment still running in another region at its boundary (R193); a completed job is counted
(Table 10-6). -/
def finishJob (s : State) (j0 : Job) (counted : Bool) : State :=
  let j := (findJob s j0.id).getD j0
  let s := releaseJob s j
  let s := if j.inSegment then modJob s j.id fun x => { x with state := .done } else dropOldModels (removeJob s j.id)
  if counted then (modAcct s j.fn fun a => { a with jobs := a.jobs + 1 }).chipCnt (20 + j.cls % 4) else s

/-- The segment of a job that is DONE has ended: its stripe's tiles are free, and after the last of them nothing is left of the job (R193). -/
def lastRites (s : State) (j : Job) (l : Lane) : State :=
  let s := modJob (freeLane j s l) j.id fun x => { x with lanes := x.lanes.filter fun y => y.stripe != l.stripe }
  match findJob s j.id with
  | some x => if x.lanes.isEmpty then dropOldModels (removeJob s j.id) else s
  | none => s

/-! ### Wardrobe loads (R270) -/

/-- Does a model belong to a FEED plan, or to the companion of one? -/
def feedModel (s : State) (p : PlanRec) : Bool := p.c.feed || (match findPlan s p.main with
  | some m => m.c.feed
  | none => false)

/-- Ask for a load; a plan asked for already keeps its place. -/
def requestLoad (s : State) (p : PlanRec) (pin : Option (RingRef × Hdr × Nat)) : State :=
  if pin.isNone && (s.sched.loads.any fun l => l.plan == p.handle && l.revision == p.revision && l.pin.isNone) then s
  else { s with sched := { s.sched with loads := s.sched.loads ++ [{ plan := p.handle, revision := p.revision, feed := feedModel s p, pin := pin }] } }

/-- The plan that a request loads. -/
def loadPlanOf (s : State) (l : LoadReq) : Option PlanRec := (findPlan s l.plan).map fun p => if l.pin.isSome then p else planAt p l.revision

/-- Can a request's ways be had now, evicting if need be? -/
def loadWays (s : State) (l : LoadReq) : Option (List Nat × State) :=
  match loadPlanOf s l with
  | none => none
  | some p => takeWays s (planClass s p) (waysNeeded s p) (evictable s (planClass s p))

/-- The load that runs next: FEED models first, then in the order requested, passing over those whose ways cannot be freed. -/
def nextLoad (s : State) : Option LoadReq :=
  match s.sched.loads.find? fun l => l.feed && (loadWays s l).isSome with
  | some l => some l
  | none => s.sched.loads.find? fun l => (loadWays s l).isSome

/-! ### Hamper (R263, R264) -/

/-- Bytes of a region's hamper: an eighth of the hamper carve-up. -/
def hamperBytes (s : State) : Nat := 1048576 * carve s 1 / 8

/-- Bytes of the hamper that saved state takes in a region. -/
def hamperUsed (s : State) (g : Nat) : Nat :=
  sumNat (s.sched.jobs.flatMap fun j => (j.savedBytes.filter fun b => b.2.1 == g).map (·.2.2))

/-- State of a stripe (Table 10-3): scratch rows, accumulator files and 256 bytes for each tile. -/
def stripeBytes (s : State) (j : Job) (l : Lane) : Nat :=
  let rows := match pairsOf s j.id l.stripe with | some c => c.sCount | none => 0
  l.tiles.length * (rows * 1024 + 65536 + 256)

/-- State of a job in a region (R263). -/
def stateBytes (s : State) (j : Job) (g : Nat) : Nat :=
  sumNat ((j.lanes.filter fun l => l.region == g && !l.tiles.isEmpty).map (stripeBytes s j))

/-- Regions in which a job has tiles. -/
def Job.regions (j : Job) : List Nat := (List.range 8).filter fun g => !(j.tilesIn g).isEmpty

/-- Has every region concerned room for the saves of victims, keeping 48 MiB free unless a FEED job asks (R264)? -/
def hamperRoom (s : State) (cls : Nat) (vs : List Job) : Bool :=
  (List.range 8).all fun g =>
    let need := sumNat (vs.map fun v => stateBytes s v g)
    decide (need = 0 ∨ hamperUsed s g + need + (if cls = 0 then 0 else 48 * 1048576) ≤ hamperBytes s)

/-! ### The order of R257 -/

/-- Lexicographic order on lists of numbers. -/
def lexLe : List Nat → List Nat → Bool
  | [], _ => true
  | _ :: _, [] => false
  | a :: as, b :: bs => if a < b then true else if b < a then false else lexLe as bs

/-- Key of a READY or SAVED job, the lower first: class; piece number or priority; SAVED first; round-robin distance; fetch order. -/
def candKey (s : State) (j : Job) : List Nat :=
  [j.cls, if j.cls = 0 then j.tag else 255 - j.prio, if j.state = .saved then 0 else 1, (j.fn.val + 16 - s.sched.rr % 16) % 16, j.id]

/-- Key of a job that may start at a boundary: one for which tiles were freed by pre-emption before the others (R257, 2). -/
def startKey (s : State) (j : Job) : List Nat :=
  (if s.sched.jobs.any fun v => v.freedFor == some j.id && !v.victim then 0 else 1) :: candKey s j

/-- Is a job's input there, and for a job that posts, is the basket at or below its mark (R336, R337, R355)? -/
def inputThere (s : State) (j : Job) : Bool := match j.kind with
  | .image _ _ => j.state == .saved || (j.decoded && !basketOver s)
  | .tailor _ _ => j.decoded
  | _ => true

def candidates (s : State) : List Job :=
  sortBy (fun a b => lexLe (startKey s a) (startKey s b))
    (s.sched.jobs.filter fun j => (j.state == .ready || j.state == .saved) && !j.saving && !j.damaged && inputThere s j)

/-- The mesh sets that a job must be placed on to start or to resume: that of its first stripe, or those of its stripes that are SAVED. -/
def Job.sets (j : Job) (p : PlanRec) : List (List (Nat × Nat)) :=
  if j.state = .saved then (j.lanes.filter fun l => l.state == .saved).map (·.placement) else [p.low.placement]

/-- Placements for a job where `ok` says which tiles may be used; a test names its tile. -/
def jobPlaces (s : State) (ok : Nat → Bool) (j : Job) : Option (List Place) :=
  match j.kind with
  | .test o => if ok o.tile then some [{ region := o.tile / 32, dr := 0, dc := 0, tiles := [o.tile] }] else none
  | _ => match jobPlan s j with
    | none => none
    | some p => if wardrobeRows s + p.low.scratchRows ≤ tsRows then findPlaces ok (j.sets p) [] else none

/-- Is a job's model resident (R257)? -/
def jobModelReady (s : State) (j : Job) : Bool := match jobPlan s j with
  | some p => modelReady s p
  | none => !j.kind.isRun

/-- The pairs of a stripe once its placement is known; a test takes no rows. -/
def lanePairs (s : State) (j : Job) (stripe : Nat) (pl : Place) : CtxPairs := match jobPlan s j with
  | some p => makePairs s j stripe p pl
  | none => { job := j.id, stripe := stripe, region := pl.region, sShift := pl.shift, sBase := wardrobeRows s, sCount := 0, wShift := 0,
              wBase := 0, wCount := 0, wWays := [], wRows := 0 }

/-- The use time of a model is the start of its last job (R270). -/
def touchModel (s : State) (j : Job) : State :=
  { s with sched := { s.sched with models := mapWhere (fun m => m.plan == j.plan && m.revision == j.revision) (fun m => { m with useTime := s.now }) s.sched.models } }

/-- The first stripe of a job as it starts: its next segment is the job's first. -/
def firstLane (s : State) (j : Job) : Lane := match jobPlan s j with
  | some p => { (default : Lane) with placement := p.low.placement, state := .wait, gate := p.low.gate, cmd := p.low.cmd }
  | none => { (default : Lane) with state := .wait }

/-- A stripe takes its placement: pairs, tiles and the count of shifted placements (R106, R190). -/
def takePlace (j : Job) (c : Nat) (s : State) (e : Lane × Place) : State :=
  let s := { s with sched := { s.sched with contexts := s.sched.contexts ++ [(c, lanePairs s j e.1.stripe e.2)] } }
  let s := holdTiles s j.id e.2.tiles
  let on := decide (e.2.dr ≠ 0 ∨ e.2.dc ≠ 0)
  let s := if on then s.countN famRegion e.2.region 13 1 else s
  modLane s j.id e.1.stripe fun l => { l with
    region := e.2.region, tiles := e.2.tiles, shifted := on, state := if l.state = .saved then .restoring else .wait }

/-- Start or restore a job on given placements; a SAVED job's restore begins (R267). The wait since READY or SAVED is accounted. -/
def bindJob (s : State) (j : Job) (c : Nat) (ps : List Place) : State :=
  let since := if j.state = .saved then j.savedAt else j.readyAt
  let rev := match findPlan s j.plan with | some p => if j.started then j.revision else p.revision | none => 0
  let lanes := if j.state = .saved then j.lanes.filter fun l => l.state == .saved else [firstLane s j]
  let s := modJob s j.id fun x => { x with
    state := .running, ctx := some c, started := true, revision := rev, freedFor := none, startAt := s.now, lanes := if j.state = .saved then x.lanes else lanes }
  let s := { s with sched := { s.sched with
    rr := j.fn.val + 1, jobs := mapWhere (fun x => x.freedFor == some j.id) (fun x => { x with freedFor := none }) s.sched.jobs } }
  let s := (lanes.zip ps).foldl (takePlace { j with revision := rev } c) s
  let s := if j.started then s else s.chipCnt (16 + j.cls % 4)
  let s := modAcct s j.fn fun a => { a with wait := a.wait + cyclesToNs (s.now - since) }
  touchModel s { j with revision := rev }

/-- Start a candidate when a context is free, its placement fits and its model is resident. -/
def tryStart (s : State) (j : Job) : Option State :=
  match freeContext s, jobPlaces s (tileOpen s) j, jobModelReady s j with
  | some c, some ps, true => some (bindJob s j c ps)
  | _, _, _ => none

/-! ### Pre-emption (R259, R260) -/

/-- RUNNING jobs of lower classes in the order of R260: lowest class, lowest priority, most recently started. -/
def victimOrder (s : State) (cls : Nat) : List Job :=
  sortBy (fun a b => lexLe [4 - a.cls, a.prio, s.now - a.startAt] [4 - b.cls, b.prio, s.now - b.startAt])
    (s.sched.jobs.filter fun j => j.state == .running && decide (cls < j.cls) && !j.saving && j.ctx.isSome)

/-- Could the job start if these jobs gave up what they hold? -/
def couldStart (s : State) (j : Job) (vs : List Job) : Bool :=
  let ok := fun t => tileServes s t && (match (s.tile t).job with | none => true | some k => vs.any fun v => v.id == k)
  ((freeContext s).isSome || !vs.isEmpty) && (jobPlaces s ok j).isSome &&
  (jobModelReady s j || (match jobPlan s j with
    | some p =>
      let s' := { s with sched := { s.sched with jobs := s.sched.jobs.filter fun x => !(vs.any fun v => v.id == x.id) } }
      (takeWays s' (planClass s p) (waysNeeded s p) (evictable s' (planClass s p))).isSome
    | none => false))

/-- Add victims in order until they suffice. -/
def addVictims (s : State) (j : Job) (vs : List Job) : List Job → Option (List Job)
  | [] => if couldStart s j vs then some vs else none
  | v :: rest => if couldStart s j vs then some vs else addVictims s j (vs ++ [v]) rest

/-- Walk back over the chosen victims and drop each that the others can do without. -/
def pruneVictims (s : State) (j : Job) (fixed : List Job) : List Job → List Job → List Job
  | keep, [] => keep
  | keep, v :: earlier =>
    if couldStart s j (fixed ++ earlier.reverse ++ keep) then pruneVictims s j fixed keep earlier else pruneVictims s j fixed (v :: keep) earlier

/-- The victims of a READY job; jobs already chosen count as freed. -/
def chooseVictims (s : State) (j : Job) : List Job :=
  let order := victimOrder s j.cls
  let chosen := s.sched.jobs.filter fun v => v.state == .running && v.victim
  match addVictims s j chosen (order.filter fun v => !v.victim) with
  | none => []
  | some vs =>
    let added := vs.drop chosen.length
    let vs := pruneVictims s j chosen [] added.reverse
    if hamperRoom s j.cls (chosen ++ vs) then vs else []

/-- Mark the victims of the READY jobs that cannot start. -/
def preempt (s : State) (j : Job) : State :=
  if j.state = .ready then
    (chooseVictims s j).foldl (fun s v => modJob s v.id fun x => { x with victim := true, freedFor := some j.id }) s
  else s

/-! ### The scheduler -/

/-- Order in which QUEUED jobs become READY: FEED in piece order, others in fetch order (R255). -/
def queueKey (j : Job) : List Nat := if j.cls = 0 then [0, j.tag, j.id] else [1, j.id]

/-- A job becomes READY. -/
def makeReady (s : State) (j : Job) : State := modJob s j.id fun x => { x with state := .ready, readyAt := s.now }

/-- QUEUED jobs whose input is there become READY while their plan's concurrency allows (R255). -/
def admitWaiting (s : State) : State :=
  (sortBy (fun a b => lexLe (queueKey a) (queueKey b)) (s.sched.jobs.filter fun j => j.state == .queued && j.inputReady)).foldl
    (fun s j => match j.kind with
      | .seq _ _ => s
      | .test _ => makeReady s j
      | .tailor _ _ =>
        if (s.sched.jobs.any fun k => k.plan == j.plan && decide (k.id < j.id) && (match k.kind with
            | .tailor _ _ => true
            | _ => false)) then s
        else match findPlan s j.plan with
          | some p => if busyJobs s j.plan < p.c.concurrency then makeReady s j else s
          | none => s
      | _ => match findPlan s j.plan with
        | some p => if busyJobs s j.plan < p.c.concurrency then makeReady s j else s
        | none => s) s

/-- Start candidates in the order of R257 until none can start. -/
def startAll (s : State) : Nat → State
  | 0 => s
  | f + 1 => match (candidates s).findSome? (tryStart s) with
    | some s' => startAll s' f
    | none => s

/-- The models that READY and SAVED jobs want and that are not in the wardrobe are asked for: a model that was dropped is loaded again at its next use
(R134, R270). -/
def askModels (s : State) : State :=
  (s.sched.jobs.filter fun j => j.state == .ready || j.state == .saved).foldl (fun s j => match jobPlan s j with
    | some p => if j.kind.isRun && !modelReady s p then requestLoad s p none else s
    | none => s) s

/-- Choose what runs on tiles that are free: take them in, start, and pick victims for the jobs left waiting. A module under a DEVICE error starts
no segment (R423). -/
def runSched (s : State) : State :=
  if s.pwr.device then s
  else
    let s := admitWaiting s
    let s := startAll s (s.sched.jobs.length + 1)
    (candidates s).foldl preempt (askModels s)

end Sys2Proof.Machine
end

