-- ==== Sys2Proof/Machine/Posts.lean ====
section
/-! DEFINITION. The basket (R336): its occupancy, its marks and the hold they cause, space for posts being built, and posts
committed (R317, R333). -/

namespace Sys2Proof.Machine

open Sys2Proof

/-- Set the basket cause of FEED_HOLD on the tracks that read pieces; first light keeps that cause for its capture buffer (R453). -/
def setBasketCause (s : State) (b : Bool) : State :=
  allTracks.foldl (fun s t =>
    if (s.track t).firstLight then s else s.modTrack t fun x => { x with hold := { x.hold with basket := b }, held := x.held || b }) s

/-- Judge the marks: above the high-water mark the hold is asserted, below the low-water mark it is released. -/
def basketMarks (s : State) : State :=
  let u := basketUsed s
  if mib * basketHigh s < u then setBasketCause ({ s with basket := { s.basket with hold := true } }.chipCnt 37 (b2n (!s.basket.hold))) true
  else if u < mib * basketLow s ∧ s.basket.hold then setBasketCause { s with basket := { s.basket with hold := false } } false
  else s

/-- Keys of posts being built: a FEED piece's by its number, a job's by its identifier. -/
def pieceKey (num : Nat) : Nat := 2 * num + 1
def jobKey (id : Nat) : Nat := 2 * id

/-- Bytes written for a post being built. -/
def buildingOf (s : State) (key : Nat) : Nat := smGet 0 s.basket.building key

def setBuilding (s : State) (key n : Nat) : State :=
  basketMarks { s with basket := { s.basket with building := smSet 0 s.basket.building key n } }

/-- May a host post of `n` bytes take space: the occupancy stays at or below the high-water mark (R336)? -/
def hostSpace (s : State) (key n : Nat) : Bool := decide (basketUsed s - buildingOf s key + n ≤ mib * basketHigh s)

/-- May a FEED post of `n` bytes take space? -/
def feedSpace (s : State) (key n : Nat) : Bool := decide (basketUsed s - buildingOf s key + n ≤ basketSize s)

/-- A post is committed: its build space becomes its own. -/
def commitPost (s : State) (key : Nat) (p : Post) : State :=
  basketMarks { s with basket := { s.basket with building := smSet 0 s.basket.building key 0, committed := s.basket.committed ++ [p] } }

/-- A post that is discarded frees its space (R333). -/
def discardBuilding (s : State) (key : Nat) : State := setBuilding s key 0

/-- Mark an image dropped (R336). -/
def dropImage (i : Image) : Image := { i with dropped := true, data := [] }

/-- Drop the images of one kind. -/
def dropKind (k : Nat) (is : List Image) : List Image := mapWhere (fun i => i.kind == k) dropImage is

/-- Do images fit the function's record ring with their record (R334)? -/
def ringFits (s : State) (fn : Fn) (n : Nat) : Bool := decide (n ≤ recSize s fn.val)

end Sys2Proof.Machine
end

