-- ==== Sys2Proof/Machine/Folds.lean ====
section
/-! DEFINITION. Folds: their members and what their jobs end with (R309, R310), reaching the commit point (R311, R312), and the
completions after the commit (R313). -/

namespace Sys2Proof.Machine

open Sys2Proof

/-- The fold of a ring with an identifier, open or closed. -/
def foldOf (s : State) (r : RingRef) (id : Nat) : Option FoldSt :=
  match (s.ring r).fold with
  | some f => if f.id = id then some f else (s.ring r).closed.find? fun f => f.id == id
  | none => (s.ring r).closed.find? fun f => f.id == id

def modFold (s : State) (r : RingRef) (id : Nat) (g : FoldSt → FoldSt) : State :=
  s.modRing r fun x => { x with
    fold := x.fold.map fun f => if f.id = id then g f else f,
    closed := mapWhere (fun f => f.id == id) g x.closed }

/-- The fold that a job is a member of. -/
def foldOfJob (s : State) (r : RingRef) (job : Nat) : Option FoldSt :=
  ((s.ring r).fold.toList ++ (s.ring r).closed).find? fun f => f.members.any fun m => m.job == some job

/-- Has every member job of a fold ended? -/
def foldEnded (f : FoldSt) : Bool := f.members.all fun m => m.job.isNone || m.ended.isSome

/-- The control cycle of an instant (R439). -/
def controlCycle (s : State) : Nat := s.now / 4

/-- The order of folds that reach the commit point in one control cycle: verdict folds by piece number, then host folds by function and
ring pair (R312). -/
def foldKeyOrd : FoldKey → List Nat
  | .verdict _ n => [0, n, 0]
  | .host r _ => [1, r.fn.val, r.pair.val]

/-- A fold reaches the commit point and takes its place in the order of R312. -/
def reachCommit (s : State) (k : FoldKey) : State :=
  let e := (controlCycle s, k)
  if s.commitQ.any (fun x => x.2 == k) then s
  else { s with commitQ := insertBy (fun a b => lexLe (a.1 :: foldKeyOrd a.2) (b.1 :: foldKeyOrd b.2)) e s.commitQ }

/-- A closed fold whose member jobs have all ended reaches the commit point. -/
def checkFold (s : State) (r : RingRef) (id : Nat) : State :=
  match (s.ring r).closed.find? fun f => f.id == id with
  | some f => if foldEnded f ∧ ¬ f.committed then reachCommit s (.host r id) else s
  | none => s

/-- A member's job ends: its status, detail and post are kept for the commit (R310). -/
def memberEnded (s : State) (r : RingRef) (job : Nat) (st : Status) (detail : List Byte) (post : Option Post) : State :=
  match foldOfJob s r job with
  | none => s
  | some f =>
    let g := fun (m : Member) => { m with ended := some st, detail := detail, act := (match m.act with
      | .record _ => .record post
      | a => a) }
    checkFold (modFold s r f.id fun f => { f with members := mapWhere (fun m => m.job == some job) g f.members }) r f.id

/-- What a job's end tells its descriptor: a completion, a post that carries it (R318), or a fold member's state. The results of a job
whose fold has gone are discarded (R309, R314). -/
def reportJob (s : State) (j : Job) (st : Status) (detail : List Byte) (post : Option Post) : State :=
  match j.ring with
  | none => discardBuilding s (jobKey j.id)
  | some r =>
    if j.member then
      if (foldOfJob s r j.id).isSome then memberEnded s r j.id st detail post else discardBuilding s (jobKey j.id)
    else
      let c : Compl := { hdr := j.hdr, opcode := j.opcode, status := st, member := false, arrived := false, detail := detail }
      match post with
      | some p => commitPost s (jobKey j.id) { p with done := some (r, c) }
      | none => postCompl (discardBuilding s (jobKey j.id)) r c

/-- The completions of a fold, written contiguously (R313): FOLD_OPEN, the members in order, FOLD_CLOSE. -/
def foldCompls (s : State) (r : RingRef) (f : FoldSt) (st : Status) (detail : Member → List Byte) (outer : List Byte) : State :=
  let c := fun (h : Hdr) (op : Nat) (m : Bool) (st : Status) (d : List Byte) =>
    ({ hdr := h, opcode := op, status := st, member := m, arrived := false, detail := d } : Compl)
  let s := postCompl s r (c f.openHdr 0x48 false st outer)
  let s := f.members.foldl (fun s m => postCompl s r (c m.hdr m.opcode true (if m.ended = some .dramUncorrectable ∧ f.committed then .dramUncorrectable else st)
    (detail m))) s
  match f.closeHdr with
  | some h => postCompl s r (c h 0x49 false st outer)
  | none => s

/-- Detail of FOLD_ABORTED (Table 11-7). -/
def abortDetail (idx opcode : Nat) (cause : Status) : List Byte := leBytes 2 idx ++ leBytes 1 opcode ++ zeros 1 ++ leBytes 2 cause.code

/-- Forget a fold. -/
def dropFold (s : State) (r : RingRef) (id : Nat) : State :=
  let s := s.modRing r fun x => { x with
    fold := x.fold.bind fun f => if f.id = id then none else some f,
    closed := x.closed.filter fun f => f.id != id }
  { s with commitQ := s.commitQ.filter fun e => e.2 != .host r id }

/-- Discard what the members of a fold have built (R311). -/
def discardMembers (s : State) (f : FoldSt) : State :=
  f.members.foldl (fun s m => match m.job with | some j => discardBuilding s (jobKey j) | none => s) s

/-- A fold aborts: nothing of it takes effect, its posts are discarded, and every completion carries FOLD_ABORTED (R311, R313). -/
def abortFold (s : State) (r : RingRef) (f : FoldSt) (idx opcode : Nat) (cause : Status) : State :=
  let d := abortDetail idx opcode cause
  dropFold (foldCompls (discardMembers s f) r { f with committed := false } .foldAborted (fun _ => d) d) r f.id

/-- The revision under which a prepared model waits for its swap, told apart from revisions in force. -/
def prepRevision (job : Nat) : Nat := 0x10000 + job

/-- A prepared model is given up. -/
def dropPrepared (s : State) (job : Nat) : State :=
  { s with
    sched := { s.sched with models := s.sched.models.filter fun m => m.revision != prepRevision job },
    tailor := { s.tailor with steps := s.tailor.steps.filter fun x => !(x.job == job && x.prep.isSome) } }

/-- Prepared swaps of a fold that aborts are given up; an aborted TAILOR_STEP keeps its masters (R360). -/
def dropSwaps (s : State) (f : FoldSt) : State :=
  f.members.foldl (fun s m => match m.act, m.job with
    | .swap, some j => dropPrepared s j
    | _, _ => s) s

/-- An open fold aborts without completions: on a fault, a stop or a reset (R294, R314). Closed folds that have not committed abort too
when the pair stops. -/
def abandonFolds (s : State) (r : RingRef) (all : Bool) : State :=
  ((s.ring r).fold.toList ++ (if all then (s.ring r).closed.filter (fun f => !f.committed) else [])).foldl
    (fun s f => dropFold (discardMembers (dropSwaps s f) f) r f.id) s

end Sys2Proof.Machine
end

