-- ==== Sys2Proof/Machine/LinePort.lean ====
section
/-! DEFINITION. Line ports and rinse: packets (R31 to R35), conditioning (R59, R60), registration, sub-lines, averaging and mirroring
(R68 to R71), edges of a line (R80), and coefficient sets built from strip or calibration readings (R62, R65, R66). -/

namespace Sys2Proof.Machine

open Sys2Proof

/-! ### The settings at arming (R58) -/

/-- A port's settings as the registers give them now. -/
def portCfg (s : State) (p : Port) (t : Track) (sd : Side) : PortCfg :=
  let w := lpReg s p 0
  let lane := lpReg s p 4
  let offs := lpReg s p 8
  let loss := lpReg s p 12
  let cnd := cndReg s p 0
  let e := cndReg s p 8
  let k := cndReg s p 0x10
  let cal := cndReg s p 0x14
  let img := cndReg s p 0x2C
  let bin := cndReg s p 0x30
  let refeed := regGet s 0 0x10408
  { track := t, side := sd, width := bitsOf w 13 0 + 1, switched := bitAt w 16,
    lanes := if bitsOf lane 1 0 = 0 then 2 else if bitsOf lane 1 0 = 1 then 4 else 8, laneRate := bitsOf lane 15 8 * 50,
    offs := [bitsOf offs 5 0, bitsOf offs 13 8, bitsOf offs 21 16],
    lossRun := bitsOf loss 3 0, lossSide := bitsOf loss 15 8,
    depth16 := bitAt cnd 0, xavg := bitsOf cnd 2 1 + 1, subline := bitAt cnd 3, mirror := bitAt cnd 4, fillWhite := bitAt cnd 5,
    crop := bitAt cnd 6, twinKeep := bitAt cnd 7,
    threshold := bitsOf e 7 0, minRun := bitsOf e 13 8, minCols := bitsOf e 27 16, trail := bitsOf e 39 32, leadWin := bitsOf e 59 48,
    skewK := bitsOf k 11 0, reject := bitsOf k 15 12, minPts := bitsOf k 27 16,
    tol := bitsOf cal 7 0, maxFrac := bitsOf cal 15 8, gapLines := bitsOf cal 22 16,
    target := [bitsOf (cndReg s p 0x18) 15 0, bitsOf (cndReg s p 0x1C) 15 0, bitsOf (cndReg s p 0x20) 15 0],
    lmax := lmaxLines s t, lwinMiB := bitsOf (cndReg s p 0x24) 9 0, cropMargin := bitsOf (cndReg s p 0x28) 7 0,
    imgOut := bitsOf img 2 0, imgLayout := bitsOf img 5 4, quality := bitsOf img 14 8,
    bin := (bitsOf bin 5 0, bitsOf bin 15 8, bitsOf bin 23 16, bitsOf bin 31 24),
    backOffset := bitsOf (trackReg s t 8) 11 0, stopLines := bitsOf (trackReg s t 12) 15 0,
    sMax := bitsOf refeed 2 0, diff := bitsOf refeed 15 8 }

/-- The largest colour offset in force: none in switched-lamp mode. -/
def PortCfg.maxOff (c : PortCfg) : Nat := if c.switched then 0 else maxNat c.offs

/-- The conditioned width ⌈w / a⌉ (R70). -/
def PortCfg.condWidth (c : PortCfg) : Nat := ceilDiv c.width c.xavg

/-- Bytes of one conditioned line before padding, and of a line-window entry (R74). -/
def PortCfg.lineBytes (c : PortCfg) : Nat := 3 * c.condWidth * (if c.depth16 then 2 else 1)
def PortCfg.entryBytes (c : PortCfg) : Nat := 32 + 32 * ceilDiv c.lineBytes 32

/-! ### Packets -/

/-- A packet as Table 02-2 lays it out. -/
structure Packet where
  num : Nat
  col : Nat
  port : Nat
  w : Nat
  fe : Nat
  samples : List Nat
deriving DecidableEq, Repr, Inhabited

/-- Samples of 12 bits packed in pairs. -/
def unpackSamples (b : List Byte) (w : Nat) : List Nat :=
  (List.range w).map fun i => let v := fieldAt b (3 * (i / 2)) 3; if i % 2 = 0 then v % 4096 else v / 4096

/-- The fields of a packet. -/
def parsePacket (b : List Byte) : Packet :=
  let h0 := fieldAt b 4 4
  let h1 := fieldAt b 8 4
  let w := bitsOf h1 13 0 + 1
  { num := bitsOf h0 23 0, col := bitsOf h0 27 24, port := bitsOf h0 29 28, w := w, fe := bitsOf h1 23 16,
    samples := unpackSamples (b.drop 12) w }

/-- Bytes up to the CRC of a packet of w samples. -/
def packetBody (w : Nat) : Nat := 12 + 3 * ceilDiv w 2

/-- The bytes of one byte time, one on each of L lanes. -/
def laneColumn (L : Nat) (lanes : List (List Byte)) (k : Nat) : List Byte := (List.range L).map fun i => (lanes.getD i []).getD k 0

/-- The bytes that the lanes in use deliver: byte i of a packet is lane i mod L's byte i / L (R33). -/
def laneBytes (L : Nat) (lanes : List (List Byte)) : List Byte :=
  (List.range (maxNat ((lanes.take L).map (·.length)))).flatMap (laneColumn L lanes)

/-- Idle byte times before the first byte that is not idle. -/
def idleTimes (L : Nat) (lanes : List (List Byte)) : Nat :=
  ((List.range (maxNat ((lanes.take L).map (·.length)))).takeWhile fun k => (laneColumn L lanes k).all (· == 0)).length

/-- The packet that the lanes deliver after their idle bytes; none where no idle byte precedes it, for the receiver looks for a sync word only after one
(R33). -/
def packetOfLanes (L : Nat) (lanes : List (List Byte)) : Option (List Byte) :=
  if idleTimes L lanes = 0 then none else some (laneBytes L (lanes.map fun l => l.drop (idleTimes L lanes)))

/-- A packet laid on eight lanes after one idle byte, the first L in use (R33). -/
def onLanes (L : Nat) (b : List Byte) : List (List Byte) :=
  (List.range 8).map fun i => 0 :: (if i < L then (List.range (b.length / L)).map fun k => b.getD (k * L + i) 0 else [])

/-- Does the CRC of a packet hold (R32)? -/
def packetCrc (b : List Byte) : Bool :=
  let n := packetBody (parsePacket b).w
  decide (n + 4 ≤ b.length) && crc32 (slice b 4 (n - 4)) == BitVec.ofNat 32 (fieldAt b n 4)

/-- Is a packet in the form of Table 02-2: sync word, zero pad of an odd width, zero fill up to a multiple of L bytes? -/
def packetForm (b : List Byte) (lanes : Nat) : Bool :=
  let w := (parsePacket b).w
  let n := packetBody w + 4
  b.take 4 == [0xB8, 0x47, 0x1D, 0xE2] && decide (b.length = lanes * ceilDiv n lanes) && (b.drop n).all (· == 0) &&
  (w % 2 == 0 || fieldAt b (12 + 3 * (w / 2)) 3 / 4096 == 0)

/-- The colour of a code in a mode, none where the code does not belong (Table 02-3): `dark` in the dark part of CAL_RUN. -/
def colourOf (switched dark : Bool) (code : Nat) : Option Nat :=
  if dark then
    if switched then (if code = 8 then some 0 else none) else (if 8 ≤ code ∧ code ≤ 10 then some (code - 8) else none)
  else if switched then (if 4 ≤ code ∧ code ≤ 6 then some (code - 4) else none)
  else if code ≤ 2 then some code else none

/-- Judge the lock after a packet: set after 16 good CRCs in a row, cleared after 4 bad ones (R31). -/
def lockAfter (p : PortState) (good : Bool) : PortState :=
  let p := if good then { p with goodRun := p.goodRun + 1, badRun := 0 } else { p with goodRun := 0, badRun := p.badRun + 1 }
  if 16 ≤ p.goodRun then { p with locked := true } else if 4 ≤ p.badRun then { p with locked := false } else p

/-! ### Conditioning -/

/-- Narrow a 16-bit conditioned value to the armed depth (R60). -/
def atDepth (d16 : Bool) (v : Nat) : Nat := if d16 then v else min 255 (roundEvenDiv v 256).toNat

/-- Offset and gain (R59): the gain is unsigned 6.10. -/
def condSample (c : Coef) (x : Nat) : Nat := (clampInt (roundEvenDiv (((x : Int) - c.offset) * c.gain) 1024) 0 65535).toNat

/-- One colour of a coefficient set. -/
def coefCol (k : CoefSet) (c : Nat) : List Coef := if c = 0 then k.r else if c = 1 then k.g else k.b

/-- One colour line through offset, gain and depth. -/
def condLine (cfg : PortCfg) (k : List Coef) (raw : List Nat) : List Nat :=
  (List.range raw.length).map fun i => atDepth cfg.depth16 (condSample (k.getD i default) (raw.getD i 0))

/-- Mean of a group of pixels, ties to even; the last group averages what remains (R70). -/
def averageLine (a : Nat) (d : List Nat) : List Nat :=
  (chunksOf a d.length d).map fun g => (roundEvenDiv ((sumNat g : Nat) : Int) g.length).toNat

/-- (n₁·a + n₂·b)/3 rounded to even: the sub-line correction (R69; rounding: log 23). -/
def subLine (n1 n2 : Nat) (a b : List Nat) : List Nat :=
  (List.range a.length).map fun i => (roundEvenDiv (((n1 * a.getD i 0 + n2 * b.getD i 0 : Nat) : Int)) 3).toNat

/-- The conditioned line of three colours of raw samples; `prev` is the raw line before, for the sub-line correction of R69; the first line of an arming has
none and is not corrected (DESIGN CHOICE, log 67). -/
def condReg (cfg : PortCfg) (k : CoefSet) (raw : List (List Nat)) (prev : Option (List (List Nat))) : List (List Nat) :=
  let c := fun (r : List (List Nat)) (i : Nat) => condLine cfg (coefCol k i) (r.getD i [])
  let one := fun (i : Nat) =>
    let d := c raw i
    let d := match prev with
      | some pr => if cfg.switched && cfg.subline then (if i = 1 then subLine 2 1 d (c pr 1) else if i = 2 then subLine 1 2 d (c pr 2) else d) else d
      | none => d
    let d := averageLine cfg.xavg d
    if cfg.mirror && cfg.side == .back then d.reverse else d
  [one 0, one 1, one 2]

/-! ### Edges of a line (R80) -/

/-- The strip value of a colour at the armed depth. -/
def stripValue (cfg : PortCfg) (c : Nat) : Nat := atDepth cfg.depth16 (cfg.target.getD c 0)

/-- The threshold at the armed depth: the 8-bit scale times 256 at depth 16 (log 23). -/
def edgeThreshold (cfg : PortCfg) : Nat := if cfg.depth16 then 256 * cfg.threshold else cfg.threshold

/-- Which pixels of a line are paper; a colour that the line does not hold (R36) shows none. -/
def paperPixels (cfg : PortCfg) (data : List (List Nat)) : List Bool :=
  (List.range (maxNat (data.map (·.length)))).map fun x =>
    [0, 1, 2].any fun c => !(data.getD c []).isEmpty && decide (edgeThreshold cfg < absDiffN ((data.getD c []).getD x 0) (stripValue cfg c))
where
  absDiffN (a b : Nat) : Nat := (a - b) + (b - a)

/-- Lengths of runs: each pixel's run of paper pixels is kept when it is at least `n` long. -/
def keepRuns (n : Nat) : Nat → List Bool → List Bool
  | k, [] => List.replicate k (decide (n ≤ k) && decide (0 < k))
  | k, true :: bs => keepRuns n (k + 1) bs
  | k, false :: bs => List.replicate k (decide (n ≤ k)) ++ false :: keepRuns n 0 bs

/-- The paper columns of a line. -/
def paperColumns (cfg : PortCfg) (data : List (List Nat)) : List Bool := keepRuns cfg.minRun 0 (paperPixels cfg data)

/-- Indices of the set columns. -/
def columnsOf (cols : List Bool) : List Nat := (List.range cols.length).filter fun i => cols.getD i false

/-! ### Coefficients from readings (R62, R65, R66) -/

/-- A mean of `n` readings in unsigned 12.4, ties to even: R62 states no rounding for the strip mean (DESIGN CHOICE, log 67). -/
def mean124 (sum n : Nat) : Nat := if n = 0 then 0 else (roundEvenDiv ((16 * sum : Nat) : Int) n).toNat

/-- The gain t / (m − o) in 6.10 (m in 12.4, o in codes), ties to even: R62 states no rounding for the gain (DESIGN CHOICE, log 67); none when m − o ≤ 0 or
the gain exceeds 63.999. -/
def gainOf (t m o : Nat) : Option Nat :=
  if m ≤ 16 * o then none
  else
    let g := (roundEvenDiv ((t * 16384 : Nat) : Int) (m - 16 * o)).toNat
    -- 63.999 in 6.10 is the largest code, 65535
    if 65535 * (m - 16 * o) < t * 16384 then none else some (min g 65535)

/-- CAL_RUN of one colour: offsets from the dark sums, means and gains from the lamp sums; dead pixels as R66 lays down. -/
def calColour (t : Nat) (darkN lampN : Nat) (dark lamp : List Nat) (prev : Option (List Coef)) : List Coef :=
  let raw : List (Nat × Nat × Option Nat) := (List.range lamp.length).map fun i =>
    let o := if darkN = 0 then 0 else min 4095 (roundEvenDiv ((dark.getD i 0 : Nat) : Int) darkN).toNat
    let m := mean124 (lamp.getD i 0) lampN
    (o, m, gainOf t m o)
  let live := raw.filterMap fun (e : Nat × Nat × Option Nat) => e.2.2
  let meanGain := if live.isEmpty then 0x0400 else (roundEvenDiv ((sumNat live : Nat) : Int) live.length).toNat
  (List.range raw.length).map fun i =>
    let e := raw.getD i (0, 0, none)
    match e.2.2 with
    | some g => { offset := e.1, dead := false, kept := false, gain := g, mean := e.2.1 }
    | none => match prev with
      | some p => { p.getD i default with dead := true, mean := e.2.1 }
      | none => { offset := e.1, dead := true, kept := false, gain := meanGain, mean := e.2.1 }

/-- Does a reading differ from the reference mean by more than tol (R65)? -/
def stripMoved (tol m m' : Nat) : Bool := decide (tol * m < 256 * ((m - m') + (m' - m)))

/-- A gap update of one colour: each entry takes its new gain, or is kept. -/
def gapColour (tol t n : Nat) (sums : List Nat) (k : List Coef) : List Coef :=
  (List.range k.length).map fun i =>
    let c := k.getD i default
    let m' := mean124 (sums.getD i 0) n
    if stripMoved tol c.mean m' then { c with kept := true }
    else match gainOf t m' c.offset with
      | some g => { c with kept := false, dead := false, gain := g, mean := m' }
      | none => { c with dead := true, kept := false, mean := m' }

/-- Counts of kept and dead pixels. -/
def keptCount (k : List Coef) : Nat := (k.filter (·.kept)).length
def deadCount (k : List Coef) : Nat := (k.filter (·.dead)).length

/-- A colour line is dead when more than half of its pixels are (R66). -/
def colourDead (k : List Coef) : Bool := decide (k.length < 2 * deadCount k)

/-- The colours of a set that are dead lines. -/
def deadColours (k : CoefSet) : List Nat := [0, 1, 2].filter fun c => colourDead (coefCol k c)

/-- Bytes of a coefficient entry in the host buffer (R62, Table 03-2). -/
def coefBytes (c : Coef) : List Byte :=
  leBytes 4 (c.offset + b2n c.dead * 2 ^ 12 + b2n c.kept * 2 ^ 13 + c.gain * 2 ^ 16) ++ leBytes 2 c.mean ++ zeros 2

/-- The host buffer of CAL_RUN: red, green, blue. -/
def coefSetBytes (k : CoefSet) : List Byte := k.r.flatMap coefBytes ++ k.g.flatMap coefBytes ++ k.b.flatMap coefBytes

end Sys2Proof.Machine
end

