-- ==== Sys2Proof/Machine/Geometry.lean ====
section
/-! DEFINITION. Page geometry: edge points and the skew fit (R85, R86), press (R88), and the affine map and crop of a SIDE chunk (R89). -/

namespace Sys2Proof.Machine

open Sys2Proof

/-! ### Least squares -/

/-- Fit y = a + b·x by least squares: (a, b); a constant when every x is the same. -/
def fitLine (pts : List (Rat × Rat)) : Rat × Rat :=
  let n : Rat := (pts.length : Nat)
  let sx := pts.foldl (fun s p => s + p.1) 0
  let sy := pts.foldl (fun s p => s + p.2) 0
  let sxx := pts.foldl (fun s p => s + p.1 * p.1) 0
  let sxy := pts.foldl (fun s p => s + p.1 * p.2) 0
  let d := n * sxx - sx * sx
  if n = 0 then (0, 0) else if d = 0 then (sy / n, 0)
  else let b := (n * sxy - sx * sy) / d; ((sy - b * sx) / n, b)

def ratPts (ps : List (Nat × Nat)) : List (Rat × Rat) := ps.map fun p => ((p.1 : Nat), (p.2 : Nat))

/-- The second pass: points within `rej` lines of the first fit, measured along the feed (log 24). -/
def inliers (rej : Nat) (f : Rat × Rat) (pts : List (Rat × Rat)) : List (Rat × Rat) :=
  pts.filter fun p => let d := p.2 - (f.1 + f.2 * p.1); decide (-(rej : Rat) ≤ d ∧ d ≤ rej)

/-- Span of the x of points. -/
def spanX (pts : List (Rat × Rat)) : Rat := match pts with
  | [] => 0
  | p :: ps => ps.foldl (fun m q => max m q.1) p.1 - ps.foldl (fun m q => min m q.1) p.1

/-- tan θ from the slope of a fit and the pitches. -/
def tanLead (m py px : Rat) : Rat := m * py / px
def tanSide (ml py px : Rat) : Rat := -ml * px / py

/-- The second estimate's leading edge: the perpendicular to the fitted left edge, through the corner that piece line 0 shows first (R85 gives the angle alone:
DESIGN CHOICE, log 24). -/
def sideLead (m : Rat) (left right : Rat × Rat) : Rat := -(m * (if 0 ≤ m then left.1 else right.1))

/-- The skew of a side from its leading-edge points (x, e) and its side edges (line, first, last) (R85): the angle's tangent and the
fits. The paper width of the quarter-width test is the widest span from first to last paper pixel in the window, and with an unknown skew the side edges are
the outermost paper pixels of the window (both DESIGN CHOICE, log 24). -/
def skewFit (cfg : PortCfg) (px py : Rat) (lead : List (Nat × Nat)) (edges : List (Nat × Nat × Nat)) : Rat × SkewSt :=
  let pts := ratPts lead
  let in2 := inliers cfg.reject (fitLine pts) pts
  let f := fitLine in2
  let left := fitLine (edges.map fun e => (((e.1 : Nat) : Rat), ((e.2.1 : Nat) : Rat)))
  let right := fitLine (edges.map fun e => (((e.1 : Nat) : Rat), ((e.2.2 : Nat) : Rat)))
  let width := maxNat (edges.map fun e => e.2.2 - e.2.1 + 1)
  let st : SkewSt := { theta := 0, e0 := f.1, m := f.2, x0 := left.1, ml := left.2, xr := right.1, mr := right.2, source := 0 }
  if cfg.minPts ≤ in2.length ∧ ((width : Nat) : Rat) / 4 ≤ spanX in2 then
    let t := tanLead f.2 py px
    (t, { st with theta := Config.atanDeg t })
  else if cfg.minPts ≤ edges.length then
    let t := tanSide left.2 py px
    let m := t * px / py
    (t, { st with theta := Config.atanDeg t, m := m, e0 := sideLead m left right, source := 1 })
  else (0, { st with theta := 0, e0 := 0, m := 0, ml := 0, mr := 0, source := 2,
                     x0 := ((edges.foldl (fun m e => min m e.2.1) (edges.headD (0, 0, 0)).2.1 : Nat) : Rat),
                     xr := ((maxNat (edges.map fun e => e.2.2) : Nat) : Rat) })

/-- |θ| > 15°: |tan θ| > 2 − √3 (R86). -/
def skewTooLarge (t : Rat) : Bool := let a := if t < 0 then -t else t; decide (1 < a ∨ (a < 2 ∧ (2 - a) * (2 - a) < 3))

/-- Do two estimates differ by more than 0.5° (R86)? -/
def skewDiffers (a b : Word32) : Bool :=
  let d := fpRat (f32 a) - fpRat (f32 b)
  decide (1 / 2 < (if d < 0 then -d else d))

/-! ### Press (R88) -/

/-- The rotation centre: where the leading-edge fit meets the left-edge fit, as (pixel, line). -/
def rotCentre (k : SkewSt) : Rat × Rat :=
  let d := 1 - k.ml * k.m
  let n := if d = 0 then k.e0 else (k.e0 + k.m * k.x0) / d
  (k.x0 + k.ml * n, n)

/-- Where the leading-edge fit meets the right-edge fit. -/
def rightCorner (k : SkewSt) : Rat × Rat :=
  let d := 1 - k.mr * k.m
  let n := if d = 0 then k.e0 else (k.e0 + k.m * k.xr) / d
  (k.xr + k.mr * n, n)

/-- Cosine and sine of the rotation: with an unknown skew press does not rotate (R85). -/
def cosR (k : SkewSt) : Rat := if k.source = 2 then 1 else fpRat (f32 (Config.cosDeg k.theta))
def sinR (k : SkewSt) : Rat := if k.source = 2 then 0 else fpRat (f32 (Config.sinDeg k.theta))

/-- Deskewed coordinates of a source point, in pixels and lines from the rotation centre. -/
def toDeskewed (k : SkewSt) (px py : Rat) (x n : Rat) : Rat × Rat :=
  let c := rotCentre k
  let dx := (x - c.1) * px
  let dy := (n - c.2) * py
  ((cosR k * dx + sinR k * dy) / px, (cosR k * dy - sinR k * dx) / py)

/-- The source point of a deskewed point. -/
def fromDeskewed (k : SkewSt) (px py : Rat) (i j : Rat) : Rat × Rat :=
  let c := rotCentre k
  let dx := i * px
  let dy := j * py
  (c.1 + (cosR k * dx - sinR k * dy) / px, c.2 + (sinR k * dx + cosR k * dy) / py)

/-- The trailing corner: the end of the trailing edge that the sensor shows last, at line T, on the right edge when the right end comes later (log 24). -/
def trailCorner (k : SkewSt) (T : Nat) : Rat × Rat :=
  (if 0 ≤ k.m then k.xr + k.mr * ((T : Nat) : Rat) else k.x0 + k.ml * ((T : Nat) : Rat), ((T : Nat) : Rat))

/-- The trailing edge's line at a pixel: through the trailing corner, parallel to the leading edge (R88; log 24). -/
def trailAt (k : SkewSt) (T : Nat) (x : Rat) : Rat := ((T : Nat) : Rat) + k.m * (x - (trailCorner k T).1)

/-- Floor and ceiling as integers. -/
def ratFloor (q : Rat) : Int := q.num.fdiv q.den

/-- The crop rectangle: left, top, right (exclusive), bottom (exclusive), in pixels and lines from the rotation centre (R88; the rectangle of
a fitted edge: log 24). Without crop it is the whole sensor and the lines up to T. -/
def cropRect (cfg : PortCfg) (k : SkewSt) (px py : Rat) (T : Nat) : List Int :=
  let c := rotCentre k
  let w := cfg.condWidth
  let whole : List Int := [ratFloor (-c.1), ratFloor (-c.2), ratFloor (-c.1) + w, ratFloor (-c.2) + T + 1]
  if !cfg.crop then whole
  else
    let r := (toDeskewed k px py (rightCorner k).1 (rightCorner k).2).1
    let b := (toDeskewed k px py (trailCorner k T).1 (trailCorner k T).2).2
    let m := (cfg.cropMargin : Int)
    let l := max (0 - m) (ratFloor (-c.1))
    let rt := min (ratFloor r + 1 + m) (ratFloor (-c.1) + w)
    [l, 0 - m, max (l + 1) rt, max (1 - m) (ratFloor b + 1 + m)]

/-- The fill of a pixel outside the paper (R88). -/
def fillValue (cfg : PortCfg) (c : Nat) : Nat :=
  if cfg.fillWhite then (if cfg.depth16 then 65535 else 255) else stripValue cfg c

/-- One deskewed pixel: a bilinear sample of the side's lines at 16.16 coordinates, or the fill outside the paper. -/
def pressPixel (cfg : PortCfg) (k : SkewSt) (px py : Rat) (T : Nat) (rows : Nat → Option (List (List Nat))) (i j : Int) : List Nat :=
  let p := fromDeskewed k px py i j
  let inside := decide (k.x0 + k.ml * p.2 ≤ p.1 + 1 / 2 ∧ p.1 ≤ k.xr + k.mr * p.2 + 1 / 2 ∧ k.e0 + k.m * p.1 ≤ p.2 + 1 / 2 ∧
    p.2 ≤ trailAt k T p.1 + 1 / 2)
  if !inside then [fillValue cfg 0, fillValue cfg 1, fillValue cfg 2]
  else
    let at2 := fun (c : Nat) (x y : Int) =>
      let row := match rows y.toNat with | some r => r.getD c [] | none => []
      fpOf (((row.getD x.toNat 0 : Nat)) : Rat)
    let x16 := roundEvenRat (p.1 * 65536)
    let y16 := roundEvenRat (p.2 * 65536)
    [0, 1, 2].map fun c => (roundEvenRat (fpRat (geoBilinear (at2 c) cfg.condWidth (T + 1) none x16 y16))).toNat

/-- Row `j` of the deskewed and cropped side, pixels of three components. -/
def pressRow (cfg : PortCfg) (k : SkewSt) (px py : Rat) (T : Nat) (lines : List (Nat × List (List Nat))) (j : Nat) : List (List Nat) :=
  let r := cropRect cfg k px py T
  let w := (r.getD 2 0 - r.getD 0 0).toNat
  (List.range w).map fun (i : Nat) => pressPixel cfg k px py T (fun n => smFind lines n) (r.getD 0 0 + i) (r.getD 1 0 + j)

/-- Can press emit row `j` when piece lines 0 to `avail` - 1 are in the tile store: are all its source lines there, and, while T is not known, on the paper
up to the last line `paper` that has shown it, so that the trailing edge cannot change the row (R88; log 72)? -/
def rowReady (cfg : PortCfg) (k : SkewSt) (px py : Rat) (T : Option Nat) (paper avail j : Nat) : Bool :=
  let r := cropRect cfg k px py (T.getD paper)
  let ends := [r.getD 0 0, r.getD 2 0 - 1].map fun (i : Int) => fromDeskewed k px py i (r.getD 1 0 + (j : Int) : Int)
  match T with
  | some T => decide (T < avail) || ends.all fun p => decide (p.2 + 2 ≤ ((avail : Nat) : Rat))
  | none => ends.all fun p => decide (p.2 + 2 ≤ ((avail : Nat) : Rat) ∧ p.2 + 1 ≤ ((paper : Nat) : Rat) ∧ p.2 + 1 ≤ trailAt k paper p.1)

/-- Rows that press has emitted: the leading ones that are ready, in line order (R88). -/
def rowsReady (cfg : PortCfg) (k : SkewSt) (px py : Rat) (T : Option Nat) (paper avail : Nat) : Nat :=
  let r := cropRect cfg k px py (T.getD paper)
  ((List.range (r.getD 3 0 - r.getD 1 0).toNat).takeWhile (rowReady cfg k px py T paper avail)).length

/-- The deskewed and cropped side, rows of pixels of three components. -/
def pressSide (cfg : PortCfg) (k : SkewSt) (px py : Rat) (T : Nat) (lines : List (Nat × List (List Nat))) : List (List (List Nat)) :=
  let r := cropRect cfg k px py T
  (List.range (r.getD 3 0 - r.getD 1 0).toNat).map (pressRow cfg k px py T lines)

/-- Page units per pixel and per line, as rationals and FP32 (R89). -/
def unitsX (px : Rat) : Rat := 1200 * px
def unitsY (py : Rat) : Rat := 1200 * py

/-- The affine map from (pixel, piece line) to page units from the top-left corner of the cropped side (R89). -/
def affineMap (k : SkewSt) (px py : Rat) (crop : List Int) : List Word32 :=
  let o := toDeskewed k px py 0 0
  let ex := toDeskewed k px py 1 0
  let ey := toDeskewed k px py 0 1
  let l : Rat := ((crop.getD 0 0 : Int) : Rat)
  let t : Rat := ((crop.getD 1 0 : Int) : Rat)
  [f32Rat ((ex.1 - o.1) * unitsX px), f32Rat ((ey.1 - o.1) * unitsX px), f32Rat ((o.1 - l) * unitsX px),
   f32Rat ((ex.2 - o.2) * unitsY py), f32Rat ((ey.2 - o.2) * unitsY py), f32Rat ((o.2 - t) * unitsY py)]

/-- Density in dots per inch of a pitch, rounded. -/
def dpiOf (p : Rat) : Nat := if p = 0 then 0 else (roundEvenRat (1 / p)).toNat

end Sys2Proof.Machine
end

