-- ==== Sys2Proof/Machine/Pieces.lean ====
section
/-! DEFINITION. Pieces: their lines and sides, DIAG entries (R324), discards (R37, R84, R302), reaching the verdict fold (R19, R25), and
the verdict fold's commit: entry, record and images together (R26, R368, R369). -/

namespace Sys2Proof.Machine

open Sys2Proof

/-! ### Access -/

def findPiece (s : State) (t : Track) (n : Nat) : Option Piece := (s.track t).pieces.find? fun p => p.num == n

def modPiece (s : State) (t : Track) (n : Nat) (f : Piece → Piece) : State :=
  s.modTrack t fun x => { x with pieces := mapWhere (fun p => p.num == n) f x.pieces }

def Piece.side (p : Piece) (sd : Side) : PieceSide := match sd with | .front => p.front | .back => p.back
def Piece.modSide (p : Piece) (sd : Side) (f : PieceSide → PieceSide) : Piece := match sd with
  | .front => { p with front := f p.front }
  | .back => { p with back := f p.back }

/-- The piece line that the track's encoder line count stands at (R14, R16). -/
def pieceLine (s : State) (t : Track) (p : Piece) : Nat := match p.line0 with
  | some l => ((s.track t).encLine - l).toNat
  | none => 0

/-- Is a piece still being read: not discarded, not at its fold, not posted? -/
def Piece.live (p : Piece) : Bool := p.status == .ok && !p.inFold && !p.posted

/-- Back-sensor offset Δ of a track as armed (R48). -/
def trackDelta (s : State) (t : Track) : Nat := (s.track t).delta

/-- Lines that a side runs behind the front side (R48). -/
def sideDelta (s : State) (t : Track) (sd : Side) : Int := match sd with
  | .front => 0
  | .back => ((trackDelta s t : Nat) : Int)

/-- The highest encoder line committed on a port. -/
def committedTop (p : PortState) : Int := match p.window.getLast? with
  | some l => l.pos
  | none => p.nextPos - 1

/-- Has every armed side committed the piece's last line, so that no restart captures a line of it again (R53)? First light commits none (R453). -/
def linesCommitted (s : State) (t : Track) (p : Piece) : Bool := match p.line0, p.T with
  | some l, some T => (s.track t).firstLight || (s.track t).sides.all fun x => decide (l + ((T : Nat) : Int) + sideDelta s t x.1 ≤ committedTop (s.lp x.2))
  | _, _ => true

/-- Add a DIAG entry (R324). -/
def addDiag (ds : List Diag) (kind : Nat) (sd : Side) (line value : Nat) : List Diag :=
  if ds.any fun d => d.kind == kind && d.side == sd then
    mapWhere (fun d => d.kind == kind && d.side == sd)
      (fun d => { d with count := d.count + 1, entries := if d.entries.length < 1024 then d.entries ++ [(line, value)] else d.entries }) ds
  else ds ++ [{ kind := kind, side := sd, count := 1, entries := [(line, value)] }]

def diagPiece (s : State) (t : Track) (n kind : Nat) (sd : Side) (line value : Nat) : State :=
  modPiece s t n fun p => { p with diag := addDiag p.diag kind sd line value }

/-- Record an event in the DIAG of every piece in flight on a track: from its line 0 to its verdict. -/
def diagTrack (s : State) (t : Track) (kind value : Nat) : State :=
  let g := fun (x : TrackState) (p : Piece) => { p with diag := addDiag p.diag kind .front (x.encLine - p.line0.getD 0).toNat value }
  s.modTrack t fun x => { x with pieces := mapWhere (fun p => p.line0.isSome && !p.posted) (g x) x.pieces }

/-! ### Discards -/

/-- The jobs of a piece. -/
def pieceJobs (s : State) (t : Track) (n : Nat) : List Job :=
  s.sched.jobs.filter fun j => match j.kind with
    | .side t' n' _ => t' == t && n' == n
    | _ => false

/-- Stop a piece's jobs; their tiles are released as for a completed job (R37, R276). -/
def stopPiece (s : State) (t : Track) (n : Nat) : State :=
  let s := (pieceJobs s t n).foldl (fun s j => finishJob s j false) s
  { s with pool := { s.pool with seqs := mapWhere (fun q => q.piece == some (t, n)) (fun q => { q with state := .leaving }) s.pool.seqs } }

/-- Is a piece number n at or after k, modulo 2^32? -/
def pieceFrom (k n : Nat) : Bool := decide ((n + 2 ^ 32 - k) % 2 ^ 32 < 2 ^ 31)

/-- Does the module read a piece and post its verdict (Table 15-5; R390: nothing on a track it could not take over; R393: nothing from the piece named
in a handover)? -/
def postsVerdicts (s : State) (t : Track) (n : Nat) : Bool :=
  s.twin.state != .standby && s.twin.state != .fenced && !(s.track t).hold.twin && (match s.twin.handoverTo with
    | some k => !pieceFrom k n
    | none => true)

/-- A piece reaches the commit point of its verdict fold; a standby only notes it. -/
def verdictFold (s : State) (t : Track) (n : Nat) : State :=
  let s := modPiece s t n fun p => { p with inFold := true }
  if postsVerdicts s t n then reachCommit s (.verdict t n) else s

/-- Post a live piece with a status: its jobs stop, and its verdict fold is formed at once (R37, R302; LATE by R27). -/
def discardPiece (s : State) (t : Track) (n : Nat) (st : Status) : State :=
  match findPiece s t n with
  | some p => if p.live then verdictFold (stopPiece (modPiece s t n fun p => { p with status := st }) t n) t n else s
  | none => s

/-- Discard with PAGE_GEOMETRY: the DIAG entry names the cause (R84). -/
def discardGeometry (s : State) (t : Track) (n cause : Nat) : State :=
  match findPiece s t n with
  | some p => if p.live then discardPiece (diagPiece s t n 6 .front (pieceLine s t p) cause) t n .pageGeometry else s
  | none => s

/-! ### Find and read of the sides, and the structure stage (R19) -/

/-- The armed sides of a track that have not ended find and read on a piece. -/
def sidesOpen (s : State) (t : Track) (p : Piece) : Bool :=
  (s.track t).sides.any fun x => !(p.side x.1).done

/-- When every side has ended: the sequence starts writing fields, or, with no text for the decoder, the verdict fold follows. -/
def sidesEnded (s : State) (t : Track) (n : Nat) : State :=
  match findPiece s t n with
  | some p =>
    if !p.live || sidesOpen s t p || !p.toks.isEmpty then s
    else if p.joined then modPiece s t n fun p => { p with structured := true }
    else verdictFold s t n
  | none => s

/-- A side's find and read end. -/
def sideEnded (s : State) (t : Track) (n : Nat) (sd : Side) : State :=
  sidesEnded (modPiece s t n fun p => p.modSide sd fun x => { x with done := true, findPast := true, job := none }) t n

/-- The piece's sequence has ended: its verdict fold follows (R25). -/
def seqEnded (s : State) (t : Track) (n : Nat) : State :=
  match findPiece s t n with
  | some p => if p.live then verdictFold (stopPiece s t n) t n else s
  | none => s

/-! ### The record of a piece -/

/-- The plan a piece runs on now. -/
def piecePlan (s : State) (t : Track) (p : Piece) : Option PlanRec :=
  match findPlan s (s.track t).plan with
  | none => none
  | some m => if p.companion then m.comp.bind (findPlan s) else some m

/-- The SIDE chunk of an armed side (Table 12-4); `T` stands in when the trailing edge is not known. -/
def sideRec (s : State) (pt : Port) (p : Piece) (sd : Side) (T : Nat) : SideRec :=
  let cfg := (s.lp pt).cfg
  let px := Config.pitchX pt.val * ((cfg.xavg : Nat) : Rat)
  let py := Config.pitchY pt.val
  let k : SkewSt := match (p.side sd).skew with
    | some k => k
    | none => { theta := 0, e0 := 0, m := 0, x0 := 0, ml := 0, xr := ((cfg.condWidth - 1 : Nat) : Rat), mr := 0, source := 2 }
  let r := cropRect cfg k px py T
  let w := (r.getD 2 0 - r.getD 0 0).toNat
  let h := (r.getD 3 0 - r.getD 1 0).toNat
  { side := sd, port := pt.val, depth := if cfg.depth16 then 16 else 8, xavg := cfg.xavg, theta := k.theta,
    wPu := (roundEvenRat (((w : Nat) : Rat) * unitsX px)).toNat, hPu := (roundEvenRat (((h : Nat) : Rat) * unitsY py)).toNat,
    wPx := w, hLn := h, puX := f32Rat (unitsX px), puY := f32Rat (unitsY py), affine := affineMap k px py r, crop := r,
    lead := if sd = .front then 0 else (p.side sd).lead.getD 0, T := T, skewSrc := k.source, cropped := cfg.crop,
    mirrored := cfg.mirror && sd == .back }

/-- Is a text line final at a piece line (R21, R22)? -/
def textFinal (s : State) (t : Track) (line : Nat) (l : TextLine) : Bool :=
  decide (l.final + (if l.side = .back then trackDelta s t else 0) ≤ line)

/-- What a piece's post is built from; `fv` is a free value for a trailing edge that is not known (log 3). -/
def pieceSrc (s : State) (t : Track) (p : Piece) (st : Status) (images : List Image) (line fv : Nat) : RecSrc :=
  let T := p.T.getD fv
  let err := st.isError
  let cut := err || p.status == .late
  { status := st, source := trackNum t, fn := 0, piece := p.num, plan := (s.track t).plan, tag := 0,
    revision := (match findPlan s (s.track t).plan with | some m => m.revision | none => 0),
    quick := p.companion, dropped := !err && images.any (·.dropped), restarted := p.restarted, feed := true,
    sides := (s.track t).sides.map fun x => sideRec s x.2 p x.1 T,
    blocks := if err then [] else p.blocks, text := if err then [] else if p.status = .late then p.text.filter (textFinal s t line) else p.text,
    items := if cut then [] else p.items,
    verdict := if err || (s.track t).firstLight then none else some {
      status := st, verdict := p.verdict.getD 0xFFFFFFFF, line := line,
      due := (match p.T with | some _ => p.due | none => fv), qwLine := p.qwLine, index := p.num % 256, tb := s.now, quick := p.companion,
      late := st == .late && p.status == .ok },
    images := if err then [] else images, diag := p.diag }

/-- A verdict-table entry (Table 14-6). -/
def verdictEntry (num : Nat) (st : Status) (track : Nat) (quick restarted : Bool) (verdict : Word32) (line : Nat) : List Byte :=
  let b := leBytes 4 num ++ leBytes 2 st.code ++ leBytes 1 track ++ leBytes 1 (1 + 2 * b2n quick + 4 * b2n restarted) ++
    leBytes 4 (if st = .ok then verdict.toNat else 0xFFFFFFFF) ++ leBytes 2 line ++ zeros 1
  b ++ [xorBytes b]

/-- Status of the entry when the fold commits at a piece line: LATE after the due line (R26). -/
def commitStatus (p : Piece) (line : Nat) : Status :=
  if p.status ≠ .ok then p.status
  else match p.T with
    | some _ => if p.due < line then .late else .ok
    | none => .ok

/-- The images of a FEED post that find space: raw are dropped first, then JPEG, then T.6; none when even the record finds none (R336). -/
def fitImages (s : State) (len : List Image → Nat) (key : Nat) (is : List Image) : List (List Image) → Option (List Image)
  | [] => if feedSpace s key (len is) && ringFits s 0 (len is) then some is else none
  | next :: more => if feedSpace s key (len is) && ringFits s 0 (len is) then some is else fitImages s len key next more

/-- The choices of R336 in their order. -/
def imageChoices (is : List Image) : List (List Image) :=
  let a := dropKind 0 is
  let b := dropKind 1 a
  [a, b, dropKind 2 b]

/-- Encoded images that are still to come for an OK piece: they are in the basket before the fold (R25, R329). -/
def encodesDue (s : State) (t : Track) (p : Piece) : List (Port × Nat) :=
  if p.status ≠ .ok ∨ (s.track t).firstLight then []
  else (s.track t).sides.flatMap fun x => ([1, 2] : List Nat).filterMap fun k =>
    if bitAt (s.lp x.2).cfg.imgOut k && (p.side x.1).pressed && !(p.images.any fun i => i.kind == k && i.side == sideNum x.1) then some (x.2, k) else none

/-- Forget pieces that are posted, whose paper has passed and whose lines are all committed. -/
def prunePieces (s : State) (t : Track) : State :=
  s.modTrack t fun x => { x with pieces := x.pieces.filter fun p => !(p.posted && (p.T.isSome || p.line0.isNone) && linesCommitted s t p) }

/-- Write a piece's entry of the verdict table (R368, R369). -/
def setEntry (s : State) (n : Nat) (e : List Byte) : State :=
  { s with port := { s.port with table := s.port.table.set (n % 256) e (Nat.mod_lt n (by decide)) } }

/-- Count a verdict: its track's commits and last committed piece, the accounting of function 0, the chip counters (R279, R455, Table 14-3). -/
def countVerdict (s : State) (t : Track) (n : Nat) (st : Status) : State :=
  let s := s.modTrack t fun x => { x with commits := x.commits + 1, lastCommit := BitVec.ofNat 32 n }
  let s := (modAcct s 0 fun a => { a with late := a.late + b2n (st == .late) }).chipCnt 25
  if st = .late then s.chipCnt 52 else s

/-- A verdict becomes visible: its table entry, its counts and the track's commit peg in one control cycle (R26, R28, R369). -/
def publishVerdict (s : State) (t : Track) (n : Nat) (p : Piece) (st : Status) (line : Nat) : State :=
  let s := setEntry s n (verdictEntry n st (trackNum t) p.companion p.restarted (p.verdict.getD 0xFFFFFFFF) line)
  prunePieces (pegArbitrate (countVerdict s t n st) [] [(trackNum t, 1)]) t

/-- The verdict fold of a piece commits: the entry, the record with its images and the peg take effect together (R25, R313). None when the
record finds no space in the basket: the fold waits (R336). A first-light piece is posted without a verdict (R452). -/
def commitVerdict (s : State) (t : Track) (n : Nat) : Option State :=
  match findPiece s t n with
  | none => some s
  | some p =>
    let line := pieceLine s t p
    let st := commitStatus p line
    let (fv, s) := if p.T.isNone then let d := s.freeNat; (d.1 % 2 ^ 32, d.2) else (0, s)
    let build := fun is => buildRecord s.dict.entries (pieceSrc s t p st is line fv) s.now
    match encodesDue s t p, fitImages s (fun is => (build is).2) (pieceKey n) p.images (imageChoices p.images) with
    | _ :: _, _ => none
    | [], none => none
    | [], some is =>
      let post : Post := {
        fn := 0, feed := true, piece := n, track := trackNum t, done := none, record := (build is).1,
        images := if st.isError then [] else is, fold := none }
      let s := s.chipCnt 38 (post.images.filter (·.dropped)).length
      let s := modPiece (commitPost s (pieceKey n) post) t n fun p => { p with posted := true, inFold := false }
      some (if (s.track t).firstLight then prunePieces s t else publishVerdict s t n p st line)

end Sys2Proof.Machine
end

