-- ==== Sys2Proof/Machine/Sequence.lean ====
section
/-! DEFINITION. The running batch (R218 to R223, R502): the step order with its measures, the end of a step, what a SEQ_STEP reports, and
how a job of each kind fails. -/

namespace Sys2Proof.Machine

open Sys2Proof

/-! ### What a SEQ_STEP reports -/

/-- Detail of a SEQ_STEP (Table 11-7): record offset, sequence id, tokens written. -/
def seqDetail (off id n : Nat) : List Byte := leBytes 8 off ++ leBytes 4 id ++ leBytes 4 n

/-- A finished post takes basket space and is reported, or waits for space (R336). -/
def reportPost (s : State) (j : Job) (st : Status) (detail : List Byte) (p : Post) : State :=
  if hostSpace s (jobKey j.id) (postLen p) then
    removeJob (reportJob (setBuilding s (jobKey j.id) (postLen p)) j st detail (some p)) j.id
  else modJob s j.id fun x => { x with posting := some p, note := st, state := .running }

/-- Try the posts that wait for space, in job order. -/
def retryPosts (s : State) : State :=
  (s.sched.jobs.filter fun j => j.posting.isSome).foldl
    (fun s j => match j.posting with
      | some p => match p.done with
        | some (_, c) => reportPost s j j.note c.detail p
        | none => reportPost s j j.note [] p
      | none => s) s

/-- A SEQ_STEP ends with an error: no record is posted. -/
def failSeqStep (s : State) (q : SeqSt) (st : Status) : State :=
  match q.req.bind fun r => findJob s r.job with
  | some j =>
    let s := removeJob (reportJob s j st (seqDetail 0 q.id (match q.req with | some r => r.written | none => 0)) none) j.id
    modSeq s q.id fun q => { q with req := none }
  | none => modSeq s q.id fun q => { q with req := none }

/-- A SEQ_STEP completes with its record: PAGE and what the step's output holds (Table 12-2). -/
def postSeqStep (s : State) (q : SeqSt) : State :=
  match q.req.bind fun r => (findJob s r.job).map fun j => (r, j) with
  | none => s
  | some (r, j) =>
    let src : RecSrc := {
      status := .ok, source := 3, fn := q.fn.val, piece := 0xFFFFFFFF, plan := q.plan, tag := j.hdr.tag.toNat,
      revision := (match findPlan s q.plan with | some p => p.revision | none => 0), quick := false, dropped := false, restarted := false,
      feed := false, sides := [], blocks := [], text := [], items := q.items, verdict := none, images := [], diag := [] }
    let d := seqDetail 0 q.id r.written
    let c : Compl := { hdr := j.hdr, opcode := 0x11, status := .ok, member := j.member, arrived := false, detail := d }
    let post : Post := {
      fn := q.fn, feed := false, piece := 0, track := 0, done := some (r.r, c),
      record := (buildRecord s.dict.entries src s.now).1, images := [], fold := none }
    modSeq (reportPost s j .ok d post) q.id fun q => { q with req := none, items := [] }

/-- A sequence's part of the step ends with PAGE_SHARED (R210): a FEED piece is posted with it, a host request completes with it; the sequence stays
open, and the entries granted to it are cleared at the next leave action. -/
def sharedSeq (s : State) (q : SeqSt) : State :=
  match q.piece with
  | some (t, n) => discardPiece (modSeq s q.id fun q => { q with state := .leaving, inStep := false, fresh := [], next := [] }) t n .pageShared
  | none => failSeqStep (modSeq s q.id fun q => { q with state := if q.hasAbsent then .needsRefill else .waiting, inStep := false, fresh := [], next := [] }) q .pageShared

/-- A sequence completes with an error status and leaves (R220, R222): a FEED piece is posted with it. -/
def endSeq (s : State) (q : SeqSt) (st : Status) : State :=
  let s := modSeq s q.id fun q => { q with state := .leaving, inStep := false, fresh := [], next := [] }
  match q.piece with
  | some (t, n) => discardPiece s t n st
  | none => failSeqStep s q st

/-- A sequence made LEAVING by RELEASE: its SEQ_STEP completes with BAD_STATE; a FEED piece's structure stage ends (R215). -/
def releaseSeq (s : State) (q : SeqSt) : State :=
  if q.state ≠ .leaving then s
  else match q.piece with
    | some (t, n) => seqEnded s t n
    | none => if q.req.isSome then failSeqStep s q .badState else s

/-! ### The step order (R219 to R222) -/

/-- The plan number range of positions: 65,536, or the plan's declared maximum when lower (R222). -/
def seqLimit (p : PlanRec) : Nat := min 65536 (lseq p.c)

/-- Does a sequence want a step? -/
def wantsStep (s : State) (q : SeqSt) : Bool :=
  decide (q.state ≠ .leaving) && (match q.piece with
    | some (t, n) => !q.fresh.isEmpty || (match findPiece s t n with
        | some p => p.structured
        | none => false)
    | none => q.req.isSome)

/-- Entries that a sequence needs: every layer of its page indices that are empty, and its ABSENT entries (R219, action 2). -/
def needKeys (p : PlanRec) (q : SeqSt) : List Nat :=
  let top := ceilDiv (q.len + q.fresh.length) 16
  (List.range (kvLayers p.c)).flatMap fun l => ((List.range top).map fun k => l * pageSpan p.c + k).filter fun key =>
    match q.entry key with
    | some e => e == .absent
    | none => true

/-- Action 1: LEAVING sequences give up their pages; grants of a failed step are cleared (R502). -/
def leaveOne (s : State) (q : SeqSt) : State :=
  let drop := fun (s : State) (e : Nat × PtEntry) => match e.2 with
    | .present pg _ => dropRef s q.plan pg
    | .absent => s
  if q.state = .leaving then
    let s := q.entries.foldl drop s
    { s with pool := { s.pool with seqs := s.pool.seqs.filter fun x => x.id != q.id } }
  else
    let es := q.entries.filter fun e => q.granted.contains e.1
    let s := es.foldl drop s
    modSeq s q.id fun q => { q with entries := q.entries.filter fun e => !q.granted.contains e.1, granted := [] }

/-- Order of joins: rank, then PAUSED before JOINING, then the order of their ids. -/
def joinBefore (a b : SeqSt) : Bool :=
  if ranksAbove a b then true else if ranksAbove b a then false
  else lexLe [if a.state = .paused then 0 else 1, a.id] [if b.state = .paused then 0 else 1, b.id]

/-- Measure 1: joins admitted in rank order while they fit and the batch has room (R218, R220). -/
def admitJoins (p : PlanRec) : Nat → Nat → List SeqSt → List SeqSt
  | _, _, [] => []
  | room, seats, q :: qs =>
    let n := (needKeys p q).length
    if q.state = .joining ∧ seats = 0 then admitJoins p room seats qs
    else if n ≤ room then q :: admitJoins p (room - n) (if q.state = .joining then seats - 1 else seats) qs
    else []

/-- Drop the page index `k` of a sequence, all layers together, skipping pinned entries and shared pages (R220, measure 2). -/
def dropIndex (c : Container) (k : Nat) (s : State) (id : Nat) : State :=
  (List.range (kvLayers c)).foldl (fun s l =>
    match (findSeq s id).bind (·.entry (l * pageSpan c + k)) with
    | some (.present pg false) => if pageCount s pg = 1 then (dropOne (match findSeq s id with | some q => q.plan | none => 0) id s (l * pageSpan c + k)).chipCnt 29 else s
    | _ => s) s

/-- Drop page indices of one sequence from the highest down until `need` pages are free. -/
def dropDown (c : Container) (need id : Nat) : Nat → State → State
  | 0, s => s
  | k + 1, s => if need ≤ freePages s then s else dropDown c need id k (dropIndex c k s id)

/-- Measure 2 over the sequences in no step, lowest rank first, the oldest last step first among equals. -/
def dropIdle (need : Nat) : List SeqSt → State → State
  | [], s => s
  | q :: qs, s =>
    if need ≤ freePages s then s
    else match findPlan s q.plan with
      | none => dropIdle need qs s
      | some p =>
        let s := dropDown p.c need q.id (pageSpan p.c) s
        let s := modSeq s q.id fun x => if x.hasAbsent && x.state != .leaving then { x with state := .needsRefill } else x
        dropIdle need qs s

/-- Measure 3: pause the lowest-ranking, most recently joined sequence of the step, dropping its unpinned entries, while pages are short; the
last one completes with POOL_EXHAUSTED. Answers the sequences that stay. -/
def pauseLoop (p : PlanRec) : Nat → List SeqSt → State → List SeqSt × State
  | 0, gs, s => (gs, s)
  | f + 1, gs, s =>
    let need := sumNat (gs.map fun q => (needKeys p q).length)
    if need ≤ freePages s then (gs, s)
    else match gs with
      | [] => ([], s)
      | [q] => ([], endSeq (s.chipCnt 33) q .poolExhausted)
      | q :: rest =>
        let v := rest.foldl (fun (v : SeqSt) x =>
          if ranksAbove v x then x else if ranksAbove x v then v else if lexLe [v.joinedAt, v.id] [x.joinedAt, x.id] then x else v) q
        let s := (v.entries.filter fun e => e.2.isPresent && !e.2.isPinned).foldl (fun s e => (dropOne p.handle v.id s e.1).chipCnt 29) s
        let s := (modSeq s v.id fun x => { x with state := .paused }).chipCnt 32
        pauseLoop p f (gs.filter fun x => x.id != v.id) s

/-- Give a sequence its pages and take it into the step; the pages of its ABSENT entries are those that its refill pass recomputes (R223). -/
def enterStep (p : PlanRec) (s : State) (q0 : SeqSt) : State :=
  match findSeq s q0.id with
  | none => s
  | some q =>
    let keys := needKeys p q
    let new := keys.filter fun k => (q.entry k).isNone
    let pages := pickPages s keys.length
    let s := pages.foldl (fun s pg => addRef (erasePage s pg) pg) s
    let s := modSeq s q.id fun x => { (keys.zip pages).foldl (fun x e => x.setEntry e.1 (.present e.2 false)) x with
      granted := new, refill := keys.filter (fun k => !new.contains k), regrown := keys.filter (fun k => !new.contains k), state := .running, inStep := true, preLen := x.len, lastStep := s.now, next := [], ended := false,
      joinedAt := if q.state = .joining then p.batchStep + 1 else x.joinedAt, deferred := 0 }
    let s := s.chipCnt 30 ((keys.length - new.length) / max 1 (kvLayers p.c))
    match q.piece with
      | some (t, n) => modPiece s t n fun pc => { pc with sigmaSeq := pc.sigmaSeq +
          (((if q.deferred = 0 then 0 else cyclesToNs (s.now - (q.deferred - 1))) +
          (if pc.structured then 0 else (keys.length - new.length) / max 1 (kvLayers p.c) * refillNs p) : Nat) : Int) }
      | none => s

/-- The step's job: it takes the class and priority of its highest-ranking sequence (R219, R254). -/
def stepJob (p : PlanRec) (qs : List SeqSt) (now : Nat) : Job :=
  let top := qs.foldl (fun (m : SeqSt) x => if ranksAbove x m then x else m) (qs.headD default)
  { (default : Job) with
    fn := top.fn, cls := top.cls, prio := top.prio, plan := p.handle, revision := p.revision, kind := .step, state := .queued,
    inputReady := true, readyAt := now, tag := (seqKey top).2.2 }

/-- Is a step of a plan's batch under way? -/
def stepRuns (s : State) (plan : Nat) : Bool := s.sched.jobs.any fun j => j.plan == plan && j.kind == .step

/-- The start of a step: leave, grow and join, committed as one fold (R219); nothing happens while a step runs or none is wanted. -/
def startStep (s : State) (p : PlanRec) : State :=
  if stepRuns s p.handle || !(batchSeqs s p.handle).any (wantsStep s) then s
  else
    let before := s.pool.seqs.map fun q => (q.id, q.entries)
    let s := (batchSeqs s p.handle).foldl leaveOne s
    let s := ((batchSeqs s p.handle).filter fun q => wantsStep s q && decide (seqLimit p < q.len + q.fresh.length)).foldl (fun s q => endSeq s q .seqTooLong) s
    let want := (batchSeqs s p.handle).filter (wantsStep s)
    let joining := fun (q : SeqSt) => q.state == .paused || q.state == .joining || (q.state == .needsRefill && q.joinedAt == 0)
    let grow := want.filter fun q => !joining q
    let joins := sortBy joinBefore (want.filter joining)
    let g := sumNat (grow.map fun q => (needKeys p q).length)
    let free := freePages s
    let seats := 1024 - ((batchSeqs s p.handle).filter fun q => q.state != .joining).length
    let adm := if free < g then [] else admitJoins p (free - g) seats joins
    let s := (joins.filter fun q => !(adm.any fun a => a.id == q.id)).foldl
      (fun s q => (modSeq s q.id fun x => { x with deferred := if x.deferred = 0 then s.now + 1 else x.deferred }).chipCnt 31) s
    let idle := sortBy (fun a b => if ranksAbove b a then true else if ranksAbove a b then false else decide (a.lastStep ≤ b.lastStep))
      (s.pool.seqs.filter fun q => !(grow.any fun x => x.id == q.id) && !q.inStep && !q.entries.isEmpty)
    let s := if free < g then dropIdle g idle s else s
    let (stay, s) := pauseLoop p (grow.length + 1) grow s
    let s := (stay ++ adm).foldl (enterStep p) s
    let s := modPlan s p.handle fun x => { x with batchStep := x.batchStep + 1 }
    let s := (if (s.pool.seqs.map fun q => (q.id, q.entries)) = before then s else raiseVersion s).chipCnt 24
    let members := (batchSeqs s p.handle).filter (·.inStep)
    if members.isEmpty then s else (addJob s (stepJob p members s.now)).2

/-! ### The end of a step -/

/-- What a sequence becomes when it has no step to run: NEEDS_REFILL with ABSENT entries, else WAITING (Table 08-8). -/
def restState (q : SeqSt) : SeqState := if q.hasAbsent then .needsRefill else .waiting

/-- One sequence at the end of its step: pages that its refill pass has not completed are ABSENT again (R223); its new positions are logged; a request that is done posts, a piece's decoder that is done ends the
structure stage; otherwise the tokens written are the next step's positions. -/
def stepEndOne (p : PlanRec) (dur : Nat) (s : State) (q0 : SeqSt) : State :=
  match findSeq s q0.id with
  | none => s
  | some q =>
    let s := q.refill.foldl (dropOne p.handle q.id) s
    let s := modSeq s q.id fun q => { q with
      log := q.log ++ q.fresh, len := q.len + q.fresh.length, fresh := q.next, next := [], granted := [],
      refill := [], regrown := [], inStep := false, req := q.req.map fun r => { r with written := r.written + q.next.length } }
    if q.state = .leaving then s
    else match q.piece with
    | some (t, n) =>
      match findPiece s t n with
      | none => s
      | some pc =>
        let s := if pc.structured then modPiece s t n fun pc => { pc with
          structSteps := pc.structSteps + 1,
          sigmaSeq := pc.sigmaSeq + ((dur : Int) - stepShare p) } else s
        if pc.structured ∧ (q.ended ∨ maxOut p.c + 1 ≤ pc.structSteps + 1) then
          seqEnded (modSeq s q.id fun q => { q with state := .leaving }) t n
        else modSeq s q.id fun q => if pc.structured || !q.fresh.isEmpty then q else { q with state := restState q }
    | none =>
      match (findSeq s q.id).bind (·.req) with
      | none => modSeq s q.id fun q => { q with state := restState q }
      | some r =>
        if r.generate ∧ ¬ q.ended ∧ r.written < r.limit then s
        else match findSeq s q.id with
          | none => s
          | some q =>
            modSeq (postSeqStep s q) q.id fun q => { q with state := if r.leaveAfter then .leaving else restState q, fresh := [] }

/-- A step ends: its sequences take their results. -/
def finishStep (s : State) (j : Job) : State :=
  match findPlan s j.plan with
  | none => finishJob s j true
  | some p =>
    let dur := cyclesToNs (s.now - j.startAt)
    let qs := (batchSeqs s p.handle).filter (·.inStep)
    qs.foldl (stepEndOne p dur) (finishJob s j true)

/-- One sequence of a step that ended with a CONTAINED error (R502). -/
def stepFailOne (p : PlanRec) (st : Status) (s : State) (q0 : SeqSt) : State :=
  match findSeq s q0.id with
  | none => s
  | some q =>
    match q.piece with
    | some _ => endSeq s q st
    | none =>
      let s := q.regrown.foldl (dropOne p.handle q.id) s
      let s := modSeq s q.id fun q => { q with
        inStep := false, fresh := [], next := [], items := [], refill := [], regrown := [], len := q.preLen,
        state := if q.joinedAt = p.batchStep || q.state == .leaving then .leaving else
          (if (q.entries.filter fun e => !q.granted.contains e.1).any (fun e => e.2 == .absent) then .needsRefill else .waiting) }
      failSeqStep s q st

/-- A step fails. -/
def failStep (s : State) (j : Job) (st : Status) : State :=
  match findPlan s j.plan with
  | none => finishJob s j false
  | some p => ((batchSeqs s p.handle).filter (·.inStep)).foldl (stepFailOne p st) (finishJob s j false)

/-! ### How a job fails -/

/-- A job ends with an ERROR status: its result is withheld, a piece or a step's sequences take the status, and a descriptor is told. -/
def failJob (s : State) (j : Job) (st : Status) (detail : List Byte) : State :=
  match j.kind with
  | .side t n _ => discardPiece (finishJob s j false) t n st
  | .step => failStep s j st
  | _ =>
    let s := if j.discard then discardBuilding s (jobKey j.id) else reportJob s j st detail none
    let s := { s with tailor := { s.tailor with steps := s.tailor.steps.filter fun x => x.job != j.id } }
    finishJob s j (!j.discard)

end Sys2Proof.Machine
end

