-- ==== Sys2Proof/Machine/Attention.lean ====
section
/-! DEFINITION. The ATTN command (R194 to R205): scores, masks, distance bias, the blockwise softmax, and the backward pass, over
exact formats and FP32 work. -/

namespace Sys2Proof.Machine

open Sys2Proof

/-- Minus infinity in FP32. -/
def f32NegInf : Word32 := 0xFF800000#32

/-- Binary digits of log2 of a fixed-point number `m` of `w` fractional bits in [1, 2), `n` of them, by repeated squaring. -/
def log2Digits (w : Nat) : Nat → Nat → Nat → Nat
  | 0, _, acc => acc
  | n + 1, m, acc =>
    let q := m * m / 2 ^ w
    if 2 ^ (w + 1) ≤ q then log2Digits w n (q / 2) (2 * acc + 1) else log2Digits w n q (2 * acc)

/-- log2 of a positive number: exact for a power of two, worked to 110 fractional bits for any other (log 8). -/
def log2Rat (x : Rat) : Rat :=
  let k := ilog2 x
  if x = pow2 k then (k : Rat)
  else
    let m := (x / pow2 k * pow2 256).floor.toNat
    (k : Rat) + (2 * log2Digits 256 110 m 0 + 1 : Nat) / pow2 111

/-- log2 of a quotient of at least 1 as a correctly rounded FP32 value (R201). -/
def log2F32 (x : Rat) : Word32 := f32Rat (log2Rat x)

/-- ln 2 to 59 digits. -/
def ln2 : Rat := 69314718055994530941723212145817656807550013436025525412068 / 10 ^ 59

/-- The terms of the series of e to the power -`u`, in fixed point of `w` fractional bits, from term `i` on. -/
def expTerms (w u : Nat) : Nat → Nat → Int → Int → Int
  | 0, _, _, sum => sum
  | n + 1, i, term, sum =>
    let next := -(term * u / ((2 ^ w * i : Nat) : Int))
    expTerms w u n (i + 1) next (sum + next)

/-- Square a fixed-point number `n` times. -/
def squareFix (w : Nat) : Nat → Int → Int
  | 0, x => x
  | n + 1, x => squareFix w n (x * x / ((2 ^ w : Nat) : Int))

/-- e to the power -`t` for `t` from 0 to 256, to more than 100 significant bits. -/
def expNeg (t : Rat) : Rat :=
  let w : Nat := 512
  let u := (t / 512 * pow2 512).floor.toNat
  let one : Int := ((2 ^ w : Nat) : Int)
  (squareFix w 9 (expTerms w u 80 1 one one) : Rat) / pow2 512

/-- A code near an exact value `e` that is not 0: the nearest one moved by up to two codes, as long as that stays within 2 units in the
last place. -/
def expNear (e : Rat) (d : Nat) : Word32 :=
  let r := f32Rat e
  let c : Word32 := BitVec.ofInt 32 ((r.toNat : Int) + ((d % 5 : Nat) : Int) - 2)
  let ulp := pow2 (max (ilog2 (ratAbs e)) (-126) - 23)
  if c.toNat % 2 ^ 31 < 0x7F800000 ∧ ratAbs (fpRat (f32 c) - e) ≤ 2 * ulp then c else r

/-- The exponential of R196: exactly 0 at minus infinity, otherwise within 2 units in the last place, which code being open
(log 8). -/
def expF32 (x : Word32) : Word32 :=
  if x = f32NegInf then 0
  else match f32 x with
    | .fin _ _ =>
      let v := fpRat (f32 x)
      if v < -200 then expNear (expNeg 200) (Config.expError x)
      else if 200 < v then f32Rat (1 / expNeg 200)
      else expNear (if v ≤ 0 then expNeg (-v) else 1 / expNeg v) (Config.expError x)
    | _ => x

/-- The natural logarithm of R199: 0 at 1, otherwise within 2 units in the last place of the exact value, which code being open (log 8). -/
def lnF32 (x : Word32) : Word32 :=
  match f32 x with
  | .fin neg m => if m = 0 then f32NegInf else if neg then f32NaN else if m = 1 then 0 else expNear (log2Rat m * ln2) (Config.lnError x)
  | .inf neg => if neg then f32NaN else x
  | .nan => f32NaN

/-- The greater of two FP32 values; NaN is greatest (R96). -/
def maxF32 (a b : Word32) : Word32 := if redGreater (f32 a) (f32 b) then b else a

/-- Elements of a vector held in words. -/
def vecGet (fmt n : Nat) (ws : List (List Byte)) : List Nat :=
  (List.range n).map fun i => elemGet fmt (ws.getD (i / elemCount fmt) (zeros 32)) (i % elemCount fmt)

/-- Put FP32 values into words. -/
def vecPut32 (xs : List Word32) : List (List Byte) :=
  (List.range (ceilDiv xs.length 8)).map fun k => slice ((xs.drop (8 * k)).take 8 |>.flatMap fun w => leBytes 4 w.toNat) 0 32

/-- Put element codes into words. -/
def vecPut (fmt : Nat) (xs : List Nat) : List (List Byte) :=
  (List.range (ceilDiv xs.length (elemCount fmt))).map fun k =>
    (List.range (elemCount fmt)).foldl (fun w i => elemSet fmt w i (xs.getD (k * elemCount fmt + i) 0)) (zeros 32)

/-! ### Masks and bias (R200 to R202) -/

/-- Is a key position allowed to the query row (Table 08-4)? -/
def maskAllows (a : AttnP) (j : PosInfo) : Bool :=
  (!bitAt a.masks 0 || decide (j.pos ≤ a.qi.pos)) && (!bitAt a.masks 1 || decide (j.seg = a.qi.seg)) &&
  (!bitAt a.masks 2 || decide (j.pos < a.valid))

/-- The bucket function (R201): log2 correctly rounded to FP32, the floor of the FP32 product. -/
def bucket (e r n : Nat) (v : Int) : Int :=
  if v.natAbs < e then v
  else
    let l := log2F32 ((v.natAbs : Rat) / (e : Rat))
    let k := (fpRat (f32 (f32Mul (f32Rat (r : Rat)) l))).floor
    let b := min ((n : Int) - 1) ((e : Int) + k)
    if v < 0 then -b else b

/-- A coordinate difference shifted towards zero (R201). -/
def shiftDiff (q : Nat) (d : Int) : Int := if d < 0 then -((d.natAbs / 2 ^ q : Nat) : Int) else ((d.natAbs / 2 ^ q : Nat) : Int)

/-- The index of a bias table for a pair (Table 08-3). -/
def biasIndex (b : BiasP) (i j : PosInfo) : Nat :=
  let d : Int := (j.pos : Int) - i.pos
  match b.rule with
  | 0 => (clampInt d (-(b.c : Int)) b.c + b.c).toNat
  | 1 => (bucket b.e b.r b.n d + b.n - 1).toNat
  | _ =>
    if i.side = j.side then
      let dx := shiftDiff b.q ((j.x : Int) - i.x)
      let dy := shiftDiff b.q ((j.y : Int) - i.y)
      ((bucket b.e b.r b.ny dy + b.ny - 1) * (2 * (b.nx : Int) - 1) + bucket b.e b.r b.nx dx + b.nx - 1).toNat
    else b.cross

/-- The bias of a pair in FP32; no table gives 0. -/
def biasOf (regs : Nat → List Byte) (a : AttnP) (j : PosInfo) : Word32 :=
  match a.bias with
  | none => 0
  | some b =>
    let i := biasIndex b a.qi j
    toF32 (fmtDecode 5 (elemGet 5 (regs (b.tab.getD (i / 16) 0)) (i % 16)))

/-! ### Scores and rows (R194 to R199) -/

/-- The product of query row and key, scaled: INT8 products are summed in INT32, converted, and multiplied by scale × s_q × s_k (R195). -/
def attnDot (a : AttnP) (q k : List (List Byte)) : Word32 :=
  let n := ceilDiv (a.dk * fmtBits a.fq) 256
  if a.fq = 1 then
    let acc := (List.range n).foldl (fun s i => (dotInt 1 s (q.getD i (zeros 32)) (k.getD i (zeros 32))).1) 0
    f32Mul (f32Rat (signExt acc.toNat 32 : Rat)) (f32Mul (f32Mul a.scale a.sq) a.sk)
  else
    let acc := (List.range n).foldl (fun s i => dotFp a.fq a.fk s (q.getD i (zeros 32)) (k.getD i (zeros 32))) 0
    f32Mul a.scale acc

/-- The score of a key, minus infinity where the mask forbids it. -/
def attnScore (regs : Nat → List Byte) (a : AttnP) (j : Nat) : Word32 :=
  let pj := a.kj.getD j default
  if maskAllows a pj then
    f32Add (attnDot a (a.q.map regs) ((a.ks.getD j []).map regs)) (biasOf regs a pj)
  else f32NegInf

/-- The running state of a row: maximum, sum, outputs. -/
structure AttnAcc where
  m : Word32
  l : Word32
  o : List Word32
deriving DecidableEq, Repr

/-- Values of V of key `j`. -/
def attnV (regs : Nat → List Byte) (a : AttnP) (j : Nat) : List Nat := vecGet a.fv a.dv ((a.vs.getD j []).map regs)

/-- The format p takes for p × v (Table 08-2). -/
def attnPFmt (fv : Nat) : Nat := if fv = 4 then 3 else fv

/-- The sum of p × v of one block at output `d` (R197): INT8 products are summed in INT32 and scaled by 1/127 and V's scale. -/
def attnPv (a : AttnP) (ps : List (Word32 × List Nat)) (d : Nat) : Word32 :=
  if a.fv = 1 then
    let sum := ps.foldl (fun (s : Int) pv =>
      let code := clampInt (roundEvenRat (fpRat (f32 (f32Mul pv.1 (f32Rat 127))))) (-128) 127
      (satAdd s (code * signExt (pv.2.getD d 0) 8)).1) 0
    f32Mul (f32Rat (sum : Rat)) (f32Mul (f32Rat (1 / 127)) a.sv)
  else
    let f := attnPFmt a.fv
    ps.foldl (fun s pv =>
      toF32 (fpAdd (f32 s) (fpMul (fmtDecode f (fmtEncode f false (f32 pv.1))) (fmtDecode a.fv (pv.2.getD d 0))))) 0

/-- Does the mask forbid a row every key of a block (R196)? -/
def blockMasked (a : AttnP) (js : List Nat) : Bool := js.all fun j => !maskAllows a (a.kj.getD j default)

/-- One block of 16 keys; one that is wholly masked is left out (R196). -/
def attnBlock (regs : Nat → List Byte) (a : AttnP) (st : AttnAcc) (js : List Nat) : AttnAcc :=
  if blockMasked a js then st
  else
  let s := js.map fun j => attnScore regs a j
  let mNew := s.foldl maxF32 st.m
  if mNew = f32NegInf then st
  else
    let p := s.map fun x => expF32 (f32Sub x mNew)
    let c := expF32 (f32Sub st.m mNew)
    let pv := p.zip (js.map fun j => attnV regs a j)
    { m := mNew, l := f32Add (f32Mul c st.l) (redSumFp p),
      o := (List.range a.dv).map fun d => f32Add (f32Mul c (st.o.getD d 0)) (attnPv a pv d) }

/-- A row after every block in ascending order (R196). -/
def attnRow (regs : Nat → List Byte) (a : AttnP) : AttnAcc :=
  (List.range (ceilDiv a.ks.length 16)).foldl
    (fun st b => attnBlock regs a st ((List.range a.ks.length).drop (16 * b) |>.take 16))
    { m := f32NegInf, l := 0, o := List.replicate a.dv 0 }

/-- Is l positive? -/
def attnLive (st : AttnAcc) : Bool := fpLt (.fin false 0) (f32 st.l)

/-- The output vector: o / l, or zeros for a row without allowed keys (R196, R198). -/
def attnOut (st : AttnAcc) : List Word32 := if attnLive st then st.o.map fun x => f32Div x st.l else st.o.map fun _ => 0

/-- The row's logsumexp, minus infinity for l = 0 (R199). -/
def attnLse (st : AttnAcc) : Word32 := if attnLive st then f32Add st.m (lnF32 st.l) else f32NegInf

/-- The probability of a key from its score and the row's logsumexp (R204, R205). -/
def attnP (regs : Nat → List Byte) (a : AttnP) (lse : Word32) (j : Nat) : Word32 :=
  if lse = f32NegInf then 0 else expF32 (f32Sub (attnScore regs a j) lse)

/-! ### Backward (R204) -/

/-- FP32 values of a vector in registers. -/
def regs32 (regs : Nat → List Byte) (n : Nat) (rs : List Nat) : List Word32 := (vecGet 7 n (rs.map regs)).map (BitVec.ofNat 32)

/-- Sum of products of two FP32 vectors. -/
def dot32 (a b : List Word32) : Word32 := (a.zip b).foldl (fun s p => f32Add s (f32Mul p.1 p.2)) 0

/-- Elements of a vector as FP32 real values. -/
def real32 (fmt n : Nat) (s : Word32) (ws : List (List Byte)) : List Word32 :=
  (vecGet fmt n ws).map fun c => if fmtIsInt fmt then dequantise s 0 (signExt c (fmtBits fmt)) else toF32 (fmtDecode fmt c)

/-- Add a scaled vector to an FP32 vector. -/
def axpy32 (k : Word32) (x y : List Word32) : List Word32 := (y.zip x).map fun p => f32Add p.1 (f32Mul k p.2)

/-- The score gradient of a key: p × (dp − Σ do × o) (R204). -/
def attnDs (p : Word32) (go o v : List Word32) : Word32 := f32Mul p (f32Sub (dot32 go v) (dot32 go o))

end Sys2Proof.Machine
end

