-- ==== Sys2Proof/Machine/Window.lean ====
section
/-! DEFINITION. Sliding-window and geometric operators (chapter 07): output sizes, taps, padding, channel layouts, seams and hems,
and what each operator computes from one tensor to another. -/

namespace Sys2Proof.Machine

open Sys2Proof

/-! ### Sizes, taps and padding (R174 to R176) -/

/-- An output dimension (R174); 0 or less is rejected at loading (R175). -/
def outDim (n before after k s d : Nat) : Int := (((n + before + after : Nat) : Int) - d * ((k : Int) - 1) - 1).fdiv s + 1

/-- The input row that tap `i` of output row `y` reads (R174). -/
def tapRow (y s p d i : Nat) : Int := (y * s : Nat) - (p : Int) + (i * d : Nat)

/-- The row a tap reads under a padding mode (Table 07-3): none is the padding value of ZERO. -/
def padRow (mode n : Nat) (i : Int) : Option Nat :=
  if 0 ≤ i ∧ i < n then some i.toNat
  else match mode with
    | 0 => none
    | 1 => some (clampInt i 0 ((n : Int) - 1)).toNat
    | _ => if n ≤ 1 then some 0 else
        let j := (i.emod (2 * ((n : Int) - 1))).toNat
        some (if j < n then j else 2 * (n - 1) - j)

/-- Is a set of window parameters within Table 07-2? -/
def winOk (p : WinP) : Bool :=
  decide (1 ≤ p.kh ∧ p.kh ≤ 15 ∧ 1 ≤ p.kw ∧ p.kw ≤ 15 ∧ 1 ≤ p.sh ∧ p.sh ≤ 16 ∧ 1 ≤ p.sw ∧ p.sw ≤ 16) &&
  decide (1 ≤ p.dh ∧ p.dh ≤ 8 ∧ 1 ≤ p.dw ∧ p.dw ≤ 8 ∧ p.pt ≤ 15 ∧ p.pb ≤ 15 ∧ p.pl ≤ 15 ∧ p.pr ≤ 15 ∧ p.mode ≤ 2)

/-! ### Channel layouts (R170, R171) -/

/-- Bytes of one pixel's block in layout Cn. -/
def blockBytes (n fmt : Nat) : Nat := n * fmtBits fmt / 8

/-- Channel blocks of a map (R170). -/
def blockCount (n c : Nat) : Nat := ceilDiv c n

/-- Kernel taps in one contraction word (Table 07-1). -/
def tapsPerWord (n fmt : Nat) : Nat := max 1 (32 / blockBytes n fmt)

/-- Place of channel `c` of pixel `x` in its view row, in elements (R170): pixel x's block begins at byte x × B. -/
def pixelElem (n x c : Nat) : Nat := x * n + c % n

/-- The fraction of its rate at which a convolution runs (R171). -/
def convRate (kw t : Nat) : Rat := (kw : Rat) / ((t * ceilDiv kw t : Nat) : Rat)

/-! ### Seams and hems (R186, R187) -/

/-- Rows a stripe takes from the stripe above and the one below across a LEVEL seam. -/
def levelHem (p : WinP) : Nat × Nat := (p.pt, ((p.dh * (p.kh - 1) : Nat) - (p.pt : Int) - p.sh + 1).toNat)

/-- The seam of a layer from the seam of its input (SKEWED). -/
def skewSeam (p : WinP) (y : Int) : Int := (y - 1 + p.pt - (p.dh * (p.kh - 1) : Nat)).fdiv p.sh + 1

/-- Rows a stripe takes from above across a SKEWED seam; none from below. -/
def skewHem (p : WinP) (y : Int) : Nat := (y - skewSeam p y * p.sh + p.pt).toNat

/-! ### Tensors in registers (R150, R160, R170) -/

/-- Scale and zero point of a channel: the tensor's pair, or the channel's own (R160). -/
def tPair (t : TRef) (ch : Nat) : Word32 × Int := t.quant.getD (if t.quant.length ≤ 1 then 0 else ch) (0x3F800000#32, 0)

/-- Words of one view row of a block. -/
def tRowWords (t : TRef) : Nat := ceilDiv (t.w * t.lay) (elemCount t.fmt)

/-- Word and element of a value of a tensor: by block, row and pixel in a channel-block layout, in plain order in layout 0. -/
def tPlace (t : TRef) (y x ch : Nat) : Nat × Nat :=
  let n := elemCount t.fmt
  if t.lay = 0 then (((y * t.w + x) * t.c + ch) / n, ((y * t.w + x) * t.c + ch) % n)
  else (((ch / t.lay) * t.h + y) * (tRowWords t) + pixelElem t.lay x ch / n, pixelElem t.lay x ch % n)

/-- The code of an element of a tensor. -/
def tGet (regs : Nat → List Byte) (t : TRef) (y x ch : Nat) : Nat :=
  elemGet t.fmt (regs (t.regs.getD (tPlace t y x ch).1 0)) (tPlace t y x ch).2

/-- The words of a tensor from its element codes; channels past C in the last block hold code 0 (R170). -/
def tPut (t : TRef) (code : Nat → Nat → Nat → Nat) : List (List Byte) :=
  if t.lay = 0 then
    vecPut t.fmt ((List.range t.h).flatMap fun y => (List.range t.w).flatMap fun x => (List.range t.c).map fun c => code y x c)
  else
    let n := elemCount t.fmt
    (List.range (blockCount t.lay t.c)).flatMap fun k => (List.range t.h).flatMap fun y => (List.range (tRowWords t)).map fun j =>
      (List.range n).foldl (fun w i =>
        let x := (j * n + i) / t.lay
        let c := k * t.lay + (j * n + i) % t.lay
        elemSet t.fmt w i (if x < t.w ∧ c < t.c then code y x c else 0)) (zeros 32)

/-- The block scale of an element of an MX tensor: its record in the order in which the blocks are consumed (R151, R165). -/
def mxScale (regs : Nat → List Byte) (t : TRef) (y x ch : Nat) : Nat :=
  let b := (y * t.w + x) * ceilDiv t.c 32 + ch / 32
  let k := t.order.getD b b
  fieldAt (regs (t.scales.getD (k / 16) 0)) (2 * (k % 16)) 1

/-- Is a format an MX format? -/
def fmtIsMx (fmt : Nat) : Bool := fmt == 8 || fmt == 9

/-- The real value of a code of a channel: FP32 for integer formats (R160). -/
def tReal (t : TRef) (ch code : Nat) : Fp :=
  if fmtIsInt t.fmt then f32 (dequantise (tPair t ch).1 (tPair t ch).2 (signExt code (fmtBits t.fmt))) else fmtDecode t.fmt code

/-- The real value of an element, an MX element times its block's scale. -/
def tVal (regs : Nat → List Byte) (t : TRef) (y x ch : Nat) : Fp :=
  if fmtIsMx t.fmt then
    let s := mxScale regs t y x ch
    if s = 0xFF then .nan else fpMul (.fin false (pow2 ((s : Int) - 127))) (tReal t ch (tGet regs t y x ch))
  else tReal t ch (tGet regs t y x ch)

/-- A real value as a code of a channel of a tensor. -/
def tCode (t : TRef) (ch : Nat) (v : Fp) : Nat :=
  if fmtIsInt t.fmt then toBits (quantise t.fmt (tPair t ch).1 (tPair t ch).2 (toF32 v)) (fmtBits t.fmt) else fmtEncode t.fmt t.inf v

/-- A real value as a code of an output element. -/
def elemCode (e : ElemP) (v : Fp) : Nat :=
  if fmtIsInt e.fmt then toBits (quantise e.fmt e.scale e.zero (toF32 v)) (fmtBits e.fmt) else fmtEncode e.fmt e.inf v

/-- Do two tensors give the codes of a channel the same meaning, so that a copied sample keeps its code? -/
def sameCodes (a b : TRef) (ch : Nat) : Bool := a.fmt == b.fmt && tPair a ch == tPair b ch && !fmtIsMx a.fmt

/-! ### Taps -/

/-- The code a padding tap reads in mode ZERO: real 0, with the channel's own zero point (Table 07-3). -/
def zeroCode (t : TRef) (ch : Nat) : Nat :=
  if fmtIsInt t.fmt then toBits (clampInt (-(tPair t ch).2) (qMin t.fmt) (qMax t.fmt)) (fmtBits t.fmt) else 0

/-- Height and width of a map, at run time not less than their declared least values (R175). -/
def tHeight (t : TRef) : Nat := max t.h t.leastH
def tWidth (t : TRef) : Nat := max t.w t.leastW

/-- The row or column that a tap reads of a map with `n` of them, extended with the padding value up to `m` (R175, R176). -/
def tapAt (mode n m : Nat) (i : Int) : Option Nat :=
  match padRow mode m i with
  | none => none
  | some k => padRow mode n k

/-- Padding applies only at the outer edges of a map, never at a seam (R185). -/
def seamPad (p : WinP) (top bottom : Bool) : WinP := { p with pt := if top then 0 else p.pt, pb := if bottom then 0 else p.pb }

/-- A tap of a window: the place that it reads, none for the padding value. -/
def tapPlace (t : TRef) (mode : Nat) (y x : Int) : Option (Nat × Nat) :=
  match tapAt mode t.h (tHeight t) y, tapAt mode t.w (tWidth t) x with
  | some r, some c => some (r, c)
  | _, _ => none

/-- The code that a tap reads. -/
def tapGet (regs : Nat → List Byte) (t : TRef) (mode : Nat) (y x : Int) (ch : Nat) : Nat :=
  match tapPlace t mode y x with
  | some (r, c) => tGet regs t r c ch
  | none => zeroCode t ch

/-- The real value that a tap reads. -/
def tapVal (regs : Nat → List Byte) (t : TRef) (mode : Nat) (y x : Int) (ch : Nat) : Fp :=
  match tapPlace t mode y x with
  | some (r, c) => tVal regs t r c ch
  | none => tReal t ch (zeroCode t ch)

/-- The taps of one output pixel. -/
def winTaps (p : WinP) (y x : Nat) : List (Int × Int) :=
  (List.range p.kh).flatMap fun i => (List.range p.kw).map fun j => (tapRow y p.sh p.pt p.dh i, tapRow x p.sw p.pl p.dw j)

/-! ### Convolution (R173 to R178) -/

/-- Input channels of a group, and the first of the group of output channel `k` among `oc`. -/
def groupWidth (p : WinP) (src : TRef) : Nat := src.c / max 1 p.groups
def groupFirst (p : WinP) (src : TRef) (oc k : Nat) : Nat := k / max 1 (oc / max 1 p.groups) * groupWidth p src

/-- The taps of an output pixel with their places in the kernel. -/
def kernelTaps (p : WinP) (y x : Nat) : List ((Int × Int) × Nat) := (winTaps p y x).zip (List.range (p.kh * p.kw))

/-- The pairs of codes of one tap, over the group's channels from `lo` on: the weight tensor lies as KH, KW and input channels of the group within each
output channel. -/
def tapPairs (regs : Nat → List Byte) (p : WinP) (src wt : TRef) (first k lo n : Nat) (t : (Int × Int) × Nat) : List (Nat × Nat) :=
  (List.range n).map fun ci => (tapGet regs src p.mode t.1.1 t.1.2 (first + lo + ci), tGet regs wt k t.2 (lo + ci))

/-- The INT32 sum of an integer pair, and the saturating additions in it (R153). -/
def convInt (regs : Nat → List Byte) (p : WinP) (src wt : TRef) (oc y x k : Nat) : Int × Nat :=
  let w := fmtBits src.fmt
  ((kernelTaps p y x).flatMap (tapPairs regs p src wt (groupFirst p src oc k) k 0 (groupWidth p src))).foldl
    (fun (st : Int × Nat) t =>
      let r := satAdd st.1 (signExt t.1 w * signExt t.2 w)
      (r.1, st.2 + b2n r.2)) (0, 0)

/-- The FP32 sum of an MX pair, block by block of 32 channels of each tap (R151, R155); a tap in the padding has scale 1. -/
def convMx (regs : Nat → List Byte) (p : WinP) (src wt : TRef) (oc y x k : Nat) : Word32 :=
  let first := groupFirst p src oc k
  let cin := groupWidth p src
  (kernelTaps p y x).foldl (fun acc t => (List.range (ceilDiv cin 32)).foldl (fun acc b =>
    let sa := match tapPlace src p.mode t.1.1 t.1.2 with
      | some (r, c) => mxScale regs src r c (first + 32 * b)
      | none => 127
    mxStep src.fmt acc (tapPairs regs p src wt first k (32 * b) (min 32 (cin - 32 * b)) t) sa (mxScale regs wt k t.2 (32 * b))) acc) 0

/-- One output element of a convolution: an integer sum times s_in × s_w, otherwise an FP32 sum (R153 to R155). The input's scale is that of the group's
first channel. -/
def convElem (regs : Nat → List Byte) (p : WinP) (src wt : TRef) (oc y x k : Nat) : Fp :=
  if fmtIsInt src.fmt then
    f32 (f32Mul (f32Rat ((convInt regs p src wt oc y x k).1 : Rat)) (f32Mul (tPair src (groupFirst p src oc k)).1 (tPair wt k).1))
  else if fmtIsMx src.fmt then f32 (convMx regs p src wt oc y x k)
  else
    f32 (((kernelTaps p y x).flatMap (tapPairs regs p src wt (groupFirst p src oc k) k 0 (groupWidth p src))).foldl
      (fun s t => toF32 (fpAdd (f32 s) (fpMul (fmtDecode src.fmt t.1) (fmtDecode wt.fmt t.2)))) 0)

/-! ### Pooling (R179, R180) -/

/-- One output element of max pooling: padding taps count at their value, NaN is greatest (R179). -/
def poolMaxElem (regs : Nat → List Byte) (p : WinP) (src : TRef) (y x ch : Nat) : Fp :=
  match (winTaps p y x).map fun t => tapVal regs src p.mode t.1 t.2 ch with
  | [] => .fin false 0
  | v :: vs => vs.foldl (fun a b => if redGreater a b then b else a) v

/-- A mean from the RED sum of codes or values: divided in FP32 on VEC cells (R180); an integer mean is s × (sum / n + z) (log 69). -/
def meanOf (isInt : Bool) (pair : Word32 × Int) (sum : Word32) (n : Nat) : Fp :=
  if isInt then
    f32 (f32Mul pair.1 (f32Add (f32Div (f32Rat (signExt sum.toNat 32 : Rat)) (f32Rat (n : Rat))) (f32Rat (pair.2 : Rat))))
  else f32 (f32Div sum (f32Rat (n : Rat)))

/-- The RED sum of taps: INT32 codes for integer formats, FP32 values for others (R96, R180). -/
def redTaps (regs : Nat → List Byte) (src : TRef) (mode ch : Nat) (taps : List (Int × Int)) : Word32 :=
  if fmtIsInt src.fmt then BitVec.ofInt 32 (redSumInt (taps.map fun t => signExt (tapGet regs src mode t.1 t.2 ch) (fmtBits src.fmt)))
  else redSumFp (taps.map fun t => toF32 (tapVal regs src mode t.1 t.2 ch))

/-- One output element of average pooling (R180). -/
def poolAvgElem (regs : Nat → List Byte) (p : WinP) (exclude : Bool) (src : TRef) (y x ch : Nat) : Fp :=
  let inside := fun (t : Int × Int) => decide (0 ≤ t.1 ∧ t.1 < src.h ∧ 0 ≤ t.2 ∧ t.2 < src.w)
  let taps := if exclude then (winTaps p y x).filter inside else winTaps p y x
  meanOf (fmtIsInt src.fmt) (tPair src ch) (redTaps regs src p.mode ch taps) (if exclude then taps.length else p.kh * p.kw)

/-- The sum of a stripe's rows of a channel, added to the sum of the stripes before it (R180). -/
def globSumElem (regs : Nat → List Byte) (prev : Option TRef) (src : TRef) (ch : Nat) : Nat :=
  let taps := (List.range src.h).flatMap fun (i : Nat) => (List.range src.w).map fun (j : Nat) => ((i : Int), (j : Int))
  let own := redTaps regs src 0 ch taps
  match prev with
  | none => own.toNat
  | some t =>
    let old : Word32 := BitVec.ofNat 32 (tGet regs t 0 0 ch)
    (if fmtIsInt src.fmt then BitVec.ofInt 32 (satAdd (signExt old.toNat 32) (signExt own.toNat 32)).1 else f32Add old own).toNat

/-! ### Geometric operators (R182, R183) -/

/-- A source coordinate in FP32, rounded to 16.16 with ties to even, relative to a source window that begins at `win` (R182). -/
def coord16 (w : Word32) (win : Nat) : Int := roundEvenRat (fpRat (f32 w) * 65536) - 65536 * win

/-- The source coordinate of output position `k` of a resize in FP32 (R183). -/
def resizeSrc (k nSrc nOut : Nat) : Word32 := f32Rat (((k : Rat) + 1 / 2) * (nSrc : Rat) / (nOut : Rat) - 1 / 2)

/-- The 16.16 increment of a resized row. -/
def resizeStep (nSrc nOut : Nat) : Int := roundEvenRat (fpRat (f32 (f32Rat ((nSrc : Rat) / (nOut : Rat)))) * 65536)

/-- The source coordinates of output sample (x, y) of a resize: each row's first coordinate afresh in FP32, then steps along the row. -/
def resizeXY (g : GeoP) (y x : Nat) : Int × Int :=
  (coord16 (resizeSrc g.outX g.srcW g.outW) g.winX + resizeStep g.srcW g.outW * x, coord16 (resizeSrc (g.outY + y) g.srcH g.outH) g.winY)

/-- The source coordinates of output sample (x, y) of an affine map. -/
def affineXY (g : GeoP) (m : List Word32) (y x : Nat) : Int × Int :=
  let k := fun (i : Nat) => m.getD i 0
  let fx := f32Rat (g.outX : Rat)
  let fy := f32Rat ((g.outY + y : Nat) : Rat)
  let first := fun (a b c : Nat) => f32Add (f32Add (f32Mul (k a) fx) (f32Mul (k b) fy)) (k c)
  (coord16 (first 0 1 2) g.winX + coord16 (k 0) 0 * x, coord16 (first 3 4 5) g.winY + coord16 (k 3) 0 * x)

/-- A bilinear sample of a tensor's channel. -/
def tSample (regs : Nat → List Byte) (src : TRef) (ch : Nat) (border : Option Word32) (x16 y16 : Int) : Fp :=
  geoBilinear (fun x y => tVal regs src y.toNat x.toNat ch) src.w src.h (border.map f32) x16 y16

/-- A sample as a code of the output tensor; at integer coordinates inside the source the code is copied, so that it is exact. -/
def geoCode (regs : Nat → List Byte) (src dst : TRef) (ch : Nat) (border : Option Word32) (x16 y16 : Int) : Nat :=
  let x := x16.fdiv 65536
  let y := y16.fdiv 65536
  if sameCodes src dst ch && decide (x * 65536 = x16 ∧ y * 65536 = y16 ∧ 0 ≤ x ∧ x < src.w ∧ 0 ≤ y ∧ y < src.h) then tGet regs src y.toNat x.toNat ch
  else tCode dst ch (tSample regs src ch border x16 y16)

/-- A sample at whole source coordinates. -/
def copyCode (regs : Nat → List Byte) (src dst : TRef) (y x ch : Nat) : Nat :=
  geoCode regs src dst ch none (65536 * (x : Int)) (65536 * (y : Int))

/-! ### Operators -/

/-- One output element of a window or geometric operator, as a code of the output tensor. -/
def winElem (regs : Nat → List Byte) (op : WinOp) (src dst : TRef) (y x ch : Nat) : Nat :=
  match op with
  | .conv p t b wt => tCode dst ch (convElem regs (seamPad p t b) src wt dst.c y x ch)
  | .poolMax p t b => tCode dst ch (poolMaxElem regs (seamPad p t b) src y x ch)
  | .poolAvg p t b e => tCode dst ch (poolAvgElem regs (seamPad p t b) e src y x ch)
  | .globSum prev => globSumElem regs prev src ch
  | .globDiv n => tCode dst ch (meanOf (fmtIsInt src.fmt) (tPair src ch) (BitVec.ofNat 32 (tGet regs src 0 0 ch)) n)
  | .argmaxC _ => toBits (argMax ((List.range src.c).map fun c => tVal regs src y x c) : Nat) (fmtBits dst.fmt)
  | .resize nearest g =>
    let c := resizeXY g y x
    if nearest then geoCode regs src dst ch none (roundEvenDiv c.1 65536 * 65536) (roundEvenDiv c.2 65536 * 65536)
    else geoCode regs src dst ch none c.1 c.2
  | .affine m border g => geoCode regs src dst ch border (affineXY g m y x).1 (affineXY g m y x).2
  | .flip a l => copyCode regs src dst (if l then src.h - 1 - y else y) (if a then src.w - 1 - x else x) ch
  | .crop l t => copyCode regs src dst (y + t) (x + l) ch

/-- The shape of the output: R174's rule for windows; a geometric operator's is the output's own. -/
def winShape (op : WinOp) (src dst : TRef) : Nat × Nat × Nat :=
  let win := fun (p : WinP) (c : Nat) =>
    ((outDim (tHeight src) p.pt p.pb p.kh p.sh p.dh).toNat, (outDim (tWidth src) p.pl p.pr p.kw p.sw p.dw).toNat, c)
  match op with
  | .conv p t b _ => win (seamPad p t b) dst.c
  | .poolMax p t b => win (seamPad p t b) src.c
  | .poolAvg p t b _ => win (seamPad p t b) src.c
  | .globSum _ | .globDiv _ => (1, 1, src.c)
  | .argmaxC _ => (src.h, src.w, 1)
  | .flip _ _ => (src.h, src.w, src.c)
  | .resize _ _ | .affine _ _ _ | .crop _ _ => (dst.h, dst.w, src.c)

/-- The output tensor with its shape. -/
def winDst (op : WinOp) (src dst : TRef) : TRef :=
  { dst with h := (winShape op src dst).1, w := (winShape op src dst).2.1, c := (winShape op src dst).2.2 }

/-- The words of the output tensor. -/
def winWords (regs : Nat → List Byte) (op : WinOp) (src dst : TRef) : List (List Byte) :=
  tPut (winDst op src dst) (winElem regs op src (winDst op src dst))

/-- Saturating additions of a convolution (R153). -/
def winSats (regs : Nat → List Byte) (op : WinOp) (src dst : TRef) : Nat :=
  match op with
  | .conv p t b wt =>
    if fmtIsInt src.fmt then
      let d := winDst op src dst
      sumNat ((List.range d.h).flatMap fun y => (List.range d.w).flatMap fun x => (List.range d.c).map fun k =>
        (convInt regs (seamPad p t b) src wt d.c y x k).2)
    else 0
  | _ => 0

/-- The greatest values beside an arg-max (R181), as words of their tensor. -/
def argmaxWords (regs : Nat → List Byte) (src vals : TRef) : List (List Byte) :=
  tPut { vals with h := src.h, w := src.w, c := 1 } fun y x _ =>
    copyCode regs src vals y x (argMax ((List.range src.c).map fun c => tVal regs src y x c))

end Sys2Proof.Machine
end

