-- ==== Sys2Proof/Machine/HostImages.lean ====
section
/-! DEFINITION. Host images: codings and limits (R338, R341, R342), the parameter block and augmentation (R345, R346), conversion to a
tensor (R340) and the frame of the record (R347). -/

namespace Sys2Proof.Machine

open Sys2Proof

/-! ### Codings and limits -/

/-- Bytes of a sample of the converted tensor: INT8 for inputs of 8 bits or fewer, INT16 otherwise (R340). -/
def convBytes (coding bits : Nat) : Nat :=
  if coding = 5 then (if bits = 1 then 1 else 2) else if bits ≤ 8 then 1 else 2

/-- Bytes of the converted tensor. -/
def tensorBytes (w h coding bits : Nat) : Nat := w * h * 4 * convBytes coding bits

/-- Rows 1 to 3 of Table 13-3. -/
def sizeTooLarge (w h : Nat) : Bool := decide (w = 0 ∨ 32768 < w ∨ h = 0 ∨ 65536 < h ∨ 400000000 < w * h)

/-- The rows of Table 13-3 in order; `ow`, `oh` is the augmented size. -/
def imageLimit (s : State) (fn : Fn) (w h comps coding bits inLen ow oh : Nat) : Option Status :=
  if sizeTooLarge w h then some .inputTooLarge
  else if comps = 0 ∨ 4 < comps then some .inputTooLarge
  else if stageBytes s < tensorBytes w h coding bits then some .inputTooLarge
  else if 1 ≤ coding ∧ coding ≤ 4 ∧ imgRatio s fn.val * inLen < w * h then some .implausible
  else if sizeTooLarge ow oh then some .inputTooLarge
  else none

/-! ### The parameter block (Tables 13-4 and 13-5) -/

/-- An augmentation block. -/
structure AugP where
  left : Nat
  top : Nat
  right : Nat
  bottom : Nat
  rot : Word32
  across : Bool
  along : Bool
  sampling : Nat
  rw : Nat
  rh : Nat
deriving DecidableEq, Repr, Inhabited

/-- The 32 bytes of an augmentation block at an offset. -/
def parseAug (b : List Byte) (o : Nat) : AugP :=
  { left := fieldAt b o 4, top := fieldAt b (o + 4) 4, right := fieldAt b (o + 8) 4, bottom := fieldAt b (o + 12) 4,
    rot := BitVec.ofNat 32 (fieldAt b (o + 16) 4), across := bitAt (fieldAt b (o + 20) 1) 0, along := bitAt (fieldAt b (o + 20) 1) 1,
    sampling := fieldAt b (o + 21) 1, rw := fieldAt b (o + 24) 4, rh := fieldAt b (o + 28) 4 }

/-- Is there a crop? -/
def AugP.cropped (a : AugP) : Bool := decide (a.left ≠ 0 ∨ a.top ≠ 0 ∨ a.right ≠ 0 ∨ a.bottom ≠ 0)

/-- The rotation in degrees. -/
def AugP.deg (a : AugP) : Rat := fpRat (f32 a.rot)

/-- Is the rotation a finite number from −180 to 180? -/
def AugP.rotOk (a : AugP) : Bool :=
  match f32 a.rot with
  | .fin _ _ => decide (-180 ≤ a.deg ∧ a.deg ≤ 180)
  | _ => false

/-- Are the fields of an augmentation block in range for an image (R346; log 30)? -/
def AugP.ok (a : AugP) (w h : Nat) : Bool :=
  (!a.cropped || decide (a.left < a.right ∧ a.top < a.bottom ∧ a.right ≤ w ∧ a.bottom ≤ h)) && a.rotOk && decide (a.sampling ≤ 1) &&
  decide (a.rw = 0 ↔ a.rh = 0)

/-- Does the rotation swap width and height? -/
def AugP.quarter (a : AugP) : Bool := decide (a.deg = 90 ∨ a.deg = -90)

/-- Size after the crop. -/
def AugP.cropSize (a : AugP) (w h : Nat) : Nat × Nat := if a.cropped then (a.right - a.left, a.bottom - a.top) else (w, h)

/-- Size after the rotation. -/
def AugP.rotSize (a : AugP) (w h : Nat) : Nat × Nat :=
  let c := a.cropSize w h
  if a.quarter then (c.2, c.1) else c

/-- Size of the augmented image. -/
def AugP.outSize (a : AugP) (w h : Nat) : Nat × Nat := if a.rw = 0 then a.rotSize w h else (a.rw, a.rh)

/-- Density: 0 stands for 300 dpi (Table 13-4). -/
def dpiField (v : Nat) : Nat := if v = 0 then 300 else v

/-- A parameter block's densities and background in range? -/
def dpiOk (x y bg : Nat) : Bool := decide (x ≤ 4800 ∧ y ≤ 4800 ∧ bg ≤ 1)

/-- The parameter block of an IMAGE_READ as 64 bytes: an address of 0 means every field is 0 (R345). -/
def paramBlock (o : ImageReadOp) (aux : List Byte) : List Byte := if o.pbAddr = 0 then zeros 64 else slice aux 0 64

/-! ### Conversion (R340) -/

/-- A sample of `b` bits on the scale of the tensor, 0 to 255 or 0 to 65,535. -/
def widen (b v : Nat) : Nat := if b = 16 then v else if b = 8 then v else v * (255 / (2 ^ b - 1))

/-- A sample of a tensor input on the scale of the tensor: a real clamped to 0 to 1 and quantised by R160; integer codes are taken with the
zero point of R340 (log 30). -/
def tensorSample (fmt v : Nat) : Nat :=
  if fmt = 1 then (signExt v 8 + 128).toNat
  else if fmt = 2 then (signExt v 16 + 32768).toNat
  else
    let x := fmtDecode fmt v
    let x := if fpIsNaN x then x else if fpLt x (.fin false 0) then Fp.fin false 0 else if fpLt (.fin false 1) x then Fp.fin false 1 else x
    (quantise 2 (f32Rat (1 / 65535)) 32768 (toF32 x) + 32768).toNat

/-- The red, green and blue of a decoded pixel, on the scale of the tensor. -/
def convPixel (coding comps bits : Nat) (px : List Nat) : List Nat :=
  let v := fun (i : Nat) => if coding = 5 then tensorSample bits (px.getD i 0) else widen bits (px.getD i 0)
  if coding = 1 ∧ comps = 4 then
    [0, 1, 2].map fun i => (255 - v i) * (255 - v 3) / 255
  else if comps ≤ 2 then [v 0, v 0, v 0] else [v 0, v 1, v 2]

/-- The background value. -/
def bgValue (bytes bg : Nat) : Nat := if bg = 0 then 2 ^ (8 * bytes) - 1 else 0

/-- The decoded image as a tensor of three channels; rows not decoded take the background (R344). -/
def convImage (w h coding comps bits bg : Nat) (r : DecodeResult) : List (List (List Nat)) :=
  let b := bgValue (convBytes coding bits) bg
  (List.range h).map fun y => (List.range w).map fun x =>
    if y < r.rowsDecoded then convPixel coding comps bits ((r.pixels.getD y []).getD x []) else [b, b, b]

/-! ### Augmentation (R346) -/

/-- The tensor form of an image: INT8 with s = 1/255, z = 128, or INT16 with s = 1/65,535, z = 32,768. -/
def imgRef (bytes w h : Nat) : TRef :=
  { fmt := if bytes = 1 then 1 else 2, inf := false, lay := 4, regs := [], h := h, w := w, c := 3,
    quant := [if bytes = 1 then (f32Rat (1 / 255), 128) else (f32Rat (1 / 65535), 32768)], scales := [], order := [], leastH := 0, leastW := 0 }

/-- The words of an image's C4 tensor. -/
def imgWords (t : TRef) (px : List (List (List Nat))) : List (List Byte) :=
  tPut t fun y x c => toBits ((((((px.getD y []).getD x []).getD c 0 : Nat)) : Int) - (tPair t c).2) (fmtBits t.fmt)

/-- A tensor in the registers from 0 on. -/
def withRegs (t : TRef) (n : Nat) : TRef := { t with regs := List.range n }

/-- Apply a geometric operator of chapter 07 to an image. -/
def imgOp (bytes : Nat) (op : GeoP → WinOp) (w h : Nat) (px : List (List (List Nat))) : List (List (List Nat)) :=
  let src := imgRef bytes ((px.headD []).length) px.length
  let words := imgWords src px
  let src := withRegs src words.length
  let g : GeoP := { srcH := src.h, srcW := src.w, outH := h, outW := w, winY := 0, winX := 0, outY := 0, outX := 0 }
  let out := winWords (fun i => words.getD i []) (op g) src (imgRef bytes w h)
  let dst := withRegs (imgRef bytes w h) out.length
  let val := fun (y x c : Nat) => (signExt (tGet (fun i => out.getD i []) dst y x c) (fmtBits dst.fmt) + (tPair dst c).2).toNat
  (List.range h).map fun y => (List.range w).map fun x => [0, 1, 2].map (val y x)

/-- Cosine and sine of an angle in degrees (log 7). -/
def cosOf (deg : Word32) : Rat := fpRat (f32 (Config.cosDeg deg))
def sinOf (deg : Word32) : Rat := fpRat (f32 (Config.sinDeg deg))

/-- The affine matrix that turns an image about its centre, positive clockwise: from an output pixel to a source pixel. -/
def rotMatrix (deg : Word32) (w h : Nat) : List Word32 :=
  let c := cosOf deg
  let n := sinOf deg
  let cx : Rat := ((w : Rat) - 1) / 2
  let cy : Rat := ((h : Rat) - 1) / 2
  [c, n, cx - c * cx - n * cy, -n, c, cy + n * cx - c * cy].map f32Rat

/-- Rotate; multiples of 90° are exact (R183). -/
def rotateImage (bytes bg : Nat) (a : AugP) (px : List (List (List Nat))) : List (List (List Nat)) :=
  let h := px.length
  let w := (px.headD []).length
  let at2 := fun (y x : Nat) => (px.getD y []).getD x [0, 0, 0]
  if a.deg = 0 then px
  else if a.deg = 90 then (List.range w).map fun y => (List.range h).map fun x => at2 (h - 1 - x) y
  else if a.deg = -90 then (List.range w).map fun y => (List.range h).map fun x => at2 x (w - 1 - y)
  else if a.deg = 180 ∨ a.deg = -180 then (px.map List.reverse).reverse
  else imgOp bytes (.affine (rotMatrix a.rot w h) (some (f32Rat (if bg = 0 then 1 else 0)))) w h px

/-- The augmented image: crop, rotate, flip, resize. -/
def augment (bytes bg : Nat) (a : AugP) (px : List (List (List Nat))) : List (List (List Nat)) :=
  let px := if a.cropped then ((px.drop a.top).take (a.bottom - a.top)).map fun r => (r.drop a.left).take (a.right - a.left) else px
  let px := rotateImage bytes bg a px
  let px := if a.across then px.map List.reverse else px
  let px := if a.along then px.reverse else px
  if a.rw = 0 then px else imgOp bytes (.resize (a.sampling == 1)) a.rw a.rh px

/-! ### The record's frame (R347) -/

/-- From a point of the augmented image to a point of the image as supplied, in pixels. -/
def unaugment (a : AugP) (w h : Nat) (x y : Rat) : Rat × Rat :=
  let c := a.cropSize w h
  let r := a.rotSize w h
  let o := a.outSize w h
  let x := x * (r.1 : Rat) / (max 1 o.1 : Nat)
  let y := y * (r.2 : Rat) / (max 1 o.2 : Nat)
  let x := if a.across then (r.1 : Rat) - x else x
  let y := if a.along then (r.2 : Rat) - y else y
  let p : Rat × Rat :=
    if a.deg = 0 then (x, y)
    else if a.deg = 90 then (y, (c.2 : Rat) - x)
    else if a.deg = -90 then ((c.1 : Rat) - y, x)
    else if a.deg = 180 ∨ a.deg = -180 then ((c.1 : Rat) - x, (c.2 : Rat) - y)
    else
      let k := cosOf a.rot
      let n := sinOf a.rot
      let cx := (c.1 : Rat) / 2
      let cy := (c.2 : Rat) / 2
      (cx + k * (x - cx) + n * (y - cy), cy - n * (x - cx) + k * (y - cy))
  (p.1 + (if a.cropped then a.left else 0 : Nat), p.2 + (if a.cropped then a.top else 0 : Nat))

/-- From a point of the augmented image to page units of the image as supplied. -/
def toPage (a : AugP) (w h dx dy : Nat) (x y : Rat) : Rat × Rat :=
  let p := unaugment a w h x y
  (p.1 * 1200 / (dx : Rat), p.2 * 1200 / (dy : Rat))

/-- The affine map from augmented pixel and row to page units. -/
def pageAffine (a : AugP) (w h dx dy : Nat) : List Rat :=
  let o := toPage a w h dx dy 0 0
  let x := toPage a w h dx dy 1 0
  let y := toPage a w h dx dy 0 1
  [x.1 - o.1, y.1 - o.1, o.1, x.2 - o.2, y.2 - o.2, o.2]

/-- A box of the augmented image, in pixels, as the bounding box of its corners in page units (R347; rounding outward, log 30). -/
def boxToPage (a : AugP) (w h dx dy : Nat) (b : List Nat) : List Nat :=
  let g := fun (i : Nat) => ((b.getD i 0 : Nat) : Rat)
  let ps := [(g 0, g 1), (g 2, g 1), (g 0, g 3), (g 2, g 3)].map fun p => toPage a w h dx dy p.1 p.2
  [(ratMin (ps.map (·.1))).floor.toNat, (ratMin (ps.map (·.2))).floor.toNat, (ratCeil (ratMax (ps.map (·.1)))).toNat,
   (ratCeil (ratMax (ps.map (·.2)))).toNat]

/-- What an IMAGE_READ's parameter block says. -/
structure ImgParams where
  dx : Nat
  dy : Nat
  bg : Nat
  aug : AugP
deriving DecidableEq, Repr, Inhabited

def imgParams (pb : List Byte) : ImgParams :=
  { dx := dpiField (fieldAt pb 0 4), dy := dpiField (fieldAt pb 4 4), bg := fieldAt pb 8 1, aug := parseAug pb 32 }

/-- The SIDE chunk of a host image. -/
def hostSide (o : ImageReadOp) (p : ImgParams) : SideRec :=
  let a := p.aug
  let out := a.outSize o.width o.height
  { side := .front, port := 0xFF, depth := 8 * convBytes o.coding o.bits, xavg := 1, theta := a.rot,
    wPu := (roundEvenRat ((o.width : Rat) * 1200 / (p.dx : Rat))).toNat, hPu := (roundEvenRat ((o.height : Rat) * 1200 / (p.dy : Rat))).toNat,
    wPx := out.1, hLn := out.2, puX := f32Rat (1200 / (p.dx : Rat)), puY := f32Rat (1200 / (p.dy : Rat)),
    affine := (pageAffine a o.width o.height p.dx p.dy).map f32Rat,
    crop := (if a.cropped then [a.left, a.top, a.right, a.bottom] else [0, 0, o.width, o.height]).map fun (n : Nat) => (n : Int),
    lead := 0, T := 0, skewSrc := 0, cropped := a.cropped, mirrored := false }

/-- An emitted item of a host image with its boxes mapped back. -/
def mapEmit (f : List Nat → List Nat) (e : Emit) : Emit :=
  match e with
  | .block sd b c p => .block sd (f b) c p
  | .line sd bt b p k ws => .line sd bt (f b) p k (ws.map fun w => { w with box := f w.box })
  | .field n sd p b vt d v k x => .field n sd p (if sd = 0xFF then b else f b) vt d v k x
  | .table n sd p b r c => .table n sd p (if sd = 0xFF then b else f b) r c
  | .cell r c rs cs p vt b v d t => .cell r c rs cs p vt (f b) v d t
  | e => e

end Sys2Proof.Machine
end

