-- ==== Sys2Proof/Machine/Hash.lean ====
section
/-! DEFINITION. SHAKE256 (FIPS 202) and KMAC256 (NIST SP 800-185), the hashes chapters 09, 13 and 16 name. -/

namespace Sys2Proof.Machine

open Sys2Proof

/-- Rotation amounts of Keccak's rho step, lane x + 5y. -/
def keccakRot : List Nat :=
  [0, 1, 62, 28, 27, 36, 44, 6, 55, 20, 3, 10, 43, 25, 39, 41, 45, 15, 21, 8, 18, 2, 61, 56, 14]

/-- Round constants of Keccak-f[1600]. -/
def keccakRc : List Word64 :=
  [0x0000000000000001, 0x0000000000008082, 0x800000000000808A, 0x8000000080008000, 0x000000000000808B, 0x0000000080000001,
   0x8000000080008081, 0x8000000000008009, 0x000000000000008A, 0x0000000000000088, 0x0000000080008009, 0x000000008000000A] ++
  [0x000000008000808B, 0x800000000000008B, 0x8000000000008089, 0x8000000000008003, 0x8000000000008002, 0x8000000000000080,
   0x000000000000800A, 0x800000008000000A, 0x8000000080008081, 0x8000000000008080, 0x0000000080000001, 0x8000000080008008]

/-- One round on the 25 lanes. -/
def keccakRound (a : List Word64) (rc : Word64) : List Word64 :=
  let g := fun (l : List Word64) (i : Nat) => l.getD i 0
  let c := (List.range 5).map fun x => g a x ^^^ g a (x + 5) ^^^ g a (x + 10) ^^^ g a (x + 15) ^^^ g a (x + 20)
  let d := (List.range 5).map fun x => g c ((x + 4) % 5) ^^^ (g c ((x + 1) % 5)).rotateLeft 1
  let t := (List.range 25).map fun i => (g a i ^^^ g d (i % 5)).rotateLeft (keccakRot.getD i 0)
  -- pi: lane (x, y) of the result comes from lane (x + 3y, x)
  let b := (List.range 25).map fun i => let x := i % 5; let y := i / 5; g t ((x + 3 * y) % 5 + 5 * x)
  let e := (List.range 25).map fun i =>
    let x := i % 5; let y := i / 5
    g b i ^^^ (~~~(g b ((x + 1) % 5 + 5 * y)) &&& g b ((x + 2) % 5 + 5 * y))
  match e with
  | [] => []
  | l :: ls => (l ^^^ rc) :: ls

/-- Keccak-f[1600]. -/
def keccakF (a : List Word64) : List Word64 := keccakRc.foldl keccakRound a

/-- XOR one block of 136 bytes into the state. -/
def keccakXor (a : List Word64) (blk : List Byte) : List Word64 :=
  (List.range 25).map fun i => a.getD i 0 ^^^ (if i < 17 then BitVec.ofNat 64 (fieldAt blk (8 * i) 8) else 0)

/-- Pad to whole blocks of 136 bytes, with the domain byte first and 0x80 in the last byte. -/
def keccakPad (dom : Byte) (m : List Byte) : List Byte :=
  let r := 136 - m.length % 136
  if r = 1 then m ++ [dom ||| 0x80] else m ++ [dom] ++ zeros (r - 2) ++ [0x80]

/-- The sponge at rate 136 bytes with a domain byte, `n` output bytes (at most 136 are needed here). -/
def keccakSponge (dom : Byte) (m : List Byte) (n : Nat) : List Byte :=
  let p := keccakPad dom m
  let st := (chunksOf 136 (p.length / 136 + 1) p).foldl (fun a blk => keccakF (keccakXor a blk)) (List.replicate 25 0)
  (st.flatMap fun w => leBytes 8 w.toNat).take n

/-- SHAKE256 with `n` output bytes, n ≤ 136. -/
def shake256 (m : List Byte) (n : Nat) : List Byte := keccakSponge 0x1F m n

/-- The 32-byte digest used throughout (Tables 09-1, 16-3, 16-6, R349). -/
def digest32 (m : List Byte) : List Byte := shake256 m 32

/-- A number in as few big-endian bytes as it needs (SP 800-185). -/
def natBytes (v : Nat) : List Byte :=
  let n := if v < 256 then 1 else if v < 65536 then 2 else if v < 16777216 then 3 else 8
  (leBytes n v).reverse

/-- left_encode and right_encode (SP 800-185). -/
def leftEncode (v : Nat) : List Byte := BitVec.ofNat 8 (natBytes v).length :: natBytes v
def rightEncode (v : Nat) : List Byte := natBytes v ++ [BitVec.ofNat 8 (natBytes v).length]
def encodeString (bs : List Byte) : List Byte := leftEncode (8 * bs.length) ++ bs

/-- bytepad to the rate of 136 bytes. -/
def bytePad (bs : List Byte) : List Byte :=
  let p := leftEncode 136 ++ bs
  p ++ zeros ((136 - p.length % 136) % 136)

/-- The bytes of an ASCII string. -/
def asciiBytes (t : String) : List Byte := t.toList.map fun c => BitVec.ofNat 8 c.toNat

/-- KMAC256(K, input, n bytes, customisation) (R395). -/
def kmac256 (key input : List Byte) (n : Nat) (custom : String) : List Byte :=
  keccakSponge 0x04
    (bytePad (encodeString (asciiBytes "KMAC") ++ encodeString (asciiBytes custom)) ++ bytePad (encodeString key) ++ input ++
      rightEncode (8 * n)) n

end Sys2Proof.Machine
end

