-- ==== Sys2Proof/Machine/Operands.lean ====
section
/-! DEFINITION. Descriptors: reading the 64 bytes of a slot (R295 to R297), writing them, and the order and content of the start
checks of R498 that need no object of another chapter. -/

namespace Sys2Proof.Machine

open Sys2Proof

/-- The header of a descriptor (Table 11-3); reserved bits are ignored (R11). -/
def parseHdr (b : List Byte) : Hdr :=
  { irq := bitAt (fieldAt b 1 1) 0, fence := bitAt (fieldAt b 1 1) 1, peg := bitAt (fieldAt b 1 1) 2,
    complPeg := fieldAt b 4 2, tag := BitVec.ofNat 64 (fieldAt b 8 8) }

/-- IMAGE_READ operands (Table 11-5). -/
def parseImageRead (b : List Byte) : ImageReadOp :=
  { plan := fieldAt b 16 4, cls := fieldAt b 20 1, prio := fieldAt b 21 1, coding := fieldAt b 22 1, outputs := fieldAt b 23 1,
    inAddr := fieldAt b 24 8, inLen := fieldAt b 32 4, width := fieldAt b 36 4, height := fieldAt b 40 4, comps := fieldAt b 44 1,
    bits := fieldAt b 45 1, pbAddr := fieldAt b 48 8, pbLen := fieldAt b 56 4 }

/-- SEQ_STEP operands (Table 11-5). -/
def parseSeqStep (b : List Byte) : SeqStepOp :=
  { plan := fieldAt b 16 4, cls := fieldAt b 20 1, prio := fieldAt b 21 1, flags := fieldAt b 22 2, seq := fieldAt b 24 4,
    limit := fieldAt b 28 4, tokAddr := fieldAt b 32 8, tokCount := fieldAt b 40 4 }

/-- TAILOR_STEP operands (Table 11-5). -/
def parseTailorStep (b : List Byte) : TailorStepOp :=
  { plan := fieldAt b 16 4, flags := fieldAt b 20 1, count := fieldAt b 22 2, listAddr := fieldAt b 24 8, listLen := fieldAt b 32 4,
    step := BitVec.ofNat 32 (fieldAt b 36 4) }

/-- PLAN_LOAD operands (Table 11-5). -/
def parsePlanLoad (b : List Byte) : PlanLoadOp :=
  { addr := fieldAt b 16 8, len := fieldAt b 24 8, allotment := fieldAt b 32 8, repAddr := fieldAt b 40 8, repLen := fieldAt b 48 4,
    rate := fieldAt b 52 4, width := fieldAt b 56 2, offset := fieldAt b 58 1, tracks := fieldAt b 59 1 }

/-- PT_EDIT operands (Table 11-5). -/
def parsePtEdit (b : List Byte) : PtEditOp :=
  { plan := fieldAt b 16 4, seq := fieldAt b 20 4, kind := fieldAt b 24 1, layer := fieldAt b 26 2, page := fieldAt b 28 4,
    srcSeq := fieldAt b 32 4, srcPage := fieldAt b 36 4 }

/-- SNAPSHOT operands (Table 11-5). -/
def parseSnapshot (b : List Byte) : SnapshotOp :=
  { T := fieldAt b 16 8, addr := fieldAt b 24 8, len := fieldAt b 32 4, mask := fieldAt b 36 4 }

/-- WINDOW_OPEN operands (Table 11-5). -/
def parseWindowOpen (b : List Byte) : WindowOpenOp :=
  { win := fieldAt b 16 1, target := fieldAt b 17 1, access := fieldAt b 18 1, base := fieldAt b 24 8, len := fieldAt b 32 8 }

/-- TWIN_DMA operands (Table 11-5). -/
def parseTwinDma (b : List Byte) : TwinDmaOp :=
  { win := fieldAt b 16 1, src := fieldAt b 17 1, srcAddr := fieldAt b 24 8, off := fieldAt b 32 8, len := fieldAt b 40 8 }

/-- TEST_RUN operands (Table 11-5). -/
def parseTestRun (b : List Byte) : TestRunOp :=
  { test := fieldAt b 16 2, tile := fieldAt b 18 2, addr := fieldAt b 20 4, host := fieldAt b 24 8, len := fieldAt b 32 4 }

/-- The operands by opcode (Tables 11-4 and 11-5). -/
def parseOp (b aux : List Byte) : DescOp :=
  match fieldAt b 0 1 with
  | 0x00 => .nop
  | 0x01 => .scanArm { track := fieldAt b 16 1, sides := fieldAt b 17 1, plan := fieldAt b 20 4 }
  | 0x02 => .scanDisarm (fieldAt b 16 1)
  | 0x03 => .calRun { port := fieldAt b 16 1, addr := fieldAt b 24 8, len := fieldAt b 32 4 }
  | 0x10 => .imageRead (parseImageRead b) aux
  | 0x11 => .seqStep (parseSeqStep b) aux
  | 0x12 => .tailorStep (parseTailorStep b) aux
  | 0x20 => .planLoad (parsePlanLoad b)
  | 0x21 => .planUnload (fieldAt b 16 4)
  | 0x22 => .wardrobePin { plan := fieldAt b 16 4, op := fieldAt b 20 1 }
  | 0x30 => .ptEdit (parsePtEdit b)
  | 0x40 => .pegWait { peg := fieldAt b 16 2, target := BitVec.ofNat 32 (fieldAt b 20 4), timeout := fieldAt b 24 4 }
  | 0x41 => .pegSignal { peg := fieldAt b 16 2, op := fieldAt b 18 1, value := BitVec.ofNat 32 (fieldAt b 20 4) }
  | 0x48 => .foldOpen
  | 0x49 => .foldClose (fieldAt b 16 1)
  | 0x50 => .snapshot (parseSnapshot b)
  | 0x60 => .windowOpen (parseWindowOpen b)
  | 0x61 => .windowClose (fieldAt b 16 1)
  | 0x62 => .twinDma (parseTwinDma b) aux
  | 0x70 => .testRun (parseTestRun b)
  | n => .unknown n

/-- The descriptor in a slot; `aux` is what host memory holds where it points. -/
def parseDesc (b aux : List Byte) : Desc := { hdr := parseHdr b, op := parseOp b aux }

/-- Operand bytes 16 to 63 of a descriptor, before padding (Table 11-5). -/
def encodeOp (o : DescOp) : List Byte :=
  match o with
  | .nop | .foldOpen | .unknown _ => []
  | .scanArm o => leBytes 1 o.track ++ leBytes 1 o.sides ++ zeros 2 ++ leBytes 4 o.plan
  | .scanDisarm t => leBytes 1 t
  | .calRun o => leBytes 1 o.port ++ zeros 7 ++ leBytes 8 o.addr ++ leBytes 4 o.len
  | .imageRead o _ => leBytes 4 o.plan ++ leBytes 1 o.cls ++ leBytes 1 o.prio ++ leBytes 1 o.coding ++ leBytes 1 o.outputs ++
      leBytes 8 o.inAddr ++ leBytes 4 o.inLen ++ leBytes 4 o.width ++ leBytes 4 o.height ++ leBytes 1 o.comps ++ leBytes 1 o.bits ++
      zeros 2 ++ leBytes 8 o.pbAddr ++ leBytes 4 o.pbLen
  | .seqStep o _ => leBytes 4 o.plan ++ leBytes 1 o.cls ++ leBytes 1 o.prio ++ leBytes 2 o.flags ++ leBytes 4 o.seq ++
      leBytes 4 o.limit ++ leBytes 8 o.tokAddr ++ leBytes 4 o.tokCount
  | .tailorStep o _ => leBytes 4 o.plan ++ leBytes 1 o.flags ++ zeros 1 ++ leBytes 2 o.count ++ leBytes 8 o.listAddr ++
      leBytes 4 o.listLen ++ leBytes 4 o.step.toNat
  | .planLoad o => leBytes 8 o.addr ++ leBytes 8 o.len ++ leBytes 8 o.allotment ++ leBytes 8 o.repAddr ++ leBytes 4 o.repLen ++
      leBytes 4 o.rate ++ leBytes 2 o.width ++ leBytes 1 o.offset ++ leBytes 1 o.tracks
  | .planUnload p => leBytes 4 p
  | .wardrobePin o => leBytes 4 o.plan ++ leBytes 1 o.op
  | .ptEdit o => leBytes 4 o.plan ++ leBytes 4 o.seq ++ leBytes 1 o.kind ++ zeros 1 ++ leBytes 2 o.layer ++ leBytes 4 o.page ++
      leBytes 4 o.srcSeq ++ leBytes 4 o.srcPage
  | .pegWait o => leBytes 2 o.peg ++ zeros 2 ++ leBytes 4 o.target.toNat ++ leBytes 4 o.timeout
  | .pegSignal o => leBytes 2 o.peg ++ leBytes 1 o.op ++ zeros 1 ++ leBytes 4 o.value.toNat
  | .foldClose f => leBytes 1 f
  | .snapshot o => leBytes 8 o.T ++ leBytes 8 o.addr ++ leBytes 4 o.len ++ leBytes 4 o.mask
  | .windowOpen o => leBytes 1 o.win ++ leBytes 1 o.target ++ leBytes 1 o.access ++ zeros 5 ++ leBytes 8 o.base ++ leBytes 8 o.len
  | .windowClose w => leBytes 1 w
  | .twinDma o _ => leBytes 1 o.win ++ leBytes 1 o.src ++ zeros 6 ++ leBytes 8 o.srcAddr ++ leBytes 8 o.off ++ leBytes 8 o.len
  | .testRun o => leBytes 2 o.test ++ leBytes 2 o.tile ++ leBytes 4 o.addr ++ leBytes 8 o.host ++ leBytes 4 o.len

/-- The header's 16 bytes (Table 11-3). -/
def encodeHdr (h : Hdr) (opcode : Nat) : List Byte :=
  leBytes 1 opcode ++ leBytes 1 (b2n h.irq + 2 * b2n h.fence + 4 * b2n h.peg) ++ zeros 2 ++ leBytes 2 h.complPeg ++ zeros 2 ++
  leBytes 8 h.tag.toNat

/-- The 64 bytes of a descriptor, reserved bytes 0. -/
def encodeDesc (d : Desc) : List Byte :=
  let b := encodeHdr d.hdr (DescOpcode d.op) ++ encodeOp d.op
  b ++ zeros (64 - b.length)

/-- What host memory holds where a descriptor points. -/
def auxOf (o : DescOp) : List Byte :=
  match o with
  | .imageRead _ a | .seqStep _ a | .tailorStep _ a | .twinDma _ a => a
  | _ => []

/-- Rights of a function over the peg a descriptor names (R303, R304). -/
def pegOperand (s : State) (fn : Fn) (o : DescOp) : Option (Status × Nat) :=
  match o with
  | .pegWait o => if mayWait s fn o.peg then none else some (.pegRange, 0)
  | .pegSignal o => if inGrant s fn o.peg then (if o.op ≤ 1 then none else some (.badDescriptor, 18)) else some (.pegRange, 0)
  | _ => none

/-- Is a format code of Table 06-1 reserved? Codes 0 to 10 are named (R148). -/
def fmtReserved (c : Nat) : Bool := decide (10 < c)

/-- Bits of a sample of a tensor coding that Table 13-1 accepts: INT8, INT16, FP16, BF16, FP32. -/
def tensorCoding (fmt : Nat) : Bool := fmt == 1 || fmt == 2 || fmt == 5 || fmt == 6 || fmt == 7

/-- Do components suit a coding (Table 13-1)? -/
def compsOk (coding comps : Nat) : Bool :=
  match coding with
  | 1 => comps == 1 || comps == 3 || comps == 4
  | 2 | 3 => comps == 1
  | _ => decide (1 ≤ comps ∧ comps ≤ 4)

/-- Do bits per sample suit a coding (Table 13-1)? -/
def bitsOk (coding bits : Nat) : Bool :=
  match coding with
  | 0 => bits == 8 || bits == 16
  | 1 => bits == 8
  | 2 | 3 => bits == 1
  | 4 => bits == 1 || bits == 2 || bits == 4 || bits == 8 || bits == 16
  | _ => tensorCoding bits

/-- The first operand out of its range, as its offset (check 6 of Table 11-12). -/
def operandRange (s : State) (o : DescOp) : Option Nat :=
  match o with
  | .scanArm o => if o.track > 1 then some 16 else none
  | .scanDisarm t => if t > 1 then some 16 else none
  | .calRun o => if o.port > 3 then some 16
      else if o.len < 24 * (bitsOf (lpReg s (Fin.ofNat 4 o.port) 0) 13 0 + 1) then some 32 else none
  | .imageRead o _ => if o.cls > 3 then some 20 else if o.coding > 5 then some 22
      else if 1 ≤ o.comps ∧ o.comps ≤ 4 ∧ !compsOk o.coding o.comps then some 44
      else if !bitsOk o.coding o.bits then some 45
      else if o.pbLen ≠ 0 ∧ o.pbLen ≠ 64 then some 56 else none
  | .seqStep o _ => if o.cls > 3 then some 20 else none
  | .tailorStep o _ => if o.count = 0 ∨ o.count > 1024 then some 22 else if o.listLen < 96 * o.count then some 32
      else if !f32Normal o.step then some 36 else none
  | .wardrobePin o => if o.op > 2 then some 20 else none
  | .ptEdit o => if o.kind = 0 ∨ o.kind > 5 then some 24 else none
  | .windowOpen o =>
    if o.win > 63 then some 16 else if o.target > 1 then some 17
    else if o.base % 32 ≠ 0 then some 24 else if o.len % 32 ≠ 0 then some 32
    else if (if o.target = 0 then 24 * 2 ^ 30 else 2 ^ 29) < o.base + o.len then some 32 else none
  | .windowClose w => if w > 63 then some 16 else none
  | .twinDma o _ => if o.win > 63 then some 16 else if o.src > 2 then some 17 else if o.len % 32 ≠ 0 then some 40 else none
  | .testRun o => if o.test = 0 ∨ o.test > 7 then some 16 else if o.tile > 255 then some 18 else none
  | _ => none

/-- Is the opcode available at the bring-up stage (R449, Table 18-8)? -/
def stageAllows (s : State) (r : RingRef) (o : DescOp) : Bool :=
  decide (6 ≤ s.boot.stage) || (decide (3 ≤ s.boot.stage) && r.fn.val == 0 && earlyOpcode o)

/-- Is the opcode in Table 11-4? -/
def known (o : DescOp) : Bool := match o with
  | .unknown _ => false
  | _ => true

/-- Inside an open fold the opcode must be foldable; FOLD_CLOSE ends the fold (R309). -/
def foldOk (o : DescOp) : Bool := match o with
  | .foldClose _ => true
  | _ => foldable o

/-- The start checks of Table 11-12 in their order: the first that fails, with the detail of Table 11-7. -/
def startCheck (s : State) (r : RingRef) (d : Desc) : Option (Status × List Byte) :=
  if !known d.op then some (.badOpcode, [])
  else if pfOnly d.op && r.fn.val != 0 then some (.notPermitted, [])
  else if !stageAllows s r d.op then some (.badState, [])
  else if d.hdr.peg && !inGrant s r.fn d.hdr.complPeg then some (.pegRange, [])
  else if (s.ring r).fold.isSome && !foldOk d.op then some (.badState, [])
  else match pegOperand s r.fn d.op with
    | some (st, off) => some (st, if st = .badDescriptor then leBytes 1 off else [])
    | none => match operandRange s d.op with
      | some off => some (.badDescriptor, leBytes 1 off)
      | none => none

end Sys2Proof.Machine
end

