-- ==== Sys2Proof/Machine/Container.lean ====
section
/-! DEFINITION. Plan containers: the checks of step 1 of PLAN_LOAD (R224 to R226, R228, R499 to R501) and the checks of formats and shapes of step 3. -/

namespace Sys2Proof.Machine

open Sys2Proof

/-! ### Sections (R224, R225) -/

/-- A directory entry: type, offset and length in bytes. -/
structure Sect where
  ty : Nat
  off : Nat
  len : Nat
deriving DecidableEq, Repr, Inhabited

/-- The section directory. -/
def sections (b : List Byte) : List Sect :=
  (List.range (fieldAt b 16 2)).map fun i =>
    let o := 64 + 16 * i
    { ty := fieldAt b o 2, off := 32 * fieldAt b (o + 4) 4, len := 32 * fieldAt b (o + 8) 4 }

/-- The bytes of the first section of a type. -/
def sectBytes (b : List Byte) (ty : Nat) : Option (List Byte) := ((sections b).find? fun x => x.ty == ty).map fun x => slice b x.off x.len

/-- The header fields against the container's length and its directory (R224). -/
def headerOk (b : List Byte) (len : Nat) : Bool :=
  let n := fieldAt b 16 2
  decide (fieldAt b 8 8 = len ∧ len % 32 = 0 ∧ 1 ≤ n ∧ n ≤ 64 ∧ 64 + 16 * n ≤ len) && decide (1 ≤ fieldAt b 20 1 ∧ fieldAt b 20 1 ≤ 8) &&
  bitAt (fieldAt b 18 2) 1 == (sectBytes b 9).isSome

/-- Do all sections lie inside the container? -/
def boundsOk (b : List Byte) (len : Nat) : Bool := (sections b).all fun x => decide (x.off + x.len ≤ len)

/-- Types below 0x8000 that Table 09-2 does not list. -/
def unknownType (ty : Nat) : Bool := decide (ty < 0x8000) && !(decide (1 ≤ ty) && decide (ty ≤ 10))

/-- Is a required type missing, or a type below 0x8000 repeated (R225)? -/
def typesOk (b : List Byte) : Bool :=
  let ts := (sections b).map (·.ty)
  [1, 2, 3].all (fun t => ts.contains t) && (ts.filter fun t => decide (t < 0x8000)).Nodup

/-! ### Records -/

/-- Zero fill from an end mark on. -/
def zeroFill (b : List Byte) : Bool := b.all (· == 0)

/-- Fixed-size records up to an end mark; none when framing breaks. `mark` reads the field that is 0 at the end. -/
def fixedRecs (size : Nat) (mark : List Byte → Nat) : Nat → List Byte → Option (List (List Byte))
  | 0, _ => some []
  | f + 1, b =>
    if b.isEmpty then some []
    else if mark b = 0 then (if zeroFill b then some [] else none)
    else if b.length < size then none
    else (fixedRecs size mark f (b.drop size)).map (b.take size :: ·)

/-- Operator kinds of Table 09-3. -/
def operKinds : List Nat := [1, 2, 3, 4, 5, 6, 7, 8] ++ [0x10, 0x11, 0x12] ++ [0x18, 0x19, 0x1A, 0x1B, 0x1C, 0x1D] ++ [0x20]

/-- Parameters of a record of a kind (Table 09-15): for ATTN they follow from its query heads and bias-table count. -/
def paramCount (kind : Nat) (ps : List Nat) : Nat :=
  match kind with
  | 0x01 | 0x03 => 12
  | 0x02 => 11
  | 0x05 | 0x07 | 0x10 | 0x12 => 1
  | 0x06 => 8
  | 0x08 => 4
  | 0x11 => 11 + 10 * ps.getD 10 0 + ps.getD 0 0
  | 0x18 | 0x1A | 0x1C | 0x20 => 2
  | 0x19 => 3
  | _ => 0

/-- The 32-bit fields of a run of bytes. -/
def words32 (b : List Byte) (n : Nat) : List Nat := (List.range n).map fun i => fieldAt b (4 * i) 4

/-- Operator records up to their end mark (R226): the status when framing breaks or a kind is unknown. -/
def operRecs : Nat → List Byte → Except Status (List OperRec)
  | 0, _ => .ok []
  | f + 1, b =>
    if b.isEmpty then .ok []
    else if fieldAt b 0 2 = 0 then (if zeroFill b then .ok [] else .error .planCorrupt)
    else if !operKinds.contains (fieldAt b 0 2) then .error .planVersion
    else
      let len := fieldAt b 4 4
      let ni := fieldAt b 8 2
      let no := fieldAt b 10 2
      let ps := words32 (b.drop (16 + 4 * (ni + no))) (len / 4 - 4 - ni - no)
      if b.length < len ∨ len < 16 + 4 * (ni + no) ∨ len ≠ 16 + 4 * (ni + no + paramCount (fieldAt b 0 2) ps) then .error .planCorrupt
      else
        let ids := words32 (b.drop 16) (ni + no)
        match operRecs f (b.drop len) with
        | .error e => .error e
        | .ok rs => .ok ({ kind := fieldAt b 0 2, stage := fieldAt b 2 1, ins := ids.take ni, outs := ids.drop ni, params := ps } :: rs)

/-- A STAGES record (Table 09-2). -/
def parseStage (b : List Byte) : StageRec :=
  { kind := fieldAt b 0 1, seam := fieldAt b 1 1, first := fieldAt b 4 4, last := fieldAt b 8 4, input := fieldAt b 12 4 }

/-- A tensor declaration (Table 09-14). -/
def parseTensor (b : List Byte) : TensorRec :=
  { id := fieldAt b 0 4, kind := fieldAt b 4 1, fmt := fieldAt b 5 1, layout := fieldAt b 6 1, inf := bitAt (fieldAt b 7 1) 0,
    perChan := bitAt (fieldAt b 7 1) 1, rank := fieldAt b 8 1, off := fieldAt b 12 4, least := words32 (b.drop 16) 4, most := words32 (b.drop 32) 4,
    scale := BitVec.ofNat 32 (fieldAt b 48 4), zero := signExt (fieldAt b 52 4) 32, scaleOff := fieldAt b 56 4 }

/-- The highest minor version that ID_PLAN_FORMAT gives (Table 20-2). -/
def planMinor : Nat := 2

/-- The digest of a container (Table 09-1). -/
def containerDigest (b : List Byte) : List Byte := digest32 (b.take 32 ++ b.drop 64)

/-- Step 1 of Table 09-4 for one container, without what it carries as a companion: the records read, with the operator records of the section
VERDICT after those of OPERATORS. -/
def readContainer (b : List Byte) (len : Nat) : Except Status Container :=
  if b.length < 64 ∨ slice b 0 4 ≠ [0x59, 0x42, 0x58, 0x50] then .error .planCorrupt
  else if fieldAt b 4 2 ≠ 1 ∨ planMinor < fieldAt b 6 2 then .error .planVersion
  else if !headerOk b len || !boundsOk b len then .error .planCorrupt
  else if (sections b).any fun x => unknownType x.ty then .error .planVersion
  else if !typesOk b then .error .planCorrupt
  else
    let sec := fun (t : Nat) => (sectBytes b t).getD []
    match fixedRecs 16 (fun x => fieldAt x 0 1) (len / 16) (sec 1), fixedRecs 64 (fun x => fieldAt x 0 4) (len / 64) (sec 2),
          operRecs (len / 16) (sec 3), operRecs (len / 16) (sec 8) with
    | some st, some ts, .ok os, .ok vs =>
      if containerDigest b ≠ slice b 32 32 then .error .planCorrupt
      else
        let fl := fieldAt b 18 2
        .ok { feed := bitAt fl 0, zeroInit := bitAt fl 2, isComp := bitAt fl 3, concurrency := fieldAt b 20 1, digest := slice b 32 32,
              stages := st.map parseStage, tensors := ts.map parseTensor, opers := os ++ vs,
              targets := (sectBytes b 7).map fun x => words32 x 5, dict := (sectBytes b 6).bind Config.tablesDigest, weights := sec 4, scales := sec 5, tables := sec 6,
              comp := sectBytes b 9, strings := sec 10 }
    | none, _, _, _ | _, none, _, _ => .error .planCorrupt
    | _, _, .error e, _ | _, _, _, .error e => .error e

/-! ### Tensors (R148, R158, R161, R500) -/

def findTensor (c : Container) (id : Nat) : Option TensorRec := c.tensors.find? fun t => t.id == id

/-- A dimension's least value; 1 beyond the rank. -/
def TensorRec.lo (t : TensorRec) (i : Nat) : Nat := t.least.getD i 1
def TensorRec.hi (t : TensorRec) (i : Nat) : Nat := t.most.getD i 1

/-- Elements at the greatest shape. -/
def TensorRec.elems (t : TensorRec) : Nat := (List.range t.rank).foldl (fun n i => n * t.hi i) 1

/-- Channels: the last dimension of a feature map, dimension 0 of a weight (R500). -/
def TensorRec.channels (t : TensorRec) : Nat := if t.kind = 2 then t.hi 0 else t.hi (t.rank - 1)

/-- The scale and zero point of a channel (Table 09-14). -/
def TensorRec.pair (c : Container) (t : TensorRec) (ch : Nat) : Word32 × Int :=
  if t.perChan then
    let o := 32 * t.scale.toNat + 8 * ch
    (BitVec.ofNat 32 (fieldAt c.weights o 4), signExt (fieldAt c.weights (o + 4) 4) 32)
  else (t.scale, t.zero)

/-- Are the offset, scale, zero point and scale-stream fields 0 where Table 09-14 gives them no other value? -/
def tensorFieldsOk (t : TensorRec) : Bool :=
  (t.off == 0 || t.kind == 2 || t.kind == 3) && (decide (t.fmt ≤ 2) || (t.scale == 0 && t.zero == 0)) && (!t.perChan || t.zero == 0) &&
  (t.scaleOff == 0 || t.fmt == 8 || t.fmt == 9)

/-- Is a declaration within its ranges? -/
def tensorShapeOk (t : TensorRec) : Bool :=
  decide (t.kind ≤ 4 ∧ t.layout ≤ 3 ∧ 1 ≤ t.rank ∧ t.rank ≤ 4) && tensorFieldsOk t &&
  (List.range 4).all fun i => decide (1 ≤ t.lo i ∧ t.lo i ≤ t.hi i ∧ (i < t.rank ∨ (t.lo i = 1 ∧ t.hi i = 1)))

/-- Has a declaration a format that is allowed, with its mode and its scales? INT32 is for bias tensors and accumulator spills (Table 06-1): a weight or a
scratch tensor. -/
def tensorFormatOk (c : Container) (t : TensorRec) : Bool :=
  !fmtReserved t.fmt && (t.fmt != 10 || t.kind == 2 || t.kind == 4) && (!t.inf || t.fmt == 4 || t.fmt == 5) &&
  (!(decide (t.fmt ≤ 2)) || (if t.perChan then (List.range t.channels).all fun ch => f32Normal (t.pair c ch).1 else f32Normal t.scale))

/-- The first failure among the declarations. -/
def tensorsCheck (c : Container) : Option Status :=
  if !(c.tensors.map (·.id)).Nodup then some .planBadShape
  else c.tensors.findSome? fun t => if !tensorShapeOk t then some .planBadShape else if !tensorFormatOk c t then some .planBadFormat else none

/-! ### Operators (Table 09-15) -/

/-- Window parameters of a record; pooling has no groups. -/
def recWin (o : OperRec) : WinP :=
  let p := fun (i : Nat) => o.params.getD i 0
  { kh := p 0, kw := p 1, sh := p 2, sw := p 3, dh := p 4, dw := p 5, pt := p 6, pb := p 7, pl := p 8, pr := p 9, mode := p 10,
    groups := if o.kind = 1 then p 11 else 1 }

/-- The layout of a window operator's input (R170): C4, C16 or C32, C4 with at most 4 channels. -/
def layoutOk (t : TensorRec) : Bool := decide (1 ≤ t.layout ∧ t.layout ≤ 3) && (t.layout != 1 || decide (t.hi 2 ≤ 4))

/-- Map sizes and channel counts in range (Table 07-2). -/
def mapOk (t : TensorRec) : Bool := decide (t.rank = 3 ∧ t.hi 0 ≤ 65536 ∧ t.hi 1 ≤ 65536 ∧ t.hi 2 ≤ 16384)

/-- Is every output dimension at least 1 at the least shape (R175)? -/
def winFits (p : WinP) (t : TensorRec) : Bool :=
  decide (1 ≤ outDim (t.lo 0) p.pt p.pb p.kh p.sh p.dh) && decide (1 ≤ outDim (t.lo 1) p.pl p.pr p.kw p.sw p.dw)

/-- The kind of a record's stage, and its seam. -/
def recStage (c : Container) (o : OperRec) : StageRec := c.stages.getD o.stage default

/-- Does an output's declared height and width follow the output rule at the least and at the greatest shape of the input (R174)? -/
def winShapeOk (p : WinP) (i out : TensorRec) : Bool :=
  [(i.lo 0, i.lo 1, out.lo 0, out.lo 1), (i.hi 0, i.hi 1, out.hi 0, out.hi 1)].all fun e =>
    outDim e.1 p.pt p.pb p.kh p.sh p.dh == (e.2.2.1 : Int) && outDim e.2.1 p.pl p.pr p.kw p.sw p.dw == (e.2.2.2 : Int)

/-- Have two maps the same least and greatest values of a dimension? -/
def sameDim (a b : TensorRec) (k : Nat) : Bool := a.lo k == b.lo k && a.hi k == b.hi k

/-- The input of a window operator: its layout, its size and a format of Table 06-1 that is no spill (R148, R170). -/
def windowIn (i out : TensorRec) : Option Status :=
  if !layoutOk i || !mapOk i || !mapOk out then some .planBadShape else if i.fmt = 10 then some .planBadFormat else none

/-- The first failure of a window operator. -/
def windowCheck (c : Container) (o : OperRec) (i out : TensorRec) (w : Option TensorRec) : Option Status :=
  let p := recWin o
  if (windowIn i out).isSome then windowIn i out
  else if o.kind = 3 ∧ bitAt (o.params.getD 11 0) 1 then
    (if o.params.getD 11 0 < 4 ∧ (o.params.take 11).all (· == 0) ∧ out.hi 0 = 1 ∧ out.hi 1 = 1 ∧ sameDim i out 2 then none else some .planBadShape)
  else if !winOk p || !winFits p i || !winShapeOk p i out || (o.kind != 1 && !sameDim i out 2) then some .planBadShape
  else if (recStage c o).seam = 1 ∧ p.mode = 2 ∧ 0 < p.pb then some .planBadShape
  else if o.kind = 3 ∧ 3 < o.params.getD 11 0 then some .planBadShape
  else if o.kind = 1 then
    if p.groups = 0 ∨ 16384 < p.groups ∨ i.hi 2 % p.groups ≠ 0 ∨ out.hi 2 % p.groups ≠ 0 then some .planBadShape
    else match w with
      | some w => if w.hi 0 ≠ out.hi 2 then some .planBadShape else if (dotPair i.fmt w.fmt).isSome then none else some .planBadFormat
      | none => some .planBadShape
  else if out.fmt = 10 then some .planBadFormat else none

/-- One of the five formats of R195. -/
def attnFmt (f : Nat) : Bool := f == 1 || f == 3 || f == 4 || f == 5 || f == 6

/-- A head width of Table 08-1: steps of 32 from 32 for 8-bit formats, of 16 from 16 for 16-bit formats. -/
def headOk (fmt w : Nat) : Bool :=
  let st := if fmtBits fmt = 8 then 32 else 16
  decide (st ≤ w ∧ w ≤ 256 ∧ w % st = 0)

/-- A bias table of a record against its rule (Table 08-3). -/
def biasOk (c : Container) (g : List Nat) : Bool :=
  let f := fun (i : Nat) => g.getD i 0
  match findTensor c (f 1) with
  | none => false
  | some t =>
    let n := t.elems
    let rg := fun (m : Nat) => decide (1 ≤ f 4 ∧ f 4 ≤ 64 ∧ 1 ≤ f 5 ∧ f 5 ≤ 16 ∧ f 4 + 1 ≤ m ∧ m ≤ 2048)
    let unused := fun (ks : List Nat) => ks.all fun k => f k == 0
    decide (t.kind = 3 ∧ n ≤ 4096) && (match f 0 with
      | 0 => decide (f 2 ≤ 2047 ∧ 2 * f 2 + 1 ≤ n) && unused [3, 4, 5, 6, 7, 8, 9]
      | 1 => rg (f 6) && decide (2 * f 6 - 1 ≤ n) && unused [2, 3, 7, 8, 9]
      | 2 => unused [2, 6] && rg (f 7) && rg (f 8) && decide (f 3 ≤ 8 ∧ (2 * f 7 - 1) * (2 * f 8 - 1) ≤ n ∧ f 9 < n)
      | _ => false)

/-- Are the bias tables FP16? -/
def biasFmtOk (c : Container) (g : List Nat) : Bool := match findTensor c (g.getD 1 0) with
  | some t => t.fmt == 5
  | none => true

/-- The bias groups of an ATTN record. -/
def biasGroups (o : OperRec) : List (List Nat) := (List.range (o.params.getD 10 0)).map fun i => (o.params.drop (11 + 10 * i)).take 10

/-- Each query head names a table of its own head group, or none. -/
def headTablesOk (o : OperRec) : Bool :=
  let p := fun (i : Nat) => o.params.getD i 0
  let n := p 10
  let grp := p 0 / max 1 (p 1)
  (List.range (p 0)).all fun h =>
    let k := p (11 + 10 * n + h)
    k == 0xFFFFFFFF || decide (k < 8 ∧ 8 * (h / max 1 grp) + k < n)

/-- Bytes of one page of an ATTN's layer (Table 08-5). -/
def pageContent (o : OperRec) (fk fv : Nat) : Nat :=
  16 * o.params.getD 1 0 * (o.params.getD 2 0 * (fmtBits fk / 8) + o.params.getD 3 0 * (fmtBits fv / 8))

/-- Has a tensor the zero point 0, in every channel (R195)? -/
def zeroPointOk (c : Container) (t : TensorRec) : Bool := (List.range (if t.perChan then t.channels else 1)).all fun ch => (t.pair c ch).2 == 0

/-- The first failure of an ATTN: inputs are Q, K and V. -/
def attnCheck (s : State) (c : Container) (o : OperRec) (q k v : TensorRec) : Option Status :=
  let p := fun (i : Nat) => o.params.getD i 0
  if p 0 = 0 ∨ 128 < p 0 ∨ p 1 = 0 ∨ 32 < p 1 ∨ p 0 % p 1 ≠ 0 ∨ 16 < p 0 / p 1 then some .planBadShape
  else if 65536 < q.hi 0 ∨ p 4 = 0 ∨ 65536 < p 4 ∨ 1 < p 5 ∨ !f32Normal (BitVec.ofNat 32 (p 6)) ∨ 7 < p 7 ∨ 4 < p 8 then some .planBadShape
  else if p 5 = 1 ∧ 0 < p 8 then some .planBadShape
  else if !attnFmt q.fmt || !attnFmt k.fmt || !attnFmt v.fmt || (dotPair q.fmt k.fmt).isNone then some .planBadFormat
  else if q.fmt = 1 ∧ (!zeroPointOk c q || !zeroPointOk c k) then some .planBadFormat
  else if !headOk q.fmt (p 2) || !headOk v.fmt (p 3) then some .planBadShape
  else if p 10 > 8 * p 1 || !(biasGroups o).all (biasOk c) || !headTablesOk o then some .planBadShape
  else if !(biasGroups o).all (biasFmtOk c) then some .planBadFormat
  else if p 5 = 1 ∧ pageBytes s < pageContent o k.fmt v.fmt then some .planBadShape
  else none

/-- The first failure of a LUT's table: 4 KiB of 8-bit, 16-bit or 32-bit entries (R95). -/
def lutCheck (t : TensorRec) : Option Status :=
  if fmtBits t.fmt = 4 ∨ fmtIsMx t.fmt then some .planBadFormat
  else if t.kind ≠ 3 ∨ t.elems * fmtBits t.fmt ≠ 32768 then some .planBadShape else none

/-- The first failure of a geometric operator on a map, beside its parameters: channels are kept, and so is the size of a flip; a crop's is that of its
edges. -/
def geoCheck (o : OperRec) (i out : TensorRec) (ok : Bool) : Option Status :=
  let p := fun (k : Nat) => o.params.getD k 0
  if (windowIn i out).isSome then windowIn i out
  else if !ok || !sameDim i out 2 then some .planBadShape
  else if out.fmt = 10 then some .planBadFormat
  else if o.kind = 7 ∧ !(sameDim i out 0 && sameDim i out 1) then some .planBadShape
  else if o.kind = 8 ∧ !(out.hi 0 == p 3 - p 1 && out.hi 1 == p 2 - p 0) then some .planBadShape else none

/-- The first failure of an arg-max over channels (R181). -/
def argmaxCheck (i out : TensorRec) (vals : Option TensorRec) : Option Status :=
  if (windowIn i out).isSome then windowIn i out
  else if !sameDim i out 0 || !sameDim i out 1 || out.hi 2 != 1 then some .planBadShape
  else if ¬ (out.fmt = 2 ∨ (out.fmt = 1 ∧ i.hi 2 ≤ 128)) then some .planBadFormat
  else match vals with
    | some v => if v.fmt = i.fmt then none else some .planBadFormat
    | none => none

/-- Is the name of an EMIT an index into STRINGS or none (Table 09-15)? -/
def nameOk (c : Container) (n : Nat) : Bool := n == 0xFFFFFFFF || decide (n < c.strings.length ∧ n < 0xFFFF)

/-- The first failure of an operator's parameters and formats. -/
def operCheck (s : State) (c : Container) (o : OperRec) : Option Status :=
  let p := fun (i : Nat) => o.params.getD i 0
  let shape := fun (b : Bool) => if b then none else some Status.planBadShape
  let ins := o.ins.filterMap (findTensor c)
  let outs := o.outs.filterMap (findTensor c)
  if ins.length ≠ o.ins.length ∨ outs.length ≠ o.outs.length ∨ c.stages.length ≤ o.stage then some .planBadShape
  else match o.kind, ins, outs with
    | 0x01, i :: w :: _, out :: _ => windowCheck c o i out (some w)
    | 0x02, i :: _, out :: _ | 0x03, i :: _, out :: _ => windowCheck c o i out none
    | 0x04, i :: _, out :: rest => argmaxCheck i out rest.head?
    | 0x05, i :: _, out :: _ => geoCheck o i out (decide (p 0 ≤ 1))
    | 0x06, i :: _, out :: _ => geoCheck o i out (decide (p 6 ≤ 1))
    | 0x07, i :: _, out :: _ => geoCheck o i out (decide (p 0 ≤ 3))
    | 0x08, i :: _, out :: _ => geoCheck o i out (decide (p 0 < p 2 ∧ p 1 < p 3 ∧ p 2 ≤ i.hi 1 ∧ p 3 ≤ i.hi 0))
    | 0x10, a :: b :: _, _ :: _ => if 1 < p 0 then some .planBadShape else if (dotPair a.fmt b.fmt).isSome then none else some .planBadFormat
    | 0x11, q :: k :: v :: _, _ :: _ => attnCheck s c o q k v
    | 0x12, _ :: _, _ => shape (decide (p 0 < kvLayers c))
    | 0x18, _ :: _, _ :: _ => shape (decide (p 0 ≤ 12))
    | 0x19, _ :: _, _ :: _ => match findTensor c (p 2) with
      | some t => lutCheck t
      | none => some .planBadShape
    | 0x1A, i :: _, _ :: _ => shape (decide (p 0 ≤ 2 ∧ p 1 < i.rank))
    | 0x1B, _ :: _, _ :: _ => none
    | 0x1C, _ :: _, out :: _ => if 1 < p 0 ∨ 1 < p 1 then some .planBadShape else if out.fmt ≤ 2 then none else some .planBadFormat
    | 0x1D, i :: _, out :: _ => if (out.fmt = 8 ∨ out.fmt = 9) ∧ i.fmt = 7 then none else some .planBadFormat
    | 0x20, _, _ => shape (decide (p 0 ≤ 4) && nameOk c (p 1))
    | _, _, _ => some .planBadShape

/-- TARGETS (R499): the maxima that the stages need. -/
def targetsOk (c : Container) : Bool :=
  (!hasStage c 2 || (decide (1 ≤ target c 2) && decide (target c 2 ≤ 32768))) &&
  (!hasStage c 3 || (decide (1 ≤ target c 3 ∧ target c 3 ≤ lseq c) && decide (1 ≤ target c 4 ∧ target c 4 ≤ lseq c)))

/-- Step 3's checks of one container, without the pages of its batch. -/
def shapesCheck (s : State) (fn : Fn) (c : Container) (low : Lowering) : Option Status :=
  if c.feed && (!hasStage c 1 || !hasStage c 2) then some .planBadShape
  else if c.zeroInit && !scrubRelease s fn.val then some .planBadShape
  else if !(c.stages.all fun st => decide (st.kind ≤ 7 ∧ st.seam ≤ 1)) || !targetsOk c then some .planBadShape
  else match tensorsCheck c with
    | some st => some st
    | none => match c.opers.findSome? (operCheck s c) with
      | some st => some st
      | none =>
        if (match c.dict with | some d => !s.dict.loaded || d != s.dict.digest | none => false) then some .planBadFormat
        else if 8 * 1048576 < low.maxRecord then some .planBadShape else none

end Sys2Proof.Machine
end

