-- ==== Sys2Proof/Machine/Stripes.lean ====
section
/-! DEFINITION. Stripes of a stage (R184 to R188): seams, hems, their landing areas, and the seam reach of the reading horizon (R247). -/

namespace Sys2Proof.Machine

open Sys2Proof

/-- Channels in a block of a layout (R170); 0 for a tensor that is no map. -/
def blockWidth (layout : Nat) : Nat := match layout with | 1 => 4 | 2 => 16 | 3 => 32 | _ => 0

/-- Bytes of one row of a map at its greatest width: each block's view row takes whole words (R119, R170). -/
def rowBytes (t : TensorRec) : Nat :=
  let n := blockWidth t.layout
  if n = 0 then ceilDiv (t.hi 1 * t.hi 2 * fmtBits t.fmt) 8 else blockCount n (t.hi 2) * (32 * ceilDiv (t.hi 1 * blockBytes n t.fmt) 32)

/-- Bytes of a tensor at its greatest shape. -/
def mapBytes (t : TensorRec) : Nat := if t.rank = 3 then t.hi 0 * rowBytes t else ceilDiv (t.elems * fmtBits t.fmt) 8

/-- The operators of a stage with their index in the plan. -/
def stageOpers (c : Container) (k : Nat) : List (Nat × OperRec) := c.opers.zipIdx.filterMap fun e => if e.1.stage = k then some (e.2, e.1) else none

/-- The window that an operator slides down its input; none for one that keeps its input's rows, and for a global pooling. -/
def slideWin (o : OperRec) : Option WinP :=
  if o.kind = 1 ∨ o.kind = 2 ∨ (o.kind = 3 ∧ ¬ bitAt (o.params.getD 11 0) 1) then some (recWin o) else none

/-- The seam of one operator of a striped stage: its index, the tensor that its input is, the seam of its output, the rows that a stripe takes from the stripe
above and from the stripe below, and the combined stride of its input and of its output. -/
structure Seam where
  op : Nat
  input : Nat
  row : Int
  above : Nat
  below : Nat
  strideIn : Nat
  stride : Nat
deriving DecidableEq, Repr, Inhabited

/-- One operator: the seams and strides of the tensors so far give those of its outputs (R186, R187). An operator of several inputs takes the earliest of their
seams (log 72). -/
def seamStep (skewed : Bool) (st : List (Nat × Int × Nat) × List Seam) (e : Nat × OperRec) : List (Nat × Int × Nat) × List Seam :=
  let ins := e.2.ins.filterMap fun i => smFind st.1 i
  match ins with
  | [] => st
  | (y0, k) :: rest =>
    let y := rest.foldl (fun m x => min m x.1) y0
    let top := rest.foldl (fun m x => max m x.1) y0
    let m : Seam := match slideWin e.2 with
      | some p =>
        let out := if skewed then skewSeam p y else y.fdiv p.sh
        { op := e.1, input := e.2.ins.headD 0, row := out, above := if skewed then (top - out * p.sh + p.pt).toNat else (levelHem p).1,
          below := if skewed then 0 else (levelHem p).2, strideIn := k, stride := k * p.sh }
      | none => { op := e.1, input := e.2.ins.headD 0, row := y, above := (top - y).toNat, below := 0, strideIn := k, stride := k }
    (e.2.outs.foldl (fun l i => smInsert l i (m.row, m.stride)) st.1, st.2 ++ [m])

/-- The seams of a stage whose input is cut at row `y`. -/
def stageSeams (c : Container) (k : Nat) (y : Nat) : List Seam :=
  let sr := c.stages.getD k default
  ((stageOpers c k).foldl (seamStep (sr.seam == 1)) ([(sr.input, (y : Int), 1)], [])).2

/-- The combined stride of a stage. -/
def combinedStride (c : Container) (k : Nat) : Nat := maxNat (1 :: (stageSeams c k 0).map (·.stride))

/-- The FIND stage's place among the stages. -/
def findStage (c : Container) : Option Nat := (List.range c.stages.length).find? fun k => (c.stages.getD k default).kind == 1

/-- The stage that the loader cuts into stripes: FIND, or the first stage of a plan without one. -/
def stripeStage (c : Container) : Nat := (findStage c).getD 0

/-- The seam between the first two stripes of a lowering. -/
def lowSeams (c : Container) (low : Lowering) : List Seam := stageSeams c (stripeStage c) low.stripeH

/-- Landing areas that a consumer stripe needs: operator, whether the hem comes from below, and bytes (R191). -/
def hemAreas (c : Container) (low : Lowering) : List (Nat × Bool × Nat) :=
  if low.stripeH = 0 then []
  else (lowSeams c low).flatMap fun m =>
    let n := match findTensor c m.input with | some t => rowBytes t | none => 0
    (if m.above = 0 then [] else [(m.op, false, m.above * n)]) ++ (if m.below = 0 then [] else [(m.op, true, m.below * n)])

/-- Bytes of a landing area. -/
def landSize (c : Container) (low : Lowering) (op : Nat) (up : Bool) : Nat :=
  match (hemAreas c low).find? fun e => e.1 == op && e.2.1 == up with
  | some e => e.2.2
  | none => 0

/-- The landing area of a hem in a stripe's scratch. -/
def landArea (low : Lowering) (op : Nat) (up : Bool) : Option LandP := low.lands.find? fun l => l.op == op && l.up == up

/-- The seam reach r in input lines (R247): with SKEWED seams the total rise times the combined stride, with LEVEL seams the rows taken from below times the
stride of the maps that they are rows of; 0 for whole maps. -/
def seamReach (c : Container) (low : Lowering) : Nat :=
  if low.stripeH = 0 then 0
  else
    let ms := lowSeams c low
    if (c.stages.getD (stripeStage c) default).seam = 1 then
      maxNat (ms.map fun m => ((low.stripeH : Int) - m.row * m.stride).toNat)
    else sumNat (ms.map fun m => m.below * m.strideIn)

/-- Does every layer of the stage, with its input, its output and its weights, fit in the scratch of one placement (R184)? -/
def fitsWhole (c : Container) (low : Lowering) : Bool :=
  (stageOpers c (stripeStage c)).all fun e =>
    decide (sumNat (((e.2.ins ++ e.2.outs).filterMap (findTensor c)).map mapBytes) ≤ low.placement.length * low.scratchRows * 1024)

/-- Is a byte range of a tile inside the scratch of a placement? -/
def inScratch (low : Lowering) (a n : Nat) : Bool :=
  low.placement.any (fun p => 8 * p.1 + p.2 == tsTile a) && decide (a % 2 ^ 21 + n ≤ low.scratchRows * 1024)

/-- Do two byte ranges keep apart? -/
def apart (a n b m : Nat) : Bool := decide (a + n ≤ b ∨ b + m ≤ a)

/-- Is there one landing area for every hem, of its size, inside the scratch and clear of the others (R191, R192)? -/
def landsOk (c : Container) (low : Lowering) : Bool :=
  let xs := low.lands.map fun l => (l.addr, landSize c low l.op l.up)
  (low.lands.map fun l => (l.op, l.up)).Nodup && (hemAreas c low).all (fun e => (landArea low e.1 e.2.1).isSome) && xs.all (fun x => inScratch low x.1 x.2) &&
  xs.zipIdx.all fun x => (xs.take x.2).all fun y => apart x.1.1 x.1.2 y.1 y.2

/-- Rows of a stripe of a layer whose input has a combined stride. -/
def stripeRows (low : Lowering) (stride : Nat) : Nat := low.stripeH / max 1 stride

/-- The cut of the striped stage: maps are whole when every layer fits; otherwise the stripe height is a multiple of the combined stride and of the band
height, with at least 16 rows of every layer and at least the largest hem taken from it (R184, R186, R188, R247). -/
def stripesOk (c : Container) (low : Lowering) : Bool :=
  if low.stripeH = 0 then fitsWhole c low && low.lands.isEmpty
  else
    let ms := lowSeams c low
    !fitsWhole c low && low.bandH != 0 && low.stripeH % low.bandH == 0 && low.stripeH % combinedStride c (stripeStage c) == 0 &&
    ms.all (fun m => decide (16 ≤ stripeRows low m.strideIn ∧ 16 ≤ stripeRows low m.stride ∧ m.above ≤ stripeRows low m.strideIn ∧ m.below ≤ stripeRows low m.strideIn)) &&
    landsOk c low

/-- Bytes of the landing areas of a stripe. -/
def landBytes (c : Container) (low : Lowering) : Nat := sumNat ((hemAreas c low).map fun e => e.2.2)

/-- Bytes of the probabilities that ATTNs in STORE mode keep: rows × keys × heads × 2 (R205). -/
def storeBytes (c : Container) : Nat :=
  sumNat (c.opers.map fun o => if o.kind = 0x11 ∧ o.params.getD 8 0 = 1 then
    (match o.ins.filterMap (findTensor c) with
      | q :: _ => q.hi 0 * o.params.getD 4 0 * o.params.getD 0 0 * 2
      | [] => 0) else 0)

end Sys2Proof.Machine
end

