-- ==== Sys2Proof/Machine/Lanes.lean ====
section
/-! DEFINITION. The stripes of running jobs: press output in their scratch (R172), router transfers and far reads (R114, R191), what a next segment waits
for (R102, R107, R188, R189, R192), the start of segments, placements (R190), and the scheduler's turn at a boundary (R257). -/

namespace Sys2Proof.Machine

open Sys2Proof

/-! ### Places through a stripe's pair -/

/-- Where a context-relative place lies; none where a check of Table 05-7 fails. -/
def lanePhys (c : CtxPairs) (set : TileSet) (write : Bool) (x : RelPlace) : Option Nat := if (x.check c set write).isNone then some (x.phys c) else none

/-- The addresses of the words of a byte range. -/
def wordsOf (a n : Nat) : List Nat := (List.range (ceilDiv (a % 32 + n) 32)).map fun i => if i = 0 then a else 32 * (a / 32 + i)

/-- The first check that a range of a stripe's scratch fails, with the relative address. -/
def rangeCheck (c : CtxPairs) (set : TileSet) (write : Bool) (a n : Nat) : Option (Status × Nat) :=
  (wordsOf a n).findSome? fun x => ((placeOf x).check c set write).map fun st => (st, x)

/-- The first uncorrectable word of a range of a stripe's scratch, by relative address. -/
def rangeBad (s : State) (c : CtxPairs) (set : TileSet) (write : Bool) (a n : Nat) : Option Nat :=
  (wordsOf a n).find? fun x => match lanePhys c set write (placeOf x) with
    | some p => markOf s p == 2
    | none => false

/-- Uncorrectable words found by a read or a partial write are logged with their physical addresses and the cycle (R134). -/
def logWords (s : State) (fn : Option Nat) (as : List Nat) : State :=
  as.foldl (fun s a => logHealth s { HealthEntry.of 2 (s.now % 2 ^ 32) with
    status := some .tsUncorrectable, fn := fn, tile := some (tsTile a), region := some (tsTile a / 32), unit := some (tsBank a), addr := a }) s

/-- An error of a job's router transfer: the job completes with it at its next boundary; the first one counts (log 72). -/
def setFault (s : State) (job : Nat) (st : Status) (rel op : Nat) : State :=
  modJob s job fun j => { j with fault := j.fault.or (some (st, leBytes 4 rel ++ leBytes 4 op)) }

/-! ### Press output (R172, R188) -/

/-- The port of a side of a track. -/
def portOfSide (s : State) (t : Track) (sd : Side) : Option Port := ((s.track t).sides.find? fun x => x.1 == sd).map (·.2)

/-- Piece lines of a side that are in the tile store, from line 0 on. -/
def linesIn (x : PieceSide) : Nat := match x.lines.getLast? with
  | some l => l.1 + 1
  | none => 0

/-- The rows of a side that press has emitted: how many, and each of them. -/
def pressed (s : State) (t : Track) (n : Nat) (sd : Side) : Nat × (Nat → List (List Nat)) :=
  match findPiece s t n, portOfSide s t sd with
  | some pc, some p => match (pc.side sd).skew with
    | some k =>
      let cfg := (s.lp p).cfg
      let px := Config.pitchX p.val * ((cfg.xavg : Nat) : Rat)
      let py := Config.pitchY p.val
      (rowsReady cfg k px py pc.T pc.lastPaper (linesIn (pc.side sd)), pressRow cfg k px py (pc.T.getD pc.lastPaper) (pc.side sd).lines)
    | none => (0, fun _ => [])
  | _, _ => (0, fun _ => [])

/-- Bytes of the images that the module has written for a piece's post when the first `d` of raw, JPEG and T.6 are dropped: the rows of its raw images that
press has emitted, and its finished images (R336). -/
def builtBytes (s : State) (t : Track) (y : Piece) (d : Nat) : Nat :=
  let rows := fun (x : Side × Port) =>
    if bitAt (s.lp x.2).cfg.imgOut 0 && d == 0 && !(y.side x.1).pressed then
      rawStride (sideRec s x.2 y x.1 (y.T.getD y.lastPaper)).wPx (if (s.lp x.2).cfg.depth16 then 16 else 8) * (pressed s t y.num x.1).1
    else 0
  sumNat ((s.track t).sides.map rows) + sumNat ((y.images.filter fun i => !i.dropped && decide (d ≤ i.kind)).map fun i => align32 i.len)

/-- A piece's post takes basket space as its images are written. Where it obtains none, images are dropped, raw first, then JPEG, then T.6 (R336). -/
def buildPiece (s : State) (t : Track) (n : Nat) : State :=
  match findPiece s t n with
  | none => s
  | some y =>
    if !y.live || (s.track t).firstLight then s
    else
      let d := (([0, 1, 2, 3] : List Nat).find? fun d => decide (y.drops ≤ d) && feedSpace s (pieceKey n) (builtBytes s t y d)).getD 3
      let s := modPiece s t n fun y => { y with drops := d, images := mapWhere (fun i => decide (i.kind < d)) dropImage y.images }
      setBuilding s (pieceKey n) (builtBytes s t y d)

/-- The input rows of a job, and whether they are of 16 bits: those that press has emitted for a side (R172), those of an IMAGE_READ's converted image
(R340). -/
def jobRows (s : State) (j : Job) : (Nat × (Nat → List (List Nat))) × Bool := match j.kind with
  | .side t n sd => (pressed s t n sd, match portOfSide s t sd with
    | some p => (s.lp p).cfg.depth16
    | none => false)
  | .image o _ => ((j.pixels.length, fun i => j.pixels.getD i []), convBytes o.coding o.bits == 2)
  | _ => ((0, fun _ => []), false)

/-- A row of samples as a row of the C4 input tensor of find: red, green and blue as code sample − 128 or − 32,768, and the code of real 0 in channel 3 (R172). -/
def inputRow (depth16 : Bool) (row : List (List Nat)) : List Byte :=
  let z : Nat := if depth16 then 32768 else 128
  let n := if depth16 then 2 else 1
  let code := fun (v : Nat) => leBytes n (toBits ((v : Int) - z) (8 * n))
  row.flatMap fun px => (List.range 3).flatMap (fun i => code (px.getD i 0)) ++ code 0

/-- Write one row of a stripe's input to its place in the scratch, word by word in the input's view (R119, R170). -/
def feedRow (c : CtxPairs) (set : TileSet) (iv : InViewP) (s : State) (i : Nat) (bs : List Byte) : State :=
  let w := ceilDiv bs.length 32
  (List.range w).foldl (fun s k =>
    let e := viewElem iv.base w (i % max 1 iv.lines) k
    match lanePhys c set true { weights := false, tile := iv.tiles.getD (i / max 1 iv.lines) 0, row := e.2, bank := e.1, byteOff := 0 } with
    | some a => (writeWord s a (slice bs (32 * k) 32)).2
    | none => s) s

/-- The input rows of one stripe, counted from the job's first: how many there are now. -/
def stripeHas (p : PlanRec) (j : Job) (k rows : Nat) : Nat :=
  let have' := rows - j.top - k * p.low.stripeH
  if p.low.stripeH = 0 then have' else min have' p.low.stripeH

/-- A job's input rows go to the scratch of the stripe that they belong to, once it has a placement. -/
def feedLane (p : PlanRec) (j : Job) (s : State) (l : Lane) : State :=
  match pairsOf s j.id l.stripe with
  | some c =>
    if l.state ≠ .wait ∧ l.state ≠ .run then s
    else
      let r := jobRows s j
      let m := stripeHas p j l.stripe r.1.1
      if m ≤ l.lines then s
      else
        let s := ((List.range m).drop l.lines).foldl
          (fun s i => feedRow c l.tiles p.low.input s i (inputRow r.2 (r.1.2 (j.top + l.stripe * p.low.stripeH + i)))) s
        modLane s j.id l.stripe fun x => { x with lines := m }
  | none => s

/-- Press hands the sides of running jobs on, and staging the images. -/
def feedLanes (s : State) : State :=
  (s.sched.jobs.filter fun j => j.state == .running).foldl (fun s j => match jobPlan s j with
    | some p => j.lanes.foldl (feedLane p j) s
    | none => s) s

/-! ### Transfers (R114, R191) -/

/-- The internal peg of a transfer (log 15). -/
def hemPeg (id : Nat) : Nat := 7 + id % 505

/-- The stripe of a job with its pairs, when it has a placement. -/
def placedLane (s : State) (job k : Nat) : Option (Lane × CtxPairs) :=
  match (findJob s job).bind fun j => j.lane k, pairsOf s job k with
  | some l, some c => if l.tiles.isEmpty then none else some (l, c)
  | _, _ => none

def modTransfer (s : State) (x : Transfer) (f : Transfer → Transfer) : State :=
  { s with transfers := mapWhere (fun y => y.id == x.id && y.hem == x.hem && y.job == x.job) f s.transfers }

/-- The function of a job, as log entries name it. -/
def jobFn (s : State) (job : Nat) : Option Nat := (findJob s job).map fun j => j.fn.val

/-- The operation that a transfer's errors name: that of its hem, none for a far read. -/
def Transfer.op (x : Transfer) : Nat := if x.hem then x.key.1 else 0xFFFFFFFF

/-- A transfer starts: it reads its rows through the producer's pair, each word through the corrector (R133, R134, R138). -/
def takeTransfer (s : State) (x : Transfer) : State :=
  match placedLane s x.job x.src with
  | none => s
  | some (l, c) =>
    let bad := rangeBad s c l.tiles false x.addr x.len
    let r := readVia (fun a => lanePhys c l.tiles false (placeOf a)) s x.addr x.len (x.len + 1)
    let s := modTransfer (logWords r.2.2 (jobFn s x.job) r.2.1) x fun y => { y with bytes := some r.1 }
    let s := match lanePhys c l.tiles false (placeOf x.addr) with
      | some a => s.countN famTile (tsTile a) 8 x.len
      | none => s
    match rangeCheck c l.tiles false x.addr x.len, bad with
    | some e, _ => setFault s x.job e.1 e.2 x.op
    | none, some a => setFault s x.job .tsUncorrectable a x.op
    | none, none => s

/-- The transfers that wait for the placement of a stripe start (R191). -/
def takeWaiting (s : State) (job k : Nat) : State := (s.transfers.filter fun x => x.job == job && x.stripe == k && x.bytes.isNone).foldl takeTransfer s

/-- A transfer that a stripe's segment has started. A hem goes to the neighbouring stripe's landing area, and waits while that stripe has no placement; a far
read brings words of another stripe to its own. -/
def sendMove (j : Job) (p : PlanRec) (k : Nat) (s : State) (m : MoveP) : State :=
  match m.kind with
  | .hem op up => match landArea p.low op up with
    | none => s
    | some a =>
      let dest := if up then k - 1 else k + 1
      let x : Transfer := { id := m.id, hem := true, job := j.id, src := k, addr := m.src, len := m.len, stripe := dest, dst := a.addr + m.dst,
                            key := (op, b2n up), bytes := none }
      let s := { s with transfers := s.transfers ++ [x] }
      if (placedLane s j.id dest).isSome then takeTransfer s x else s
  | .far q =>
    let x : Transfer := { id := m.id, hem := false, job := j.id, src := q, addr := m.src, len := m.len, stripe := k, dst := m.dst, key := (m.id, 2),
                          bytes := none }
    let s := match j.lane k with
      | some l => s.countN famRegion l.region 14 1
      | none => s
    takeTransfer { s with transfers := s.transfers ++ [x] } x

/-- One more arrival for a stripe's gate. -/
def noteArrival (s : State) (job k : Nat) (key : Nat × Nat) : State :=
  modJob s job fun j => { j with arrived := match j.arrived.find? fun e => e.1 == (k, key.1, key.2) with
    | some _ => mapWhere (fun e => e.1 == (k, key.1, key.2)) (fun e => (e.1, e.2 + 1)) j.arrived
    | none => j.arrived ++ [((k, key.1, key.2), 1)] }

/-- A transfer lands: its bytes are written through the consumer's pair (R135, R138), and after the last word its peg is signalled. -/
def landTransfer (s : State) (x : Transfer) : State :=
  match x.bytes, placedLane s x.job x.stripe with
  | some bs, some (l, c) =>
    let check := rangeCheck c l.tiles true x.dst bs.length
    let bad := rangeBad s c l.tiles true x.dst bs.length
    let r := writeVia (fun a => lanePhys c l.tiles true (placeOf a)) s x.dst bs (bs.length + 1)
    let s := logWords r.2 (jobFn s x.job) r.1
    let s := match lanePhys c l.tiles true (placeOf x.dst) with
      | some a => s.countN famTile (tsTile a) 7 bs.length
      | none => s
    let s := match check, r.1 with
      | some e, _ => setFault s x.job e.1 e.2 x.op
      | none, _ :: _ => setFault s x.job .tsUncorrectable (bad.getD x.dst) x.op
      | none, [] => s
    let s := noteArrival { s with transfers := s.transfers.filter fun y => !(y.id == x.id && y.hem == x.hem && y.job == x.job) } x.job x.stripe x.key
    pegArbitrate s [] [(hemPeg x.id, 1)]
  | _, _ => s

/-! ### What a segment waits for -/

/-- Is a side's job on a plan that its piece no longer runs on (R252)? -/
def outOfPlan (s : State) (j : Job) : Option (Track × Nat × Side) :=
  match j.kind with
  | .side t n sd => match (findPiece s t n).bind (piecePlan s t) with
    | some p => if p.handle = j.plan then none else some (t, n, sd)
    | none => none
  | _ => none

/-- Are the input lines there that a stripe's next segment needs, and for the band with the map's last row, is T found and the last line pressed (R188,
R189)? -/
def linesThere (s : State) (j : Job) (g : GateP) : Bool := match j.kind with
  | .side t n sd => match findPiece s t n with
    | some pc => (pc.side sd).pressed || (!g.lastRow && decide (j.top + g.lines ≤ (pressed s t n sd).1))
    | none => false
  | _ => true

/-- Arrivals of a stripe under a key. -/
def Job.arrivals (j : Job) (k : Nat) (a b : Nat) : Nat := ((j.arrived.find? fun e => e.1 == (k, a, b)).map (·.2)).getD 0

/-- May a stripe's next segment start: its program is there, its inputs and hems are, no tile waits for rows of a spare, and its piece is still on its
plan? -/
def gateOpen (s : State) (j : Job) (l : Lane) : Bool :=
  !l.fetch && linesThere s j l.gate && (l.gate.pegs.all fun e => decide (e.2.2 ≤ j.arrivals l.stripe e.1 e.2.1)) && (l.tiles.all fun t => !(s.tile t).reload) &&
  (outOfPlan s j).isNone

/-! ### The start of a segment -/

/-- A shifted stripe's next programs are copied from the tiles that they were emitted for, through slot 12 (R238). -/
def copyPrograms (s : State) (p : PlanRec) (l : Lane) : State :=
  if !l.shifted then s
  else (p.low.programs.filter fun g => g.seg == l.prog).foldl (fun s g =>
    match (l.placement.zip l.tiles).find? fun e => 8 * e.1.1 + e.1.2 == g.tile with
    | some e =>
      let r := readBytes s (tsAddr (l.region * 32 + g.tile) g.row 0 0) g.bytes.length
      (writeBytes (logWords r.2.2 none r.2.1) (tsAddr e.2 g.row 0 0) r.1).2
    | none => s) s

/-- A stripe's next segment starts: it is counted, its programs are copied where the placement is shifted, and for a step that begins an ATTN or KV_SCATTER
the walker takes the version in force (R216). -/
def startLane (s : State) (j : Job) (l : Lane) : State :=
  let s := s.countN famRegion l.region (8 + j.cls % 4) 1
  let s := match jobPlan s j with
    | some p => copyPrograms s p l
    | none => s
  let s := if j.kind = .step ∧ l.cmd then startWalk s j.plan else s
  let band := match jobPlan s j with | some p => p.low.bandH | none => 0
  modJob s j.id fun x => { x.setLane l.stripe fun y => { y with state := .run, cmd := false } with
    begun := max x.begun (x.top + l.gate.lines / max 1 band * band) }

/-- Does a region drain? -/
def draining (s : State) (g : Nat) : Bool := (s.reg8 (Fin.ofNat 8 g)).state == 1

/-- A stripe at its boundary: a save for a victim or in a region that drains, or its next segment when that may start; no segment starts under a DEVICE
error (R423). -/
def goLane (job : Nat) (s : State) (k : Nat) : State :=
  match findJob s job with
  | none => s
  | some j => match j.lane k with
    | none => s
    | some l =>
      if l.state ≠ .wait ∨ j.state ≠ .running ∨ s.pwr.device then s
      else if j.victim || draining s l.region then modLane s j.id k fun x => { x with state := .saving }
      else if gateOpen s j l then startLane s j l else s

/-- The stripes of one job; an error of a transfer ends the job where one of its stripes is at a boundary. Stripes that have ended and whose rows no
transfer needs give up their tiles (R191). -/
def goJob (s : State) (job : Nat) : State :=
  match findJob s job with
  | none => s
  | some j =>
    if j.state ≠ .running then s
    else match j.fault, j.lanes.any fun l => l.state == .wait with
      | some f, true => failJob s j f.1 f.2
      | _, _ =>
        let s := (j.lanes.filter fun l => l.state == .ended && !l.tiles.isEmpty && !(s.transfers.any fun x => x.job == job && x.src == l.stripe)).foldl (freeLane j) s
        (j.lanes.map (·.stripe)).foldl (goLane job) s

/-- Every stripe at a boundary goes on. -/
def goLanes (s : State) : State :=
  let s := feedLanes s
  (s.sched.jobs.map (·.id)).foldl goJob s

/-! ### Placements of further stripes (R190, R193) -/

/-- A stripe without tiles takes a placement: the next stripe of its job, or one saved from a region that drained; a damaged save ends the job in place of its
restore (Table 17-3). -/
def placeLane (s : State) (j : Job) (l : Lane) : Option State :=
  match j.ctx, findPlace (tileOpen s) l.placement with
  | some c, some x =>
    some (if l.state = .saved ∧ j.damaged then failJob s j .tsUncorrectable [] else takeWaiting (takePlace j c s (l, x)) j.id l.stripe)
  | _, _ => none

/-- The stripe of a running job that wants tiles first: stripes start in order. -/
def Job.wants (j : Job) : Option Lane := j.lanes.find? fun l => l.state == .saved || l.state == .want

/-- Jobs whose next stripe waits for tiles take them, in the order of R257. -/
def placeLanes (s : State) : State :=
  if s.pwr.device then s
  else (sortBy (fun a b => lexLe (candKey s a) (candKey s b)) (s.sched.jobs.filter fun j => j.state == .running && !j.victim)).foldl
    (fun s j => match j.wants with
      | some l => (placeLane s j l).getD s
      | none => s) s

/-- The scheduler's turn: placements of stripes, starts and restores of jobs, then the next segments. -/
def schedule (s : State) : State := goLanes (runSched (placeLanes s))

end Sys2Proof.Machine
end

