-- ==== Sys2Proof/Machine/TwinLink.lean ====
section
/-! DEFINITION. Sending on the twin link: frames (Table 15-1), what SYNC, HEARTBEAT, HEALTH and WINDOW_STATE carry (Tables 15-2 and 15-3,
R383). The layout of a SYNC payload is the model's own (log 25). -/

namespace Sys2Proof.Machine

open Sys2Proof

/-- Does this module drive its feed outputs (Table 15-5)? -/
def drivesFeed (s : State) : Bool := match s.twin.state with
  | .solo | .active | .takingOver => !s.twin.fenced
  | .standby | .fenced => false

def isStandby (s : State) : Bool := s.twin.state == .standby

/-- A link frame (Table 15-1). -/
def twinFrame (ty flags : Nat) (seq : Half) (win xfer off : Nat) (payload : List Byte) : List Byte :=
  let b := leBytes 1 ty ++ leBytes 1 flags ++ leBytes 2 seq.toNat ++ leBytes 2 payload.length ++ leBytes 1 win ++ leBytes 1 xfer ++
    leBytes 8 off ++ payload
  b ++ leBytes 4 (crc32 b).toNat

/-- Send a frame: it takes the next sequence number and is kept until acknowledged, the last 64 of them (R379). -/
def sendFrame (s : State) (ty flags win xfer off : Nat) (payload : List Byte) : State :=
  if !s.twin.linkUp then s
  else
    let q := s.twin.txSeq
    let b := twinFrame ty flags q win xfer off payload
    let u := s.twin.unacked ++ [(q, b)]
    (({ s with twin := { s.twin with txSeq := q + 1, unacked := u.drop (u.length - 64) } }).emit (.twinFrame b)).chipCnt 44

/-- ACK and NAK take no sequence number (Table 15-1); bytes 8 and 9 carry the number acknowledged. -/
def sendAck (s : State) (nak : Bool) (q : Half) : State :=
  if !s.twin.linkUp then s
  else
    let s := (s.emit (.twinFrame (twinFrame (if nak then 0x21 else 0x20) 0 0 0 0 q.toNat []))).chipCnt 44
    if nak then s.chipCnt 46 else s

/-- Trigger count of a track: its front port's. -/
def trackTrigs (s : State) (t : Track) : Nat := (s.lp (s.frontPort t)).trigCount

/-- What SYNC carries for a track (R383). -/
def syncTrack (s : State) (t : Track) : SyncTrack :=
  let x := s.track t
  { divN := x.divN, divF := x.divF, phase := x.phase, highMark := x.highMark, trig := trackTrigs s t, position := x.position, edges := x.edges }

/-- What SYNC carries. -/
def syncOf (s : State) : SyncP :=
  { a := syncTrack s .A, b := syncTrack s .B, nextPiece := s.nextPiece,
    coefs := allPorts.filterMap fun p => if (s.lp p).armed then (s.lp p).inUse.map fun k => (p.val, k) else none }

def coefWords (k : List Coef) : List Byte :=
  k.flatMap fun c => leBytes 4 (c.offset + b2n c.dead * 2 ^ 12 + b2n c.kept * 2 ^ 13 + c.gain * 2 ^ 16) ++ leBytes 2 c.mean

def syncTrackBytes (t : SyncTrack) : List Byte :=
  leBytes 2 t.divF ++ leBytes 2 t.divN ++ leBytes 4 (toBits t.phase 32) ++ leBytes 8 (toBits t.highMark 48) ++ leBytes 4 t.trig ++
  leBytes 8 (toBits t.position 48) ++ leBytes 4 t.edges.length ++ t.edges.flatMap fun e => leBytes 8 (toBits e 48)

def syncBytes (p : SyncP) : List Byte :=
  syncTrackBytes p.a ++ syncTrackBytes p.b ++ leBytes 4 p.nextPiece.toNat ++
  p.coefs.flatMap fun k => leBytes 4 k.1 ++ coefWords k.2.r ++ coefWords k.2.g ++ coefWords k.2.b

/-- The bytes cut into frames of at most 512. -/
def sendSyncBytes (s : State) (b : List Byte) : State :=
  (chunksOf 512 (b.length + 1) b).foldl (fun s c => sendFrame s 0x03 0 0 0 0 c) s

/-- The active of a paired link sends SYNC (R383). -/
def sendSync (s : State) : State :=
  if s.twin.paired && s.twin.state == .active then sendSyncBytes s (syncBytes (syncOf s)) else s

/-- HEALTH (Table 15-2); 0xFFFF_FFFF for a track with no piece named. -/
def sendHealth (s : State) (cause : Nat) (a b : Word32) : State :=
  if s.twin.paired then sendFrame s 0x02 0 0 0 0 (leBytes 1 cause ++ zeros 3 ++ leBytes 4 a.toNat ++ leBytes 4 b.toNat) else s

/-- WINDOW_STATE for a window (Table 15-2): access 0 and length 0 when it is closed. -/
def sendWindowState (s : State) (w : Nat) : State :=
  let x := match s.twin.windows.find? fun e => e.1 == w with | some e => (e.2.access, e.2.len) | none => (0, 0)
  sendFrame s 0x04 0 w 0 0 (leBytes 1 w ++ leBytes 1 x.1 ++ zeros 6 ++ leBytes 8 x.2)

/-- The digest's first 8 bytes of a track's FEED plan. -/
def feedDigest (s : State) (t : Track) : List Byte := match findPlan s (s.track t).plan with
  | some p => if (s.track t).armed then slice p.c.digest 0 8 else zeros 8
  | none => zeros 8

/-- The state code of Table 15-3, in the order of Table 15-5. -/
def TwinState.code : TwinState → Nat
  | .solo => 0 | .active => 1 | .standby => 2 | .takingOver => 3 | .fenced => 4

/-- Restart line of a track in the form of Table 15-3. -/
def restartWord (s : State) (t : Track) : Word32 := match (s.track t).restart with
  | some r => BitVec.ofInt 32 r.N
  | none => 0xFFFFFFFF

/-- What the module's HEARTBEAT carries (Table 15-3). -/
def heartbeatOf (s : State) : HeartbeatP :=
  { state := s.twin.state.code, readyA := s.twin.readyA, readyB := s.twin.readyB, windows := s.twin.windows.length, next := s.nextPiece,
    commA := s.trackA.lastCommit, commB := s.trackB.lastCommit, posA := s.trackA.trigPos, posB := s.trackB.trigPos,
    trigA := BitVec.ofNat 32 (trackTrigs s .A), trigB := BitVec.ofNat 32 (trackTrigs s .B), restA := restartWord s .A, restB := restartWord s .B,
    digA := feedDigest s .A, digB := feedDigest s .B }

/-- The 64 bytes of a HEARTBEAT payload. -/
def heartbeatBytes (h : HeartbeatP) : List Byte :=
  leBytes 1 h.state ++ leBytes 1 (b2n h.readyA + 2 * b2n h.readyB) ++ leBytes 2 h.windows ++ leBytes 4 h.next.toNat ++
  leBytes 4 h.commA.toNat ++ leBytes 4 h.commB.toNat ++ leBytes 8 (toBits h.posA 48) ++ leBytes 8 (toBits h.posB 48) ++
  leBytes 4 h.trigA.toNat ++ leBytes 4 h.trigB.toNat ++ leBytes 4 h.restA.toNat ++ leBytes 4 h.restB.toNat ++
  slice h.digA 0 8 ++ slice h.digB 0 8

end Sys2Proof.Machine
end

