-- ==== Sys2Proof/Machine/Trigger.lean ====
section
/-! DEFINITION. Encoders, dividers and triggers (R39 to R46), line packets and lost colours (R31 to R36), registered lines (R68), the start and
the check triggers of a restart (R53, R55), and CAL_RUN (R62, R66). -/

namespace Sys2Proof.Machine

open Sys2Proof

/-- Frames that begin, counted at their region's throttle level, and the turns that they stall (R110, Table 19-2); a DRAINED region counts none. -/
def countFrames (s : State) (k : Nat) : State :=
  if k = 0 then s
  else allRegions.foldl (fun s g =>
    if (s.reg8 g).state = 2 then s
    else
      let l := throttle s g
      let s := s.countN famRegion g.val l k
      if l = 0 then s
      else (List.range 32).foldl (fun s i => if (s.tile (32 * g.val + i)).resv.isSome then s else s.countN famTile (32 * g.val + i) 1 (k * l)) s) s

/-- Job descriptors at the head of what their rings have fetched. -/
def headJobs (s : State) : Nat := ((allRings s).filter fun r => match (s.ring r).fetched.head? with
  | some d => jobDesc d.op
  | none => false).length

/-- Cycles for which the limit of R299 holds jobs (Table 19-2). -/
def countHeld (s : State) (cycles : Nat) : State := if 4096 ≤ waitingJobs s then s.chipCnt 43 (cycles * headJobs s) else s

/-- Time passes while the root clocks run (R441). -/
def passTime (s : State) (cycles : Nat) : State :=
  if s.clk.running then
    let s := countHeld s cycles
    countFrames { s with clk := { s.clk with timeBase := s.clk.timeBase + BitVec.ofNat 64 cycles } } ((s.now + cycles) / 128 - s.now / 128)
  else s

/-- Time passes up to a deadline. -/
def passUntil (s : State) (t : Nat) : State := passTime s (t - s.now)

/-- The divisor N + F/65,536 in 1/65,536 counts (R45). -/
def TrackState.divisor (x : TrackState) : Int := ((x.divN * 65536 + x.divF : Nat) : Int)

/-- Divider phase counted from encoder line 0. -/
def TrackState.unwrapped (x : TrackState) : Int := x.phase + x.encLine * x.divisor

/-- A 48-bit signed position (R43). -/
def wrap48 (p : Int) : Int := signExt (toBits p 48) 48

/-! ### Registered lines (R68) -/

/-- The offset in force of a colour of a port. -/
def colourOff (cfg : PortCfg) (c : Nat) : Nat := if cfg.switched then 0 else cfg.offs.getD c 0

/-- Take a colour line once, unless its position has been emitted. -/
def takeColour (p : PortState) (l : ColLine) : PortState :=
  if l.pos < p.nextPos ∨ p.colLines.any (fun k => k.pos == l.pos && k.col == l.col) then p else { p with colLines := p.colLines ++ [l] }

/-- A registered line of three colours; its paper columns are reduced when it is stored. -/
def mkReg (quad : Bool) (r g b : ColLine) : RegLine :=
  { pos := r.pos, pline := 0, piece := none, lost := [r.lost, g.lost, b.lost], data := [], raw := [r.raw, g.raw, b.raw], cols := 0, first := 0,
    last := 0, quad := quad, fe := if !r.lost then some r.fe else if !g.lost then some g.fe else if !b.lost then some b.fe else none }

/-- Emit registered lines while every colour of the next position has been delivered or is lost. -/
def emitReg (quad : Bool) (p : PortState) : Nat → PortState
  | 0 => p
  | f + 1 =>
    let at3 := fun (c : Nat) => p.colLines.find? fun k => k.pos == p.nextPos && k.col == c
    match at3 0, at3 1, at3 2 with
    | some r, some g, some b =>
      emitReg quad { p with regQ := p.regQ ++ [mkReg quad r g b], colLines := p.colLines.filter fun k => decide (p.nextPos < k.pos),
                            nextPos := p.nextPos + 1 } f
    | _, _, _ => p

/-- A colour line arrives at the rinse stage of a port. -/
def pushColour (s : State) (p : Port) (l : ColLine) : State :=
  let q := (s.track (s.lp p).cfg.track).quad
  s.modPort p fun x => let x := takeColour x l; emitReg q x (x.colLines.length + 1)

/-! ### Lost colours (R35, R36) -/

/-- Is an encoder line one of a check window under capture (R55)? -/
def checkLine (s : State) (t : Track) (e : Int) : Bool := match (s.track t).restart with
  | some r => decide (e ≤ r.N)
  | none => false

/-- Colours of an encoder line are lost. -/
def loseColours (s : State) (p : Port) (e : Int) (cs : List Nat) : State :=
  let cfg := (s.lp p).cfg
  cs.foldl (fun s c =>
    let s := s.portCnt p 3
    if checkLine s cfg.track e then s
    else pushColour s p { pos := e - colourOff cfg c, col := c, lost := true, raw := [], fe := 0 }) s

/-- Colours that a trigger's packets carry. -/
def trigColours (cfg : PortCfg) (r : TrigRec) : List Nat := if cfg.switched then [r.sub] else [0, 1, 2]

/-- Colours of a trigger that have not come are lost when the next trigger but one is issued. -/
def expireTrig (s : State) (p : Port) (r : TrigRec) : State :=
  loseColours s p r.line ((trigColours (s.lp p).cfg r).filter fun c => !r.got.contains c)

/-! ### Triggers (R41, R45, R46) -/

/-- Something leaves on a port's outputs, when this module drives them (Table 15-5). -/
def emitPort (s : State) (o : Output) : State := if drivesFeed s then s.emit o else s

/-- The lamps of a port that are on go off. -/
def lampsOff (s : State) (p : Port) : State :=
  ((s.lp p).lamps.foldl (fun s l => emitPort s (.lamp p l false)) s).modPort p fun x => { x with lamps := [] }

/-- The three lamps of a port go on, as three-line mode has them while the port is armed (R40). -/
def lampsOn (s : State) (p : Port) : State :=
  ([0, 1, 2].foldl (fun s l => emitPort s (.lamp p l true)) s).modPort p fun x => { x with lamps := [0, 1, 2] }

/-- Switched-lamp mode: every lamp that is on goes off, and the sub-line's lamp on, so that no two are on together (R41). -/
def switchLamp (s : State) (p : Port) (c : Nat) : State :=
  (emitPort (lampsOff s p) (.lamp p c true)).modPort p fun x => { x with lamps := [c] }

/-- Issue a sensor trigger of an encoder line, sub-line `sub`. -/
def issueTrigger (s : State) (p : Port) (e : Int) (sub : Nat) : State :=
  let x := s.lp p
  let s := (x.trigs.take (x.trigs.length - 1)).foldl (fun s r => expireTrig s p r) s
  let r : TrigRec := { num := x.trigCount + 1, line := e, sub := sub, got := [] }
  let s := s.modPort p fun y => { y with trigCount := y.trigCount + 1, trigs := x.trigs.drop (x.trigs.length - 1) ++ [r] }
  let s := emitPort (s.portCnt p 4) (.trigger p (x.trigCount + 1))
  if x.cfg.switched then switchLamp s p sub else s

/-- The period P in port cycles: of the armed maximum line rate for the first line after arming or a restart, else of the line before (R41). -/
def linePeriod (s : State) (x : TrackState) : Nat := match x.lastLine with
  | some l => (s.now - l) / 7
  | none => if x.armedMax = 0 then 0 else 200000000 / x.armedMax

/-- Insert a sub-line trigger in the order of the times at which they fall due. -/
def insertDue (d : Nat × Int × Nat) : List (Nat × Int × Nat) → List (Nat × Int × Nat)
  | [] => [d]
  | e :: es => if d.1 < e.1 then d :: e :: es else e :: insertDue d es

/-- The trigger of an encoder line reaches every armed port of the track; in switched-lamp mode two more follow (R41, R46), those of the line before that
are still due among them. -/
def fireLine (s : State) (t : Track) (e : Int) : State :=
  let P := linePeriod s (s.track t)
  let ps := (s.track t).portsOf
  let due := if ps.any (fun p => (s.lp p).cfg.switched) then [(s.now + 7 * (P / 3), e, 1), (s.now + 7 * (2 * P / 3), e, 2)] else []
  let s := s.modTrack t fun x => { x with lastTrig := some s.now, lastLine := some s.now, period := P,
                                          subDue := due.foldl (fun q d => insertDue d q) x.subDue, trigPos := x.position }
  ps.foldl (fun s p => issueTrigger s p e 0) s

/-- Does a line come less than 1/f_max after the previous trigger (R39)? -/
def tooSoon (s : State) (x : TrackState) : Bool := match x.lastTrig with
  | some l => decide ((s.now - l) * x.armedMax < 1400000000)
  | none => false

/-- An encoder line that comes too soon gets no trigger, and its colours are lost (R39). -/
def overrateLine (s : State) (t : Track) (e : Int) : State :=
  let s := s.modPort (s.frontPort t) fun x => { x with overrate := true }
  let s := s.modTrack t fun x => { x with lastLine := some s.now }
  (s.track t).portsOf.foldl (fun s p => loseColours (s.portCnt p 5) p e [0, 1, 2]) s

/-- The divider issues an encoder line (R45). -/
def encoderLine (s : State) (t : Track) : State :=
  let e := (s.track t).encLine + 1
  let soon := tooSoon s (s.track t)
  let s := s.modTrack t fun x => { x with encLine := e }
  if soon then overrateLine s t e else fireLine s t e

/-! ### Restart (R53 to R56) -/

/-- The restart line N: the highest line committed on every armed side; a standby takes the active's (R53, R386). -/
def restartLine (s : State) (t : Track) : Int :=
  let own := match (s.track t).portsOf with
    | [] => (s.track t).encLine
    | p :: ps => ps.foldl (fun m q => min m (committedTop (s.lp q))) (committedTop (s.lp p))
  match isStandby s, s.twin.beat with
  | true, some h =>
    let w : Word32 := match t with | .A => h.restA | .B => h.restB
    if w = 0xFFFFFFFF then own else w.toInt
  | _, _ => own

/-- Lines beyond N are dropped on a side. -/
def dropBeyond (n : Int) (p : PortState) : PortState :=
  let w := p.window.filter fun l => decide (l.pos ≤ n)
  { p with window := w, prev := w.getLast?, colLines := [], regQ := [], storeQ := [], nextPos := n + 1, check := [], trigs := [] }

/-- The last line of a front window that shows paper, as a piece line. -/
def lastPaperIn (p : PortState) (l0 : Int) : Nat :=
  match ((p.window.filter fun l => decide (l0 ≤ l.pos ∧ p.cfg.minCols ≤ l.cols)).getLast?) with
  | some l => (l.pos - l0).toNat
  | none => 0

/-- A side of a piece goes back to what it was at piece line k: the lines after it are captured again. -/
def rewindSide (k : Int) (z : PieceSide) : PieceSide := { z with lost := z.lost.filter fun x => decide (((x : Nat) : Int) ≤ k) }

/-- A piece goes back to what it was at line N; its line 0, a T that has been found and its due line keep their values (R18). -/
def rewindPiece (n d : Int) (fp : PortState) (p : Piece) : Piece := match p.line0 with
  | none => p
  | some l =>
    let p := { p with front := rewindSide (n - l) p.front, back := rewindSide (n - d - l) p.back }
    match p.T with
    | some _ => p
    | none =>
      let k := min p.lastPaper (lastPaperIn fp l)
      { p with lastPaper := k, blank := (n - l).toNat - k }

/-- The skew window of the piece on a side keeps the points of the lines up to N. -/
def rewindPts (k : Int) (p : PortState) : PortState :=
  { p with edgePts := p.edgePts.filter (fun e => decide (((e.2 : Nat) : Int) ≤ k)), sidePts := p.sidePts.filter fun e => decide (((e.1 : Nat) : Int) ≤ k) }

/-- The line 0 of the youngest piece that has one. -/
def youngestLine0 (x : TrackState) : Int := (x.pieces.reverse.findSome? (·.line0)).getD 0

/-- Is a piece between its line 0 and its verdict? -/
def inFlight (p : Piece) : Bool := p.line0.isSome && !p.posted

/-- The encoder has come to rest after a hold: with a piece in flight its restart is set up; in first light a piece not wholly captured is discarded
(R53, R453). Until line N + 1 is committed a recorded edge is the same piece again (R57). -/
def beginRestart (s : State) (t : Track) : State :=
  let s := s.modTrack t fun x => { x with held := false, rested := true, lastLine := none, again := if x.armed && !x.firstLight then some (restartLine s t + 1) else none }
  let x := s.track t
  if !x.armed || !(x.pieces.any inFlight) then s
  else if x.firstLight then
    (x.pieces.filter fun p => p.line0.isSome && p.T.isNone).foldl (fun s p => discardPiece s t p.num .lineLost) s
  else
    let n := restartLine s t
    let fp := s.lp (s.frontPort t)
    let s := x.sides.foldl (fun s z => s.modPort z.2 fun p => rewindPts (n - sideDelta s t z.1 - youngestLine0 x) (dropBeyond n p)) s
    let s := s.portCnt (s.frontPort t) 11
    s.modTrack t fun y => { y with restart := some { N := n, released := false, drop := 16 }, frontPos := min y.frontPos n, subDue := [],
                                   pieces := y.pieces.map (rewindPiece n (sideDelta s t .back) fp) }

/-- FEED_HOLD is released after the encoder has come to rest: the restart may capture its check window (R55). -/
def releaseRestart (s : State) (t : Track) : State :=
  s.modTrack t fun x => { x with rested := false, restart := x.restart.map fun r => { r with released := true } }

/-- Pieces that a restart concerns: between line 0 and verdict with the trailing edge at or beyond N. -/
def restartPieces (s : State) (t : Track) : List Piece :=
  match (s.track t).restart with
  | none => []
  | some r => (s.track t).pieces.filter fun p => inFlight p && (match p.line0, p.T with
      | some l, some T => decide (r.N ≤ l + (T + trackDelta s t : Nat))
      | _, _ => true)

/-- A restart fails: the piece is discarded, and the track resumes with the next one, at the first line after the highest that the encoder has reached, for
the lines from N + 1 to there get no trigger (R45, R56). -/
def failRestart (s : State) (t : Track) (st : Status) : State :=
  let ps := restartPieces s t
  let e := (s.track t).encLine
  let s := (s.track t).portsOf.foldl (fun s p => s.modPort p fun y => { y with check := [], colLines := [], nextPos := e + 1 }) s
  let s := s.modTrack t fun x => { x with restart := none, restartBad := true, frontPos := e, again := some (e + 1) }
  let s := if st = .refeedMismatch then s.portCnt (s.frontPort t) 12 else s
  ps.foldl (fun s p => discardPiece s t p.num st) s

/-- Forward motion during a restart: after the release the triggers of the check window, and its failure when line N + 1 is passed (R55, R56). A check line
that comes too soon gets no trigger (R39), so that its window is never captured whole. -/
def restartForward (s : State) (t : Track) (r : Restart) (u0 u1 : Int) : State :=
  let d := (s.track t).divisor
  let crossed := fun (e : Int) => decide (u0 < e * d ∧ e * d ≤ u1)
  if crossed (r.N + 1) then failRestart s t .refeedMismatch
  else if !r.released then s
  else
    ((List.range 16).map fun (i : Nat) => r.N - 15 + (i : Int)).foldl (fun s e =>
      if !crossed e then s
      else if tooSoon s (s.track t) then overrateLine s t e
      else (fireLine s t e).modTrack t fun x => { x with restart := x.restart.map fun r => { r with drop := r.drop - 1 } }) s

/-! ### The encoder (R43 to R45) -/

/-- One accepted count. -/
def countStep (s : State) (t : Track) (fwd : Bool) : State :=
  let x := s.track t
  let u0 := x.unwrapped
  let s := s.modTrack t fun x => { x with position := wrap48 (if fwd then x.position + 1 else x.position - 1),
                                          phase := if fwd then x.phase + 65536 else x.phase - 65536 }
  if !fwd || !x.armed then s
  else
    let s := match x.restart with
      | some r => restartForward s t r u0 (u0 + 65536)
      | none => s
    let y := s.track t
    if y.highMark < y.position then
      let s := s.modTrack t fun x => { x with highMark := x.position }
      if y.divisor ≤ y.phase ∧ y.restart.isNone then
        encoderLine (s.modTrack t fun x => { x with phase := x.phase - x.divisor }) t
      else s
    else s

/-- Position of a pair of channel levels in the forward order 00, 10, 11, 01 (log 27). -/
def quadIndex (a b : Bool) : Nat := match a, b with
  | false, false => 0
  | true, false => 1
  | true, true => 2
  | false, true => 3

/-- A quadrature error: counted and recorded, the position unchanged (R44). -/
def quadError (s : State) (t : Track) : State :=
  let s := s.portCnt (s.frontPort t) 6
  let s := s.modTrack t fun x => { x with quad := true }
  diagTrack s t 2 (toBits (s.track t).position 32)

/-- FEED_HOLD as a count finds it: the first backward count after a hold shows that the encoder has come to rest (DESIGN CHOICE, log 68); the first count
after the release of a hold that the encoder has rested in begins the check window. -/
def noteFeed (s : State) (t : Track) (back : Bool) : State :=
  let s := if feedHold s t then (if (s.track t).rested then s else s.modTrack t fun x => { x with held := true })
    else if (s.track t).rested then releaseRestart s t else s
  if back && (s.track t).held then beginRestart s t else s

/-- ENCODER_COUNT: `dt` port cycles after the last event the channels stand at new levels. -/
def execEncoderCount (t : Track) (a b : Bool) (dt : Nat) (s : State) : Host.Outcome State Fault Refusal :=
  let s := passTime s (7 * dt)
  let x := s.track t
  let d := (quadIndex a b + 4 - quadIndex x.chA x.chB) % 4
  let s := s.modTrack t fun x => { x with chA := a, chB := b }
  let s := noteFeed s t ((d == 1 || d == 3) && ((d == 1) == x.rev))
  .next (if d = 0 then s else if d = 2 then quadError s t else countStep s t ((d == 1) != x.rev))

/-- SUBLINE_TRIGGER: the second or third trigger of a line falls due (R41). -/
def execSublineTrigger (t : Track) (s : State) : Host.Outcome State Fault Refusal :=
  match (s.track t).subDue with
  | [] => .next s
  | d :: rest =>
    let s := passUntil s d.1
    let s := s.modTrack t fun x => { x with subDue := rest }
    .next ((s.track t).portsOf.foldl (fun s p => if (s.lp p).cfg.switched then issueTrigger s p d.2.1 d.2.2 else s) s)

/-! ### CAL_RUN (R62, R66) -/

/-- Triggers of a CAL_RUN: 64 dark, then 64 for each colour as the mode needs them. -/
def calTotal (c : CalSt) : Nat := if c.switched then 256 else 128

/-- Add a line of samples to sums. -/
def addSums (sum : List Nat) (x : List Nat) : List Nat :=
  (List.range x.length).map fun i => sum.getD i 0 + x.getD i 0

/-- Take a calibration line of a colour; the one dark line of switched-lamp mode serves all three. -/
def calTake (c : CalSt) (dark : Bool) (col : Nat) (x : List Nat) : CalSt :=
  if dark then
    let cs := if c.switched then [0, 1, 2] else [col]
    { c with darkN := (List.range 3).map fun i => c.darkN.getD i 0 + (if cs.contains i then 1 else 0),
             darkSum := (List.range 3).map fun i => if cs.contains i then addSums (c.darkSum.getD i []) x else c.darkSum.getD i [] }
  else
    { c with lampN := (List.range 3).map fun i => c.lampN.getD i 0 + (if i = col then 1 else 0),
             lampSum := (List.range 3).map fun i => if i = col then addSums (c.lampSum.getD i []) x else c.lampSum.getD i [] }

/-- The result of a CAL_RUN. -/
def calResult (s : State) (p : Port) (c : CalSt) : CoefSet :=
  let w := (s.lp p).cfg.width
  let prev := if (s.lp p).calKey = some (w, c.switched) then (s.lp p).inUse else none
  let one := fun (i : Nat) (pick : CoefSet → List Coef) =>
    calColour ((s.lp p).cfg.target.getD i 0) (c.darkN.getD i 0) (c.lampN.getD i 0) (c.darkSum.getD i [])
      (addSums (c.lampSum.getD i []) (List.replicate w 0)) (prev.map pick)
  { r := one 0 (·.r), g := one 1 (·.g), b := one 2 (·.b) }

/-- CAL_RUN completes: the set is in use and written to the host; the dead pixels are reported (R62). -/
def finishCal (s : State) (p : Port) (c : CalSt) : State :=
  let k := calResult s p c
  let s := s.hostWrite c.r.fn c.op.addr (coefSetBytes k)
  let w := (s.lp p).cfg.width
  let s := s.modPort p fun x => { x with inUse := some k, calKey := some (w, c.switched), cal := none, trigs := [],
                                         deadCols := if c.switched then [] else deadColours k }
  let s := complete (lampsOff s p) c.r c.hdr 0x03 .ok (leBytes 2 (deadCount k.r) ++ leBytes 2 (deadCount k.g) ++ leBytes 2 (deadCount k.b))
  sendSync s

/-- Have all the packets of the last trigger come? -/
def calAll (p : PortState) (c : CalSt) : Bool :=
  decide (calTotal c ≤ c.issued) && p.trigs.all fun r => decide ((if c.switched then 1 else 3) ≤ r.got.length)

/-- One colour of a calibration line. -/
def calPacket (s : State) (p : Port) (c : CalSt) (k : Packet) : Bool × State :=
  match (s.lp p).trigs.find? fun r => r.num % 2 ^ 24 == k.num with
  | none => (false, s)
  | some r =>
    let dark := r.sub == 8
    match colourOf c.switched dark k.col with
    | none => (false, s)
    | some col =>
      if c.switched && !dark && col != r.sub then (false, s)
      else if r.got.contains col then (true, s)
      else
        let c := calTake c dark col k.samples
        let s := s.modPort p fun x => { x with cal := some c, trigs := mapWhere (fun y => y.num == r.num) (fun y => { y with got := y.got ++ [col] }) x.trigs }
        (true, if calAll (s.lp p) c then finishCal s p c else s)

/-- CAL_TRIGGER: the timer's next trigger, dark for the first 64; a tick after the last one ends the run with the lines received. -/
def execCalTrigger (p : Port) (s : State) : Host.Outcome State Fault Refusal :=
  match (s.lp p).cal with
  | none => .next s
  | some c =>
    let s := passTime s 140000
    if calTotal c ≤ c.issued then .next (finishCal s p c)
    else
      let sub := if c.issued < 64 then 8 else if c.switched then (c.issued - 64) % 3 else 0
      let x := s.lp p
      let r : TrigRec := { num := x.trigCount + 1, line := 0, sub := sub, got := [] }
      let s := s.modPort p fun y => { y with cal := some { c with issued := c.issued + 1 }, trigCount := y.trigCount + 1,
                                             trigs := x.trigs.drop (x.trigs.length - 1) ++ [r] }
      let s := if c.issued < 64 then s
        else if c.switched then switchLamp s p sub
        else if c.issued = 64 then lampsOn s p
        else s
      .next (emitPort (s.portCnt p 4) (.trigger p (x.trigCount + 1)))

/-! ### Line packets (R31 to R35) -/

/-- One colour of a line on an armed port. A second good packet of a colour that its trigger has had is not bad by R35: it is counted as good and not taken
again; in switched-lamp mode a packet of another sub-line's lamp is taken as bad (both DESIGN CHOICE, log 67). -/
def linePacket (s : State) (p : Port) (k : Packet) : Bool × State :=
  let cfg := (s.lp p).cfg
  match (s.lp p).trigs.find? fun r => r.num % 2 ^ 24 == k.num with
  | none => (false, s)
  | some r =>
    match colourOf cfg.switched false k.col with
    | none => (false, s)
    | some col =>
      if cfg.switched && col != r.sub then (false, s)
      else if r.got.contains col then (true, s)
      else
        let s := s.modPort p fun x => { x with trigs := mapWhere (fun y => y.num == r.num) (fun y => { y with got := y.got ++ [col] }) x.trigs }
        let l : ColLine := { pos := r.line - colourOff cfg col, col := col, lost := false, raw := k.samples, fe := k.fe }
        (true, if checkLine s cfg.track r.line then s.modPort p fun x => { x with check := x.check ++ [l] } else pushColour s p l)

/-- A packet received whole on a port. Bad packets are discarded and counted; while the port is unlocked its lines are lost. The lock is judged first, so that
the sixteenth good packet is itself taken (DESIGN CHOICE, log 67). -/
def takePacket (p : Port) (bytes : List Byte) (s : State) : Host.Outcome State Fault Refusal :=
  let good := packetCrc bytes
  let s := s.modPort p fun x => lockAfter x good
  let x := s.lp p
  let k := parsePacket bytes
  if !good then .next (s.portCnt p 1)
  else if !packetForm bytes x.cfg.lanes || k.w != x.cfg.width || k.port != p.val then .next (s.portCnt p 2)
  else
    let r := match x.cal with
      | some c => if x.locked then calPacket s p c k else (true, s)
      | none => if x.armed then (if x.locked then linePacket s p k else (true, s)) else (false, s)
    .next (if r.1 then r.2.portCnt p 0 else s.portCnt p 2)

/-- LINE_PACKET: what the eight data lanes delivered up to the end of a packet, realigned on its sync word (R31); the lanes in use are those of the settings,
and nothing is received where no idle byte came first (R33). -/
def execLinePacket (p : Port) (lanes : List (List Byte)) (s : State) : Host.Outcome State Fault Refusal :=
  match packetOfLanes (s.lp p).cfg.lanes lanes with
  | none => .next s
  | some bytes => takePacket p bytes s

end Sys2Proof.Machine
end

