-- ==== Sys2Proof/Machine/Feed.lean ====
section
/-! DEFINITION. Registered lines in the tile store (R72 to R73, R80 to R88), gap updates and dead colour lines (R42, R65 to R67), the line
window and its hold (R50, R74, R75), PIECE_IN (R374), the end of a restart (R56) and the feed's time-outs (R81, R83). -/

namespace Sys2Proof.Machine

open Sys2Proof

/-! ### Gap updates (R42, R65 to R67) -/

/-- The line that switched-lamp mode uses: the sensor's first colour line, or, when that is dead, the next live line after it in the order red, green, blue,
taken round (the rule does not say where the order starts: DESIGN CHOICE, log 67). -/
def recoveryLine (offs dead : List Nat) : Nat :=
  let first := ([0, 1, 2].find? fun i => offs.getD i 0 == 0).getD 0
  ([first, (first + 1) % 3, (first + 2) % 3].find? fun i => !dead.contains i).getD first

/-- Dead colour lines in the DIAG of a piece. -/
def diagDead (s : State) (t : Track) (n : Nat) (sd : Side) (dead : List Nat) : State :=
  dead.foldl (fun s c => diagPiece s t n 4 sd 0 c) s

/-- Recovery from dead colour lines (R42): hold, rate request, switched-lamp mode on a live line, one third of the rate, once for the track. The piece before
whose line 0 they are found has them in its DIAG. -/
def deadRecovery (s : State) (p : Port) (dead : List Nat) : State :=
  let t := (s.lp p).cfg.track
  if dead.isEmpty then s
  else
    let s := s.modPort p fun x => { x with deadCols := dead }
    let s := ((s.track t).pieces.filter fun y => y.line0.isNone && y.live).foldl (fun s y => diagDead s t y.num (s.lp p).cfg.side dead) s
    if (s.lp p).cfg.switched || !Config.lampsSwitchable p.val then s
    else
      let third := (s.track t).portsOf.any fun q => (s.lp q).switchedBy.isSome
      let s := (lampsOff s p).modPort p fun x => { x with cfg := { x.cfg with switched := true }, switchedBy := some (recoveryLine x.cfg.offs dead), colLines := [],
                                                          trigs := [], nextPos := (s.track t).encLine + 1 }
      sendSync (s.modTrack t fun x => { x with hold := { x.hold with rate := true }, held := true, rateReq := true,
                                               armedMax := if third then x.armedMax else x.armedMax / 3 })

/-- The strip lines of a gap are compared with the reference means: a new set is built, or the update is discarded or not made (R65). -/
def gapUpdate (s : State) (p : Port) : State :=
  let x := s.lp p
  let cfg := x.cfg
  let clear := fun (y : PortState) => { y with strip := { y.strip with start := none, stop := none, n := 0, sum := [] } }
  match x.inUse with
  | none => s.modPort p clear
  | some k =>
    if x.strip.n < cfg.gapLines then (s.modPort p clear).portCnt p 10
    else
      let one := fun (i : Nat) => gapColour cfg.tol (cfg.target.getD i 0) x.strip.n (x.strip.sum.getD i []) (coefCol k i)
      let new : CoefSet := { r := one 0, g := one 1, b := one 2 }
      let tooMany := [0, 1, 2].any fun i => decide (cfg.maxFrac * (coefCol new i).length < 256 * keptCount (coefCol new i))
      let kept := keptCount new.r + keptCount new.g + keptCount new.b
      if tooMany then
        let s := (s.modPort p fun y => { clear y with gapDiscards := y.gapDiscards + 1 }).portCnt p 9
        match (s.track cfg.track).pieces.getLast? with
        | some pc => diagPiece s cfg.track pc.num 8 cfg.side 0 kept
        | none => s
      else (s.modPort p fun y => { clear y with gapDiscards := 0, building := some new }).portCnt p 8

/-- A gap whose PIECE_IN edge has come is closed. -/
def closeGap (s : State) (p : Port) : State := if (s.lp p).strip.stop.isSome then gapUpdate s p else s

/-- GAP_UPDATE_BUILT: the set built waits to become the set in use (R67); dead colour lines start the recovery of R42. -/
def execGapUpdateBuilt (p : Port) (s : State) : Host.Outcome State Fault Refusal :=
  let s := closeGap s p
  match (s.lp p).building with
  | none => .next s
  | some k =>
    let s := s.modPort p fun x => { x with building := none, queued := some (k, x.strip.lastPos) }
    .next (if (s.lp p).cfg.switched then s else deadRecovery s p (deadColours k))

/-- Add a registered line to the strip of its gap. -/
def gatherStrip (p : PortState) (l : RegLine) : PortState :=
  match p.strip.start with
  | some a =>
    if decide (a < l.pos) && (match p.strip.stop with | some e => decide (l.pos ≤ e) | none => true) && !l.lost.any id then
      { p with strip := { p.strip with n := p.strip.n + 1, lastPos := l.pos,
                                       sum := (List.range 3).map fun i => addSums (p.strip.sum.getD i []) (l.raw.getD i []) } }
    else p
  | none => p

/-! ### Pieces under a side's sensor -/

/-- The piece that a line of a side lies on: between its line 0 and its trailing edge, or not yet ended (R17). -/
def pieceAt (s : State) (t : Track) (sd : Side) (n : Int) : Option Piece :=
  let m := n - sideDelta s t sd
  (s.track t).pieces.reverse.find? fun p => match p.line0 with
    | some l => decide (l ≤ m) && (match p.T with | some T => decide (m ≤ l + (T : Nat)) | none => true)
    | none => false

/-- The queued set becomes the set in use before a line at least 8 after the last strip line, with no piece on the side (R67). -/
def swapCoefs (s : State) (p : Port) (n : Int) : State :=
  match (s.lp p).queued with
  | some (k, last) =>
    if last + 8 ≤ n ∧ (pieceAt s (s.lp p).cfg.track (s.lp p).cfg.side n).isNone then s.modPort p fun x => { x with inUse := some k, queued := none } else s
  | none => s

/-- Discard with PAGE_GEOMETRY, counted (Table 19-2). -/
def geomDiscard (s : State) (t : Track) (n cause : Nat) : State :=
  match findPiece s t n with
  | some p => if p.live then (discardGeometry s t n cause).portCnt (s.frontPort t) 14 else s
  | none => s

/-! ### Skew and press (R85 to R88) -/

/-- A FEED job for a side whose skew is known, unless the module reads nothing (R19, R386, R452). -/
def feedJob (s : State) (t : Track) (n : Nat) (sd : Side) : State :=
  match findPiece s t n with
  | none => s
  | some p =>
    if !p.live || (s.track t).firstLight || !postsVerdicts s t n then s
    else match piecePlan s t p with
      | none => s
      | some pl =>
        let (id, s) := addJob s { (default : Job) with fn := 0, cls := 0, tag := n, plan := pl.handle, revision := pl.revision, kind := .side t n sd,
                                                       state := .queued }
        modPiece s t n fun p => p.modSide sd fun x => { x with job := some id }

/-- The skew estimate of a side is ready (R86). -/
def estimateSkew (s : State) (t : Track) (n : Nat) (p : Port) (line : Nat) : State :=
  let x := s.lp p
  let sd := x.cfg.side
  match findPiece s t n with
  | none => s
  | some pc =>
    if (pc.side sd).skew.isSome || !pc.live then s
    else
      let r := skewFit x.cfg (Config.pitchX p.val * ((x.cfg.xavg : Nat) : Rat)) (Config.pitchY p.val) x.edgePts x.sidePts
      let s := modPiece s t n fun pc => pc.modSide sd fun y => { y with skew := some r.2 }
      let s := if r.2.source = 2 then diagPiece s t n 5 sd line 0x7FC00000 else s
      let other := match sd with | .front => (Side.back, pc.back) | .back => (Side.front, pc.front)
      let s := match other.2.skew with
        | some k => if r.2.source ≠ 2 ∧ k.source ≠ 2 ∧ skewDiffers r.2.theta k.theta then
            diagPiece (diagPiece s t n 5 sd line r.2.theta.toNat) t n 5 other.1 line k.theta.toNat else s
        | none => s
      if r.2.source ≠ 2 ∧ skewTooLarge r.1 then geomDiscard s t n 4 else feedJob s t n sd

/-- The input lines of the first band are there, or the whole side is: the side's job may become READY (R19, R188, R255). -/
def feedInput (s : State) (t : Track) (n : Nat) (sd : Side) : State :=
  match ((findPiece s t n).bind fun p => (p.side sd).job).bind (findJob s) with
  | none => s
  | some j => match jobPlan s j with
    | some pl => if linesThere s j pl.low.gate then modJob s j.id fun x => { x with inputReady := true } else s
    | none => s

/-- Raw image of a pressed side (R330). -/
def sideRaw (s : State) (t : Track) (pc : Piece) (p : Port) (k : SkewSt) (T : Nat) : Image :=
  let cfg := (s.lp p).cfg
  let px := Config.pitchX p.val * ((cfg.xavg : Nat) : Rat)
  let py := Config.pitchY p.val
  rawImage (sideNum cfg.side) (if cfg.depth16 then 16 else 8) (dpiOf px) (dpiOf py) (pressSide cfg k px py T (pc.side cfg.side).lines)
    |> fun i => if (s.track t).firstLight || bitAt cfg.imgOut 0 then i else { i with data := [] }

/-- The last line of a side has been pressed: its raw image is in the basket (R329, R336); a first-light piece with all sides pressed is posted
(R452). -/
def pressSideDone (s : State) (t : Track) (n : Nat) (p : Port) : State :=
  let cfg := (s.lp p).cfg
  match findPiece s t n with
  | none => s
  | some pc =>
    match (pc.side cfg.side).skew, pc.T with
    | some k, some T =>
      if (pc.side cfg.side).pressed || !pc.live || (smFind (pc.side cfg.side).lines T).isNone then s
      else
        let s := modPiece s t n fun y => y.modSide cfg.side fun z => { z with pressed := true }
        let s := feedInput s t n cfg.side
        let fl := (s.track t).firstLight
        let s := if fl || bitAt cfg.imgOut 0 then
            let i := sideRaw s t pc p k T
            let s := modPiece s t n fun y => { y with images := y.images ++ [i] }
            if fl then setBuilding s (pieceKey n) (buildingOf s (pieceKey n) + align32 i.len) else buildPiece s t n
          else s
        if fl then match findPiece s t n with
          | some y => if (s.track t).sides.all fun z => (y.side z.1).pressed then verdictFold s t n else s
          | none => s
        else s
    | _, _ => s

/-! ### A line of a side (R72, R80, R85) -/

/-- Leading-edge points: columns that turn paper for the first time (R85). -/
def addEdges (pts : List (Nat × Nat)) (line : Nat) (cols : List Nat) : List (Nat × Nat) :=
  cols.foldl (fun ps x => if (smFind ps x).isSome then ps else smInsert ps x line) pts

/-- How many piece lines in a row up to a line have a lost colour. -/
def lostRun (lost : List Nat) (pl : Nat) : Nat := ((List.range (pl + 1)).reverse.takeWhile fun k => lost.contains k).length

/-- Lost colours of a line on a piece: recorded, and the limits of R36 judged; in first light any loss ends the piece (R453). -/
def pieceLoss (s : State) (t : Track) (n : Nat) (p : Port) (pl : Nat) (lost : List Bool) : State :=
  let cfg := (s.lp p).cfg
  if !lost.any id then s
  else
    let mask := b2n (lost.getD 0 false) + 2 * b2n (lost.getD 1 false) + 4 * b2n (lost.getD 2 false)
    let s := diagPiece s t n 1 cfg.side pl mask
    let s := modPiece s t n fun y => y.modSide cfg.side fun z => { z with lost := z.lost ++ [pl] }
    match findPiece s t n with
    | none => s
    | some y =>
      let z := y.side cfg.side
      if y.live ∧ ((s.track t).firstLight ∨ cfg.lossRun < lostRun z.lost pl ∨ cfg.lossSide < z.lost.length) then (discardPiece s t n .lineLost).portCnt p 13 else s

/-- The front-end status of a line: recorded at line 0 and at each change (R34, R324); a line of which no packet came has none. -/
def noteStatus (s : State) (t : Track) (n : Nat) (p : Port) (pl : Nat) (fe : Option Nat) : State := match fe with
  | none => s
  | some v => if (s.lp p).lastFe = some v then s
    else (diagPiece s t n 3 (s.lp p).cfg.side pl v).modPort p fun x => { x with lastFe := some v }

/-- A line of a piece on a side: losses, front-end status, edges, the line itself, the skew when its window is full, and press. -/
def sideLine (s : State) (t : Track) (n : Nat) (p : Port) (pl : Nat) (l : RegLine) (cols : List Nat) : State :=
  let cfg := (s.lp p).cfg
  let s := pieceLoss s t n p pl l.lost
  let s := noteStatus (if pl = 0 then s.modPort p fun x => { x with lastFe := none } else s) t n p pl l.fe
  let s := if pl = 0 then s.modPort p fun x => { x with edgePts := [], sidePts := [] } else s
  let shows := decide (cfg.minCols ≤ l.cols)
  let s := if pl < cfg.skewK then s.modPort p fun x =>
      { x with edgePts := addEdges x.edgePts pl cols, sidePts := if shows then x.sidePts ++ [(pl, l.first, l.last)] else x.sidePts } else s
  let s := modPiece s t n fun y => y.modSide cfg.side fun z =>
    { z with lines := smInsert z.lines pl l.data, lead := if shows && z.lead.isNone then some ((pl : Nat) : Int) else z.lead }
  let s := if cfg.skewK ≤ pl + 1 then estimateSkew s t n p pl else s
  pressSideDone (feedInput (if bitAt cfg.imgOut 0 then buildPiece s t n else s) t n cfg.side) t n p

/-- The skew of a piece shorter than the skew window is ready at piece line K − 1 all the same (R86). -/
def lateSkew (s : State) (t : Track) (p : Port) (m : Int) : State :=
  let cfg := (s.lp p).cfg
  ((s.track t).pieces.filter fun y => match y.line0 with
      | some l => y.T.isSome && (y.side cfg.side).skew.isNone && decide (l + ((cfg.skewK : Nat) : Int) ≤ m + 1)
      | none => false).foldl
    (fun s y => pressSideDone (estimateSkew s t y.num p cfg.skewK) t y.num p) s

/-- Skew of earlier pieces that a new piece's line 0 cuts short. -/
def cutSkew (s : State) (t : Track) (p : Port) (n : Nat) : State :=
  let cfg := (s.lp p).cfg
  ((s.track t).pieces.filter fun y => y.num != n && y.line0.isSome && y.T.isSome && (y.side cfg.side).skew.isNone).foldl
    (fun s y => pressSideDone (estimateSkew s t y.num p cfg.skewK) t y.num p) s

/-! ### The front side: leading edge, trailing edge, stray paper (R81 to R83) -/

/-- Unexpected paper: counted, logged and alerted once for each run of lines (R82). -/
def strayPaper (s : State) (t : Track) (p : Port) : State :=
  let s := (s.portCnt p 15).modPort (s.frontPort t) fun x => { x with unexpected := true }
  logHealth s { HealthEntry.of 19 (trackNum t) with unit := some p.val }

/-- The oldest piece that searches for its line 0 at line n (R81). -/
def searching (s : State) (t : Track) (p : Port) (n : Int) : Option Piece :=
  (s.track t).pieces.find? fun y => y.line0.isNone && y.live && decide (y.edgeLine < n ∧ n ≤ y.edgeLine + ((s.lp p).cfg.leadWin : Nat))

/-- Is a front line captured again by a restart, a line of a piece whose T is known or a line before a known line 0 (R18)? -/
def recaptured (s : State) (t : Track) (n : Int) : Bool :=
  (pieceAt s t .front n).isSome || (s.track t).pieces.any fun y => match y.line0 with
    | some l => decide (n < l)
    | none => false

/-- A front line's effect on the track's pieces, before the line is taken as a line of a piece. Paper after at least one blank line of a piece not yet ended
is a following piece's leading edge when a later piece searches for its line 0: R83 does not say how a piece not yet ended and the next are told apart
(DESIGN CHOICE, log 67). -/
def frontLine (s : State) (t : Track) (p : Port) (n : Int) (shows before : Bool) : State :=
  let s := s.modTrack t fun x => { x with frontPos := n }
  match (s.track t).pieces.find? fun y => (match y.line0 with | some l => decide (l ≤ n) | none => false) && y.T.isNone with
  | some c =>
    let l := c.line0.getD 0
    if shows then
      let s := if 0 < c.blank then match searching s t p n with
          | some y => geomDiscard s t y.num 3
          | none => s
        else s
      modPiece s t c.num fun y => { y with lastPaper := (n - l).toNat, blank := 0 }
    else modPiece s t c.num fun y => { y with blank := y.blank + 1 }
  | none =>
    if !shows || recaptured s t n then s
    else match searching s t p n with
      | some y => cutSkew (modPiece s t y.num fun y => { y with line0 := some n, lastPaper := 0, blank := 0, due := dueLines s t }) t p y.num
      | none => if before then s else strayPaper s t p

/-! ### First light's capture buffer (R452, R453) -/

def firstLightTracks (s : State) : List Track := allTracks.filter fun t => (s.track t).armed && (s.track t).firstLight

/-- Bytes of one Lmax side on every armed first-light side. -/
def captureNeed (s : State) : Nat :=
  sumNat ((firstLightTracks s).flatMap fun t => (s.track t).portsOf.map fun p => (s.lp p).cfg.lmax * (s.lp p).cfg.lineBytes)

/-- Bytes of lines captured and not yet in a post. -/
def capturedBytes (s : State) : Nat :=
  sumNat ((firstLightTracks s).flatMap fun t => (s.track t).pieces.flatMap fun y => (s.track t).sides.map fun z =>
    if (y.side z.1).pressed then 0 else (y.side z.1).lines.length * (s.lp z.2).cfg.lineBytes)

/-- Free space of the capture buffer: the tile store less reserved tiles, less what is captured or waits to be copied. -/
def captureFree (s : State) : Nat :=
  let reserved := sumNat (allPorts.map fun p => (s.lp p).reserved.length)
  (256 - reserved) * tsRows * 1024 - capturedBytes s - basketUsed s

/-- Judge the hold of R453. -/
def judgeCapture (s : State) : State :=
  let set := fun (b : Bool) => (firstLightTracks s).foldl (fun s t =>
    s.modTrack t fun x => { x with hold := { x.hold with basket := b }, held := x.held || b }) s
  if (firstLightTracks s).isEmpty then s
  else if captureFree s < captureNeed s then set true
  else if 2 * captureNeed s ≤ captureFree s then set false
  else s

/-! ### REGISTERED_LINE_STORED -/

/-- Lost colours take the same side's previous line (R72); before any line their samples are a free value (log 3). -/
def fillLost (w fv : Nat) (lost : List Bool) (own : List (List Nat)) (prev : Option (List (List Nat))) : List (List Nat) :=
  (List.range 3).map fun c => if lost.getD c false then (match prev with
    | some d => if (d.getD c []).isEmpty then List.replicate w fv else d.getD c []
    | none => List.replicate w fv) else own.getD c []

/-- Lost colours of a line in the gap hold nothing: such a line is not repeated (R36). -/
def dropLost (lost : List Bool) (d : List (List Nat)) : List (List Nat) := (List.range 3).map fun c => if lost.getD c false then [] else d.getD c []

/-- A line conditioned with the set in use, every lost colour taken from the line before: what the next line refers to. -/
def fullLine (x : PortState) (fv : Nat) (l : RegLine) : RegLine :=
  let cfg := x.cfg
  let raw := fillLost cfg.width (fv % 4096) l.lost l.raw (x.prev.map (·.raw))
  let own := condReg cfg (x.inUse.getD default) raw (x.prev.map (·.raw))
  { l with raw := raw, data := match x.prev with
    | some q => fillLost cfg.condWidth (fv % 4096) l.lost own (some q.data)
    | none => own }

/-- A line as the tile store holds it, on a piece or in the gap, with its paper columns; the side edges are its first and last paper pixels (R80). -/
def conditionLine (x : PortState) (full : RegLine) (onPiece : Bool) : RegLine × List Nat :=
  let data := if onPiece then full.data else dropLost full.lost full.data
  let cols := columnsOf (paperColumns x.cfg data)
  let px := columnsOf (paperPixels x.cfg data)
  ({ full with raw := if onPiece then full.raw else dropLost full.lost full.raw, data := data, cols := cols.length, first := px.headD 0, last := px.getLastD 0 }, cols)

/-- Does a line need a free value: a colour is lost and no line before holds it? -/
def needsFree (x : PortState) (l : RegLine) : Bool :=
  (List.range 3).any fun c => l.lost.getD c false && (match x.prev with
    | some q => (q.raw.getD c []).isEmpty
    | none => true)

/-- The feed peg of a side's port: the spec names no number for it (DESIGN CHOICE, log 15). -/
def feedPeg (p : Port) : Nat := 3 + p.val

/-- The replay of a takeover has reached the live line (R389). -/
def caughtUp (s : State) : State :=
  if s.twin.state = .takingOver then { s with twin := { s.twin with state := .active } } else s

/-- The word of a side's reserved tiles that cannot be corrected, when there is one (R134). -/
def reservedBad (s : State) (p : Port) : Option Nat :=
  (s.store.marks.find? fun m => m.2 == 2 && (s.lp p).reserved.any fun t => t.1 == tsTile (32 * m.1)).map fun m => 32 * m.1

/-- A piece whose lines lie on such a word is discarded (R37, R134). -/
def discardBadLine (s : State) (t : Track) (n a : Nat) : State :=
  discardPiece (logHealth s { HealthEntry.of 2 (s.now % 2 ^ 32) with
    status := some .tsUncorrectable, fn := some 0, tile := some (tsTile a), region := some (tsTile a / 32), unit := some (tsBank a), addr := a }) t n .tsUncorrectable

/-- A registered line is in the tile store: its status word stands and its feed peg is signalled (R72). -/
def storeLine (s : State) (p : Port) (l : RegLine) : State :=
  let t := (s.lp p).cfg.track
  let sd := (s.lp p).cfg.side
  let s := match (s.lp p).strip.stop with
    | some e => if e < l.pos then closeGap s p else s
    | none => s
  let s := swapCoefs s p l.pos
  let (fv, s) := if needsFree (s.lp p) l then s.freeNat else (0, s)
  let full := fullLine (s.lp p) fv l
  let on := (pieceAt s t sd l.pos).isSome
  let l := (conditionLine (s.lp p) full on).1
  let shows := decide ((s.lp p).cfg.minCols ≤ l.cols)
  let before := match (s.lp p).prev with | some q => decide ((s.lp p).cfg.minCols ≤ q.cols) | none => false
  let s := s.modPort p fun x => gatherStrip x l
  let s := if sd = .front then frontLine (s.modTrack t fun x => { x with quad := false }) t p l.pos shows before else s
  let owner := pieceAt s t sd l.pos
  let c := conditionLine (s.lp p) full owner.isSome
  let l := c.1
  let m := l.pos - sideDelta s t sd
  let l := { l with piece := owner.map (·.num), pline := match owner with | some y => m - y.line0.getD 0 | none => 0 }
  let s := match owner with
    | some y => match y.live, reservedBad s p with
      | true, some a => discardBadLine s t y.num a
      | true, none =>
        let s := if l.pline = 0 ∧ sd = .back then cutSkew s t p y.num else s
        sideLine s t y.num p l.pline.toNat l c.2
      | false, _ => s
    | none => s
  let s := lateSkew s t p m
  let fl := (s.track t).firstLight
  let s := s.modPort p fun x => { x with prev := some { l with raw := full.raw, data := full.data }, storeQ := if fl then [] else x.storeQ ++ [l] }
  let s := pegArbitrate s [] [(feedPeg p, 1)]
  schedule (caughtUp (if fl then judgeCapture s else s))

/-- REGISTERED_LINE_STORED: the oldest registered line of a port reaches the tile store. -/
def execRegisteredLineStored (p : Port) (s : State) : Host.Outcome State Fault Refusal :=
  match (s.lp p).regQ with
  | [] => .next s
  | l :: rest => .next (storeLine (s.modPort p fun x => { x with regQ := rest }) p l)

/-! ### The line window (R50, R74, R75) -/

/-- Entries that a side's window holds (R74). -/
def windowCap (s : State) (p : Port) : Nat :=
  let cfg := (s.lp p).cfg
  let n := (allPorts.filter fun q => (s.lp q).armed).length
  let bytes := if cfg.lwinMiB = 0 then 1048576 * carve s 3 / max 1 n else 1048576 * cfg.lwinMiB
  bytes / cfg.entryBytes

/-- Entries that the newest committed lines keep (R75). -/
def PortCfg.keepLines (c : PortCfg) : Nat := c.stopLines + 16 + 2 * c.sMax + 64

/-- The first line that may not be overwritten on account of a piece kept for a twin (R75, R386). -/
def twinKeepFrom (s : State) (p : Port) : Option Int :=
  let cfg := (s.lp p).cfg
  if cfg.twinKeep || isStandby s then
    ((s.track cfg.track).pieces.find? fun y => !y.posted && y.line0.isSome).map fun y => y.line0.getD 0 + sideDelta s cfg.track cfg.side - 64
  else none

/-- May an entry of the window be overwritten? -/
def overwritable (s : State) (p : Port) (newest : Int) (l : RegLine) : Bool :=
  decide (l.pos + (((s.lp p).cfg.keepLines : Nat) : Int) < newest) && (match twinKeepFrom s p with
    | some k => decide (l.pos < k)
    | none => true)

/-- Free space: entries that may be overwritten (R75). -/
def windowFree (s : State) (p : Port) : Nat :=
  let w := (s.lp p).window
  match w.getLast? with
  | none => windowCap s p
  | some n => windowCap s p - (w.filter fun l => !overwritable s p n.pos l).length

/-- Judge the line-window cause of a track's hold (Table 02-6). -/
def judgeWindow (s : State) (t : Track) : State :=
  let ps := (s.track t).portsOf
  if (s.track t).firstLight || !(s.track t).armed then s
  else if ps.any fun p => decide (windowFree s p < (s.lp p).cfg.stopLines) then
    s.modTrack t fun x => { x with hold := { x.hold with window := true }, held := true }
  else if ps.all fun p => decide ((s.lp p).cfg.stopLines + (s.lp p).cfg.lmax < windowFree s p) then
    s.modTrack t fun x => { x with hold := { x.hold with window := false } }
  else s

/-- Drop the oldest entries that may be overwritten while the window is over its size. -/
def trimWindow (ov : RegLine → Bool) (cap : Nat) : List RegLine → List RegLine
  | [] => []
  | l :: ls => if cap < (l :: ls).length ∧ ov l then trimWindow ov cap ls else l :: ls

/-- Does a line follow the last committed one, so that it may be committed? After lines that found no room, none is until the restart (R51). -/
def windowTakes (s : State) (p : Port) (l : RegLine) : Bool :=
  let x := s.lp p
  match x.window.getLast? with
  | none => true
  | some n =>
    (decide (x.window.length < windowCap s p) || (x.window.head?.any fun h => overwritable s p l.pos h)) &&
    (decide (l.pos ≤ n.pos + 1) || !(s.track x.cfg.track).hold.window)

/-- Once line N + 1 is committed on every armed side, the restart is over for PIECE_IN (R57). -/
def clearAgain (s : State) (t : Track) : State := match (s.track t).again with
  | some k => if (s.track t).portsOf.all fun q => decide (k ≤ committedTop (s.lp q)) then s.modTrack t fun x => { x with again := none } else s
  | none => s

/-- LINE_COMMITTED: the oldest stored line of a port enters the line window. -/
def execLineCommitted (p : Port) (s : State) : Host.Outcome State Fault Refusal :=
  match (s.lp p).storeQ with
  | [] => .next s
  | l :: rest =>
    let takes := windowTakes s p l
    let s := s.modPort p fun x => { x with storeQ := rest }
    let s := if takes then
        let cap := windowCap s p
        let ov := fun (h : RegLine) => overwritable s p l.pos h
        s.modPort p fun x => { x with window := trimWindow ov cap (x.window ++ [l]) }
      else s
    let t := (s.lp p).cfg.track
    .next (judgeWindow (prunePieces (clearAgain s t) t) t)

/-! ### Time-outs and the trailing edge (R81, R83) -/

/-- LEADING_EDGE_TIMEOUT: no line showed paper within lead_win lines of the edge. -/
def execLeadingEdgeTimeout (t : Track) (s : State) : Host.Outcome State Fault Refusal :=
  let win := (((s.lp (s.frontPort t)).cfg.leadWin : Nat) : Int)
  match (s.track t).pieces.find? fun y => y.line0.isNone && y.live && decide (y.edgeLine + win ≤ (s.track t).frontPos) with
  | some y => .next (prunePieces (geomDiscard s t y.num 1) t)
  | none => .next s

/-- The gap after a piece begins: strip lines count from T + trail + 4, shifted by Δ on the back side (R65). When the next PIECE_IN edge has come before, no
strip line falls in the span: no update is made, and the gap is counted. -/
def openGap (s : State) (t : Track) (n : Nat) (e : Int) : State :=
  let past := (s.track t).lastPiece != BitVec.ofNat 32 n
  (s.track t).sides.foldl (fun s x =>
    let a := e + (((s.lp x.2).cfg.trail : Nat) : Int) + 4 + sideDelta s t x.1
    let s := s.modPort x.2 fun p => { p with strip := { p.strip with start := some a, stop := if past then some a else none, n := 0, sum := [] } }
    closeGap s x.2) s

/-- TRAILING_EDGE_FOUND: `trail` front lines without paper fix T and the due line (R23, R83). -/
def execTrailingEdgeFound (t : Track) (s : State) : Host.Outcome State Fault Refusal :=
  let trail := (s.lp (s.frontPort t)).cfg.trail
  match (s.track t).pieces.find? fun y => y.line0.isSome && y.T.isNone && decide (trail ≤ y.blank) with
  | none => .next s
  | some y =>
    let T := y.lastPaper
    let s := modPiece s t y.num fun y => { y with T := some T, due := T + y.due }
    let s := openGap s t y.num (y.line0.getD 0 + ((T : Nat) : Int))
    let s := (s.track t).portsOf.foldl (fun s p => pressSideDone s t y.num p) s
    .next (schedule (prunePieces s t))

/-- OVERLENGTH: no trailing edge by piece line Lmax + trail. -/
def execOverlength (t : Track) (s : State) : Host.Outcome State Fault Refusal :=
  let cfg := (s.lp (s.frontPort t)).cfg
  match (s.track t).pieces.find? fun y => y.T.isNone && y.live && (match y.line0 with
      | some l => decide (l + ((cfg.lmax + cfg.trail : Nat) : Int) ≤ (s.track t).frontPos)
      | none => false) with
  | some y => .next (geomDiscard s t y.num 2)
  | none => .next s

/-! ### PIECE_IN (R15, R57, R374) -/

/-- Is an edge at this position one of a recorded piece again, during a restart (R57)? -/
def sameEdge (s : State) (t : Track) : Bool :=
  let x := s.track t
  (x.held || x.rested || x.restart.isSome || x.again.isSome || feedHold s t) && x.edges.any fun e =>
    let d := x.position - e
    let lines := 64 * x.divisor
    decide (-lines ≤ d * 65536 ∧ d * 65536 ≤ lines)

/-- A piece as it is numbered. -/
def newPiece (s : State) (t : Track) : Piece :=
  { (default : Piece) with num := s.nextPiece.toNat, edgePos := (s.track t).position, edgeLine := (s.track t).encLine }

/-- The gaps of a track's sides end at the edge. -/
def endGap (s : State) (t : Track) : State :=
  (s.track t).sides.foldl (fun s x =>
    let e := (s.track t).encLine + sideDelta s t x.1
    let s := s.modPort x.2 fun p => { p with strip := { p.strip with stop := if p.strip.start.isSome then some e else none } }
    if e < (s.lp x.2).nextPos ∧ (s.lp x.2).regQ.isEmpty then closeGap s x.2 else s) s

/-- Number a piece: a piece that still searches is discarded, the gap update follows, and dead colour lines are recorded (R42, R65, R374). -/
def numberPiece (s : State) (t : Track) : State :=
  let s := match (s.track t).pieces.find? fun y => y.line0.isNone && y.live with
    | some y => geomDiscard s t y.num 1
    | none => s
  let pc := newPiece s t
  let s := s.modTrack t fun x => { x with pieces := x.pieces ++ [pc], edges := x.edges ++ [x.position], lastPiece := s.nextPiece, numbered := true }
  let s := { s with nextPiece := s.nextPiece + 1 }
  let s := endGap (s.portCnt (s.frontPort t) 7) t
  (s.track t).sides.foldl (fun s x => diagDead s t pc.num x.1 (s.lp x.2).deadCols) s

/-- An accepted edge numbers a piece on an armed track; it is only counted on a track not armed or being disarmed. -/
def takeEdge (s : State) (t : Track) : State :=
  let x := s.track t
  if !x.armed || x.disarm.isSome then s.portCnt (s.frontPort t) 16
  else if sameEdge s t then s
  else numberPiece s t

/-- PIECE_IN_EDGE: the edges accepted in one port cycle, on track A, on track B or on both; of two, the piece of track A takes the lower number (R15). -/
def execPieceInEdge (e : EdgeP) (s : State) : Host.Outcome State Fault Refusal :=
  let s := if e.a then takeEdge s .A else s
  .next (if e.b then takeEdge s .B else s)

/-! ### The check window (R56) -/

/-- One colour of a check line conditioned; the sub-line correction needs the line before. -/
def checkData (x : PortState) (l : ColLine) : Option (List Nat) :=
  let cfg := x.cfg
  let k := coefCol (x.inUse.getD default) l.col
  let a := condLine cfg k l.raw
  let corr := cfg.switched && cfg.subline && l.col != 0
  let d := if corr then
      (x.check.find? fun q => q.pos == l.pos - 1 && q.col == l.col).map fun q =>
        if l.col = 1 then subLine 2 1 a (condLine cfg k q.raw) else subLine 1 2 a (condLine cfg k q.raw)
    else some a
  d.map fun d => let d := averageLine cfg.xavg d; if cfg.mirror && cfg.side == .back then d.reverse else d

/-- Sum of absolute differences and number of samples compared at a shift. -/
def checkDiff (x : PortState) (sh : Int) : Nat × Nat :=
  x.check.foldl (fun acc l =>
    match x.window.find? (fun w => w.pos == l.pos + sh), checkData x l with
    | some w, some d =>
      let b := w.data.getD l.col []
      if b.isEmpty then acc else (acc.1 + sumNat ((List.range d.length).map fun i => absDiff (d.getD i 0) (b.getD i 0)), acc.2 + d.length)
    | _, _ => acc) (0, 0)

/-- Shifts in the order in which a tie is decided: the smaller first (log 28). -/
def shiftsOf (m : Nat) : List Int := (List.range (m + 1)).flatMap fun (i : Nat) => if i = 0 then [(0 : Int)] else [-(i : Int), (i : Int)]

/-- The best shift of a side with its difference as sum and count. -/
def bestShift (x : PortState) : Int × Nat × Nat :=
  (shiftsOf x.cfg.sMax).foldl (fun (b : Int × Nat × Nat) sh =>
    let d := checkDiff x sh
    if d.2 = 0 then b else if b.2.2 = 0 ∨ d.1 * b.2.2 < b.2.1 * d.2 then (sh, d.1, d.2) else b) (0, 0, 0)

/-- Does a side match: a mean difference within the limit? LP_REFEED_TOL.diff is on the 8-bit scale; at depth 16 the rule gives it no scale, and the model takes it
times 256, as it takes the edge threshold (DESIGN CHOICE, log 23). -/
def sideMatches (x : PortState) (b : Int × Nat × Nat) : Bool :=
  decide (0 < b.2.2 ∧ b.2.1 ≤ x.cfg.diff * (if x.cfg.depth16 then 256 else 1) * b.2.2)

/-- The restart succeeds: the phase takes the shift, and line N + 1 is next (R18, R56). -/
def resumeAt (s : State) (t : Track) (n sh : Int) : State :=
  let s := s.modTrack t fun x => { x with phase := x.unwrapped - n * x.divisor + sh * x.divisor, encLine := n, highMark := x.position,
                                          restart := none, restartBad := false, lastLine := none }
  let s := (s.track t).portsOf.foldl (fun s p => s.modPort p fun x => { x with check := [], colLines := [], nextPos := n + 1 }) s
  let mark := fun (y : Piece) => { y with restarted := true, diag := addDiag y.diag 7 .front (n - y.line0.getD 0).toNat (toBits sh 32) }
  s.modTrack t fun x => { x with pieces := mapWhere inFlight mark x.pieces }

/-- Has a side captured its check window whole: three colours of sixteen lines? -/
def checkWhole (x : PortState) : Bool := decide (48 ≤ x.check.length)

/-- CHECK_WINDOW_CAPTURED: the check window is matched on every side; an uncorrectable word of the window discards the piece (R56, R417). -/
def execCheckWindowCaptured (t : Track) (dramBad : Bool) (s : State) : Host.Outcome State Fault Refusal :=
  match (s.track t).restart with
  | none => .next s
  | some r =>
    if r.drop ≠ 0 ∨ !((s.track t).portsOf.all fun p => checkWhole (s.lp p)) then .next s
    else if dramBad then .next (failRestart (logHealth s (HealthEntry.of 14 0)) t .dramUncorrectable)
    else
      let rs := (s.track t).portsOf.map fun p => (s.lp p, bestShift (s.lp p))
      if rs.all fun q => sideMatches q.1 q.2 then .next (resumeAt s t r.N ((rs.headD (default, 0, 0, 0)).2.1))
      else .next (failRestart s t .refeedMismatch)

end Sys2Proof.Machine
end

