-- ==== Sys2Proof/Machine/Arming.lean ====
section
/-! DEFINITION. SCAN_ARM with its limits (R29, R30, R38, R40, R63, R76, R87, R232, R271, R451), reserved tiles and their moves (R77, R79),
SCAN_DISARM (R54), the start of CAL_RUN (R62, R63), and the end of a region's drain (R108). -/

namespace Sys2Proof.Machine

open Sys2Proof

/-! ### Ports of a track (R29) -/

/-- The enabled ports that LP_MAP gives to a side of a track. -/
def mappedPorts (s : State) (t : Track) (sd : Side) : List Port :=
  allPorts.filter fun p => bitsOf (lpMap s) (4 * p.val + 2) (4 * p.val) == trackNum t + 2 * sideNum sd + 4

/-- The track that LP_MAP gives a port to. -/
def portTrack (s : State) (p : Port) : Track := trackOf (bitsOf (lpMap s) (4 * p.val) (4 * p.val))

/-- The ports of a SCAN_ARM; none when the map breaks R29: a side with two ports, a side asked for with none, a back side without a front, a port
that the other track holds (log 29), or a track with a back side and no front side, whichever track is armed. -/
def armPorts (s : State) (t : Track) (sides : Nat) : Option (Port × Option Port) :=
  let free := fun (p : Port) => !(s.lp p).armed
  let twice := allTracks.any fun t => decide (1 < (mappedPorts s t .front).length ∨ 1 < (mappedPorts s t .back).length)
  let backOnly := allTracks.any fun t => (mappedPorts s t .front).isEmpty && !(mappedPorts s t .back).isEmpty
  if twice || backOnly || !bitAt sides 0 then none
  else match mappedPorts s t .front, mappedPorts s t .back with
    | [f], bs => if !free f then none else if !bitAt sides 1 then some (f, none) else match bs with
      | [b] => if free b then some (f, some b) else none
      | _ => none
    | _, _ => none

/-! ### Limits (R30, R38, Table 02-4) -/

/-- The first row of Table 02-4 that a port fails at a line rate of `f`. -/
def rateRow (c : PortCfg) (f : Nat) : Option Nat :=
  let cap := if c.width ≤ 8192 then 64000 else 32000
  let b := ceilDiv (16 + 3 * ceilDiv c.width 2) c.lanes + 1
  if c.width = 0 ∨ 16384 < c.width then some 1
  else if ¬ c.switched ∧ c.width ≤ 8192 ∧ cap < f then some 2
  else if ¬ c.switched ∧ 8192 < c.width ∧ cap < f then some 3
  else if 1200000000 < 3 * c.width * f then some 4
  else if c.laneRate * 1000000 < 8 * b * 3 * f then some 5
  else if c.switched ∧ cap < 3 * f then some 6
  else none

/-- Entries of a window once `n` sides are armed (R74). -/
def armEntries (s : State) (c : PortCfg) (n : Nat) : Nat :=
  (if c.lwinMiB = 0 then 1048576 * carve s 3 / max 1 n else 1048576 * c.lwinMiB) / c.entryBytes

/-- Does the window hold too few entries (R76)? -/
def windowShort (s : State) (c : PortCfg) (n : Nat) : Bool :=
  decide (armEntries s c n < c.keepLines) || (c.twinKeep && decide (armEntries s c n < c.stopLines + c.lmax + 128))

/-- The armed maximum line rate requested for a track. -/
def rateMax (s : State) (t : Track) : Nat := trackReg s t 0

/-- The first limit that a port fails, as its cause (Table 11-7; order: log 29). -/
def portLimit (s : State) (first : Bool) (f n : Nat) (p : Port) (c : PortCfg) : Option Nat :=
  if c.laneRate < 400 ∨ 2000 < c.laneRate then some 17
  else if ¬ c.switched ∧ (c.offs.filter (· == 0)).length ≠ 1 then some 23
  else if first ∧ ¬ c.switched then some 24
  else if (s.lp p).calKey ≠ some (c.width, c.switched) ∨ (s.lp p).inUse.isNone then some 18
  else if first ∧ 16000 < f then some 2
  else match rateRow c f with
    | some r => some r
    | none => if !first && windowShort s c n then some 19 else none

/-- Does a side exceed the plan's envelope (R87, R232)? -/
def exceedsPlan (pl : PlanRec) (f : Nat) (c : PortCfg) : Bool :=
  decide (pl.op.rate < f ∨ pl.op.width < c.condWidth ∨ pl.op.offset < c.maxOff ∨ pl.skewK < c.skewK)

/-! ### Reserved tiles (R77) -/

/-- ⌈q · tan 15°⌉ for a rational q ≥ 0: tan 15° = 2 − √3. -/
def ceilTan15 (q : Rat) : Nat :=
  let a := q.num.toNat
  if a = 0 then 0 else (2 * a - Nat.sqrt (3 * a * a) - 1) / q.den + 1

/-- Press tiles of a side. -/
def pressTiles (p : Port) (c : PortCfg) : Nat :=
  let px := Config.pitchX p.val * ((c.xavg : Nat) : Rat)
  let py := Config.pitchY p.val
  ceilDiv ((ceilTan15 (((c.condWidth : Nat) : Rat) * px / py) + 2) * c.lineBytes) (3 * 524288)

/-- Does a tile hold resident weights of a pinned model? -/
def pinnedOn (s : State) (t : Nat) : Bool :=
  s.sched.models.any fun m => modelPinned s m && (match findPlan s m.plan with
    | some p => p.low.image.any fun e => decide (tsTile e.1 ≤ t ∧ t ≤ tsTile (e.1 + e.2.length - 1) ∧ e.2 ≠ [])
    | none => false)

/-- The class of the job that holds a tile. -/
def tileClass (s : State) (t : Nat) : Option Nat := (s.tile t).job.bind fun j => (findJob s j).map (·.cls)

/-- May a reservation take a tile? -/
def mayReserve (s : State) (t : Nat) : Bool :=
  let x := s.tile t
  !x.failed && !x.gone && x.resv.isNone && !x.reload && (s.reg8 (Fin.ofNat 8 (t / 32))).state == 0 && !pinnedOn s t && tileClass s t != some 0

/-- The order of preference of R77, the lower first. -/
def reserveKey (s : State) (p : Port) (t : Nat) : List Nat :=
  let other := (List.range 32).any fun i => match (s.tile (t / 32 * 32 + i)).resv with
    | some q => q != p
    | none => false
  [b2n (s.tile t).job.isSome, b2n other, t / 32, 31 - t % 32]

/-- The tiles of one side, taken one after another. -/
def pickReserved (s : State) (p : Port) (n : Nat) : Option (List Nat) :=
  let ts := sortBy (fun a b => lexLe (reserveKey s p a) (reserveKey s p b)) ((List.range 256).filter (mayReserve s))
  if ts.length < n then none else some (ts.take n)

/-- Reserve tiles for a side: the first is the rinse tile. A job on a tile becomes a victim (R77). -/
def reserveTiles (s : State) (p : Port) (n : Nat) : Option State :=
  (pickReserved s p n).map fun ts =>
    let s := ts.foldl (fun s t =>
      let s := match (s.tile t).job with
        | some j => modJob s j fun x => { x with victim := true }
        | none => s
      s.modTile t fun x => { x with resv := some p }) s
    s.modPort p fun x => { x with reserved := (List.range n).map fun i => (ts.getD i 0, b2n (decide (0 < i))) }

/-- Release a side's tiles. -/
def releaseTiles (s : State) (p : Port) : State :=
  let s := (s.lp p).reserved.foldl (fun s t => s.modTile t.1 fun x => { x with resv := none, idleSince := s.now }) s
  s.modPort p fun x => { x with reserved := [] }

/-! ### Regions that drain (R79, R108, R250) -/

/-- Has a region a running segment or a reservation? -/
def regionHeld (s : State) (g : Nat) : Bool :=
  (List.range 32).any fun i => (s.tile (32 * g + i)).resv.isSome ||
    (match (s.tile (32 * g + i)).job with
      | some j => (findJob s j).any fun x => x.state == .running
      | none => false)

/-- A stale plan's handle becomes invalid when a region is DRAINED (R250). -/
def invalidate (s : State) : State :=
  { s with plans := { s.plans with loaded := mapWhere (·.stale) (fun p => { p with invalid := true }) s.plans.loaded } }

/-- Regions that drain and hold nothing more are DRAINED. -/
def settleDrains (s : State) : State :=
  (List.range 8).foldl (fun s g =>
    let r : Region := Fin.ofNat 8 g
    if (s.reg8 r).state = 1 ∧ ¬ regionHeld s g then invalidate (s.modRegion r fun x => { x with state := 2 }) else s) s

/-- Has a piece's last line passed press on a side: pressed, or, for a piece that is no longer read, stored and let go? -/
def sideThrough (s : State) (t : Track) (y : Piece) (sd : Side) (p : Port) : Bool :=
  (y.side sd).pressed || (!y.live && (match y.line0, y.T, (s.lp p).prev with
    | some l, some T, some q => decide (l + ((T : Nat) : Int) + sideDelta s t sd ≤ q.pos)
    | _, _, _ => false))

/-- Is the track at a page boundary: every numbered piece has its T found and its last line pressed on every armed side, or has no line 0 yet (R79)? -/
def pageBoundary (s : State) (t : Track) : Bool :=
  (s.track t).pieces.all fun y => y.line0.isNone || (y.T.isSome && (s.track t).sides.all fun x => sideThrough s t y x.1 x.2)

/-- Move one side's reservation to tiles outside draining regions. -/
def moveReservation (s : State) (p : Port) : Option State :=
  reserveTiles (releaseTiles s p) p (s.lp p).reserved.length

/-- Does a side's reservation lie in a region that drains? -/
def resvDraining (s : State) (p : Port) : Bool := (s.lp p).reserved.any fun t => (s.reg8 (Fin.ofNat 8 (t.1 / 32))).state == 1

/-- RESERVATION_MOVE: at a page boundary the reservations of a track leave draining regions; one that finds no tiles stays. -/
def execReservationMove (t : Track) (s : State) : Host.Outcome State Fault Refusal :=
  if !pageBoundary s t then .next s
  else .next (settleDrains ((s.track t).portsOf.foldl (fun s p =>
    if resvDraining s p then (moveReservation s p).getD s else s) s))

/-! ### Codec engines of armed sides (R339) -/

/-- Armed sides whose images need an engine take free ones, the lowest first. -/
def assignEngines (s : State) : State :=
  allPorts.foldl (fun s p =>
    let x := s.lp p
    if x.armed && x.engine.isNone && !(s.track x.cfg.track).firstLight && (bitAt x.cfg.imgOut 1 || bitAt x.cfg.imgOut 2) then
      match (List.range 8).find? fun i => s.engines.toList.getD i .free == .free with
      | some i => { (s.modPort p fun x => { x with engine := some i }) with engines := s.engines.set (i % 8) (.side p) (Nat.mod_lt i (by decide)) }
      | none => s
    else s) s

/-- Free a side's engine. -/
def freeEngine (s : State) (p : Port) : State :=
  { (s.modPort p fun x => { x with engine := none }) with engines := s.engines.map fun e => if e = .side p then .free else e }

/-! ### SCAN_ARM -/

/-- The completion of a refused SCAN_ARM; port 0xFF where the cause names none (log 29). -/
def scanLimit (s : State) (r : RingRef) (h : Hdr) (cause port plan : Nat) : State :=
  complete s r h 0x01 .scanLimit (leBytes 1 cause ++ leBytes 1 port ++ zeros 2 ++ leBytes 4 plan)

/-- A port is armed. -/
def armPort (s : State) (p : Port) (c : PortCfg) (e : Int) : State :=
  let s := s.modPort p fun x =>
    { x with armed := true, cfg := c, trigs := [], colLines := [], nextPos := e + 1, regQ := [], storeQ := [], window := [], prev := none,
             queued := none, building := none, strip := default, gapDiscards := 0, lastFe := none, switchedBy := none, check := [], edgePts := [],
             sidePts := [], lamps := [] }
  if c.switched then s else lampsOn s p

/-- A track is armed: its divider starts with phase 0 (R45 states no phase at SCAN_ARM: DESIGN CHOICE, log 67), and the SCAN_DISARM and twin causes clear (R50, R58, R390). -/
def armTrack (s : State) (t : Track) (f : Port × Option Port) (plan : Nat) : State :=
  let d := trackReg s t 4
  let enc := regGet s 0 0x10404
  let rate := rateMax s t
  let off := bitsOf (trackReg s t 8) 11 0
  let rev := bitAt enc (match t with | .A => 3 | .B => 11)
  let b := s.basket.hold
  s.modTrack t fun x =>
    { x with armed := true, firstLight := plan == 0xFFFFFFFF, front := some f.1, back := f.2, plan := plan, armedMax := rate, delta := off,
             divN := bitsOf d 31 16, divF := bitsOf d 15 0, highMark := x.position, phase := 0, frontPos := x.encLine, lastTrig := none, lastLine := none, period := 0,
             subDue := [], quad := false, hold := { x.hold with window := false, basket := b && plan != 0xFFFFFFFF, disarm := false, twin := false },
             held := false, rested := false, again := none, restart := none, restartBad := false, edges := [], pieces := x.pieces.filter (fun y => !y.posted), rev := rev }

/-- Have the jobs left every tile reserved for a track's sides? -/
def tilesClear (s : State) (t : Track) : Bool :=
  (s.track t).portsOf.all fun p => (s.lp p).reserved.all fun x => (s.tile x.1).job.isNone

/-- SCAN_ARMs that wait for saves complete once their tiles are clear (R77). -/
def finishArms (s : State) : State :=
  allTracks.foldl (fun s t => match (s.track t).arming with
    | some (r, h, _) => if tilesClear s t then complete (s.modTrack t fun x => { x with arming := none }) r h 0x01 .ok else s
    | none => s) s

/-- Reserve for every side; none when one finds no tiles. -/
def reserveAll (s : State) : List (Port × PortCfg) → Option State
  | [] => some s
  | (p, c) :: rest => (reserveTiles s p (1 + pressTiles p c)).bind fun s => reserveAll s rest

/-- Arm with every check passed but wardrobe and tiles. -/
def armNow (s : State) (r : RingRef) (h : Hdr) (o : ScanArmOp) (t : Track) (f : Port × Option Port) (cs : List (Port × PortCfg)) (plan : Nat) : State :=
  match reserveAll s cs with
  | none => scanLimit s r h 20 ((cs.headD (0, default)).1.val) 0
  | some s =>
    let e := (s.track t).encLine
    let s := cs.foldl (fun s c => armPort s c.1 c.2 e) s
    let s := assignEngines (armTrack s t f plan)
    let s := cs.foldl (fun s c => if c.2.switched then s else deadRecovery s c.1 (s.lp c.1).deadCols) s
    finishArms (sendSync (s.modTrack t fun x => { x with arming := some (r, h, o) }))

/-- The plan that a SCAN_ARM names, as a FEED plan; the status otherwise. -/
def armPlan (s : State) (r : RingRef) (o : ScanArmOp) : Option PlanRec := planOf s r.fn o.plan

/-- SCAN_ARM's effect once its start checks have passed. -/
def runScanArm (s : State) (r : RingRef) (h : Hdr) (o : ScanArmOp) : State :=
  let t := trackOf o.track
  let first := o.plan == 0xFFFFFFFF && decide (s.boot.stage < 6)
  if o.sides % 4 = 0 then complete s r h 0x01 .badDescriptor (leBytes 1 17)
  else if s.boot.stage < 6 ∧ (!first ∨ 5 ≤ s.boot.stage) then complete s r h 0x01 .badState
  else if !first && (armPlan s r o).isNone then complete s r h 0x01 .planUnknown
  else if (s.track t).armed then complete s r h 0x01 .badState
  else match armPorts s t o.sides with
    | none => scanLimit s r h 16 0xFF 0
    | some f =>
      let ps := [(f.1, Side.front)] ++ (match f.2 with | some b => [(b, Side.back)] | none => [])
      let cs := ps.map fun x => (x.1, portCfg s x.1 t x.2)
      let rate := rateMax s t
      let n := cs.length + (allPorts.filter fun q => (s.lp q).armed).length
      match cs.findSome? fun c => (portLimit s first rate n c.1 c.2).map fun k => (k, c.1.val) with
      | some (k, p) => scanLimit s r h k p 0
      | none =>
        if first then armNow s r h o t f cs 0xFFFFFFFF
        else match armPlan s r o with
          | none => complete s r h 0x01 .planUnknown
          | some pl =>
            if !pl.c.feed then scanLimit s r h 22 0xFF pl.handle
            else match cs.find? fun c => exceedsPlan pl rate c.2 with
              | some c => scanLimit s r h 22 c.1.val pl.handle
              | none =>
                if !pinFits s pl then scanLimit s r h 21 0xFF pl.handle
                else armNow s r h o t f cs pl.handle

/-! ### CAL_RUN (R62, R63) -/

/-- Begin a CAL_RUN: the lamps are off for the dark lines. -/
def startCal (s : State) (r : RingRef) (h : Hdr) (o : CalRunOp) : State :=
  let p : Port := Fin.ofNat 4 o.port
  let c := portCfg s p (portTrack s p) .front
  let s := s.modPort p fun x =>
    { x with cfg := c, trigs := [], cal := some { r := r, hdr := h, op := o, switched := c.switched, issued := 0, darkN := [0, 0, 0], darkSum := [[], [], []],
                                                  lampN := [0, 0, 0], lampSum := [[], [], []] } }
  lampsOff s p

/-- CAL_RUNs that wait start when their port's track is not armed and no other runs on the port. -/
def startCals (s : State) : State :=
  allPorts.foldl (fun s p => match (s.lp p).calWait with
    | (r, h, o) :: rest =>
      if (s.lp p).armed || (s.lp p).cal.isSome || (s.track (portTrack s p)).armed then s
      else startCal (s.modPort p fun x => { x with calWait := rest }) r h o
    | [] => s) s

/-- CAL_RUN's effect: it waits until the track is disarmed; a standby refuses it (R386). -/
def runCalRun (s : State) (r : RingRef) (h : Hdr) (o : CalRunOp) : State :=
  if isStandby s then complete s r h 0x03 .badState
  else startCals (s.modPort (Fin.ofNat 4 o.port) fun x => { x with calWait := x.calWait ++ [(r, h, o)] })

/-! ### SCAN_DISARM (R54) -/

/-- What an end of arming gives up: tiles, engines, lamps. -/
def disarmPorts (s : State) (t : Track) : State :=
  let s := (s.track t).portsOf.foldl (fun s p => (lampsOff (freeEngine (releaseTiles s p) p) p).modPort p fun x => { x with armed := false }) s
  s.modTrack t fun x => { x with armed := false, firstLight := false, front := none, back := none, restart := none, held := false, rested := false, again := none, subDue := [] }

/-- The track is disarmed: everything it held is released and the SCAN_DISARMs complete. -/
def disarmTrack (s : State) (t : Track) (ds : List (RingRef × Hdr)) : State :=
  let s := disarmPorts s t
  let s := match (s.track t).arming with
    | some (r, h, _) => complete s r h 0x01 .badState
    | none => s
  let s := s.modTrack t fun x => { x with disarm := none, arming := none, hold := { x.hold with disarm := true } }
  let s := ds.foldl (fun s d => complete s d.1 d.2 0x02 .ok) s
  schedule (startCals (settleDrains (assignEngines s)))

/-- A forced disarm (R421): at once, with the SCAN_DISARM cause standing. -/
def forceDisarm (s : State) (t : Track) : State :=
  if (s.track t).armed then disarmTrack s t (match (s.track t).disarm with | some d => d.1 | none => []) else s

/-- SCAN_DISARM's effect. -/
def runScanDisarm (s : State) (r : RingRef) (h : Hdr) (track : Nat) : State :=
  let t := trackOf track
  if !(s.track t).armed then complete s r h 0x02 .ok
  else s.modTrack t fun x => { x with disarm := some (match x.disarm with
    | some (ds, ns) => (ds ++ [(r, h)], ns)
    | none => ([(r, h)], (x.pieces.filter fun y => !y.posted).map (·.num))) }

/-- SCAN_DISARM_GAP: every piece numbered before has its trailing edge or is discarded (R54). -/
def execScanDisarmGap (t : Track) (s : State) : Host.Outcome State Fault Refusal :=
  match (s.track t).disarm with
  | none => .next s
  | some (_, ns) =>
    if ns.all fun n => match findPiece s t n with
        | some y => y.T.isSome || y.status != .ok || y.posted
        | none => true then
      .next (s.modTrack t fun x => { x with hold := { x.hold with disarm := true } })
    else .next s

/-- SCAN_DISARM_EFFECT: the last verdict fold of those pieces has committed (R54). -/
def execScanDisarmEffect (t : Track) (s : State) : Host.Outcome State Fault Refusal :=
  match (s.track t).disarm with
  | none => .next s
  | some (ds, ns) =>
    if (s.track t).hold.disarm && ns.all fun n => match findPiece s t n with
        | some y => y.posted || (s.track t).hold.twin
        | none => true then
      .next (disarmTrack s t ds)
    else .next s

end Sys2Proof.Machine
end

