-- ==== Sys2Proof/Machine/Cells.lean ====
section
/-! DEFINITION. What the cells of a segment do: the form of a slot program (R92, R99, R120, R237, R243), context-relative accesses in slot order with their
checks (R127, R131, R132, R138 to R140), bank clashes (R130), stamps (R243 to R245), scale streams (R165 to R168), uncorrectable words (R134, R135), and the
work of every personality (R92 to R97, chapters 06 to 08). -/

namespace Sys2Proof.Machine

open Sys2Proof

/-! ### The run of a segment -/

/-- An error of a segment: its place in the order of R140, R167 and R245, what the job completes with, the tile that it is charged to, whether it is a
bank clash, and its log entry. -/
structure SegEvent where
  key : List Nat
  st : Status
  detail : List Byte
  tile : Nat
  clash : Bool
  log : Option HealthEntry
deriving DecidableEq, Repr, Inhabited

/-- A running segment: the machine, operand registers, the stamp table by tile and buffer with generation and full bit, words on their way by step and
element, steps that their stamp has stopped, errors found, operations whose scale stream is out of step and blocks used by operation and operand (R166),
sequences whose part ended with PAGE_SHARED (R210) or at an ABSENT entry (R211), weights rows with an uncorrectable word. -/
structure SegRun where
  s : State
  regs : List (Nat × List Byte)
  stamps : List (Nat × (Nat × Bool))
  flight : List ((Nat × Nat) × List Byte)
  stopped : List Nat
  events : List SegEvent
  badOps : List Nat
  blocks : List ((Nat × Nat) × Nat)
  shared : List Nat
  absent : List Nat
  badRows : List Nat

/-- An operand register; one that nothing in the segment has loaded holds zeros. -/
def SegRun.reg (r : SegRun) (k : Nat) : List Byte := (smFind r.regs k).getD (zeros 32)

def SegRun.setReg (r : SegRun) (k : Nat) (w : List Byte) : SegRun := { r with regs := smInsert r.regs k (slice w 0 32) }

/-- FP32 lane `i` of registers from `k` on. -/
def SegRun.lane (r : SegRun) (k i : Nat) : Word32 := BitVec.ofNat 32 (elemGet 7 (r.reg (k + i / 8)) (i % 8))

/-- Lanes of registers from `k` on. -/
def SegRun.lanes (r : SegRun) (k n : Nat) : List Word32 := (List.range n).map (r.lane k)

def SegRun.setLane (r : SegRun) (k i : Nat) (v : Word32) : SegRun :=
  r.setReg (k + i / 8) (elemSet 7 (r.reg (k + i / 8)) (i % 8) v.toNat)

/-- Put words in named registers. -/
def SegRun.setRegs (r : SegRun) (ks : List Nat) (ws : List (List Byte)) : SegRun := (ks.zip ws).foldl (fun r e => r.setReg e.1 e.2) r

def SegRun.event (r : SegRun) (e : SegEvent) : SegRun := { r with events := r.events ++ [e] }

/-- Blocks of an operand of an operation that the job has used. -/
def SegRun.block (r : SegRun) (op operand : Nat) : Nat := ((r.blocks.find? fun e => e.1 == (op, operand)).map (·.2)).getD 0

def SegRun.addBlocks (r : SegRun) (op operand n : Nat) : SegRun :=
  { r with blocks := (r.blocks.filter fun e => e.1 != (op, operand)) ++ [((op, operand), r.block op operand + n)] }

/-- The physical tile of a relative one. -/
def relTile (c : CtxPairs) (t : Nat) : Nat := (t + c.sShift) % 256

/-! ### The form of a slot program -/

/-- The access of an operation, and whether it writes. -/
def opAcc : CellOp → Option (Acc × Bool)
  | .rd a _ => some (a, false)
  | .wr a _ => some (a, true)
  | _ => none

/-- The fabric cycle in which the bank serves element `k` of a step's access: the cycle of issue, a later slot for an element whose bank serves another one of
the run first (R120), and for a write the time that it takes to arrive (R132). -/
def serveCycle (c : CtxPairs) (e : CellStep) (a : Acc) (write : Bool) (k : Nat) : Nat :=
  let ps := accPlaces a
  let off := (runOffsets (ps.map fun x => x.bank)).getD k 0
  e.cycle + off + (if write then writeDelay (relTile c e.tile) (tsTile ((ps.getD k default).phys c)) else 0)

/-- Which personality does an operation (Table 04-2): cells of every kind reach the tile store and the page pool. -/
def persDoes : Pers → CellOp → Bool
  | _, .rd .. | _, .wr .. | _, .kvWr .. | _, .kvRd .. | _, .logRd .. => true
  | .dot _ _, .dot .. | .dot _ _, .clr .. | .dot _ _, .attn .. | .dot _ _, .attnBwd .. | .dot _ _, .win (.conv ..) .. => true
  | .vec, .requant .. | .vec, .vec .. | .vec, .conv .. | .vec, .quantDyn .. | .vec, .mxPack .. | .vec, .win (.globDiv ..) .. => true
  | .lut, .lut .. => true
  | .red, .red .. | .red, .win (.poolMax ..) .. | .red, .win (.poolAvg ..) .. | .red, .win (.globSum ..) .. | .red, .win (.argmaxC ..) .. => true
  | .geo, .geo .. | .geo, .win (.resize ..) .. | .geo, .win (.affine ..) .. | .geo, .win (.flip ..) .. | .geo, .win (.crop ..) .. => true
  | _, _ => false

/-- The personality of a cell in a segment. -/
def cellPers (cells : List CellCfg) (tile cell : Nat) : Option Pers := (cells.find? fun x => x.tile == tile && x.cell == cell).map (·.pers)

/-- Is an access's run inside its view, each of its elements in a cell slot, and its buffer one of the 1,024 of its tile (R119 to R121, R237, R243)? -/
def accOk (c : CtxPairs) (e : CellStep) (a : Acc) (write : Bool) : Bool :=
  runOk a.view a.run && decide (a.byteOff + a.len ≤ 32) && ((List.range a.run.n).all fun k => decide (slotAt (serveCycle c e a write k) < 10)) &&
  (match a.stamp with | some (b, _, _) => decide (b < 1024) | none => true)

/-- Is a source window at most 32,767 pixels in each dimension (R182)? -/
def windowSmall (t : TRef) : Bool := decide (t.h ≤ 32767 ∧ t.w ≤ 32767)

/-- May the segment hold this operation: a paged ATTN after its layer's KV_SCATTER, page writes in a KV_SCATTER, page reads in an ATTN (R210, R216), a table of
4 KiB of 8, 16 or 32-bit entries (R95), a source window of its size (R182)? -/
def opOk (j : Job) (w : SegWork) : CellOp → Bool
  | .attn a => match a.paged with
    | some (_, l) => decide (w.cmd = some (true, l)) && j.scattered.contains l
    | none => true
  | .attnBwd b => b.fwd.paged.isNone
  | .kvWr _ l _ _ _ _ _ => decide (w.cmd = some (false, l))
  | .kvRd _ l _ _ _ _ _ => decide (w.cmd = some (true, l)) && j.scattered.contains l
  | .lut _ fmt .. => fmtBits fmt != 4 && !fmtIsMx fmt
  | .geo src .. => windowSmall src
  | .win (.resize _ _) src _ => windowSmall src
  | .win (.affine _ _ _) src _ => windowSmall src
  | _ => true

/-- One step: inside the segment, on a tile of the placement, on a cell that has the personality for it. -/
def stepOk (c : CtxPairs) (set : TileSet) (j : Job) (w : SegWork) (e : CellStep) : Bool :=
  decide (e.cycle < w.cycles) && set.contains (relTile c e.tile) &&
  (match cellPers w.cells e.tile e.cell with
    | some p => persDoes p e.op
    | none => false) &&
  opOk j w e.op && (match opAcc e.op with
    | some (a, wr) => accOk c e a wr
    | none => true)

/-- Has a cell one personality, and only cells of the segment's tiles any (R92)? -/
def cellsOk (c : CtxPairs) (set : TileSet) (cells : List CellCfg) : Bool :=
  (cells.map fun x => (x.tile, x.cell)).Nodup && cells.all fun x => set.contains (relTile c x.tile) && decide (x.cell < 24)

/-- Is the DMA in slot 12, in at most 8 of every 16 consecutive turns of a tile (R129, R237)? -/
def dmasOk (ds : List DmaP) : Bool :=
  ds.all fun d => decide (slotAt d.cycle = 12) &&
    decide (((ds.filter fun x => x.tile == d.tile && decide (d.cycle ≤ x.cycle ∧ x.cycle < d.cycle + 256)).map (·.cycle)).dedup.length ≤ 8)

/-- Is a transfer in a router slot, and does a hem stay in its landing area (R191, R237)? -/
def moveOk (p : PlanRec) (m : MoveP) : Bool :=
  decide (slotAt m.cycle = 10 ∨ slotAt m.cycle = 11) && (match m.kind with
    | .hem op up => (landArea p.low op up).isSome && decide (m.dst + m.len ≤ landSize p.c p.low op up)
    | .far _ => true)

/-- Is a segment's slot program one that the loader emits: at most 280,000 cycles (R235), and all of R237? -/
def progOk (c : CtxPairs) (set : TileSet) (j : Job) (p : PlanRec) (w : SegWork) : Bool :=
  decide (w.cycles ≤ 280000) && cellsOk c set w.cells && w.ops.all (stepOk c set j w) && dmasOk w.dmas && w.moves.all (moveOk p)

/-! ### Bank clashes (R130) -/

/-- A request of a step at a bank: the step, the cycle, the bank and the requesting tile. -/
structure BankReq where
  step : Nat
  cycle : Nat
  bank : Nat
  tile : Nat
deriving DecidableEq, Repr, Inhabited

/-- The requests of one step that reach a bank. -/
def stepReqs (c : CtxPairs) (set : TileSet) (i : Nat) (e : CellStep) : List BankReq :=
  match opAcc e.op with
  | none => []
  | some (a, w) => (accPlaces a).zipIdx.filterMap fun x =>
    if (x.1.check c set w).isNone then
      some { step := i, cycle := serveCycle c e a w x.2, bank := bankOfWord (x.1.phys c), tile := relTile c e.tile }
    else none

/-- Does another request to the same bank in the same cycle go first: one from a lower tile, or an earlier one from the same tile (R130)? -/
def loses (rs : List BankReq) (b : BankReq) : Bool :=
  rs.any fun x => x.cycle == b.cycle && x.bank == b.bank && decide (x.tile < b.tile ∨ (x.tile = b.tile ∧ x.step < b.step))

/-- The requests of a segment that lose their bank. -/
def clashes (c : CtxPairs) (set : TileSet) (ops : List CellStep) : List BankReq :=
  let rs := ops.zipIdx.flatMap fun e => stepReqs c set e.2 e.1
  rs.filter (loses rs)

/-! ### Events -/

/-- Place of an error in the order of R140: cycle, tile, then address (0), stamp (1) or scale (2), then the bank or the operand. -/
def accKey (c : CtxPairs) (cycle tile order sub : Nat) : List Nat := [cycle, relTile c tile, order, sub]

/-- Completion detail of an address or word error (Table 11-7). -/
def accDetail (x : RelPlace) (op : Nat) : List Byte := leBytes 4 x.rel ++ leBytes 4 op

/-- The log entry of an uncorrectable word: its physical address and the cycle (R134). -/
def wordLog (p cycle : Nat) : HealthEntry :=
  { HealthEntry.of 2 cycle with status := some .tsUncorrectable, tile := some (tsTile p), region := some (tsTile p / 32), unit := some (tsBank p), addr := p }

/-- An address check fails (R140). -/
def addrEvent (c : CtxPairs) (cycle tile : Nat) (x : RelPlace) (op : Nat) (st : Status) : SegEvent :=
  { key := accKey c cycle tile 0 x.bank, st := st, detail := accDetail x op, tile := relTile c tile, clash := false, log := none }

/-- An uncorrectable word is read, or a partial write meets one (R134, R135). -/
def wordEvent (c : CtxPairs) (cycle tile : Nat) (x : RelPlace) (op : Nat) : SegEvent :=
  let p := x.phys c
  { key := accKey c cycle tile 0 x.bank, st := .tsUncorrectable, detail := accDetail x op, tile := tsTile p, clash := false, log := some (wordLog p cycle) }

/-- A schedule skew (R245): kind, generations expected and found, the buffer's tile and index. -/
def skewEvent (c : CtxPairs) (cycle tile : Nat) (x : RelPlace) (kind ex found buf : Nat) : SegEvent :=
  let p := x.phys c
  { key := accKey c cycle tile 1 x.bank, st := .scheduleSkew,
    detail := leBytes 1 kind ++ leBytes 1 ex ++ leBytes 1 found ++ zeros 1 ++ leBytes 2 (tsTile p) ++ leBytes 2 buf, tile := tsTile p, clash := kind == 3,
    log := some { HealthEntry.of 6 kind with
      status := some .scheduleSkew, tile := some (tsTile p), region := some (tsTile p / 32), unit := some (tsBank p), addr := p } }

/-- A scale mismatch (R166). -/
def scaleEvent (c : CtxPairs) (cycle tile op operand block : Nat) : SegEvent :=
  { key := accKey c cycle tile 2 operand, st := .scaleSkew, detail := leBytes 1 operand ++ zeros 3 ++ leBytes 4 block ++ leBytes 4 op,
    tile := relTile c tile, clash := false, log := none }

/-! ### Stamps (Table 09-9) -/

/-- An entry of the stamp table: 15 and clear when the segment starts. -/
def stampOf (r : SegRun) (key : Nat) : Nat × Bool := (smFind r.stamps key).getD (15, false)

/-- The answer of the stamp table to an access of generation `n`: the new entry, or the kind of the skew. -/
def stampCheck (write : Bool) (n : Nat) (last : Bool) (e : Nat × Bool) : (Nat × Bool) ⊕ Nat :=
  let n := n % 16
  if write then
    if (e.1 + 1) % 16 = n ∧ e.2 = false then .inl (n, true) else if e.2 then .inr 0 else .inr 1
  else
    if e.1 = n ∧ e.2 then .inl (n, !last) else if (e.1 + 1) % 16 = n then .inr 2 else .inr 1

/-- Judge the stamp of an access at its first element: the generation expected is the access's, the one found the entry's. -/
def stampAccess (c : CtxPairs) (r : SegRun) (i : Nat) (e : CellStep) (a : Acc) (write : Bool) (k cycle : Nat) (x : RelPlace) : SegRun :=
  match a.stamp with
  | none => r
  | some (buf, n, last) =>
    if k ≠ 0 then r
    else
      let key := tsTile (x.phys c) * 1024 + buf
      match stampCheck write n last (stampOf r key) with
      | .inl v => { r with stamps := smInsert r.stamps key v }
      | .inr q => { r.event (skewEvent c cycle e.tile x q (n % 16) (stampOf r key).1 buf) with stopped := r.stopped ++ [i] }

/-! ### Scale streams (R166) -/

/-- The first record of a word whose tag is not its block index mod 256. -/
def scaleBad (w : List Byte) (off block : Nat) : Nat → Option Nat
  | 0 => none
  | n + 1 => if fieldAt w (off + 1) 1 = block % 256 then scaleBad w (off + 2) (block + 1) n else some block

/-- Check the records that a word brings against the blocks that the operation has used of that operand, counted from 0 over the job. -/
def scaleAccess (c : CtxPairs) (r : SegRun) (e : CellStep) (a : Acc) (cycle : Nat) (w : List Byte) : SegRun :=
  match a.scale with
  | none => r
  | some (operand, n) =>
    let b0 := r.block a.op operand
    let r := r.addBlocks a.op operand n
    match scaleBad w a.byteOff b0 n with
    | some b => { r.event (scaleEvent c cycle e.tile a.op operand b) with badOps := r.badOps ++ [a.op] }
    | none => r

/-! ### Reads and writes -/

/-- Which checks of an element come before its bank: its address and its slot (R130, R138). -/
def placeStops (c : CtxPairs) (set : TileSet) (lost : List BankReq) (i : Nat) (e : CellStep) (a : Acc) (write : Bool) (cycle : Nat) (x : RelPlace) :
    Option SegEvent :=
  match x.check c set write with
  | some st => some (addrEvent c cycle e.tile x a.op st)
  | none => if lost.any fun b => b.step == i && b.cycle == cycle && b.bank == bankOfWord (x.phys c) then some (skewEvent c cycle e.tile x 3 0 0 0) else none

/-- Put a word on its way. -/
def SegRun.fly (r : SegRun) (i k : Nat) (w : List Byte) : SegRun := { r with flight := ((i, k), w) :: r.flight }

/-- A word on its way; none is a zero word. -/
def SegRun.flown (r : SegRun) (i k : Nat) : List Byte := ((r.flight.find? fun e => e.1 == (i, k)).map (·.2)).getD (zeros 32)

/-- A bank serves an element of a read: a failing one delivers a zero word; an uncorrectable word is delivered as stored (R134, R140). -/
def serveRead (c : CtxPairs) (set : TileSet) (lost : List BankReq) (r : SegRun) (i : Nat) (e : CellStep) (a : Acc) (k cycle : Nat) : SegRun :=
  let x := (accPlaces a).getD k default
  match placeStops c set lost i e a false cycle x with
  | some v => r.event v
  | none =>
    let r := stampAccess c r i e a false k cycle x
    if r.stopped.contains i then r
    else
      let p := x.phys c
      let y := readWord (r.s.countN famTile (tsTile p) 6 1) p
      let r := { r with s := y.2.2 }
      let r := if y.2.1 = 2 then { r.event (wordEvent c cycle e.tile x a.op) with badRows := if a.weights then r.badRows ++ [tsRow p] else r.badRows } else r
      scaleAccess c (r.fly i k y.1) e a cycle y.1

/-- A bank serves an element of a write: it is dropped when a check fails (R140), or when its operation's scale stream is out of step (R166). -/
def serveWrite (c : CtxPairs) (set : TileSet) (lost : List BankReq) (r : SegRun) (i : Nat) (e : CellStep) (a : Acc) (k cycle : Nat) : SegRun :=
  let x := (accPlaces a).getD k default
  match placeStops c set lost i e a true cycle x with
  | some v => r.event v
  | none =>
    if r.badOps.contains a.op then r
    else
      let r := stampAccess c r i e a true k cycle x
      if r.stopped.contains i then r
      else
        let p := x.phys c
        let y := writeWord (r.s.countN famTile (tsTile p) 6 1) p ((r.flown i k).take a.len)
        let r := { r with s := y.2 }
        if y.1 then r else r.event (wordEvent c cycle e.tile x a.op)

/-- One word of the segment's DMA (R129, R138): context-relative like the rest. -/
def serveDma (c : CtxPairs) (set : TileSet) (r : SegRun) (d : DmaP) : SegRun :=
  let x : RelPlace := { weights := d.weights, tile := d.tile, row := d.row, bank := d.bank, byteOff := 0 }
  match x.check c set d.data.isSome with
  | some st => r.event (addrEvent c d.cycle d.tile x 0xFFFFFFFF st)
  | none =>
    let p := x.phys c
    match d.data with
    | some bs =>
      let y := writeWord r.s p (bs.take 32)
      let r := { r with s := y.2 }
      if y.1 then r else r.event (wordEvent c d.cycle d.tile x 0xFFFFFFFF)
    | none =>
      let y := readWord r.s p
      let r := { r with s := y.2.2 }
      if y.2.1 = 2 then r.event (wordEvent c d.cycle d.tile x 0xFFFFFFFF) else r

/-! ### Accumulators (R93, R146) -/

/-- The key of an accumulator of a tile: 16,384 a tile. -/
def accIndex (t k : Nat) : Nat := t * 16384 + k % 16384

/-- An accumulator; one that the job has not written holds a free value (R146; log 3). -/
def accGet (s : State) (k : Nat) : Word32 := (smFind s.acc k).getD (Config.freeWord k)

def accSet (s : State) (k : Nat) (v : Word32) : State := { s with acc := smInsert s.acc k v }

/-! ### Attention, backward (R203 to R205) -/

/-- The running gradients of a backward row: dq, and dk and dv by key. -/
structure AttnGrad where
  dq : List Word32
  dk : List (List Word32)
  dv : List (List Word32)
deriving DecidableEq, Repr

/-- The probability of key `j` in a backward pass: rebuilt from the logsumexp, or the BF16 value stored. -/
def bwdProb (regs : Nat → List Byte) (b : AttnBwdP) (j : Nat) : Word32 :=
  let a := b.fwd
  let lse : Word32 := match a.lse with
    | some (k, i) => BitVec.ofNat 32 (elemGet 7 (regs (k + i / 8)) (i % 8))
    | none => f32NegInf
  if lse = f32NegInf then 0
  else if b.recompute then attnP regs a lse j
  else toF32 (fmtDecode 6 (elemGet 6 (regs (a.store.getD (j / 16) 0)) (j % 16)))

/-- One key's part of the gradients (R204). -/
def bwdKey (regs : Nat → List Byte) (b : AttnBwdP) (g : AttnGrad) (j : Nat) : AttnGrad :=
  let a := b.fwd
  let p := bwdProb regs b j
  let go := regs32 regs a.dv b.go
  let v := real32 a.fv a.dv a.sv ((a.vs.getD j []).map regs)
  let k := real32 a.fk a.dk a.sk ((a.ks.getD j []).map regs)
  let q := real32 a.fq a.dk a.sq (a.q.map regs)
  let ds := f32Mul a.scale (attnDs p go (regs32 regs a.dv b.o) v)
  { dq := axpy32 ds k g.dq,
    dk := g.dk.set j (axpy32 ds q (g.dk.getD j [])),
    dv := g.dv.set j (axpy32 p go (g.dv.getD j [])) }

/-- The backward pass of one row, added to the gradients in registers. -/
def runBwd (r : SegRun) (b : AttnBwdP) : SegRun :=
  let a := b.fwd
  let g0 : AttnGrad :=
    { dq := regs32 r.reg a.dk b.gq, dk := b.gk.map (regs32 r.reg a.dk), dv := b.gv.map (regs32 r.reg a.dv) }
  let g := (List.range a.ks.length).foldl (bwdKey r.reg b) g0
  let r := r.setRegs b.gq (vecPut32 g.dq)
  let r := (b.gk.zip g.dk).foldl (fun r e => r.setRegs e.1 (vecPut32 e.2)) r
  (b.gv.zip g.dv).foldl (fun r e => r.setRegs e.1 (vecPut32 e.2)) r

/-! ### Pages (R207 to R212) -/

/-- The sequence of a step by its number. -/
def stepSeq (s : State) (seq : Nat) : Option SeqSt := match findSeq s seq with
  | some q => if q.inStep then some q else none
  | none => none

/-- The entry of a position in the version that the running command walks (R216). -/
def walkEntry (s : State) (q : SeqSt) (layer pos : Nat) : Option PtEntry := match findPlan s q.plan with
  | some p => smFind q.walk (layer * pageSpan p.c + pos / 16)
  | none => none

/-- The page of a position in that version. -/
def walkPage (s : State) (seq layer pos : Nat) : Option Nat := (stepSeq s seq).bind fun q => (walkEntry s q layer pos).bind PtEntry.pageNo

/-- The positions of a sequence in a step: its log, and those that the step appends. -/
def SeqSt.positions (q : SeqSt) : List Tok := q.log ++ q.fresh

/-- The layout of a layer's pages (Table 08-5): key–value heads, bytes of a key and bytes of a value. -/
def pageForm (s : State) (plan layer : Nat) : Option (Nat × Nat × Nat) := match findPlan s plan with
  | none => none
  | some p => ((pagedAttn p.c).find? fun o => o.params.getD 9 0 == layer).map fun o =>
    let bytes := fun (i w : Nat) => match (o.ins.filterMap (findTensor p.c))[i]? with
      | some t => w * fmtBits t.fmt / 8
      | none => 0
    (o.params.getD 1 0, bytes 1 (o.params.getD 2 0), bytes 2 (o.params.getD 3 0))

/-- The byte offset of word `part` of a head's key or value at position `p` of a page (Table 08-5); none outside the layout. -/
def pageOffset (f : Nat × Nat × Nat) (head p : Nat) (val : Bool) (part : Nat) : Option Nat :=
  let n := if val then f.2.2 else f.2.1
  if head < f.1 ∧ p < 16 ∧ 32 * part < n then some ((if val then 16 * f.1 * f.2.1 else 0) + (head * 16 + p) * n + 32 * part) else none

/-- Is this the last word that a refill pass writes of a page: of its last position, head and value? -/
def lastWord (q : SeqSt) (f : Nat × Nat × Nat) (pos head : Nat) (val : Bool) (part : Nat) : Bool :=
  (pos % 16 == 15 || pos + 1 == q.preLen) && head + 1 == f.1 && val && decide (f.2.2 ≤ 32 * part + 32)

/-- KV_SCATTER: a word to a page; a shared page is not written, and the sequence's part of the step ends (R210). The refill of a page is complete when its last
word has been written (R223). -/
def runKvWr (r : SegRun) (seq layer pos head : Nat) (val : Bool) (part reg : Nat) : SegRun :=
  match stepSeq r.s seq, walkPage r.s seq layer pos with
  | some q, some pg =>
    if r.shared.contains seq then r
    else if 1 < pageCount r.s pg then { r with shared := r.shared ++ [seq] }
    else match pageForm r.s q.plan layer with
      | none => r
      | some f => match pageOffset f head (pos % 16) val part with
        | none => r
        | some off =>
          let d := ((List.range 32).zip (r.reg reg)).foldl (fun d e => smInsert d (pg * 65536 + off + e.1) e.2) r.s.pool.data
          let s := { r.s with pool := { r.s.pool with data := d } }
          let s := if lastWord q f pos head val part then match findPlan s q.plan with
              | some p => modSeq s seq fun x => { x with refill := x.refill.filter fun k => k != layer * pageSpan p.c + pos / 16 }
              | none => s
            else s
          { r with s := s }
  | _, _ => r

/-- A paged ATTN walks a position: an ABSENT entry below the sequence's length ends its walk for the sequence (R211). -/
def noteWalk (r : SegRun) (seq layer pos : Nat) : SegRun := match stepSeq r.s seq with
  | some q =>
    if pos < q.positions.length ∧ walkEntry r.s q layer pos = some .absent ∧ ¬ r.absent.contains seq then { r with absent := r.absent ++ [seq] } else r
  | none => r

/-- A paged read of a word; a position without a page reads zeros. -/
def runKvRd (r : SegRun) (seq layer pos head : Nat) (val : Bool) (part reg : Nat) : SegRun :=
  let r := noteWalk r seq layer pos
  match stepSeq r.s seq, walkPage r.s seq layer pos with
  | some q, some pg => match (pageForm r.s q.plan layer).bind fun f => pageOffset f head (pos % 16) val part with
    | some off => r.setReg reg ((List.range 32).map fun i => pageByte r.s pg (off + i))
    | none => r.setReg reg (zeros 32)
  | _, _ => r.setReg reg (zeros 32)

/-- The 16 bytes of a token-log entry, in the order of R212's fields. -/
def tokenLogBytes (t : Tok) : List Byte := leBytes 4 t.num ++ leBytes 2 t.x ++ leBytes 2 t.y ++ leBytes 2 t.seg ++ leBytes 1 (b2n t.side) ++ zeros 5

/-- A token-log entry of a position of a sequence in the step, to half `i` of a register (R212, R223). -/
def runLogRd (r : SegRun) (seq pos reg i : Nat) : SegRun :=
  let bs := match (stepSeq r.s seq).bind fun q => q.positions[pos]? with
    | some t => tokenLogBytes t
    | none => zeros 16
  r.setReg reg (putBytes (r.reg reg) (16 * (i % 2)) bs)

/-! ### ATTN -/

/-- What a paged key source gives of a position: the token log's centre, segment and side (R201, R202). A position whose entry is neither PRESENT nor ABSENT is
forbidden whatever the plan names: its place is put beyond every length. -/
def logPos (s : State) (q : SeqSt) (layer : Nat) (p : PosInfo) : PosInfo :=
  let t := q.positions.getD p.pos default
  { pos := if (walkEntry s q layer p.pos).isNone then 2 ^ 32 else p.pos, seg := t.seg, x := t.x, y := t.y, side := t.side }

/-- A row over a paged key source, with the positions, sides and length that its sequence gives; none outside the step. -/
def resolveAttn (s : State) (a : AttnP) : Option AttnP := match a.paged with
  | none => some a
  | some (seq, layer) => (stepSeq s seq).map fun q =>
    let t := q.positions.getD a.qi.pos default
    { a with qi := { pos := a.qi.pos, seg := t.seg, x := t.x, y := t.y, side := t.side }, kj := a.kj.map (logPos s q layer),
             valid := if bitAt a.masks 2 then q.positions.length else 2 ^ 32, masks := a.masks % 4 + 4 }

/-- One forward row: output, logsumexp and, in STORE mode, the probabilities in BF16. -/
def attnForward (r : SegRun) (a : AttnP) : SegRun :=
  let st := attnRow r.reg a
  let out := (attnOut st).map fun x => fmtEncode a.fo a.outInf (f32 x)
  let ps := (List.range a.ks.length).map fun j => fmtEncode 6 false (f32 (attnP r.reg a (attnLse st) j))
  let r := if a.store.isEmpty then r else r.setRegs a.store (vecPut 6 ps)
  let r := r.setRegs a.out (vecPut a.fo out)
  match a.lse with
  | some (k, i) => r.setLane k i (attnLse st)
  | none => r

/-- One forward row: over pages, each key position is walked, and a walk that has ended gives nothing. -/
def runAttn (r : SegRun) (a : AttnP) : SegRun :=
  let r := match a.paged with
    | some (seq, layer) => a.kj.foldl (fun r p => noteWalk r seq layer p.pos) r
    | none => r
  let ends := match a.paged with
    | some (seq, _) => r.absent.contains seq
    | none => false
  match ends, resolveAttn r.s a with
  | false, some b => attnForward r b
  | _, _ => r

/-! ### Operations -/

/-- DOT: two words into an accumulator in the cell's formats; the block scales are bits [7:0] of scale records (R165), and saturating additions are counted
(R153). -/
def runDot (c : CtxPairs) (r : SegRun) (tile fa fb ra rb acc : Nat) (sa sb : Nat × Nat) : SegRun :=
  let k := accIndex (relTile c tile) acc
  let sc := fun (p : Nat × Nat) (i : Nat) => fieldAt (r.reg p.1) (2 * (p.2 + i)) 1
  let x := dotWords fa fb (accGet r.s k) (r.reg ra) (r.reg rb) (sc sa 0) (sc sb 0) (sc sa 1) (sc sb 1)
  { r with s := (accSet r.s k x.1).countN famTile (relTile c tile) 12 x.2 }

/-- Requantisation of an INT32 accumulator (after R159). -/
def runRequant (c : CtxPairs) (r : SegRun) (tile acc : Nat) (scale : Word32) (fmt : Nat) (inf : Bool) (reg i : Nat) : SegRun :=
  let a := accGet r.s (accIndex (relTile c tile) acc)
  let v := f32Mul (f32Rat ((signExt a.toNat 32 : Int) : Rat)) scale
  r.setReg reg (elemSet fmt (r.reg reg) i (fmtEncode fmt inf (f32 v)))

/-- A table look-up on one lane in the 4 KiB table from register `tab` on; a NaN input is counted (R95). -/
def runLut (c : CtxPairs) (r : SegRun) (tile tab fmt : Nat) (base step : Word32) (ra rd i : Nat) : SegRun :=
  let x := r.lane ra i
  let n := elemCount fmt
  let t := (List.range (32768 / fmtBits fmt)).map fun k => toF32 (fmtDecode fmt (elemGet fmt (r.reg (tab + k / n)) (k % n)))
  let r := if fpIsNaN (f32 x) then { r with s := r.s.countN famTile (relTile c tile) 13 1 } else r
  r.setLane rd i (lutLookup t base step x)

/-- RED over lanes (R96): 0 sum, 1 maximum, 2 index of the maximum; integers are INT32 lanes. -/
def runRed (r : SegRun) (op : Nat) (isInt : Bool) (ra n rd i : Nat) : SegRun :=
  let xs := r.lanes ra n
  let v := fun (w : Word32) => if isInt then fpOf ((signExt w.toNat 32 : Int) : Rat) else f32 w
  let top := argMax (xs.map v)
  r.setLane rd i (match op with
    | 0 => if isInt then BitVec.ofNat 32 (toBits (redSumInt (xs.map fun w => signExt w.toNat 32)) 32) else redSumFp xs
    | 1 => if isInt then xs.getD top 0 else (if fpIsNaN (f32 (xs.getD top 0)) then f32NaN else xs.getD top 0)
    | _ => BitVec.ofNat 32 top)

/-- A bilinear sample into an element of a register (R97), narrowed to the output's format (R157, R160). -/
def runGeo (r : SegRun) (src : TRef) (ch : Nat) (x16 y16 : Int) (border : Option Word32) (dst : ElemP) (rd i : Nat) : SegRun :=
  r.setReg rd (elemSet dst.fmt (r.reg rd) i (elemCode dst (tSample r.reg src ch border x16 y16)))

/-- Dynamic quantisation (R162): scale and zero point to lanes 0 and 1 of a register, codes to the registers that follow `rd`. -/
def runQuant (r : SegRun) (fmt mode ra n rs rd : Nat) : SegRun :=
  let q := quantDyn fmt mode (r.lanes ra n)
  let r := (r.setLane rs 0 q.1).setLane rs 1 (BitVec.ofInt 32 q.2.1)
  let ws := vecPut fmt (q.2.2.map fun c => toBits c (fmtBits fmt))
  r.setRegs ((List.range ws.length).map (rd + ·)) ws

/-- An MX block from 32 lanes (R164): its scale record carries the block index of the operation's output mod 256 as its tag (R165, R168). -/
def runMx (r : SegRun) (fmt ra rd rs i op : Nat) : SegRun :=
  let m := mxPack fmt (r.lanes ra 32)
  let b := r.block op 2
  let r := r.setReg rd ((List.range 32).foldl (fun w k => elemSet fmt w k (m.2.getD k 0)) (r.reg rd))
  (r.setReg rs (putBytes (r.reg rs) (2 * i) (leBytes 1 m.1 ++ leBytes 1 b))).addBlocks op 2 1

/-- A window or geometric operator (chapter 07), from one tensor in registers to another; a convolution's saturating additions are counted (R153). -/
def runWin (c : CtxPairs) (r : SegRun) (tile : Nat) (op : WinOp) (src dst : TRef) : SegRun :=
  let vals := match op with
    | .argmaxC (some v) => some (v, argmaxWords r.reg src v)
    | _ => none
  let n := winSats r.reg op src dst
  let r' := r.setRegs dst.regs (winWords r.reg op src dst)
  let r' := if n = 0 then r' else { r' with s := r'.s.countN famTile (relTile c tile) 12 n }
  match vals with
  | some (v, xs) => r'.setRegs v.regs xs
  | none => r'

/-- The operand formats of a DOT cell (R93). -/
def persFormats : Pers → Nat × Nat
  | .dot a b => (a, b)
  | _ => (1, 1)

/-- The work of a step in its cycle; a read and a write are issued, and their banks serve them in their own slots. -/
def runStep (c : CtxPairs) (cells : List CellCfg) (r : SegRun) (i : Nat) (e : CellStep) : SegRun :=
  let f := persFormats ((cellPers cells e.tile e.cell).getD .vec)
  match e.op with
  | .rd _ _ => r
  | .wr a reg => (List.range a.run.n).foldl (fun r k => r.fly i k (r.reg (reg + k))) r
  | .dot ra rb acc sa sb => runDot c r e.tile f.1 f.2 ra rb acc sa sb
  | .clr acc => { r with s := accSet r.s (accIndex (relTile c e.tile) acc) 0 }
  | .requant acc scale fmt inf reg k => runRequant c r e.tile acc scale fmt inf reg k
  | .vec op ra rb rc rd k q => r.setLane rd k (f32Op op (r.lane ra k) (r.lane rb k) (r.lane rc k) q)
  | .lut tab fmt base step ra rd k => runLut c r e.tile tab fmt base step ra rd k
  | .red op isInt ra n rd k => runRed r op isInt ra n rd k
  | .conv fa fb inf ra rd k => r.setReg rd (elemSet fb (r.reg rd) k (fmtEncode fb inf (fmtDecode fa (elemGet fa (r.reg ra) k))))
  | .geo src ch x16 y16 border dst rd k => runGeo r src ch x16 y16 border dst rd k
  | .quantDyn fmt mode ra n rs rd => runQuant r fmt mode ra n rs rd
  | .mxPack fmt ra rd rs k op => runMx r fmt ra rd rs k op
  | .attn a => runAttn r a
  | .attnBwd b => runBwd r b
  | .win op src dst => runWin c r e.tile op src dst
  | .kvWr seq layer pos head val part reg => runKvWr r seq layer pos head val part reg
  | .kvRd seq layer pos head val part reg => runKvRd r seq layer pos head val part reg
  | .logRd seq pos reg k => runLogRd r seq pos reg k

/-! ### Slot order -/

/-- What happens in a cycle, in this order: 0 the word of a read reaches its register, 1 banks serve reads, 2 cells work and issue writes, 3 banks serve
writes, 4 DMA. A bank serves one request in a slot, so the order between phases decides nothing about one word (R127). -/
structure Micro where
  cycle : Nat
  phase : Nat
  step : Nat
  elem : Nat
deriving DecidableEq, Repr, Inhabited

/-- The happenings of one step. -/
def stepMicros (c : CtxPairs) (i : Nat) (e : CellStep) : List Micro :=
  let work : Micro := { cycle := e.cycle, phase := 2, step := i, elem := 0 }
  match e.op with
  | .rd a _ => (List.range a.run.n).flatMap fun k =>
    let t := serveCycle c e a false k
    let far := readLatency (relTile c e.tile) (tsTile (((accPlaces a).getD k default).phys c))
    [{ cycle := t, phase := 1, step := i, elem := k }, { cycle := t + far, phase := 0, step := i, elem := k }]
  | .wr a _ => work :: (List.range a.run.n).map fun k => { cycle := serveCycle c e a true k, phase := 3, step := i, elem := k }
  | _ => [work]

/-- All happenings of a segment in the order in which they take effect. -/
def micros (c : CtxPairs) (ops : List CellStep) (dmas : List DmaP) : List Micro :=
  sortBy (fun a b => lexLe [a.cycle, a.phase, a.step, a.elem] [b.cycle, b.phase, b.step, b.elem])
    ((ops.zipIdx.flatMap fun e => stepMicros c e.2 e.1) ++ dmas.zipIdx.map fun d => { cycle := d.1.cycle, phase := 4, step := d.2, elem := 0 })

/-- One happening. -/
def runMicro (c : CtxPairs) (set : TileSet) (w : SegWork) (lost : List BankReq) (r : SegRun) (m : Micro) : SegRun :=
  if m.phase = 4 then serveDma c set r (w.dmas.getD m.step default)
  else match w.ops[m.step]? with
    | none => r
    | some e => match m.phase, e.op with
      | 0, .rd _ reg => r.setReg (reg + m.elem) (r.flown m.step m.elem)
      | 1, .rd a _ => serveRead c set lost r m.step e a m.elem m.cycle
      | 3, .wr a _ => serveWrite c set lost r m.step e a m.elem m.cycle
      | 2, _ => runStep c w.cells r m.step e
      | _, _ => r

/-- Run a segment on its pairs and tiles; the scale blocks go on from where the job left them. -/
def runOps (s : State) (c : CtxPairs) (set : TileSet) (blocks : List ((Nat × Nat) × Nat)) (w : SegWork) : SegRun :=
  (micros c w.ops w.dmas).foldl (runMicro c set w (clashes c set w.ops))
    { s := s, regs := [], stamps := [], flight := [], stopped := [], events := [], badOps := [], blocks := blocks, shared := [], absent := [], badRows := [] }

/-- An error that the hardware found in a cell or in DRAM data (Table 17-2). -/
def faultEvent (c : CtxPairs) (f : CellFault) : SegEvent :=
  let st : Status := if f.kind = 4 then .cellParity else if f.kind = 5 then .dotResidue else .dramUncorrectable
  let t := relTile c f.tile
  { key := [f.cycle, t, 3, f.cell], st := st, detail := [], tile := t, clash := false,
    log := some (if f.kind = 14 then { HealthEntry.of 14 0 with status := some st, unit := some f.cell }
      else { HealthEntry.of f.kind f.cell with status := some st, tile := some t, region := some (t / 32) }) }

/-- The first event of a segment, which its job reports. -/
def firstEvent (es : List SegEvent) : Option SegEvent :=
  (sortBy (fun a b => lexLe a.key b.key) es).head?

end Sys2Proof.Machine
end

