-- ==== Sys2Proof/Machine/Codec.lean ====
section
/-! DEFINITION. Staging (R343), codec engines (R339), IMAGE_READ (R337, R344, R348), and the samples of a TAILOR_STEP: their checks, the epoch cache,
decoding and removal (R354 to R357), and images of fed sides as they are encoded (R329). -/

namespace Sys2Proof.Machine

open Sys2Proof

/-! ### Samples (Table 13-7) -/

/-- A field of a sample-list entry. -/
def SampleSt.f (x : SampleSt) (off n : Nat) : Nat := fieldAt x.entry off n

def SampleSt.width (x : SampleSt) : Nat := x.f 12 4
def SampleSt.height (x : SampleSt) : Nat := x.f 16 4
def SampleSt.comps (x : SampleSt) : Nat := x.f 20 1
def SampleSt.bits (x : SampleSt) : Nat := x.f 21 1
def SampleSt.coding (x : SampleSt) : Nat := x.f 22 1
def SampleSt.aug (x : SampleSt) : AugP := parseAug x.entry 64
def SampleSt.need (x : SampleSt) : Nat := tensorBytes x.width x.height x.coding x.bits

/-- Tokenise bytes: the longest entry at each position (R351). The number of bytes bounds the number of tokens. -/
def tokenise (dict : List (List Byte)) : Nat → List Byte → List Nat
  | 0, _ => []
  | f + 1, bs =>
    if bs.isEmpty then []
    else
      let best := ((List.range dict.length).zip dict).foldl (fun (b : Option (Nat × Nat)) e =>
        if e.2.isPrefixOf bs && decide ((match b with | some x => x.2 | none => 0) < e.2.length) then some (e.1, e.2.length) else b) none
      match best with
      | some (i, n) => i :: tokenise dict f (bs.drop n)
      | none => []

/-- Causes of removal that the entry and its label show (Table 13-8). -/
def sampleBad (s : State) (fn : Fn) (p : PlanRec) (x : SampleSt) (label : List Byte) : Bool :=
  let out := x.aug.outSize x.width x.height
  decide (5 < x.coding) || (imageLimit s fn x.width x.height x.comps x.coding x.bits (x.f 8 4) out.1 out.2).isSome ||
  !compsOk x.coding x.comps || !bitsOk x.coding x.bits || !dpiOk (x.f 44 4) (x.f 48 4) (x.f 52 1) || !x.aug.ok x.width x.height ||
  decide (x.f 40 4 = 0 ∨ 65536 < x.f 40 4) || !utf8Ok label || decide (maxOut p.c < (tokenise s.dict.entries label.length label).length)

/-- The samples of a list; the labels follow the list in its order (log 31). -/
def readSamples (s : State) (fn : Fn) (p : PlanRec) (list : List Byte) : Nat → Nat → Nat → List SampleSt
  | 0, _, _ => []
  | n + 1, i, off =>
    let e := slice list (96 * i) 96
    let x : SampleSt := { idx := i, entry := e, key := if bitAt (fieldAt e 23 1) 0 then some (fieldAt e 24 8) else none, cacheStore := bitAt (fieldAt e 23 1) 0,
                          decoded := false, removed := false, loss := none }
    { x with removed := sampleBad s fn p x (slice list off (x.f 40 4)) } :: readSamples s fn p list n (i + 1) (off + x.f 40 4)

def findTailor (s : State) (job : Nat) : Option TailorSt := s.tailor.steps.find? fun t => t.job == job

def modTailor (s : State) (job : Nat) (f : TailorSt → TailorSt) : State :=
  { s with tailor := { s.tailor with steps := mapWhere (fun t => t.job == job) f s.tailor.steps } }

def modSample (s : State) (job idx : Nat) (f : SampleSt → SampleSt) : State :=
  modTailor s job fun t => { t with samples := mapWhere (fun x => x.idx == idx) f t.samples }

/-! ### The epoch cache (R356) -/

def inCache (s : State) (fn : Fn) (key : Nat) : Bool := s.tailor.cache.any fun e => e.1 == fn.val && e.2.1 == key

/-- Use of an entry makes it the most recently used. -/
def touchCache (s : State) (fn : Fn) (key : Nat) : State :=
  let hit := fun (e : Nat × Nat × Nat) => e.1 == fn.val && e.2.1 == key
  { s with tailor := { s.tailor with cache := (s.tailor.cache.filter fun e => !hit e) ++ s.tailor.cache.filter hit } }

/-- Drop the least recently used entries until the rest fits. -/
def fitCache (size : Nat) : List (Nat × Nat × Nat) → List (Nat × Nat × Nat)
  | [] => []
  | e :: es => if sumNat ((e :: es).map (·.2.2)) ≤ size then e :: es else fitCache size es

/-- Store or replace an entry; a tensor larger than the cache is not stored. -/
def storeCache (s : State) (fn : Fn) (key n : Nat) : State :=
  let size := 1048576 * epochMiB s
  let rest := s.tailor.cache.filter fun e => !(e.1 == fn.val && e.2.1 == key)
  { s with tailor := { s.tailor with cache := if size < n then rest else fitCache (size - n) rest ++ [(fn.val, key, n)] } }

/-- Samples whose tensor the cache holds are copied into staging. -/
def takeCached (s : State) (j : Job) : State :=
  match findTailor s j.id with
  | none => s
  | some t => t.samples.foldl (fun s x =>
      match x.key with
      | some k => if !x.removed && !x.decoded && !bitAt (x.f 23 1) 1 && inCache s j.fn k then
          modJob (modSample (touchCache s j.fn k) j.id x.idx fun y => { y with decoded := true }) j.id fun y => { y with decoded := true }
        else s
      | none => s) s

/-! ### Staging and engines (R339, R343) -/

/-- Staging taken by jobs. -/
def stagingUsed (s : State) : Nat := sumNat (s.sched.jobs.map (·.staging))

/-- Staging that a job needs. -/
def stagingNeed (s : State) (j : Job) : Nat := match j.kind with
  | .image o _ => tensorBytes o.width o.height o.coding o.bits
  | .tailor _ _ => match findTailor s j.id with
    | some t => sumNat ((t.samples.filter fun x => !x.removed).map (·.need))
    | none => 0
  | _ => 0

/-- Does a job wait for staging? -/
def wantsStaging (j : Job) : Bool := (match j.kind with
    | .image _ _ | .tailor _ _ => true
    | _ => false) && j.state == .ready && j.staging == 0 && !j.decoded

/-- Grant staging in the order of R257 while it lasts. -/
def grantStaging (s : State) : State :=
  (sortBy (fun a b => lexLe (candKey s a) (candKey s b)) (s.sched.jobs.filter wantsStaging)).foldl
    (fun s j => if stagingUsed s + stagingNeed s j ≤ stageBytes s then takeCached (modJob s j.id fun x => { x with staging := stagingNeed s j }) j else s) s

/-- The lowest free codec engine. -/
def firstEngine (s : State) : Option Nat := (List.range 8).find? fun i => s.engines.toList.getD i .free == .free

def setEngine (s : State) (i : Nat) (e : Engine) : State := { s with engines := s.engines.set (i % 8) e (Nat.mod_lt i (by decide)) }

/-- Images to encode that a job past its last segment still lacks (R337, step 7). -/
def Job.encodesLeft (j : Job) : List Nat :=
  if j.state == .running && j.ctx.isNone && j.posting.isNone then (j.images.filter fun i => i.kind != 0 && i.data.isEmpty && !i.dropped).map (·.kind) else []

/-- Is an engine at work for a job? -/
def engineAt (s : State) (e : Engine) : Bool := s.engines.toList.contains e

/-- Samples that wait for an engine, in list order; samples of one key share one decode. -/
def samplesWaiting (s : State) (j : Job) (t : TailorSt) : List Nat :=
  let open_ := t.samples.filter fun x => !x.removed && !x.decoded
  (open_.filter fun x => !engineAt s (.decode j.id x.idx) &&
    !(x.key.isSome && open_.any fun y => decide (y.idx < x.idx) && y.key == x.key)).map (·.idx)

/-- What a job wants engines for: one engine for an image's decode or next output, one for each sample that waits. -/
def jobEngines (s : State) (j : Job) : List Engine :=
  match j.kind, j.encodesLeft with
  | .image _ _, k :: _ => if s.engines.toList.any (fun e => match e with
      | .encode i _ => i == j.id
      | _ => false) then [] else [.encode j.id k]
  | .image _ _, [] => if j.state == .ready && j.staging != 0 && !j.decoded && !engineAt s (.decode j.id 0) then [.decode j.id 0] else []
  | .tailor _ _, _ => if j.staging != 0 then (match findTailor s j.id with
      | some t => (samplesWaiting s j t).map fun i => Engine.decode j.id i
      | none => []) else []
  | _, _ => []

/-- Work for engines, in the order of R257. -/
def engineWork (s : State) : List (Job × Engine) :=
  (sortBy (fun a b => lexLe (candKey s a) (candKey s b)) s.sched.jobs).flatMap fun j => (jobEngines s j).map fun e => (j, e)

/-- The host-memory read that a decode starts with. -/
def decodeRead (s : State) (j : Job) (idx : Nat) : State :=
  match j.kind with
  | .image o _ => s.hostRead j.fn o.inAddr o.inLen
  | .tailor _ _ => match (findTailor s j.id).bind fun t => t.samples.find? fun x => x.idx == idx with
    | some x => s.hostRead j.fn (x.f 0 8) (x.f 8 4)
    | none => s
  | _ => s

/-- Engines go to the jobs that wait for them; a decode starts by reading its input from host memory. -/
def giveEngines (s : State) : State :=
  (engineWork s).foldl (fun s w => match firstEngine s with
    | none => s
    | some i =>
      let s := setEngine s i w.2
      match w.2 with
      | .decode _ k => decodeRead s w.1 k
      | _ => s) s

/-- Staging and engines for host images, then the scheduler. -/
def serveImages (s : State) : State := schedule (giveEngines (grantStaging s))

/-- STAGING_GRANT: staging that has come free goes to the jobs that wait. -/
def execStagingGrant (s : State) : Host.Outcome State Fault Refusal := .next (serveImages s)

/-! ### IMAGE_READ -/

/-- Checks made at the start after those of Table 11-12: the plan, the fields of the parameter block (R345, R346), Table 13-3. The status with the detail of
Table 11-7. -/
def imageStartCheck (s : State) (r : RingRef) (o : ImageReadOp) (aux : List Byte) : Option (Status × List Byte) :=
  let pb := paramBlock o aux
  let p := imgParams pb
  let out := p.aug.outSize o.width o.height
  if (planOf s r.fn o.plan).isNone then some (.planUnknown, [])
  else if 1 ≤ o.comps ∧ o.comps ≤ 4 ∧ (!dpiOk (fieldAt pb 0 4) (fieldAt pb 4 4) p.bg || !p.aug.ok o.width o.height) then some (.badDescriptor, leBytes 1 48)
  else (imageLimit s r.fn o.width o.height o.comps o.coding o.bits o.inLen out.1 out.2).map fun st => (st, [])

/-- The job of an IMAGE_READ (R337): queued at the class and priority that the descriptor names. -/
def imageJob (s : State) (r : RingRef) (h : Hdr) (o : ImageReadOp) (aux : List Byte) (member : Bool) : Job :=
  { (default : Job) with
    fn := r.fn, ring := some r, hdr := h, opcode := 0x10, cls := runClass o.cls, prio := o.prio, plan := o.plan, kind := .image o (paramBlock o aux),
    state := .queued, member := member, inputReady := true, readyAt := s.now, note := .ok }

/-- The JPEG or T.6 entry of a host image before it is encoded. -/
def hostEncode (s : State) (o : ImageReadOp) (p : ImgParams) (kind : Nat) : Image :=
  let out := p.aug.outSize o.width o.height
  let layout := bitsOf (cndReg s 0 0x2C) 5 4
  let r := p.aug.rotSize o.width o.height
  { side := 0, kind := kind, bits := if kind = 1 then 8 else 1, comps := if kind = 2 ∨ layout = 2 then 1 else 3, width := out.1, height := out.2,
    stride := 0, len := 0, data := [], dropped := false, dpiX := (roundEvenRat ((p.dx * out.1 : Nat) / (max 1 r.1 : Nat))).toNat,
    dpiY := (roundEvenRat ((p.dy * out.2 : Nat) / (max 1 r.2 : Nat))).toNat }

/-- The images an IMAGE_READ asks for: raw at once from the augmented image, the others when their engine is done (R337, R348). -/
def hostImages (s : State) (o : ImageReadOp) (p : ImgParams) (px : List (List (List Nat))) : List Image :=
  let e := hostEncode s o p 0
  let raw := if bitAt o.outputs 0 then [rawImage 0 (8 * convBytes o.coding o.bits) e.dpiX e.dpiY px] else []
  raw ++ (if bitAt o.outputs 1 then [hostEncode s o p 1] else []) ++ (if bitAt o.outputs 2 then [hostEncode s o p 2] else [])

/-- The record of a host image (Table 12-2). -/
def hostSrc (j : Job) (o : ImageReadOp) (p : ImgParams) (images : List Image) : RecSrc :=
  let f := boxToPage p.aug o.width o.height p.dx p.dy
  { status := j.note, source := 2, fn := j.fn.val, piece := 0xFFFFFFFF, plan := j.plan, tag := j.hdr.tag.toNat,
    revision := j.revision, quick := false, dropped := images.any (·.dropped), restarted := false, feed := false, sides := [hostSide o p],
    blocks := j.blocks.map fun b => { b with box := f b.box }, text := j.text.map fun l => { l with box := f l.box, words := l.words.map fun w => { w with box := f w.box } },
    items := j.items.map (mapEmit f), verdict := none, images := images, diag := [] }

/-- Post an IMAGE_READ: a post that would not fit the record ring loses its images (R334). -/
def postImage (s : State) (j : Job) : State :=
  match j.kind with
  | .image o pb =>
    let p := imgParams pb
    let build := fun is => buildRecord s.dict.entries (hostSrc j o p is) s.now
    let is := if ringFits s j.fn (build j.images).2 then j.images else j.images.map dropImage
    let s := if is = j.images then s else s.chipCnt 38 is.length
    let post : Post := { fn := j.fn, feed := false, piece := 0, track := 0, done := none, record := (build is).1, images := is, fold := none }
    let s := modJob s j.id fun x => { x with staging := 0, pixels := [] }
    reportPost s { j with staging := 0 } j.note [] post
  | _ => s

/-- An IMAGE_READ has run its stages: it gives up its tiles, and its images are encoded before it posts. -/
def imageStagesDone (s : State) (j : Job) : State :=
  match j.kind with
  | .image o pb =>
    let s := modJob (releaseJob s j) j.id fun x => { x with images := hostImages s o (imgParams pb) x.pixels }
    match findJob s j.id with
    | none => s
    | some j => serveImages (if j.encodesLeft.isEmpty then postImage s j else s)
  | _ => s

/-- Fabric cycles of a codec engine for work at a rate in 10^6 pixels a second (Table 13-2). -/
def codecCycles (pixels rate : Nat) : Nat := pixels * 1400 / rate

/-- Rate of a decode (Table 13-2): PNG by decoded bytes; JPEG of four components at the lower rate. -/
def decodeBusy (o : ImageReadOp) : Nat :=
  let px := o.width * o.height
  match o.coding with
  | 1 => codecCycles px (if o.comps = 4 then 240 else 400)
  | 2 | 3 => codecCycles px 2000
  | 4 => codecCycles (px * o.comps * ceilDiv o.bits 8) 1200
  | _ => 0

/-- A decode of an IMAGE_READ ends (R337, R344). -/
def imageDecoded (s : State) (j : Job) (o : ImageReadOp) (pb : List Byte) (res : DecodeResult) : State :=
  if res.corrupt then failJob s j .inputCorrupt []
  else
    let p := imgParams pb
    let px := augment (convBytes o.coding o.bits) p.bg p.aug (convImage o.width o.height o.coding o.comps o.bits p.bg res)
    modJob s j.id fun x => { x with decoded := true, pixels := px, note := if res.rowsDecoded < o.height then .truncated else .ok }

/-! ### TAILOR_STEP's samples -/

/-- The TAILOR_STEP completes with no record (R357). -/
def endTailor (s : State) (j : Job) (st : Status) (detail : List Byte) : State :=
  let s := reportJob s j st detail none
  serveImages (finishJob { s with tailor := { s.tailor with steps := s.tailor.steps.filter fun t => t.job != j.id } } j true)

/-- Detail of TAILOR_STEP (Table 11-7). -/
def tailorDetail (s : State) (t : TailorSt) (loss : Word32) : List Byte :=
  let rem := t.samples.filter (·.removed)
  leBytes 2 (t.samples.length - rem.length) ++ leBytes 2 rem.length ++ leBytes 2 (match rem.head? with | some x => x.idx | none => 0) ++ zeros 2 ++
  leBytes 4 loss.toNat ++ leBytes 2 (match findPlan s t.plan with | some p => p.revision | none => 0)

/-- A step all of whose samples are removed ends (R357). -/
def tailorEmpty (s : State) (job : Nat) : State :=
  match findTailor s job, findJob s job with
  | some t, some j => if t.samples.all (·.removed) then endTailor s j .tailorNoSamples (tailorDetail s t 0) else s
  | _, _ => s

/-- A sample is removed. -/
def removeSample (s : State) (job idx : Nat) : State := tailorEmpty (modSample s job idx fun x => { x with removed := true }) job

/-- A sample's decode ends: its tensor goes to the cache when it asks for that, and to every sample of its key. -/
def sampleDecoded (s : State) (j : Job) (idx : Nat) (res : DecodeResult) : State :=
  match (findTailor s j.id).bind fun t => t.samples.find? fun x => x.idx == idx with
  | none => s
  | some x =>
    if res.corrupt ∨ res.rowsDecoded < x.height then removeSample s j.id idx
    else
      let s := match x.key with
        | some k => storeCache s j.fn k x.need
        | none => s
      let hit := fun (y : SampleSt) => y.idx == idx || (y.key.isSome && y.key == x.key && !y.removed)
      let s := modTailor s j.id fun t => { t with samples := mapWhere hit (fun y => { y with decoded := true }) t.samples }
      modJob s j.id fun y => { y with decoded := true }

/-! ### Engines that finish -/

/-- Busy cycles and images of an engine (Table 19-2). -/
def countCodec (s : State) (engine : Fin 8) (busy : Nat) : State := (s.chipCnt engine.val busy).chipCnt (8 + engine.val)

/-- CODEC_DECODE_DONE: a decode ends and its engine is free. -/
def execCodecDecodeDone (engine : Fin 8) (res : DecodeResult) (s : State) : Host.Outcome State Fault Refusal :=
  match s.engines[engine.val] with
  | .decode job idx =>
    let s := setEngine s engine.val .free
    match findJob s job with
    | none => .next (serveImages s)
    | some j => match j.kind with
      | .image o pb => .next (serveImages (imageDecoded (countCodec s engine (decodeBusy o)) j o pb res))
      | _ => .next (serveImages (sampleDecoded (countCodec s engine 0) j idx res))
  | _ => .next s

/-- Pieces of a port's track that still lack an encoded image, the oldest first. -/
def sideEncode (s : State) (p : Port) : Option (Piece × Nat) :=
  let t := (s.lp p).cfg.track
  (s.track t).pieces.findSome? fun y => ((encodesDue s t y).find? fun e => e.1 == p).map fun e => (y, e.2)

/-- The encoded image of a fed side (R329, R331, R332): it is in the basket before the piece's fold. -/
def sideEncoded (s : State) (p : Port) (engine : Fin 8) (stream : List Byte) : State :=
  match sideEncode s p with
  | none => s
  | some (y, k) =>
    let cfg := (s.lp p).cfg
    let r := sideRec s p y cfg.side (y.T.getD 0)
    let px := Config.pitchX p.val * ((cfg.xavg : Nat) : Rat)
    let i : Image := { side := sideNum cfg.side, kind := k, bits := if k = 1 then 8 else 1, comps := if k = 2 ∨ cfg.imgLayout = 2 then 1 else 3,
                       width := r.wPx, height := r.hLn, stride := 0, len := stream.length, data := stream, dropped := false, dpiX := dpiOf px,
                       dpiY := dpiOf (Config.pitchY p.val) }
    let s := countCodec s engine (codecCycles (r.wPx * r.hLn) (if k = 1 then 520 else 2000))
    buildPiece (modPiece s cfg.track y.num fun y => { y with images := y.images ++ [i] }) cfg.track y.num

/-- The encoded image of an IMAGE_READ; the last one lets it post. -/
def hostEncoded (s : State) (job k : Nat) (engine : Fin 8) (stream : List Byte) : State :=
  match findJob s job with
  | none => s
  | some j =>
    let px := match j.images.find? fun i => i.kind == k with
      | some i => i.width * i.height
      | none => 0
    let s := countCodec s engine (codecCycles px (if k = 1 then 520 else 2000))
    let s := modJob s job fun x => { x with images := mapWhere (fun i => i.kind == k) (fun i => { i with data := stream, len := stream.length }) x.images }
    match findJob s job with
    | some j => if j.encodesLeft.isEmpty then postImage s j else s
    | none => s

/-- CODEC_ENCODE_DONE: an engine has encoded one image output. A side's engine stays its own until SCAN_DISARM takes effect (R339). -/
def execCodecEncodeDone (engine : Fin 8) (stream : List Byte) (s : State) : Host.Outcome State Fault Refusal :=
  match s.engines[engine.val] with
  | .side p => .next (sideEncoded s p engine stream)
  | .encode job k => .next (serveImages (hostEncoded (setEngine s engine.val .free) job k engine stream))
  | _ => .next s

end Sys2Proof.Machine
end

