-- ==== Sys2Proof/Machine/HealthOps.lean ====
section
/-! DEFINITION. What follows errors: strikes, failed tiles and spares (R107, R418, R419, R427), regions out of service (R421), DEVICE errors
(R423), darning and the patrol scrub (R136, R425), the lint sweep (R428, R429) and TEST_RUN (R430). -/

namespace Sys2Proof.Machine

open Sys2Proof

/-! ### Relowering queue (R250) -/

/-- Plans in the order in which they are lowered again: FEED plans of armed tracks first, then handle order. -/
def relowerKey (s : State) (h : Nat) : List Nat := [if armedPlan s h then 0 else 1, h]

/-- Every loaded plan is to be lowered again. -/
def relowerAll (s : State) : State :=
  let hs := (s.plans.loaded.filter fun p => p.main == p.handle && !p.invalid).map (·.handle)
  let q := s.plans.relowerQ ++ hs.filter fun h => !s.plans.relowerQ.contains h
  { s with plans := { s.plans with relowerQ := sortBy (fun a b => lexLe (relowerKey s a) (relowerKey s b)) q } }

/-! ### Failed tiles (R107, R418, R419) -/

/-- The job that holds a tile, with the stripe that the tile belongs to and its pairs. -/
def tileHolder (s : State) (t : Nat) : Option (Job × Lane × CtxPairs) :=
  match (s.tile t).job.bind (findJob s) with
  | none => none
  | some j => (j.lanes.find? fun l => l.tiles.contains t).bind fun l => (pairsOf s j.id l.stripe).map fun c => (j, l, c)

/-- Rows of a tile that are the scratch of the job that holds it. -/
def movedRows (s : State) (t : Nat) : Nat → Bool := match tileHolder s t with
  | some (_, _, c) => fun r => decide (c.sBase ≤ r ∧ r < c.sBase + c.sCount)
  | none => fun _ => false

/-- The words with an error among the scratch on a tile. -/
def scratchMarks (s : State) (t : Nat) : List Nat :=
  (s.store.marks.filter fun m => tsTile (32 * m.1) == t && movedRows s t (tsRow (32 * m.1))).map fun m => 32 * m.1

/-- Is an uncorrectable word among the scratch on a tile? -/
def scratchBad (s : State) (t : Nat) : Bool := (scratchMarks s t).any fun a => markOf s a == 2

/-- The words of a tile's scratch are read for a save or a move: corrected words are counted, uncorrectable ones counted and logged (R133, R134). -/
def readScratch (s : State) (fn : Option Nat) (t : Nat) : State :=
  let bad := (scratchMarks s t).filter fun a => markOf s a == 2
  logWords ((scratchMarks s t).foldl (fun s a => (readWord s a).2.2) s) fn bad

/-- The spare's tile store: what is moved keeps its place, everything else starts empty; the spare's own darn table is used. -/
def spareStore (s : State) (t : Nat) (keep : Nat → Bool) : TileStore :=
  let st := s.store
  { st with
    mem := st.mem.filter (fun c => tsTile c.1 != t || keep (tsRow c.1)), marks := st.marks.filter (fun m => tsTile (32 * m.1) != t),
    darn := st.darn.filter (fun d => d.1 / 32 != t), badPatch := st.badPatch.filter (fun d => d.1 / 32 != t),
    recent := st.recent.filter (fun r => 8192 ≤ r.1 || r.1 / 32 != t), due := st.due.filter (fun d => d.1 / 32 != t),
    fullLogged := st.fullLogged.filter (fun k => k / 32 != t) }

/-- A reservation that stands on a tile without a spare moves, or the track is disarmed (log 32). -/
def moveOffTile (s : State) (t : Nat) : State :=
  match (s.tile t).resv with
  | none => s
  | some p => match moveReservation s p with
    | some s => s
    | none => forceDisarm s (s.lp p).cfg.track

/-- A failed tile is replaced by a spare, or goes out of service when none is left, and its job is saved; a third failed tile relowers the plans. The live
scratch moves onto the spare; a word of it that cannot be read ends the job as a damaged save does (R107, Table 17-3). -/
def substitute (s : State) (t : Nat) : State :=
  let g : Region := Fin.ofNat 8 (t / 32)
  let n := (s.reg8 g).spares
  if n = 0 then
    let s := s.modTile t fun x => { x with gone := true, failed := false, strikes := [] }
    let s := logHealth s { HealthEntry.of 9 0 with tile := some t, region := some (t / 32) }
    let s := match (s.tile t).job with
      | some j => modJob s j fun x => { x with victim := true }
      | none => s
    relowerAll (moveOffTile s t)
  else
    let hold := (tileHolder s t).map (·.1)
    let bad := hold.filter fun _ => scratchBad s t
    let s := readScratch s (hold.map fun j => j.fn.val) t
    let s := { s with store := spareStore s t (movedRows s t) }
    let s := s.modTile t fun x => { x with failed := false, onSpare := true, strikes := [], reload := true, lintUnits := 0, sweepAt := s.now, overdue := false }
    let s := s.modRegion g fun x => { x with spares := n - 1 }
    let s := logHealth s { HealthEntry.of 8 (n - 1) with tile := some t, region := some (t / 32) }
    match bad with
    | some j => failJob s j .tsUncorrectable []
    | none => s

/-- Does a tile run a segment? -/
def tileRuns (s : State) (t : Nat) : Bool := match tileHolder s t with
  | some (_, l, _) => l.state == .run
  | none => false

/-- A tile fails: it is substituted at its next boundary, or at once when it runs no segment. -/
def failTile (s : State) (t : Nat) : State :=
  if (s.tile t).gone then s
  else
    let s := s.modTile t fun x => { x with failed := true }
    if tileRuns s t then s else substitute s t

/-- Failed tiles of a job that are due for a spare at a boundary. -/
def substituteDue (s : State) (ts : List Nat) : State := ts.foldl (fun s t => if (s.tile t).failed then substitute s t else s) s

/-- A strike on a tile (R418). -/
def strike (s : State) (t : Nat) : State :=
  let s := s.countN famTile t 15 1
  let since := s.now - 1400000 * tileWindowMs s
  let s := s.modTile t fun x => { x with strikes := (x.strikes.filter fun k => decide (since ≤ k)) ++ [s.now] }
  if tileFailLimit s ≤ (s.tile t).strikes.length ∧ ¬ (s.tile t).failed then failTile s t else s

/-- Does an error with a status count as a strike? A bank clash does not. -/
def strikes (st : Status) (clash : Bool) : Bool := match st with
  | .cellParity | .dotResidue | .seqWatchdog => true
  | .scheduleSkew => !clash
  | _ => false

/-- The resident rows of one tile are written again from the model store through slot 12: its part of every resident model, and every loaded plan's
resident tables and slot programs (R107, Table 05-8). -/
def reloadTile (s : State) (t : Nat) : State :=
  let s := s.sched.models.foldl (fun s m => match findPlan s m.plan with
    | some p => writeModel s p.low m.ways fun k => k == t
    | none => s) s
  s.plans.loaded.foldl (fun s p => writePrograms (writeTables s p.low fun k => k == t) p.low fun k => k == t) s

/-- SPARE_RELOAD_DONE: the resident rows of a substituted tile are back from the model store, and the segments that need them may start. -/
def execSpareReloadDone (tile : Nat) (s : State) : Host.Outcome State Fault Refusal :=
  if !(s.tile tile).reload then .next s
  else .next (serveImages ((reloadTile s tile).modTile tile fun x => { x with reload := false }))

/-! ### Twin HEALTH (Table 15-2) -/

/-- The piece from which the partner takes a track: the lowest not committed, else the next to be numbered. -/
def takePiece (s : State) (t : Track) : Word32 := match (s.track t).pieces.find? fun p => !p.posted with
  | some p => BitVec.ofNat 32 p.num
  | none => s.nextPiece

/-- The active tells its partner to take over. -/
def healthTake (s : State) (cause : Nat) : State :=
  if s.twin.state = .active then sendHealth s cause (takePiece s .A) (takePiece s .B) else s

/-! ### Regions out of service (R421) -/

/-- Pieces on a side whose lines have reached line 0 and not all been pressed. -/
def unpressed (s : State) (p : Port) : List Nat :=
  let sd := (s.lp p).cfg.side
  ((s.track (s.lp p).cfg.track).pieces.filter fun y => y.line0.isSome && y.live && !(y.side sd).pressed).map (·.num)

/-- A side whose reservation lies in the region loses its pieces, and its reservation moves or its track is disarmed. -/
def evictSide (s : State) (g : Nat) (p : Port) : State :=
  if !((s.lp p).reserved.any fun t => t.1 / 32 == g) then s
  else
    let t := (s.lp p).cfg.track
    let s := (unpressed s p).foldl (fun s n => discardPiece s t n .regionLost) s
    match moveReservation s p with
    | some s => s
    | none => if s.twin.state = .active then healthTake s 2 else forceDisarm s t

/-- The segments of a job in a lost region end at once; the job completes with REGION_LOST, and its segments in other regions end at their next boundaries
(R193). -/
def endInRegion (g : Nat) (s : State) (j : Job) : State :=
  let s := modJob s j.id fun x => { x with lanes := mapWhere (fun l => l.region == g) (fun l => { l with state := .wait }) x.lanes }
  match findJob s j.id with
  | none => s
  | some x =>
    if x.state = .done then (x.lanes.filter fun l => l.region == g).foldl (fun s l => lastRites s x l) s
    else failJob s x .regionLost []

/-- A REGION error (R421). The event vector is raised once: by the log entry when it is written, else by itself (log 53). -/
def regionError (s : State) (g : Region) (kind : Nat) : State :=
  let js := s.sched.jobs.filter fun j => !(j.tilesIn g.val).isEmpty
  let s := js.foldl (endInRegion g.val) s
  let s := s.modRegion g fun x => { x with failed := true, state := 2, test3 := false }
  let s := allPorts.foldl (fun s p => evictSide s g.val p) s
  let s := invalidate (relowerAll s)
  let s := { s with health := { s.health with alert := true } }
  let s := if healthRoom s then s else s.raiseEvent 0
  serveImages (logHealth s { HealthEntry.of kind 0 with region := some g.val, status := some .regionLost })

/-- RING_RETRY_EXHAUSTED: a flit's ninth send fails. -/
def execRingRetryExhausted (g : Region) (s : State) : Host.Outcome State Fault Refusal := .next (regionError s g 10)

/-- REGION_CONTROLLER_ERROR: parity or watchdog of a region controller. -/
def execRegionControllerError (g : Region) (s : State) : Host.Outcome State Fault Refusal := .next (regionError s g 12)

/-- REGION_DRAIN: regions named begin to drain; a set region of both fields of the register is ruled out before (R480). -/
def drainRegions (s : State) (mask : Nat) : State :=
  let gs := (List.range 8).filter fun g => bitAt mask g && (s.reg8 (Fin.ofNat 8 g)).state == 0
  if gs.isEmpty then s
  else
    let s := gs.foldl (fun s g => s.modRegion (Fin.ofNat 8 g) fun x => { x with state := 1 }) s
    settleDrains (relowerAll s)

/-- Serve: a DRAINED region returns, unless it has failed and no test 3 has passed since (R422); the slot programs of the loaded plans are written to it as to
every region in service (R238). -/
def serveRegions (s : State) (mask : Nat) : State :=
  serveImages ((List.range 8).foldl (fun s g =>
    let r : Region := Fin.ofNat 8 g
    let x := s.reg8 r
    if bitAt mask g && x.state == 2 && (!x.failed || x.test3) then
      let s := logHealth (s.modRegion r fun x => { x with state := 0, failed := false }) { HealthEntry.of 23 g with region := some g }
      s.plans.loaded.foldl (fun s p => writePrograms s p.low fun t => t / 32 == g) s
    else s) s)

/-- REGION_DRAIN. -/
def execRegionDrain (mask : Byte) (s : State) : Host.Outcome State Fault Refusal := .next (drainRegions s mask.toNat)

/-- REGION_SERVE. -/
def execRegionServe (mask : Byte) (s : State) : Host.Outcome State Fault Refusal := .next (serveRegions s mask.toNat)

/-! ### DEVICE errors (R423, R424) -/

/-- A DEVICE error (R423): work stops, uncommitted folds abort, both tracks hold, the alert and the log entry. A module that already waits for
its reset takes no second one, and the event vector is raised once (log 53). -/
def deviceError (s : State) (cause : Nat) : State :=
  if s.pwr.device then s else
  let s := healthTake s (if cause = 1 then 3 else 1)
  let s := (allRings s).foldl (fun s r => abandonFolds s r true) s
  let s := { s with commitQ := [], pwr := { s.pwr with device := true } }
  let s := allTracks.foldl (fun s t => s.modTrack t fun x =>
    { x with hold := { x.hold with disarm := true }, held := true, pieces := x.pieces.map fun p => { p with inFold := false } }) s
  logHealth (if healthRoom s then s else s.raiseEvent 0) (HealthEntry.of 24 cause)

/-- CHIP_PARITY_ERROR: job scheduler, peg file or fold logic (Table 17-7: arguments 2, 3, 4). -/
def execChipParityError (unit : Fin 3) (s : State) : Host.Outcome State Fault Refusal := .next (deviceError s (unit.val + 2))

/-- HEALTH_ALERT_CLEAR: writing 1 to HEALTH_STATUS.alert clears cause 5 of a REGION error (R424). -/
def execHealthAlertClear (s : State) : Host.Outcome State Fault Refusal := .next { s with health := { s.health with alert := false } }

/-- HOST_LINK_CORRECTABLE_ERROR: corrected; it affects nothing and is not logged (Table 17-2). -/
def execHostLinkCorrectableError (s : State) : Host.Outcome State Fault Refusal := .next s

/-! ### Darning and scrub (R136, R425, R427) -/

/-- Drop the model whose wardrobe row this is (R134). -/
def dropModelAt (s : State) (row : Nat) : State :=
  if row < wardrobeRows s then
    match s.sched.models.find? fun m => m.ways.any fun w => decide (w * wayRows s ≤ row ∧ row < (w + 1) * wayRows s) with
    | some m => { s with sched := { s.sched with models := s.sched.models.filter fun x => x != m } }
    | none => s
  else s

/-- The row whose contents a row of a bank holds: a patch row holds the row that is darned onto it (R147); none for an unused patch row. -/
def rowHeld (s : State) (tile bank row : Nat) : Option Nat :=
  if row < tsRows then some row
  else (s.store.darn.find? fun d => d.1 == bankKey tile bank && d.2.2 == row - tsRows).map (·.2.1)

/-- SCRUB_READ: one addressable or patch row of one bank is read, its errors counted and recorded, and never written; an uncorrectable word of a wardrobe row
drops that model (R136). -/
def execScrubRead (tile bank row : Nat) (s : State) : Host.Outcome State Fault Refusal :=
  match rowHeld s tile bank row with
  | none => .next s
  | some k =>
    let a := tsAddr tile k bank 0
    let r := readWord s a
    .next (if r.2.1 = 2 then dropModelAt (logWords r.2.2 none [a]) k else r.2.2)

/-- FIELD_DARN: a row at its threshold, or whose uncorrectable word was overwritten, is moved to a patch row; a substitution of the tile wins. -/
def execFieldDarn (tile bank row : Nat) (s : State) : Host.Outcome State Fault Refusal :=
  if (s.tile tile).failed then .next s
  else if rowDue s tile bank row then
    let r := darnRow s tile bank row .uncorrectable
    .next (if r.1 then failTile r.2 tile else r.2)
  else if rowAtThreshold s tile bank row then .next (darnRow s tile bank row .corrected).2
  else .next s

/-! ### The lint sweep (R428, R429) -/

/-- Units of a tile's full sweep: six personalities of 24 cells, 16 accumulator pages, every row and patch row of 32 banks (log 33). -/
def sweepUnits : Nat := 6 * 24 + 16 + 32 * (tsRows + 32)

/-- The number of a unit kind in Table 17-4. -/
def lintNum : LintKind → Nat
  | .cellSignature _ _ => 1 | .accMarch _ => 2 | .rowMarch _ _ => 3 | .spare => 4

/-- Is a row of a tile live: in a resident model's ways, in a loaded plan's tables or slot programs, or scratch of the job that holds the tile (R142)? -/
def rowLive (s : State) (t row : Nat) : Bool :=
  let a := tsAddr t row 0 0
  (s.sched.models.any fun m => m.ways.any fun w => decide (w * wayRows s ≤ row ∧ row < (w + 1) * wayRows s)) ||
  (s.plans.loaded.any fun p =>
    (p.low.tables.any fun e => decide (e.1 < a + 1024 ∧ a < e.1 + e.2.length)) ||
    (p.low.programs.any fun g => g.tile == t % 32 && decide (g.row ≤ row ∧ row < g.row + ceilDiv g.bytes.length 1024))) ||
  movedRows s t row

/-- May a march run on a row: a free one, or an unused patch row? -/
def marchFree (s : State) (t bank row : Nat) : Bool :=
  if row < tsRows then !rowLive s t row else decide (row < tsRows + 32) && (rowHeld s t bank row).isNone

/-- May a unit run on a tile: not on the reserved rinse and press tiles (R98), after 2 µs without a segment, and on a tile with a job's scratch only marches of
patch rows and of rows outside that scratch (R428)? A hidden spare runs no segment. -/
def lintMayRun (s : State) (t : Nat) (k : LintKind) : Bool :=
  let x := s.tile t
  let idle := x.resv.isNone && !x.gone && !tileRuns s t && decide (x.idleSince + 2800 ≤ s.now)
  match k with
  | .spare => decide (0 < (s.reg8 (Fin.ofNat 8 (t / 32))).spares)
  | .rowMarch bank row => idle && marchFree s t bank row
  | .cellSignature _ _ => idle && x.job.isNone
  | .accMarch _ => idle && x.job.isNone

/-- A row march that fails darns its row; a patch row is marked bad. -/
def marchFail (s : State) (t bank row : Nat) : State :=
  if tsRows ≤ row then { s with store := { s.store with badPatch := s.store.badPatch ++ [(bankKey t bank, row - tsRows)] } }
  else
    let r := darnRow s t bank row .march
    if r.1 then failTile r.2 t else r.2

/-- A unit's confirmed fault: logged, a strike, and for a march a darn. -/
def lintFault (s : State) (t : Nat) (k : LintKind) : State :=
  let s := logHealth s { HealthEntry.of 22 (lintNum k) with tile := some t, region := some (t / 32) }
  match k with
  | .spare => s
  | .rowMarch b r => if (s.tile t).failed then s else strike (marchFail s t b r) t
  | _ => strike s t

/-- A march leaves one row of one bank at 0 with valid check bits (Table 17-4). -/
def zeroBank (s : State) (tile bank row : Nat) : State :=
  let hit := fun (a : Nat) => tsTile a == tile && tsBank a == bank && tsRow a == row
  { s with store := { s.store with mem := s.store.mem.filter (fun c => !hit c.1), marks := s.store.marks.filter fun m => !hit (32 * m.1) } }

/-- LINT_UNIT: one unit completes; a march leaves its row at 0 with valid check bits. -/
def execLintUnit (tile : Nat) (k : LintKind) (faulty recurs : Bool) (s : State) : Host.Outcome State Fault Refusal :=
  if !lintMayRun s tile k then .next s
  else
    let s := s.countN famTile tile 14 1
    let s := s.modTile tile fun x =>
      if sweepUnits ≤ x.lintUnits + 1 then { x with lintUnits := 0, sweepAt := s.now, overdue := false } else { x with lintUnits := x.lintUnits + 1 }
    let s := match k with
      | .rowMarch bank row => if row < tsRows then zeroBank s tile bank row else s
      | _ => s
    .next (if faulty && recurs then lintFault s tile k else s)

/-- LINT_OVERDUE: four periods without a full sweep are logged once. -/
def execLintOverdue (tile : Nat) (s : State) : Host.Outcome State Fault Refusal :=
  let x := s.tile tile
  if x.overdue || decide (s.now < x.sweepAt + 1400000000 * (4 * lintPeriodS s)) then .next s
  else .next (logHealth (s.modTile tile fun x => { x with overdue := true }) { HealthEntry.of 22 0 with tile := some tile, region := some (tile / 32) })

/-! ### TEST_RUN (R430) -/

/-- The 64 bytes that test 4 copies for a word: data, two bytes of check bits, zeros; marks 1 and 2 are flipped check bits. -/
def rawWord (s : State) (a : Nat) : List Byte :=
  let d := memRead s.store.mem (32 * wordKey a) 32
  let c := Config.checkBits d ^^^ (if markOf s a = 1 then 1#10 else if markOf s a = 2 then 3#10 else 0#10)
  d ++ leBytes 2 c.toNat ++ zeros 30

/-- The mark of a word after test 6 or test 7 (log 34). -/
def flipMark (test m : Nat) : Nat :=
  if test = 6 then (if m = 0 then 1 else if m = 1 then 0 else 1) else (if m = 0 then 2 else if m = 1 then 1 else 0)

/-- A TEST_RUN job: IDLE work (tests 1 and 2), or the test of a region. -/
def testJob (s : State) (r : RingRef) (h : Hdr) (o : TestRunOp) (state : JobState) : Job :=
  { (default : Job) with fn := r.fn, ring := some r, hdr := h, opcode := 0x70, cls := 3, kind := .test o, state := state, inputReady := true, readyAt := s.now,
                         startAt := s.now, note := .ok }

/-- TEST_RUN's effect once its start checks have passed. -/
def runTestRun (s : State) (r : RingRef) (h : Hdr) (o : TestRunOp) : State :=
  let done := fun (s : State) (st : Status) (d : List Byte) => complete s r h 0x70 st d
  match o.test with
  | 1 | 2 => schedule (addJob s (testJob s r h o .queued)).2
  | 3 => if (s.reg8 (Fin.ofNat 8 (o.tile / 32))).state = 2 then (addJob s (testJob s r h o .running)).2 else done s .badState []
  | 4 =>
    let n := o.len / 64
    match (List.range n).find? fun i => inHole (o.addr + 32 * i) with
    | some i => done s .tsHole (leBytes 4 (o.addr + 32 * i))
    | none => done (s.hostWrite r.fn o.host ((List.range n).flatMap fun i => rawWord s (o.addr + 32 * i))) .ok []
  | 5 =>
    if inHole o.addr then done s .tsHole (leBytes 4 o.addr)
    else
      let t := darnRow s (tsTile o.addr) (tsBank o.addr) (tsRow o.addr) .corrected
      done t.2 (if (freePatch s (bankKey (tsTile o.addr) (tsBank o.addr))).isNone then .testFail else .ok) []
  | n =>
    if inHole o.addr then done s .tsHole (leBytes 4 o.addr)
    else done (setMark s o.addr (flipMark n (markOf s o.addr))) .ok []

/-- The unit that found a fault of a test. -/
def faultUnit (f : CellFault) : LintKind :=
  if f.kind = 1 then .cellSignature f.cell 0 else if f.kind = 2 then .accMarch f.cell else .rowMarch (f.cell / 2048) (f.cell % 2048)

/-- The rows that a test's marches have left at 0: the free rows of the tile, or every row of the region, whose resident rows are then reloaded as those of
a substituted tile (log 72). -/
def testRows (s : State) (o : TestRunOp) : State :=
  if o.test = 2 then ((List.range tsRows).filter fun r => !rowLive s o.tile r).foldl (fun s r => zeroRows s [o.tile] r 1) s
  else if o.test = 3 then
    let ts := (List.range 32).map (32 * (o.tile / 32) + ·)
    ts.foldl (fun s t => s.modTile t fun x => { x with reload := true }) (zeroRows s ts 0 tsRows)
  else s

/-- A TEST_RUN job ends with the faults it found (R430): they are handled as the lint sweep's. -/
def finishTest (s : State) (j : Job) (o : TestRunOp) (faults : List CellFault) : State :=
  let s := testRows s o
  let s := finishJob (reportJob s j (if faults.isEmpty then .ok else .testFail) [] none) j false
  let s := if o.test = 3 ∧ faults.isEmpty then s.modRegion (Fin.ofNat 8 (o.tile / 32)) fun x => { x with test3 := true } else s
  faults.foldl (fun s f => lintFault s f.tile (faultUnit f)) s

end Sys2Proof.Machine
end

