-- ==== Sys2Proof/Machine/Measure.lean ====
section
/-! DEFINITION. The measurement log (R403, Tables 16-6 and 16-7). -/

namespace Sys2Proof.Machine

open Sys2Proof

/-- The 48 bytes of an entry (Table 16-6). -/
def logEntryBytes (e : LogEntry) : List Byte :=
  leBytes 2 e.kind ++ leBytes 2 e.fn ++ leBytes 4 e.index ++ leBytes 4 e.arg ++ zeros 4 ++ slice e.digest 0 32

/-- Entries that are kept. -/
def logCap : Nat := 1048576

/-- Append an entry: it extends the running value, and beyond the kept entries it sets the overflow flag. -/
def measure (s : State) (kind fn arg : Nat) (digest : List Byte) : State :=
  let e : LogEntry := { kind := kind, fn := fn, index := s.sec.logCount, arg := arg, digest := digest }
  let kept := decide (s.sec.logCount < logCap)
  { s with sec := { s.sec with
      log := if kept then s.sec.log ++ [e] else s.sec.log, logCount := s.sec.logCount + 1, overflow := s.sec.overflow || !kept,
      running := digest32 (s.sec.running ++ logEntryBytes e) } }

end Sys2Proof.Machine
end

