-- ==== Sys2Proof/Machine/Loader.lean ====
section
/-! DEFINITION. The loader (R229 to R253): the steps of PLAN_LOAD over the figures that its lowering gives (R497), the fit check, the plan
report, relowering, PLAN_UNLOAD, and the wardrobe's loads and pins (R268 to R273). -/

namespace Sys2Proof.Machine

open Sys2Proof

/-! ### Figures that follow from the rules -/

/-- The skew window K (Table 09-5): the largest of the ports that LP_MAP gives to the tracks named, or of all four. -/
def skewWindow (s : State) (tracks : Nat) : Nat :=
  let ps := allTracks.flatMap fun t => if bitAt tracks (trackNum t) then mappedPorts s t .front ++ mappedPorts s t .back else []
  maxNat ((if bitsOf tracks 1 0 = 0 then allPorts else ps).map fun p => bitsOf (cndReg s p 0x10) 11 0)

/-- The reading horizon H (R247): 0 without find and read stages. -/
def horizon (c : Container) (o : PlanLoadOp) (K cls : Nat) (low : Lowering) : Nat :=
  if hasStage c 1 && hasStage c 2 then
    o.offset + max (K + 1) (low.bandH + seamReach c low + 1) + ceilDiv (o.rate * (findNs cls low + readNs cls low)) 1000000000
  else 0

/-- The structure estimate S in µs (R248). -/
def structEst (c : Container) (cls : Nat) (low : Lowering) : Nat := if hasStage c 3 then ceilDiv (chainNs cls low.struct) 1000 else 0

/-- Regions in service. -/
def regionsServing (s : State) : Nat := (allRegions.filter fun g => (s.reg8 g).state == 0).length

/-- Is a tile in a region in service? -/
def inService (s : State) (t : Nat) : Bool := (s.reg8 (Fin.ofNat 8 (t / 32))).state == 0

/-- Weights, scale streams and tables, slot programs once per region in service, and scratch (R239). -/
def footprintOf (s : State) (c : Container) (low : Lowering) : Nat :=
  containerModel c + progBytes low * regionsServing s + c.concurrency * low.peakScratch

/-- Are the segments within R235: at most 200 µs each, on one placement of at most 32 tiles of a region, with programs of at most 32 KiB? -/
def segmentsOk (low : Lowering) : Bool :=
  decide (low.maxSegCycles ≤ 280000 ∧ low.placement.length ≤ 32 ∧ low.placement.Nodup) &&
  low.placement.all (fun p => decide (p.1 < 4 ∧ p.2 < 8)) && low.programs.all (fun g => decide (g.bytes.length ≤ 32768 ∧ g.tile < 32)) &&
  (low.find ++ low.read ++ low.struct ++ low.refill).all (fun x => decide (x.cycles ≤ low.maxSegCycles)) && low.stages.all fun e => decide (e.tiles ≤ 32)

/-- Is the state of Table 10-3 within R262: that of one stripe by its placement, and the largest at any boundary? -/
def stateOk (low : Lowering) : Bool :=
  decide (low.maxState ≤ 48 * 1048576 ∧ low.maxStateRegion ≤ 12 * 1048576 ∧
    low.placement.length * (low.scratchRows * 1024 + 65536 + 256) ≤ low.maxStateRegion ∧ low.maxStateRegion ≤ low.maxState)

/-- Are the slices of the layers those of whole layers, each of at most 200 µs at 256 GB/s (R241), and does peak scratch hold the landing areas and the
STORE tensors (R191, R205, R239)? -/
def slicesOk (c : Container) (low : Lowering) : Bool :=
  low.layers.all (fun l => l.slices.all (fun n => decide (n ≤ 51200000)) && sumNat l.slices == l.bytes) && decide (landBytes c low + storeBytes c ≤ low.peakScratch)

/-- Step 4: the cuts within the bounds of R184, R188, R235, R241 and R262 (R497). -/
def cutsOk (c : Container) (low : Lowering) : Bool := segmentsOk low && stateOk low && slicesOk c low && stripesOk c low

/-- The last `k` layers. -/
def lastOf (low : Lowering) (k : Nat) : List LayerP := low.layers.drop (low.layers.length - k)

/-- Weights of the last `k` layers. -/
def lastLayers (low : Lowering) (k : Nat) : Nat := sumNat ((lastOf low k).map (·.bytes))

/-- The largest pair of consecutive numbers; a single one stands for itself. -/
def largestPair : List Nat → Nat
  | [] => 0
  | [a] => a
  | a :: b :: r => max (a + b) (largestPair (b :: r))

/-- The streaming buffer of the last `k` layers: the largest pair of slices of consecutive streamed segments (R241). -/
def streamBuffer (low : Lowering) (k : Nat) : Nat := largestPair ((lastOf low k).flatMap (·.slices))

/-- The fewest last layers whose weights, less the streaming buffer, cover an excess (R241). -/
def streamLayers (low : Lowering) (excess : Nat) : Option Nat :=
  ((List.range (low.layers.length + 1)).drop 1).find? fun k => decide (excess + streamBuffer low k ≤ lastLayers low k)

/-- The outcome of the fit check (Table 09-7): throughput class, footprint and streamed bytes. -/
structure Fit where
  cls : Nat
  footprint : Nat
  streamed : Nat
deriving DecidableEq, Repr, Inhabited

/-- The fit check of footprint F against allotment A. -/
def fitCheck (F A : Nat) (low : Lowering) : Option Fit :=
  if F ≤ A then some { cls := 0, footprint := F, streamed := 0 }
  else if F ≤ A + A / 8 then
    (streamLayers low (F - A)).map fun k => { cls := 1, footprint := F - lastLayers low k + streamBuffer low k, streamed := lastLayers low k }
  else none

/-! ### The same choices from the same inputs (R497) -/

/-- What the loader makes a lowering from: the container, the firmware's security version and the values of Table 09-5. -/
def lowKey (s : State) (c : Container) (tracks : Nat) : List Byte :=
  c.digest ++ leBytes 4 s.sec.version ++ (List.range 8).map (fun g => BitVec.ofNat 8 (s.reg8 (Fin.ofNat 8 g)).state) ++ leBytes 2 (regGet s 0 0x21008) ++
  leBytes 4 (pageBytes s) ++ leBytes 4 (poolPages s) ++ leBytes 2 (skewWindow s tracks)

/-- The lowering that the loader makes: the one that it has made from the same inputs, or the one delivered (log 70). -/
def madeLow (s : State) (key : List Byte) (low : Lowering) : Lowering := match s.plans.made.find? fun e => e.1 == key with
  | some e => e.2
  | none => low

/-- Record a lowering made. -/
def recordLow (s : State) (key : List Byte) (low : Lowering) : State :=
  if s.plans.made.any fun e => e.1 == key then s else { s with plans := { s.plans with made := s.plans.made ++ [(key, low)] } }

/-- PLAN_TOO_LARGE with its detail (Table 11-7): the cause and the footprint. -/
def tooLarge (d fp : Nat) : Status × List Byte := (.planTooLarge, leBytes 1 d ++ zeros 7 ++ leBytes 8 fp)

/-- Pages that a plan's batch takes (R206). -/
def batchTake (s : State) (c : Container) : Nat := if paged c then ceilDiv (batchBytes c) (pageBytes s) else 0

/-! ### The model store -/

/-- Bytes of a masters list: FP32. -/
def mastersBytes (s : State) : Nat := sumNat (s.tailor.masters.map fun m => 4 * m.2.length)

/-- Bytes of the model store in use, the measurement log's 48 MiB included (R403). -/
def storeUsed (s : State) : Nat := 48 * 1048576 + sumNat (s.plans.loaded.map (·.bytes)) + mastersBytes s

def storeSize (s : State) : Nat := 1048576 * carve s 2

/-! ### Reports (R246, Table 09-10) -/

/-- The size of a report of m stages. -/
def reportSize (c : Container) : Nat := 128 + 16 * c.stages.length

/-- A stage entry: stages of kind HOST and TAILOR give 0 segments and cycles. -/
def stageEntryBytes (e : StageEntry) : List Byte :=
  let own := e.kind != 5 && e.kind != 6
  leBytes 1 e.kind ++ zeros 1 ++ leBytes 2 e.tiles ++ leBytes 4 (if own then e.segments else 0) ++ leBytes 8 (if own then e.cycles else 0)

/-- Targets missed (R249): a target of 0 sets no flag. -/
def targetFlags (p : PlanRec) : Nat :=
  2 * b2n (decide (target p.c 0 ≠ 0 ∧ 1000 * target p.c 0 < findNs p.tputClass p.low + readNs p.tputClass p.low)) +
  4 * b2n (decide (target p.c 1 ≠ 0 ∧ target p.c 1 < p.S))

/-- One plan's report; `m` is the main plan, whose fields a companion's report repeats. -/
def planReport (p m : PlanRec) : List Byte :=
  let comp := p.main != p.handle
  leBytes 4 p.handle ++ leBytes 2 m.revision ++ leBytes 1 (if comp then 0 else p.tputClass) ++
  leBytes 1 (b2n (!comp && p.comp.isSome) + targetFlags p + 8 * b2n p.c.zeroInit) ++
  leBytes 4 p.H ++ leBytes 4 p.S ++ leBytes 4 (refillNs p) ++ leBytes 4 p.low.bandH ++ leBytes 4 p.low.stripeH ++ leBytes 4 (seamReach p.c p.low) ++
  leBytes 4 (findNs p.tputClass p.low) ++ leBytes 4 (readNs p.tputClass p.low) ++ leBytes 4 m.op.rate ++ leBytes 2 m.op.width ++ leBytes 1 m.op.offset ++ zeros 1 ++
  leBytes 2 p.skewK ++ leBytes 2 p.c.stages.length ++ leBytes 4 p.low.segments ++ leBytes 8 p.footprint ++ leBytes 8 m.op.allotment ++
  leBytes 8 (if comp then 0 else p.streamed) ++ leBytes 4 (if comp then 0 else p.low.loadUs) ++
  leBytes 4 (if comp then m.handle else p.comp.getD 0xFFFFFFFF) ++ zeros 8 ++ slice p.c.digest 0 32 ++
  (List.range p.c.stages.length).flatMap fun i => stageEntryBytes { (p.low.stages.getD i default) with kind := (p.c.stages.getD i default).kind }

/-- The report of a plan and its companion. -/
def wholeReport (s : State) (p : PlanRec) : List Byte :=
  planReport p p ++ (match p.comp.bind (findPlan s) with | some q => planReport q p | none => [])

/-- Write a plan's report to its host buffer. -/
def writeReport (s : State) (h : Nat) : State := match findPlan s h with
  | some p => s.hostWrite p.fn p.op.repAddr (wholeReport s p)
  | none => s

/-! ### Models in the wardrobe (R270) -/

/-- Load a plan's model into ways: wardrobe traffic, of level 3 unless the model is of a FEED plan (Tables 10-5, 10-6). -/
def loadModel (s : State) (p : PlanRec) (ways : List Nat) (pinned : Bool) : State :=
  let s := ((placeModel s p ways pinned).chipCnt 34).chipCnt 35 (modelBytes p)
  modAcct s p.fn fun a =>
    { a with wardBytes := a.wardBytes + modelBytes p, dram3 := a.dram3 + if feedModel s p then 0 else modelBytes p }

/-- Take ways for a plan's model, evicting as R270 lays down and counting evictions. -/
def findWays (s : State) (p : PlanRec) : Option (List Nat × State) :=
  (takeWays s (planClass s p) (waysNeeded s p) (evictable s (planClass s p))).map fun r =>
    (r.1, r.2.chipCnt 36 (s.sched.models.length - r.2.sched.models.length))

/-- Load a plan's model now where ways can be had; otherwise it is asked for when it is needed. -/
def loadIfWays (s : State) (p : PlanRec) : State :=
  if modelBytes p = 0 then s
  else match findWays s p with
    | some (w, s) => loadModel s p w false
    | none => s

/-- The slot programs of a plan are written to every region in service, and its resident tables (R238, Table 05-8). -/
def writeRows (s : State) (p : PlanRec) : State := writeTables (writePrograms s p.low (inService s)) p.low fun _ => true

/-! ### The checks of steps 3 to 5 and 7 -/

/-- Steps 3 and 4 for one container; `pages` says whether the batch takes its pages now. -/
def lowerChecks (s : State) (fn : Fn) (c : Container) (low : Lowering) (pages : Nat) : Option (Status × List Byte) :=
  match shapesCheck s fn c low with
  | some st => some (st, [])
  | none =>
    if freePages s < pages then some (tooLarge 4 0)
    else if !cutsOk c low then some (.planBadShape, []) else none

/-- The FIND stage's input tensor. -/
def findInput (c : Container) : Option TensorRec := (c.stages.find? fun st => st.kind == 1).bind fun st => findTensor c st.input

/-- Format and layout of the find stage's input. -/
def findInputForm (c : Container) : Option (Nat × Nat) := (findInput c).map fun t => (t.fmt, t.layout)

/-- May a companion go with its main plan (R251)? -/
def compOk (c cc : Container) (H S Hc Sc : Nat) : Bool :=
  cc.comp.isNone && findInputForm cc == findInputForm c && cc.dict == c.dict && decide (Hc ≤ H ∧ Sc ≤ S)

/-- The footprint of a plan with its companion. -/
def wholeFootprint (s : State) (c : Container) (cc : Option Container) (low lowC : Lowering) : Nat :=
  footprintOf s c low + (match cc with | some x => footprintOf s x lowC | none => 0)

/-- Step 5, with the function's grant in bytes. -/
def fitStep (s : State) (grant : Nat) (c : Container) (cc : Option Container) (o : PlanLoadOp) (low lowC : Lowering) : Except (Status × List Byte) Fit :=
  let F := wholeFootprint s c cc low lowC
  if grant < o.allotment then .error (tooLarge 1 F)
  else match fitCheck F o.allotment low with
    | some f => .ok f
    | none => .error (tooLarge 1 F)

/-- A plan's record as the loader makes it. -/
def mainRec (s : State) (fn : Fn) (h : Nat) (comp : Option Nat) (c : Container) (o : PlanLoadOp) (low : Lowering) (f : Fit) : PlanRec :=
  let K := skewWindow s o.tracks
  { (default : PlanRec) with
    handle := h, fn := fn, main := h, comp := comp, c := c, low := low, op := o, skewK := K, H := horizon c o K f.cls low,
    S := structEst c f.cls low, footprint := f.footprint, tputClass := f.cls, streamed := f.streamed, batchPages := batchTake s c, bytes := o.len }

/-- A companion's record; its container lies in the main plan's. -/
def compRec (s : State) (fn : Fn) (h : Nat) (c : Container) (o : PlanLoadOp) (low : Lowering) : PlanRec :=
  let K := skewWindow s o.tracks
  { (default : PlanRec) with
    handle := h + 1, fn := fn, main := h, c := c, low := low, op := o, skewK := K, H := horizon c o K 0 low, S := structEst c 0 low,
    footprint := footprintOf s c low, batchPages := batchTake s c }

/-- Step 7's checks of a companion. -/
def compChecks (s : State) (p q : PlanRec) (pages : Nat) : Option (Status × List Byte) :=
  if !compOk p.c q.c p.H p.S q.H q.S then some (.planBadShape, [])
  else match lowerChecks s p.fn q.c q.low pages with
    | some e => some e
    | none => if pinFits s q then none else some (.wardrobeFull, [])

/-! ### PLAN_LOAD (R229, R230) -/

/-- Step 1: both containers, then the report buffer. -/
def loadStep1 (b : List Byte) (o : PlanLoadOp) : Except (Status × List Byte) (Container × Option Container) :=
  match readContainer b o.len with
  | .error e => .error (e, [])
  | .ok c =>
    let cc : Except (Status × List Byte) (Option Container) := match c.comp with
      | none => .ok none
      | some x => match readContainer x x.length with
        | .error e => .error (e, [])
        | .ok k => .ok (some k)
    match cc with
    | .error e => .error e
    | .ok k =>
      if o.repLen < reportSize c + (match k with | some x => reportSize x | none => 0) then .error (.badDescriptor, leBytes 4 48) else .ok (c, k)

/-- Step 2: room in the model store, and for the handles. -/
def loadStep2 (s : State) (o : PlanLoadOp) (n : Nat) : Option (Status × List Byte) :=
  if storeSize s < storeUsed s + o.len then some (tooLarge 2 0)
  else if 64 < s.plans.loaded.length + n then some (tooLarge 3 0) else none

/-- The batch's pages leave the free list. -/
def takePages (s : State) (n : Nat) : State := { s with pool := { s.pool with taken := s.pool.taken + n } }

/-- Step 8: the digests are measured, the report is written, the handles become valid and the completion is posted. -/
def endLoad (s : State) (r : RingRef) (h : Hdr) (p : PlanRec) : State :=
  let recs := p :: (p.comp.bind (findPlan s)).toList
  let s := recs.foldl (fun s x => measure s 6 x.fn.val x.handle x.c.digest) s
  let s := recs.foldl (fun s x => modPlan s x.handle fun y => { y with ready := true }) s
  complete (writeReport s p.handle) r h 0x20 .ok (leBytes 4 p.handle ++ leBytes 1 p.tputClass ++ zeros 3 ++ leBytes 4 p.H ++ leBytes 4 p.S)

/-- Step 6 and step 7's load: programs, tables, the model where ways can be had, then the companion's model, which the load waits for when its ways are held
by models in use (R230, R271). -/
def placeLoad (s : State) (p : PlanRec) (q : Option PlanRec) : State :=
  let recs := p :: q.toList
  let s := { s with plans := { s.plans with loaded := s.plans.loaded ++ recs, nextHandle := s.plans.nextHandle + recs.length } }
  let s := recs.foldl writeRows (takePages s (sumNat (recs.map (·.batchPages))))
  let s := match q with
    | none => s
    | some q =>
      if modelBytes q = 0 then s
      else match findWays s q with
        | some (w, s) => loadModel s q w false
        | none => { requestLoad s q none with plans := { s.plans with loading := some p.handle } }
  loadIfWays s p

/-- Steps 3 to 5 for both containers, the flag that names a companion first (R251): the fit. -/
def loadChecks (s : State) (fn : Fn) (c : Container) (cc : Option Container) (o : PlanLoadOp) (low lowC : Lowering) : Except (Status × List Byte) Fit :=
  if c.isComp || (match cc with | some x => !x.isComp | none => false) then .error (.planBadShape, [])
  else match lowerChecks s fn c low (batchTake s c) with
    | some e => .error e
    | none => fitStep s s.plans.grant c cc o low lowC

/-- The steps of Table 09-4 over a container's bytes and the loader's lowerings: the machine after a load, or the status of the step that fails. -/
def loadPlan (s : State) (fn : Fn) (o : PlanLoadOp) (b : List Byte) (low lowC : Lowering) : Except (Status × List Byte) (PlanRec × State) :=
  match loadStep1 b o with
  | .error e => .error e
  | .ok (c, cc) => match loadStep2 s o (1 + cc.toList.length) with
    | some e => .error e
    | none => match loadChecks s fn c cc o low lowC with
      | .error e => .error e
      | .ok f =>
        let n := s.plans.nextHandle
        let p := mainRec s fn n (cc.map fun _ => n + 1) c o low f
        match cc with
        | none => .ok (p, placeLoad s p none)
        | some x =>
          let q := compRec s fn n x o lowC
          match compChecks (takePages s p.batchPages) p q q.batchPages with
          | some e => .error e
          | none => .ok (p, placeLoad s p (some q))

/-- The load at the head of the queue begins: it takes its function's grant (R469) and reads its container. -/
def startLoad (s : State) : State := match s.plans.loadQ with
  | (r, _, o) :: _ => ({ s with plans := { s.plans with grant := 1048576 * tsGrantMiB s r.fn.val } }).hostRead r.fn o.addr o.len
  | [] => s

/-- PLAN_LOAD's effect once its start checks have passed: one load runs at a time (R229); a report buffer below 128 bytes fails at the start. -/
def runPlanLoad (s : State) (r : RingRef) (h : Hdr) (o : PlanLoadOp) : State :=
  if o.repLen < 128 then complete s r h 0x20 .badDescriptor (leBytes 4 48)
  else
    let idle := s.plans.loadQ.isEmpty
    let s := { s with plans := { s.plans with loadQ := s.plans.loadQ ++ [(r, h, o)] } }
    if idle then startLoad s else s

/-- The lowerings of a load's containers, as they are made from the same inputs before (R497). -/
def loadLows (s : State) (o : PlanLoadOp) (b : List Byte) (low lowC : Lowering) : State × Lowering × Lowering := match loadStep1 b o with
  | .error _ => (s, low, lowC)
  | .ok (c, cc) =>
    let k := lowKey s c o.tracks
    let l := madeLow s k low
    let s := recordLow s k l
    match cc with
    | none => (s, l, lowC)
    | some x =>
      let kc := lowKey s x o.tracks
      let lc := madeLow s kc lowC
      (recordLow s kc lc, l, lc)

/-- The head of the queue is done; the next load begins. -/
def nextInQueue (s : State) : State := startLoad { s with plans := { s.plans with loadQ := s.plans.loadQ.drop 1, loading := none } }

/-- PLAN_LOAD_COMPLETE: the steps of the load at the head of the queue are done. It ends, unless it waits for its companion's model. -/
def execPlanLoadComplete (container : List Byte) (low lowC : Lowering) (s : State) : Host.Outcome State Fault Refusal :=
  match s.plans.loading, s.plans.loadQ with
  | none, (r, h, o) :: _ =>
    let x := loadLows s o container low lowC
    match loadPlan x.1 r.fn o container x.2.1 x.2.2 with
    | .error e => .next (nextInQueue (complete x.1 r h 0x20 e.1 e.2))
    | .ok (p, s) => .next (if s.plans.loading.isSome then s else nextInQueue (endLoad s r h p))
  | _, _ => .next s

/-! ### Relowering (R250) -/

/-- What a plan is now, kept for the jobs that have started on it (R250). -/
def oldLow (p : PlanRec) : OldLow := { revision := p.revision, c := p.c, low := p.low, streamed := p.streamed }

/-- A plan under a new lowering of a container. -/
def newLow (s : State) (p : PlanRec) (c : Container) (low : Lowering) (f : Fit) : PlanRec :=
  let K := skewWindow s p.op.tracks
  { p with c := c, low := low, skewK := K, H := horizon c p.op K f.cls low, S := structEst c f.cls low, footprint := f.footprint, tputClass := f.cls,
           streamed := f.streamed, revision := p.revision + 1, stale := false, olds := p.olds ++ [oldLow p] }

/-- A companion under a new lowering: the revision is the main plan's. -/
def newCompLow (s : State) (p q : PlanRec) (low : Lowering) : PlanRec :=
  let K := skewWindow s q.op.tracks
  { q with low := low, skewK := K, H := horizon q.c q.op K 0 low, S := structEst q.c 0 low, footprint := footprintOf s q.c low,
           revision := p.revision, stale := false, olds := q.olds ++ [oldLow q] }

/-- Steps 3 to 7 again, against the same allotment: the new records, or the failure. -/
def relower (s : State) (p : PlanRec) (c : Container) (low lowC : Lowering) : Except (Status × List Byte) (PlanRec × Option PlanRec) :=
  let q := p.comp.bind (findPlan s)
  match lowerChecks s p.fn c low 0 with
  | some e => .error e
  | none => match fitStep s p.op.allotment c (q.map (·.c)) p.op low lowC with
    | .error e => .error e
    | .ok f =>
      let p' := newLow s p c low f
      match q with
      | none => .ok (p', none)
      | some q =>
        let q' := newCompLow s p' q lowC
        match compChecks s p' q' 0 with
        | some e => .error e
        | none => .ok (p', some q')

/-- A plan's model at a new revision: it takes the old model's ways where no job uses that, else free ways; a pin carries over. -/
def remodel (s : State) (p p' : PlanRec) : State :=
  match residentModel s p with
  | none => modPlan s p.handle fun _ => p'
  | some m =>
    let s := modPlan s p.handle fun _ => p'
    let used := s.sched.jobs.any fun j => j.started && j.plan == m.plan && j.revision == m.revision
    let s0 := if used then s else { s with sched := { s.sched with models := s.sched.models.filter fun x => x != m } }
    if !used && waysNeeded s p' == m.ways.length then loadModel s0 p' m.ways m.pinned
    else match findWays s0 p' with
      | some (w, s) => loadModel s p' w m.pinned
      | none => requestLoad s0 p' none

/-- A relowering that succeeds: new revision, report rewritten, health log, models. -/
def applyRelower (s : State) (p p' : PlanRec) (q' : Option PlanRec) : State :=
  let s := remodel s p p'
  let s := match q' with
    | some q' => match findPlan s q'.handle with
      | some q => remodel s q q'
      | none => s
    | none => s
  let s := (p' :: q'.toList).foldl writeRows s
  let s := logHealth (writeReport s p'.handle) { HealthEntry.of 18 p'.handle with fn := some p'.fn.val }
  dropOldModels s

/-- A relowering whose fit check fails: the plan stays on the old lowering while its regions serve. -/
def staleRelower (s : State) (p : PlanRec) : State :=
  let s := modPlan s p.handle fun x => { x with stale := true }
  let s := match p.comp with
    | some q => modPlan s q fun x => { x with stale := true }
    | none => s
  if allRegions.any fun g => (s.reg8 g).state == 2 then invalidate s else s

/-- The lowerings of a relowering's containers, as they are made from the same inputs before (R497). -/
def relowerLows (s : State) (p : PlanRec) (low lowC : Lowering) : State × Lowering × Lowering :=
  let k := lowKey s p.c p.op.tracks
  let l := madeLow s k low
  let s := recordLow s k l
  match p.comp.bind (findPlan s) with
  | none => (s, l, lowC)
  | some q =>
    let kc := lowKey s q.c p.op.tracks
    let lc := madeLow s kc lowC
    (recordLow s kc lc, l, lc)

/-- RELOWER_COMPLETE: the plan at the head of the queue has been lowered again. -/
def execRelowerComplete (low lowC : Lowering) (s : State) : Host.Outcome State Fault Refusal :=
  match s.plans.relowerQ with
  | [] => .next s
  | n :: rest =>
    let s := { s with plans := { s.plans with relowerQ := rest } }
    match findPlan s n with
    | none => .next s
    | some p =>
      let x := relowerLows s p low lowC
      match relower x.1 p p.c x.2.1 x.2.2 with
      | .error _ => .next (serveImages (staleRelower x.1 p))
      | .ok (p', q') => .next (serveImages (applyRelower x.1 p p' q'))

/-! ### PLAN_UNLOAD (R253) -/

/-- Zero the way rows of a plan's models when its function scrubs on release (R144). -/
def scrubModels (s : State) (p : PlanRec) : State :=
  if scrubRelease s p.fn.val then
    ((s.sched.models.filter fun m => m.plan == p.handle).flatMap (·.ways)).foldl
      (fun s w => zeroRows s (List.range 256) (w * wayRows s) (wayRows s)) s
  else s

/-- Sequences of a plan's batch give up their pages. -/
def closeBatch (s : State) (h : Nat) : State :=
  let s := (batchSeqs s h).foldl (fun s q =>
    let s := (match q.req with | some _ => failSeqStep s q .planUnknown | none => s)
    q.entries.foldl (fun s e => match e.2.pageNo with | some pg => dropRef s h pg | none => s) s) s
  let s := endWalk s h
  { s with pool := { s.pool with seqs := s.pool.seqs.filter fun q => q.plan != h } }

/-- Everything a plan or companion holds is given up. -/
def dropPlan (s : State) (p : PlanRec) : State :=
  let s := dropModel (closeBatch (scrubModels s p) p.handle) p.handle
  { s with
    pool := { s.pool with taken := s.pool.taken - p.batchPages },
    sched := { s.sched with loads := s.sched.loads.filter fun l => l.plan != p.handle },
    tailor := { s.tailor with masters := s.tailor.masters.filter fun m => m.1 != p.handle },
    plans := { s.plans with loaded := s.plans.loaded.filter (fun x => x.handle != p.handle), relowerQ := s.plans.relowerQ.filter fun h => h != p.handle } }

/-- Has the last job of a plan and its companion ended, and is the plan named by no armed track? -/
def unloadReady (s : State) (p : PlanRec) : Bool :=
  let hs := p.handle :: p.comp.toList
  !(s.sched.jobs.any fun j => hs.contains j.plan) && !armedPlan s p.handle &&
  !(s.pool.seqs.any fun q => hs.contains q.plan && q.req.isSome)

/-- The plan is gone: measured, rows released, space freed; its descriptor completes. -/
def unloadPlan (s : State) (p : PlanRec) (r : RingRef) (h : Hdr) : State :=
  let recs := p :: (p.comp.bind (findPlan s)).toList
  let s := recs.foldl dropPlan s
  let s := recs.foldl (fun s x => measure s 7 x.fn.val x.handle x.c.digest) s
  complete s r h 0x21 .ok []

/-- PLAN_UNLOAD_COMPLETE: the last job of a plan being unloaded has ended (and SCAN_DISARM has taken effect). -/
def execPlanUnloadComplete (plan : Nat) (s : State) : Host.Outcome State Fault Refusal :=
  match findPlan s plan with
  | some p => match p.unload with
    | some (r, h) => .next (if unloadReady s p then serveImages (unloadPlan s p r h) else s)
    | none => .next s
  | none => .next s

/-- PLAN_UNLOAD's effect once its start checks have passed. -/
def runPlanUnload (s : State) (r : RingRef) (h : Hdr) (plan : Nat) : State :=
  match planOf s r.fn plan with
  | none => complete s r h 0x21 .planUnknown []
  | some p =>
    let s := modPlan s plan fun x => { x with unload := some (r, h) }
    match p.comp with
    | some q => modPlan s q fun x => { x with unload := some (r, h) }
    | none => s

/-! ### WARDROBE_PIN (R271) and wardrobe loads (R270) -/

/-- Set or clear a model's pin. -/
def setPin (s : State) (h : Nat) (b : Bool) : State :=
  { s with sched := { s.sched with models := mapWhere (fun m => m.plan == h) (fun m => { m with pinned := b }) s.sched.models } }

/-- WARDROBE_PIN's effect once its start checks have passed: 0 unpin, 1 pin, 2 load without pinning. -/
def runWardrobePin (s : State) (r : RingRef) (h : Hdr) (o : WardrobePinOp) : State :=
  let done := fun (s : State) (st : Status) => complete s r h 0x22 st []
  match planOf s r.fn o.plan with
  | none => done s .planUnknown
  | some p =>
    if o.op = 0 then done (setPin s p.handle false) .ok
    else if modelReady s p then done (if o.op = 1 ∧ (residentModel s p).isSome ∧ ¬ pinFits s p then s else if o.op = 1 then setPin s p.handle true else s)
      (if o.op = 1 ∧ (residentModel s p).isSome ∧ ¬ pinFits s p then .wardrobeFull else .ok)
    else if !pinFits s p then done s .wardrobeFull
    else requestLoad s p (some (r, h, o.op))

/-- A finished load of a plan at a revision ends the requests for it and completes the WARDROBE_PINs among them. -/
def donePins (s : State) (p : PlanRec) (st : Status) : State :=
  let hit := fun (l : LoadReq) => l.plan == p.handle && (match loadPlanOf s l with
    | some q => q.revision == p.revision
    | none => true)
  let ls := s.sched.loads.filter hit
  let s := { s with sched := { s.sched with loads := s.sched.loads.filter fun l => !hit l } }
  ls.foldl (fun s l => match l.pin with
    | some (r, hd, op) => complete (if op = 1 ∧ st = .ok then setPin s p.handle true else s) r hd 0x22 st []
    | none => s) s

/-- The load of a plan ends where its companion's model is resident (R230). -/
def loadWaitDone (s : State) : State :=
  match s.plans.loading.bind (findPlan s), s.plans.loadQ with
  | some p, (r, h, _) :: _ => match p.comp.bind (findPlan s) with
    | some q => if modelReady s q then nextInQueue (endLoad s r h p) else s
    | none => s
  | _, _ => s

/-- A plan whose companion's model cannot be read does not load: nothing of it remains (R230; log 73). -/
def loadWaitFails (s : State) (h : Nat) : State :=
  match s.plans.loading.bind (findPlan s), s.plans.loadQ with
  | some p, (r, hd, _) :: _ =>
    if p.comp = some h then
      let recs := p :: (p.comp.bind (findPlan s)).toList
      let s := recs.foldl dropPlan s
      let s := { s with plans := { s.plans with nextHandle := s.plans.nextHandle - recs.length } }
      nextInQueue (complete s r hd 0x20 .dramUncorrectable [])
    else s
  | _, _ => s

/-- A load whose read meets an uncorrectable DRAM error: the jobs that wait for it end, and each later load fails the same way (Table 17-3). -/
def loadFailed (s : State) (p : PlanRec) : State :=
  let s := logHealth s { HealthEntry.of 14 0 with status := some .dramUncorrectable, fn := some p.fn.val }
  let s := modPlan s p.handle fun x => { x with storeBad := true }
  let js := s.sched.jobs.filter fun j => j.plan == p.handle && (j.state == .ready || j.state == .saved)
  loadWaitFails (donePins (js.foldl (fun s j => failJob s j .dramUncorrectable []) s) p .dramUncorrectable) p.handle

/-- WARDROBE_LOAD_COMPLETE: the load that runs is the next by R270; it ends for the plan named. -/
def execWardrobeLoadComplete (plan : Nat) (dramBad : Bool) (s : State) : Host.Outcome State Fault Refusal :=
  match nextLoad s with
  | none => .next s
  | some l =>
    if l.plan ≠ plan then .next s
    else match loadPlanOf s l with
      | none => .next s
      | some p =>
        if dramBad || p.storeBad then .next (serveImages (loadFailed s p))
        else if (residentModel s p).isSome then .next (serveImages (loadWaitDone (donePins s p .ok)))
        else match findWays s p with
          | some (w, s) => .next (serveImages (loadWaitDone (donePins (loadModel s p w false) p .ok)))
          | none => .next s

end Sys2Proof.Machine
end

