-- ==== Sys2Proof/Machine/Saves.lean ====
section
/-! DEFINITION. Saves and restores of contexts (R261 to R267), stripe by stripe (R193), the landing of router transfers and far reads (R114, R191), and what
follows a boundary: drains, arms and the scheduler. -/

namespace Sys2Proof.Machine

open Sys2Proof

/-! ### Transfers (R114, R191) -/

/-- Land the transfer with a number. -/
def landOne (hem : Bool) (id : Nat) (s : State) : State :=
  match s.transfers.find? fun x => x.hem == hem && x.id == id with
  | some x => landTransfer s x
  | none => s

/-! ### After a boundary -/

/-- SAVED jobs whose plan's handle has become invalid end, and damaged ones end in place of their restore (R267, Table 17-3). -/
def dropSaved (s : State) : State :=
  (s.sched.jobs.filter fun j => j.state == .saved && !j.saving).foldl (fun s j =>
    match findPlan s j.plan with
    | some p =>
      if p.invalid then failJob s j .planUnknown []
      else if j.damaged && (tryStart s j).isSome then failJob s j .tsUncorrectable [] else s
    | none => s) s

/-- What any release of tiles lets happen. -/
def settle (s : State) : State := finishArms (settleDrains (dropSaved (serveImages s)))

/-- HEM_LANDED: the last word of a hem is in its landing area; the segments that it held back may start (R192). -/
def execHemLanded (id : Nat) (s : State) : Host.Outcome State Fault Refusal := .next (settle (landOne true id s))

/-- FAR_READ_LANDED: the words of a far read are in the reader's scratch. -/
def execFarReadLanded (id : Nat) (s : State) : Host.Outcome State Fault Refusal := .next (settle (landOne false id s))

/-! ### Saves (R261 to R264) -/

/-- The relative address of a physical one; none outside the scratch of the pair. -/
def physRel (c : CtxPairs) (a : Nat) : Option Nat :=
  if c.sBase ≤ tsRow a ∧ tsRow a < c.sBase + c.sCount then some (tsAddr ((tsTile a + 256 - c.sShift) % 256) (tsRow a - c.sBase) (tsBank a) (tsByte a))
  else none

/-- The scratch of a stripe, keyed by stripe and relative address. -/
def savedCells (s : State) (c : CtxPairs) (l : Lane) : List Host.Cell :=
  s.store.mem.filterMap fun x => if l.tiles.contains (tsTile x.1) then (physRel c x.1).map fun a => (l.stripe * 2 ^ 29 + a, x.2) else none

/-- The accumulators of a stripe, keyed by stripe and relative tile. -/
def savedAccs (s : State) (c : CtxPairs) (l : Lane) : List (Nat × Word32) :=
  s.acc.filterMap fun a =>
    let t := a.1 / 16384
    if l.tiles.contains t then some ((l.stripe * 256 + (t + 256 - c.sShift) % 256) * 16384 + a.1 % 16384, a.2) else none

/-- Count a save or a restore in its regions, and its time: the largest share at 256 GB/s. -/
def countMove (s : State) (fn : Fn) (idx : Nat) (bytes : List (Nat × Nat)) : State :=
  let s := bytes.foldl (fun s b => (s.countN famRegion b.1 idx 1).countN famRegion b.1 21 b.2) s
  modAcct s fn fun a => { a with saveNs := a.saveNs + ceilDiv (maxNat ((List.range 8).map fun g => sumNat ((bytes.filter fun b => b.1 == g).map (·.2)))) 256 }

/-- A stripe's state is in the hamper: transfers to it have landed first (R193), its words have passed the corrector (R133, R134), and it gives up its tiles. -/
def saveLane (s : State) (job : Nat) (l : Lane) : State :=
  let s := (s.transfers.filter fun x => x.job == job && x.stripe == l.stripe && x.bytes.isSome).foldl landTransfer s
  match findJob s job, pairsOf s job l.stripe with
  | some j, some c =>
    let bad := l.tiles.any (scratchBad s)
    let s := l.tiles.foldl (fun s t => readScratch s (some j.fn.val) t) s
    let cells := savedCells s c l
    let accs := savedAccs s c l
    let n := stripeBytes s j l
    let s := freeLane j s l
    modJob s job fun x => { x.setLane l.stripe (fun y => { y with state := .saved }) with
      saved := x.saved ++ cells, savedAcc := x.savedAcc ++ accs, savedBytes := x.savedBytes ++ [(l.stripe, l.region, n)], damaged := x.damaged || bad }
  | _, _ => s

/-- A stripe that has ended while its rows wait for their consumer: the waiting transfers take them, and its tiles are free. -/
def saveEnded (s : State) (j : Job) (l : Lane) : State :=
  freeLane j ((s.transfers.filter fun x => x.job == j.id && x.src == l.stripe && x.bytes.isNone).foldl takeTransfer s) l

/-- Is every stripe of a job that must be saved at its boundary: all that hold tiles for a victim, those in a region that drains for others (R193)? -/
def saveReady (j : Job) : Bool :=
  (j.lanes.any fun l => l.state == .saving) && !(j.victim && j.lanes.any fun l => l.state == .wait || l.state == .run || l.state == .restoring)

/-- A save ends: the stripes concerned are in the hamper; a job none of whose stripes holds tiles is SAVED and holds hamper space only. -/
def saveJob (s : State) (j : Job) : State :=
  let ls := j.lanes.filter fun l => l.state == .saving
  let s := countMove s j.fn 19 (ls.map fun l => (l.region, stripeBytes s j l))
  let s := if j.victim then modAcct s j.fn fun a => { a with preempt := a.preempt + 1 } else s
  let s := ls.foldl (fun s l => saveLane s j.id l) s
  let s := if j.victim then (j.lanes.filter fun l => l.state == .ended && !l.tiles.isEmpty).foldl (fun s l => saveEnded s j l) s else s
  modJob s j.id fun x =>
    if x.tiles.isEmpty then { x with state := .saved, victim := false, ctx := none, savedAt := s.now } else x

/-- SAVE_COMPLETE: the slowest region's part of a job's state is in the hamper. -/
def execSaveComplete (job : Nat) (s : State) : Host.Outcome State Fault Refusal :=
  match findJob s job with
  | some j => .next (if j.state = .running ∧ saveReady j then settle (saveJob s j) else s)
  | none => .next s

/-! ### Restores (R267) -/

/-- A stripe's state is back on its new placement. -/
def restoreLane (j : Job) (s : State) (l : Lane) : State :=
  match pairsOf s j.id l.stripe with
  | none => s
  | some c =>
    let s := zeroRows s l.tiles c.sBase c.sCount
    let mem := (j.saved.filter fun x => x.1 / 2 ^ 29 == l.stripe).foldl (fun m x => smSet (0 : Byte) m ((placeOf (x.1 % 2 ^ 29)).phys c) x.2) s.store.mem
    let acc := (j.savedAcc.filter fun a => a.1 / 16384 / 256 == l.stripe).foldl
      (fun m a => smInsert m (relTile c (a.1 / 16384 % 256) * 16384 + a.1 % 16384) a.2) s.acc
    modJob { s with store := { s.store with mem := mem }, acc := acc } j.id fun x => { x.setLane l.stripe (fun y => { y with state := .wait }) with
      saved := x.saved.filter fun y => y.1 / 2 ^ 29 != l.stripe, savedAcc := x.savedAcc.filter fun a => a.1 / 16384 / 256 != l.stripe,
      savedBytes := x.savedBytes.filter fun b => b.1 != l.stripe }

/-- A restore ends: the stripes concerned wait for their next segments, and hems that waited for them start. -/
def restoreJob (s : State) (j : Job) : State :=
  let ls := j.lanes.filter fun l => l.state == .restoring
  let s := countMove s j.fn 20 (ls.map fun l => (l.region, stripeBytes s j l))
  let s := ls.foldl (restoreLane j) s
  (s.transfers.filter fun x => x.job == j.id && x.bytes.isNone && (placedLane s j.id x.stripe).isSome).foldl takeTransfer s

/-- RESTORE_COMPLETE: a restore has ended, or has met an uncorrectable DRAM word. -/
def execRestoreComplete (job : Nat) (dramBad : Bool) (s : State) : Host.Outcome State Fault Refusal :=
  match findJob s job with
  | some j =>
    if j.state = .running ∧ j.lanes.any fun l => l.state == .restoring then
      if dramBad then
        let s := logHealth s { HealthEntry.of 14 0 with status := some .dramUncorrectable, fn := some j.fn.val }
        .next (settle (failJob s j .dramUncorrectable []))
      else .next (settle (restoreJob s j))
    else .next s
  | none => .next s

end Sys2Proof.Machine
end

