-- ==== Sys2Proof/Machine/Batch.lean ====
section
/-! DEFINITION. How sequences enter a running batch: final tokens of FEED pieces (R19, R21, R252) and SEQ_STEP descriptors (R218), and
BATCH_STEP_START (R219). -/

namespace Sys2Proof.Machine

open Sys2Proof

/-! ### Sequences of pieces -/

/-- A new sequence that asks to join (Table 08-8). -/
def newSeq (s : State) (fn : Fn) (plan cls prio : Nat) (piece : Option (Track × Nat)) (fresh : List Tok) : Nat × State :=
  let id := s.pool.nextSeq
  let q : SeqSt := { (default : SeqSt) with
    id := id, fn := fn, plan := plan, state := .joining, cls := cls, prio := prio, piece := piece, fresh := fresh }
  (id, { s with pool := { s.pool with seqs := s.pool.seqs ++ [q], nextSeq := id + 1 } })

/-- The sequence of a FEED piece in the batch of the plan it runs on, which has not left. -/
def liveSeq (s : State) (t : Track) (n plan : Nat) : Option SeqSt :=
  s.pool.seqs.find? fun q => q.piece == some (t, n) && q.plan == plan && decide (q.state ≠ .leaving)

/-- Tokens of a piece that have become final go to its sequence, which asks to join with the first of them (R19). -/
def moveFinal (p : PlanRec) (t : Track) (s : State) (n : Nat) : State :=
  match findPiece s t n with
  | none => s
  | some pc =>
    let line := pieceLine s t pc
    let fin := (pc.toks.filter fun e => decide (e.1 ≤ line)).map (·.2)
    if fin.isEmpty then s
    else
      let s := modPiece s t n fun x => { x with toks := x.toks.filter (fun e => decide (line < e.1)), final := x.final ++ fin, joined := true }
      let s := match liveSeq s t n p.handle with
        | some q => modSeq s q.id fun q => { q with fresh := q.fresh ++ fin }
        | none => (newSeq s p.fn p.handle 0 255 (some (t, n)) fin).2
      sidesEnded s t n

/-- Live pieces of a track that run on a plan. -/
def piecesOn (s : State) (t : Track) (h : Nat) : List Nat :=
  ((s.track t).pieces.filter fun y => y.live && y.line0.isSome && (match piecePlan s t y with
    | some p => p.handle == h
    | none => false)).map (·.num)

/-! ### SEQ_STEP (R218) -/

/-- The token entries of a SEQ_STEP, laid out as R212 gives: number, centre, segment, side. -/
def readToks (aux : List Byte) (n : Nat) : List Tok :=
  (List.range n).map fun i =>
    { num := fieldAt aux (16 * i) 4, x := fieldAt aux (16 * i + 4) 2, y := fieldAt aux (16 * i + 6) 2, seg := fieldAt aux (16 * i + 8) 2,
      side := bitAt (fieldAt aux (16 * i + 10) 1) 0 }

/-- What a SEQ_STEP asks of its sequence. -/
def stepReq (j : Job) (r : RingRef) (o : SeqStepOp) : StepReq :=
  { job := j.id, r := r, hdr := j.hdr, member := j.member, joined := bitAt o.flags 0, leaveAfter := bitAt o.flags 1, generate := !bitAt o.flags 2,
    limit := o.limit, written := 0 }

/-- A SEQ_STEP job ends with an error before its sequence takes it. -/
def seqRefused (s : State) (j : Job) (st : Status) (id : Nat) : State := removeJob (reportJob s j st (seqDetail 0 id 0) none) j.id

/-- A waiting SEQ_STEP is taken by its sequence; it waits while an earlier one stands on it, and while the basket is above its high-water mark (R336). -/
def takeSeqJob (p : PlanRec) (s : State) (j : Job) : State :=
  match j.kind, j.ring, basketOver s with
  | .seq o aux, some r, false =>
    let ts := readToks aux o.tokCount
    let go := fun (s : State) => modJob s j.id fun x => { x with state := .running, started := true }
    if bitAt o.flags 0 then
      let (id, s) := newSeq s j.fn p.handle j.cls j.prio none ts
      go (modSeq s id fun q => { q with req := some (stepReq j r o) })
    else match seqOf s j.fn p.handle o.seq with
      | none => seqRefused s j .seqUnknown o.seq
      | some q =>
        if q.state = .leaving then seqRefused s j .badState o.seq
        else if q.req.isSome then s
        else go (modSeq s q.id fun q => { q with req := some (stepReq j r o), fresh := ts, cls := j.cls, prio := j.prio, ended := false })
  | _, _, _ => s

/-- SEQ_STEP jobs of a plan that wait. -/
def seqJobs (s : State) (h : Nat) : List Job :=
  s.sched.jobs.filter fun j => j.plan == h && j.state == .queued && (match j.kind with
    | .seq _ _ => true
    | _ => false)

/-- The job of a SEQ_STEP. -/
def seqStepJob (s : State) (r : RingRef) (h : Hdr) (o : SeqStepOp) (aux : List Byte) (member : Bool) : Job :=
  { (default : Job) with
    fn := r.fn, ring := some r, hdr := h, opcode := 0x11, cls := runClass o.cls, prio := o.prio, plan := o.plan, kind := .seq o aux, state := .queued,
    member := member, inputReady := true, readyAt := s.now, note := .ok }

/-! ### BATCH_STEP_START -/

/-- BATCH_STEP_START: the last command of the previous step has ended; the step's fold commits and its first command starts. -/
def execBatchStepStart (plan : Nat) (s : State) : Host.Outcome State Fault Refusal :=
  match findPlan s plan with
  | none => .next s
  | some p =>
    if stepRuns s plan || s.pwr.device then .next s
    else
      let s := allTracks.foldl (fun s t => (piecesOn s t plan).foldl (moveFinal p t) s) s
      let s := (seqJobs s plan).foldl (takeSeqJob p) s
      .next (settle (startStep s p))

end Sys2Proof.Machine
end

