-- ==== Sys2Proof/Machine/CountersOps.lean ====
section
/-! DEFINITION. SNAPSHOT (R458 to R463, Tables 19-1, 19-3 and 10-6): the shadow banks, the capture and the gather. -/

namespace Sys2Proof.Machine

open Sys2Proof

/-! ### Sizes (R462, Table 19-1) -/

/-- Entries and counters per entry of a counter family. -/
def familyDim (fam : Nat) : Nat × Nat :=
  match fam with
  | 0 => (256, 16)
  | 1 => (8, 64)
  | 2 => (1, 256)
  | _ => (4, 32)

/-- Records of the accounting set. -/
def acctEntries (fn : Fn) : Nat := if fn.val = 0 then 16 else 1

/-- Bytes of a set, header included. -/
def setBytes (fn : Fn) (bit : Nat) : Nat :=
  if bit < 4 then 16 + 8 * (familyDim bit).1 * (familyDim bit).2 else 16 + 64 * acctEntries fn

/-- The sets of a mask in bit order. -/
def maskSets (mask : Nat) : List Nat := (List.range 5).filter (bitAt mask)

/-- The size of a buffer. -/
def snapshotSize (fn : Fn) (mask : Nat) : Nat := 32 + sumNat ((maskSets mask).map (setBytes fn))

/-! ### What is written -/

/-- Slowdown, unsigned 16.16: actual over estimate across the last segments; 0 before any. -/
def slowdown (a : Acct) : Nat :=
  let e := sumNat (a.recent.map (·.2))
  if e = 0 then 0 else sumNat (a.recent.map (·.1)) * 65536 / e

/-- An accounting record (Table 10-6). -/
def acctBytes (a : Acct) : List Byte :=
  leBytes 8 a.wait ++ leBytes 4 a.jobs ++ leBytes 4 a.preempt ++ leBytes 8 a.saveNs ++ leBytes 8 a.actual ++ leBytes 8 a.estimate ++
  leBytes 4 (slowdown a) ++ leBytes 2 a.quick ++ leBytes 2 a.late ++ leBytes 8 a.wardBytes ++ leBytes 8 a.dram3

/-- Counter i of entry e lies at byte 8 × (e × counters per entry + i). -/
def familyBytes (shadow : List (Nat × Word64)) (fam : Nat) : List Byte :=
  let d := familyDim fam
  (List.range d.1).flatMap fun e => (List.range d.2).flatMap fun i => leBytes 8 (smGet (0 : Word64) shadow (cntKey fam e i)).toNat

/-- The entries of a set. -/
def setBody (b : Bank) (fn : Fn) (bit : Nat) : List Byte :=
  if bit < 4 then familyBytes b.shadow bit
  else if fn.val = 0 then b.acct.flatMap acctBytes else acctBytes (b.acct.getD fn.val default)

/-- A set with its header (Table 19-3). -/
def setOut (b : Bank) (fn : Fn) (bit : Nat) : List Byte :=
  let per := if bit < 4 then 8 * (familyDim bit).2 else 64
  let n := if bit < 4 then (familyDim bit).1 else acctEntries fn
  leBytes 2 bit ++ leBytes 2 per ++ leBytes 4 n ++ leBytes 4 (setBytes fn bit) ++ zeros 4 ++ setBody b fn bit

/-- The buffer of one SNAPSHOT. -/
def snapshotBytes (b : Bank) (fn : Fn) (mask : Nat) : List Byte :=
  [0x53, 0x43, 0x4E, 0x54] ++ leBytes 2 1 ++ leBytes 2 (maskSets mask).length ++ leBytes 8 b.T ++ leBytes 4 mask ++ leBytes 4 (snapshotSize fn mask) ++
  zeros 8 ++ (maskSets mask).flatMap (setOut b fn)

/-! ### The banks (R459) -/

def bankOf (s : State) (k : Fin 2) : Option Bank := s.banks[k.val]
def setBank (s : State) (k : Fin 2) (b : Option Bank) : State := { s with banks := s.banks.set k.val b }

/-- The bank a SNAPSHOT takes: one whose pending capture has the same T, else a free one. -/
def snapshotBank (s : State) (T : Nat) : Option (Fin 2) :=
  match ([0, 1] : List (Fin 2)).find? fun k => (match bankOf s k with
    | some b => b.T == T && !b.taken
    | none => false) with
  | some k => some k
  | none => ([0, 1] : List (Fin 2)).find? fun k => (bankOf s k).isNone

/-- The checks of R458 in their order. -/
def snapshotCheck (s : State) (fn : Fn) (o : SnapshotOp) : Option (Status × List Byte) :=
  if o.mask = 0 ∨ 32 ≤ o.mask then some (.badDescriptor, leBytes 1 36)
  else if fn.val ≠ 0 ∧ o.mask ≠ 16 then some (.notPermitted, [])
  else if o.len < snapshotSize fn o.mask then some (.badDescriptor, leBytes 1 32)
  else if s.now + 2 ^ 32 < o.T then some (.badDescriptor, leBytes 1 16)
  else if o.T < s.now + 2800 then some (.snapshotTooSoon, []) else none

/-- SNAPSHOT's effect once its start checks have passed and a bank can be had. -/
def runSnapshot (s : State) (r : RingRef) (h : Hdr) (o : SnapshotOp) : State :=
  match snapshotCheck s r.fn o with
  | some e => complete s r h 0x50 e.1 e.2
  | none => match snapshotBank s o.T with
    | none => s
    | some k =>
      let j : SnapJoin := { r := r, hdr := h, op := o }
      match bankOf s k with
      | some b => setBank s k (some { b with joins := b.joins ++ [j] })
      | none => setBank s k (some { T := o.T, joins := [j], taken := false, shadow := [], acct := [] })

/-- SNAPSHOT_CAPTURE: the fabric time base reaches T; every counter copies into its bank. -/
def execSnapshotCapture (bank : Fin 2) (s : State) : Host.Outcome State Fault Refusal :=
  match bankOf s bank with
  | some b =>
    if b.taken then .next s
    else
      let s := passUntil s b.T
      .next (setBank s bank (some { b with taken := true, shadow := s.cnt, acct := s.sched.acct.toList }))
  | none => .next s

/-- SNAPSHOT_GATHER_DONE: the requested sets are written, then the completions; the bank is free. -/
def execSnapshotGatherDone (bank : Fin 2) (s : State) : Host.Outcome State Fault Refusal :=
  match bankOf s bank with
  | some b =>
    if !b.taken then .next s
    else .next (b.joins.foldl (fun s j =>
      let n := snapshotSize j.r.fn j.op.mask
      complete (s.hostWrite j.r.fn j.op.addr (snapshotBytes b j.r.fn j.op.mask)) j.r j.hdr 0x50 .ok (leBytes 8 b.T ++ leBytes 4 n)) (setBank s bank none))
  | none => .next s

/-- A reset of functions discards their SNAPSHOTs and frees a bank that no other holds (R463). -/
def dropSnapshots (s : State) (gone : Fn → Bool) : State :=
  ([0, 1] : List (Fin 2)).foldl (fun s k => match bankOf s k with
    | some b =>
      let js := b.joins.filter fun j => !gone j.r.fn
      setBank s k (if js.isEmpty then none else some { b with joins := js })
    | none => s) s

end Sys2Proof.Machine
end

