-- ==== Sys2Proof/Machine/Tailoring.lean ====
section
/-! DEFINITION. TAILOR_STEP and the tailoring commit (R353 to R360): masters, gradients, the update, and the wardrobe swap. -/

namespace Sys2Proof.Machine

open Sys2Proof

/-! ### Tailored tensors (R353) -/

/-- The weight tensors read by the operators of the TAILOR stage, in the order of the TENSORS section. -/
def tailorTensors (c : Container) : List TensorRec :=
  let ids := (c.opers.filter fun o => (recStage c o).kind == 6).flatMap (·.ins)
  c.tensors.filter fun t => t.kind == 2 && ids.contains t.id

/-- Bytes of a tensor's elements. -/
def tensorLen (t : TensorRec) : Nat := ceilDiv (t.elems * fmtBits t.fmt) 8

/-- The element codes of a weight, taken as consecutive elements (log 36). -/
def weightCodes (c : Container) (t : TensorRec) : List Nat :=
  let b := slice c.weights (32 * t.off) (tensorLen t)
  vecGet t.fmt t.elems (chunksOf 32 (b.length + 1) b)

/-- Elements of one channel. -/
def perChannel (t : TensorRec) : Nat := max 1 (t.elems / max 1 t.channels)

/-- Elements of a row of an MX weight: those contracted for one index of dimension 0 (log 36). -/
def contractLen (t : TensorRec) : Nat := max 1 (t.elems / max 1 (t.hi 0))

/-- The block of an element: 32 consecutive elements of a row, the last block of a row being padded with zeros (R151). -/
def blockIndex (t : TensorRec) (i : Nat) : Nat :=
  let n := contractLen t
  i / n * ceilDiv n 32 + i % n / 32

/-- The scale code of an element's block, from the tensor's scale stream, whose records follow the plan's consumption order (R165; log 36). -/
def blockScale (c : Container) (t : TensorRec) (i : Nat) : Nat :=
  fieldAt c.scales (32 * t.scaleOff + 2 * Config.scalePos c.scales t.scaleOff (blockIndex t i)) 1

/-- One weight as FP32: dequantised by R160, by its block scale, or exactly. -/
def weightValue (c : Container) (t : TensorRec) (i code : Nat) : Word32 :=
  if t.fmt ≤ 2 then
    let p := t.pair c (i / perChannel t)
    dequantise p.1 p.2 (signExt code (fmtBits t.fmt))
  else if t.fmt = 8 ∨ t.fmt = 9 then
    let sc := blockScale c t i
    if sc = 0xFF then f32NaN
    else match fmtDecode t.fmt code with
      | .fin n m => toF32 (.fin n (m * pow2 ((sc : Int) - 127)))
      | v => toF32 v
  else toF32 (fmtDecode t.fmt code)

/-- The masters of a plan as first made. -/
def makeMasters (c : Container) : List Word32 :=
  (tailorTensors c).flatMap fun t => ((List.range t.elems).zip (weightCodes c t)).map fun e => weightValue c t e.1 e.2

/-! ### Quantising the masters (R359, step 1) -/

/-- A container with a run of its weights replaced. -/
def putWeights (c : Container) (off : Nat) (bs : List Byte) : Container := { c with weights := putBytes c.weights off bs }

/-- The words of codes, cut to a tensor's length. -/
def codesBytes (t : TensorRec) (codes : List Nat) : List Byte := (vecPut t.fmt codes).flatten.take (tensorLen t)

/-- An integer tensor: scales by Table 06-5, per channel or per tensor, symmetric when the declared zero point is 0. -/
def quantInt (c : Container) (t : TensorRec) (ws : List Word32) : Container :=
  let n := if t.perChan then perChannel t else max 1 t.elems
  let parts := (chunksOf n (ws.length + 1) ws).zipIdx.map fun e =>
    quantDyn t.fmt (if (t.pair c e.2).2 = 0 then 0 else 1) e.1
  let codes := parts.flatMap fun q => q.2.2.map fun x => toBits x (fmtBits t.fmt)
  let c := putWeights c (32 * t.off) (codesBytes t codes)
  if t.perChan then
    putWeights c (32 * t.scale.toNat) (parts.flatMap fun q => leBytes 4 q.1.toNat ++ leBytes 4 (toBits q.2.1 32))
  else
    let q := parts.headD (t.scale, t.zero, [])
    { c with tensors := mapWhere (fun x => x.id == t.id) (fun x => { x with scale := q.1, zero := q.2.1 }) c.tensors }

/-- One block of an MX weight: its elements padded with zeros to 32, packed, and cut to those that it has (R151, R164). -/
def packBlock (fmt : Nat) (ws : List Word32) : Nat × List Nat :=
  let r := mxPack fmt (ws ++ List.replicate (32 - ws.length) 0)
  (r.1, r.2.take ws.length)

/-- An MX tensor: the blocks of each row by R164, their records in the plan's consumption order with tags equal to their index mod 256 (R165, R168). -/
def quantMx (c : Container) (t : TensorRec) (ws : List Word32) : Container :=
  let rows := chunksOf (contractLen t) (ws.length + 1) ws
  let parts := rows.flatMap fun r => (chunksOf 32 (r.length + 1) r).map (packBlock t.fmt)
  let c' := putWeights c (32 * t.off) (codesBytes t (parts.flatMap (·.2)))
  let scaleOf := fun (k : Nat) => match (List.range parts.length).find? fun b => Config.scalePos c.scales t.scaleOff b == k with
    | some b => (parts.getD b (0, [])).1
    | none => fieldAt c.scales (32 * t.scaleOff + 2 * k) 1
  { c' with scales := putBytes c.scales (32 * t.scaleOff) ((List.range parts.length).flatMap fun k => leBytes 1 (scaleOf k) ++ leBytes 1 (k % 256)) }

/-- One tensor quantised into its declared format. -/
def quantTensor (c : Container) (t : TensorRec) (ws : List Word32) : Container :=
  if t.fmt ≤ 2 then quantInt c t ws
  else if t.fmt = 8 ∨ t.fmt = 9 then quantMx c t ws
  else putWeights c (32 * t.off) (codesBytes t (ws.map fun w => fmtEncode t.fmt t.inf (f32 w)))

/-- All tailored tensors quantised from the masters, which follow one another in the tensors' order. -/
def quantAll (c : Container) : List TensorRec → List Word32 → Container
  | [], _ => c
  | t :: ts, ws => quantAll (quantTensor c t (ws.take t.elems)) ts (ws.drop t.elems)

/-- The bytes of the tailored tensors, for the measurement log (log 36). -/
def tailoredBytes (c : Container) : List Byte := (tailorTensors c).flatMap fun t => slice c.weights (32 * t.off) (tensorLen t)

/-! ### The start of a TAILOR_STEP -/

def mastersOf (s : State) (h : Nat) : Option (List Word32) := (s.tailor.masters.find? fun m => m.1 == h).map (·.2)

/-- What TAILOR_STEP meets at its start once its plan is known: the plan has a tailoring stage (R353). -/
def tailorCheck (p : PlanRec) : Option (Status × List Byte) :=
  if !hasStage p.c 6 then some (.badState, []) else none

/-- Masters are made at a plan's first TAILOR_STEP; none when the model store is too full. -/
def ensureMasters (s : State) (p : PlanRec) : Option State :=
  match mastersOf s p.handle with
  | some _ => some s
  | none =>
    let m := makeMasters p.c
    if storeSize s < storeUsed s + 4 * m.length then none
    else some { s with tailor := { s.tailor with masters := s.tailor.masters ++ [(p.handle, m)] } }

/-- The job of a TAILOR_STEP: IDLE work (Table 10-1). -/
def tailorJob (s : State) (r : RingRef) (h : Hdr) (o : TailorStepOp) (list : List Byte) (member : Bool) : Job :=
  { (default : Job) with
    fn := r.fn, ring := some r, hdr := h, opcode := 0x12, cls := 3, plan := o.plan, kind := .tailor o list, state := .queued, member := member,
    inputReady := true, readyAt := s.now, note := .ok }

/-- Start a TAILOR_STEP whose plan is known: the job's number, or the status with its detail. -/
def startTailor (s : State) (r : RingRef) (h : Hdr) (o : TailorStepOp) (aux : List Byte) (member : Bool) : Except (Status × List Byte) (Nat × State) :=
  match planOf s r.fn o.plan with
  | none => .error (.planUnknown, [])
  | some p => match tailorCheck p with
    | some e => .error e
    | none => match ensureMasters s p with
      | none => .error (tooLarge 2 0)
      | some s =>
        let (id, s) := addJob s (tailorJob s r h o aux member)
        let n := match mastersOf s p.handle with | some m => m.length | none => 0
        let t : TailorSt := {
          job := id, plan := p.handle, samples := readSamples s r.fn p aux o.count 0 (96 * o.count), grads := List.replicate n 0, lossSum := 0,
          updated := false, prep := none }
        .ok (id, tailorEmpty { s with tailor := { s.tailor with steps := s.tailor.steps ++ [t] } } id)

/-! ### Samples and the update (R355, R357, R358) -/

/-- Is a value NaN or infinite? -/
def notFinite (w : Word32) : Bool := decide (0x7F800000 ≤ w.toNat % 2 ^ 31)

/-- The backward pass of a sample ends: its gradient is added, or the sample is removed. -/
def takeSample (s : State) (job idx : Nat) (loss : Word32) (grad : List Word32) : State :=
  match findTailor s job with
  | none => s
  | some t =>
    if !(t.samples.any fun x => x.idx == idx && x.decoded && !x.removed && x.loss.isNone) then s
    else if notFinite loss || grad.any notFinite then removeSample s job idx
    else
      let s := modSample s job idx fun x => { x with loss := some loss }
      modTailor s job fun t => { t with grads := (t.grads.zip (grad ++ List.replicate (t.grads.length - grad.length) 0)).map fun g => f32Add g.1 g.2,
                                        lossSum := f32Add t.lossSum loss }

/-- Samples used. -/
def usedSamples (t : TailorSt) : Nat := (t.samples.filter fun x => !x.removed).length

/-- The loss reported: the sum divided by n. -/
def stepLoss (t : TailorSt) : Word32 := f32Div t.lossSum (f32Rat ((usedSamples t : Nat) : Rat))

/-- w − η × G / n, each operation rounded to FP32 (log 36). -/
def updateMaster (eta : Word32) (n : Nat) (w g : Word32) : Word32 := f32Sub w (f32Div (f32Mul eta g) (f32Rat ((n : Nat) : Rat)))

/-- OK, or SAMPLE_BAD when samples were removed. -/
def tailorStatus (t : TailorSt) : Status := if t.samples.any (·.removed) then .sampleBad else .ok

/-- The last backward pass has ended: the masters are updated, and the step completes or goes on to its commit, giving up its tiles. -/
def tailorPassesDone (s : State) (j : Job) (o : TailorStepOp) : State :=
  match findTailor s j.id with
  | none => s
  | some t =>
    let n := usedSamples t
    let s := { s with tailor := { s.tailor with
      masters := mapWhere (fun m => m.1 == t.plan) (fun m => (m.1, (m.2.zip t.grads).map fun w => updateMaster o.step n w.1 w.2)) s.tailor.masters } }
    let s := modTailor s j.id fun t => { t with updated := true }
    if bitAt o.flags 0 then serveImages (modJob (releaseJob s j) j.id fun x => { x with staging := 0 })
    else endTailor s j (tailorStatus t) (tailorDetail s t (stepLoss t))

/-! ### The tailoring commit (R359, R360) -/

/-- Step 3: ways for the new model beside the old one's. -/
def prepWays (s : State) (p : PlanRec) : Option (List Nat × State) :=
  let cls := planClass s p
  (takeWays s cls (waysNeeded s p) ((evictable s cls).filter fun m => m.plan != p.handle)).map fun r =>
    (r.1, r.2.chipCnt 36 (s.sched.models.length - r.2.sched.models.length))

/-- Steps 1 to 3: the new container, its lowering and its model in ways of its own; the cause when a step fails. -/
def prepareSwap (s : State) (t : TailorSt) (p : PlanRec) (low : Lowering) : Except Status (Container × State) :=
  let c := quantAll p.c (tailorTensors p.c) ((mastersOf s p.handle).getD [])
  let lowC := match p.comp.bind (findPlan s) with | some q => q.low | none => default
  match relower s p c low lowC with
  | .error e => .error e.1
  | .ok (p', _) =>
    if modelBytes p' = 0 then .ok (c, s)
    else match prepWays s p' with
      | none => .error .wardrobeFull
      | some (w, s) =>
        let old := residentModel s p
        .ok (c, loadModel s { p' with revision := prepRevision t.job } w (match old with | some m => m.pinned | none => false))

/-- The lowering in force after a swap; regions lost since its check leave the plan's figures as they were. -/
def swapFit (s : State) (p : PlanRec) (c : Container) (low : Lowering) : Fit :=
  let q := p.comp.bind (findPlan s)
  match fitStep s p.op.allotment c (q.map (·.c)) p.op low (match q with | some x => x.low | none => default) with
  | .ok f => f
  | .error _ => { cls := p.tputClass, footprint := p.footprint, streamed := p.streamed }

/-- Step 4: the swap takes effect. Jobs that start from now on use the new model. -/
def applySwap (s : State) (job : Nat) (h : Nat) (c : Container) (low : Lowering) : State :=
  match findPlan s h with
  | none => s
  | some p =>
    let p' := newLow s p c low (swapFit s p c low)
    let ms := (s.sched.models.filter fun m => !(m.plan == h && m.revision == p'.revision)).map fun m =>
      if m.plan = h ∧ m.revision = prepRevision job then { m with revision := p'.revision } else m
    let s := writeRows (modPlan { s with sched := { s.sched with models := ms } } h fun _ => p') p'
    let s := measure s 8 p.fn.val h (digest32 (tailoredBytes c))
    dropOldModels (logHealth (writeReport s h) { HealthEntry.of 18 h with fn := some p.fn.val })

/-- The detail of a commit that aborts: the causes of FOLD_ABORTED, then loss and revision in their places. -/
def tailorAbort (s : State) (t : TailorSt) (cause : Status) : List Byte :=
  abortDetail 0 0x12 cause ++ zeros 2 ++ leBytes 4 (stepLoss t).toNat ++ leBytes 2 (match findPlan s t.plan with | some p => p.revision | none => 0)

/-- A member's job ends with its swap prepared or failed; its fold decides (R310). -/
def endMemberTailor (s : State) (j : Job) (st : Status) (detail : List Byte) : State :=
  serveImages (finishJob (reportJob s j st detail none) j true)

/-- TAILORING_COMMIT: the module has lowered the plan again with the weights quantised from the masters. -/
def execTailoringCommit (job : Nat) (low : Lowering) (s : State) : Host.Outcome State Fault Refusal :=
  match findTailor s job, findJob s job with
  | some t, some j =>
    if !t.updated || t.prep.isSome then .next s
    else match findPlan s t.plan with
      | none => .next s
      | some p => match prepareSwap s t p low with
        | .error e =>
          if j.member then .next (endMemberTailor { s with tailor := { s.tailor with steps := s.tailor.steps.filter fun x => x.job != job } } j e (tailorAbort s t e))
          else .next (endTailor (s.chipCnt 28) j .foldAborted (tailorAbort s t e))
        | .ok (c, s) =>
          if j.member then
            let held := match j.ring with | some r => (foldOfJob s r job).isSome | none => false
            .next (endMemberTailor (if held then modTailor s job fun x => { x with prep := some (c, low) } else dropPrepared (modTailor s job fun x => { x with prep := some (c, low) }) job) j (tailorStatus t)
              (tailorDetail s t (stepLoss t)))
          else
            let s := (applySwap s job p.handle c low).chipCnt 26
            .next (endTailor s j (tailorStatus t) (tailorDetail s t (stepLoss t)))
  | _, _ => .next s

end Sys2Proof.Machine
end

