-- ==== Sys2Proof/Machine/Fabric.lean ====
section
/-! DEFINITION. Segment boundaries (R101 to R103, Tables 04-4 and 04-5): what a segment leaves behind, its errors, the items it delivers, the
deadline monitor (R274 to R277), the quick-wash switch (R252), and the events of the tiles' sequencers. -/

namespace Sys2Proof.Machine

open Sys2Proof

/-! ### Counters and accounting of a segment (Tables 10-6 and 19-2) -/

/-- What one tile of a stripe did: the cells of each kind for the whole segment, the cells that changed personality (R94), and its DMA. -/
def countTile (c : CtxPairs) (w : SegWork) (s : State) (t : Nat) : State :=
  let rel := (t + 256 - c.sShift) % 256
  let own := w.cells.filter fun x => x.tile == rel
  let dots := (own.filter fun x => match x.pers with | .dot .. => true | _ => false).length
  let rinses := (own.filter fun x => x.pers == .rinse).length
  let changed := (own.filter fun x => smFind (s.tile t).cells x.cell != some x.pers).length
  let k := fun (s : State) (i n : Nat) => s.countN famTile t i n
  let s := k (k (k (k s 0 w.cycles) 2 (dots * w.cycles)) 3 ((own.length - dots - rinses) * w.cycles)) 4 1
  let s := k (k s 5 changed) 9 (32 * (w.dmas.filter fun d => d.tile == rel).length)
  s.modTile t fun x => { x with idleSince := s.now, cells := own.foldl (fun m y => smInsert m y.cell y.pers) x.cells }

/-- The segment estimate in ns: the cycle count, one boundary of 80 cycles, and the fetch wait that the loader counts (R102, R236). -/
def segEstimate (w : SegWork) : Nat := cyclesToNs (w.cycles + 80 + w.fetchEst)

/-- The time that counts as a segment's: its duration and any other wait for a fetch or a copy (R102). -/
def segActual (w : SegWork) : Nat := w.actualNs + w.fetchNs

/-- The accounting of a segment's function. -/
def acctSegment (s : State) (fn : Fn) (w : SegWork) : State :=
  modAcct s fn fun a =>
    { a with actual := a.actual + segActual w, estimate := a.estimate + segEstimate w,
             recent := (a.recent ++ [(segActual w, segEstimate w)]).drop (a.recent.length + 1 - 1024), wait := a.wait + w.hemNs,
             dram3 := a.dram3 + 32 * w.dmas.length }

/-- Counters and accounting of a segment, errors or not. -/
def countSegment (s : State) (j : Job) (l : Lane) (c : CtxPairs) (w : SegWork) : State :=
  let s := w.dram.foldl (fun s e => noteDramCorrected s e.1 e.2) (l.tiles.foldl (countTile c w) s)
  let s := (w.faults.filter fun f => f.kind == 14).foldl (fun s f => noteDramBad s f.cell) s
  acctSegment ((s.countN famRegion l.region 12 w.hemNs).countN famRegion l.region 18 w.tileNs) j.fn w

/-- A FEED job's slip (R274): the job's own, and for a side its side's. -/
def addSlip (s : State) (j : Job) (w : SegWork) : State :=
  let d : Int := (segActual w : Int) - segEstimate w + w.waitNs
  let s := modJob s j.id fun x => { x with slip := x.slip + d }
  match j.kind with
  | .side t n sd => modPiece s t n fun p => p.modSide sd fun x => { x with slip := x.slip + d, findPast := x.findPast || w.findPast }
  | _ => s

/-! ### Errors (event 1 of Table 04-5) -/

/-- The log entries of a segment's errors: the first event's, and every uncorrectable word's. -/
def logEvents (s : State) (fn : Fn) (e : SegEvent) (es : List SegEvent) : State :=
  let rest := (es.filter fun x => x != e && x.st == .tsUncorrectable).filterMap (·.log)
  (e.log.toList ++ rest).foldl (fun s l => logHealth s { l with fn := some fn.val }) s

/-- Failures after the one that a job reports are counted and not reported (R140, R166). -/
def countLater (s : State) (n : Nat) : State := { s with sched := { s.sched with laterFails := s.sched.laterFails + n } }

/-- The segment failed: its result is withheld, its job completes, and its tile takes a strike; then tiles that have failed are substituted. -/
def segError (s : State) (j : Job) (l : Lane) (e : SegEvent) (es : List SegEvent) : State :=
  let s := countLater (logEvents s j.fn e es) (es.length - 1)
  let s := failJob s j e.st e.detail
  let s := if strikes e.st e.clash then strike s e.tile else s
  substituteDue s l.tiles

/-! ### Items delivered -/

/-- Is a job running on the companion of its track's plan? -/
def onCompanion (s : State) (t : Track) (j : Job) : Bool := j.plan != (s.track t).plan

/-- The plan whose horizon holds for a job. -/
def jobH (s : State) (j : Job) : Nat := match findPlan s j.plan with | some p => p.H | none => 0

/-- The piece line, in front-side numbering, at which a token of the text line read last becomes final (R21, R22). -/
def tokFinal (s : State) (t : Track) (pc : Piece) (side : Bool) : Nat :=
  match (pc.text.filter fun l => (sideNum l.side == 1) == side).getLast? with
  | some l => l.final + (if side then trackDelta s t else 0)
  | none => pieceLine s t pc

/-- Has the plan of a job a paged decoder for the tokens of its pieces? -/
def decodes (s : State) (j : Job) : Bool := match findPlan s j.plan with | some p => paged p.c | none => false

/-- One item of a FEED piece. -/
def emitPiece (s : State) (t : Track) (n : Nat) (j : Job) (e : Emit) : State :=
  let k := b2n (onCompanion s t j)
  match e with
  | .block sd box cls p => modPiece s t n fun x => { x with blocks := x.blocks ++ [{ side := sd, box := box, cls := cls, p := p, plan := k }] }
  | .line sd bottom box p block words =>
    let l : TextLine := { side := sd, bottom := bottom, box := box, p := p, block := block, words := words, final := bottom + jobH s j, plan := k }
    modPiece s t n fun x => { x with text := x.text ++ [l] }
  | .token num x y seg side =>
    if decodes s j then
      modPiece s t n fun pc => { pc with toks := pc.toks ++ [(tokFinal s t pc side, { num := num, x := x, y := y, seg := seg, side := side })] }
    else s
  | .verdict v => modPiece s t n fun x => { x with verdict := some v }
  | .done => s
  | .sample .. => s
  | item => modPiece s t n fun x => { x with items := x.items ++ [item] }

/-- One item of an IMAGE_READ. -/
def emitImage (s : State) (j : Job) (e : Emit) : State :=
  match e with
  | .block sd box cls p => modJob s j.id fun x => { x with blocks := x.blocks ++ [{ side := sd, box := box, cls := cls, p := p, plan := 0 }] }
  | .line sd bottom box p block words =>
    modJob s j.id fun x => { x with text := x.text ++ [{ side := sd, bottom := bottom, box := box, p := p, block := block, words := words, final := 0, plan := 0 }] }
  | .field .. | .table .. | .cell .. => modJob s j.id fun x => { x with items := x.items ++ [e] }
  | _ => s

/-- May a sequence of a step write: its refill pass has completed (R223), and for a piece its structure stage has begun (R19)? -/
def mayWrite (s : State) (q : SeqSt) : Bool := q.refill.isEmpty && (match q.piece with
  | some (t, n) => match findPiece s t n with
    | some p => p.structured
    | none => false
  | none => true)

/-- One item of a sequence in a step: a token it writes, the end of its output, fields and the verdict of its piece. -/
def emitSeq (s : State) (j : Job) (id : Nat) (e : Emit) : State :=
  match findSeq s id with
  | none => s
  | some q =>
    if !q.inStep || q.plan != j.plan || q.state == .leaving || !mayWrite s q then s
    else match e with
      | .token num x y seg side => modSeq s id fun q => { q with next := q.next ++ [{ num := num, x := x, y := y, seg := seg, side := side }] }
      | .done => modSeq s id fun q => { q with ended := true }
      | .verdict _ | .field .. | .table .. | .cell .. => match q.piece with
        | some (t, n) => emitPiece s t n j e
        | none => match e with
          | .verdict _ => s
          | _ => modSeq s id fun q => { q with items := q.items ++ [e] }
      | _ => s

/-- Deliver one item; 0 is the job itself. -/
def emitItem (j : Job) (s : State) (e : Nat × Emit) : State :=
  if e.1 ≠ 0 then emitSeq s j e.1 e.2
  else match j.kind with
    | .side t n _ => emitPiece s t n j e.2
    | .image _ _ => emitImage s j e.2
    | .tailor _ _ => match e.2 with
      | .sample idx loss grad => takeSample s j.id idx loss grad
      | _ => s
    | _ => s

/-! ### The deadline monitor (R274 to R276) -/

/-- Bottom edge b* of a side: its lowest text line once find has passed the last band, else T*. -/
def sideBottom (p : Piece) (sd : Side) (tStar : Nat) : Nat :=
  if (p.side sd).findPast then maxNat ((p.text.filter fun l => l.side == sd).map (·.bottom)) else tStar

/-- The running jobs of a piece: its sides' and the step that holds its sequence. -/
def runningOn (s : State) (t : Track) (p : Piece) (h : Nat) : List Job :=
  s.sched.jobs.filter fun j => j.state == .running && (match j.kind with
    | .side t' n _ => t' == t && n == p.num
    | .step => j.plan == h && (match liveSeq s t p.num h with
      | some q => q.inStep
      | none => false)
    | _ => false)

/-- ρ: the remaining estimates of the jobs' bands or steps, scaled by L / (8 − L) of their regions, in ns. -/
def remainScaled (s : State) (js : List Job) : Rat :=
  (js.flatMap (·.lanes)).foldl (fun (a : Rat) l =>
    let k := throttle s (Fin.ofNat 8 l.region)
    a + ((l.remain * k : Nat) : Rat) / ((8 - k : Nat) : Rat)) 0

/-- The projected verdict line V of a piece on its plan, and its due line T* + D, with the D that the piece took at its line 0 (R469). -/
def project (s : State) (t : Track) (p : Piece) (pl : PlanRec) : Int × Int :=
  let tStar := p.T.getD (pieceLine s t p)
  let e := maxNat ((s.track t).sides.map fun x => sideBottom p x.1 tStar + pl.H + (if x.1 = .back then trackDelta s t else 0))
  let sigma : Int := max p.front.slip p.back.slip + p.sigmaSeq
  let rem : Int := ((1000 * pl.S - p.structSteps * stepShare pl : Nat) : Int)
  let ns : Rat := ((sigma + rem : Int) : Rat) + remainScaled s (runningOn s t p pl.handle)
  (e + ratCeil (((s.track t).armedMax : Rat) * ns / 1000000000) + monitorMargin s, if p.T.isSome then p.due else tStar + p.due)

/-! ### Quick-wash (R252) -/

/-- A companion job in place of a side's job: its map begins at the first band whose find had not started. -/
def companionJob (s : State) (t : Track) (n : Nat) (sd : Side) (old : Job) : State :=
  let s := feedJob (finishJob s old false) t n sd
  match (findPiece s t n).bind fun p => (p.side sd).job with
  | some id => feedInput (modJob s id fun x => { x with top := max old.top old.begun }) t n sd
  | none => s

/-- Side jobs of a piece that are on its main plan and in no segment give way at once. -/
def swapSideJobs (s : State) (t : Track) (n : Nat) : State :=
  (pieceJobs s t n).foldl (fun s j =>
    match j.kind with
    | .side _ _ sd => if j.state == .done || j.inSegment then s else companionJob s t n sd j
    | _ => s) s

/-- The switch: final lines keep their tokens, the main sequence leaves, and a companion sequence starts from the final tokens. -/
def quickWash (s : State) (t : Track) (n : Nat) (q : PlanRec) : State :=
  match findPiece s t n with
  | none => s
  | some p =>
    let line := pieceLine s t p
    let s := match pieceSeq s t n with
      | some x => modSeq s x.id fun x => { x with state := .leaving }
      | none => s
    let fin := (p.toks.filter fun e => decide (e.1 ≤ line)).map (·.2)
    let toks := p.final ++ fin
    let s := modPiece s t n fun x => { x with
      companion := true, qwLine := some line, structSteps := 0, structured := false, text := x.text.filter (textFinal s t line), toks := [], final := toks, items := [],
      verdict := none, joined := !toks.isEmpty }
    let s := if toks.isEmpty then s else (newSeq s q.fn q.handle 0 255 (some (t, n)) toks).2
    let s := (modAcct s 0 fun a => { a with quick := a.quick + 1 }).chipCnt 51
    sidesEnded (swapSideJobs s t n) t n

/-- Judge one piece at a boundary; a missed projection switches it to its companion or posts LATE. -/
def monitorPiece (s : State) (t : Track) (n : Nat) : State :=
  match findPiece s t n with
  | none => s
  | some p =>
    if !p.live || p.line0.isNone || !postsVerdicts s t n then s
    else match piecePlan s t p with
      | none => s
      | some pl =>
        let s := s.chipCnt 50
        let v := project s t p pl
        if v.1 ≤ v.2 then s
        else match (if p.companion then none else pl.comp.bind (findPlan s)) with
          | some q => quickWash s t n q
          | none => discardPiece s t n .late

/-- The pieces that a FEED job works for. -/
def jobPieces (s : State) (j : Job) : List (Track × Nat) :=
  match j.kind with
  | .side t n _ => [(t, n)]
  | .step => ((batchSeqs s j.plan).filter (·.inStep)).filterMap (·.piece)
  | _ => []

/-- The monitor at a boundary of a FEED job. -/
def monitor (s : State) (j : Job) (ps : List (Track × Nat)) : State :=
  if j.cls = 0 then ps.foldl (fun s p => monitorPiece s p.1 p.2) s else s

/-! ### The boundary -/

/-- The job's last segment has ended. -/
def jobEnds (s : State) (j : Job) (faults : List CellFault) : State :=
  match j.kind with
  | .side t n sd => sideEnded (finishJob s j true) t n sd
  | .step => finishStep s j
  | .image _ _ => imageStagesDone s j
  | .tailor o _ => tailorPassesDone s j o
  | .test o => finishTest s j o faults
  | .seq _ _ => finishJob s j false

/-- A page write of a sequence met a shared page: its part of the step has ended (R210). -/
def sharedPart (s : State) (id : Nat) : State := match findSeq s id with
  | some q => sharedSeq s q
  | none => s

/-- A walk of a sequence ended at an ABSENT entry: it writes no token, becomes NEEDS_REFILL, and its step is made again (R211). -/
def absentPart (s : State) (id : Nat) : State := match findSeq s id with
  | some q =>
    if !q.inStep || q.state == .leaving then s
    else modSeq (q.refill.foldl (dropOne q.plan id) s) id fun q =>
      { q with state := .needsRefill, inStep := false, next := [], refill := [], regrown := [], ended := false }
  | none => s

/-- The command that a segment belongs to has ended: its walker ends, and a KV_SCATTER's layer is written (R210, R216). -/
def endCommand (s : State) (j : Job) (w : SegWork) : State :=
  if w.cmdEnd then
    modJob (endWalk s j.plan) j.id fun x => { x with scattered := match w.cmd with
      | some (false, l) => x.scattered ++ [l]
      | _ => x.scattered }
  else s

/-- Where a stripe stands after its segment, and the further stripe that starts next (R190). -/
def advanceLane (s : State) (j : Job) (w : SegWork) : State :=
  let s := modLane s j.id w.stripe fun l => { l with
    gate := w.gate, prog := w.nextProg, fetch := !w.fetched, remain := w.remainNs, cmd := w.nextCmd, state := if w.stripeEnd then .ended else .wait }
  match w.next with
  | some n => modJob s j.id fun x => { x with lanes := x.lanes ++
      [{ (default : Lane) with stripe := x.lanes.length, placement := n.placement, state := .want, gate := n.gate }] }
  | none => s

/-- Have all stripes of a job but one ended? -/
def othersEnded (j : Job) (k : Nat) : Bool := j.lanes.all fun l => l.stripe == k || l.state == .ended

/-- A job at a boundary whose piece no longer runs on its plan gives way once none of its stripes is in a segment (R252). -/
def giveWay (s : State) (id : Nat) : State := match findJob s id with
  | none => s
  | some x => match outOfPlan s x with
    | some (t, n, sd) => if x.state == .done || x.inSegment then s else companionJob s t n sd x
    | none => s

/-- A segment without errors: its items, transfers, the monitor, then the job's end or what its stripe does next. -/
def segGood (s : State) (j : Job) (p : PlanRec) (l : Lane) (w : SegWork) (shared absent : List Nat) : State :=
  let s := w.emits.foldl (emitItem j) s
  let s := w.moves.foldl (sendMove j p w.stripe) s
  let s := absent.foldl absentPart (shared.foldl sharedPart s)
  let s := advanceLane (endCommand (addSlip s j w) j w) j w
  let ps := jobPieces s j
  let s := match findJob s j.id with
    | some x => if w.last && othersEnded x w.stripe && (outOfPlan s x).isNone then jobEnds s x [] else s
    | none => s
  giveWay (substituteDue (monitor s j ps) l.tiles) j.id

/-- A segment of a test (R430): after its last one the test ends with the faults found, otherwise its stripe waits for the next segment. -/
def testSegment (s : State) (j : Job) (o : TestRunOp) (w : SegWork) : State :=
  let s := match j.lane w.stripe, pairsOf s j.id w.stripe with
    | some l, some c => countSegment s j l c w
    | _, _ => s
  let s := modLane s j.id w.stripe fun l => { l with state := .wait }
  let ts := j.tiles
  match findJob s j.id with
  | none => s
  | some x => substituteDue (if x.discard then failJob s x .badState [] else if w.last then finishTest s x o w.faults else s) ts

/-- The work of a stripe's segment and its outcome. -/
def runSegment (s : State) (j : Job) (p : PlanRec) (l : Lane) (c : CtxPairs) (w : SegWork) : State :=
  let r := runOps (countSegment s j l c w) c l.tiles j.scaleBlocks w
  let es := sortBy (fun a b => lexLe a.key b.key) (r.events ++ w.faults.map (faultEvent c))
  let s := modJob (r.badRows.foldl dropModelAt r.s) j.id fun x => { x.setLane w.stripe (fun y => { y with state := .wait }) with scaleBlocks := r.blocks }
  match findJob s j.id with
  | none => s
  | some x => match es, x.fault with
    | e :: rest, _ => segError s x l e (e :: rest)
    | [], some f => substituteDue (failJob s x f.1 f.2) l.tiles
    | [], none => if x.discard then substituteDue (failJob s x .badState []) l.tiles else segGood s x p l w r.shared r.absent

/-- May a stripe's segment end now: it is in one, of a slot program that a loader emits (R235, R237)? -/
def segRuns (j : Job) (p : PlanRec) (l : Lane) (c : CtxPairs) (w : SegWork) : Bool := l.state == .run && progOk c l.tiles j p w

/-- SEGMENT_BOUNDARY: a segment of a stripe has ended on every tile of its set. A test's faults are its result and no error of a segment; a job that is DONE
gives up the stripe (R193); a job of a function that has been reset ends here with its results withheld (R315). -/
def execSegmentBoundary (w : SegWork) (s : State) : Host.Outcome State Fault Refusal :=
  match findJob s w.job with
  | none => .next s
  | some j => match j.kind, j.state, j.lane w.stripe with
    | .test o, .running, some l => .next (if l.state = .run then settle (testSegment s j o w) else s)
    | .test o, .running, none => .next (if o.test = 3 ∧ w.last then settle (finishTest s j o w.faults) else s)
    | _, .done, some l => .next (if l.state = .run then settle (substituteDue (lastRites s j l) l.tiles) else s)
    | _, .running, some l => match pairsOf s j.id w.stripe, jobPlan s j with
      | some c, some p => .next (if segRuns j p l c w then settle (runSegment s j p l c w) else s)
      | _, _ => .next s
    | _, _, _ => .next s

/-! ### Other events of the sequencers -/

/-- PROGRAM_FETCH_COMPLETE: the next slot program of a stripe and its copy are there; a segment that waited for it starts (R99, R102, R238). -/
def execProgramFetchComplete (p : FetchedP) (s : State) : Host.Outcome State Fault Refusal :=
  .next (settle (modLane s p.job p.stripe fun l => { l with fetch := false }))

/-- The job in a segment on a tile, at the end of that segment. -/
def runsOn (s : State) (job tile : Nat) : Option (State × Job × Lane) := match findJob s job with
  | none => none
  | some j => match j.lanes.find? fun l => l.state == .run && l.tiles.contains tile with
    | none => none
    | some l =>
      let s := modLane s job l.stripe fun x => { x with state := .wait }
      (findJob s job).map fun x => (s, x, { l with state := .wait })

/-- An entry of the health log for a tile's sequencer. -/
def seqEntry (kind tile : Nat) (fn : Fn) : HealthEntry :=
  { HealthEntry.of kind 0 with status := some .seqWatchdog, fn := some fn.val, tile := some tile, region := some (tile / 32) }

/-- A segment is ended on every tile of its set: its job completes with SEQ_WATCHDOG, or gives up the stripe when it is DONE (R101, R193). -/
def watchdogEnd (s : State) (j : Job) (l : Lane) : State := if j.state = .done then lastRites s j l else failJob s j .seqWatchdog []

/-- SEQ_WATCHDOG_EXPIRY: a segment has run 1,024 cycles past its count (R101). -/
def execSeqWatchdogExpiry (job tile : Nat) (s : State) : Host.Outcome State Fault Refusal :=
  match runsOn s job tile with
  | some (s, j, l) => .next (settle (substituteDue (strike (watchdogEnd (logHealth s (seqEntry 7 tile j.fn)) j l) tile) l.tiles))
  | none => .next s

/-- END_MARK_MISSING: the segment ends at once and the tile has failed (R107, R418). -/
def execEndMarkMissing (job tile : Nat) (s : State) : Host.Outcome State Fault Refusal :=
  match runsOn s job tile with
  | some (s, j, l) => .next (settle (substituteDue (failTile ((watchdogEnd (logHealth s (seqEntry 11 tile j.fn)) j l).countN famTile tile 15 1) tile) l.tiles))
  | none => .next s

end Sys2Proof.Machine
end

