-- ==== Sys2Proof/Machine/Windows.lean ====
section
/-! DEFINITION. Inbound twin windows (R380, R382): opening, closing and the reports of their state. -/

namespace Sys2Proof.Machine

open Sys2Proof

/-- An open inbound window. -/
def windowOf (s : State) (w : Nat) : Option Window := (s.twin.windows.find? fun e => e.1 == w).map (·.2)

/-- Why a window cannot open (R380): an overlap with the hamper or the line windows, or a window that is open. -/
def winOpenCheck (s : State) (o : WindowOpenOp) : Option (Status × List Byte) :=
  if o.target = 0 ∧ Config.dramForbidden (regGet s 0 0x2201C) o.base o.len then some (.badDescriptor, leBytes 1 24)
  else if (windowOf s o.win).isSome then some (.badState, []) else none

/-- The window opens, and the partner is told; the reserved bits of its access are ignored (R11). -/
def windowApply (s : State) (o : WindowOpenOp) : State :=
  let x : Window := { target := o.target, access := o.access % 4, base := o.base, len := o.len }
  sendWindowState { s with twin := { s.twin with windows := s.twin.windows ++ [(o.win, x)] } } o.win

/-- WINDOW_OPEN's effect once its start checks have passed, outside a fold. -/
def runWindowOpen (s : State) (r : RingRef) (h : Hdr) (o : WindowOpenOp) : State :=
  match winOpenCheck s o with
  | some e => complete s r h 0x60 e.1 e.2
  | none => complete (windowApply s o) r h 0x60 .ok []

/-- WINDOW_CLOSE's effect: every frame accepted before has landed when it was taken, so the close completes at once (R382). -/
def runWindowClose (s : State) (r : RingRef) (h : Hdr) (w : Nat) : State :=
  match windowOf s w with
  | none => complete s r h 0x61 .badState []
  | some _ => complete (sendWindowState { s with twin := { s.twin with windows := s.twin.windows.filter fun e => e.1 != w } } w) r h 0x61 .ok []

end Sys2Proof.Machine
end

