-- ==== Sys2Proof/Machine/FoldCommit.lean ====
section
/-! DEFINITION. The commit of folds (R311 to R314): a host fold's checks and actions in member order, and FOLD_COMMIT, one fold for each control
cycle in the order of R312. -/

namespace Sys2Proof.Machine

open Sys2Proof

/-! ### Host folds -/

/-- What a fold's actions have come to: the state, the sets and adds of its peg signals, whether an edit was made, sequences released. -/
structure FoldRun where
  s : State
  sets : List (Nat × Word32)
  adds : List (Nat × Word32)
  edits : Bool
  released : List Nat

/-- Check and apply one member against the state left by those before it: the cause when it fails. -/
def runMember (r : RingRef) (f : FoldRun) (m : Member) : Except Status FoldRun :=
  match m.ended with
  | some st => if st.isError then .error st else .ok f
  | none => match m.act with
    | .ptEdit o => match editCheck f.s r.fn o with
      | some st => .error st
      | none => .ok { f with s := editApply f.s r.fn o, edits := true, released := if o.kind = 5 then f.released ++ [o.seq] else f.released }
    | .pegSignal o =>
      if !inGrant f.s r.fn o.peg then .error .pegRange
      else if o.op = 1 then .ok { f with sets := f.sets ++ [(o.peg, o.value)] } else .ok { f with adds := f.adds ++ [(o.peg, o.value)] }
    | .windowOpen o => match winOpenCheck f.s o with
      | some e => .error e.1
      | none => .ok { f with s := windowApply f.s o }
    | .none | .record _ | .swap => .ok f

/-- Members in order: the first that fails with its index. -/
def runMembers (r : RingRef) : Nat → FoldRun → List Member → Except (Nat × Nat × Status) FoldRun
  | _, f, [] => .ok f
  | i, f, m :: ms => match runMember r f m with
    | .error st => .error (i, m.opcode, st)
    | .ok f => runMembers r (i + 1) f ms

/-- A prepared wardrobe swap takes effect (R359, step 4). -/
def commitSwap (s : State) (m : Member) : State :=
  match m.act, m.job with
  | .swap, some j => match findTailor s j with
    | some t => match t.prep with
      | some (c, low) =>
        let s := applySwap s j t.plan c low
        { s with tailor := { s.tailor with steps := s.tailor.steps.filter fun x => x.job != j } }
      | none => s
    | none => s
  | _, _ => s

/-- A record with the time base of its commit (Table 12-3, offset 48). -/
def stampRecord (rec : List Byte) (tb : Nat) : List Byte := rec.take 48 ++ leBytes 8 tb ++ rec.drop 56

/-- A member's record post is committed; its completion waits for the copy (R313). -/
def commitRecord (r : RingRef) (id : Nat) (s : State) (e : Nat × Member) : State :=
  match e.2.act, e.2.job with
  | .record (some p), some j => commitPost s (jobKey j) { p with record := stampRecord p.record s.now, done := none, fold := some (r, id, e.1) }
  | _, _ => s

/-- The detail of a member of a committed fold (Table 11-7). -/
def memberDetail (s : State) (m : Member) : List Byte :=
  match m.act with
  | .ptEdit _ => leBytes 4 s.pool.version.toNat
  | _ => m.detail

/-- The revision of a swap's plan after the commit. -/
def swapDetail (s : State) (m : Member) : Member :=
  match m.act with
  | .swap => match m.job.bind (findTailor s) with
    | some t => { m with detail := slice m.detail 0 12 ++ leBytes 2 (match findPlan s t.plan with | some p => p.revision + 1 | none => 0) }
    | none => m
  | _ => m

/-- Has a committed fold posts that are not yet copied? -/
def foldPosts (s : State) (r : RingRef) (id : Nat) : Bool :=
  s.basket.committed.any fun p => match p.fold with
    | some (q, i, _) => q == r && i == id
    | none => false

/-- A committed fold whose posts have been copied writes its completions. -/
def finishFold (s : State) (r : RingRef) (id : Nat) : State :=
  match (s.ring r).closed.find? fun f => f.id == id with
  | some f => if f.committed && !foldPosts s r id then dropFold (foldCompls s r f .ok (memberDetail s) []) r id else s
  | none => s

/-- A host fold at the commit point: every check passes and all actions take effect, or none does. -/
def commitHost (s : State) (r : RingRef) (f : FoldSt) : State :=
  match f.failed with
  | some (i, op, st) => abortFold ((dropSwaps s f).chipCnt 28) r f i op st
  | none =>
    if f.hostAbort then abortFold ((dropSwaps s f).chipCnt 28) r f 0xFFFF 0x49 .ok
    else match runMembers r 0 { s := s, sets := [], adds := [], edits := false, released := [] } f.members with
      | .error (i, op, st) => abortFold ((dropSwaps s f).chipCnt 28) r f i op st
      | .ok g =>
        let s := if g.edits then raiseVersion g.s else g.s
        let s := modFold s r f.id fun f => { f with committed := true, members := f.members.map (swapDetail s) }
        let s := (f.members.foldl commitSwap s).chipCnt 27
        let s := ((List.range f.members.length).zip f.members).foldl (commitRecord r f.id) s
        let s := pegArbitrate s g.sets g.adds
        let s := g.released.foldl (fun s id => match findSeq s id with
          | some q => releaseSeq s q
          | none => s) s
        finishFold s r f.id

/-! ### FOLD_COMMIT -/

/-- Once every earlier piece has committed, the active of a handover is the standby (R393). -/
def finishHandover (s : State) : State := match s.twin.handoverTo with
  | none => s
  | some k =>
    if allTracks.all fun t => (s.track t).pieces.all fun y => y.posted || pieceFrom k y.num then
      { s with twin := { s.twin with state := .standby, handoverTo := none } }
    else s

/-- Both line windows are judged again: a committed fold may let lines go (R75, R76). -/
def judgeWindows (s : State) : State := judgeWindow (judgeWindow s .A) .B

/-- The fold logic commits one fold: the first in the order of R312. A verdict fold that waits for basket space keeps its place. -/
def commitNext (s : State) : State :=
  match s.commitQ with
  | [] => s
  | (c, k) :: q => match k with
    | .verdict t n => match commitVerdict { s with commitQ := q } t n with
      | some s => finishHandover (judgeWindows s)
      | none => { s with commitQ := (c, k) :: q }
    | .host r id => match (s.ring r).closed.find? fun f => f.id == id with
      | some f => serveImages (commitHost { s with commitQ := q } r f)
      | none => { s with commitQ := q }

/-- FOLD_COMMIT. -/
def execFoldCommit (s : State) : Host.Outcome State Fault Refusal := .next (commitNext s)

end Sys2Proof.Machine
end

