-- ==== Sys2Proof/Machine/RecordCopy.lean ====
section
/-! DEFINITION. Copies of posts to the record rings (R316 to R319, R333 to R336; Table 17-3, basket). -/

namespace Sys2Proof.Machine

open Sys2Proof

/-- Free space of a function's record ring (R318). -/
def recFree (s : State) (fn : Fn) : Nat :=
  recSize s fn.val - ((s.fnOf fn).recTail - (s.fnOf fn).recHead).toNat

/-- The post that a function's ring takes next: the first committed (R317). -/
def nextPost (s : State) (fn : Fn) : Option Post := s.basket.committed.find? fun p => p.fn == fn

/-- The basket without a post. -/
def dropPost (s : State) (p : Post) : State :=
  { s with basket := { s.basket with committed := s.basket.committed.erase p } }

/-- The detail of the completion that reports a post, with its record offset and, for IMAGE_READ, its length (Table 11-7). -/
def postDetail (opcode off len : Nat) (d : List Byte) : List Byte :=
  if opcode = 0x11 then leBytes 8 off ++ slice d 8 8 else leBytes 8 off ++ leBytes 4 len

/-- Give a fold's member the place of its post, or the failure of its copy. -/
def memberPost (r : RingRef) (id idx off len : Nat) (bad : Bool) (s : State) : State :=
  modFold s r id fun f => { f with members := (List.range f.members.length).zip f.members |>.map fun e =>
    if e.1 = idx then { e.2 with detail := postDetail e.2.opcode off len e.2.detail, ended := if bad then some .dramUncorrectable else e.2.ended } else e.2 }

/-- What follows a copy: the completion of the descriptor, or of the fold once all its posts are copied (R313, R318). -/
def reportPostCopy (s : State) (p : Post) (off len : Nat) (bad : Bool) : State :=
  let s := match p.done with
    | some (r, c) => postCompl s r { c with status := if bad then .dramUncorrectable else c.status, detail := postDetail c.opcode off len c.detail }
    | none => s
  match p.fold with
  | some (r, id, idx) => finishFold (memberPost r id idx off len bad s) r id
  | none => s

/-- A post is written with the new tail after it, then what reports it, then the interrupt. -/
def copyPost (s : State) (fn : Fn) (p : Post) : State :=
  let b := postBytes p
  let tail := (s.fnOf fn).recTail.toNat
  let size := recSize s fn.val
  let at0 := tail % size
  let fit := min b.length (size - at0)
  let s := s.hostWrite fn (recBase s fn.val + at0) (b.take fit)
  let s := if fit < b.length then s.hostWrite fn (recBase s fn.val) (b.drop fit) else s
  let s := s.modFn fn fun f => { f with recTail := f.recTail + BitVec.ofNat 64 b.length }
  let s := s.hostWrite fn (recTailAddr s fn.val) (leBytes 8 (s.fnOf fn).recTail.toNat)
  let s := reportPostCopy (dropPost s p) p tail b.length false
  if recIrq s fn.val then s.raiseVec fn (recVector s fn.val) else s

/-- A post whose basket words cannot be read is not delivered (Table 17-3). -/
def loseBadPost (s : State) (p : Post) : State :=
  let s := logHealth s { HealthEntry.of 14 (if p.feed then p.piece else 0xFFFFFFFF) with status := some .dramUncorrectable, fn := some p.fn.val }
  reportPostCopy (dropPost s p) p 0 0 true

/-- Does S5 begin once the last first-light post has been copied (R454)? The rest of bring-up is its own command. -/
def basketFreed (s : State) : State := serveImages (retryPosts (judgeCapture (basketMarks s)))

/-- RECORD_COPY: the next post of a function is copied once its ring has room. -/
def execRecordCopy (fn : Fn) (dramBad : Bool) (s : State) : Host.Outcome State Fault Refusal :=
  match nextPost s fn with
  | none => .next s
  | some p =>
    if !(s.fnOf fn).recEnable || !(s.fnOf fn).enabled then .next s
    else if dramBad then .next (basketFreed (loseBadPost s p))
    else if postLen p ≤ recFree s fn then .next (basketFreed (copyPost s fn p))
    else .next s

end Sys2Proof.Machine
end

