-- ==== Sys2Proof/Machine/TwinOps.lean ====
section
/-! DEFINITION. The twin commands (chapter 15): frames and their acknowledgement (R379), TWIN_DMA and inbound writes (R381, Table 15-4), pairing and
roles (R383, R386), heartbeats and readiness (R384, R387), fence, takeover and handover (R388 to R393). -/

namespace Sys2Proof.Machine

open Sys2Proof

/-! ### Frames (R379) -/

/-- A good frame arrives: the next in sequence, or the first since the link came up, is acknowledged and taken; a repeat is acknowledged again and
dropped; one beyond a gap is dropped and answered with NAK (log 40). -/
def receiveFrame (s : State) (seq : Half) (act : State → State) : State :=
  if !s.twin.linkUp then s
  else
    let s := s.chipCnt 45
    match s.twin.rxSeq with
    | none => act (sendAck { s with twin := { s.twin with rxSeq := some seq } } false seq)
    | some q =>
      if seq = q + 1 then act (sendAck { s with twin := { s.twin with rxSeq := some seq } } false seq)
      else if (q - seq).toNat < 2 ^ 15 then sendAck s false q
      else sendAck s true q

/-- Frames kept after those up to a sequence number are acknowledged. -/
def keptAfter (q : Half) (u : List (Half × List Byte)) : List (Half × List Byte) := u.filter fun e => decide ((q - e.1).toNat ≥ 2 ^ 15)

/-- The readiness of a standby ends until the next piece after its conditions hold again (R387). -/
def setReady (s : State) (t : Track) (r : Bool) (g : Option Int) : State := match t with
  | .A => { s with twin := { s.twin with readyA := r, goodA := g } }
  | .B => { s with twin := { s.twin with readyB := r, goodB := g } }

/-- The link is down: transfers end, and the record of the partner's windows is cleared (R379, R381). -/
def linkDown (s : State) : State :=
  let xs := s.twin.xfers
  let s := { s with twin := { s.twin with
    linkUp := false, xfers := [], partner := [], partnerCount := 0, unacked := [], resends := 0, rxSeq := none, badXfer := [], pairSent := false } }
  let s := allTracks.foldl (fun s t => setReady s t false none) s
  let s := logHealth s (HealthEntry.of 16 0)
  xs.foldl (fun s x => complete s x.r x.hdr 0x62 .twinLinkDown []) s

/-- ACK. -/
def execAck (seq : Half) (s : State) : Host.Outcome State Fault Refusal :=
  if !s.twin.linkUp then .next s
  else
    let u := keptAfter seq s.twin.unacked
    let n := if u.length < s.twin.unacked.length then 0 else s.twin.resends
    .next ({ s with twin := { s.twin with unacked := u, resends := n } }.chipCnt 45)

/-- NAK: the frames after the last good one are sent again; a fifth time the link is down. -/
def execNak (seq : Half) (s : State) : Host.Outcome State Fault Refusal :=
  if !s.twin.linkUp then .next s
  else
    let u := keptAfter seq s.twin.unacked
    let n := if u.length < s.twin.unacked.length then 0 else s.twin.resends
    let s := { s with twin := { s.twin with unacked := u, resends := n } }.chipCnt 45
    if u.isEmpty then .next s
    else if 4 ≤ n then .next (linkDown s)
    else .next (u.foldl (fun s e => (s.emit (.twinFrame e.2)).chipCnt 44) { s with twin := { s.twin with resends := n + 1 } })

/-- TWIN_FRAME_CRC_FAIL: the frame is dropped and answered with NAK and the last good number. -/
def execTwinFrameCrcFail (s : State) : Host.Outcome State Fault Refusal := .next (sendAck s true (s.twin.rxSeq.getD 0xFFFF))

/-! ### Pairing (R383) -/

/-- The PAIR payload: unit, role request and serial number. -/
def pairBytes (s : State) : List Byte :=
  leBytes 1 (b2n (twinUnit s)) ++ leBytes 1 (b2n (twinRole s)) ++ zeros 14 ++ slice Config.serial 0 16

/-- PAIR and the state of every open window are sent. -/
def sendPair (s : State) : State :=
  let s := sendFrame s 0x05 0 0 0 0 (pairBytes s)
  s.twin.windows.foldl (fun s w => sendWindowState s w.1) { s with twin := { s.twin with pairSent := true } }

/-- TWIN_LINK_UP: the link has trained, at 16 GT/s when `rate16`. -/
def execTwinLinkUp (rate16 : Bool) (s : State) : Host.Outcome State Fault Refusal :=
  let s := { s with twin := { s.twin with
    linkUp := true, rate16 := rate16, txSeq := 0, unacked := [], resends := 0, rxSeq := none, partner := [], partnerCount := 0, paired := false, pairSent := false,
    badXfer := [] } }
  .next (if twinEnabled s then sendPair s else s)

/-- TWIN_LINK_DOWN. -/
def execTwinLinkDown (s : State) : Host.Outcome State Fault Refusal := .next (if s.twin.linkUp then linkDown s else s)

/-- The module stops reading: its FEED jobs end, and its verdict folds that have not committed are given up (R386, R388). -/
def stopReading (s : State) : State :=
  let s := { s with commitQ := s.commitQ.filter fun e => match e.2 with
    | .verdict _ _ => false
    | .host _ _ => true }
  allTracks.foldl (fun s t => ((s.track t).pieces.filter fun p => !p.posted).foldl (fun s p => stopPiece s t p.num) s) s

/-- Does this module become the active, given the partner's unit, role request and serial number? The same unit number on both falls to the serial
number. -/
def becomesActive (s : State) (unit role : Bool) (serial : List Byte) : Bool :=
  if twinRole s ≠ role then twinRole s
  else if twinUnit s ≠ unit then !twinUnit s
  else !lexLe (serial.map BitVec.toNat) ((slice Config.serial 0 16).map BitVec.toNat)

/-- Pairing is complete. -/
def finishPair (s : State) (unit role : Bool) (serial : List Byte) : State :=
  let s := if twinRole s = role then logHealth s (HealthEntry.of 20 0) else s
  let s := if twinUnit s = unit then logHealth s (HealthEntry.of 20 1) else s
  let s := { s with twin := { s.twin with paired := true, misses := 0, handoverTo := none } }
  if s.twin.state = .fenced then s
  else if becomesActive s unit role serial then sendSync { s with twin := { s.twin with state := .active } }
  else stopReading { s with twin := { s.twin with state := .standby } }

/-- PAIR. -/
def execPair (seq : Half) (unit role : Bool) (serial : List Byte) (s : State) : Host.Outcome State Fault Refusal :=
  .next (receiveFrame s seq fun s => if twinEnabled s && s.twin.pairSent then finishPair s unit role serial else s)

/-- TWIN_ENABLE: set, the module leaves SOLO and waits as a standby until it has paired (log 41); cleared, it is SOLO. -/
def setTwinEnable (s : State) (on : Bool) : State :=
  let v := regGet s 0 0x31000
  let was := bitAt v 0
  let s := regSet s 0 0x31000 (v / 2 * 2 + b2n on)
  if was = on then s
  else if on then
    let s := if s.twin.state = .fenced then s else stopReading { s with twin := { s.twin with state := .standby, paired := false } }
    if s.twin.linkUp then sendPair s else s
  else
    let s := allTracks.foldl (fun s t => setReady s t false none) s
    { s with twin := { s.twin with state := if s.twin.fenced then .fenced else .solo, paired := false, pairSent := false, fenceOut := false, handoverTo := none,
                                   beat := none, misses := 0 } }

def execTwinEnable (on : Bool) (s : State) : Host.Outcome State Fault Refusal := .next (setTwinEnable s on)

/-- What the standby adopts for a track. The trigger count is that of every port that is triggered as often as the front one. -/
def adoptTrack (s : State) (t : Track) (y : SyncTrack) : State :=
  let s := s.modTrack t fun x => { x with divN := y.divN, divF := y.divF, phase := y.phase, highMark := y.highMark, position := y.position, edges := y.edges }
  let sw := (s.lp (s.frontPort t)).cfg.switched
  ((s.track t).portsOf.filter fun p => (s.lp p).cfg.switched == sw).foldl (fun s p => s.modPort p fun x => { x with trigCount := y.trig }) s

/-- SYNC: the standby adopts dividers, piece counter, edges and coefficient sets. -/
def execSync (seq : Half) (p : SyncP) (s : State) : Host.Outcome State Fault Refusal :=
  .next (receiveFrame s seq fun s =>
    if s.twin.paired && isStandby s then
      let s := adoptTrack (adoptTrack s .A p.a) .B p.b
      let s := { s with nextPiece := p.nextPiece }
      p.coefs.foldl (fun s c => s.modPort (Fin.ofNat 4 c.1) fun x => { x with inUse := some c.2 }) s
    else s)

/-! ### Readiness (R387) -/

/-- The trigger count of a track at an encoder position, from the divider. -/
def trigsAt (s : State) (t : Track) (pos : Int) : Int :=
  let x := s.track t
  let k : Nat := if (s.lp (s.frontPort t)).cfg.switched then 3 else 1
  if pos = x.trigPos then trackTrigs s t
  else trackTrigs s t + x.subDue.length - ((k - 1 : Nat) : Int) - (x.encLine - (x.unwrapped - 65536 * (x.position - pos)).fdiv x.divisor) * k

/-- Do a side's line window hold every line of a piece that has come? -/
def windowHolds (s : State) (t : Track) (y : Piece) (sd : Side) (p : Port) : Bool :=
  match y.line0, (s.lp p).window.getLast? with
  | some l, some n =>
    let a := l + sideDelta s t sd
    let b := match y.T with | some T => min n.pos (a + (T : Nat)) | none => n.pos
    decide ((((s.lp p).window.filter fun w => decide (a ≤ w.pos ∧ w.pos ≤ b)).length : Int) = max 0 (b - a + 1))
  | _, _ => true

/-- The conditions of readiness for a track. -/
def readyNow (s : State) (t : Track) (h : HeartbeatP) : Bool :=
  let r := match t with
    | .A => (h.posA, h.trigA, h.digA)
    | .B => (h.posB, h.trigB, h.digB)
  s.twin.linkUp && s.twin.paired && isStandby s && decide (BitVec.ofInt 32 (trigsAt s t r.1) = r.2.1) && decide (feedDigest s t = slice r.2.2 0 8) &&
  !(s.track t).restartBad &&
  ((s.track t).pieces.filter fun y => !y.posted).all fun y => (s.track t).sides.all fun x => windowHolds s t y x.1 x.2

/-- Judge a track's readiness: after a failure it comes with the next piece whose line 0 falls after every condition holds again. -/
def judgeReady (s : State) (h : HeartbeatP) (t : Track) : State :=
  let was := match t with | .A => s.twin.readyA | .B => s.twin.readyB
  let good := match t with | .A => s.twin.goodA | .B => s.twin.goodB
  if !readyNow s t h then setReady s t false none
  else match good with
    | none => setReady s t false (some (s.track t).encLine)
    | some g => setReady s t (was || (s.track t).pieces.any fun y => match y.line0 with
        | some l => decide (g < l)
        | none => false) (some g)

/-- Pieces that the active reports committed are committed for the standby too (R386). -/
def noteCommitted (s : State) (t : Track) (n : Word32) : State :=
  if n = 0xFFFFFFFF then s
  else
    let s := s.modTrack t fun x => { x with pieces := mapWhere (fun y => pieceFrom y.num n.toNat) (fun y => { y with posted := true, inFold := false }) x.pieces,
                                            lastCommit := n }
    prunePieces s t

/-! ### Heartbeats (R384) -/

/-- HEARTBEAT. -/
def execHeartbeat (seq : Half) (p : HeartbeatP) (s : State) : Host.Outcome State Fault Refusal :=
  .next (receiveFrame s seq fun s =>
    let s := { s with twin := { s.twin with beat := some p, misses := 0, partnerCount := p.windows } }
    if isStandby s then
      let s := noteCommitted (noteCommitted s .A p.commA) .B p.commB
      judgeWindows (judgeReady (judgeReady s p .A) p .B)
    else s)

/-- HEARTBEAT_SEND: every 10 µs while the link is up. -/
def execHeartbeatSend (s : State) : Host.Outcome State Fault Refusal :=
  .next (if s.twin.linkUp && twinEnabled s then sendFrame s 0x01 0 0 0 0 (heartbeatBytes (heartbeatOf s)) else s)

/-! ### Takeover (R389 to R392) -/

/-- Nanoseconds until a replay of `n` lines at 4 times the armed maximum reaches the live line. -/
def replayNs (s : State) (t : Track) (n : Nat) : Nat := if (s.track t).armedMax = 0 then 0 else n * 1000000000 / (3 * (s.track t).armedMax)

/-- A side of a piece to be replayed: a job when its skew is known, with the lines that are there; the replay counts as slip. -/
def replaySide (s : State) (t : Track) (n ns : Nat) (sd : Side) : State :=
  match findPiece s t n with
  | none => s
  | some y =>
    let s := modPiece s t n fun y => y.modSide sd fun z => { z with slip := z.slip + ns }
    if (y.side sd).skew.isSome ∧ (y.side sd).job.isNone ∧ ¬ (y.side sd).done then
      feedInput (feedJob s t n sd) t n sd
    else s

/-- A piece from the takeover piece on: one whose fold waited only for this module reaches it; one whose lines are gone is discarded. -/
def replayPiece (t : Track) (ns : Nat) (s : State) (y : Piece) : State :=
  if y.inFold then verdictFold s t y.num
  else if y.line0.isNone then s
  else if (s.track t).sides.all fun x => windowHolds s t y x.1 x.2 then
    (s.track t).sides.foldl (fun s x => replaySide s t y.num ns x.1) s
  else (discardPiece s t y.num .lineLost).portCnt (s.frontPort t) 13

/-- Take a track over from a piece. -/
def takeTrack (s : State) (t : Track) (k : Nat) : State :=
  let s := s.modTrack t fun x => { x with pieces := mapWhere (fun y => !pieceFrom k y.num) (fun y => { y with posted := true, inFold := false }) x.pieces }
  let ps := (s.track t).pieces.filter fun y => !y.posted
  let n := match ps.findSome? (·.line0) with | some l => ((s.track t).encLine - l).toNat | none => 0
  prunePieces (ps.foldl (replayPiece t (replayNs s t n)) s) t

/-- The takeover piece of a track after a loss: the lowest not reported committed. -/
def lostFrom (s : State) (t : Track) : Nat :=
  let c : Word32 := match s.twin.beat with
    | some h => (match t with | .A => h.commA | .B => h.commB)
    | none => 0xFFFFFFFF
  match ((s.track t).pieces.filter fun y => !y.posted && (c == 0xFFFFFFFF || pieceFrom ((c.toNat + 1) % 2 ^ 32) y.num)).head? with
  | some y => y.num
  | none => if c = 0xFFFFFFFF then s.nextPiece.toNat else (c + 1).toNat

/-- The decision to take over: `k` names the takeover piece of each track. -/
def takeOver (s : State) (k : Track → Nat) (fence : Bool) : State :=
  let ready := fun (t : Track) => match t with | .A => s.twin.readyA | .B => s.twin.readyB
  let s := { s with twin := { s.twin with state := .takingOver, takeover := true, fenceOut := fence, readyA := false, readyB := false, goodA := none, goodB := none,
                                          misses := 0, paired := if fence then false else s.twin.paired } }
  let s := allTracks.foldl (fun s t =>
    if !(s.track t).armed then s
    else if ready t then takeTrack (logHealth s (HealthEntry.of 21 (k t))) t (k t)
    else (logHealth s (HealthEntry.of 21 (k t))).modTrack t fun x => { x with hold := { x.hold with twin := true } }) s
  let replays := allTracks.any fun t => (s.track t).armed && ready t && (s.track t).pieces.any fun y => y.line0.isSome && !y.posted
  schedule (if replays then s else { s with twin := { s.twin with state := .active } })

/-- HEARTBEAT_MISSED: after three in a row the partner is lost, and a standby takes over. -/
def execHeartbeatMissed (s : State) : Host.Outcome State Fault Refusal :=
  if !twinEnabled s || s.twin.beat.isNone then .next s
  else
    let n := s.twin.misses + 1
    let s := { s with twin := { s.twin with misses := n } }.chipCnt 47
    .next (if n = 3 ∧ isStandby s ∧ s.twin.paired then takeOver s (lostFrom s) true else s)

/-- HEALTH: the standby takes over from the pieces named; a handover (cause 4) needs no fence. -/
def execHealth (seq : Half) (cause : Nat) (pieceA pieceB : Word32) (s : State) : Host.Outcome State Fault Refusal :=
  .next (receiveFrame s seq fun s =>
    if isStandby s && s.twin.paired && decide (1 ≤ cause ∧ cause ≤ 4) then
      let name := fun (n : Word32) => if n = 0xFFFFFFFF then s.nextPiece.toNat else n.toNat
      takeOver s (fun t => match t with | .A => name pieceA | .B => name pieceB) (decide (cause ≠ 4))
    else s)

/-- TAKEOVER_CLEAR: the alert ends, and the fence output is released (log 42). -/
def clearTakeover (s : State) : State := { s with twin := { s.twin with takeover := false, fenceOut := false } }

def execTakeoverClear (s : State) : Host.Outcome State Fault Refusal := .next (clearTakeover s)

/-! ### Fence (R388) -/

/-- TWIN_FENCE_IN: asserted, an enabled module is FENCED: it aborts its verdict folds, drives nothing and is silent. -/
def execTwinFenceIn (asserted : Bool) (s : State) : Host.Outcome State Fault Refusal :=
  let s := { s with twin := { s.twin with fenceIn := asserted } }
  .next (if asserted && twinEnabled s then
    stopReading { s with twin := { s.twin with state := .fenced, fenced := true, fenceOut := false, handoverTo := none, readyA := false, readyB := false, goodA := none,
                                               goodB := none } }
  else s)

/-- FENCE_CLEAR: once the partner has released its fence output, the module waits as a standby to pair again. -/
def clearFence (s : State) : State :=
  if s.twin.fenced && !s.twin.fenceIn then
    let s := { s with twin := { s.twin with fenced := false, state := if twinEnabled s then .standby else .solo, paired := false } }
    if twinEnabled s && s.twin.linkUp then sendPair s else s
  else s

def execFenceClear (s : State) : Host.Outcome State Fault Refusal := .next (clearFence s)

/-! ### Handover (R393) -/

/-- Is the partner ready for every armed track? -/
def partnerReady (s : State) : Bool := match s.twin.beat with
  | some h => (!s.trackA.armed || h.readyA) && (!s.trackB.armed || h.readyB)
  | none => false

/-- HANDOVER; while a handover runs a further one is ignored (R468). -/
def startHandover (s : State) : State :=
  if s.twin.handoverTo.isSome then badWrite s 0
  else if s.twin.state ≠ .active then s
  else if !s.twin.linkUp || !s.twin.paired || !partnerReady s then { s with twin := { s.twin with refused := true } }
  else
    let s := sendHealth s 4 s.nextPiece s.nextPiece
    finishHandover { s with twin := { s.twin with handoverTo := some s.nextPiece.toNat } }

def execHandover (s : State) : Host.Outcome State Fault Refusal := .next (startHandover s)

/-! ### Windows and transfers (R381) -/

/-- WINDOW_STATE: the record of the partner's windows. -/
def execWindowState (seq : Half) (win access len : Nat) (s : State) : Host.Outcome State Fault Refusal :=
  .next (receiveFrame s seq fun s =>
    let ws := s.twin.partner.filter fun e => e.1 != win
    { s with twin := { s.twin with partner := if access = 0 ∧ len = 0 then ws else ws ++ [(win, access, len)] } })

/-- Bytes that the partner writes into DRAM. -/
def dramWrite (d : List (Nat × Byte)) (a : Nat) : List Byte → List (Nat × Byte)
  | [] => d
  | b :: bs => dramWrite (smInsert d a b) (a + 1) bs

/-- A WRITE frame is written into its window, or refused with a status. -/
def landWrite (s : State) (f : TwinWriteP) : Status × State :=
  match windowOf s f.win with
  | none => (.windowClosed, s)
  | some w =>
    let a := w.base + f.off
    if !bitAt w.access 0 then (.windowClosed, s)
    else if w.len < f.off + f.data.length then (.windowBound, s)
    else if w.target = 0 then (.ok, { s with twin := { s.twin with dram := dramWrite s.twin.dram a f.data } })
    else if (List.range (ceilDiv f.data.length 32)).any fun i => inHole (a + 32 * i) then (.tsHole, s)
    else
      let r := writeVia some s a f.data (f.data.length + 1)
      (if r.1.isEmpty then .ok else .tsUncorrectable, logWords r.2 none r.1)

/-- TWIN_WRITE: the last frame of a transfer is answered with WRITE_DONE, which carries the first status that was not OK. -/
def execTwinWrite (seq : Half) (f : TwinWriteP) (s : State) : Host.Outcome State Fault Refusal :=
  .next (receiveFrame s seq fun s =>
    let r := landWrite s f
    let s := r.2
    let first := match smFind s.twin.badXfer f.xfer with
      | some c => c
      | none => r.1.code
    if f.last then
      sendFrame { s with twin := { s.twin with badXfer := smErase s.twin.badXfer f.xfer } } 0x11 0 f.win f.xfer 0 (leBytes 2 first)
    else if first = 0 then s
    else { s with twin := { s.twin with badXfer := smInsert s.twin.badXfer f.xfer first } })

/-- WRITE_DONE: the TWIN_DMA completes with the status it carries; a code that Table 11-8 does not list completes nothing. -/
def execWriteDone (seq : Half) (xfer status : Nat) (s : State) : Host.Outcome State Fault Refusal :=
  .next (receiveFrame s seq fun s =>
    match s.twin.xfers.find? fun x => x.id == xfer, Status.ofCode status with
    | some x, some st => complete { s with twin := { s.twin with xfers := s.twin.xfers.filter fun y => y.id != xfer } } x.r x.hdr 0x62 st []
    | _, _ => s)

/-- What the first three rows of Table 15-4 say of the partner's windows, when the record agrees with the latest HEARTBEAT. -/
def dmaCheck (s : State) (o : TwinDmaOp) : Option Status :=
  if !s.twin.linkUp then some .twinLinkDown
  else if s.twin.partnerCount ≠ s.twin.partner.length then none
  else match s.twin.partner.find? fun e => e.1 == o.win with
    | none => some .windowClosed
    | some e => if !bitAt e.2.1 0 then some .windowClosed else if e.2.2 < o.off + o.len then some .windowBound else none

/-- The bytes of the source up to its first word that cannot be read, why that word cannot, and the state with the words of the tile store that were corrected
or could not be (R133, R134). Of DRAM, what the partner has written is the model's own; `aux` gives the rest up to the first uncorrectable word (log 43). -/
def dmaSource (s : State) (fn : Fn) (o : TwinDmaOp) (aux : List Byte) : List Byte × Option (Status × List Byte) × State :=
  match o.src with
  | 0 => (slice aux 0 o.len, none, s)
  | 1 =>
    let b := (List.range (min o.len aux.length)).map fun i => (smFind s.twin.dram (o.srcAddr + i)).getD (aux.getD i 0)
    (b, if b.length < o.len then some (.dramUncorrectable, []) else none, s)
  | _ =>
    let ws := List.range (o.len / 32)
    let bad := ws.find? fun i => inHole (o.srcAddr + 32 * i) || markOf s (o.srcAddr + 32 * i) == 2
    let n := match bad with | some i => 32 * i | none => o.len
    let r := readBytes s o.srcAddr n
    match bad with
    | none => (r.1, none, r.2.2)
    | some i =>
      let a := o.srcAddr + 32 * i
      if inHole a then (r.1, some (.tsHole, leBytes 4 a), r.2.2)
      else (r.1, some (.tsUncorrectable, leBytes 4 a), logWords (readWord r.2.2 a).2.2 (some fn.val) [a])

/-- A transfer id that no transfer uses. -/
def freeXfer (s : State) : Nat :=
  (((List.range 256).map fun i => (s.twin.nextXfer + i) % 256).find? fun i => !(s.twin.xfers.any fun x => x.id == i)).getD (s.twin.nextXfer % 256)

/-- The WRITE frames of a transfer in ascending offset order; `whole` marks its last. -/
def sendWrites (win xfer : Nat) (whole : Bool) : State → Nat → List (List Byte) → State
  | s, _, [] => s
  | s, off, c :: cs => sendWrites win xfer whole (sendFrame s 0x10 (b2n (whole && cs.isEmpty)) win xfer off c) (off + c.length) cs

/-- TWIN_DMA's effect once its start checks have passed. -/
def runTwinDma (s : State) (r : RingRef) (h : Hdr) (o : TwinDmaOp) (aux : List Byte) : State :=
  match dmaCheck s o with
  | some st => complete s r h 0x62 st []
  | none =>
    let s := if o.src = 0 then s.hostRead r.fn o.srcAddr o.len else s
    let d := dmaSource s r.fn o aux
    let s := d.2.2
    let id := freeXfer s
    let s := sendWrites o.win id d.2.1.isNone { s with twin := { s.twin with nextXfer := (id + 1) % 256 } } o.off (chunksOf 512 (d.1.length + 1) d.1)
    match d.2.1 with
    | some (st, x) => complete s r h 0x62 st x
    | none =>
      if o.len = 0 then complete s r h 0x62 .ok []
      else { s with twin := { s.twin with xfers := s.twin.xfers ++ [{ id := id, r := r, hdr := h }] } }

end Sys2Proof.Machine
end

