-- ==== Sys2Proof/Machine/Descriptors.lean ====
section
/-! DEFINITION. Descriptors: when they are fetched and start (R292, R293, R298, R299), the start checks (R498), what each does, folds and their
members (R308 to R310), and the commands that bring a descriptor in. -/

namespace Sys2Proof.Machine

open Sys2Proof

/-! ### When a descriptor starts -/

/-- Bring-up stage from which the module fetches from a function's rings (R449, Table 18-8). -/
def fetchStage (fn : Fn) : Nat := if fn.val = 0 then 3 else 6

/-- Does the limit of 4,096 waiting jobs hold a descriptor (R299)? -/
def heldByLimit (s : State) (d : Desc) : Bool := jobDesc d.op && decide (4096 ≤ waitingJobs s)

/-- Descriptors of a pair that have been fetched and not started. -/
def unstarted (x : RingPair) : List Desc := x.fetched.take (x.fetched.length - x.unfetched)

/-- May the module fetch from a pair (R281, R293, R294, R299)? -/
def canFetch (s : State) (r : RingRef) : Bool :=
  let x := s.ring r
  ringLive s r && (s.fnOf r.fn).enabled && decide (fetchStage r.fn ≤ s.boot.stage) && !s.pwr.device && cqRoom s r && x.held.isEmpty &&
  (match (unstarted x).head? with
    | some d => !heldByLimit s d
    | none => true)

/-- What stands in the submission ring is fetched: the SQ head moves past it (R287). -/
def fetchNow (s : State) (r : RingRef) : State :=
  if canFetch s r then s.modRing r fun x => { x with sqHead := x.sqHead + BitVec.ofNat 16 x.unfetched, unfetched := 0 } else s

/-- Has every descriptor that FENCE waits for completed (R298)? Inside an open fold those before its FOLD_OPEN. -/
def fencePassed (x : RingPair) : Bool :=
  x.running.all fun e => match x.fold with
    | some f => e.2 == some f.id
    | none => false

/-- Does a SNAPSHOT wait for a bank (R459)? Its checks are made when it starts. -/
def waitsBank (s : State) (d : Desc) : Bool := match d.op with
  | .snapshot o => (snapshotBank s o.T).isNone
  | _ => false

/-- May the next descriptor of a pair start (R298, R299)? -/
def canStart (s : State) (r : RingRef) (d : Desc) : Bool :=
  let x := s.ring r
  ringLive s r && !s.pwr.device && !x.pegWait && (!d.hdr.fence || fencePassed x) && !heldByLimit s d && !waitsBank s d

/-! ### Effects outside a fold -/

/-- A job of a descriptor is queued; a host image asks for its parameter block. -/
def startImage (s : State) (r : RingRef) (h : Hdr) (o : ImageReadOp) (aux : List Byte) : State :=
  match imageStartCheck s r o aux with
  | some e => complete s r h 0x10 e.1 e.2
  | none =>
    let s := if o.pbAddr = 0 then s else s.hostRead r.fn o.pbAddr o.pbLen
    serveImages (addJob s (imageJob s r h o aux false)).2

/-- What a SEQ_STEP fails of at its start (R218, R282). -/
def seqStartCheck (s : State) (r : RingRef) (o : SeqStepOp) : Option (Status × List Byte) :=
  let d := seqDetail 0 (if bitAt o.flags 0 then 0 else o.seq) 0
  match planOf s r.fn o.plan with
  | none => some (.planUnknown, d)
  | some p =>
    if kvLayers p.c = 0 then some (.badState, d)
    else if bitAt o.flags 0 then none
    else match seqOf s r.fn p.handle o.seq with
      | none => some (.seqUnknown, d)
      | some q => if q.state = .leaving then some (.badState, d) else none

/-- A SEQ_STEP is queued; its tokens are read. -/
def startSeqStep (s : State) (r : RingRef) (h : Hdr) (o : SeqStepOp) (aux : List Byte) : State :=
  match seqStartCheck s r o with
  | some e => complete s r h 0x11 e.1 e.2
  | none => (addJob (s.hostRead r.fn o.tokAddr (16 * o.tokCount)) (seqStepJob s r h o aux false)).2

/-- A TAILOR_STEP is queued; its sample list is read. -/
def startTailorStep (s : State) (r : RingRef) (h : Hdr) (o : TailorStepOp) (aux : List Byte) : State :=
  match startTailor (s.hostRead r.fn o.listAddr o.listLen) r h o aux false with
  | .error e => complete s r h 0x12 e.1 e.2
  | .ok (_, s) => serveImages s

/-- Does a PT_EDIT name a sequence of its plan as its target? -/
def editTarget (s : State) (fn : Fn) (o : PtEditOp) : Bool := ((planOf s fn o.plan).bind fun p => seqOf s fn p.handle o.seq).isSome

/-- A lone PT_EDIT commits as a fold of its own (R213, R308): an unknown plan or target has its own status; a broken condition, or a source that is no
sequence of the plan, aborts the fold. -/
def startEdit (s : State) (r : RingRef) (h : Hdr) (o : PtEditOp) : State :=
  match editCheck s r.fn o with
  | some st =>
    if st = .badState ∨ editTarget s r.fn o then complete (s.chipCnt 28) r h 0x30 .foldAborted (abortDetail 0 0x30 st)
    else complete (s.chipCnt 28) r h 0x30 st []
  | none =>
    let s := (raiseVersion (editApply s r.fn o)).chipCnt 27
    let s := complete s r h 0x30 .ok (leBytes 4 s.pool.version.toNat)
    if o.kind = 5 then (match findSeq s o.seq with
      | some q => releaseSeq s q
      | none => s) else s

/-- The control cycle by which a wait's timeout has expired (R307): `ns` after the cycle in which it starts. -/
def waitDeadline (s : State) (ns : Nat) : Option Nat :=
  if ns = 0xFFFFFFFF then none else some (controlEdge (4 * controlCycle s + nsToCycles ns))

/-- A PEG_WAIT stands and is judged in its own cycle (R307). -/
def startPegWait (s : State) (r : RingRef) (h : Hdr) (o : PegWaitOp) : State :=
  let w : PegWaitSt := { r := r, hdr := h, peg := o.peg, target := o.target, deadline := waitDeadline s o.timeout }
  let s := s.modRing r fun x => { x with pegWait := true }
  pegArbitrate { s with pegs := { s.pegs with waits := s.pegs.waits ++ [w] } } [] []

/-- A PEG_SIGNAL is an update of this cycle; it completes after it (R305, R307). -/
def startPegSignal (s : State) (r : RingRef) (h : Hdr) (o : PegSignalOp) : State :=
  let u := [(o.peg, o.value)]
  complete (if o.op = 1 then pegArbitrate s u [] else pegArbitrate s [] u) r h 0x41 .ok []

/-- FOLD_OPEN opens a fold on its ring (R309). -/
def startFoldOpen (s : State) (r : RingRef) (h : Hdr) : State :=
  s.modRing r fun x => { x with
    fold := some { id := x.nextFold, openHdr := h, members := [], failed := none, closeHdr := none, hostAbort := false, committed := false },
    nextFold := x.nextFold + 1 }

/-- What a descriptor does outside a fold once its start checks have passed. -/
def runDesc (s : State) (r : RingRef) (d : Desc) : State :=
  let h := d.hdr
  match d.op with
  | .nop => complete s r h 0x00 .ok []
  | .scanArm o => runScanArm s r h o
  | .scanDisarm t => runScanDisarm s r h t
  | .calRun o => runCalRun s r h o
  | .imageRead o aux => startImage s r h o aux
  | .seqStep o aux => startSeqStep s r h o aux
  | .tailorStep o aux => startTailorStep s r h o aux
  | .planLoad o => runPlanLoad s r h o
  | .planUnload p => runPlanUnload s r h p
  | .wardrobePin o => runWardrobePin s r h o
  | .ptEdit o => startEdit s r h o
  | .pegWait o => startPegWait s r h o
  | .pegSignal o => startPegSignal s r h o
  | .foldOpen => startFoldOpen s r h
  | .foldClose _ => complete s r h 0x49 .badState []
  | .snapshot o => runSnapshot s r h o
  | .windowOpen o => runWindowOpen s r h o
  | .windowClose w => runWindowClose s r h w
  | .twinDma o aux => runTwinDma s r h o aux
  | .testRun o => runTestRun s r h o
  | .unknown n => complete s r h n .badOpcode []

/-! ### Members of an open fold (R309, R310) -/

/-- A member before it is staged. -/
def memberOf (d : Desc) (act : FoldAct) (job : Option Nat) : Member :=
  { hdr := d.hdr, opcode := DescOpcode d.op, act := act, job := job, ended := none, detail := [] }

/-- A member whose descriptor fails a check after the start checks. -/
def memberFail (d : Desc) (act : FoldAct) (e : Status × List Byte) : Member := { memberOf d act none with ended := some e.1, detail := e.2 }

/-- The state with a member's job queued, and the member. -/
def memberJob (s : State) (d : Desc) (j : Job) : State × Member :=
  let x := addJob s j
  (x.2, memberOf d (.record none) (some x.1))

/-- Stage a member: what it needs is started, nothing of it is applied. -/
def stageMember (s : State) (r : RingRef) (d : Desc) : State × Member :=
  match d.op with
  | .ptEdit o => (s, memberOf d (.ptEdit o) none)
  | .pegSignal o => (s, memberOf d (.pegSignal o) none)
  | .windowOpen o => (s, memberOf d (.windowOpen o) none)
  | .imageRead o aux => match imageStartCheck s r o aux with
    | some e => (s, memberFail d (.record none) e)
    | none => memberJob (if o.pbAddr = 0 then s else s.hostRead r.fn o.pbAddr o.pbLen) d (imageJob s r d.hdr o aux true)
  | .seqStep o aux => match seqStartCheck s r o with
    | some e => (s, memberFail d (.record none) e)
    | none => memberJob (s.hostRead r.fn o.tokAddr (16 * o.tokCount)) d (seqStepJob s r d.hdr o aux true)
  | .tailorStep o aux => match startTailor (s.hostRead r.fn o.listAddr o.listLen) r d.hdr o aux true with
    | .error e => (s, memberFail d .swap e)
    | .ok (j, s) => (s, memberOf d .swap (some j))
  | _ => (s, memberOf d .none none)

/-- Put a member at the end of the open fold, with the failure it brings, if any. -/
def addMember (s : State) (r : RingRef) (m : Member) (bad : Option (Nat × Nat × Status)) : State :=
  s.modRing r fun x => { x with fold := x.fold.map fun f =>
    { f with members := f.members ++ [m], failed := if f.failed.isSome then f.failed else bad } }

/-- A descriptor of an open fold other than its FOLD_CLOSE. -/
def startMember (s : State) (r : RingRef) (f : FoldSt) (d : Desc) : State :=
  let n := f.members.length
  let dead := memberOf d .none none
  if f.failed.isSome then addMember s r dead none
  else if 64 ≤ n then addMember s r dead (some (64, DescOpcode d.op, .foldLimit))
  else match startCheck s r d with
    | some (st, _) => addMember s r dead (some (n, DescOpcode d.op, st))
    | none =>
      let x := stageMember s r d
      serveImages (addMember x.1 r x.2 none)

/-- The FOLD_CLOSE of an open fold: the fold waits for its member jobs (R311); flag [0] aborts it (R314). -/
def closeFold (s : State) (r : RingRef) (f : FoldSt) (d : Desc) (flags : Nat) : State :=
  let bad := match f.failed, startCheck s r d with
    | some b, _ => some b
    | none, some (st, _) => some (f.members.length, 0x49, st)
    | none, none => none
  checkFold (s.modRing r fun x => { x with
    fold := none, closed := x.closed ++ [{ f with closeHdr := some d.hdr, hostAbort := bitAt flags 0, failed := bad }] }) r f.id

/-! ### Starting descriptors -/

/-- A descriptor starts (R298, R498). -/
def startDesc (s : State) (r : RingRef) (d : Desc) : State :=
  match (s.ring r).fold with
  | some f =>
    let s := s.modRing r fun x => { x with running := x.running ++ [(d.hdr.tag, some f.id)] }
    match d.op with
    | .foldClose flags => closeFold s r f d flags
    | _ => startMember s r f d
  | none =>
    let own := match d.op with
      | .foldOpen => some (s.ring r).nextFold
      | _ => none
    let s := s.modRing r fun x => { x with running := x.running ++ [(d.hdr.tag, own)] }
    match startCheck s r d with
    | some (st, x) => complete s r d.hdr (DescOpcode d.op) st x
    | none => runDesc s r d

/-- Descriptors of a pair start in ring order for as long as they may; fuel bounds their number. -/
def pumpRing (s : State) (r : RingRef) : Nat → State
  | 0 => s
  | n + 1 =>
    let s := fetchNow s r
    match (unstarted (s.ring r)).head? with
    | none => s
    | some d =>
      if canStart s r d then pumpRing (startDesc (s.modRing r fun x => { x with fetched := x.fetched.drop 1 }) r d) r n else s

/-- Every pair starts what it can: what one does may let another go on. -/
def pumpAll (s : State) : State := (allRings s).foldl (fun s r => pumpRing s r ((s.ring r).fetched.length + 1)) s

/-- Descriptors announced by a doorbell line whose bytes have not come. -/
def announced (x : RingPair) : Nat := (x.sqTail - x.sqHead).toNat - x.unfetched

/-- A descriptor comes to a pair. -/
def takeDesc (s : State) (r : RingRef) (d : Desc) : State :=
  pumpAll (s.modRing r fun x => { x with fetched := x.fetched ++ [d], unfetched := x.unfetched + 1 })

/-- A descriptor named by a command: host software puts it into a free slot of the submission ring and announces it, and the module fetches
it; one announced before takes its place (log 1). -/
def submit (s : State) (i : RingId) (d : Desc) : State :=
  let r := s.ref i
  let x := s.ring r
  if !ringLive s r then s
  else if 0 < announced x then takeDesc s r d
  else if ringN s r ≤ (x.sqTail - x.sqHead).toNat then s
  else takeDesc (s.modRing r fun x => { x with sqTail := x.sqTail + 1 }) r d

/-! ### The commands -/

/-- DESCRIPTOR_FETCHED: the bytes of the next announced slot, and of what host memory holds where it points. -/
def execDescriptorFetched (i : RingId) (bytes aux : List Byte) (s : State) : Host.Outcome State Fault Refusal :=
  let r := s.ref i
  .next (if ringLive s r && decide (0 < announced (s.ring r)) then takeDesc s r (parseDesc bytes aux) else s)

/-- NOP. -/
def execNop (r : RingId) (h : Hdr) (s : State) : Host.Outcome State Fault Refusal := .next (submit s r { hdr := h, op := .nop })

/-- SCAN_ARM (R38, R48). -/
def execScanArm (r : RingId) (h : Hdr) (o : ScanArmOp) (s : State) : Host.Outcome State Fault Refusal := .next (submit s r { hdr := h, op := .scanArm o })

/-- SCAN_DISARM (R54). -/
def execScanDisarm (r : RingId) (h : Hdr) (track : Nat) (s : State) : Host.Outcome State Fault Refusal :=
  .next (submit s r { hdr := h, op := .scanDisarm track })

/-- CAL_RUN (R62). -/
def execCalRun (r : RingId) (h : Hdr) (o : CalRunOp) (s : State) : Host.Outcome State Fault Refusal := .next (submit s r { hdr := h, op := .calRun o })

/-- IMAGE_READ (R337). -/
def execImageRead (r : RingId) (h : Hdr) (o : ImageReadOp) (aux : List Byte) (s : State) : Host.Outcome State Fault Refusal :=
  .next (submit s r { hdr := h, op := .imageRead o aux })

/-- SEQ_STEP (R218). -/
def execSeqStep (r : RingId) (h : Hdr) (o : SeqStepOp) (aux : List Byte) (s : State) : Host.Outcome State Fault Refusal :=
  .next (submit s r { hdr := h, op := .seqStep o aux })

/-- TAILOR_STEP (R353). -/
def execTailorStep (r : RingId) (h : Hdr) (o : TailorStepOp) (aux : List Byte) (s : State) : Host.Outcome State Fault Refusal :=
  .next (submit s r { hdr := h, op := .tailorStep o aux })

/-- PLAN_LOAD (R229). -/
def execPlanLoad (r : RingId) (h : Hdr) (o : PlanLoadOp) (s : State) : Host.Outcome State Fault Refusal := .next (submit s r { hdr := h, op := .planLoad o })

/-- PLAN_UNLOAD (R253). -/
def execPlanUnload (r : RingId) (h : Hdr) (plan : Nat) (s : State) : Host.Outcome State Fault Refusal :=
  .next (submit s r { hdr := h, op := .planUnload plan })

/-- WARDROBE_PIN (R271). -/
def execWardrobePin (r : RingId) (h : Hdr) (o : WardrobePinOp) (s : State) : Host.Outcome State Fault Refusal :=
  .next (submit s r { hdr := h, op := .wardrobePin o })

/-- PT_EDIT (R213). -/
def execPtEdit (r : RingId) (h : Hdr) (o : PtEditOp) (s : State) : Host.Outcome State Fault Refusal := .next (submit s r { hdr := h, op := .ptEdit o })

/-- PEG_WAIT (R307). -/
def execPegWait (r : RingId) (h : Hdr) (o : PegWaitOp) (s : State) : Host.Outcome State Fault Refusal := .next (submit s r { hdr := h, op := .pegWait o })

/-- PEG_WAIT_TIMEOUT: the time base reaches the deadline of the PEG_WAIT that stands on a pair (R305, R307). -/
def execPegWaitTimeout (i : RingId) (s : State) : Host.Outcome State Fault Refusal :=
  match (s.pegs.waits.find? fun w => w.r == s.ref i).bind (·.deadline) with
  | some d => .next (pumpAll (pegArbitrate (passUntil s d) [] []))
  | none => .next s

/-- PEG_SIGNAL (R305). -/
def execPegSignal (r : RingId) (h : Hdr) (o : PegSignalOp) (s : State) : Host.Outcome State Fault Refusal :=
  .next (submit s r { hdr := h, op := .pegSignal o })

/-- FOLD_OPEN (R309). -/
def execFoldOpen (r : RingId) (h : Hdr) (s : State) : Host.Outcome State Fault Refusal := .next (submit s r { hdr := h, op := .foldOpen })

/-- FOLD_CLOSE (R309, R311, R314). -/
def execFoldClose (r : RingId) (h : Hdr) (flags : Nat) (s : State) : Host.Outcome State Fault Refusal :=
  .next (submit s r { hdr := h, op := .foldClose flags })

/-- SNAPSHOT (R458). -/
def execSnapshot (r : RingId) (h : Hdr) (o : SnapshotOp) (s : State) : Host.Outcome State Fault Refusal := .next (submit s r { hdr := h, op := .snapshot o })

/-- WINDOW_OPEN (R380). -/
def execWindowOpen (r : RingId) (h : Hdr) (o : WindowOpenOp) (s : State) : Host.Outcome State Fault Refusal :=
  .next (submit s r { hdr := h, op := .windowOpen o })

/-- WINDOW_CLOSE (R382). -/
def execWindowClose (r : RingId) (h : Hdr) (win : Nat) (s : State) : Host.Outcome State Fault Refusal :=
  .next (submit s r { hdr := h, op := .windowClose win })

/-- TWIN_DMA (R381). -/
def execTwinDma (r : RingId) (h : Hdr) (o : TwinDmaOp) (aux : List Byte) (s : State) : Host.Outcome State Fault Refusal :=
  .next (submit s r { hdr := h, op := .twinDma o aux })

/-- TEST_RUN (R430). -/
def execTestRun (r : RingId) (h : Hdr) (o : TestRunOp) (s : State) : Host.Outcome State Fault Refusal := .next (submit s r { hdr := h, op := .testRun o })

end Sys2Proof.Machine
end

