-- ==== Sys2Proof/Machine/Dictionary.lean ====
section
/-! DEFINITION. The tokeniser dictionary: loading, its checks in their order, its digest (R349, R350, Tables 13-6 and 20-10). -/

namespace Sys2Proof.Machine

open Sys2Proof

def dictBase (s : State) : Nat := regGet s 0 0x23010
def dictLen (s : State) : Nat := regGet s 0 0x23018

/-- Is a plan loaded whose TABLES section names a dictionary digest? -/
def dictPlan (s : State) : Bool := s.plans.loaded.any fun p => p.c.dict.isSome

/-- A load ends: error code, and the event vector of the PF. -/
def dictEnd (s : State) (err : Nat) : State :=
  ({ s with dict := { s.dict with busy := false, error := err } }).raiseEvent 0

/-- A load is asked for (R350, cause 7). A load asked for while one runs changes nothing. -/
def dictStart (s : State) : State :=
  if s.dict.busy then s
  else if dictPlan s then dictEnd s 7
  else ({ s with dict := { s.dict with busy := true } }).hostRead 0 (dictBase s) (dictLen s)

/-- Entry `i`: offset and length (Table 13-6). -/
def dictEntry (b : List Byte) (i : Nat) : Nat × Nat := (fieldAt b (32 + 4 * i) 3, fieldAt b (35 + 4 * i) 1)

/-- The first entry's fault in index order: 3 for its length, 6 for an end past the string area. -/
def entryFault (b : List Byte) (area : Nat) : Nat → Nat → Option Nat
  | 0, _ => none
  | n + 1, i =>
    let e := dictEntry b i
    if e.2 = 0 ∨ 64 < e.2 then some 3 else if area < e.1 + e.2 then some 6 else entryFault b area n (i + 1)

/-- The strings of a dictionary. -/
def dictStrings (b : List Byte) (n : Nat) : List (List Byte) :=
  (List.range n).map fun i => slice b (32 + 4 * n + (dictEntry b i).1) (dictEntry b i).2

/-- Does a string occur twice? -/
def anyTwice : List (List Byte) → Bool
  | [] => false
  | x :: xs => xs.contains x || anyTwice xs

/-- The cause of a refusal in the order of R350; 0 for none. -/
def dictCheck (b : List Byte) : Nat :=
  let n := fieldAt b 4 4
  let area := fieldAt b 8 4
  if slice b 0 4 ≠ [0x59, 0x44, 0x49, 0x43] ∨ b.length < 32 then 1
  else if n < 256 ∨ 262144 < n then 2
  else if 3 * 1048576 < area then 6
  else if b.length ≠ 32 + 4 * n + area then 1
  else match entryFault b area n 0 with
    | some e => e
    | none =>
      let es := dictStrings b n
      if anyTwice es then 4
      else if (List.range 256).all fun i => es.contains [BitVec.ofNat 8 i] then 0 else 5

/-- The dictionary that a checked load brings into force. -/
def dictPlace (s : State) (b : List Byte) : State :=
  measure { s with dict := { s.dict with loaded := true, entries := dictStrings b (fieldAt b 4 4), digest := digest32 b } } 5 0 (fieldAt b 4 4) (digest32 b)

/-- DICT_LOAD: SEQ_DICT_CTRL.load is written. -/
def execDictLoad (s : State) : Host.Outcome State Fault Refusal := .next (dictStart s)

/-- DICT_LOAD_DONE: the host read has ended; without bytes it has failed. -/
def execDictLoadDone (bytes : Option (List Byte)) (s : State) : Host.Outcome State Fault Refusal :=
  if !s.dict.busy then .next s
  else match bytes with
    | none => .next (dictEnd s 8)
    | some b0 =>
      let b := slice b0 0 (dictLen s)
      let e := dictCheck b
      .next (dictEnd (if e = 0 then dictPlace s b else s) e)

end Sys2Proof.Machine
end

