-- ==== Sys2Proof/Machine/Rings.lean ====
section
/-! DEFINITION. Ring pairs and doorbells (R286 to R294), failed host reads (R285), interrupt moderation (R283), the record ring's enable (R471) and
peg grants (R304, R473). -/

namespace Sys2Proof.Machine

open Sys2Proof

/-! ### Stopping and starting a pair (R287, R294) -/

/-- A pair stops: its open fold aborts, nothing more is fetched, posted or waited for. -/
def stopPair (s : State) (r : RingRef) : State :=
  let s := abandonFolds s r false
  let s := { s with pegs := { s.pegs with waits := s.pegs.waits.filter fun w => !(w.r.fn == r.fn && w.r.pair == r.pair) } }
  s.modRing r fun x => { x with fetched := [], unfetched := 0, held := [], running := [], pegWait := false, unsignalled := 0, firstUnsig := none, gen := x.gen + 1 }

/-- The last entry of a pair that faults (R294). -/
def faultCompl (cause : Nat) : Compl :=
  { hdr := { irq := false, fence := false, peg := false, complPeg := 0, tag := 0 }, opcode := 0, status := .ringFault, member := false, arrived := false,
    detail := leBytes 1 cause }

/-- A pair faults: cause 1 SQ_TAIL, 2 CQ_HEAD, 3 DMA. -/
def ringFault (s : State) (r : RingRef) (cause : Nat) : State :=
  let s := if cqRoom s r then writeCompl s r (faultCompl cause) else s
  ((stopPair s r).modRing r fun x => { x with fault := true, cause := cause }).raiseEvent r.fn

/-- May a function's ring registers be used (R281, R449)? -/
def ringsUsable (s : State) (fn : Fn) : Bool := (s.fnOf fn).enabled && decide (2 ≤ s.boot.stage)

/-- RING_CTRL.enable from 0 to 1 zeroes the counters and clears the fault. -/
def enableRing (s : State) (i : RingId) : State :=
  let r := s.ref i
  if !ringsUsable s i.fn || (s.ring r).enable then s
  else s.modRing r fun x => { x with enable := true, fault := false, cause := 0, sqTail := 0, sqHead := 0, cqTail := 0, cqHead := 0 }

/-- Clearing RING_CTRL.enable stops the pair; one that has faulted has stopped already. -/
def disableRing (s : State) (i : RingId) : State :=
  let r := s.ref i
  if !(s.ring r).enable then s
  else (if (s.ring r).fault then s else stopPair s r).modRing r fun x => { x with enable := false }

/-- RING_ENABLE. -/
def execRingEnable (i : RingId) (s : State) : Host.Outcome State Fault Refusal := .next (enableRing s i)

/-- RING_DISABLE. -/
def execRingDisable (i : RingId) (s : State) : Host.Outcome State Fault Refusal := .next (disableRing s i)

/-! ### Doorbell lines (R289 to R292) -/

/-- A read of a function's line is issued, with the heads that the same burst reads (R316, R431). -/
def readLine (s : State) (fn : Fn) : State :=
  let s := (s.hostRead fn (doorbellAddr s fn.val) 64).chipCnt 41
  let s := if (s.fnOf fn).recEnable then s.hostRead fn (recHeadAddr s fn.val) 8 else s
  let s := if fn.val = 0 ∧ s.health.logEnable then s.hostRead 0 (regGet s 0 0x50030) 4 else s
  s.modFn fn fun f => { f with lineRead := true }

/-- A write to RING_KICK: a line whose read is in flight is read once more after it (R291). -/
def kick (s : State) (fn : Fn) : State :=
  if !ringsUsable s fn then s
  else
    let s := s.chipCnt 42
    if (s.fnOf fn).lineRead then s.modFn fn fun f => { f with kickWaiting := true } else readLine s fn

/-- RING_KICK. -/
def execRingKick (fn : Fn) (s : State) : Host.Outcome State Fault Refusal := .next (kick s fn)

/-- DOORBELL_POLL: the lines of all enabled functions are read (R290). -/
def execDoorbellPoll (s : State) : Host.Outcome State Fault Refusal :=
  .next (allFns.foldl (fun s fn => if ringsUsable s fn then readLine s fn else s) s)

/-- The reads that fetch the slots from counter `a` on: one run, or two around the end of the ring. -/
def fetchReads (s : State) (r : RingRef) (a n : Nat) : State :=
  let N := ringN s r
  let at0 := a % N
  let k := min n (N - at0)
  let s := if k = 0 then s else s.hostRead r.fn (sqBase s r + 64 * at0) (64 * k)
  if n - k = 0 then s else s.hostRead r.fn (sqBase s r) (64 * (n - k))

/-- One pair's counters from the line: the checks of R292, then the new tail and head. A head that fails its check is
not kept, so that the room for a RING_FAULT entry (R294) is judged by the last head that passed (DEDUCED, log 50). -/
def takeCounters (line : List Byte) (s : State) (r : RingRef) : State :=
  if !ringLive s r then s
  else
    let x := s.ring r
    let t : Half := BitVec.ofNat 16 (fieldAt line (2 * r.pair.val) 2)
    let k : Half := BitVec.ofNat 16 (fieldAt line (16 + 2 * r.pair.val) 2)
    let s := if ringN s r < (x.cqTail - k).toNat then s else s.modRing r fun x => { x with cqHead := k }
    if ringN s r < (t - x.sqHead).toNat then ringFault s r 1
    else if ringN s r < (x.cqTail - k).toNat then ringFault s r 2
    else
      let s := flushHeld s r (x.held.length + 1)
      let s := if canFetch s r then fetchReads s r x.sqTail.toNat (t - x.sqTail).toNat else s
      s.modRing r fun x => { x with sqTail := t }

/-- DOORBELL_LINE_ARRIVED: a read of a function's line returns, with the heads read in its burst. -/
def execDoorbellLineArrived (fn : Fn) (line : List Byte) (recHead : Word64) (healthHead : Word32) (s : State) : Host.Outcome State Fault Refusal :=
  if !(s.fnOf fn).lineRead then .next s
  else
    let s := s.modFn fn fun f => { f with lineRead := false, recHead := if f.recEnable then recHead else f.recHead }
    let s := if fn.val = 0 ∧ s.health.logEnable then { s with health := { s.health with head := healthHead } } else s
    let s := if ringsUsable s fn then (fnRings s fn).foldl (takeCounters line) s else s
    let s := pumpAll s
    .next (if (s.fnOf fn).kickWaiting then readLine (s.modFn fn fun f => { f with kickWaiting := false }) fn else s)

/-! ### Failed host reads (R285) -/

/-- Is a read of host memory for a job outstanding? -/
def jobReads (j : Job) : Bool := match j.kind with
  | .image _ _ | .tailor _ _ => !j.decoded
  | .seq _ _ => j.state == .queued
  | _ => false

/-- The descriptor with a tag ends with HOST_DMA_ERROR: a job, the PLAN_LOAD that reads its container, or a TWIN_DMA from host memory. -/
def failRead (s : State) (tag : Word64) (r : RingRef) (detail : List Byte) : State :=
  match s.sched.jobs.find? fun j => j.ring == some r && j.hdr.tag == tag && jobReads j with
  | some j => serveImages (failJob s j .hostDmaError detail)
  | none => match s.plans.loadQ with
    | (q, h, _) :: rest =>
      if q = r ∧ h.tag = tag ∧ s.plans.loading.isNone then startLoad (complete { s with plans := { s.plans with loadQ := rest } } r h 0x20 .hostDmaError detail) else s
    | [] => match s.twin.xfers.find? fun x => x.r == r && x.hdr.tag == tag with
      | some x => complete { s with twin := { s.twin with xfers := s.twin.xfers.filter fun y => y.id != x.id } } r x.hdr 0x62 .hostDmaError detail
      | none => s

/-- A read of host memory fails: a gather or a fetch faults its pairs, cause DMA. -/
def hostReadFails (s : State) (src : DmaSrc) (addr : Word64) (kind : Nat) : State :=
  match src with
  | .gather fn =>
    if !(s.fnOf fn).lineRead then s
    else
      let s := s.modFn fn fun f => { f with lineRead := false, kickWaiting := false }
      (fnRings s fn).foldl (fun s r => if ringLive s r then ringFault s r 3 else s) s
  | .fetch i => if ringLive s (s.ref i) && decide (0 < announced (s.ring (s.ref i))) then ringFault s (s.ref i) 3 else s
  | .job tag i => pumpAll (failRead s tag (s.ref i) (leBytes 8 addr.toNat ++ leBytes 1 kind))

/-- HOST_DMA_ERROR: Unsupported Request, Completer Abort or a poisoned TLP. -/
def execHostDmaError (src : DmaSrc) (addr : Word64) (kind : Nat) (s : State) : Host.Outcome State Fault Refusal := .next (hostReadFails s src addr kind)

/-- HOST_READ_TIMEOUT: no completion after 50 ms. -/
def execHostReadTimeout (src : DmaSrc) (addr : Word64) (s : State) : Host.Outcome State Fault Refusal := .next (hostReadFails s src addr 2)

/-! ### Interrupt moderation (R283) -/

/-- IRQ_MODERATION_TIMER: `time_ns` after the first completion not yet signalled. -/
def execIrqModerationTimer (i : RingId) (s : State) : Host.Outcome State Fault Refusal :=
  let r := s.ref i
  match (s.ring r).firstUnsig with
  | none => .next s
  | some t0 =>
    if irqTimeNs s r = 0 then .next s
    else
      let s := passUntil s (t0 + nsToCycles (irqTimeNs s r))
      .next ((s.modRing r fun x => { x with unsignalled := 0, firstUnsig := none }).raiseVec r.fn (ringVector s r))

/-! ### The record ring's enable and peg grants -/

/-- HIF_REC_CTRL.enable from 0 to 1 zeroes the record tail. -/
def enableRec (s : State) (fn : Fn) : State :=
  if (s.fnOf fn).recEnable || !ringsUsable s fn then s
  else s.modFn fn fun f => { f with recEnable := true, recTail := 0, recHead := 0 }

/-- REC_RING_ENABLE. -/
def execRecRingEnable (fn : Fn) (s : State) : Host.Outcome State Fault Refusal := .next (enableRec s fn)

/-- Does a range of pegs overlap the grant of another enabled function? -/
def grantOverlaps (s : State) (fn : Fn) (base count : Nat) : Bool :=
  allFns.any fun f => f != fn && (s.fnOf f).enabled &&
    decide (max base (s.fnOf f).pegBase < min (base + count) ((s.fnOf f).pegBase + (s.fnOf f).pegCount))

/-- A write of PEG_GRANT_COUNT: the grant takes effect with the base written before, or is ignored as a whole. -/
def pegGrant (s : State) (fn : Fn) (count : Nat) : State :=
  let base := regGet s 0 (0x3000 + 4 * fn.val)
  if 7680 < count ∨ 8192 < base + count ∨ (0 < count ∧ base < 512) then badWrite s 0
  else if grantOverlaps s fn base count then (badWrite s 0).modFn 0 fun f => { f with grantError := true }
  else if (fnRings s fn).any fun r => (s.ring r).enable then badWrite s 0
  else (regSet s 0 (0x3040 + 4 * fn.val) count).modFn fn fun f => { f with pegBase := base, pegCount := count }

/-- PEG_GRANT. -/
def execPegGrant (fn : Fn) (count : Nat) (s : State) : Host.Outcome State Fault Refusal := .next (if s.boot.stage < 2 then s else pegGrant s fn count)

end Sys2Proof.Machine
end

