-- ==== Sys2Proof/Machine/MachinePort.lean ====
section
/-! DEFINITION. The machine port (chapter 14): READ and READ_ID, the status block (Table 14-3), the control words (Table 14-4), ignored transactions
(R362, R364) and PORT_RESET. -/

namespace Sys2Proof.Machine

open Sys2Proof

/-- Does the port answer (R377, R388, R436, R438)? -/
def portAnswers (s : State) : Bool :=
  decide (2 ≤ s.boot.stage) && s.pwr.held == .no && s.pwr.rails && !s.twin.fenced

/-- An ignored transaction or write is counted (R362, Table 19-2). -/
def portIgnore (s : State) : State :=
  ({ s with port := { s.port with errors := s.port.errors + 1 } }.chipCnt 48).chipCnt 49

/-- Hold causes of a track with the level of its output (Table 14-3, offset 20). -/
def holdByte (s : State) (t : Track) : Nat := (s.track t).hold.bits + 128 * b2n (feedHold s t)

/-- State bits (Table 14-3, offset 34). -/
def stateByte (s : State) : Nat :=
  b2n s.trackA.armed + 2 * b2n s.trackB.armed + 4 * b2n s.trackA.numbered + 8 * b2n s.trackB.numbered +
  16 * b2n (s.trackA.firstLight || s.trackB.firstLight) + 32 * b2n (decide (s.boot.stage = 6))

/-- The status block (Table 14-3). -/
def statusBlock (s : State) : List Byte :=
  leBytes 4 s.nextPiece.toNat ++ leBytes 4 s.trackA.lastPiece.toNat ++ leBytes 4 s.trackB.lastPiece.toNat ++
  leBytes 4 s.trackA.commits.toNat ++ leBytes 4 s.trackB.commits.toNat ++ leBytes 1 (holdByte s .A) ++ leBytes 1 (holdByte s .B) ++
  leBytes 1 (3 * b2n s.trackA.rateReq) ++ leBytes 1 (3 * b2n s.trackB.rateReq) ++ leBytes 4 s.trackA.armedMax ++ leBytes 4 s.trackB.armedMax ++
  leBytes 2 (alertCauses s) ++ leBytes 1 (stateByte s) ++ leBytes 1 s.boot.stage ++ leBytes 4 (toBits s.trackA.position 32) ++
  leBytes 4 (toBits s.trackB.position 32) ++ leBytes 4 s.port.errors.toNat ++ zeros 16

/-- The byte at a port address (Table 14-2). A standby shows every entry as not posted (Table 15-5): all 0, as after a reset (log 41). -/
def portByte (s : State) (a : Nat) : Byte :=
  if a < 0x1000 then if s.twin.state = .standby then 0 else (s.port.table[a / 16 % 256]).getD (a % 16) 0
  else if a < 0x1040 then (statusBlock s).getD (a - 0x1000) 0
  else 0

/-- The bytes of a READ: the address rises by 1 and wraps (R365). -/
def portRead (s : State) (a n : Nat) : List Byte := (List.range n).map fun i => portByte s ((a + i) % 2 ^ 32)

/-- READ. -/
def execRead (addr : Word32) (len : Nat) (s : State) : Host.Outcome State Fault Refusal :=
  .next (if portAnswers s then (s.chipCnt 48).emit (.portData (portRead s addr.toNat len)) else s)

/-- The 8 bytes of READ_ID (R364). -/
def idBytes : List Byte := [0x46, 0x41, 0x00, 0x94, Config.stepping, Config.issue, 1, 0]

/-- READ_ID. -/
def execReadId (s : State) : Host.Outcome State Fault Refusal :=
  .next (if portAnswers s then (s.chipCnt 48).emit (.portData idBytes) else s)

/-- PORT_RESET: the strap mode and 20 dummy cycles. -/
def execPortReset (s : State) : Host.Outcome State Fault Refusal :=
  .next (if portAnswers s then { s with port := { s.port with octal := s.boot.mpOctal, dummies := 20 } }.chipCnt 48 else s)

/-- A set bit of the rate acknowledgement: the request and its hold cause clear; with none pending it is counted (Table 14-4). -/
def ackRate (v : Byte) (s : State) (t : Track) : State :=
  if !bitAt v.toNat (trackNum t) then s
  else if (s.track t).rateReq then s.modTrack t fun x => { x with rateReq := false, hold := { x.hold with rate := false } }
  else ({ s with port := { s.port with errors := s.port.errors + 1 } }).chipCnt 49

/-- The rate acknowledgement takes effect (R42, R373). -/
def writeRate (s : State) (v : Byte) : State := allTracks.foldl (ackRate v) (s.chipCnt 48)

/-- The configuration word takes effect, or is ignored and counted as a whole (Table 14-4). -/
def writeConfig (s : State) (v : Nat) : State :=
  let d := bitsOf v 4 0
  if 8 ≤ d ∧ d ≤ 20 ∧ bitsOf v 7 5 = 0 ∧ bitsOf v 31 9 = 0 then { s with port := { s.port with dummies := d, octal := bitAt v 8 } }.chipCnt 48
  else portIgnore s

/-- RATE_ACKNOWLEDGE. -/
def execRateAcknowledge (v : Byte) (s : State) : Host.Outcome State Fault Refusal := .next (if portAnswers s then writeRate s v else s)

/-- CONFIGURATION_WORD. -/
def execConfigurationWord (v : Word32) (s : State) : Host.Outcome State Fault Refusal := .next (if portAnswers s then writeConfig s v.toNat else s)

/-- WRITE: the exact length of a writable word, else ignored and counted (R365). -/
def execWrite (addr : Word32) (data : List Byte) (s : State) : Host.Outcome State Fault Refusal :=
  if !portAnswers s then .next s
  else if addr = 0x2000 ∧ data.length = 1 then .next (writeRate s (data.headD 0))
  else if addr = 0x2004 ∧ data.length = 4 then .next (writeConfig s (leNat data))
  else .next (portIgnore s)

/-- Opcodes of Table 14-1. -/
def portOpcodes : List Nat := [0xB1, 0xC6, 0x9F, 0x99]

/-- BAD_COMMAND_INVERSE: a command whose second byte is not the inverse of the first, or whose opcode is not in Table 14-1, is ignored and counted. -/
def execBadCommandInverse (op inv : Byte) (s : State) : Host.Outcome State Fault Refusal :=
  .next (if portAnswers s && !(inv == op ^^^ 0xFF && portOpcodes.contains op.toNat) then portIgnore s else s)

end Sys2Proof.Machine
end

