-- ==== Sys2Proof/Machine/Trust.lean ====
section
/-! DEFINITION. Boot from flash (R395 to R401), the attestation trees and their leaves (R404 to R408), quotes (R409, R410), and firmware and
configuration updates (R412, R413). -/

namespace Sys2Proof.Machine

open Sys2Proof

/-! ### Images and blobs -/

/-- What the checks of R398 find of an image's bytes (Table 16-3). -/
def parseImage (b : List Byte) : FlashImage :=
  { magicOk := decide (slice b 0 4 = [0x53, 0x46, 0x57, 0x31]), version := fieldAt b 4 4, floorReq := fieldAt b 8 4, length := fieldAt b 12 4,
    leastChip := fieldAt b 24 4, sigOk := Config.imageSigOk b, bodyOk := decide (digest32 (b.drop 2976) = slice b 32 32),
    digest := digest32 (slice b 0 128), regionDigest := digest32 (slice b (fieldAt b 16 4) (fieldAt b 20 4)) }

/-- The largest image (R397). -/
def imageMax : Nat := 2 ^ 24

/-- Does an image meet every condition of R398? -/
def imageQualifies (floor : Nat) (i : FlashImage) : Bool :=
  i.magicOk && decide (i.length ≤ imageMax) && i.sigOk && i.bodyOk && decide (floor ≤ i.version)

/-- A configuration blob's fields (Table 16-5). -/
def parseBlob (b : List Byte) : Blob :=
  let f := Config.blobField b
  { good := Config.blobSigOk b && f 5 == 1, debugOpen := f 0 == 1, vfs := f 1, regionUpdate := f 2 == 1, quoteMs := f 3, version := f 4, digest := digest32 b }

/-! ### Boot (R395 to R403) -/

/-- The floor in force: the valid copy with the higher sequence number (R401). -/
def floorOf (fs : List (Nat × Nat × Bool)) : Option (Nat × Nat) :=
  (fs.filter fun f => f.2.2).foldl (fun best f => match best with
    | some b => if b.2 < f.2.1 then some (f.1, f.2.1) else some b
    | none => some (f.1, f.2.1)) none

/-- The slots in the order of R398: the higher security version first; false is slot A. -/
def slotOrder (f : Flash) : List (Bool × FlashImage) :=
  let a := f.slotA.toList.map fun i => (false, i)
  let b := f.slotB.toList.map fun i => (true, i)
  match f.slotA, f.slotB with
  | some x, some y => if x.version < y.version then b ++ a else a ++ b
  | _, _ => a ++ b

/-- Straps as log entry 0 records them (R399, Table 20-2). -/
def strapBits (s : State) : Nat := b2n s.boot.mpOctal + 2 * b2n s.boot.recoveryStrap + 4 * b2n s.boot.flashSingle

/-- An image is booted: log entries 0 to 2 (Table 16-7). Of a blob that is not used, the digest is recorded all the same (log 45). -/
def bootImage (s : State) (slot : Bool) (i : FlashImage) : State :=
  let bl := match s.sec.flash.blob with
    | some b => if b.good then (b, false) else ({ Blob.default with digest := b.digest }, true)
    | none => (Blob.default, true)
  let s := { s with
    boot := { s.boot with slot := slot, recovery := false },
    sec := { s.sec with version := i.version, image := i.digest, regionImage := i.regionDigest, blob := bl.1, blobDefault := bl.2 } }
  let s := measure s 1 0xFFFF (Config.romVersion % 2 ^ 24 + strapBits s * 2 ^ 24) Config.romDigest
  let s := measure s 2 0xFFFF i.version i.digest
  measure s 3 0xFFFF (if bl.2 then 0 else bl.1.version) bl.1.digest

/-- What boot finds in the floor records and the reservation log: the current tree is the highest that has signed (R401, R405, R408). -/
def readRecords (s : State) : State :=
  let f := floorOf s.sec.flash.floors
  let trees := (s.sec.flash.resv.filter fun r => r.2.2.2 && r.1 == 1).map (·.2.1)
  { s with sec := { s.sec with floor := (f.map (·.1)).getD 0, floorBad := f.isNone, tree := maxNat trees, leaf := 0, block := none, idBlock := none, idLeaf := 0 } }

/-- ROM_BOOT: straps, PUF, records, and the first slot that qualifies; else the ROM waits for an image (R398). -/
def execRomBoot (f : RomFacts) (s : State) : Host.Outcome State Fault Refusal :=
  if s.boot.stage ≠ 1 ∨ s.sec.logCount ≠ 0 ∨ s.boot.recovery then .next s
  else
    let s := { s with
      boot := { s.boot with mpOctal := f.mpOctal, recoveryStrap := f.recoveryStrap, flashSingle := f.flashSingle },
      port := { s.port with octal := f.mpOctal, dummies := 20 } }
    if !f.pufOk then .next { s with boot := { s.boot with pufFail := true } }
    else
      let s := readRecords s
      match if f.recoveryStrap then none else (slotOrder s.sec.flash).find? fun x => imageQualifies s.sec.floor x.2 with
      | some (slot, i) => .next (bootImage s slot i)
      | none => .next { s with boot := { s.boot with recovery := true } }

/-! ### Leaf reservation (R407, R408) -/

/-- The next block of a tree: after the highest valid record, and one more when a record that fails its tag follows the last valid one. -/
def nextBlock (rs : List (Nat × Nat × Nat × Bool)) (kind tree : Nat) : Nat :=
  let blocks := (rs.filter fun r => r.2.2.2 && r.1 == kind && r.2.1 == tree).map (·.2.2.1)
  let m := if blocks.isEmpty then 0 else maxNat blocks + 1
  match rs.getLast? with
  | some r => if r.2.2.2 then m else m + 1
  | none => m

/-- Records that one sector of the reservation log holds. -/
def sectorRecords : Nat := 2048

/-- A full sector: the newest valid record of each tree moves to the other sector (R408). -/
def compactLog (rs : List (Nat × Nat × Nat × Bool)) : List (Nat × Nat × Nat × Bool) :=
  if rs.length < sectorRecords then rs
  else
    let good := rs.filter fun r => r.2.2.2
    (good.zipIdx.filter fun e => !((good.drop (e.2 + 1)).any fun x => x.1 == e.1.1 && x.2.1 == e.1.2.1)).map (·.1)

/-- Append a reservation record. -/
def reserveBlock (s : State) (kind tree b : Nat) : State :=
  { s with sec := { s.sec with flash := { s.sec.flash with resv := compactLog s.sec.flash.resv ++ [(kind, tree, b, true)] } } }

/-- Has a tree a certificate? -/
def hasCert (s : State) (tree : Nat) : Bool := s.sec.flash.certs.any fun c => c.1 == tree

/-- Blocks of an attestation tree and of the identity tree. -/
def attBlocks : Nat := 256
def idBlocks : Nat := 4096

/-- The next leaf of the current tree, with its block reserved; none when the tree is used up. -/
def attLeafIn (s : State) : Option (Nat × State) :=
  match s.sec.block with
  | some b =>
    if s.sec.leaf < 256 * b + 256 then some (s.sec.leaf, { s with sec := { s.sec with leaf := s.sec.leaf + 1 } })
    else if b + 1 < attBlocks then
      let s := reserveBlock s 1 s.sec.tree (b + 1)
      some (256 * (b + 1), { s with sec := { s.sec with block := some (b + 1), leaf := 256 * (b + 1) + 1 } })
    else none
  | none =>
    let b := nextBlock s.sec.flash.resv 1 s.sec.tree
    if b < attBlocks then
      let s := reserveBlock s 1 s.sec.tree b
      some (256 * b, { s with sec := { s.sec with block := some b, leaf := 256 * b + 1 } })
    else none

/-- A leaf for a quote: of the current tree, or of the next when the current one is used up and the next has its certificate. -/
def takeLeaf (s : State) : Option (Nat × State) :=
  if !s.sec.rebuilt || !hasCert s s.sec.tree then none
  else match attLeafIn s with
    | some r => some r
    | none => if hasCert s (s.sec.tree + 1) then attLeafIn { s with sec := { s.sec with tree := s.sec.tree + 1, block := none, leaf := 0 } } else none

/-- A leaf of the identity tree. -/
def idLeaf (s : State) : Option (Nat × State) :=
  match s.sec.idBlock with
  | some b =>
    if s.sec.idLeaf < 256 * b + 256 then some (s.sec.idLeaf, { s with sec := { s.sec with idLeaf := s.sec.idLeaf + 1 } })
    else if b + 1 < idBlocks then
      let s := reserveBlock s 0 0 (b + 1)
      some (256 * (b + 1), { s with sec := { s.sec with idBlock := some (b + 1), idLeaf := 256 * (b + 1) + 1 } })
    else none
  | none =>
    let b := nextBlock s.sec.flash.resv 0 0
    if b < idBlocks then
      let s := reserveBlock s 0 0 b
      some (256 * b, { s with sec := { s.sec with idBlock := some b, idLeaf := 256 * b + 1 } })
    else none

/-! ### Trees and certificates (R404 to R406) -/

/-- Secret seeds (Table 16-1). -/
def identitySeed : List Byte := kmac256 Config.pufKey [] 32 "SHX ID"
def attSeed (k : Nat) : List Byte := kmac256 Config.pufKey (leBytes 4 k) 32 "SHX ATT"

/-- Bytes 0 to 75 of an attestation certificate (Table 16-8). -/
def certBody (k : Nat) : List Byte := leBytes 4 k ++ zeros 4 ++ slice (Config.xmssPublic (attSeed k) 16) 0 68

/-- An attestation certificate, 2,912 bytes. -/
def certBytes (c : Nat × Nat) : List Byte :=
  certBody c.1 ++ slice (Config.xmssSign identitySeed 20 c.2 (certBody c.1)) 0 2820 ++ zeros 16

/-- Leaves of the current tree that no block has taken (R408). -/
def unusedLeaves (s : State) : Nat := match s.sec.block with
  | some _ => 65536 - s.sec.leaf
  | none => 65536 - 256 * nextBlock s.sec.flash.resv 1 s.sec.tree

/-- The tree whose certificate a renewal makes: the next when 32,768 leaves or fewer are left, the current one when it has none (log 44). -/
def renewalTree (s : State) : Option Nat :=
  if !hasCert s s.sec.tree then some s.sec.tree
  else if unusedLeaves s ≤ 32768 ∧ ¬ hasCert s (s.sec.tree + 1) then some (s.sec.tree + 1) else none

/-- ATTESTATION_RENEWAL: the tree is built, its certificate signed with one identity leaf and written. -/
def execAttestationRenewal (s : State) : Host.Outcome State Fault Refusal :=
  if s.boot.stage < 4 then .next s
  else match renewalTree s with
    | none => .next s
    | some k => match idLeaf s with
      | none => .next s
      | some (n, s) =>
        .next { s with sec := { s.sec with flash := { s.sec.flash with certs := (s.sec.flash.certs.filter fun c => decide (s.sec.tree ≤ c.1)) ++ [(k, n)] } } }

/-- ATTESTATION_TREE_REBUILT: 9.0 s after S4 the current tree may sign. -/
def execAttestationTreeRebuilt (s : State) : Host.Outcome State Fault Refusal :=
  .next (if s.boot.stage < 4 then s else { s with sec := { s.sec with rebuilt := true } })

/-! ### Quotes (R409, R410) -/

/-- A write of 1 to SEC_ATTEST_CTRL.go; one while the previous request is unserved is ignored (R479). -/
def attestGo (s : State) (fn : Fn) : State :=
  if s.boot.stage < 2 ∨ ¬ (s.fnOf fn).enabled then s
  else if (s.fnOf fn).quote.busy then badWrite s fn
  else s.modFn fn fun f => { f with quote := { f.quote with busy := true } }

/-- ATTEST_GO. -/
def execAttestGo (fn : Fn) (s : State) : Host.Outcome State Fault Refusal := .next (attestGo s fn)

/-- The nonce in a function's registers. -/
def nonceOf (s : State) (fn : Fn) : List Byte :=
  (List.range 4).flatMap fun i => leBytes 8 (regGet s fn.val (0x40020 + 8 * i))

/-- Quote flags (Table 16-9). -/
def quoteFlags (s : State) : Nat :=
  b2n s.sec.overflow + 2 * b2n s.boot.recoveryStrap + 4 * b2n s.sec.floorBad + 8 * b2n s.sec.blobDefault + 16 * b2n s.sec.blob.debugOpen

/-- Bytes 0 to 191 of a quote (Table 16-9). -/
def quoteBody (s : State) (fn : Fn) (leaf : Nat) : List Byte :=
  [0x53, 0x51, 0x54, 0x31] ++ leBytes 2 1 ++ leBytes 2 (quoteFlags s) ++ leBytes 4 s.sec.version ++ leBytes 4 s.sec.floor ++ leBytes 4 fn.val ++
  leBytes 4 s.sec.tree ++ leBytes 4 leaf ++ leBytes 4 s.sec.logCount ++ nonceOf s fn ++ slice s.sec.running 0 32 ++ slice s.sec.blob.digest 0 32 ++
  slice (Config.xmssPublic identitySeed 20) 4 32 ++ slice s.sec.image 0 32

/-- What the buffer receives: the signed quote, the certificates and log entries from the first wanted. -/
def quoteBytes (s : State) (fn : Fn) (leaf len first : Nat) : List Byte :=
  let q := quoteBody s fn leaf
  let cert := (s.sec.flash.certs.find? fun c => c.1 == s.sec.tree).getD (0, 0)
  slice (q ++ slice (Config.xmssSign (attSeed s.sec.tree) 16 leaf q) 0 2692) 0 2912 ++ certBytes cert ++ slice Config.identityCert 0 2944 ++
  ((s.sec.log.drop first).take ((len - 8768) / 48)).flatMap logEntryBytes

/-- A quote request ends: its result, and the event vector. -/
def endQuote (s : State) (fn : Fn) (result : Nat) : State :=
  (({ s with sec := { s.sec with quoteNext := (fn.val + 1) % 16 } }).modFn fn fun f => { f with quote := { busy := false, result := result } }).raiseEvent fn

/-- Serve the request of a function. -/
def serveQuote (s : State) (fn : Fn) (hostWriteOk : Bool) : State :=
  let len := regGet s fn.val 0x40048
  if len < 8768 then endQuote s fn 1
  else match takeLeaf s with
    | none => endQuote s fn 2
    | some (leaf, s) =>
      let s := { s with sec := { s.sec with lastQuote := some s.now } }
      if hostWriteOk then endQuote (s.hostWrite fn (regGet s fn.val 0x40040) (quoteBytes s fn leaf len (regGet s fn.val 0x4004C))) fn 0
      else endQuote s fn 3

/-- The request that is served next, round-robin over functions. -/
def nextQuote (s : State) : Option Fn :=
  ((List.range 16).map fun i => (Fin.ofNat 16 (s.sec.quoteNext + i) : Fn)).find? fun f => (s.fnOf f).quote.busy

/-- Has the quote interval passed since the last signature? -/
def quoteDue (s : State) : Bool := match s.sec.lastQuote with
  | some t => decide (t + 1400000 * s.sec.blob.quoteMs ≤ s.now)
  | none => true

/-- QUOTE_START. -/
def execQuoteStart (hostWriteOk : Bool) (s : State) : Host.Outcome State Fault Refusal :=
  match nextQuote s with
  | none => .next s
  | some fn => .next (if quoteDue s then serveQuote s fn hostWriteOk else s)

/-! ### Updates (R412, R413) -/

/-- May the update registers be used: set-up registers from S2, and at S1 while the ROM waits for an image (R398, R449)? -/
def updateUsable (s : State) : Bool := decide (2 ≤ s.boot.stage) || s.boot.recovery

/-- An update action starts: the image or blob is read from host memory. -/
def startUpdate (s : State) (blob : Bool) : State :=
  if !updateUsable s then s
  else if s.sec.updBusy then badWrite s 0
  else
    let s := { s with sec := { s.sec with updBusy := true, updBlob := blob } }
    s.hostRead 0 (regGet s 0 0x40080) (regGet s 0 0x40088)

/-- UPDATE_STAGE. -/
def execUpdateStage (s : State) : Host.Outcome State Fault Refusal := .next (startUpdate s false)

/-- UPDATE_BLOB. -/
def execUpdateBlob (s : State) : Host.Outcome State Fault Refusal := .next (startUpdate s true)

/-- An update action ends with a result. -/
def endUpdate (s : State) (result : Nat) : State := { s with sec := { s.sec with updBusy := false, updResult := result } }

/-- Why an image is not staged: the checks of R398 in their order, as SEC_UPDATE_STATUS names them. A wrong magic counts as a wrong signature,
and a length that is not the bytes' as a wrong length (log 45). -/
def imageRefused (s : State) (n : Nat) (i : FlashImage) : Option Nat :=
  if !i.magicOk then some 1
  else if imageMax < i.length ∨ i.length ≠ n then some 4
  else if !i.sigOk then some 1
  else if !i.bodyOk then some 2
  else if i.version < s.sec.floor then some 3 else none

/-- The slot that a staged image replaces: the one not booted; A while the ROM waits. -/
def putSlot (s : State) (i : Option FlashImage) : State :=
  let f := s.sec.flash
  let f := if s.boot.recovery || s.boot.slot then { f with slotA := i } else { f with slotB := i }
  { s with sec := { s.sec with flash := f } }

/-- A firmware image has been read: it is checked and written; the ROM boots an image that it waited for. -/
def stageImage (s : State) (bytes : List Byte) (writeOk : Bool) : State :=
  let i := parseImage bytes
  match imageRefused s bytes.length i with
  | some r => endUpdate s r
  | none =>
    if !writeOk then
      let s := putSlot s none
      endUpdate { s with sec := { s.sec with staged := none } } 5
    else
      let s := endUpdate (putSlot s (some i)) 0
      if s.boot.recovery then bootImage s false i else { s with sec := { s.sec with staged := some i } }

/-- A configuration blob has been read: it is used from the next boot on (R400). -/
def stageBlob (s : State) (bytes : List Byte) (writeOk : Bool) : State :=
  if !Config.blobSigOk bytes then endUpdate s 1
  else if !writeOk then
    endUpdate { s with sec := { s.sec with flash := { s.sec.flash with blob := none } } } 5
  else endUpdate { s with sec := { s.sec with flash := { s.sec.flash with blob := some (parseBlob bytes) } } } 0

/-- UPDATE_DONE: the bytes that host memory held, and whether the flash write succeeded. -/
def execUpdateDone (bytes : List Byte) (writeOk : Bool) (s : State) : Host.Outcome State Fault Refusal :=
  .next (if !s.sec.updBusy then s else if s.sec.updBlob then stageBlob s bytes writeOk else stageImage s bytes writeOk)

/-- The staged image's region firmware is loaded into a region, or refused (R413). -/
def applyRegion (s : State) (g : Region) : State :=
  if s.boot.stage < 2 then s
  else if s.sec.updBusy then badWrite s 0
  else match s.sec.staged with
    | none => endUpdate s 9
    | some i =>
      if (s.reg8 g).state ≠ 2 then endUpdate s 6
      else if s.sec.version < i.leastChip then endUpdate s 7
      else if !s.sec.blob.regionUpdate then endUpdate s 8
      else endUpdate (measure (s.modRegion g fun x => { x with fw := some i.regionDigest }) 4 0xFFFF g.val i.regionDigest) 0

/-- REGION_APPLY. -/
def execRegionApply (g : Region) (s : State) : Host.Outcome State Fault Refusal := .next (applyRegion s g)

/-- Both copies of the floor record take a new floor (R401). -/
def raiseFloor (s : State) (v : Nat) : State :=
  let q := match floorOf s.sec.flash.floors with | some f => f.2 + 1 | none => 0
  { s with sec := { s.sec with floor := v, floorBad := false, flash := { s.sec.flash with floors := [(v, q, true), (v, q, true)] } } }

/-- Confirm: at S6 the floor rises to the running image's floor request. -/
def confirmFloor (s : State) : State :=
  if s.boot.stage < 6 then s
  else if s.sec.updBusy then badWrite s 0
  else match (if s.boot.slot then s.sec.flash.slotB else s.sec.flash.slotA) with
    | some i => endUpdate (if s.sec.floor < i.floorReq then raiseFloor s i.floorReq else s) 0
    | none => s

/-- CONFIRM. -/
def execConfirm (s : State) : Host.Outcome State Fault Refusal := .next (confirmFloor s)

end Sys2Proof.Machine
end

