-- ==== Sys2Proof/Machine/PowerReset.lean ====
section
/-! DEFINITION. Supplies and temperature (R434 to R438), clocks (R439, R441, R443), resets (R444 to R447, R315) and bring-up (R448 to R454). -/

namespace Sys2Proof.Machine

open Sys2Proof

/-! ### Module and power-on resets (R444, Table 18-6) -/

/-- A track after a reset; the encoder's levels are inputs. -/
def resetTrack (x : TrackState) : TrackState := { TrackState.reset with chA := x.chA, chB := x.chB }

/-- What a power-on reset leaves: the flash, the levels of the inputs, and what is outside the module. -/
def powerState (s : State) (rails : Bool) : State :=
  { State.reset with
    pending := s.pending, out := s.out,
    clk := { State.reset.clk with refclkOk := s.clk.refclkOk, freeCtr := s.clk.freeCtr },
    pwr := { State.reset.pwr with mainOk := s.pwr.mainOk, auxOk := s.pwr.auxOk, onAux := !s.pwr.mainOk, rails := rails,
                                  held := if s.clk.refclkOk then .no else .clockLoss },
    boot := { State.reset.boot with termEn := s.boot.termEn },
    trackA := resetTrack s.trackA, trackB := resetTrack s.trackB,
    twin := { State.reset.twin with fenceIn := s.twin.fenceIn },
    sec := { State.reset.sec with flash := s.sec.flash } }

/-- What a module reset keeps beside that: RWS fields, HEALTH_LAST, darn tables, error counts and accounting. -/
def moduleState (s : State) (cause : Nat) (held : Held) : State :=
  let z := powerState s s.pwr.rails
  { z with
    pwr := { z.pwr with onAux := s.pwr.onAux, tripSensor := s.pwr.tripSensor, tripIndex := s.pwr.tripIndex, held := held },
    boot := { z.boot with resetCause := cause },
    sched := { z.sched with acct := s.sched.acct },
    store := { z.store with darn := s.store.darn, badPatch := s.store.badPatch, recent := s.store.recent, due := s.store.due, fullLogged := s.store.fullLogged },
    health := { z.health with last := s.health.last, seq := s.health.seq } }

/-- A module reset; one that is held stays held. -/
def moduleReset (s : State) (cause : Nat) : State := if s.pwr.rails then moduleState s cause s.pwr.held else s

/-- POWER_ON_RESET: power is good after the rails were down. The main input supplies when it has returned, else the auxiliary one (R434). -/
def execPowerOnReset (mainOk auxOk : Bool) (s : State) : Host.Outcome State Fault Refusal :=
  .next (if mainOk || auxOk then powerState { s with pwr := { s.pwr with mainOk := mainOk, auxOk := auxOk } } true else s)

/-- RESET_N. -/
def execResetN (s : State) : Host.Outcome State Fault Refusal := .next (moduleReset s 1)

/-- PERST. -/
def execPerst (s : State) : Host.Outcome State Fault Refusal := .next (moduleReset s 2)

/-- A write of 1 to PWR_CTRL.reset by the PF. -/
def pwrReset (s : State) : State := if s.boot.stage < 2 then s else moduleReset s 3

/-- PWR_CTRL_RESET. -/
def execPwrCtrlReset (s : State) : Host.Outcome State Fault Refusal := .next (pwrReset s)

/-! ### Clocks (R439, R441, R443) -/

/-- PLL_LOCK: the clocks run, the time base starts at 0 and the ROM runs. -/
def execPllLock (s : State) : Host.Outcome State Fault Refusal :=
  .next (if s.boot.stage = 0 ∧ ¬ s.clk.running ∧ s.pwr.rails ∧ s.pwr.held = .no ∧ s.clk.refclkOk then
    { s with clk := { s.clk with timeBase := 0, running := true, latch := none }, boot := { s.boot with stage := 1 } }
  else s)

/-- REFCLK_LOSS: a module reset, held. -/
def execRefclkLoss (s : State) : Host.Outcome State Fault Refusal :=
  let s := { s with clk := { s.clk with refclkOk := false } }
  .next (if s.pwr.rails then moduleState s 5 (if s.pwr.held = .thermal then .thermal else .clockLoss) else s)

/-- REFCLK_RESTORED: back in range for 1 ms. -/
def execRefclkRestored (s : State) : Host.Outcome State Fault Refusal :=
  .next { s with clk := { s.clk with refclkOk := true }, pwr := { s.pwr with held := if s.pwr.held = .clockLoss then .no else s.pwr.held } }

/-! ### Supplies (R434, R435) -/

/-- The load moves to the auxiliary or the main input: a CORRECTED event, logged and counted. -/
def switchover (s : State) (aux : Bool) : State :=
  if s.pwr.onAux = aux ∨ ¬ s.pwr.rails then s
  else (logHealth { s with pwr := { s.pwr with onAux := aux } } (HealthEntry.of 17 (b2n aux))).chipCnt 53

/-- PWR_MAIN_LOW. -/
def execPwrMainLow (s : State) : Host.Outcome State Fault Refusal :=
  let s := { s with pwr := { s.pwr with mainOk := false } }
  .next (if s.pwr.auxOk then switchover s true else s)

/-- PWR_MAIN_RETURN: at or above 11.0 V for 10 ms. -/
def execPwrMainReturn (s : State) : Host.Outcome State Fault Refusal :=
  .next (switchover { s with pwr := { s.pwr with mainOk := true } } false)

/-- PWR_AUX_LOW. -/
def execPwrAuxLow (s : State) : Host.Outcome State Fault Refusal := .next { s with pwr := { s.pwr with auxOk := false } }

/-- PWR_AUX_RETURN: with the main input low the load moves to it. -/
def execPwrAuxReturn (s : State) : Host.Outcome State Fault Refusal :=
  let s := { s with pwr := { s.pwr with auxOk := true } }
  .next (if s.pwr.mainOk then s else switchover s true)

/-- BOTH_INPUTS_LOW: a DEVICE error, cause supplies; the hold-up runs. -/
def execBothInputsLow (s : State) : Host.Outcome State Fault Refusal :=
  let s := { s with pwr := { s.pwr with mainOk := false, auxOk := false } }
  .next (if !s.pwr.rails || s.pwr.holdUp then s
  else
    let s := { s with pwr := { s.pwr with holdUp := true } }
    if s.pwr.held = .no ∧ 1 ≤ s.boot.stage then deviceError s 1 else s)

/-- HOLD_UP_END: the rails drop unless an input has returned (log 47). -/
def execHoldUpEnd (s : State) : Host.Outcome State Fault Refusal :=
  .next (if !s.pwr.holdUp then s
  else if s.pwr.mainOk || s.pwr.auxOk then { s with pwr := { s.pwr with holdUp := false } }
  else powerState s false)

/-! ### Temperature (R109, R437, R438) -/

/-- A region's throttle level after a sample. -/
def throttleStep (l : Nat) (t : Int) : Nat :=
  if 100 + 2 * (l : Int) < t ∧ l < 7 then l + 1 else if t < 95 + 2 * (l : Int) ∧ 0 < l then l - 1 else l

/-- The highest reading of a region's sensors. -/
def regionTemp (ts : List Int) : Int := match ts with
  | [] => 0
  | t :: r => r.foldl max t

/-- The readings in the order of the trip counts: regions, chip level, DRAM dies, each with its limit. -/
def tripInputs (regions : List (List Int)) (chip : Int) (dram : List Int) : List Bool :=
  regions.map (fun r => decide (120 ≤ regionTemp r)) ++ [decide (120 ≤ chip)] ++ dram.map fun d => decide (95 ≤ d)

/-- Consecutive samples at the limit. -/
def tripCounts (old : List Nat) (hot : List Bool) : List Nat := hot.zipIdx.map fun e => if e.1 then old.getD e.2 0 + 1 else 0

/-- A refresh rate after a sample: doubled above 85 °C, halved again below 83 °C. -/
def refreshStep (old : Bool) (d : Int) : Bool := if 85 < d then true else if d < 83 then false else old

/-- A thermal trip: the sensor is recorded, and a module reset is entered and held. -/
def thermalTrip (s : State) (k : Nat) : State :=
  let t := if k < 8 then (1, k) else if k = 8 then (2, 0) else (3, k - 9)
  moduleState { s with pwr := { s.pwr with tripSensor := t.1, tripIndex := t.2 } } 4 .thermal

/-- May a held thermal trip be released? -/
def coolEnough (regions : List (List Int)) (chip : Int) (dram : List Int) : Bool :=
  regions.all (fun r => decide (regionTemp r < 90)) && decide (chip < 90) && dram.all fun d => decide (d < 80)

/-- A sample while the module runs. -/
def takeTemps (s : State) (regions : List (List Int)) (chip : Int) (dram : List Int) : State :=
  let n := tripCounts s.pwr.tripRun (tripInputs regions chip dram)
  match (List.range 13).find? fun i => decide (2 ≤ n.getD i 0) with
  | some k => thermalTrip s k
  | none =>
    let s := allRegions.foldl (fun s g => s.modRegion g fun x => { x with thermal := throttleStep x.thermal (regionTemp (regions.getD g.val [])) }) s
    { s with pwr := { s.pwr with tripRun := n, refresh2x := s.pwr.refresh2x.zipIdx.map fun e => refreshStep e.1 (dram.getD e.2 0) } }

/-- THERMAL_SAMPLE. -/
def execThermalSample (regions : List (List Int)) (chip : Int) (dram : List Int) (s : State) : Host.Outcome State Fault Refusal :=
  .next (if !s.pwr.rails then s
  else match s.pwr.held with
    | .thermal => if coolEnough regions chip dram then { s with pwr := { s.pwr with held := if s.clk.refclkOk then .no else .clockLoss } } else s
    | .clockLoss => s
    | .no => if s.clk.running then takeTemps s regions chip dram else s)

/-! ### Bring-up (R448 to R454) -/

/-- FIRMWARE_RUNNING: chip firmware runs at S2. -/
def execFirmwareRunning (s : State) : Host.Outcome State Fault Refusal :=
  .next (if s.boot.stage = 1 ∧ s.sec.logCount ≠ 0 then { s with boot := { s.boot with stage := 2 } } else s)

/-- A region runs the booted image's controller firmware: log kind 4. -/
def loadRegion (s : State) (g : Region) : State :=
  measure (s.modRegion g fun x => { x with fw := some s.sec.regionImage }) 4 0xFFFF g.val s.sec.regionImage

/-- REGION_FIRMWARE_LOADED: S3, with first light. -/
def execRegionFirmwareLoaded (s : State) : Host.Outcome State Fault Refusal :=
  .next (if s.boot.stage = 2 then
    let s := allRegions.foldl loadRegion s
    pumpAll { s with boot := { s.boot with stage := 3 } }
  else s)

/-- The end of first light on a track: as SCAN_DISARM does, without a descriptor (R454). -/
def endFirstLight (s : State) (t : Track) : State :=
  if (s.track t).armed && (s.track t).firstLight && (s.track t).disarm.isNone then
    s.modTrack t fun x => { x with disarm := some ([], (x.pieces.filter fun y => !y.posted).map (·.num)) }
  else s

/-- DRAM_TRAINED: S4 ends first light; when a pseudo-channel fails, the module stays at S3 (R450). -/
def execDramTrained (ok : Bool) (s : State) : Host.Outcome State Fault Refusal :=
  .next (if s.boot.stage = 3 then
    if ok then allTracks.foldl endFirstLight { s with boot := { s.boot with stage := 4 } } else { s with boot := { s.boot with dramFail := true } }
  else s)

/-- Has first light ended and its last post been copied? -/
def firstLightOver (s : State) : Bool :=
  !(allTracks.any fun t => (s.track t).armed && (s.track t).firstLight) && s.basket.committed.isEmpty

/-- BRINGUP_S5_START: the tile store is zeroed (R143). -/
def execBringupS5Start (s : State) : Host.Outcome State Fault Refusal :=
  .next (if s.boot.stage = 4 ∧ firstLightOver s then
    { s with boot := { s.boot with stage := 5 }, store := { s.store with mem := [], marks := [], due := [] } }
  else s)

/-- A row that fails its march is darned (R426). -/
def s5Row (s : State) (e : Nat × Nat × Nat) : State := marchFail s (e.1 % 256) (e.2.1 % 32) e.2.2

/-- A region whose failing tiles are more than its spares is taken out of service (R450; log 48). -/
def s5Region (bad : List Nat) (s : State) (g : Region) : State :=
  let ts := bad.eraseDups.filter fun t => t / 32 == g.val
  if (s.reg8 g).spares < ts.length then regionError s g 12 else ts.foldl failTile s

/-- FABRIC_TESTS_DONE: rows are darned, tiles substituted, regions taken out; S6, unless no region is left. -/
def execFabricTestsDone (badRows : List (Nat × Nat × Nat)) (badTiles : List Nat) (s : State) : Host.Outcome State Fault Refusal :=
  .next (if s.boot.stage = 5 then
    let s := allRegions.foldl (s5Region badTiles) (badRows.foldl s5Row s)
    if allRegions.all fun g => (s.reg8 g).failed then { s with boot := { s.boot with fabricFail := true } }
    else pumpAll { s with boot := { s.boot with stage := 6 } }
  else s)

/-! ### Host-interface and function resets (R315, R446, R463) -/

/-- A job of a function that is reset: in a segment it ends at its next boundary, otherwise now; its results are withheld. -/
def resetJob (s : State) (id : Nat) : State := match findJob s id with
  | none => s
  | some j =>
    if j.inSegment then modJob s id fun x => { x with discard := true }
    else failJob s { j with discard := true } .badState []

/-- Is a job one of a function's descriptors, or a step of one of its plans that serve no track? -/
def fnJob (s : State) (fn : Fn) (j : Job) : Bool :=
  j.fn == fn && (j.ring.isSome || (j.kind == .step && (match findPlan s j.plan with
    | some p => !p.c.feed
    | none => true)))

/-- A ring reference that no pair answers to any more. -/
def deadRing (s : State) (fn : Fn) : RingRef := { fn := fn, pair := 0, gen := (s.ref { fn := fn, pair := 0 }).gen - 1 }

/-- A plan is unloaded when its last jobs have ended; the PF's FEED plans stay loaded (R446). -/
def resetPlan (fn : Fn) (p : PlanRec) : Bool :=
  p.fn == fn && !(fn.val == 0 && p.c.feed)

/-- A load under way that waited for its companion's model leaves nothing behind. -/
def abandonLoad (s : State) : State := match s.plans.loading.bind (findPlan s) with
  | some p => (p :: (p.comp.bind (findPlan s)).toList).foldl dropPlan s
  | none => s

/-- The IMAGE_READ and SEQ_STEP posts of a function that have not been delivered are discarded; FEED posts are kept (R335). -/
def dropHostPosts (s : State) (fn : Fn) : State :=
  basketMarks { s with basket := { s.basket with committed := s.basket.committed.filter fun p => p.fn != fn || p.feed } }

/-- R315 for one function. The PF's FEED plans, with their companions, and what reads pieces stay. -/
def resetFunction (s : State) (fn : Fn) : State :=
  let s := (fnRings s fn).foldl (fun s r => (stopPair (abandonFolds s r true) r).modRing r fun x => { x with enable := false, fault := false, cause := 0, closed := [] }) (dropHostPosts s fn)
  let s := ((s.sched.jobs.filter (fnJob s fn)).map (·.id)).foldl resetJob s
  let s := { s with pool := { s.pool with seqs := mapWhere (fun q => q.fn == fn && q.piece.isNone) (fun q => { q with state := .leaving, req := none }) s.pool.seqs } }
  let gone := s.plans.loadQ.head?.any fun e => e.1.fn == fn
  let keep := fun (p : PlanRec) => match findPlan s p.main with
    | some m => !resetPlan fn m
    | none => !resetPlan fn p
  let s := { s with plans := { s.plans with
    loadQ := s.plans.loadQ.filter fun e => e.1.fn != fn,
    loaded := mapWhere (fun p => p.fn == fn && !keep p) (fun p => { p with unload := some (deadRing s fn, default) }) s.plans.loaded } }
  let s := if gone then startLoad { abandonLoad s with plans := { (abandonLoad s).plans with loading := none } } else s
  let s := (List.range (s.fnOf fn).pegCount).foldl (fun s i => s.setPeg ((s.fnOf fn).pegBase + i) 0) s
  let s := dropSnapshots s fun f => f == fn
  serveImages (s.modFn fn fun f => { f with lineRead := false, kickWaiting := false, recEnable := false })

/-- A VF is disabled: it is reset, and has no rings. -/
def disableVf (s : State) (fn : Fn) : State := (resetFunction s fn).modFn fn fun f => { f with enabled := false }

/-- The VFs. -/
def allVfs : List Fn := allFns.filter fun f => f.val != 0

/-- A host-interface reset: R315 for every function, every VF disabled; the feed path serves on. -/
def resetHostInterface (s : State) : State :=
  let s := allVfs.foldl (fun s f => if (s.fnOf f).enabled then disableVf s f else s) s
  regSet (resetFunction s 0) 0 0x1044 0

/-- HOST_INTERFACE_RESET; an uncorrectable error or a surprise down is logged (Table 17-2). -/
def execHostInterfaceReset (linkError : Bool) (s : State) : Host.Outcome State Fault Refusal :=
  .next (resetHostInterface (if linkError then logHealth s (HealthEntry.of 15 0) else s))

/-- FUNCTION_LEVEL_RESET: of the PF a host-interface reset, of an enabled VF its own. -/
def execFunctionLevelReset (fn : Fn) (s : State) : Host.Outcome State Fault Refusal :=
  .next (if fn.val = 0 then resetHostInterface s else if (s.fnOf fn).enabled then resetFunction s fn else s)

/-- A write of HIF_VF_ENABLE: bits above the blob's VF count read 0; a cleared bit resets its VF (R471). -/
def writeVfEnable (s : State) (v : Nat) : State :=
  let on := fun (f : Fn) => bitAt v f.val && decide (f.val ≤ s.sec.blob.vfs)
  let val := sumNat (allVfs.map fun f => b2n (on f) * 2 ^ f.val)
  let s := allVfs.foldl (fun s f =>
    if (s.fnOf f).enabled && !on f then disableVf s f
    else if !(s.fnOf f).enabled && on f then s.modFn f fun x => { x with enabled := true }
    else s) s
  regSet s 0 0x1044 val

/-- VF_ENABLE. -/
def execVfEnable (mask : Half) (s : State) : Host.Outcome State Fault Refusal := .next (if s.boot.stage < 2 then s else writeVfEnable s mask.toNat)

end Sys2Proof.Machine
end

