-- ==== Sys2Proof/Machine/RegisterWrite.lean ====
section
/-! DEFINITION. Writes of the set-up registers (R465 to R481): the accesses the module accepts, what it ignores and reports (R468), and the registers
with behaviour of their own. -/

namespace Sys2Proof.Machine

open Sys2Proof

/-! ### Actions shared with commands -/

/-- LP_STATUS.overrate cleared: kept in the track's front port (R474). -/
def clearOverrate (s : State) (p : Port) : State := s.modPort p fun x => { x with overrate := false }
/-- LP_STATUS.unexpected cleared. -/
def clearUnexpected (s : State) (p : Port) : State := s.modPort p fun x => { x with unexpected := false }

/-- OVERRATE_CLEAR. -/
def execOverrateClear (p : Port) (s : State) : Host.Outcome State Fault Refusal := .next (clearOverrate s p)
/-- UNEXPECTED_CLEAR. -/
def execUnexpectedClear (p : Port) (s : State) : Host.Outcome State Fault Refusal := .next (clearUnexpected s p)

/-- LP_SETUP_CTRL.go: the bytes of LP_SETUP_TX are shifted out from byte 0 (Table 20-6). A go while a transfer runs is ignored. -/
def setupGo (s : State) (p : Port) : State :=
  if (s.lp p).suBusy then badWrite s 0
  else
    let c := lpReg s p 0x20
    (s.modPort p fun x => { x with suBusy := true }).emit (.setupBus p (leBytes (bitsOf c 3 0) (lpReg s p 0x28)) (bitsOf c 15 8))

/-- SETUP_BUS_GO. -/
def execSetupBusGo (p : Port) (s : State) : Host.Outcome State Fault Refusal := .next (if s.boot.stage < 2 then s else setupGo s p)

/-- SETUP_BUS_DONE: LP_SETUP_RX holds the bytes received. -/
def execSetupBusDone (p : Port) (rx : Word64) (s : State) : Host.Outcome State Fault Refusal :=
  .next (if (s.lp p).suBusy then s.modPort p fun x => { x with suBusy := false, suRx := rx } else s)

/-- HEALTH_LOG_CTRL.enable from 0 to 1 zeroes the entry counter (R480). -/
def enableLog (s : State) : State :=
  if s.health.logEnable then s else { s with health := { s.health with logEnable := true, count := 0, head := 0 } }

/-- HEALTH_LOG_ENABLE. -/
def execHealthLogEnable (s : State) : Host.Outcome State Fault Refusal := .next (if s.boot.stage < 2 then s else enableLog s)

/-- The mask bit of a vector. -/
def maskOff (vec : Nat) : Nat := 0x8000C + 16 * vec

/-- Unmasking a vector whose pending bit is set sends the held message (R283). -/
def unmaskVec (s : State) (fn : Fn) (vec : Nat) : State :=
  let s := regSet s fn.val (maskOff vec) 0
  let was := (s.fnOf fn).pendingBits.contains vec
  let s := s.modFn fn fun f => { f with masked := f.masked.filter fun v => v != vec, pendingBits := f.pendingBits.filter fun v => v != vec }
  if was then s.emit (.msix fn vec) else s

/-- A vector is masked. -/
def maskVec (s : State) (fn : Fn) (vec : Nat) : State :=
  (regSet s fn.val (maskOff vec) 1).modFn fn fun f => { f with masked := if vec ∈ f.masked then f.masked else f.masked ++ [vec] }

/-- May a function's registers be used: it is enabled, and bring-up has reached S2 (R281, R449)? -/
def regsUsable (s : State) (fn : Fn) : Bool := (s.fnOf fn).enabled && decide (2 ≤ s.boot.stage)

/-- MSIX_VECTOR_UNMASK. -/
def execMsixVectorUnmask (fn : Fn) (vec : Fin 64) (s : State) : Host.Outcome State Fault Refusal :=
  .next (if regsUsable s fn then unmaskVec s fn vec.val else s)

/-! ### Plain registers: when a write is ignored (R468) -/

/-- Is any plan loaded? -/
def plansLoaded (s : State) : Bool := !s.plans.loaded.isEmpty

/-- MiB that the DRAM areas take with new values of the registers: carve-up, epoch cache, pool area and staging (R477). -/
def areasFit (s : State) (carveV epoch stage : Nat) : Bool :=
  decide ((bitsOf carveV 7 0 + bitsOf carveV 15 8 + bitsOf carveV 23 16 + bitsOf carveV 31 24) * 64 + poolAreaMiB s + epoch + stage ≤ 24 * 1024)

/-- Do the writes of the DRAM areas' registers come at an allowed time (R477)? -/
def areasIdle (s : State) : Bool := !plansLoaded s && !s.trackA.armed && !s.trackB.armed

/-- Is a way held by a model? -/
def wayHeld (s : State) (v : Nat) : Bool := s.sched.models.any fun m => m.ways.contains v

/-- Does a write of a SCHED_, SEQ_ or TS_ register come at a time and with a value that its rules allow? -/
def schedAllowed (s : State) (off v : Nat) : Bool :=
  if off = 0x21008 then
    !(s.plans.loaded.any fun p => p.c.zeroInit && bitAt (regGet s 0 off) p.fn.val && !bitAt v p.fn.val)
  else if off = 0x2200C then !plansLoaded s
  else if off = 0x22010 then
    (List.range 16).all fun w => !wayHeld s w || bitsOf v (2 * w + 1) (2 * w) == wayOwner s w
  else if off = 0x22014 then
    (List.range 16).all fun f => bitsOf v (2 * f + 1) (2 * f) == fnClass s f || !(s.plans.loaded.any fun p => p.fn.val == f)
  else if off = 0x2201C then areasIdle s && areasFit s v (epochMiB s) (regGet s 0 0x22024)
  else if off = 0x22024 then areasIdle s && areasFit s (regGet s 0 0x2201C) (epochMiB s) v
  else if off = 0x22028 then areasIdle s && areasFit s (regGet s 0 0x2201C) v (regGet s 0 0x22024)
  else if off = 0x23000 then !(s.plans.loaded.any fun p => decide (kvLayers p.c ≠ 0))
  else true

/-- Is any ring pair of a function enabled? -/
def pairEnabled (s : State) (fn : Fn) : Bool := (fnRings s fn).any fun r => (s.ring r).enable

/-- Does a write of a plain register come at an allowed time? -/
def timeAllowed (s : State) (fn : Fn) (off v : Nat) : Bool :=
  if off = 0x1008 then !pairEnabled s fn
  else if off ∈ [0x1010, 0x1018, 0x1020, 0x1028] then !(s.fnOf fn).recEnable
  else if 0x2000 ≤ off ∧ off < 0x2200 then
    let o := off % 0x40
    !(o == 0x08 || o == 0x10 || o == 0x18) || !((s.fnOf fn).rings[(Fin.ofNat 8 ((off - 0x2000) / 0x40)).val]).enable
  else if 0x3000 ≤ off ∧ off < 0x3040 then !pairEnabled s (Fin.ofNat 16 ((off - 0x3000) / 4))
  else if off ∈ [0x50020, 0x50028, 0x50030] then !s.health.logEnable
  else schedAllowed s off v

/-- A write of a plain register: its fields take the value, or the write is ignored as a whole. New basket marks are judged at once. -/
def writePlain (s : State) (fn : Fn) (off : Nat) (r : RegSpec) (v : Nat) : State :=
  if r.ok v && timeAllowed s fn off v then
    let s := regSet s fn.val off v
    if off = 0x22020 then basketMarks s else s
  else badWrite s fn

/-! ### Registers with behaviour of their own -/

/-- LP_SETUP_CTRL: its fields, and go. -/
def writeSetup (s : State) (p : Port) (r : RegSpec) (off v : Nat) (go : Bool) : State :=
  if !r.ok v || (go && (s.lp p).suBusy) then badWrite s 0
  else
    let s := regSet s 0 off v
    if go then setupGo s p else s

/-- TWIN_CFG: unit and role_req stay while enable is 1. -/
def writeTwinCfg (s : State) (v : Nat) : State :=
  let old := regGet s 0 0x31000
  if bitAt old 0 ∧ v / 2 % 4 ≠ old / 2 % 4 then badWrite s 0
  else setTwinEnable (regSet s 0 0x31000 (v / 2 % 4 * 2 + old % 2)) (bitAt v 0)

/-- TWIN_STATUS: write 1 to clear; fenced stays while the fence input is asserted. -/
def writeTwinStatus (s : State) (v : Nat) : State :=
  if bitAt v 8 && s.twin.fenceIn then badWrite s 0
  else
    let s := if bitAt v 8 then clearFence s else s
    let s := if bitAt v 9 then clearTakeover s else s
    if bitAt v 10 then { s with twin := { s.twin with refused := false } } else s

/-- SEC_UPDATE_CTRL: one action at a time; two at once is no encoding that the table gives (log 45). -/
def writeUpdate (s : State) (v : Nat) : State :=
  let n := b2n (bitAt v 0) + b2n (bitAt v 1) + b2n (bitAt v 2) + b2n (bitAt v 7)
  if n = 0 then s
  else if 1 < n ∨ s.sec.updBusy then badWrite s 0
  else if bitAt v 0 then startUpdate s false
  else if bitAt v 1 then startUpdate s true
  else if bitAt v 2 then applyRegion s (Fin.ofNat 8 (bitsOf v 6 4))
  else confirmFloor s

/-- HEALTH_REGION_CTRL: a write that names a region in both fields is ignored (R480). -/
def writeRegions (s : State) (v : Nat) : State :=
  let d := bitsOf v 7 0
  let e := bitsOf v 15 8
  if (List.range 8).any fun g => bitAt d g && bitAt e g then badWrite s 0
  else
    let s := if d = 0 then s else drainRegions s d
    if e = 0 then s else serveRegions s e

/-- What a write to a register with behaviour of its own does; `v` has the reserved bits 0. -/
def writeAct (s : State) (fn : Fn) (off : Nat) (r : RegSpec) (v : Nat) : State :=
  match r.act with
  | .plain => writePlain s fn off r v
  | .ro => s
  | .hifStatus => s.modFn fn fun f => { f with grantError := f.grantError && !bitAt v 0, badWrite := f.badWrite && !bitAt v 1 }
  | .recCtrl => if bitAt v 0 then enableRec s fn else s.modFn fn fun f => { f with recEnable := false }
  | .vfEnable => writeVfEnable s v
  | .ringCtrl =>
    let i : RingId := { fn := fn, pair := Fin.ofNat 8 ((off - 0x2000) / 0x40) }
    if bitAt v 0 then enableRing s i else disableRing s i
  | .kick => kick s fn
  | .pegCount => pegGrant s (Fin.ofNat 16 ((off - 0x3040) / 4)) v
  | .lpStatus =>
    let p : Port := Fin.ofNat 4 ((off - 0x10000) / 0x100)
    let s := if bitAt v 1 then clearOverrate s p else s
    if bitAt v 2 then clearUnexpected s p else s
  | .setupCtrl => writeSetup s (Fin.ofNat 4 ((off - 0x10000) / 0x100)) r off v false
  | .dictCtrl => if !bitAt v 0 then s else if s.dict.busy then badWrite s 0 else dictStart s
  | .twinCfg => writeTwinCfg s v
  | .twinStatus => writeTwinStatus s v
  | .twinCtrl => if bitAt v 0 then startHandover s else s
  | .attestCtrl => if bitAt v 0 then attestGo s fn else s
  | .updateCtrl => writeUpdate s v
  | .healthStatus => if bitAt v 0 then { s with health := { s.health with alert := false } } else s
  | .regionCtrl => writeRegions s v
  | .logCtrl => if bitAt v 0 then enableLog s else { s with health := { s.health with logEnable := false } }
  | .pwrTrip => { s with pwr := { s.pwr with tripSensor := bitsOf v 1 0, tripIndex := bitsOf v 6 4 } }
  | .pwrCtrl => if bitAt v 0 then pwrReset s else s
  | .msixCtrl =>
    let vec := (off - 0x80000) / 16
    if bitAt v 0 then maskVec s fn vec else unmaskVec s fn vec

/-- A whole register is written: the reserved bits of the value are ignored (R11). -/
def writeReg (s : State) (fn : Fn) (off : Nat) (r : RegSpec) (value : Nat) : State :=
  if r.pf && fn.val != 0 then s
  else match r.act with
    | .setupCtrl => writeSetup s (Fin.ofNat 4 ((off - 0x10000) / 0x100)) r off (value &&& r.mask) (bitAt value 16)
    | _ => writeAct s fn off r (value &&& r.mask)

/-- Key under which the lower half of a 64-bit register waits for its upper half (R466). -/
def halfKey (fn off : Nat) : Nat := 0x2000000 + regKey fn off

/-- A 4-byte write: a 32-bit register, or one half of a 64-bit register, which takes its new value with its upper half. -/
def write4 (s : State) (fn : Fn) (off v : Nat) : State :=
  match regSpec off with
  | some r => if r.bytes = 8 then { s with regs := smInsert s.regs (halfKey fn.val off) (BitVec.ofNat 64 v) } else writeReg s fn off r v
  | none => match regSpec (off - 4) with
    | some r =>
      if r.bytes = 8 ∧ off % 8 = 4 then
        let lo := match smFind s.regs (halfKey fn.val (off - 4)) with
          | some w => w.toNat
          | none => regGet s fn.val (off - 4) % 2 ^ 32
        writeReg { s with regs := smErase s.regs (halfKey fn.val (off - 4)) } fn (off - 4) r (lo + v * 2 ^ 32)
      else s
    | none => s

/-- A write access: aligned 4 or 8 bytes; 8 bytes at two 32-bit registers act on the lower first; any other access is ignored (R466). -/
def writeAccess (s : State) (fn : Fn) (off size v : Nat) : State :=
  if size = 4 ∧ off % 4 = 0 then write4 s fn off (v % 2 ^ 32)
  else if size = 8 ∧ off % 8 = 0 then
    match regSpec off with
    | some r => if r.bytes = 8 then writeReg s fn off r v else write4 (write4 s fn off (v % 2 ^ 32)) fn (off + 4) (v / 2 ^ 32)
    | none => write4 s fn (off + 4) (v / 2 ^ 32)
  else badWrite s fn

/-- At S1 a ROM that waits for an image takes only the update registers of the PF (R398). -/
def romAccess (s : State) (fn : Fn) (off : Nat) : Bool :=
  decide (s.boot.stage < 2) && s.boot.recovery && fn.val == 0 && decide (0x40080 ≤ off ∧ off < 0x40094)

/-- REGISTER_WRITE. -/
def execRegisterWrite (fn : Fn) (off size : Nat) (value : Word64) (s : State) : Host.Outcome State Fault Refusal :=
  .next (if regsUsable s fn || romAccess s fn off then writeAccess s fn off size value.toNat else s)

end Sys2Proof.Machine
end

