-- ==== Sys2Proof/Machine/RegisterRead.lean ====
section
/-! DEFINITION. What the set-up registers read (R465 to R481), the read of the time base (R466), and the signals of chapter 21 (R488, R489). -/

namespace Sys2Proof.Machine

open Sys2Proof

/-! ### Read-only registers -/

/-- ID_, BOOT_, PWR_ and CLK_ (Table 20-2). -/
def readId (s : State) (fn : Fn) (o : Nat) : Nat :=
  if o = 0x0 then 0x41469400
  else if o = 0x4 then Config.stepping.toNat + 256 * Config.issue.toNat
  else if o = 0x8 then 2 + 1 * 65536
  else if o = 0xC then fn.val
  else if o = 0x100 then s.boot.stage
  else if o = 0x104 then
    b2n s.boot.pufFail + 2 * b2n s.boot.dramFail + 4 * b2n s.boot.fabricFail + 8 * b2n s.boot.slot + 16 * strapBits s
  else if o = 0x108 then s.boot.resetCause
  else if fn.val = 0 ∧ o = 0x200 then b2n s.pwr.mainOk + 2 * b2n s.pwr.auxOk + 4 * b2n s.pwr.onAux
  else if fn.val = 0 ∧ o = 0x204 then s.pwr.tripSensor + 16 * s.pwr.tripIndex
  else if o = 0x300 then s.clk.timeBase.toNat % 2 ^ 32
  else if o = 0x304 then match s.clk.latch with
    | some w => w.toNat
    | none => s.clk.timeBase.toNat / 2 ^ 32
  else 0

/-- RING_CTRL, RING_STATUS and RING_POS (Table 20-4). -/
def readRing (s : State) (r : RingRef) (q : Nat) : Nat :=
  let x := s.ring r
  if q = 0x00 then b2n x.enable
  else if q = 0x04 then b2n x.fault + 2 * x.cause
  else if q = 0x24 then x.sqHead.toNat + 65536 * x.cqTail.toNat
  else 0

/-- LP_STATUS, LP_SETUP_CTRL, LP_SETUP_RX and LP_ENC_POS (Table 20-6), 64 bits where the register has them. -/
def readLp (s : State) (o : Nat) : Nat :=
  if o = 0x450 then toBits s.trackA.position 64
  else if o = 0x490 then toBits s.trackB.position 64
  else
    let p : Port := Fin.ofNat 4 (o / 0x100)
    let x := s.lp p
    let q := o % 0x100
    if q = 0x10 then b2n x.locked + 2 * b2n x.overrate + 4 * b2n x.unexpected + 8 * b2n x.armed
    else if q = 0x20 then lpReg s p 0x20 + 2 ^ 17 * b2n x.suBusy
    else if q = 0x30 then x.suRx.toNat
    else 0

/-- FAB_ and TS_ (Table 20-8). -/
def readFab (s : State) (o : Nat) : Nat :=
  if o = 0x20000 then 8 else if o = 0x20004 then 32 else if o = 0x20008 then 24 else if o = 0x2000C then 65536
  else if o = 0x20010 then sumNat (allRegions.map fun g => (s.reg8 g).state * 4 ^ g.val)
  else if o = 0x20014 then sumNat (allRegions.map fun g => throttle s g * 8 ^ g.val)
  else if o = 0x21000 then 32 + 32 * 256 + 1536 * 65536
  else 0

/-- SEQ_ (Table 20-10). -/
def readSeq (s : State) (o : Nat) : Nat :=
  if o = 0x04 then poolPages s
  else if o = 0x08 then freePages s
  else if o = 0x0C then s.pool.version.toNat
  else if o = 0x20 then b2n s.dict.busy + 2 * b2n s.dict.loaded + 16 * s.dict.error
  else if 0x40 ≤ o ∧ o < 0x60 then fieldAt s.dict.digest (o - 0x40) 4
  else 0

/-- TWIN_STATUS (Table 20-11). -/
def readTwin (s : State) : Nat :=
  b2n s.twin.linkUp + 2 * b2n s.twin.rate16 + 4 * s.twin.state.code + 32 * b2n s.twin.readyA + 64 * b2n s.twin.readyB + 256 * b2n s.twin.fenced +
  512 * b2n s.twin.takeover + 1024 * b2n s.twin.refused

/-- SEC_ (Table 20-11). -/
def readSec (s : State) (fn : Fn) (o : Nat) : Nat :=
  if o = 0x00 then s.sec.version
  else if o = 0x04 then s.sec.floor
  else if o = 0x54 then b2n (s.fnOf fn).quote.busy + 2 * (s.fnOf fn).quote.result
  else if fn.val = 0 ∧ o = 0x90 then b2n s.sec.updBusy + 16 * s.sec.updResult + 256 * b2n s.sec.staged.isSome
  else 0

/-- HEALTH_ (Table 20-12). -/
def readHealth (s : State) (o : Nat) : Nat :=
  if o = 0x00 then b2n s.health.alert
  else if o = 0x14 then
    sumNat (allRegions.map fun g => b2n (s.reg8 g).failed * 2 ^ g.val + (s.reg8 g).spares * 2 ^ (2 * g.val + 8))
  else if o = 0x2C then b2n s.health.logEnable
  else if o = 0x38 then s.health.lost.toNat
  else if 0x100 ≤ o ∧ o < 0x300 then
    fieldAt (match s.health.last[(o - 0x100) / 32]? with
      | some e => healthBytes e false false
      | none => zeros 32) ((o - 0x100) % 32) 4
  else 0

/-- CNT_LAYOUT (Table 20-13). -/
def readCnt (fn : Fn) (o : Nat) : Nat :=
  if o = 0 then 256 + 16 * 65536
  else if o = 4 then 8 + 64 * 65536
  else if o = 8 then 1 + 256 * 65536
  else if o = 12 then 4 + 32 * 65536
  else if o = 16 then acctEntries fn + 8 * 65536
  else 0

/-- MSI-X pending bits. -/
def readPending (s : State) (fn : Fn) (o : Nat) : Nat :=
  sumNat ((List.range 32).map fun i => if (8 * o + i) ∈ (s.fnOf fn).pendingBits then 2 ^ i else 0)

/-- Basket marks read clamped (Table 20-9). -/
def readClamped (s : State) (fn off : Nat) : Nat := if off = 0x22020 then basketHigh s + 65536 * basketLow s else regGet s fn off

/-- The function whose registers a function reads at an offset: its own, the PF's, or none (Table 20-1; registers marked PF exist for the PF only,
R467). -/
def viewOf (fn : Fn) (off : Nat) : Option Fn :=
  if fn.val = 0 then some 0
  else if off < 0x200 ∨ (0x300 ≤ off ∧ off < 0x1000) then some fn
  else if off = 0x1040 then some 0
  else if off < 0x1040 ∨ (0x2000 ≤ off ∧ off < 0x3000) then (if off < 0x1000 then none else some fn)
  else if 0x3000 ≤ off ∧ off < 0x3080 then (if (off - 0x3000) % 0x40 / 4 = fn.val then some 0 else none)
  else if 0x20000 ≤ off ∧ off < 0x20018 then some 0
  else if off = 0x21000 ∨ off = 0x21008 then some 0
  else if 0x22040 ≤ off ∧ off < 0x22080 then (if (off - 0x22040) / 4 = fn.val then some 0 else none)
  else if 0x23004 ≤ off ∧ off < 0x24000 then (if 0x23010 ≤ off ∧ off < 0x23020 then none else some 0)
  else if 0x40000 ≤ off ∧ off < 0x40058 then some fn
  else if 0x60000 ≤ off ∧ off < 0x60014 then some fn
  else if 0x80000 ≤ off ∧ off < 0x81010 then some fn
  else none

/-- A register of at most 64 bits as function `fn` sees it. -/
def readWhole (s : State) (fn : Fn) (off : Nat) : Nat :=
  if off < 0x1000 then readId s fn off
  else if off = 0x1000 then b2n (s.fnOf fn).grantError + 2 * b2n (s.fnOf fn).badWrite
  else if off = 0x101C then b2n (s.fnOf fn).recEnable
  else if 0x2000 ≤ off ∧ off < 0x2200 ∧ (off % 0x40 = 0 ∨ off % 0x40 = 4 ∨ off % 0x40 = 0x24) then
    readRing s (s.ref { fn := fn, pair := Fin.ofNat 8 ((off - 0x2000) / 0x40) }) (off % 0x40)
  else if 0x10000 ≤ off ∧ off < 0x10400 ∧ (off % 0x100 = 0x10 ∨ off % 0x100 = 0x20 ∨ off % 0x100 = 0x30) then readLp s (off - 0x10000)
  else if off = 0x10450 ∨ off = 0x10490 then readLp s (off - 0x10000)
  else if (0x20000 ≤ off ∧ off < 0x20018) ∨ off = 0x21000 then readFab s off
  else if 0x23004 ≤ off ∧ off < 0x23010 ∨ 0x23020 ≤ off ∧ off < 0x23060 then readSeq s (off - 0x23000)
  else if off = 0x31004 then readTwin s
  else if off = 0x40000 ∨ off = 0x40004 ∨ off = 0x40054 ∨ off = 0x40090 then readSec s fn (off - 0x40000)
  else if off = 0x50000 ∨ off = 0x50014 ∨ off = 0x5002C ∨ off = 0x50038 ∨ (0x50100 ≤ off ∧ off < 0x50300) then readHealth s (off - 0x50000)
  else if 0x60000 ≤ off ∧ off < 0x60014 then readCnt fn (off - 0x60000)
  else if off = 0x81000 ∨ off = 0x81004 then readPending s fn (off - 0x81000)
  else readClamped s fn.val off

/-- A 4-byte read of a function's BAR0; reserved and absent offsets read 0 (R11). -/
def regRead (s : State) (fn : Fn) (off : Nat) : Nat :=
  match viewOf fn off with
  | none => 0
  | some g =>
    let own := if off < 0x1000 then fn else g
    let wide := match regSpec (off - 4) with | some r => decide (r.bytes = 8 ∧ off % 8 = 4) | none => false
    if wide then readWhole s own (off - 4) / 2 ^ 32 % 2 ^ 32
    else if off = 0x21008 ∧ fn.val ≠ 0 then readWhole s own off &&& 2 ^ fn.val
    else readWhole s own off % 2 ^ 32

/-- TIMEBASE_LOW_READ: the read latches the upper half (R466). -/
def execTimebaseLowRead (fn : Fn) (s : State) : Host.Outcome State Fault Refusal :=
  .next (if regsUsable s fn then
    { s with clk := { s.clk with latch := some (BitVec.ofNat 32 (s.clk.timeBase.toNat / 2 ^ 32)) } }.emit
      (.regData fn (BitVec.ofNat 64 (s.clk.timeBase.toNat % 2 ^ 32)))
  else s)

/-! ### TERM_EN and J5 (R488, R489) -/

/-- TERM_EN_CHANGE: the input acts directly on the termination. -/
def execTermEnChange (level : Bool) (s : State) : Host.Outcome State Fault Refusal := .next { s with boot := { s.boot with termEn := level } }

/-- IDCODE (R488). -/
def idcode : Word32 := 0x94000A0B

/-- TEST_ACCESS_PORT: while the blob keeps the debug port closed only BYPASS and IDCODE answer; what an open port does the spec does not say. -/
def execTestAccessPort (op : TapOp) (s : State) : Host.Outcome State Fault Refusal :=
  match op with
  | .bypass tdi => .next (s.emit (.tap (BitVec.ofNat 32 (b2n tdi))))
  | .idcode => .next (s.emit (.tap idcode))
  | .other _ => if s.sec.blob.debugOpen then .refused .debugPortOpen else .next s

end Sys2Proof.Machine
end

