-- ==== Sys2Proof/Machine/Dispatch.lean ====
section
/-! DEFINITION. The one place where a command meets its meaning: one arm per constructor, in the order of the opcode table. -/

namespace Sys2Proof.Machine

open Sys2Proof

/-- The effect of a command on everything but the queue. -/
def exec (i : Instr) (s : State) : Host.Outcome State Fault Refusal :=
  match i with
  | .pieceInEdge x0 => Sys2Proof.Machine.execPieceInEdge x0 s
  | .gapUpdateBuilt x0 => Sys2Proof.Machine.execGapUpdateBuilt x0 s
  | .encoderCount x0 x1 x2 x3 => Sys2Proof.Machine.execEncoderCount x0 x1 x2 x3 s
  | .sublineTrigger x0 => Sys2Proof.Machine.execSublineTrigger x0 s
  | .linePacket x0 x1 => Sys2Proof.Machine.execLinePacket x0 x1 s
  | .registeredLineStored x0 => Sys2Proof.Machine.execRegisteredLineStored x0 s
  | .leadingEdgeTimeout x0 => Sys2Proof.Machine.execLeadingEdgeTimeout x0 s
  | .trailingEdgeFound x0 => Sys2Proof.Machine.execTrailingEdgeFound x0 s
  | .overlength x0 => Sys2Proof.Machine.execOverlength x0 s
  | .lineCommitted x0 => Sys2Proof.Machine.execLineCommitted x0 s
  | .checkWindowCaptured x0 x1 => Sys2Proof.Machine.execCheckWindowCaptured x0 x1 s
  | .scanDisarmGap x0 => Sys2Proof.Machine.execScanDisarmGap x0 s
  | .scanDisarmEffect x0 => Sys2Proof.Machine.execScanDisarmEffect x0 s
  | .calTrigger x0 => Sys2Proof.Machine.execCalTrigger x0 s
  | .reservationMove x0 => Sys2Proof.Machine.execReservationMove x0 s
  | .segmentBoundary x0 => Sys2Proof.Machine.execSegmentBoundary x0 s
  | .programFetchComplete x0 => Sys2Proof.Machine.execProgramFetchComplete x0 s
  | .seqWatchdogExpiry x0 x1 => Sys2Proof.Machine.execSeqWatchdogExpiry x0 x1 s
  | .endMarkMissing x0 x1 => Sys2Proof.Machine.execEndMarkMissing x0 x1 s
  | .spareReloadDone x0 => Sys2Proof.Machine.execSpareReloadDone x0 s
  | .thermalSample x0 x1 x2 => Sys2Proof.Machine.execThermalSample x0 x1 x2 s
  | .farReadLanded x0 => Sys2Proof.Machine.execFarReadLanded x0 s
  | .hemLanded x0 => Sys2Proof.Machine.execHemLanded x0 s
  | .scrubRead x0 x1 x2 => Sys2Proof.Machine.execScrubRead x0 x1 x2 s
  | .fieldDarn x0 x1 x2 => Sys2Proof.Machine.execFieldDarn x0 x1 x2 s
  | .batchStepStart x0 => Sys2Proof.Machine.execBatchStepStart x0 s
  | .saveComplete x0 => Sys2Proof.Machine.execSaveComplete x0 s
  | .restoreComplete x0 x1 => Sys2Proof.Machine.execRestoreComplete x0 x1 s
  | .wardrobeLoadComplete x0 x1 => Sys2Proof.Machine.execWardrobeLoadComplete x0 x1 s
  | .planLoadComplete x0 x1 x2 => Sys2Proof.Machine.execPlanLoadComplete x0 x1 x2 s
  | .relowerComplete x0 x1 => Sys2Proof.Machine.execRelowerComplete x0 x1 s
  | .planUnloadComplete x0 => Sys2Proof.Machine.execPlanUnloadComplete x0 s
  | .doorbellPoll => Sys2Proof.Machine.execDoorbellPoll s
  | .doorbellLineArrived x0 x1 x2 x3 => Sys2Proof.Machine.execDoorbellLineArrived x0 x1 x2 x3 s
  | .descriptorFetched x0 x1 x2 => Sys2Proof.Machine.execDescriptorFetched x0 x1 x2 s
  | .hostDmaError x0 x1 x2 => Sys2Proof.Machine.execHostDmaError x0 x1 x2 s
  | .hostReadTimeout x0 x1 => Sys2Proof.Machine.execHostReadTimeout x0 x1 s
  | .irqModerationTimer x0 => Sys2Proof.Machine.execIrqModerationTimer x0 s
  | .nop x0 x1 => Sys2Proof.Machine.execNop x0 x1 s
  | .scanArm x0 x1 x2 => Sys2Proof.Machine.execScanArm x0 x1 x2 s
  | .scanDisarm x0 x1 x2 => Sys2Proof.Machine.execScanDisarm x0 x1 x2 s
  | .calRun x0 x1 x2 => Sys2Proof.Machine.execCalRun x0 x1 x2 s
  | .imageRead x0 x1 x2 x3 => Sys2Proof.Machine.execImageRead x0 x1 x2 x3 s
  | .seqStep x0 x1 x2 x3 => Sys2Proof.Machine.execSeqStep x0 x1 x2 x3 s
  | .tailorStep x0 x1 x2 x3 => Sys2Proof.Machine.execTailorStep x0 x1 x2 x3 s
  | .planLoad x0 x1 x2 => Sys2Proof.Machine.execPlanLoad x0 x1 x2 s
  | .planUnload x0 x1 x2 => Sys2Proof.Machine.execPlanUnload x0 x1 x2 s
  | .wardrobePin x0 x1 x2 => Sys2Proof.Machine.execWardrobePin x0 x1 x2 s
  | .ptEdit x0 x1 x2 => Sys2Proof.Machine.execPtEdit x0 x1 x2 s
  | .pegWait x0 x1 x2 => Sys2Proof.Machine.execPegWait x0 x1 x2 s
  | .pegWaitTimeout x0 => Sys2Proof.Machine.execPegWaitTimeout x0 s
  | .pegSignal x0 x1 x2 => Sys2Proof.Machine.execPegSignal x0 x1 x2 s
  | .foldOpen x0 x1 => Sys2Proof.Machine.execFoldOpen x0 x1 s
  | .foldClose x0 x1 x2 => Sys2Proof.Machine.execFoldClose x0 x1 x2 s
  | .foldCommit => Sys2Proof.Machine.execFoldCommit s
  | .snapshot x0 x1 x2 => Sys2Proof.Machine.execSnapshot x0 x1 x2 s
  | .snapshotCapture x0 => Sys2Proof.Machine.execSnapshotCapture x0 s
  | .snapshotGatherDone x0 => Sys2Proof.Machine.execSnapshotGatherDone x0 s
  | .windowOpen x0 x1 x2 => Sys2Proof.Machine.execWindowOpen x0 x1 x2 s
  | .windowClose x0 x1 x2 => Sys2Proof.Machine.execWindowClose x0 x1 x2 s
  | .twinDma x0 x1 x2 x3 => Sys2Proof.Machine.execTwinDma x0 x1 x2 x3 s
  | .testRun x0 x1 x2 => Sys2Proof.Machine.execTestRun x0 x1 x2 s
  | .recordCopy x0 x1 => Sys2Proof.Machine.execRecordCopy x0 x1 s
  | .stagingGrant => Sys2Proof.Machine.execStagingGrant s
  | .codecDecodeDone x0 x1 => Sys2Proof.Machine.execCodecDecodeDone x0 x1 s
  | .codecEncodeDone x0 x1 => Sys2Proof.Machine.execCodecEncodeDone x0 x1 s
  | .tailoringCommit x0 x1 => Sys2Proof.Machine.execTailoringCommit x0 x1 s
  | .dictLoad => Sys2Proof.Machine.execDictLoad s
  | .dictLoadDone x0 => Sys2Proof.Machine.execDictLoadDone x0 s
  | .read x0 x1 => Sys2Proof.Machine.execRead x0 x1 s
  | .write x0 x1 => Sys2Proof.Machine.execWrite x0 x1 s
  | .rateAcknowledge x0 => Sys2Proof.Machine.execRateAcknowledge x0 s
  | .configurationWord x0 => Sys2Proof.Machine.execConfigurationWord x0 s
  | .readId => Sys2Proof.Machine.execReadId s
  | .portReset => Sys2Proof.Machine.execPortReset s
  | .badCommandInverse x0 x1 => Sys2Proof.Machine.execBadCommandInverse x0 x1 s
  | .heartbeat x0 x1 => Sys2Proof.Machine.execHeartbeat x0 x1 s
  | .heartbeatSend => Sys2Proof.Machine.execHeartbeatSend s
  | .heartbeatMissed => Sys2Proof.Machine.execHeartbeatMissed s
  | .health x0 x1 x2 x3 => Sys2Proof.Machine.execHealth x0 x1 x2 x3 s
  | .sync x0 x1 => Sys2Proof.Machine.execSync x0 x1 s
  | .windowState x0 x1 x2 x3 => Sys2Proof.Machine.execWindowState x0 x1 x2 x3 s
  | .pair x0 x1 x2 x3 => Sys2Proof.Machine.execPair x0 x1 x2 x3 s
  | .twinWrite x0 x1 => Sys2Proof.Machine.execTwinWrite x0 x1 s
  | .writeDone x0 x1 x2 => Sys2Proof.Machine.execWriteDone x0 x1 x2 s
  | .ack x0 => Sys2Proof.Machine.execAck x0 s
  | .nak x0 => Sys2Proof.Machine.execNak x0 s
  | .twinFrameCrcFail => Sys2Proof.Machine.execTwinFrameCrcFail s
  | .twinLinkUp x0 => Sys2Proof.Machine.execTwinLinkUp x0 s
  | .twinLinkDown => Sys2Proof.Machine.execTwinLinkDown s
  | .twinFenceIn x0 => Sys2Proof.Machine.execTwinFenceIn x0 s
  | .handover => Sys2Proof.Machine.execHandover s
  | .fenceClear => Sys2Proof.Machine.execFenceClear s
  | .takeoverClear => Sys2Proof.Machine.execTakeoverClear s
  | .powerOnReset x0 x1 => Sys2Proof.Machine.execPowerOnReset x0 x1 s
  | .pllLock => Sys2Proof.Machine.execPllLock s
  | .romBoot x0 => Sys2Proof.Machine.execRomBoot x0 s
  | .firmwareRunning => Sys2Proof.Machine.execFirmwareRunning s
  | .regionFirmwareLoaded => Sys2Proof.Machine.execRegionFirmwareLoaded s
  | .dramTrained x0 => Sys2Proof.Machine.execDramTrained x0 s
  | .bringupS5Start => Sys2Proof.Machine.execBringupS5Start s
  | .fabricTestsDone x0 x1 => Sys2Proof.Machine.execFabricTestsDone x0 x1 s
  | .resetN => Sys2Proof.Machine.execResetN s
  | .perst => Sys2Proof.Machine.execPerst s
  | .pwrCtrlReset => Sys2Proof.Machine.execPwrCtrlReset s
  | .hostInterfaceReset x0 => Sys2Proof.Machine.execHostInterfaceReset x0 s
  | .hostLinkCorrectableError => Sys2Proof.Machine.execHostLinkCorrectableError s
  | .functionLevelReset x0 => Sys2Proof.Machine.execFunctionLevelReset x0 s
  | .vfEnable x0 => Sys2Proof.Machine.execVfEnable x0 s
  | .refclkLoss => Sys2Proof.Machine.execRefclkLoss s
  | .refclkRestored => Sys2Proof.Machine.execRefclkRestored s
  | .pwrMainLow => Sys2Proof.Machine.execPwrMainLow s
  | .pwrMainReturn => Sys2Proof.Machine.execPwrMainReturn s
  | .bothInputsLow => Sys2Proof.Machine.execBothInputsLow s
  | .holdUpEnd => Sys2Proof.Machine.execHoldUpEnd s
  | .chipParityError x0 => Sys2Proof.Machine.execChipParityError x0 s
  | .ringRetryExhausted x0 => Sys2Proof.Machine.execRingRetryExhausted x0 s
  | .regionControllerError x0 => Sys2Proof.Machine.execRegionControllerError x0 s
  | .regionDrain x0 => Sys2Proof.Machine.execRegionDrain x0 s
  | .regionServe x0 => Sys2Proof.Machine.execRegionServe x0 s
  | .healthAlertClear => Sys2Proof.Machine.execHealthAlertClear s
  | .lintUnit x0 x1 x2 x3 => Sys2Proof.Machine.execLintUnit x0 x1 x2 x3 s
  | .lintOverdue x0 => Sys2Proof.Machine.execLintOverdue x0 s
  | .overrateClear x0 => Sys2Proof.Machine.execOverrateClear x0 s
  | .unexpectedClear x0 => Sys2Proof.Machine.execUnexpectedClear x0 s
  | .setupBusGo x0 => Sys2Proof.Machine.execSetupBusGo x0 s
  | .setupBusDone x0 x1 => Sys2Proof.Machine.execSetupBusDone x0 x1 s
  | .ringEnable x0 => Sys2Proof.Machine.execRingEnable x0 s
  | .ringDisable x0 => Sys2Proof.Machine.execRingDisable x0 s
  | .ringKick x0 => Sys2Proof.Machine.execRingKick x0 s
  | .recRingEnable x0 => Sys2Proof.Machine.execRecRingEnable x0 s
  | .pegGrant x0 x1 => Sys2Proof.Machine.execPegGrant x0 x1 s
  | .healthLogEnable => Sys2Proof.Machine.execHealthLogEnable s
  | .attestGo x0 => Sys2Proof.Machine.execAttestGo x0 s
  | .quoteStart x0 => Sys2Proof.Machine.execQuoteStart x0 s
  | .attestationRenewal => Sys2Proof.Machine.execAttestationRenewal s
  | .attestationTreeRebuilt => Sys2Proof.Machine.execAttestationTreeRebuilt s
  | .updateStage => Sys2Proof.Machine.execUpdateStage s
  | .updateBlob => Sys2Proof.Machine.execUpdateBlob s
  | .updateDone x0 x1 => Sys2Proof.Machine.execUpdateDone x0 x1 s
  | .regionApply x0 => Sys2Proof.Machine.execRegionApply x0 s
  | .confirm => Sys2Proof.Machine.execConfirm s
  | .timebaseLowRead x0 => Sys2Proof.Machine.execTimebaseLowRead x0 s
  | .termEnChange x0 => Sys2Proof.Machine.execTermEnChange x0 s
  | .registerWrite x0 x1 x2 x3 => Sys2Proof.Machine.execRegisterWrite x0 x1 x2 x3 s
  | .pwrAuxLow => Sys2Proof.Machine.execPwrAuxLow s
  | .pwrAuxReturn => Sys2Proof.Machine.execPwrAuxReturn s
  | .twinEnable x0 => Sys2Proof.Machine.execTwinEnable x0 s
  | .msixVectorUnmask x0 x1 => Sys2Proof.Machine.execMsixVectorUnmask x0 x1 s
  | .testAccessPort x0 => Sys2Proof.Machine.execTestAccessPort x0 s

end Sys2Proof.Machine
end

