-- ==== Sys2Proof/Machine/Tick.lean ====
section
/-! DEFINITION. What happens on an empty queue (log 2): the clock counts, and what waited only for the next cycle goes on. -/

namespace Sys2Proof.Machine

open Sys2Proof

/-- FEED_HOLD that stands is noted for the next encoder count (R53). -/
def noteHold (s : State) (t : Track) : State := if feedHold s t && !(s.track t).rested then s.modTrack t fun x => { x with held := true } else s

/-- One fabric cycle: the time base counts, peg updates of the last cycle apply (R307), and descriptors, posts and jobs that may go on do. -/
def tick (s : State) : State :=
  if !s.clk.running then s
  else
    let s := pegArbitrate (passTime s 1) [] []
    schedule (retryPosts (pumpAll (noteHold (noteHold s .A) .B)))

end Sys2Proof.Machine
end

