-- ==== Sys2Proof/Safety.lean ====
section
/-! DEFINITION. What counts as a sound state and a sound step, in the terms the statements use. -/

namespace Sys2Proof.Machine

open Sys2Proof

/-- A verdict-table entry as the machine may find it (R369): all zero, or 16 bytes whose last is the XOR of the fifteen before. -/
def entryOk (e : List Byte) : Prop := e = zeros 16 ∨ (e.length = 16 ∧ e.getD 15 0 = xorBytes (e.take 15))

/-- Every entry of the verdict table is sound. -/
def tableOk (s : State) : Prop := ∀ i : Fin 256, entryOk s.port.table[i.val]

/-- The bring-up stage is one of S0 to S6 (R448). -/
def stageOk (s : State) : Prop := s.boot.stage ≤ 6

/-- The tile store's memory is in its one canonical form. -/
def memoryOk (s : State) : Prop := Memory.wf s.store.mem

/-- How the bring-up stage may move in one step (R448, R444): it stays, rises by one, or a reset takes it to S0. -/
def stageMoves (s t : State) : Prop := t.boot.stage = s.boot.stage ∨ t.boot.stage = s.boot.stage + 1 ∨ t.boot.stage = 0

/-- A command completes: exec answers a next state. -/
def runs (i : Instr) (s : State) : Prop := ∃ t, exec i s = .next t

/-- What every module reset and power-on reset leaves (R444, R445, Table 18-6): stage S0 with the clock stopped, no job, plan, sequence, peg, ring, fold, piece
number, verdict, alert, DEVICE error or tile-store byte, both tracks disarmed and held by SCAN_DISARM, the twin SOLO; the flash, the encoder pins and what stands outside the module
are untouched. -/
def wasReset (s t : State) : Prop :=
  (t.boot.stage = 0 ∧ t.clk.timeBase = 0 ∧ t.clk.running = false ∧ t.regs = [] ∧ t.fns = State.reset.fns ∧ t.pegs = State.reset.pegs ∧ t.commitQ = [] ∧
    t.ports = State.reset.ports ∧ t.nextPiece = 0 ∧ t.sched.jobs = [] ∧ t.plans = State.reset.plans ∧ t.pool = State.reset.pool ∧ t.store.mem = [] ∧
    t.basket = State.reset.basket ∧ t.port = State.reset.port ∧ t.twin.state = .solo ∧ t.twin.dram = [] ∧ t.cnt = []) ∧
  (∀ k : Track, (t.track k).armed = false ∧ (t.track k).hold.disarm = true ∧ (t.track k).chA = (s.track k).chA ∧ (t.track k).chB = (s.track k).chB) ∧
  t.sec.flash = s.sec.flash ∧ t.pending = s.pending ∧ t.out = s.out ∧ t.pwr.device = false ∧ t.health.alert = false

/-- What a reset of a function leaves of it (R315): its pairs disabled with nothing fetched, held, running or waiting, its record ring disabled, no doorbell line
under way, and the pegs of its grant zero. -/
def fnCleared (t : State) (fn : Fn) : Prop :=
  (∀ p : Fin 8, let x := (t.fnOf fn).rings[p.val]
    x.enable = false ∧ x.fault = false ∧ x.fetched = [] ∧ x.unfetched = 0 ∧ x.held = [] ∧ x.running = [] ∧ x.pegWait = false) ∧
  (t.fnOf fn).recEnable = false ∧ (t.fnOf fn).lineRead = false ∧ (t.fnOf fn).kickWaiting = false ∧
  (∀ n, (t.fnOf fn).pegBase ≤ n → n < (t.fnOf fn).pegBase + (t.fnOf fn).pegCount → t.peg n = 0)

/-- The waiting commands, the bring-up stage and the verdict table stay as they are. -/
def keeps (s t : State) : Prop := t.pending = s.pending ∧ t.boot.stage = s.boot.stage ∧ t.port.table = s.port.table

/-- What a DEVICE error leaves (R423): it stands, every fold that waited for its commit is gone, FEED_HOLD stands on both tracks, alert cause 5 shows, and the newest entry
kept for HEALTH_LAST names it. -/
def deviceStands (s t : State) (cause : Nat) : Prop :=
  t.pwr.device = true ∧ t.commitQ = [] ∧
  (∀ k : Track, (t.track k).hold.disarm = true ∧ ∀ p ∈ (t.track k).pieces, p.inFold = false) ∧ alertCauses t / 32 % 2 = 1 ∧
  (∃ e, t.health.last.getLast? = some e ∧ e.kind = 24 ∧ e.arg = cause) ∧ keeps s t

/-- A module with nothing for its scheduler or its loader to do: no job, no plan, no relowering. -/
def idleModule (s : State) : Prop := s.sched.jobs = [] ∧ s.plans.loaded = [] ∧ s.plans.relowerQ = []

/-- A ring pair with nothing under way: enabled, not stopped, nothing fetched, held, running or waiting, and no fold open. -/
def idlePair (x : RingPair) : Bool :=
  x.enable && !x.fault && x.fetched.isEmpty && x.unfetched == 0 && x.held.isEmpty && x.running.isEmpty && !x.pegWait && x.fold.isNone &&
  x.sqTail == x.sqHead

/-- No pair of any function has a descriptor that waits to start. -/
def quiet (s : State) : Bool :=
  allFns.all fun f => allPairs.all fun p => ((s.fnOf f).rings[p.val]).fetched.isEmpty && ((s.fnOf f).rings[p.val]).unfetched == 0

/-- The pair can take, start and complete a descriptor at once (R287, R293, R298, R449): the module serves descriptors, the pair is idle with
a free completion slot, and no pair has a descriptor waiting. -/
def readyFor (s : State) (i : RingId) : Bool :=
  (s.fnOf i.fn).enabled && decide (fetchStage i.fn ≤ s.boot.stage) && !s.pwr.device && idlePair (s.ring (s.ref i)) && cqRoom s (s.ref i) && quiet s

/-- The state in which a ready pair starts a descriptor: announced, fetched and among those that run (R287, R298). -/
def startedState (s : State) (i : RingId) (d : Desc) : State :=
  let own := match d.op with
    | .foldOpen => some (s.ring (s.ref i)).nextFold
    | _ => none
  s.modRing (s.ref i) fun x => { x with sqTail := x.sqTail + 1, sqHead := x.sqHead + 1, running := [(d.hdr.tag, own)] }

/-- A descriptor may start on a ready pair: the limit of waiting jobs does not hold it, no SNAPSHOT waits, and its start checks pass (R298, R299, R459, R498). -/
def mayStart (s : State) (i : RingId) (d : Desc) : Bool :=
  !heldByLimit s d && !waitsBank s d && (startCheck (startedState s i d) (s.ref i) d).isNone

/-- The completion entry that a descriptor of a ready pair is answered with, where it stands in host memory (R288, Table 11-6). -/
def okEntry (s : State) (i : RingId) (h : Hdr) (opcode : Nat) (st : Status) (detail : List Byte) : Output :=
  let x := s.ring (s.ref i)
  let n := ringN s (s.ref i)
  .hostWrite i.fn (cqBase s (s.ref i) + 32 * (x.cqTail.toNat % n))
    (complBytes { hdr := h, opcode := opcode, status := st, member := false, arrived := false, detail := detail } (x.sqHead + 1) (phaseAt x.cqTail.toNat n))

/-- A frame of the twin link that is the next in order (R379). -/
def nextFrame (s : State) (seq : Half) : Bool :=
  s.twin.linkUp && (match s.twin.rxSeq with
    | none => true
    | some q => seq == q + 1)

/-- The state after a frame in order has been counted, noted and acknowledged (R379). -/
def frameTaken (s : State) (seq : Half) : State :=
  let s := s.chipCnt 45
  sendAck { s with twin := { s.twin with rxSeq := some seq } } false seq

/-- The commands that bring a numbered frame from the partner (Table 15-2). -/
def frameOf (seq : Half) (c : Instr) : Prop :=
  (∃ p, c = .heartbeat seq p) ∨ (∃ k a b, c = .health seq k a b) ∨ (∃ p, c = .sync seq p) ∨ (∃ w a n, c = .windowState seq w a n) ∨
  (∃ u r n, c = .pair seq u r n) ∨ (∃ f, c = .twinWrite seq f) ∨ (∃ x st, c = .writeDone seq x st)

/-- A descriptor of a ready pair completed in the command that brought it: its entry stands in host memory, the pair's counters have moved past it, and no other pair, and
nothing of any function but pending interrupts, has changed. -/
def completedIn (s t : State) (i : RingId) (h : Hdr) (opcode : Nat) (st : Status) (detail : List Byte) : Prop :=
  okEntry s i h opcode st detail ∈ t.out ∧ (t.ring (s.ref i)).cqTail = (s.ring (s.ref i)).cqTail + 1 ∧
  (t.ring (s.ref i)).sqHead = (s.ring (s.ref i)).sqHead + 1 ∧ (t.ring (s.ref i)).sqTail = (s.ring (s.ref i)).sqTail + 1 ∧ (t.ring (s.ref i)).running = [] ∧
  (∀ q : RingRef, (q.fn, q.pair) ≠ (i.fn, i.pair) → t.ring q = s.ring q) ∧
  (∀ f, { t.fnOf f with rings := (s.fnOf f).rings, pendingBits := (s.fnOf f).pendingBits } = s.fnOf f)

/-- The command by which the host sends a descriptor on a pair: every opcode of Table 11-4 has one, and no other. -/
def descCmd (i : RingId) (d : Desc) : Option Instr :=
  match d.op with
  | .nop => some (.nop i d.hdr)
  | .scanArm o => some (.scanArm i d.hdr o)
  | .scanDisarm n => some (.scanDisarm i d.hdr n)
  | .calRun o => some (.calRun i d.hdr o)
  | .imageRead o a => some (.imageRead i d.hdr o a)
  | .seqStep o a => some (.seqStep i d.hdr o a)
  | .tailorStep o a => some (.tailorStep i d.hdr o a)
  | .planLoad o => some (.planLoad i d.hdr o)
  | .planUnload n => some (.planUnload i d.hdr n)
  | .wardrobePin o => some (.wardrobePin i d.hdr o)
  | .ptEdit o => some (.ptEdit i d.hdr o)
  | .pegWait o => some (.pegWait i d.hdr o)
  | .pegSignal o => some (.pegSignal i d.hdr o)
  | .foldOpen => some (.foldOpen i d.hdr)
  | .foldClose f => some (.foldClose i d.hdr f)
  | .snapshot o => some (.snapshot i d.hdr o)
  | .windowOpen o => some (.windowOpen i d.hdr o)
  | .windowClose n => some (.windowClose i d.hdr n)
  | .twinDma o a => some (.twinDma i d.hdr o a)
  | .testRun o => some (.testRun i d.hdr o)
  | .unknown _ => none

end Sys2Proof.Machine
end

