-- ==== Sys2Proof/WellFormed.lean ====
section
/-! DEFINITION. Which commands are well formed: every operand lies in the width or range that the spec gives its field
(R281 and Tables 11-3 and 11-5 for descriptors, Table 05-1 for tile-store places, R367 for the machine port, Table 02-5 for
line packets, Tables 15-1 to 15-3 for twin frames). A command that is not well formed cannot be sent: its field has no such value. -/

namespace Sys2Proof

/-- Does a number fit a field of `n` bytes? -/
def fits (n v : Nat) : Bool := decide (v < 2 ^ (8 * n))

/-- A header's fields fit Table 11-3. -/
def Hdr.wf (h : Hdr) : Bool := fits 2 h.complPeg

/-- Opcodes of Table 11-4. -/
def listedOpcode (n : Nat) : Bool :=
  decide (n ∈ [0x00, 0x01, 0x02, 0x03, 0x10, 0x11, 0x12, 0x20, 0x21, 0x22, 0x30, 0x40, 0x41, 0x48, 0x49, 0x50, 0x60, 0x61, 0x62, 0x70])

def ScanArmOp.wf (o : ScanArmOp) : Bool := fits 1 o.track && fits 1 o.sides && fits 4 o.plan
def CalRunOp.wf (o : CalRunOp) : Bool := fits 1 o.port && fits 8 o.addr && fits 4 o.len
def ImageReadOp.wf (o : ImageReadOp) : Bool :=
  fits 4 o.plan && fits 1 o.cls && fits 1 o.prio && fits 1 o.coding && fits 1 o.outputs && fits 8 o.inAddr && fits 4 o.inLen &&
  fits 4 o.width && fits 4 o.height && fits 1 o.comps && fits 1 o.bits && fits 8 o.pbAddr && fits 4 o.pbLen
def SeqStepOp.wf (o : SeqStepOp) : Bool :=
  fits 4 o.plan && fits 1 o.cls && fits 1 o.prio && fits 2 o.flags && fits 4 o.seq && fits 4 o.limit && fits 8 o.tokAddr &&
  fits 4 o.tokCount
def TailorStepOp.wf (o : TailorStepOp) : Bool :=
  fits 4 o.plan && fits 1 o.flags && fits 2 o.count && fits 8 o.listAddr && fits 4 o.listLen
def PlanLoadOp.wf (o : PlanLoadOp) : Bool :=
  fits 8 o.addr && fits 8 o.len && fits 8 o.allotment && fits 8 o.repAddr && fits 4 o.repLen && fits 4 o.rate && fits 2 o.width &&
  fits 1 o.offset && fits 1 o.tracks
def WardrobePinOp.wf (o : WardrobePinOp) : Bool := fits 4 o.plan && fits 1 o.op
def PtEditOp.wf (o : PtEditOp) : Bool :=
  fits 4 o.plan && fits 4 o.seq && fits 1 o.kind && fits 2 o.layer && fits 4 o.page && fits 4 o.srcSeq && fits 4 o.srcPage
def PegWaitOp.wf (o : PegWaitOp) : Bool := fits 2 o.peg && fits 4 o.timeout
def PegSignalOp.wf (o : PegSignalOp) : Bool := fits 2 o.peg && fits 1 o.op
def SnapshotOp.wf (o : SnapshotOp) : Bool := fits 8 o.T && fits 8 o.addr && fits 4 o.len && fits 4 o.mask
def WindowOpenOp.wf (o : WindowOpenOp) : Bool := fits 1 o.win && fits 1 o.target && fits 1 o.access && fits 8 o.base && fits 8 o.len
def TwinDmaOp.wf (o : TwinDmaOp) : Bool := fits 1 o.win && fits 1 o.src && fits 8 o.srcAddr && fits 8 o.off && fits 8 o.len
def TestRunOp.wf (o : TestRunOp) : Bool := fits 2 o.test && fits 2 o.tile && fits 4 o.addr && fits 8 o.host && fits 4 o.len

/-- A descriptor's operands fit Table 11-5. -/
def DescOp.wf : DescOp → Bool
  | .nop | .foldOpen => true
  | .scanArm o => o.wf
  | .scanDisarm t => fits 1 t
  | .calRun o => o.wf
  | .imageRead o _ => o.wf
  | .seqStep o _ => o.wf
  | .tailorStep o _ => o.wf
  | .planLoad o => o.wf
  | .planUnload p => fits 4 p
  | .wardrobePin o => o.wf
  | .ptEdit o => o.wf
  | .pegWait o => o.wf
  | .pegSignal o => o.wf
  | .foldClose f => fits 1 f
  | .snapshot o => o.wf
  | .windowOpen o => o.wf
  | .windowClose w => fits 1 w
  | .twinDma o _ => o.wf
  | .testRun o => o.wf
  | .unknown n => fits 1 n && !listedOpcode n

/-- A descriptor fits its 64 bytes. -/
def Desc.wf (d : Desc) : Bool := d.hdr.wf && d.op.wf

/-- A place in the tile store: tile, bank and row of Tables 05-1 and 05-2. -/
def placeWf (tile bank row : Nat) : Bool := decide (tile < 256) && decide (bank < 32) && decide (row < 1568)

/-- Is a command well formed? -/
def Instr.wf : Instr → Bool
  | .linePacket _ lanes => decide (lanes.length = 8)
  | .segmentBoundary w => w.cells.all (fun c => decide (c.tile < 256) && decide (c.cell < 24)) && w.dram.all fun e => decide (e.1 < 32) && decide (e.2 < 2 ^ 32)
  | .seqWatchdogExpiry _ tile | .endMarkMissing _ tile | .spareReloadDone tile | .lintOverdue tile => decide (tile < 256)
  | .lintUnit tile _ _ _ => decide (tile < 256)
  | .scrubRead tile bank row | .fieldDarn tile bank row => placeWf tile bank row
  | .thermalSample regions _ dram => decide (regions.length = 8) && regions.all (fun r => r.length == 4) && decide (dram.length = 4)
  | .doorbellLineArrived _ line _ _ => decide (line.length = 64)
  | .descriptorFetched _ bytes _ => decide (bytes.length = 64)
  | .nop _ h | .foldOpen _ h => h.wf
  | .scanArm _ h o => h.wf && o.wf
  | .scanDisarm _ h t => h.wf && fits 1 t
  | .calRun _ h o => h.wf && o.wf
  | .imageRead _ h o _ => h.wf && o.wf
  | .seqStep _ h o _ => h.wf && o.wf
  | .tailorStep _ h o _ => h.wf && o.wf
  | .planLoad _ h o => h.wf && o.wf
  | .planUnload _ h p => h.wf && fits 4 p
  | .wardrobePin _ h o => h.wf && o.wf
  | .ptEdit _ h o => h.wf && o.wf
  | .pegWait _ h o => h.wf && o.wf
  | .pegSignal _ h o => h.wf && o.wf
  | .foldClose _ h f => h.wf && fits 1 f
  | .snapshot _ h o => h.wf && o.wf
  | .windowOpen _ h o => h.wf && o.wf
  | .windowClose _ h w => h.wf && fits 1 w
  | .twinDma _ h o _ => h.wf && o.wf
  | .testRun _ h o => h.wf && o.wf
  | .windowState _ win access len => fits 1 win && fits 1 access && fits 8 len
  | .pair _ _ _ serial => decide (serial.length = 16)
  | .twinWrite _ f => fits 1 f.win && fits 4 f.xfer && fits 8 f.off
  | .writeDone _ xfer status => fits 4 xfer && fits 2 status
  | .registerWrite _ off size _ => decide (off < 1048576) && (size == 4 || size == 8) && decide (off % size = 0)
  | _ => true

end Sys2Proof
end

