-- ==== Sys2Proof/Certificates/Slice0/Obligations.lean ====
section
/-! DEFINITION. Statements about the model, from the rules of spec/ and the model's own conventions (named as such, with their log entry). -/

open Sys2Proof Sys2Proof.Machine

/-- A step takes the command at the front of the queue and is exec of it at the state with the queue's rest: the block's one way of running a command (log 1,
the model's queue). -/
def Obligations.StepTakesFront : Prop :=
  ∀ (c : Instr) (cs : List Instr) (s : State), s.pending = c :: cs → step s = exec c { s with pending := cs }

/-- On an empty queue the block idles: a stopped clock leaves everything as it is (R439, R441: without the root PLL the time base does not count), a running
one makes one fabric cycle, which moves neither the queue nor the bring-up stage nor the verdict table (the model's choice, log 2). -/
def Obligations.StepIdles : Prop :=
  ∀ s : State, s.pending = [] →
    (s.clk.running = false → step s = .next s) ∧
    (∃ t, step s = .next t ∧ t.pending = [] ∧ t.boot.stage = s.boot.stage ∧ t.port.table = s.port.table)

/-- After power-on reset the module stands at S0 (R448) with its clock not yet counting, no peg, job, plan, sequence, fold or ring under way (R303, R444),
only function 0 enabled (R281), the verdict table zero (R370), both outputs FEED_HOLD asserted by the SCAN_DISARM cause (R375), pieces numbered from 0 (R15),
SOLO (Table 15-5), and no command waiting. The reset state is sound: its verdict table, its stage and its tile-store memory meet the invariants of the next
statements. The inputs, straps and flash at reset are the model's choice (log 14). -/
def Obligations.ResetSound : Prop :=
  (State.reset.boot.stage = 0 ∧ State.reset.clk.timeBase = 0 ∧ State.reset.clk.running = false ∧
    (∀ n, State.reset.peg n = 0) ∧ State.reset.sched.jobs = [] ∧ State.reset.plans.loaded = [] ∧ State.reset.pool.seqs = [] ∧
    State.reset.commitQ = [] ∧ (∀ f : Fn, (State.reset.fnOf f).enabled = decide (f.val = 0)) ∧
    (∀ (f : Fn) (p : Fin 8), ((State.reset.fnOf f).rings[p.val]).enable = false ∧ ((State.reset.fnOf f).rings[p.val]).fetched = []) ∧
    (∀ i : Fin 256, State.reset.port.table[i.val] = zeros 16) ∧ feedHold State.reset .A = true ∧ feedHold State.reset .B = true ∧
    State.reset.nextPiece = 0 ∧ State.reset.twin.state = .solo ∧ State.reset.pending = []) ∧
  (tableOk State.reset ∧ stageOk State.reset ∧ memoryOk State.reset)

/-- No command touches the commands that wait behind it. -/
def Obligations.QueueUntouched : Prop :=
  ∀ (c : Instr) (s t : State), exec c s = .next t → t.pending = s.pending

/-- The bring-up stage stays one of S0 to S6, and a step leaves it, raises it by one, or resets it to S0: the stages are passed in order (R448). -/
def Obligations.StageMoves : Prop :=
  ∀ s t : State, stageOk s → step s = .next t → stageOk t ∧ stageMoves s t

/-- Every entry of the verdict table stays either zero or 16 bytes closed by their XOR check byte, whatever the step (R369, Table 14-6). -/
def Obligations.VerdictTableSound : Prop :=
  ∀ s t : State, tableOk s → step s = .next t → tableOk t

/-- Every command of the table completes in every state, but for a TAP instruction other than BYPASS and IDCODE while the blob in force opens the debug port
(R488), which is refused: exec answers a next state, never a fault. The TAP: BYPASS gives TDI, IDCODE gives the 32-bit code, and with the debug port closed no
other instruction does anything (R488). What the port does while the debug port is open is the model's choice (log 39). -/
def Obligations.NoStop : Prop :=
  (∀ (c : Instr) (s : State),
      ((∀ v, c = .testAccessPort (.other v) → s.sec.blob.debugOpen = false) → ∃ t, exec c s = .next t ∧ t.pending = s.pending) ∧
      (∀ f, exec c s ≠ .fault f) ∧
      (∀ r, exec c s = .refused r ↔ r = .debugPortOpen ∧ (∃ v, c = .testAccessPort (.other v)) ∧ s.sec.blob.debugOpen = true)) ∧
  (∀ s : State,
      (∀ b, exec (.testAccessPort (.bypass b)) s = .next { s with out := s.out ++ [.tap (if b then 1 else 0)] }) ∧
      exec (.testAccessPort .idcode) s = .next { s with out := s.out ++ [.tap idcode] } ∧
      (∀ v, s.sec.blob.debugOpen = false → exec (.testAccessPort (.other v)) s = .next s))

/-- Every descriptor whose fields fit Table 11-5 is read back from its 64 bytes with every operand at every value (R281, Tables 11-3 to 11-5). -/
def Obligations.DescriptorRoundTrip : Prop :=
  ∀ d : Desc, d.wf = true → (encodeDesc d).length = 64 ∧ parseDesc (encodeDesc d) (auxOf d.op) = d

/-- Port space (R365, Table 14-2): a READ answers byte by byte from the verdict table, then the status block, and 0 elsewhere, with the address rising and
wrapping, and a standby shows every entry of the table as not posted (Table 15-5); a WRITE to any other address than a control word's, or of another length,
is ignored and counted. Nothing else changes. -/
def Obligations.PortSpace : Prop :=
  ∀ s : State, portAnswers s = true →
    (∀ (a : Word32) (n : Nat), ∃ (bs : List Byte) (t : State), exec (.read a n) s = .next t ∧ t.out = s.out ++ [.portData bs] ∧
      { t with out := s.out, cnt := s.cnt } = s ∧ bs.length = n ∧
      ∀ i, i < n → bs.getD i 0 =
        let b := (a.toNat + i) % 4294967296
        if b < 4096 then (if s.twin.state = .standby then 0 else (s.port.table.toList.getD (b / 16) []).getD (b % 16) 0)
        else if b < 4160 then (statusBlock s).getD (b - 4096) 0 else 0) ∧
    (∀ (a : Word32) (d : List Byte), ¬ (a = 0x2000 ∧ d.length = 1) → ¬ (a = 0x2004 ∧ d.length = 4) →
      ∃ t, exec (.write a d) s = .next t ∧ t.port.errors = s.port.errors + 1 ∧
        { t with port := { t.port with errors := s.port.errors }, cnt := s.cnt } = s)

/-- The control words (R42, R373, Tables 14-1 and 14-4): RATE_ACKNOWLEDGE and a one-byte WRITE to 0x2000 take a track's rate request back and with it the rate
cause of FEED_HOLD, and count a bit of a track without a request; the configuration word and a four-byte WRITE to 0x2004 set the dummy cycles (8 to 20) and
the mode, or are ignored and counted. -/
def Obligations.PortControlWords : Prop :=
  ∀ s : State, portAnswers s = true →
    (∀ v : Byte, exec (.write 0x2000 [v]) s = exec (.rateAcknowledge v) s ∧
      ∃ u, exec (.rateAcknowledge v) s = .next u ∧
        (∀ t : Track, bitAt v.toNat (trackNum t) = true ∧ (s.track t).rateReq = true →
          u.track t = { s.track t with rateReq := false, hold := { (s.track t).hold with rate := false } }) ∧
        (∀ t : Track, ¬ (bitAt v.toNat (trackNum t) = true ∧ (s.track t).rateReq = true) → u.track t = s.track t) ∧
        u.port.errors = s.port.errors + BitVec.ofNat 32 (b2n (bitAt v.toNat 0 && !s.trackA.rateReq) + b2n (bitAt v.toNat 1 && !s.trackB.rateReq)) ∧
        { u with trackA := s.trackA, trackB := s.trackB, port := s.port, cnt := s.cnt } = s) ∧
    (∀ d : List Byte, d.length = 4 → exec (.write 0x2004 d) s = exec (.configurationWord (BitVec.ofNat 32 (leNat d))) s) ∧
    (∀ v : Word32, 8 ≤ v.toNat % 32 → v.toNat % 32 ≤ 20 → v.toNat / 32 % 8 = 0 → v.toNat < 512 →
      ∃ u, exec (.configurationWord v) s = .next u ∧ u.port = { s.port with dummies := v.toNat % 32, octal := decide (256 ≤ v.toNat) } ∧
        { u with port := s.port, cnt := s.cnt } = s) ∧
    (∀ v : Word32, ¬ (8 ≤ v.toNat % 32 ∧ v.toNat % 32 ≤ 20 ∧ v.toNat / 32 % 8 = 0 ∧ v.toNat < 512) →
      ∃ u, exec (.configurationWord v) s = .next u ∧ u.port = { s.port with errors := s.port.errors + 1 } ∧ { u with port := s.port, cnt := s.cnt } = s)

/-- READ_ID, PORT_RESET and a wrong command word (R362, R364, Table 14-1): the eight identity bytes; the mode of the MP_OCTAL strap with 20 dummy cycles and
nothing else; an opcode with a wrong inverse, or one the port does not know, is ignored and counted, and a known one with its inverse is not. A port that does
not answer (before S2, R377; in a held reset or without rails; fenced, R390) does nothing on any command. The status block is 64 bytes and shows, where Table
14-3 puts them, the next piece number, each track's last piece and commits, its hold causes beside the output's level, the armed rates, the alert causes, the
highest stage reached, the encoder positions and the port's error count (R372, R448). -/
def Obligations.PortAnswers : Prop :=
  (∀ s : State, portAnswers s = true →
      (∃ t, exec .readId s = .next t ∧ t.out = s.out ++ [.portData [0x46, 0x41, 0x00, 0x94, Config.stepping, Config.issue, 1, 0]] ∧
        { t with out := s.out, cnt := s.cnt } = s) ∧
      (∃ t, exec .portReset s = .next t ∧ t.port = { s.port with octal := s.boot.mpOctal, dummies := 20 } ∧ { t with port := s.port, cnt := s.cnt } = s) ∧
      (∀ op inv : Byte, (inv ≠ op ^^^ 0xFF ∨ op ∉ [0xB1, 0xC6, 0x9F, 0x99]) →
        ∃ t, exec (.badCommandInverse op inv) s = .next t ∧ t.port = { s.port with errors := s.port.errors + 1 } ∧ { t with port := s.port, cnt := s.cnt } = s) ∧
      (∀ op : Byte, op ∈ [0xB1, 0xC6, 0x9F, 0x99] → exec (.badCommandInverse op (op ^^^ 0xFF)) s = .next s)) ∧
  (∀ s : State, (s.boot.stage < 2 ∨ s.pwr.held ≠ .no ∨ s.pwr.rails = false ∨ s.twin.fenced = true) → ∀ c : Instr,
      ((∃ a n, c = .read a n) ∨ (∃ a d, c = .write a d) ∨ (∃ v, c = .rateAcknowledge v) ∨ (∃ v, c = .configurationWord v) ∨ c = .readId ∨ c = .portReset ∨
        (∃ a b, c = .badCommandInverse a b)) → exec c s = .next s) ∧
  (∀ s : State, stageOk s →
      (statusBlock s).length = 64 ∧ slice (statusBlock s) 0 4 = leBytes 4 s.nextPiece.toNat ∧
      slice (statusBlock s) 4 4 = leBytes 4 s.trackA.lastPiece.toNat ∧ slice (statusBlock s) 8 4 = leBytes 4 s.trackB.lastPiece.toNat ∧
      slice (statusBlock s) 12 4 = leBytes 4 s.trackA.commits.toNat ∧ slice (statusBlock s) 16 4 = leBytes 4 s.trackB.commits.toNat ∧
      slice (statusBlock s) 20 1 = leBytes 1 (s.trackA.hold.bits + 128 * b2n (feedHold s .A)) ∧
      slice (statusBlock s) 21 1 = leBytes 1 (s.trackB.hold.bits + 128 * b2n (feedHold s .B)) ∧
      slice (statusBlock s) 24 4 = leBytes 4 s.trackA.armedMax ∧ slice (statusBlock s) 28 4 = leBytes 4 s.trackB.armedMax ∧
      slice (statusBlock s) 32 2 = leBytes 2 (alertCauses s) ∧ slice (statusBlock s) 35 1 = [BitVec.ofNat 8 s.boot.stage] ∧
      slice (statusBlock s) 36 4 = leBytes 4 (toBits s.trackA.position 32) ∧ slice (statusBlock s) 40 4 = leBytes 4 (toBits s.trackB.position 32) ∧
      slice (statusBlock s) 44 4 = leBytes 4 s.port.errors.toNat)

/-- A module reset (R444, R445, Table 18-6), from RESET_N (cause 1), PERST# (2), the PF's PWR_CTRL.reset once registers are usable (3) and the loss of REFCLK,
which holds it until REFCLK is back (5, R443): everything in its scope is as at power-on, with the SCAN_DISARM cause on both tracks, and what it keeps is as
before. Which health tables a module reset keeps is the model's reading (log 53). -/
def Obligations.ModuleResets : Prop :=
  ∀ s : State,
    (s.pwr.rails = true → ∀ (c : Instr) (cause : Nat) (held : Held),
      ((c = .resetN ∧ cause = 1 ∧ held = s.pwr.held) ∨ (c = .perst ∧ cause = 2 ∧ held = s.pwr.held) ∨
        (c = .pwrCtrlReset ∧ 2 ≤ s.boot.stage ∧ cause = 3 ∧ held = s.pwr.held) ∨
        (c = .refclkLoss ∧ cause = 5 ∧ held = if s.pwr.held = .thermal then .thermal else .clockLoss)) →
      ∃ t, exec c s = .next t ∧ wasReset s t ∧ t.boot.resetCause = cause ∧ t.pwr.held = held ∧
        t.sched.acct = s.sched.acct ∧ t.store.darn = s.store.darn ∧ t.store.badPatch = s.store.badPatch ∧ t.store.recent = s.store.recent ∧
        t.health.last = s.health.last ∧ t.pwr.tripSensor = s.pwr.tripSensor ∧ t.pwr.tripIndex = s.pwr.tripIndex) ∧
    (s.pwr.held = .clockLoss → ∃ t, exec .refclkRestored s = .next t ∧ t.pwr = { s.pwr with held := .no } ∧ t.clk = { s.clk with refclkOk := true } ∧
      { t with clk := s.clk, pwr := s.pwr } = s)

/-- The supply inputs (R434, R435): a main input that falls moves the load to a good auxiliary input, one that returns takes it back, each move logged as kind
17 and counted, with no reset; the auxiliary input alone changes nothing but PWR_STATUS; both low start the hold-up and, once the ROM runs, the DEVICE error.
A power-on reset (R444, Table 18-6) clears everything but the flash, accounting, darn tables and error counts included; it needs an input that has returned
(R434). The end of the hold-up with no input good leaves the same state without rails (R435). What the end of the hold-up leaves is the model's reading (log
47). -/
def Obligations.PowerAndSupplies : Prop :=
  (∀ s : State, s.pwr.rails = true →
      (s.pwr.auxOk = true → s.pwr.onAux = false → ∃ t, exec .pwrMainLow s = .next t ∧
        t.pwr = { s.pwr with mainOk := false, onAux := true } ∧ t.boot = s.boot ∧ t.sched = s.sched ∧ t.plans = s.plans ∧ t.health.seq = s.health.seq + 1 ∧
        t.count famChip 0 53 = s.count famChip 0 53 + 1) ∧
      (s.pwr.onAux = true → ∃ t, exec .pwrMainReturn s = .next t ∧ t.pwr = { s.pwr with mainOk := true, onAux := false } ∧ t.boot = s.boot ∧ t.sched = s.sched ∧
        t.plans = s.plans ∧ t.health.seq = s.health.seq + 1) ∧
      (s.pwr.onAux = false → exec .pwrMainReturn s = .next { s with pwr := { s.pwr with mainOk := true } }) ∧
      (s.pwr.auxOk = false → exec .pwrMainLow s = .next { s with pwr := { s.pwr with mainOk := false } }) ∧
      (s.pwr.mainOk = false → s.pwr.onAux = false → ∃ t, exec .pwrAuxReturn s = .next t ∧ t.pwr = { s.pwr with auxOk := true, onAux := true } ∧ t.boot = s.boot ∧
        t.sched = s.sched ∧ t.plans = s.plans ∧ t.health.seq = s.health.seq + 1) ∧
      exec .pwrAuxLow s = .next { s with pwr := { s.pwr with auxOk := false } } ∧
      (s.pwr.mainOk = true → exec .pwrAuxReturn s = .next { s with pwr := { s.pwr with auxOk := true } }) ∧
      (s.pwr.holdUp = false → s.pwr.held = .no → s.pwr.device = false → 1 ≤ s.boot.stage → ∃ t, exec .bothInputsLow s = .next t ∧
        t.pwr.mainOk = false ∧ t.pwr.auxOk = false ∧ t.pwr.holdUp = true ∧ deviceStands s t 1)) ∧
  (∀ s : State,
      (∀ m a : Bool, (m || a) = true → ∃ t, exec (.powerOnReset m a) s = .next t ∧ wasReset s t ∧ t.boot.resetCause = 0 ∧ t.pwr.rails = true ∧
        t.pwr.mainOk = m ∧ t.pwr.auxOk = a ∧ t.pwr.onAux = !m ∧ t.sched.acct = State.reset.sched.acct ∧ t.store = TileStore.reset ∧ t.health.last = []) ∧
      (s.pwr.holdUp = true → s.pwr.mainOk = false → s.pwr.auxOk = false →
        ∃ t, exec .holdUpEnd s = .next t ∧ wasReset s t ∧ t.pwr.rails = false ∧ t.store = TileStore.reset ∧ t.health.last = []) ∧
      (s.pwr.holdUp = true → (s.pwr.mainOk || s.pwr.auxOk) = true → exec .holdUpEnd s = .next { s with pwr := { s.pwr with holdUp := false } }))

/-- The clock (R439, R441, R443): the root PLL's lock starts the time base at 0 and stage S1; REFCLK's return ends the reset that its loss holds, and that
reset alone. Temperatures (R109, R437, R438): a sensor at its limit in two samples running trips the module into a held reset with its place in PWR_TRIP;
otherwise every region's throttle level moves by at most one and each DRAM die's refresh rate follows its own temperature; a tripped module is let go once
every sensor has cooled. The order in which the sensors are judged is the model's reading (log 53). -/
def Obligations.ClockAndTemperatures : Prop :=
  (∀ s : State,
      (s.boot.stage = 0 → s.clk.running = false → s.pwr.rails = true → s.pwr.held = .no → s.clk.refclkOk = true →
        ∃ t, exec .pllLock s = .next t ∧ t.clk = { s.clk with timeBase := 0, running := true, latch := none } ∧ t.boot = { s.boot with stage := 1 } ∧
          { t with clk := s.clk, boot := s.boot } = s) ∧
      (∃ t, exec .refclkRestored s = .next t ∧ t.clk = { s.clk with refclkOk := true } ∧
        t.pwr = { s.pwr with held := if s.pwr.held = .clockLoss then .no else s.pwr.held } ∧ { t with clk := s.clk, pwr := s.pwr } = s)) ∧
  (∀ (s : State) (rs : List (List Int)) (chip : Int) (dram : List Int), s.pwr.rails = true → rs.length = 8 → dram.length = 4 →
      (s.pwr.held = .no → s.clk.running = true →
        (∀ g : Fin 8, 120 ≤ regionTemp (rs.getD g.val []) → 1 ≤ s.pwr.tripRun.getD g.val 0 →
          (∀ k, k < g.val → regionTemp (rs.getD k []) < 120) →
          ∃ t, exec (.thermalSample rs chip dram) s = .next t ∧ wasReset s t ∧ t.boot.resetCause = 4 ∧ t.pwr.held = .thermal ∧ t.pwr.tripSensor = 1 ∧
            t.pwr.tripIndex = g.val) ∧
        ((∀ r ∈ rs, regionTemp r < 120) → chip < 120 → (∀ d ∈ dram, d < 95) →
          ∃ t, exec (.thermalSample rs chip dram) s = .next t ∧
            (∀ g : Region, let l := (s.reg8 g).thermal
              let x := regionTemp (rs.getD g.val [])
              t.reg8 g = { s.reg8 g with thermal := if 100 + 2 * (l : Int) < x ∧ l < 7 then l + 1 else if x < 95 + 2 * (l : Int) ∧ 0 < l then l - 1 else l }) ∧
            t.pwr = { s.pwr with tripRun := List.replicate 13 0, refresh2x := t.pwr.refresh2x } ∧
            (∀ k, k < s.pwr.refresh2x.length → t.pwr.refresh2x.getD k false =
              let d := dram.getD k 0
              if 85 < d then true else if d < 83 then false else s.pwr.refresh2x.getD k false) ∧
            { t with pwr := s.pwr, regions := s.regions } = s)) ∧
      (s.pwr.held = .thermal → (∀ r ∈ rs, regionTemp r < 90) → chip < 90 → (∀ d ∈ dram, d < 80) →
        exec (.thermalSample rs chip dram) s = .next { s with pwr := { s.pwr with held := if s.clk.refclkOk then .no else .clockLoss } }))

/-- Bring-up (R398, R399, R448, Table 18-7): the ROM boots the first qualifying slot, the newer one first, and logs entries 0 to 2, or goes to recovery; then
each event takes the module from its stage to the next, S5 with the tile store zeroed. The regions' firmware (R413, Table 18-7, Table 16-6): at S3 every
region runs the verified image's, and eight entries join the measurement log. The order of slots with equal versions is the model's reading (log 54). -/
def Obligations.BringUp : Prop :=
  (∀ s : State,
      (∀ f : RomFacts, s.boot.stage = 1 → s.sec.logCount = 0 → s.boot.recovery = false → f.pufOk = true →
        (∀ slot i, f.recoveryStrap = false → (if slot then s.sec.flash.slotB else s.sec.flash.slotA) = some i → imageQualifies (readRecords s).sec.floor i = true →
          (∀ k, (if slot then s.sec.flash.slotA else s.sec.flash.slotB) = some k → imageQualifies (readRecords s).sec.floor k = false ∨ k.version < i.version) →
          ∃ t, exec (.romBoot f) s = .next t ∧ t.boot.slot = slot ∧ t.boot.recovery = false ∧ t.boot.stage = 1 ∧ t.sec.version = i.version ∧ t.sec.logCount = 3 ∧
            t.boot.mpOctal = f.mpOctal ∧ t.port.octal = f.mpOctal ∧ { t with boot := s.boot, sec := s.sec, port := s.port } = s) ∧
        ((slotOrder (readRecords s).sec.flash).all (fun x => !imageQualifies (readRecords s).sec.floor x.2) = true →
          ∃ t, exec (.romBoot f) s = .next t ∧ t.boot.recovery = true ∧ t.boot.stage = 1 ∧ t.sec.logCount = 0 ∧
            { t with boot := s.boot, sec := s.sec, port := s.port } = s) ∧
        (f.recoveryStrap = true →
          ∃ t, exec (.romBoot f) s = .next t ∧ t.boot.recovery = true ∧ t.boot.stage = 1 ∧ t.sec.logCount = 0 ∧
            { t with boot := s.boot, sec := s.sec, port := s.port } = s)) ∧
      (∀ f : RomFacts, s.boot.stage = 1 → s.sec.logCount = 0 → s.boot.recovery = false → f.pufOk = false →
        ∃ t, exec (.romBoot f) s = .next t ∧ t.boot.pufFail = true ∧ t.boot.stage = 1 ∧ t.sec = s.sec ∧ { t with boot := s.boot, port := s.port } = s) ∧
      (s.boot.stage = 1 → s.sec.logCount ≠ 0 → exec .firmwareRunning s = .next { s with boot := { s.boot with stage := 2 } }) ∧
      (s.boot.stage = 2 → ∃ t, exec .regionFirmwareLoaded s = .next t ∧ t.boot.stage = 3 ∧ t.pending = s.pending ∧ t.port.table = s.port.table) ∧
      (s.boot.stage = 3 → ∃ t, exec (.dramTrained true) s = .next t ∧ t.boot = { s.boot with stage := 4 } ∧
        { t with boot := s.boot, trackA := s.trackA, trackB := s.trackB } = s) ∧
      (s.boot.stage = 3 → exec (.dramTrained false) s = .next { s with boot := { s.boot with dramFail := true } }) ∧
      (s.boot.stage = 4 → firstLightOver s = true → ∃ t, exec .bringupS5Start s = .next t ∧ t.boot = { s.boot with stage := 5 } ∧ (∀ a, memByte t.store.mem a = 0) ∧
        { t with boot := s.boot, store := s.store } = s) ∧
      (∀ rows tiles, s.boot.stage = 5 → ∃ t, exec (.fabricTestsDone rows tiles) s = .next t ∧
        (t.boot.stage = 6 ∨ t.boot.stage = 5 ∧ t.boot.fabricFail = true ∧ ∀ g : Region, (t.reg8 g).failed = true) ∧
        ∀ g : Region, rows = [] → (s.reg8 g).spares < (tiles.eraseDups.filter fun x => x / 32 == g.val).length → (t.reg8 g).failed = true) ∧
      (s.boot.stage = 5 → (∃ g : Region, (s.reg8 g).failed = false) → ∃ t, exec (.fabricTestsDone [] []) s = .next t ∧ t.boot.stage = 6 ∧
        t.pending = s.pending ∧ t.port.table = s.port.table) ∧
      (s.boot.stage = 5 → (∀ g : Region, (s.reg8 g).failed = true) → exec (.fabricTestsDone [] []) s = .next { s with boot := { s.boot with fabricFail := true } })) ∧
  (∀ s : State, s.boot.stage = 2 → quiet s = true →
      ∃ t, exec .regionFirmwareLoaded s = .next t ∧ t.boot = { s.boot with stage := 3 } ∧ (∀ g : Region, (t.reg8 g).fw = some s.sec.regionImage) ∧
        t.sec.logCount = s.sec.logCount + 8 ∧ { t with boot := s.boot, sec := s.sec, regions := s.regions } = s)

/-- The PF's SR-IOV enables (R281, Table 20-3): the VFs named, up to the blob's number, become enabled and the others disabled, which clears them, and with
none to disable nothing else changes. Function and host-interface resets (R315, R446, R463): a Function Level Reset of an enabled VF clears that function's
pairs, record ring and pegs, leaves it enabled and disables no pair of another; a host-interface reset, with its health entry where the link had an error, and
a Function Level Reset of the PF, clear every enabled function and disable the VFs. In a module with no job, plan, fold or SNAPSHOT, and with no post in the
basket, they leave every other function as it was, and neither touches the feed path. What a function reset keeps is the model's reading (log 46). -/
def Obligations.FunctionResets : Prop :=
  (∀ (s : State) (m : Half), 2 ≤ s.boot.stage → (∀ f : Fn, f.val ≠ 0 → (s.fnOf f).enabled = true → bitAt m.toNat f.val = true ∧ f.val ≤ s.sec.blob.vfs) →
      ∃ t, exec (.vfEnable m) s = .next t ∧
        (∀ f : Fn, f.val ≠ 0 → t.fnOf f = { s.fnOf f with enabled := bitAt m.toNat f.val && decide (f.val ≤ s.sec.blob.vfs) }) ∧ t.fnOf 0 = s.fnOf 0 ∧
        { t with fns := s.fns, regs := s.regs } = s) ∧
  (∀ (s : State) (m : Half), 2 ≤ s.boot.stage → ∃ t, exec (.vfEnable m) s = .next t ∧
      (∀ f : Fn, f.val ≠ 0 → (t.fnOf f).enabled = (bitAt m.toNat f.val && decide (f.val ≤ s.sec.blob.vfs)) ∧
        ((s.fnOf f).enabled = true → (t.fnOf f).enabled = false → fnCleared t f))) ∧
  (∀ s : State,
      (∀ fn : Fn, fn.val ≠ 0 → (s.fnOf fn).enabled = true → ∃ t, exec (.functionLevelReset fn) s = .next t ∧ fnCleared t fn ∧ (t.fnOf fn).enabled = true ∧
        (∀ f, f ≠ fn → (t.fnOf f).enabled = (s.fnOf f).enabled ∧ (t.fnOf f).recEnable = (s.fnOf f).recEnable ∧
          ∀ p : Fin 8, ((t.fnOf f).rings[p.val]).enable = ((s.fnOf f).rings[p.val]).enable)) ∧
      (∀ b, ∃ t, exec (.hostInterfaceReset b) s = .next t ∧ fnCleared t 0 ∧ (∀ f : Fn, f.val ≠ 0 → (t.fnOf f).enabled = false ∧
        ((s.fnOf f).enabled = true → fnCleared t f)) ∧ regGet t 0 0x1044 = 0 ∧ (b = true → s.health.seq < t.health.seq)) ∧
      (∃ t, exec (.functionLevelReset 0) s = .next t ∧ exec (.hostInterfaceReset false) s = .next t ∧ fnCleared t 0)) ∧
  (∀ s : State, s.sched.jobs = [] → s.plans.loaded = [] → s.plans.loadQ = [] → (∀ k, bankOf s k = none) →
      (∀ (f : Fn) (p : Fin 8), ((s.fnOf f).rings[p.val]).fold = none ∧ ((s.fnOf f).rings[p.val]).closed = []) →
      s.basket.committed = [] → s.basket.hold = false → basketUsed s ≤ mib * basketHigh s →
      (∀ fn : Fn, fn.val ≠ 0 → (s.fnOf fn).enabled = true → ∃ t, exec (.functionLevelReset fn) s = .next t ∧ fnCleared t fn ∧ (t.fnOf fn).enabled = true ∧
        (∀ f, f ≠ fn → t.fnOf f = s.fnOf f) ∧ { t with fns := s.fns, pegs := s.pegs, pool := s.pool } = s) ∧
      (∃ t, exec (.hostInterfaceReset false) s = .next t ∧ exec (.functionLevelReset 0) s = .next t ∧ fnCleared t 0 ∧
        (∀ f : Fn, f.val ≠ 0 → (t.fnOf f).enabled = false ∧ ((s.fnOf f).enabled = true → fnCleared t f)) ∧ regGet t 0 0x1044 = 0 ∧
        { t with fns := s.fns, pegs := s.pegs, pool := s.pool, regs := s.regs } = s))

/-- A DEVICE error (R423, R435, Table 17-2), from a chip-level parity or RAM error of any unit or from both supplies low: it stands until a reset, every
verdict fold is aborted, FEED_HOLD stands on both tracks, alert cause 5 shows, and the last entry kept for HEALTH_LAST is kind 24 with the cause. A module
that already waits for its reset takes no second one (the model's reading, log 53). A REGION error (R421, Table 17-2: ring retries exhausted, kind 10; a
region controller's uncorrectable error, kind 12): the region is failed and DRAINED with no passed test, no other region fails, the alert and cause 5 stand
and the error is logged; in a module with no job and no plan and with the region free of reserved tiles nothing else changes. That folds abort without
completions is the model's reading (log 63). -/
def Obligations.HardErrors : Prop :=
  (∀ s : State,
      (s.pwr.device = false → ∀ u : Fin 3, ∃ t, exec (.chipParityError u) s = .next t ∧ deviceStands s t (u.val + 2)) ∧
      (s.pwr.device = false → s.pwr.rails = true → s.pwr.holdUp = false → s.pwr.held = .no → 1 ≤ s.boot.stage → ∃ t, exec .bothInputsLow s = .next t ∧ deviceStands s t 1) ∧
      (s.pwr.device = true → ∀ u : Fin 3, exec (.chipParityError u) s = .next s)) ∧
  (∀ (s : State) (g : Region) (c : Instr), c = .ringRetryExhausted g ∨ c = .regionControllerError g →
      ∃ t, exec c s = .next t ∧ (t.reg8 g).failed = true ∧ (t.reg8 g).state = 2 ∧ (t.reg8 g).test3 = false ∧
        (∀ k : Region, k ≠ g → (t.reg8 k).failed = (s.reg8 k).failed) ∧ t.health.alert = true ∧ alertCauses t / 32 % 2 = 1 ∧ s.health.seq < t.health.seq) ∧
  (∀ (s : State) (g : Region), idleModule s → (∀ p : Port, ∀ x ∈ (s.lp p).reserved, x.1 / 32 ≠ g.val) →
      ∀ (c : Instr) (kind : Nat), ((c = .ringRetryExhausted g ∧ kind = 10) ∨ (c = .regionControllerError g ∧ kind = 12)) →
        ∃ t, exec c s = .next t ∧ t.reg8 g = { s.reg8 g with failed := true, state := 2, test3 := false } ∧ (∀ k : Region, k ≠ g → t.reg8 k = s.reg8 k) ∧
          t.health.alert = true ∧ alertCauses t / 32 % 2 = 1 ∧ (∃ e ∈ t.health.last, e.kind = kind ∧ e.region = some g.val ∧ e.status = some .regionLost) ∧
          { t with regions := s.regions, health := s.health, out := s.out, cnt := s.cnt, pegs := s.pegs, fns := s.fns } = s)

/-- Draining and serving (R108, R419, Table 20-12): a SERVING region named is DRAINING while a tile of it is reserved or runs a job and DRAINED otherwise; a
DRAINED region named serves again unless it is failed and has not passed test 3, and is then whole; no other region moves. In a module with no job and no plan
nothing else changes. -/
def Obligations.DrainAndServe : Prop :=
  (∀ (s : State) (m : Byte),
    (∃ t, exec (.regionDrain m) s = .next t ∧
      ((∃ g : Region, bitAt m.toNat g.val = true ∧ (s.reg8 g).state = 0) → ∀ g : Region,
        (t.reg8 g).state = if (bitAt m.toNat g.val = true ∧ (s.reg8 g).state = 0) ∨ (s.reg8 g).state = 1 then (if regionHeld s g.val then 1 else 2) else (s.reg8 g).state) ∧
      ((∀ g : Region, bitAt m.toNat g.val = true → (s.reg8 g).state ≠ 0) → t = s) ∧ { t with regions := s.regions, plans := s.plans } = s) ∧
    (∃ t, exec (.regionServe m) s = .next t ∧ ∀ g : Region,
      (bitAt m.toNat g.val = true → (s.reg8 g).state = 2 → ((s.reg8 g).failed = false ∨ (s.reg8 g).test3 = true) → (t.reg8 g).state = 0 ∧ (t.reg8 g).failed = false) ∧
      (¬ (bitAt m.toNat g.val = true ∧ (s.reg8 g).state = 2 ∧ ((s.reg8 g).failed = false ∨ (s.reg8 g).test3 = true)) →
        (t.reg8 g).state = (s.reg8 g).state ∧ (t.reg8 g).failed = (s.reg8 g).failed))) ∧
  ∀ (s : State) (m : Byte), idleModule s →
    ((∃ g : Region, bitAt m.toNat g.val = true ∧ (s.reg8 g).state = 0) → ∃ t, exec (.regionDrain m) s = .next t ∧
      (∀ g : Region, (t.reg8 g).state = if (bitAt m.toNat g.val = true ∧ (s.reg8 g).state = 0) ∨ (s.reg8 g).state = 1 then (if regionHeld s g.val then 1 else 2)
        else (s.reg8 g).state) ∧
      (∀ g : Region, { t.reg8 g with state := (s.reg8 g).state } = s.reg8 g) ∧ { t with regions := s.regions } = s) ∧
    (∃ t, exec (.regionServe m) s = .next t ∧
      (∀ g : Region, t.reg8 g = if bitAt m.toNat g.val = true ∧ (s.reg8 g).state = 2 ∧ ((s.reg8 g).failed = false ∨ (s.reg8 g).test3 = true)
        then { s.reg8 g with state := 0, failed := false } else s.reg8 g) ∧
      { t with regions := s.regions, health := s.health, out := s.out, cnt := s.cnt, pegs := s.pegs, fns := s.fns } = s)

/-- Alert cause 5 (R424): writing 1 to HEALTH_STATUS.alert clears the alert bit and nothing else, so that the cause goes unless a DEVICE error stands, and
every reset of the module ends a DEVICE error's. -/
def Obligations.AlertCause : Prop :=
  ∀ s : State,
    exec .healthAlertClear s = .next { s with health := { s.health with alert := false } } ∧
    (∀ t, exec .healthAlertClear s = .next t → alertCauses t / 32 % 2 = b2n s.pwr.device) ∧
    (s.pwr.rails = true → ∀ c, (c = .resetN ∨ c = .perst ∨ c = .refclkLoss ∨ (c = .pwrCtrlReset ∧ 2 ≤ s.boot.stage) ∨ ∃ m a : Bool, (m || a) = true ∧ c = .powerOnReset m a) →
      ∃ t, exec c s = .next t ∧ alertCauses t / 32 % 2 = 0)

/-- The lint sweep (R428, R429): a unit that may run counts on its tile, zeroes the bytes of the row it marches in its bank and no other, and ends a sweep at
the last unit; a fault that recurs is logged; one that does not has no effect; a unit whose tile is busy or not idle long enough waits. The number of units of
a sweep is the model's reading (log 33). -/
def Obligations.LintSweep : Prop :=
  (∀ (s : State) (tile : Nat) (k : LintKind), tile < 256 → lintMayRun s tile k = true → ∃ t, exec (.lintUnit tile k true true) s = .next t ∧
    s.health.seq < t.health.seq ∧ t.pending = s.pending) ∧
  ∀ (s : State) (tile : Nat) (k : LintKind) (faulty recurs : Bool), tile < 256 → (faulty && recurs) = false →
    (lintMayRun s tile k = false → exec (.lintUnit tile k faulty recurs) s = .next s) ∧
    (lintMayRun s tile k = true → ∃ t, exec (.lintUnit tile k faulty recurs) s = .next t ∧
      t.tile tile = (if sweepUnits ≤ (s.tile tile).lintUnits + 1 then { s.tile tile with lintUnits := 0, sweepAt := s.now, overdue := false }
        else { s.tile tile with lintUnits := (s.tile tile).lintUnits + 1 }) ∧
      (∀ x, x < 256 → x ≠ tile → t.tile x = s.tile x) ∧
      (∀ a, memByte t.store.mem a = match k with
        | .rowMarch bank row => if row < tsRows ∧ tsTile a = tile ∧ tsBank a = bank ∧ tsRow a = row then 0 else memByte s.store.mem a
        | _ => memByte s.store.mem a) ∧
      { t.store with mem := s.store.mem, marks := s.store.marks } = s.store ∧ { t with regions := s.regions, store := s.store, cnt := s.cnt } = s)

/-- A correctable error of the host link changes nothing in the module (Table 17-2); enabling the health log starts it empty (R431, Table 20-12) and enabling
it again does nothing. A tile whose sweep has not ended within four periods is logged as overdue, once (R428). A spare's reload ends (R422): with no job the
tile is marked reloaded, no byte of another tile changes, and with no resident model none of this one does. That enabling the log zeroes the copy of the head
is the model's reading (log 53). -/
def Obligations.HealthUpkeep : Prop :=
  (∀ s : State, exec .hostLinkCorrectableError s = .next s ∧
      (2 ≤ s.boot.stage → s.health.logEnable = false →
        exec .healthLogEnable s = .next { s with health := { s.health with logEnable := true, count := 0, head := 0 } }) ∧
      ((s.boot.stage < 2 ∨ s.health.logEnable = true) → exec .healthLogEnable s = .next s)) ∧
  (∀ (s : State) (tile : Nat), tile < 256 → (s.tile tile).overdue = false → (s.tile tile).sweepAt + 4 * lintPeriodS s * 1400000000 ≤ s.now →
      ∃ t, exec (.lintOverdue tile) s = .next t ∧ t.tile tile = { s.tile tile with overdue := true } ∧ (∀ x, x < 256 → x ≠ tile → t.tile x = s.tile x) ∧
        t.health.seq = s.health.seq + 1 ∧ { t with regions := s.regions, health := s.health, out := s.out, cnt := s.cnt, pegs := s.pegs, fns := s.fns } = s ∧
        exec (.lintOverdue tile) t = .next t) ∧
  (∀ (s : State) (tile : Nat), tile < 256 → (s.tile tile).reload = true →
      ∃ t, exec (.spareReloadDone tile) s = .next t ∧ (t.tile tile).reload = false ∧ (∀ x, x < 256 → x ≠ tile → (t.tile x).reload = (s.tile x).reload) ∧
        ∀ x, x < 256 → (t.tile x).onSpare = (s.tile x).onSpare) ∧
  (∀ (s : State) (tile : Nat), tile < 256 → (s.tile tile).reload = true → s.sched.jobs = [] →
      ∃ t, exec (.spareReloadDone tile) s = .next t ∧ t.tile tile = { s.tile tile with reload := false } ∧ (∀ x, x < 256 → x ≠ tile → t.tile x = s.tile x) ∧
        (∀ a, tsTile a ≠ tile → memByte t.store.mem a = memByte s.store.mem a) ∧ (s.sched.models = [] → s.plans.loaded = [] → ∀ a, memByte t.store.mem a = memByte s.store.mem a) ∧
        { t.store with mem := s.store.mem, marks := s.store.marks, due := s.store.due, recent := s.store.recent } = s.store ∧
        { t with regions := s.regions, store := s.store, cnt := s.cnt } = s)

/-- Scrub and field darn (R134, R136, R147, R420, R425): a scrub read of a row, or of the row that a patch row stands for, changes nothing where the word is
sound, raises the word's place in the bank's table and the tile's count where its error is correctable, and logs it where not; no scrub changes a stored byte,
and a patch row in no use is not read; a row that is due or at the threshold is darned to a free patch row with every stored byte kept; with no free patch row
a due row fails its tile, which takes a spare if it can, and a row at the threshold only fills the bank's log; other rows are left alone. The choice of the
patch row is the model's (log 53). -/
def Obligations.ScrubAndDarn : Prop :=
  ∀ (s : State) (tile bank row : Nat), tile < 256 → bank < 32 →
    (rowHeld s tile bank row = none → exec (.scrubRead tile bank row) s = .next s) ∧
    (∀ k, rowHeld s tile bank row = some k → (row < 1536 → k = row) ∧
      (markOf s (tsAddr tile k bank 0) = 0 → exec (.scrubRead tile bank row) s = .next s) ∧
      (k < 1536 → markOf s (tsAddr tile k bank 0) = 1 → ∃ t, exec (.scrubRead tile bank row) s = .next t ∧
        t.store = { s.store with
          recent := smSet [] s.store.recent (bankKey tile bank) (raiseRecent (recentOf s (bankKey tile bank)) (wordKey (tsAddr tile k bank 0))) } ∧
        { t with store := s.store, cnt := s.cnt } = s) ∧
      (markOf s (tsAddr tile k bank 0) = 2 → ∃ t, exec (.scrubRead tile bank row) s = .next t ∧ t.store = s.store ∧ t.health.seq = s.health.seq + 1 ∧
        { t with cnt := s.cnt, sched := s.sched, health := s.health, out := s.out, pegs := s.pegs, fns := s.fns } = s)) ∧
    ((s.tile tile).failed = false → (rowDue s tile bank row || rowAtThreshold s tile bank row) = true →
      ∀ p, freePatch s (bankKey tile bank) = some p → ∃ t, exec (.fieldDarn tile bank row) s = .next t ∧ (bankKey tile bank, row, p) ∈ t.store.darn ∧
        (∀ e ∈ s.store.darn, (e.1, e.2.1) ≠ (bankKey tile bank, row) → e ∈ t.store.darn) ∧ rowDue t tile bank row = false ∧ t.store.mem = s.store.mem ∧
        { t with store := s.store, health := s.health, out := s.out, cnt := s.cnt, pegs := s.pegs, fns := s.fns } = s) ∧
    ((s.tile tile).failed = false → rowDue s tile bank row = true → freePatch s (bankKey tile bank) = none → ∃ t, exec (.fieldDarn tile bank row) s = .next t ∧
      ((t.tile tile).failed = true ∨ (t.tile tile).gone = true ∨ (t.tile tile).onSpare = true)) ∧
    ((s.tile tile).failed = false → rowDue s tile bank row = false → rowAtThreshold s tile bank row = true → freePatch s (bankKey tile bank) = none →
      ∃ t, exec (.fieldDarn tile bank row) s = .next t ∧ { t.store with fullLogged := s.store.fullLogged } = s.store ∧ bankKey tile bank ∈ t.store.fullLogged ∧
        { t with store := s.store, health := s.health, out := s.out, cnt := s.cnt, pegs := s.pegs, fns := s.fns } = s) ∧
    ((rowDue s tile bank row || rowAtThreshold s tile bank row) = false → exec (.fieldDarn tile bank row) s = .next s)

/-- The line-port bits that host software clears by writing 1 (R39, R82, Table 20-6), and a set-up transfer on a port's bus (R474): a go sends the bytes with
their divisor and stands busy until done, when the bytes read stand in the register; each touches its own port only. TERM_EN follows its pin (R489); a read of
CLK_TIMEBASE's lower half answers it and latches the upper half (R466); unmasking an MSI-X vector sends a message that was pending (R283). The MSI-X reset
state and the one latch of the time base are the model's choice (logs 16 and 49). -/
def Obligations.PlainRegisters : Prop :=
  (∀ (s : State) (p : Port),
      (∃ t, exec (.overrateClear p) s = .next t ∧ t.lp p = { s.lp p with overrate := false } ∧ (∀ q, q ≠ p → t.lp q = s.lp q) ∧ { t with ports := s.ports } = s) ∧
      (∃ t, exec (.unexpectedClear p) s = .next t ∧ t.lp p = { s.lp p with unexpected := false } ∧ (∀ q, q ≠ p → t.lp q = s.lp q) ∧ { t with ports := s.ports } = s) ∧
      (2 ≤ s.boot.stage → (s.lp p).suBusy = false → ∃ t, exec (.setupBusGo p) s = .next t ∧ t.lp p = { s.lp p with suBusy := true } ∧
        (∀ q, q ≠ p → t.lp q = s.lp q) ∧ t.out = s.out ++ [.setupBus p (leBytes (lpReg s p 0x20 % 16) (lpReg s p 0x28)) (lpReg s p 0x20 / 256 % 256)] ∧
        { t with ports := s.ports, out := s.out } = s) ∧
      (∀ rx, (s.lp p).suBusy = true → ∃ t, exec (.setupBusDone p rx) s = .next t ∧ t.lp p = { s.lp p with suBusy := false, suRx := rx } ∧
        (∀ q, q ≠ p → t.lp q = s.lp q) ∧ { t with ports := s.ports } = s)) ∧
  (∀ s : State,
      (∀ l, exec (.termEnChange l) s = .next { s with boot := { s.boot with termEn := l } }) ∧
      (∀ fn, regsUsable s fn = true → ∃ t, exec (.timebaseLowRead fn) s = .next t ∧
        t.out = s.out ++ [.regData fn (BitVec.ofNat 64 (s.clk.timeBase.toNat % 4294967296))] ∧
        t.clk = { s.clk with latch := some (BitVec.ofNat 32 (s.clk.timeBase.toNat / 4294967296)) } ∧ { t with clk := s.clk, out := s.out } = s) ∧
      (∀ (fn : Fn) (v : Fin 64), regsUsable s fn = true → ∃ t, exec (.msixVectorUnmask fn v) s = .next t ∧
        v.val ∉ (t.fnOf fn).masked ∧ v.val ∉ (t.fnOf fn).pendingBits ∧
        t.out = (if v.val ∈ (s.fnOf fn).pendingBits then s.out ++ [.msix fn v.val] else s.out) ∧ (∀ f, f ≠ fn → t.fnOf f = s.fnOf f) ∧
        { t with fns := s.fns, out := s.out, regs := s.regs } = s))

/-- A write of a plain 32-bit register (R11, R12, R467, R468): with a value in range the register reads back as written but for its reserved bits, which stay
0, and no other register and nothing else changes; with a value out of range, or at a time the spec does not allow, only HIF_STATUS.bad_write is set; a PF
register is not in a VF's BAR0. Which times forbid a write is in part the model's choice (log 49). -/
def Obligations.RegisterWrite : Prop :=
  ∀ (s : State) (fn : Fn) (off : Nat) (v : Word64), regsUsable s fn = true → off % 4 = 0 → off ≠ 0x22020 →
    ∀ r, regSpec off = some r → r.bytes = 4 → r.act = .plain →
    let w := v.toNat % 4294967296 &&& r.mask
    ((r.pf = true → fn.val = 0) → r.ok w = true → timeAllowed s fn off w = true → ∃ t, exec (.registerWrite fn off 4 v) s = .next t ∧
      regGet t fn.val off = w ∧ (∀ f o, regKey f o ≠ regKey fn.val off → regGet t f o = regGet s f o) ∧ { t with regs := s.regs } = s) ∧
    ((r.pf = true → fn.val = 0) → (r.ok w && timeAllowed s fn off w) = false → ∃ t, exec (.registerWrite fn off 4 v) s = .next t ∧
      t.fnOf fn = { s.fnOf fn with badWrite := true } ∧ (∀ f, f ≠ fn → t.fnOf f = s.fnOf f) ∧ { t with fns := s.fns } = s) ∧
    (r.pf = true → fn.val ≠ 0 → exec (.registerWrite fn off 4 v) s = .next s)

/-- Setting up a function's rings (R286, R287, R294, R304, R316, R473): enabling a pair starts its four counters at 0 and clears its fault; disabling a pair
ends everything fetched, held, running or waiting on it; enabling the record ring starts its counters at 0; a grant in range that overlaps no other and finds
no pair enabled is in force, and each leaves every other pair and function as it was. -/
def Obligations.RingSetup : Prop :=
  ∀ (s : State) (i : RingId),
    (ringsUsable s i.fn = true → (s.ring (s.ref i)).enable = false → ∃ t, exec (.ringEnable i) s = .next t ∧
      t.ring (s.ref i) = { s.ring (s.ref i) with enable := true, fault := false, cause := 0, sqTail := 0, sqHead := 0, cqTail := 0, cqHead := 0 } ∧
      (∀ q : RingRef, (q.fn, q.pair) ≠ (i.fn, i.pair) → t.ring q = s.ring q) ∧ { t with fns := s.fns } = s) ∧
    ((s.ring (s.ref i)).enable = true → ∃ t, exec (.ringDisable i) s = .next t ∧ (t.ring (s.ref i)).enable = false ∧ ((s.ring (s.ref i)).fault = false →
      (t.ring (s.ref i)).fold = none ∧ (t.ring (s.ref i)).fetched = [] ∧ (t.ring (s.ref i)).held = [] ∧ (t.ring (s.ref i)).running = [] ∧
      (t.ring (s.ref i)).pegWait = false ∧ ∀ w ∈ t.pegs.waits, (w.r.fn, w.r.pair) ≠ (i.fn, i.pair))) ∧
    ((s.ring (s.ref i)).enable = true → (s.ring (s.ref i)).fold = none → ∃ t, exec (.ringDisable i) s = .next t ∧
      (t.ring (s.ref i)).enable = false ∧ ((s.ring (s.ref i)).fault = false → (t.ring (s.ref i)).fetched = [] ∧ (t.ring (s.ref i)).held = [] ∧
        (t.ring (s.ref i)).running = [] ∧ (t.ring (s.ref i)).pegWait = false ∧ ∀ w ∈ t.pegs.waits, (w.r.fn, w.r.pair) ≠ (i.fn, i.pair)) ∧
      (∀ q : RingRef, (q.fn, q.pair) ≠ (i.fn, i.pair) → t.ring q = s.ring q) ∧ { t with fns := s.fns, pegs := s.pegs } = s) ∧
    (∀ fn, ringsUsable s fn = true → (s.fnOf fn).recEnable = false → ∃ t, exec (.recRingEnable fn) s = .next t ∧
      t.fnOf fn = { s.fnOf fn with recEnable := true, recTail := 0, recHead := 0 } ∧ (∀ f, f ≠ fn → t.fnOf f = s.fnOf f) ∧ { t with fns := s.fns } = s) ∧
    (∀ (fn : Fn) (n : Nat), 2 ≤ s.boot.stage → n ≤ 7680 → regGet s 0 (0x3000 + 4 * fn.val) + n ≤ 8192 → (0 < n → 512 ≤ regGet s 0 (0x3000 + 4 * fn.val)) →
      grantOverlaps s fn (regGet s 0 (0x3000 + 4 * fn.val)) n = false → (∀ p : Fin 8, ((s.fnOf fn).rings[p.val]).enable = false) →
      ∃ t, exec (.pegGrant fn n) s = .next t ∧ t.fnOf fn = { s.fnOf fn with pegBase := regGet s 0 (0x3000 + 4 * fn.val), pegCount := n } ∧
        (∀ f, f ≠ fn → t.fnOf f = s.fnOf f) ∧ regGet t 0 (0x3040 + 4 * fn.val) = n ∧ { t with fns := s.fns, regs := s.regs } = s)

/-- Doorbells (R290, R291): a kick starts a read of the function's doorbell line, or is remembered while one is in flight; a poll starts one for every enabled
function; the line's arrival ends the read and takes the record head, and a remembered kick starts the next read. A doorbell line's counters (R287, R290,
R294): a pair takes the host's completion head and submission tail; a tail beyond the ring's depth, or a head beyond what the module has written, faults the
ring with cause 1 or 2. That a line is taken only while a read is in flight is the model's choice (log 51). -/
def Obligations.DoorbellsAndCounters : Prop :=
  (∀ s : State,
      (∀ fn, ringsUsable s fn = true → (s.fnOf fn).lineRead = false → ∃ t, exec (.ringKick fn) s = .next t ∧ t.fnOf fn = { s.fnOf fn with lineRead := true } ∧
        (∀ f, f ≠ fn → t.fnOf f = s.fnOf f) ∧ Output.hostRead fn (doorbellAddr s fn.val) 64 ∈ t.out ∧ { t with fns := s.fns, out := s.out, cnt := s.cnt } = s) ∧
      (∀ fn, ringsUsable s fn = true → (s.fnOf fn).lineRead = true → ∃ t, exec (.ringKick fn) s = .next t ∧ t.fnOf fn = { s.fnOf fn with kickWaiting := true } ∧
        (∀ f, f ≠ fn → t.fnOf f = s.fnOf f) ∧ { t with fns := s.fns, cnt := s.cnt } = s) ∧
      (∃ t, exec .doorbellPoll s = .next t ∧ (∀ fn, t.fnOf fn = { s.fnOf fn with lineRead := (s.fnOf fn).lineRead || ringsUsable s fn }) ∧
        (∀ fn, ringsUsable s fn = true → Output.hostRead fn (doorbellAddr s fn.val) 64 ∈ t.out) ∧ { t with fns := s.fns, out := s.out, cnt := s.cnt } = s) ∧
      (∀ fn line rh hh, (s.fnOf fn).lineRead = true → ∃ t, exec (.doorbellLineArrived fn line rh hh) s = .next t ∧
        (t.fnOf fn).recHead = (if (s.fnOf fn).recEnable then rh else (s.fnOf fn).recHead) ∧ (t.fnOf fn).lineRead = (s.fnOf fn).kickWaiting ∧
        (t.fnOf fn).kickWaiting = false ∧ t.health.head = (if fn.val = 0 ∧ s.health.logEnable = true then hh else s.health.head) ∧
        ((s.fnOf fn).kickWaiting = true → Output.hostRead fn (doorbellAddr t fn.val) 64 ∈ t.out)) ∧
      (∀ fn line rh hh, (s.fnOf fn).lineRead = true → (s.fnOf fn).kickWaiting = false → (∀ p : Fin 8, ((s.fnOf fn).rings[p.val]).enable = false) → quiet s = true →
        ∃ t, exec (.doorbellLineArrived fn line rh hh) s = .next t ∧
          t.fnOf fn = { s.fnOf fn with lineRead := false, recHead := if (s.fnOf fn).recEnable then rh else (s.fnOf fn).recHead } ∧
          (∀ f, f ≠ fn → t.fnOf f = s.fnOf f) ∧ t.health = { s.health with head := if fn.val = 0 ∧ s.health.logEnable = true then hh else s.health.head } ∧
          { t with fns := s.fns, health := s.health } = s)) ∧
  (∀ (s : State) (line : List Byte) (r : RingRef), ringLive s r = true → (s.ring r).held = [] →
      let tail : Half := BitVec.ofNat 16 (fieldAt line (2 * r.pair.val) 2)
      let head : Half := BitVec.ofNat 16 (fieldAt line (16 + 2 * r.pair.val) 2)
      ((tail - (s.ring r).sqHead).toNat ≤ ringN s r → ((s.ring r).cqTail - head).toNat ≤ ringN s r →
        (takeCounters line s r).ring r = { s.ring r with sqTail := tail, cqHead := head } ∧
        { takeCounters line s r with fns := s.fns, out := s.out, cnt := s.cnt } = s) ∧
      (ringN s r < (tail - (s.ring r).sqHead).toNat → ((takeCounters line s r).ring r).fault = true ∧ ((takeCounters line s r).ring r).cause = 1) ∧
      ((tail - (s.ring r).sqHead).toNat ≤ ringN s r → ringN s r < ((s.ring r).cqTail - head).toNat →
        ((takeCounters line s r).ring r).fault = true ∧ ((takeCounters line s r).ring r).cause = 2))

/-- A host read that fails or times out (R285, R294): for a descriptor fetch it faults the ring with cause 3, stopping the pair; for a doorbell line it faults
every enabled pair of the function; for a job's operand it ends that job. Interrupt moderation (R283): when the time since the first unsignalled completion is
up, the pair's vector is raised, or kept pending while it is masked, its count starts again, and nothing of any other pair changes. -/
def Obligations.ReadErrorsAndModeration : Prop :=
  (∀ (s : State) (a : Word64) (kind : Nat),
      (∀ i : RingId, ringLive s (s.ref i) = true → 0 < announced (s.ring (s.ref i)) → ∀ c ∈ [Instr.hostDmaError (.fetch i) a kind, .hostReadTimeout (.fetch i) a],
        ∃ t, exec c s = .next t ∧ (t.ring (s.ref i)).fault = true ∧ (t.ring (s.ref i)).cause = 3 ∧ (t.ring (s.ref i)).fetched = [] ∧
          (t.ring (s.ref i)).enable = true ∧ t.pending = s.pending ∧ t.boot.stage = s.boot.stage) ∧
      (∀ fn : Fn, (s.fnOf fn).lineRead = true → ∀ c ∈ [Instr.hostDmaError (.gather fn) a kind, .hostReadTimeout (.gather fn) a], ∃ t, exec c s = .next t ∧
        (t.fnOf fn).lineRead = false ∧ (t.fnOf fn).kickWaiting = false ∧ ∀ p : Fin 8, ringLive s (s.ref ⟨fn, p⟩) = true →
          (t.ring (s.ref ⟨fn, p⟩)).fault = true ∧ (t.ring (s.ref ⟨fn, p⟩)).cause = 3) ∧
      (∀ (tag : Word64) (i : RingId) (j : Job), (s.sched.jobs.find? fun j => j.ring == some (s.ref i) && j.hdr.tag == tag && jobReads j) = some j →
        j.id < s.sched.nextId → ∀ c ∈ [Instr.hostDmaError (.job tag i) a kind, .hostReadTimeout (.job tag i) a], ∃ t, exec c s = .next t ∧
          ∀ x ∈ t.sched.jobs, x.id = j.id → x.state = .done) ∧
      (∀ fn : Fn, (s.fnOf fn).lineRead = true → (∀ p : Fin 8, ((s.fnOf fn).rings[p.val]).enable = false) →
        ∀ c ∈ [Instr.hostDmaError (.gather fn) a kind, .hostReadTimeout (.gather fn) a], ∃ t, exec c s = .next t ∧
          t.fnOf fn = { s.fnOf fn with lineRead := false, kickWaiting := false } ∧ (∀ f, f ≠ fn → t.fnOf f = s.fnOf f) ∧ { t with fns := s.fns } = s)) ∧
  (∀ (s : State) (i : RingId) (t0 : Nat), (s.ring (s.ref i)).firstUnsig = some t0 → irqTimeNs s (s.ref i) ≠ 0 →
      ∃ t, exec (.irqModerationTimer i) s = .next t ∧ t.ring (s.ref i) = { s.ring (s.ref i) with unsignalled := 0, firstUnsig := none } ∧
        (∀ q : RingRef, (q.fn, q.pair) ≠ (i.fn, i.pair) → t.ring q = s.ring q) ∧
        (ringVector s (s.ref i) ∉ (s.fnOf i.fn).masked → t.out = s.out ++ [.msix i.fn (ringVector s (s.ref i))]) ∧
        (ringVector s (s.ref i) ∈ (s.fnOf i.fn).masked → t.out = s.out ∧ ringVector s (s.ref i) ∈ (t.fnOf i.fn).pendingBits) ∧
        (s.clk.running = true → s.now ≤ t0 + nsToCycles (irqTimeNs s (s.ref i)) → t0 + nsToCycles (irqTimeNs s (s.ref i)) < 2 ^ 64 →
          t.now = t0 + nsToCycles (irqTimeNs s (s.ref i))) ∧
        { t with fns := s.fns, out := s.out, clk := s.clk, cnt := s.cnt } = s)

/-- Copying posts (R333 to R336): the function's oldest committed post that fits its record ring leaves the basket for the ring, its bytes are written where
the tail points and the tail moves by its length; one whose words cannot be read is logged and lost; with no job waiting nothing else changes; a post that
does not fit, or a disabled ring, waits. -/
def Obligations.RecordCopy : Prop :=
  ∀ (s : State) (fn : Fn) (p : Post), nextPost s fn = some p → (s.fnOf fn).enabled = true →
    ((s.fnOf fn).recEnable = false → ∀ b, exec (.recordCopy fn b) s = .next s) ∧
    ((s.fnOf fn).recEnable = true → recFree s fn < postLen p → exec (.recordCopy fn false) s = .next s) ∧
    ((s.fnOf fn).recEnable = true → postLen p ≤ recFree s fn → ∃ t, exec (.recordCopy fn false) s = .next t ∧
      (∃ x, t.basket.committed = s.basket.committed.erase p ++ x) ∧ (t.fnOf fn).recTail = (s.fnOf fn).recTail + BitVec.ofNat 64 (postBytes p).length ∧
      Output.hostWrite fn (recBase s fn.val + (s.fnOf fn).recTail.toNat % recSize s fn.val)
        ((postBytes p).take (min (postBytes p).length (recSize s fn.val - (s.fnOf fn).recTail.toNat % recSize s fn.val))) ∈ t.out ∧
      ∀ f, f ≠ fn → (t.fnOf f).recTail = (s.fnOf f).recTail) ∧
    ((s.fnOf fn).recEnable = true → ∃ t, exec (.recordCopy fn true) s = .next t ∧ (∃ x, t.basket.committed = s.basket.committed.erase p ++ x) ∧
      s.health.seq < t.health.seq ∧ (t.fnOf fn).recTail = (s.fnOf fn).recTail) ∧
    ((s.fnOf fn).recEnable = true → postLen p ≤ recFree s fn → s.sched.jobs = [] → p.done = none → p.fold = none →
      ∃ t, exec (.recordCopy fn false) s = .next t ∧ t.basket.committed = s.basket.committed.erase p ∧
        (t.fnOf fn).recTail = (s.fnOf fn).recTail + BitVec.ofNat 64 (postBytes p).length ∧ (∀ f, f ≠ fn → t.fnOf f = s.fnOf f) ∧
        { t with basket := s.basket, fns := s.fns, out := s.out, cnt := s.cnt, trackA := s.trackA, trackB := s.trackB } = s)

/-- A descriptor of a ready pair whose start checks pass is fetched and started in the command that brings it, and its start is all that happens (R287, R298):
every opcode of Table 11-4. That a descriptor command is the host's submission and the module's fetch in one is the model's choice (log 1). -/
def Obligations.DescriptorStarts : Prop :=
  ∀ (s : State) (i : RingId) (d : Desc) (c : Instr), descCmd i d = some c → readyFor s i = true → mayStart s i d = true →
    exec c s = .next (runDesc (startedState s i d) (s.ref i) d)

/-- A descriptor of a ready pair that fails a start check completes at once with that check's status and detail and has no other effect (R296, R498, R449).
The start checks come in the order of Table 11-12 (R498): an unknown opcode, a descriptor only the PF may send, one the stage does not allow, a completion peg
outside the function's grant, and one that may not stand inside a fold. That a descriptor command is the host's submission and the module's fetch in one is
the model's choice (log 1). -/
def Obligations.DescriptorChecks : Prop :=
  (∀ (s : State) (i : RingId) (d : Desc) (c : Instr) (st : Status) (x : List Byte), descCmd i d = some c → readyFor s i = true → heldByLimit s d = false →
      waitsBank s d = false → startCheck (startedState s i d) (s.ref i) d = some (st, x) →
      ∃ t, exec c s = .next t ∧ completedIn s t i d.hdr (DescOpcode d.op) st x ∧ { t with fns := s.fns, out := s.out, cnt := s.cnt, pegs := s.pegs } = s) ∧
  (∀ (s : State) (r : RingRef) (d : Desc),
      (∀ n, d.op = .unknown n → startCheck s r d = some (.badOpcode, [])) ∧
      (known d.op = true → pfOnly d.op = true → r.fn.val ≠ 0 → startCheck s r d = some (.notPermitted, [])) ∧
      (known d.op = true → (pfOnly d.op = false ∨ r.fn.val = 0) → stageAllows s r d.op = false → startCheck s r d = some (.badState, [])) ∧
      (known d.op = true → (pfOnly d.op = false ∨ r.fn.val = 0) → stageAllows s r d.op = true → d.hdr.peg = true → inGrant s r.fn d.hdr.complPeg = false →
        startCheck s r d = some (.pegRange, [])))

/-- A descriptor fetched from the submission ring is the one its 64 bytes spell (R287, Tables 11-3 to 11-5): fetching the bytes of a descriptor does what its
own command does on a pair with a descriptor announced, and nothing on a pair with none. That one fetch brings one descriptor is the model's choice (log 1).
-/
def Obligations.DescriptorFetched : Prop :=
  ∀ (s : State) (i : RingId) (d : Desc) (c : Instr), d.wf = true → descCmd i d = some c →
    (ringLive s (s.ref i) = true → 0 < announced (s.ring (s.ref i)) →
      ∃ t, exec (.descriptorFetched i (encodeDesc d) (auxOf d.op)) s = .next t ∧ exec c s = .next t) ∧
    (announced (s.ring (s.ref i)) = 0 → exec (.descriptorFetched i (encodeDesc d) (auxOf d.op)) s = .next s)

/-- NOP (R284, R288, R289): it completes OK, its entry stands in the completion ring where the tail pointed, and its peg, if it names one, is raised in the
next control cycle. PEG_SIGNAL (R303, R305): with nothing else due in the cycle, SET stores the value and ADD adds it modulo 2^32, no other peg changes, and
it completes OK; with no wait standing nothing else changes. The submission head in the entry counts the descriptors taken by then, the model's choice (log
1). -/
def Obligations.NopAndSignal : Prop :=
  (∀ (s : State) (i : RingId) (h : Hdr), readyFor s i = true → mayStart s i { hdr := h, op := .nop } = true →
      ∃ t, exec (.nop i h) s = .next t ∧ completedIn s t i h 0x00 .ok [] ∧
        t.pegs = { s.pegs with later := if h.peg then s.pegs.later ++ [(h.complPeg, 1)] else s.pegs.later } ∧
        { t with fns := s.fns, out := s.out, cnt := s.cnt, pegs := s.pegs } = s) ∧
  (∀ (s : State) (i : RingId) (h : Hdr) (o : PegSignalOp), readyFor s i = true → mayStart s i { hdr := h, op := .pegSignal o } = true → s.pegs.later = [] →
      (∀ w ∈ s.pegs.waits, (w.r.fn, w.r.pair) ≠ (i.fn, i.pair)) → ∃ t, exec (.pegSignal i h o) s = .next t ∧ okEntry s i h 0x41 .ok [] ∈ t.out ∧
        (t.ring (s.ref i)).cqTail = (s.ring (s.ref i)).cqTail + 1 ∧ t.peg o.peg = (if o.op = 1 then o.value else s.peg o.peg + o.value) ∧
        ∀ n, n ≠ o.peg → t.peg n = s.peg n) ∧
  (∀ (s : State) (i : RingId) (h : Hdr) (o : PegSignalOp), readyFor s i = true → mayStart s i { hdr := h, op := .pegSignal o } = true → s.pegs.later = [] →
      s.pegs.waits = [] →
      ∃ t, exec (.pegSignal i h o) s = .next t ∧ completedIn s t i h 0x41 .ok [] ∧ t.peg o.peg = (if o.op = 1 then o.value else s.peg o.peg + o.value) ∧
        (∀ n, n ≠ o.peg → t.peg n = s.peg n) ∧ { t with fns := s.fns, out := s.out, cnt := s.cnt, pegs := s.pegs } = s)

/-- PEG_WAIT (R306, R307): a peg has reached a target when their difference modulo 2^32 is below 2^31; the wait is judged in the cycle in which it starts; a
peg that has reached the target, or a timeout of 0, completes it at once, OK with the arrival flag or PEG_TIMEOUT without, the detail carrying the peg's
value; otherwise it stands and holds the pair. A standing PEG_WAIT whose timeout expires (R307): it is judged at its deadline, and completes PEG_TIMEOUT, or
OK where its peg has reached the target by then, with the peg's value; not reached and alone, it frees its pair. The deadline counts from the control cycle of
the start, the model's reading (log 51). -/
def Obligations.PegWaits : Prop :=
  ((∀ p v : Word32, pegReached p v = decide ((p.toNat + 2 ^ 32 - v.toNat) % 2 ^ 32 < 2 ^ 31)) ∧
    ∀ (s : State) (i : RingId) (h : Hdr) (o : PegWaitOp), readyFor s i = true → mayStart s i { hdr := h, op := .pegWait o } = true → s.pegs.later = [] →
      s.pegs.waits = [] →
      (pegReached (s.peg o.peg) o.target = true → ∃ t, exec (.pegWait i h o) s = .next t ∧
        Output.hostWrite i.fn (cqBase s (s.ref i) + 32 * ((s.ring (s.ref i)).cqTail.toNat % ringN s (s.ref i)))
          (complBytes (waitCompl { r := s.ref i, hdr := h, peg := o.peg, target := o.target, deadline := none } (s.peg o.peg) true)
          ((s.ring (s.ref i)).sqHead + 1) (phaseAt (s.ring (s.ref i)).cqTail.toNat (ringN s (s.ref i)))) ∈ t.out ∧
        (t.ring (s.ref i)).pegWait = false ∧ t.pegs.waits = [] ∧ t.pegs.val = s.pegs.val ∧ { t with fns := s.fns, out := s.out, cnt := s.cnt, pegs := s.pegs } = s) ∧
      (pegReached (s.peg o.peg) o.target = false → o.timeout = 0 → ∃ t, exec (.pegWait i h o) s = .next t ∧
        Output.hostWrite i.fn (cqBase s (s.ref i) + 32 * ((s.ring (s.ref i)).cqTail.toNat % ringN s (s.ref i)))
          (complBytes (waitCompl { r := s.ref i, hdr := h, peg := o.peg, target := o.target, deadline := none } (s.peg o.peg) false)
          ((s.ring (s.ref i)).sqHead + 1) (phaseAt (s.ring (s.ref i)).cqTail.toNat (ringN s (s.ref i)))) ∈ t.out ∧
        (t.ring (s.ref i)).pegWait = false ∧ t.pegs.waits = [] ∧ t.pegs.val = s.pegs.val ∧ { t with fns := s.fns, out := s.out, cnt := s.cnt, pegs := s.pegs } = s) ∧
      (pegReached (s.peg o.peg) o.target = false → o.timeout ≠ 0 → ∃ t, exec (.pegWait i h o) s = .next t ∧ (t.ring (s.ref i)).pegWait = true ∧
        (t.ring (s.ref i)).cqTail = (s.ring (s.ref i)).cqTail ∧
        t.pegs.waits = [{ r := s.ref i, hdr := h, peg := o.peg, target := o.target, deadline := waitDeadline s o.timeout }] ∧ t.pegs.val = s.pegs.val ∧
        { t with fns := s.fns, pegs := s.pegs } = s)) ∧
  (∀ (s : State) (i : RingId) (h : Hdr) (o : PegWaitOp), readyFor s i = true → mayStart s i { hdr := h, op := .pegWait o } = true → s.pegs.later = [] →
      (∀ w ∈ s.pegs.waits, (w.r.fn, w.r.pair) ≠ (i.fn, i.pair)) → ∃ t, exec (.pegWait i h o) s = .next t ∧ t.pegs.val = s.pegs.val ∧
        (if pegReached (s.peg o.peg) o.target ∨ waitExpired s { r := s.ref i, hdr := h, peg := o.peg, target := o.target, deadline := waitDeadline s o.timeout } then
          (t.ring (s.ref i)).pegWait = false ∧ (t.ring (s.ref i)).cqTail = (s.ring (s.ref i)).cqTail + 1
        else (t.ring (s.ref i)).pegWait = true ∧ (t.ring (s.ref i)).cqTail = (s.ring (s.ref i)).cqTail ∧
          { r := s.ref i, hdr := h, peg := o.peg, target := o.target, deadline := waitDeadline s o.timeout } ∈ t.pegs.waits)) ∧
  (∀ (s : State) (i : RingId) (w : PegWaitSt) (d : Nat), (s.pegs.waits.find? fun w => w.r == s.ref i) = some w → w.deadline = some d → s.pegs.later = [] →
      s.clk.running = true → s.now ≤ d → d < 2 ^ 64 → ∃ t, exec (.pegWaitTimeout i) s = .next t ∧ t.now = d ∧
        (ringLive s (s.ref i) = true → cqRoom s (s.ref i) = true → (s.ring (s.ref i)).held = [] →
          (∀ x ∈ s.pegs.waits, (x.r.fn, x.r.pair) = (i.fn, i.pair) → x = w) → s.pegs.waits.count w = 1 →
            Output.hostWrite i.fn (cqBase s (s.ref i) + 32 * ((s.ring (s.ref i)).cqTail.toNat % ringN s (s.ref i)))
              (complBytes (waitCompl w (s.peg w.peg) (pegReached (s.peg w.peg) w.target)) (s.ring (s.ref i)).sqHead (phaseAt (s.ring (s.ref i)).cqTail.toNat (ringN s (s.ref i)))) ∈ t.out)) ∧
  (∀ (s : State) (i : RingId) (w : PegWaitSt) (d : Nat), s.pegs.waits = [w] → w.r = s.ref i → w.deadline = some d → s.pegs.later = [] → s.now = d →
      pegReached (s.peg w.peg) w.target = false → ringLive s (s.ref i) = true → cqRoom s (s.ref i) = true → (s.ring (s.ref i)).held = [] → quiet s = true →
      ∃ t, exec (.pegWaitTimeout i) s = .next t ∧ t.pegs.waits = [] ∧ t.pegs.val = s.pegs.val ∧ (t.ring (s.ref i)).pegWait = false ∧
        Output.hostWrite i.fn (cqBase s (s.ref i) + 32 * ((s.ring (s.ref i)).cqTail.toNat % ringN s (s.ref i)))
          (complBytes (waitCompl w (s.peg w.peg) false) (s.ring (s.ref i)).sqHead
          (phaseAt (s.ring (s.ref i)).cqTail.toNat (ringN s (s.ref i)))) ∈ t.out)

/-- Folds of a ring (R309, R311): FOLD_OPEN opens the pair's fold without completing; FOLD_CLOSE of a pair with no open fold completes BAD_STATE; FOLD_CLOSE
of an open fold closes it with its abort flag, completes nothing yet, and brings it to its commit point once its members have all ended. A fold at its commit
point (R309, R311 to R314): the oldest of the commit queue commits, and no fold of that number stays uncommitted; a fold without members answers its FOLD_OPEN
and then its FOLD_CLOSE with one status, OK, or FOLD_ABORTED with the detail of the member that failed or of the abort flag, and is gone; a fold that its ring
no longer has leaves the queue; a piece's verdict fold publishes its entry of the verdict table (R369), or waits for its images and its space. Which member an
aborted fold names is the model's reading (log 52). -/
def Obligations.RingFolds : Prop :=
  (∀ (s : State) (i : RingId) (h : Hdr),
      (readyFor s i = true → mayStart s i { hdr := h, op := .foldOpen } = true → ∃ t, exec (.foldOpen i h) s = .next t ∧
        (∃ f, (t.ring (s.ref i)).fold = some f ∧ f.openHdr = h ∧ f.members = [] ∧ f.failed = none ∧ f.closeHdr = none ∧ f.id = (s.ring (s.ref i)).nextFold) ∧
        (t.ring (s.ref i)).cqTail = (s.ring (s.ref i)).cqTail ∧ { t with fns := s.fns } = s) ∧
      (∀ fl, readyFor s i = true → mayStart s i { hdr := h, op := .foldClose fl } = true → ∃ t, exec (.foldClose i h fl) s = .next t ∧
        completedIn s t i h 0x49 .badState [] ∧ { t with fns := s.fns, out := s.out, cnt := s.cnt, pegs := s.pegs } = s) ∧
      (∀ fl f, readyFor (s.modRing (s.ref i) fun x => { x with fold := none, running := [] }) i = true → (s.ring (s.ref i)).fold = some f → 6 ≤ s.boot.stage →
        h.fence = false → ∃ t, exec (.foldClose i h fl) s = .next t ∧ (t.ring (s.ref i)).fold = none ∧
          (∃ b, (t.ring (s.ref i)).closed = (s.ring (s.ref i)).closed ++ [{ f with closeHdr := some h, hostAbort := bitAt fl 0, failed := b }] ∧
            (f.failed.isSome = true → b = f.failed)) ∧ (∀ e ∈ s.commitQ, e ∈ t.commitQ) ∧ (t.ring (s.ref i)).cqTail = (s.ring (s.ref i)).cqTail ∧
          { t with fns := s.fns, commitQ := s.commitQ } = s) ∧
      (∀ fl f, readyFor (s.modRing (s.ref i) fun x => { x with fold := none, running := [] }) i = true → (s.ring (s.ref i)).fold = some f → 6 ≤ s.boot.stage →
        h.peg = false → h.fence = false → f.failed = none → f.committed = false → (∀ m ∈ f.members, m.job = none ∨ m.ended.isSome = true) →
        (∀ g ∈ (s.ring (s.ref i)).closed, g.id ≠ f.id) →
        ∃ t, exec (.foldClose i h fl) s = .next t ∧ (t.ring (s.ref i)).fold = none ∧
          (t.ring (s.ref i)).closed = (s.ring (s.ref i)).closed ++ [{ f with closeHdr := some h, hostAbort := bitAt fl 0 }] ∧
          (t.commitQ.any fun e => e.2 == .host (s.ref i) f.id) = true ∧ (∀ e ∈ s.commitQ, e ∈ t.commitQ) ∧ (t.ring (s.ref i)).cqTail = (s.ring (s.ref i)).cqTail ∧
          { t with fns := s.fns, commitQ := s.commitQ } = s)) ∧
  (∀ s : State,
      (∀ c r id f q, s.commitQ = (c, .host r id) :: q → ((s.ring r).closed.find? fun g => g.id == id) = some f → ∃ t, exec .foldCommit s = .next t ∧
        ∀ g ∈ (t.ring r).closed, g.id = id → g.committed = true) ∧
      (∀ c k n p q, s.commitQ = (c, .verdict k n) :: q → findPiece s k n = some p → (s.track k).firstLight = false →
        (commitVerdict { s with commitQ := q } k n).isSome = true → ∃ t, exec .foldCommit s = .next t ∧
          t.port.table[(Fin.ofNat 256 n).val] = verdictEntry n (commitStatus p (pieceLine s k p)) (trackNum k) p.companion p.restarted (p.verdict.getD 0xFFFFFFFF)
            (pieceLine s k p)) ∧
      (∀ c k n q, s.commitQ = (c, .verdict k n) :: q → commitVerdict { s with commitQ := q } k n = none → exec .foldCommit s = .next s)) ∧
  (∀ s : State, (s.commitQ = [] → exec .foldCommit s = .next s) ∧
      (∀ c r id q, s.commitQ = (c, .host r id) :: q → (∀ f ∈ (s.ring r).closed, f.id ≠ id) → exec .foldCommit s = .next { s with commitQ := q }) ∧
      (∀ c r f hc q, s.commitQ = (c, .host r f.id) :: q → (s.ring r).closed = [f] → (s.ring r).fold = none → f.members = [] → f.closeHdr = some hc → ringLive s r = true →
        ((s.ring r).cqTail - (s.ring r).cqHead).toNat + 2 ≤ ringN s r → (s.ring r).held = [] → s.pegs.later = [] → s.pegs.waits = [] → s.sched.jobs = [] →
        s.basket.committed = [] →
        let e : Status × List Byte := match f.failed with
          | some (n, op, st) => (.foldAborted, abortDetail n op st)
          | none => if f.hostAbort then (.foldAborted, abortDetail 0xFFFF 0x49 .ok) else (.ok, [])
        let entry := fun (k : Half) (h : Hdr) (op : Nat) => Output.hostWrite r.fn (cqBase s r + 32 * (k.toNat % ringN s r))
          (complBytes { hdr := h, opcode := op, status := e.1, member := false, arrived := false, detail := e.2 } (s.ring r).sqHead (phaseAt k.toNat (ringN s r)))
        ∃ t, exec .foldCommit s = .next t ∧ entry (s.ring r).cqTail f.openHdr 0x48 ∈ t.out ∧ entry ((s.ring r).cqTail + 1) hc 0x49 ∈ t.out ∧
          (t.ring r).cqTail = (s.ring r).cqTail + 2 ∧ (t.ring r).closed = [] ∧ t.commitQ = q.filter (fun x => x.2 != .host r f.id) ∧
          { t with commitQ := s.commitQ, fns := s.fns, out := s.out, cnt := s.cnt, pegs := s.pegs } = s))

/-- SNAPSHOT (R458 to R461): a request that passes its checks takes the bank of its tick or a free one and waits; the capture copies every counter and the
accounting records at the tick; the gather writes the buffer, completes and frees the bank. A SNAPSHOT that waits for a bank makes its checks when it starts,
the model's choice (log 51). -/
def Obligations.Snapshots : Prop :=
  ∀ s : State,
    (∀ i h o k, readyFor s i = true → mayStart s i { hdr := h, op := .snapshot o } = true → snapshotCheck s i.fn o = none → snapshotBank s o.T = some k →
      ∃ t, exec (.snapshot i h o) s = .next t ∧ (∃ b, bankOf t k = some b ∧ b.T = o.T ∧ b.taken = false ∧ b.joins.getLast? = some { r := s.ref i, hdr := h, op := o }) ∧
        (∀ k', k' ≠ k → bankOf t k' = bankOf s k') ∧ { t with banks := s.banks, fns := s.fns } = s) ∧
    (∀ k b, bankOf s k = some b → b.taken = false → ∃ t, exec (.snapshotCapture k) s = .next t ∧
      bankOf t k = some { b with taken := true, shadow := t.cnt, acct := s.sched.acct.toList } ∧ (∀ k', k' ≠ k → bankOf t k' = bankOf s k') ∧
      (s.clk.running = true → s.now ≤ b.T → b.T < 2 ^ 64 → t.now = b.T) ∧ { t with banks := s.banks, clk := s.clk, cnt := s.cnt } = s) ∧
    (∀ k b, bankOf s k = some b → b.taken = true → ∃ t, exec (.snapshotGatherDone k) s = .next t ∧ bankOf t k = none ∧ (∀ k', k' ≠ k → bankOf t k' = bankOf s k') ∧
      (∀ j ∈ b.joins, Output.hostWrite j.r.fn j.op.addr (snapshotBytes b j.r.fn j.op.mask) ∈ t.out) ∧
      { t with banks := s.banks, fns := s.fns, out := s.out, cnt := s.cnt, pegs := s.pegs } = s)

/-- Windows and twin transfers (R380 to R382, Table 15-4): WINDOW_OPEN opens a closed window with its target, access, base and length; WINDOW_CLOSE closes an
open one and is BAD_STATE for a closed one; TWIN_DMA completes TWIN_LINK_DOWN without a link, and otherwise waits, with its frames sent, for WRITE_DONE. Which
window ranges touch a forbidden area is opaque (log 38). -/
def Obligations.Windows : Prop :=
  ∀ (s : State) (i : RingId) (h : Hdr),
    (∀ o, readyFor s i = true → mayStart s i { hdr := h, op := .windowOpen o } = true → winOpenCheck s o = none → ∃ t, exec (.windowOpen i h o) s = .next t ∧
      completedIn s t i h 0x60 .ok [] ∧ windowOf t o.win = some { target := o.target, access := o.access % 4, base := o.base, len := o.len } ∧
      (∀ w, w ≠ o.win → windowOf t w = windowOf s w) ∧ { t with twin := s.twin, fns := s.fns, out := s.out, cnt := s.cnt, pegs := s.pegs } = s) ∧
    (∀ w, readyFor s i = true → mayStart s i { hdr := h, op := .windowClose w } = true → ∃ t, exec (.windowClose i h w) s = .next t ∧
      completedIn s t i h 0x61 (if (windowOf s w).isSome then .ok else .badState) [] ∧ windowOf t w = none ∧ (∀ v, v ≠ w → windowOf t v = windowOf s v) ∧
      { t with twin := s.twin, fns := s.fns, out := s.out, cnt := s.cnt, pegs := s.pegs } = s) ∧
    (∀ o aux, readyFor s i = true → mayStart s i { hdr := h, op := .twinDma o aux } = true → ∀ st, dmaCheck s o = some st → (s.twin.linkUp = false → st = .twinLinkDown) ∧
      ∃ t, exec (.twinDma i h o aux) s = .next t ∧ completedIn s t i h 0x62 st [] ∧ { t with fns := s.fns, out := s.out, cnt := s.cnt, pegs := s.pegs } = s) ∧
    (∀ o aux, readyFor s i = true → mayStart s i { hdr := h, op := .twinDma o aux } = true → dmaCheck s o = none → (dmaSource s i.fn o aux).2.1 = none → o.len ≠ 0 → ∃ t, exec (.twinDma i h o aux) s = .next t ∧ (∃ x ∈ t.twin.xfers, x.r = s.ref i ∧ x.hdr = h) ∧
      (t.ring (s.ref i)).cqTail = (s.ring (s.ref i)).cqTail ∧ { t with twin := s.twin, fns := s.fns, out := s.out, cnt := s.cnt, store := s.store } = s) ∧
    (∀ o aux e, readyFor s i = true → mayStart s i { hdr := h, op := .twinDma o aux } = true → dmaCheck s o = none →
      ((dmaSource s i.fn o aux).2.1 = some e ∨ (dmaSource s i.fn o aux).2.1 = none ∧ o.len = 0 ∧ e = (.ok, [])) → ∃ t, exec (.twinDma i h o aux) s = .next t ∧
      okEntry s i h 0x62 e.1 e.2 ∈ t.out ∧ t.twin.xfers = s.twin.xfers)

/-- Jobs by descriptor (R254, R298, R498; chapters 8, 10, 13, 17): an IMAGE_READ, SEQ_STEP or TEST_RUN of tests 1 and 2 that passes its checks adds one job
under the next number, with the descriptor's header, plan and priority, and completes nothing yet; so does test 3 of a tile in a DRAINED region, which is
BAD_STATE in any other. TAILOR_STEP (R353, R354): of a plan that the function has not loaded it completes PLAN_UNKNOWN with no other effect than the read of
its sample list; one that passes its checks, its masters made where they are not, adds its job and its running step. Job numbers are the model's (log 1) and
the offsets reported for a parameter block are its reading (log 30). -/
def Obligations.Jobs : Prop :=
  (∀ (s : State) (i : RingId) (h : Hdr),
      (∀ o aux, readyFor s i = true → mayStart s i { hdr := h, op := .imageRead o aux } = true →
        imageStartCheck (startedState s i { hdr := h, op := .imageRead o aux }) (s.ref i) o aux = none → ∃ u j, exec (.imageRead i h o aux) s = .next (serveImages u) ∧
        u.sched = { s.sched with jobs := s.sched.jobs ++ [j], nextId := s.sched.nextId + 1 } ∧ j.id = s.sched.nextId ∧ j.hdr = h ∧ j.fn = i.fn ∧ j.ring = some (s.ref i) ∧
        j.plan = o.plan ∧ j.prio = o.prio ∧ j.state = .queued ∧ { u with sched := s.sched, fns := s.fns, out := s.out, cnt := s.cnt } = s) ∧
      (∀ o aux, readyFor s i = true → mayStart s i { hdr := h, op := .seqStep o aux } = true →
        seqStartCheck (startedState s i { hdr := h, op := .seqStep o aux }) (s.ref i) o = none → ∃ u j, exec (.seqStep i h o aux) s = .next u ∧
        u.sched = { s.sched with jobs := s.sched.jobs ++ [j], nextId := s.sched.nextId + 1 } ∧ j.id = s.sched.nextId ∧ j.hdr = h ∧ j.fn = i.fn ∧ j.ring = some (s.ref i) ∧
        j.plan = o.plan ∧ j.prio = o.prio ∧ j.state = .queued ∧ { u with sched := s.sched, fns := s.fns, out := s.out, cnt := s.cnt } = s) ∧
      (∀ o, readyFor s i = true → mayStart s i { hdr := h, op := .testRun o } = true → (o.test = 1 ∨ o.test = 2) → ∃ u j, exec (.testRun i h o) s = .next (schedule u) ∧
        u.sched = { s.sched with jobs := s.sched.jobs ++ [j], nextId := s.sched.nextId + 1 } ∧ j.id = s.sched.nextId ∧ j.hdr = h ∧ j.cls = 3 ∧ j.kind = .test o ∧
        { u with sched := s.sched, fns := s.fns } = s) ∧
      (∀ o, readyFor s i = true → mayStart s i { hdr := h, op := .testRun o } = true → o.test = 3 → (s.reg8 (Fin.ofNat 8 (o.tile / 32))).state = 2 →
        ∃ u j, exec (.testRun i h o) s = .next u ∧ u.sched = { s.sched with jobs := s.sched.jobs ++ [j], nextId := s.sched.nextId + 1 } ∧ j.id = s.sched.nextId ∧
          j.hdr = h ∧ j.state = .running ∧ j.kind = .test o ∧ { u with sched := s.sched, fns := s.fns } = s) ∧
      (∀ o, readyFor s i = true → mayStart s i { hdr := h, op := .testRun o } = true → o.test = 3 → (s.reg8 (Fin.ofNat 8 (o.tile / 32))).state ≠ 2 →
        ∃ t, exec (.testRun i h o) s = .next t ∧ completedIn s t i h 0x70 .badState [] ∧ { t with fns := s.fns, out := s.out, cnt := s.cnt, pegs := s.pegs } = s)) ∧
  (∀ (s : State) (i : RingId) (h : Hdr) (o : TailorStepOp) (aux : List Byte), readyFor s i = true → mayStart s i { hdr := h, op := .tailorStep o aux } = true →
      (planOf s i.fn o.plan = none → ∃ t, exec (.tailorStep i h o aux) s = .next t ∧ completedIn s t i h 0x12 .planUnknown [] ∧
        { t with fns := s.fns, out := s.out, cnt := s.cnt, pegs := s.pegs } = s) ∧
      (∀ p, planOf s i.fn o.plan = some p → tailorCheck p = none → (ensureMasters s p).isSome = true → ∃ u j x, exec (.tailorStep i h o aux) s = .next (serveImages (tailorEmpty u s.sched.nextId)) ∧
        u.sched = { s.sched with jobs := s.sched.jobs ++ [j], nextId := s.sched.nextId + 1 } ∧ j.id = s.sched.nextId ∧ j.hdr = h ∧
        u.tailor.steps = s.tailor.steps ++ [x] ∧ x.job = s.sched.nextId ∧ x.plan = p.handle))

/-- Tests on the tile store (R430, Table 17-5): a raw read of words writes 64 bytes a word to the host; test 5 darns the row of its address, or is TEST_FAIL
with no free patch row; tests 6 and 7 change a word's check state; no test changes a stored byte; the tests of a hole are TS_HOLE. The form of a flipped word
is the model's reading (log 34). -/
def Obligations.TileStoreTests : Prop :=
  ∀ (s : State) (i : RingId) (h : Hdr) (o : TestRunOp), readyFor s i = true → mayStart s i { hdr := h, op := .testRun o } = true →
    ((o.test = 6 ∨ o.test = 7) → inHole o.addr = false → ∃ t, exec (.testRun i h o) s = .next t ∧ completedIn s t i h 0x70 .ok [] ∧
      markOf t o.addr = flipMark o.test (markOf s o.addr) ∧ (∀ a, wordKey a ≠ wordKey o.addr → markOf t a = markOf s a) ∧ t.store.mem = s.store.mem ∧
      { t with store := s.store, fns := s.fns, out := s.out, cnt := s.cnt, pegs := s.pegs } = s) ∧
    (o.test = 4 → (∀ k, k < o.len / 64 → inHole (o.addr + 32 * k) = false) → ∃ t, exec (.testRun i h o) s = .next t ∧ completedIn s t i h 0x70 .ok [] ∧
      Output.hostWrite i.fn o.host ((List.range (o.len / 64)).flatMap fun k => rawWord s (o.addr + 32 * k)) ∈ t.out ∧
      { t with fns := s.fns, out := s.out, cnt := s.cnt, pegs := s.pegs } = s) ∧
    (∀ k, o.test = 4 → ((List.range (o.len / 64)).find? fun i => inHole (o.addr + 32 * i)) = some k → ∃ t, exec (.testRun i h o) s = .next t ∧
      completedIn s t i h 0x70 .tsHole (leBytes 4 (o.addr + 32 * k)) ∧ { t with fns := s.fns, out := s.out, cnt := s.cnt, pegs := s.pegs } = s) ∧
    ((o.test = 5 ∨ o.test = 6 ∨ o.test = 7) → inHole o.addr = true → ∃ t, exec (.testRun i h o) s = .next t ∧
      completedIn s t i h 0x70 .tsHole (leBytes 4 o.addr) ∧ { t with fns := s.fns, out := s.out, cnt := s.cnt, pegs := s.pegs } = s) ∧
    (o.test = 5 → inHole o.addr = false → ∃ t, exec (.testRun i h o) s = .next t ∧
      okEntry s i h 0x70 (if (freePatch s (bankKey (tsTile o.addr) (tsBank o.addr))).isNone then .testFail else .ok) [] ∈ t.out ∧
      (∀ p, freePatch s (bankKey (tsTile o.addr) (tsBank o.addr)) = some p → (bankKey (tsTile o.addr) (tsBank o.addr), tsRow o.addr, p) ∈ t.store.darn) ∧
      t.store.mem = s.store.mem)

/-- Plans by descriptor (R229, R253, R271, Tables 09-4 and 11-5): PLAN_LOAD joins the loader's queue, or is BAD_DESCRIPTOR with a report buffer below 128
bytes; PLAN_UNLOAD of a plan of the function marks it and is PLAN_UNKNOWN of any other; WARDROBE_PIN unpins the plan's model with operation 0, and otherwise
completes OK at once for a resident model, which operation 1 pins, is WARDROBE_FULL where it cannot fit, and joins the wardrobe's loads where the model is not
resident. Lowerings are operands of later commands (log 9). -/
def Obligations.PlanDescriptors : Prop :=
  ∀ (s : State) (i : RingId) (h : Hdr),
    (∀ o, readyFor s i = true → mayStart s i { hdr := h, op := .planLoad o } = true → 128 ≤ o.repLen → ∃ t, exec (.planLoad i h o) s = .next t ∧
      { t.plans with grant := s.plans.grant } = { s.plans with loadQ := s.plans.loadQ ++ [(s.ref i, h, o)] } ∧ (t.ring (s.ref i)).cqTail = (s.ring (s.ref i)).cqTail ∧
      { t with plans := s.plans, fns := s.fns, out := s.out, cnt := s.cnt } = s) ∧
    (∀ o, readyFor s i = true → mayStart s i { hdr := h, op := .planLoad o } = true → o.repLen < 128 → ∃ t, exec (.planLoad i h o) s = .next t ∧
      completedIn s t i h 0x20 .badDescriptor (leBytes 4 48) ∧ { t with fns := s.fns, out := s.out, cnt := s.cnt, pegs := s.pegs } = s) ∧
    (∀ n, readyFor s i = true → mayStart s i { hdr := h, op := .planUnload n } = true → planOf s i.fn n = none → ∃ t, exec (.planUnload i h n) s = .next t ∧
      completedIn s t i h 0x21 .planUnknown [] ∧ { t with fns := s.fns, out := s.out, cnt := s.cnt, pegs := s.pegs } = s) ∧
    (∀ n p, readyFor s i = true → mayStart s i { hdr := h, op := .planUnload n } = true → planOf s i.fn n = some p → ∃ t, exec (.planUnload i h n) s = .next t ∧
      (∃ q ∈ t.plans.loaded, q.handle = n ∧ q.unload = some (s.ref i, h)) ∧ (t.ring (s.ref i)).cqTail = (s.ring (s.ref i)).cqTail ∧
      { t with plans := s.plans, fns := s.fns } = s) ∧
    (∀ o p, readyFor s i = true → mayStart s i { hdr := h, op := .wardrobePin o } = true → planOf s i.fn o.plan = some p → o.op = 0 →
      ∃ t, exec (.wardrobePin i h o) s = .next t ∧ completedIn s t i h 0x22 .ok [] ∧ (∀ m ∈ t.sched.models, m.plan = p.handle → m.pinned = false) ∧
        (∀ m ∈ s.sched.models, m.plan ≠ p.handle → m ∈ t.sched.models) ∧
        { t with sched := s.sched, fns := s.fns, out := s.out, cnt := s.cnt, pegs := s.pegs } = s) ∧
    (∀ o, readyFor s i = true → mayStart s i { hdr := h, op := .wardrobePin o } = true → planOf s i.fn o.plan = none → ∃ t, exec (.wardrobePin i h o) s = .next t ∧
      completedIn s t i h 0x22 .planUnknown [] ∧ { t with fns := s.fns, out := s.out, cnt := s.cnt, pegs := s.pegs } = s) ∧
    (∀ o p, readyFor s i = true → mayStart s i { hdr := h, op := .wardrobePin o } = true → planOf s i.fn o.plan = some p → o.op ≠ 0 → modelReady s p = true →
      (o.op = 1 → (residentModel s p).isSome = true → pinFits s p = true) → ∃ t, exec (.wardrobePin i h o) s = .next t ∧ completedIn s t i h 0x22 .ok [] ∧
        (o.op = 1 → ∀ m ∈ t.sched.models, m.plan = p.handle → m.pinned = true) ∧ (∀ m ∈ s.sched.models, m.plan ≠ p.handle → m ∈ t.sched.models) ∧
        { t with sched := s.sched, fns := s.fns, out := s.out, cnt := s.cnt, pegs := s.pegs } = s) ∧
    (∀ o p, readyFor s i = true → mayStart s i { hdr := h, op := .wardrobePin o } = true → planOf s i.fn o.plan = some p → o.op ≠ 0 → pinFits s p = false →
      (modelReady s p = true → o.op = 1 ∧ (residentModel s p).isSome = true) → ∃ t, exec (.wardrobePin i h o) s = .next t ∧
        completedIn s t i h 0x22 .wardrobeFull [] ∧ { t with fns := s.fns, out := s.out, cnt := s.cnt, pegs := s.pegs } = s) ∧
    (∀ o p, readyFor s i = true → mayStart s i { hdr := h, op := .wardrobePin o } = true → planOf s i.fn o.plan = some p → o.op ≠ 0 → pinFits s p = true →
      modelReady s p = false → ∃ t, exec (.wardrobePin i h o) s = .next t ∧ (∃ l, t.sched.loads = s.sched.loads ++ [l] ∧ l.plan = p.handle ∧
        l.pin = some (s.ref i, h, o.op)) ∧ (t.ring (s.ref i)).cqTail = (s.ring (s.ref i)).cqTail ∧ { t with sched := s.sched, fns := s.fns } = s)

/-- A lone PT_EDIT (R213 to R216): one whose conditions hold edits the page table in one step that raises the version by 1 and completes OK with it; one of an
unknown plan or sequence, or whose conditions do not hold, edits nothing. The statuses of a lone edit of an unknown plan or sequence are the model's reading
(log 52). -/
def Obligations.PtEdit : Prop :=
  ∀ (s : State) (i : RingId) (h : Hdr) (o : PtEditOp), readyFor s i = true → mayStart s i { hdr := h, op := .ptEdit o } = true →
    (editCheck s i.fn o = none → ∃ t, exec (.ptEdit i h o) s = .next t ∧ t.pool.version = s.pool.version + 1 ∧
      okEntry s i h 0x30 .ok (leBytes 4 (s.pool.version + 1).toNat) ∈ t.out) ∧
    (editCheck s i.fn o = none → (o.kind = 2 ∨ o.kind = 3) → ∃ t, exec (.ptEdit i h o) s = .next t ∧ t.pool.version = s.pool.version + 1 ∧
      completedIn s t i h 0x30 .ok (leBytes 4 (s.pool.version + 1).toNat) ∧ t.pool.refs = s.pool.refs ∧
      { t with pool := s.pool, fns := s.fns, out := s.out, cnt := s.cnt, pegs := s.pegs } = s) ∧
    (∀ st, editCheck s i.fn o = some st → ∃ t, exec (.ptEdit i h o) s = .next t ∧
      completedIn s t i h 0x30 (if st = .badState ∨ editTarget s i.fn o = true then .foldAborted else st)
        (if st = .badState ∨ editTarget s i.fn o = true then abortDetail 0 0x30 st else []) ∧
      { t with fns := s.fns, out := s.out, cnt := s.cnt, pegs := s.pegs } = s)

/-- Arming and calibrating (R5, R38, R54, R62, R63): a SCAN_ARM that passes its checks arms the track with its ports and its plan when the tiles can be
reserved, at S4 without a plan for first light, and is SCAN_LIMIT with cause 20 when they cannot, and one that names no side, or an armed track, is refused;
SCAN_DISARM of a track that is not armed completes OK and of an armed one waits for the pieces numbered, a second one with the first; CAL_RUN of a free port
starts its calibration, waits while its port or track is armed or calibrates, and is BAD_STATE of a standby. The order of the arming checks is the model's
choice (log 29). -/
def Obligations.ArmAndCalibrate : Prop :=
  ∀ (s : State) (i : RingId) (h : Hdr),
    (∀ o, readyFor s i = true → mayStart s i { hdr := h, op := .scanArm o } = true → o.sides = 0 → ∃ t, exec (.scanArm i h o) s = .next t ∧
      completedIn s t i h 0x01 .badDescriptor (leBytes 1 17) ∧ { t with fns := s.fns, out := s.out, cnt := s.cnt, pegs := s.pegs } = s) ∧
    (∀ o, readyFor s i = true → mayStart s i { hdr := h, op := .scanArm o } = true → o.sides ∈ [1, 2, 3] → 6 ≤ s.boot.stage →
      (armPlan s (s.ref i) o).isSome = true → (s.track (trackOf o.track)).armed = true → ∃ t, exec (.scanArm i h o) s = .next t ∧
      completedIn s t i h 0x01 .badState [] ∧ { t with fns := s.fns, out := s.out, cnt := s.cnt, pegs := s.pegs } = s) ∧
    (∀ o f pl, readyFor s i = true → mayStart s i { hdr := h, op := .scanArm o } = true → 6 ≤ s.boot.stage → o.sides ∈ [1, 2, 3] →
      armPlan s (s.ref i) o = some pl → (s.track (trackOf o.track)).armed = false → armPorts s (trackOf o.track) o.sides = some f → pl.c.feed = true →
      pinFits s pl = true →
      let k := trackOf o.track
      let cs := ([(f.1, Side.front)] ++ f.2.toList.map fun b => (b, Side.back)).map fun x => (x.1, portCfg s x.1 k x.2)
      (∀ c ∈ cs, portLimit s false (rateMax s k) (cs.length + (allPorts.filter fun q => (s.lp q).armed).length) c.1 c.2 = none ∧
        exceedsPlan pl (rateMax s k) c.2 = false) →
      ∃ t, exec (.scanArm i h o) s = .next t ∧ keeps s t ∧
        if (reserveAll (startedState s i { hdr := h, op := .scanArm o }) cs).isSome then
          (t.track k).armed = true ∧ (t.track k).front = some f.1 ∧ (t.track k).back = f.2 ∧ (t.track k).plan = pl.handle ∧
          ((∀ c ∈ cs, (s.lp c.1).deadCols = [] ∨ c.2.switched = true) → (t.track k).armedMax = rateMax s k) ∧ (t.track k).hold.disarm = false ∧ (t.track k).edges = [] ∧ (∀ c ∈ cs, (t.lp c.1).armed = true)
        else completedIn s t i h 0x01 .scanLimit ([20, BitVec.ofNat 8 f.1.val] ++ zeros 2 ++ leBytes 4 0) ∧ { t with fns := s.fns, out := s.out, cnt := s.cnt, pegs := s.pegs } = s) ∧
    (∀ o f, readyFor s i = true → mayStart s i { hdr := h, op := .scanArm o } = true → s.boot.stage < 5 → o.plan = 0xFFFFFFFF → o.sides ∈ [1, 2, 3] →
      (s.track (trackOf o.track)).armed = false → armPorts s (trackOf o.track) o.sides = some f →
      let k := trackOf o.track
      let cs := ([(f.1, Side.front)] ++ f.2.toList.map fun b => (b, Side.back)).map fun x => (x.1, portCfg s x.1 k x.2)
      (∀ c ∈ cs, portLimit s true (rateMax s k) (cs.length + (allPorts.filter fun q => (s.lp q).armed).length) c.1 c.2 = none) →
      ∃ t, exec (.scanArm i h o) s = .next t ∧ keeps s t ∧
        if (reserveAll (startedState s i { hdr := h, op := .scanArm o }) cs).isSome then
          (t.track k).armed = true ∧ (t.track k).firstLight = true ∧ (t.track k).front = some f.1 ∧ (t.track k).back = f.2 ∧ (∀ c ∈ cs, (t.lp c.1).armed = true)
        else completedIn s t i h 0x01 .scanLimit ([20, BitVec.ofNat 8 f.1.val] ++ zeros 2 ++ leBytes 4 0)) ∧
    (∀ n, readyFor s i = true → mayStart s i { hdr := h, op := .scanDisarm n } = true → (s.track (trackOf n)).armed = false → ∃ t, exec (.scanDisarm i h n) s = .next t ∧
      completedIn s t i h 0x02 .ok [] ∧ { t with fns := s.fns, out := s.out, cnt := s.cnt, pegs := s.pegs } = s) ∧
    (∀ n, readyFor s i = true → mayStart s i { hdr := h, op := .scanDisarm n } = true → (s.track (trackOf n)).armed = true → (s.track (trackOf n)).disarm = none →
      ∃ t, exec (.scanDisarm i h n) s = .next t ∧
        (t.track (trackOf n)).disarm = some ([(s.ref i, h)], ((s.track (trackOf n)).pieces.filter fun y => !y.posted).map (·.num)) ∧
        (t.ring (s.ref i)).cqTail = (s.ring (s.ref i)).cqTail ∧ { t with fns := s.fns, trackA := s.trackA, trackB := s.trackB } = s) ∧
    (∀ n ds ns, readyFor s i = true → mayStart s i { hdr := h, op := .scanDisarm n } = true → (s.track (trackOf n)).armed = true →
      (s.track (trackOf n)).disarm = some (ds, ns) → ∃ t, exec (.scanDisarm i h n) s = .next t ∧ (t.track (trackOf n)).disarm = some (ds ++ [(s.ref i, h)], ns) ∧
        (t.ring (s.ref i)).cqTail = (s.ring (s.ref i)).cqTail ∧ { t with fns := s.fns, trackA := s.trackA, trackB := s.trackB } = s) ∧
    (∀ o, readyFor s i = true → mayStart s i { hdr := h, op := .calRun o } = true → isStandby s = true → ∃ t, exec (.calRun i h o) s = .next t ∧
      completedIn s t i h 0x03 .badState [] ∧ { t with fns := s.fns, out := s.out, cnt := s.cnt, pegs := s.pegs } = s) ∧
    (∀ o, readyFor s i = true → mayStart s i { hdr := h, op := .calRun o } = true → isStandby s = false → (s.lp (Fin.ofNat 4 o.port)).calWait = [] →
      (s.lp (Fin.ofNat 4 o.port)).armed = false → (s.lp (Fin.ofNat 4 o.port)).cal = none →
      (s.track (portTrack s (Fin.ofNat 4 o.port))).armed = false →
      ∃ t, exec (.calRun i h o) s = .next t ∧ (∃ c, (t.lp (Fin.ofNat 4 o.port)).cal = some c ∧ c.r = s.ref i ∧ c.hdr = h ∧ c.issued = 0) ∧
        (t.ring (s.ref i)).cqTail = (s.ring (s.ref i)).cqTail ∧ { t with fns := s.fns, ports := s.ports, out := s.out } = s) ∧
    (∀ o, readyFor s i = true → mayStart s i { hdr := h, op := .calRun o } = true → isStandby s = false →
      ((s.lp (Fin.ofNat 4 o.port)).armed = true ∨ (s.lp (Fin.ofNat 4 o.port)).cal.isSome = true ∨
        (s.track (portTrack s (Fin.ofNat 4 o.port))).armed = true) → ∃ t, exec (.calRun i h o) s = .next t ∧
        (t.lp (Fin.ofNat 4 o.port)).calWait = (s.lp (Fin.ofNat 4 o.port)).calWait ++ [(s.ref i, h, o)] ∧
        (t.lp (Fin.ofNat 4 o.port)).cal = (s.lp (Fin.ofNat 4 o.port)).cal ∧ (t.ring (s.ref i)).cqTail = (s.ring (s.ref i)).cqTail ∧
        { t with fns := s.fns, ports := s.ports, out := s.out } = s) ∧
    (∀ o, readyFor s i = true → mayStart s i { hdr := h, op := .calRun o } = true → isStandby s = false → (∀ q : Port, (s.lp q).calWait = []) →
      (s.track (portTrack s (Fin.ofNat 4 o.port))).armed = true →
      ∃ t, exec (.calRun i h o) s = .next t ∧ t.lp (Fin.ofNat 4 o.port) = { s.lp (Fin.ofNat 4 o.port) with calWait := [(s.ref i, h, o)] } ∧
        (∀ q : Port, q ≠ Fin.ofNat 4 o.port → t.lp q = s.lp q) ∧ (t.ring (s.ref i)).cqTail = (s.ring (s.ref i)).cqTail ∧ { t with fns := s.fns, ports := s.ports } = s)

/-- Quotes (R409, R410, Table 20-11): a request makes the function's quote busy, and one that is busy only sets bad_write; when a quote is due, the next
function in turn is served: a buffer below 8,768 bytes ends it with result 1, no usable leaf with result 2, and either way it is no longer busy. A leaf is
used once (R407, R408): the leaf that a quote takes is the current tree's next one, whose block is reserved in flash before it is used, and the leaf after it
comes next. Signatures are opaque (log 12) and the order among functions is the model's reading (log 63). -/
def Obligations.QuotesAndLeaves : Prop :=
  (∀ (s : State) (fn : Fn),
      (2 ≤ s.boot.stage → (s.fnOf fn).enabled = true → (s.fnOf fn).quote.busy = false → ∃ t, exec (.attestGo fn) s = .next t ∧
        t.fnOf fn = { s.fnOf fn with quote := { (s.fnOf fn).quote with busy := true } } ∧ (∀ f, f ≠ fn → t.fnOf f = s.fnOf f) ∧ { t with fns := s.fns } = s) ∧
      (2 ≤ s.boot.stage → (s.fnOf fn).enabled = true → (s.fnOf fn).quote.busy = true → ∃ t, exec (.attestGo fn) s = .next t ∧
        t.fnOf fn = { s.fnOf fn with badWrite := true } ∧ (∀ f, f ≠ fn → t.fnOf f = s.fnOf f) ∧ { t with fns := s.fns } = s) ∧
      (nextQuote s = none → ∀ b, exec (.quoteStart b) s = .next s) ∧
      (nextQuote s = some fn → quoteDue s = true → ∀ b,
        (regGet s fn.val 0x40048 < 8768 → ∃ t, exec (.quoteStart b) s = .next t ∧ (t.fnOf fn).quote = { busy := false, result := 1 } ∧
          { t with sec := s.sec, fns := s.fns, out := s.out } = s) ∧
        (8768 ≤ regGet s fn.val 0x40048 → takeLeaf s = none → ∃ t, exec (.quoteStart b) s = .next t ∧ (t.fnOf fn).quote = { busy := false, result := 2 } ∧
          { t with sec := s.sec, fns := s.fns, out := s.out } = s) ∧
        (∀ l u, 8768 ≤ regGet s fn.val 0x40048 → takeLeaf s = some (l, u) → ∃ t, exec (.quoteStart b) s = .next t ∧
          (t.fnOf fn).quote = { busy := false, result := if b then 0 else 3 } ∧ t.sec.lastQuote = some s.now))) ∧
  (∀ (s u : State) (l b : Nat), s.sec.rebuilt = true → hasCert s s.sec.tree = true → s.sec.block = some b → 256 * b ≤ s.sec.leaf → s.sec.leaf < 256 * b + 256 →
      takeLeaf s = some (l, u) → l = s.sec.leaf ∧ u.sec.leaf = s.sec.leaf + 1 ∧ u.sec.tree = s.sec.tree ∧ u.sec.flash = s.sec.flash)

/-- Attestation trees (R405, R406): from S4 the rebuilt tree may sign; a tree without its certificate gets one, signed by an identity leaf, and only then.
Which tree a renewal certifies is the model's reading (log 44). -/
def Obligations.AttestationTrees : Prop :=
  ∀ s : State, 4 ≤ s.boot.stage →
    exec .attestationTreeRebuilt s = .next { s with sec := { s.sec with rebuilt := true } } ∧
    (renewalTree s = none → exec .attestationRenewal s = .next s) ∧
    (∀ k n u, renewalTree s = some k → idLeaf s = some (n, u) → ∃ t, exec .attestationRenewal s = .next t ∧ (k, n) ∈ t.sec.flash.certs ∧ { t with sec := s.sec } = s)

/-- Updates (R411 to R413, Table 16-9): staging an image or a blob makes the updater busy and reads the host's bytes; its end clears busy with the result of
the first check that fails, an image below the floor with result 3, a flash that could not be written with 5; a module in recovery runs the image it took; a
region that is not DRAINED refuses its new firmware with result 6, a DRAINED one takes it and is measured; CONFIRM raises the floor to what the running image
asks for. The order of the update checks is the model's choice (log 45). -/
def Obligations.Updates : Prop :=
  ∀ s : State,
    (updateUsable s = true → s.sec.updBusy = false →
      (∃ t, exec .updateStage s = .next t ∧ t.sec = { s.sec with updBusy := true, updBlob := false } ∧
        t.out = s.out ++ [.hostRead 0 (regGet s 0 0x40080) (regGet s 0 0x40088)] ∧ { t with sec := s.sec, out := s.out } = s) ∧
      (∃ t, exec .updateBlob s = .next t ∧ t.sec = { s.sec with updBusy := true, updBlob := true } ∧
        t.out = s.out ++ [.hostRead 0 (regGet s 0 0x40080) (regGet s 0 0x40088)] ∧ { t with sec := s.sec, out := s.out } = s)) ∧
    (s.sec.updBusy = false → ∀ b w, exec (.updateDone b w) s = .next s) ∧
    (∀ b, s.sec.updBusy = true → s.sec.updBlob = false → s.boot.recovery = false →
      ∃ t, exec (.updateDone b true) s = .next t ∧ t.sec.updBusy = false ∧ t.sec.updResult = (imageRefused s b.length (parseImage b)).getD 0 ∧
        (if (imageRefused s b.length (parseImage b)).isSome then t.sec.flash = s.sec.flash ∧ t.sec.staged = s.sec.staged
          else t.sec.staged = some (parseImage b) ∧ (if s.boot.slot then t.sec.flash.slotA else t.sec.flash.slotB) = some (parseImage b) ∧
            (if s.boot.slot then t.sec.flash.slotB = s.sec.flash.slotB else t.sec.flash.slotA = s.sec.flash.slotA)) ∧ { t with sec := s.sec } = s) ∧
    (∀ b, s.sec.updBusy = true → s.sec.updBlob = false → ∃ t, exec (.updateDone b false) s = .next t ∧ t.sec.updBusy = false ∧
      t.sec.updResult = (imageRefused s b.length (parseImage b)).getD 5 ∧ (imageRefused s b.length (parseImage b) = none → t.sec.staged = none) ∧
      { t with sec := s.sec } = s) ∧
    (∀ b, s.sec.updBusy = true → s.sec.updBlob = false → s.boot.recovery = true → ∃ t, exec (.updateDone b true) s = .next t ∧ t.sec.updBusy = false ∧
      t.sec.updResult = (imageRefused s b.length (parseImage b)).getD 0 ∧ t.boot.stage = s.boot.stage ∧
      (imageRefused s b.length (parseImage b) = none → t.boot.recovery = false ∧ t.sec.version = (parseImage b).version) ∧
      { t with sec := s.sec, boot := s.boot } = s) ∧
    (∀ b w, s.sec.updBusy = true → s.sec.updBlob = true → ∃ t, exec (.updateDone b w) s = .next t ∧ t.sec.updBusy = false ∧
      t.sec.updResult = (if Config.blobSigOk b then (if w then 0 else 5) else 1) ∧
      t.sec.flash = (if Config.blobSigOk b then { s.sec.flash with blob := if w then some (parseBlob b) else none } else s.sec.flash) ∧ { t with sec := s.sec } = s) ∧
    (∀ g i, 2 ≤ s.boot.stage → s.sec.updBusy = false → s.sec.staged = some i → (s.reg8 g).state ≠ 2 →
      exec (.regionApply g) s = .next { s with sec := { s.sec with updBusy := false, updResult := 6 } }) ∧
    (∀ g i, 2 ≤ s.boot.stage → s.sec.updBusy = false → s.sec.staged = some i → (s.reg8 g).state = 2 → i.leastChip ≤ s.sec.version → s.sec.blob.regionUpdate = true →
      ∃ t, exec (.regionApply g) s = .next t ∧ (t.reg8 g).fw = some i.regionDigest ∧ t.sec.logCount = s.sec.logCount + 1 ∧ t.sec.updResult = 0 ∧
        (∀ k, k ≠ g → t.reg8 k = s.reg8 k) ∧ { t with sec := s.sec, regions := s.regions } = s) ∧
    (∀ i, s.boot.stage = 6 → s.sec.updBusy = false → (if s.boot.slot then s.sec.flash.slotB else s.sec.flash.slotA) = some i →
      ∃ t, exec .confirm s = .next t ∧ t.sec.floor = max s.sec.floor i.floorReq ∧ t.sec.updResult = 0 ∧ { t with sec := s.sec } = s)

/-- Frames of the twin link come in order (R379): with the link down a frame does nothing; a repeat of one taken is acknowledged again and dropped, and one
beyond a gap is answered with a NAK of the last taken, whatever its type; neither moves anything but the frames sent and the counters. The order of acceptance
is the model's reading (log 40). -/
def Obligations.TwinFrameOrder : Prop :=
  ∀ (s : State) (seq : Half) (c : Instr), frameOf seq c →
    (s.twin.linkUp = false → exec c s = .next s) ∧
    (∀ q, s.twin.linkUp = true → s.twin.rxSeq = some q → seq ≠ q + 1 → ∃ t, exec c s = .next t ∧
      t.out = s.out ++ [.twinFrame (twinFrame (if (q - seq).toNat < 32768 then 0x20 else 0x21) 0 0 0 0 q.toNat [])] ∧ { t with out := s.out, cnt := s.cnt } = s)

/-- A frame taken in order is acknowledged and has its effect (R379 to R384, R388, R389, Tables 15-2 to 15-4): a WINDOW_STATE replaces the record of the
partner's window; a HEARTBEAT is the latest and clears the misses, and tells a standby the active's commits; a PAIR before this module has sent its own, a
SYNC to a module that is no paired standby and a HEALTH to one that is none have no further effect; a WRITE_DONE completes its transfer; a WRITE to a closed
window is refused, and the last of a transfer is answered with WRITE_DONE and the first status that was not OK. A SYNC to a paired standby (R386, Table 15-3):
it takes the active's piece count, both tracks' encoder state and the coefficients it brings. The order of acceptance is the model's reading (log 40) and the
layout of SYNC its choice (log 25). -/
def Obligations.TwinFramesTaken : Prop :=
  (∀ (s : State) (seq : Half), nextFrame s seq = true →
      (∀ w a n, exec (.windowState seq w a n) s = .next { frameTaken s seq with twin := { (frameTaken s seq).twin with
        partner := (s.twin.partner.filter fun e => e.1 != w) ++ (if a = 0 ∧ n = 0 then [] else [(w, a, n)]) } }) ∧
      (∀ p, isStandby s = false → exec (.heartbeat seq p) s = .next { frameTaken s seq with twin := { (frameTaken s seq).twin with
        beat := some p, misses := 0, partnerCount := p.windows } }) ∧
      (∀ p, ∃ t, exec (.heartbeat seq p) s = .next t ∧ t.twin.beat = some p ∧ t.twin.misses = 0 ∧ t.twin.partnerCount = p.windows ∧ t.twin.rxSeq = some seq ∧
        (isStandby s = true → (p.commA ≠ 0xFFFFFFFF → t.trackA.lastCommit = p.commA) ∧ (p.commB ≠ 0xFFFFFFFF → t.trackB.lastCommit = p.commB))) ∧
      (∀ p, (s.twin.paired && isStandby s) = false → exec (.sync seq p) s = .next (frameTaken s seq)) ∧
      (∀ u r n, s.twin.pairSent = false → exec (.pair seq u r n) s = .next (frameTaken s seq)) ∧
      (∀ c a b, (isStandby s && s.twin.paired) = false → exec (.health seq c a b) s = .next (frameTaken s seq)) ∧
      (∀ x st, s.twin.xfers = [] → exec (.writeDone seq x st) s = .next (frameTaken s seq)) ∧
      (∀ f, windowOf s f.win = none → f.last = false → smFind s.twin.badXfer f.xfer = none → ∃ t, exec (.twinWrite seq f) s = .next t ∧
        smFind t.twin.badXfer f.xfer = some Status.windowClosed.code ∧ t.store = s.store ∧ t.twin.dram = s.twin.dram) ∧
      (∀ f, f.last = true → ∃ t, exec (.twinWrite seq f) s = .next t ∧ t.twin.txSeq = s.twin.txSeq + 1 ∧
        Output.twinFrame (twinFrame 0x11 0 s.twin.txSeq f.win f.xfer 0 (leBytes 2 (match smFind s.twin.badXfer f.xfer with
          | some c => c
          | none => (landWrite (frameTaken s seq) f).1.code))) ∈ t.out)) ∧
  (∀ (s : State) (seq : Half) (p : SyncP), nextFrame s seq = true → s.twin.paired = true → isStandby s = true →
      ∃ t, exec (.sync seq p) s = .next t ∧ t.nextPiece = p.nextPiece ∧
        (∀ k : Track, let y := (match k with | .A => p.a | .B => p.b); (t.track k).position = y.position ∧ (t.track k).highMark = y.highMark ∧ (t.track k).phase = y.phase ∧
          (t.track k).divN = y.divN ∧ (t.track k).divF = y.divF ∧ (t.track k).edges = y.edges ∧ (t.track k).pieces = (s.track k).pieces ∧
          (t.track k).armed = (s.track k).armed) ∧
        (∀ c ∈ p.coefs, (∀ e ∈ p.coefs, (Fin.ofNat 4 e.1 : Port) = Fin.ofNat 4 c.1 → e = c) → (t.lp (Fin.ofNat 4 c.1)).inUse = some c.2) ∧
        { t with nextPiece := s.nextPiece, trackA := s.trackA, trackB := s.trackB, ports := s.ports, twin := s.twin, out := s.out, cnt := s.cnt } = s)

/-- WRITE and WRITE_DONE (R381, Table 15-4): a WRITE inside an open window of DRAM or of the tile store puts its bytes at base + offset and nowhere else, and
the last one is answered with WRITE_DONE; the WRITE_DONE of a transfer completes its TWIN_DMA with the status it carries. Where a transfer's bytes come from
is the model's choice (log 43). -/
def Obligations.TwinTransfers : Prop :=
  ∀ (s : State) (seq : Half), nextFrame s seq = true →
    (∀ f w, windowOf s f.win = some w → bitAt w.access 0 = true → w.target = 0 → f.off + f.data.length ≤ w.len → smFind s.twin.badXfer f.xfer = none →
      ∃ t, exec (.twinWrite seq f) s = .next t ∧ t.twin.dram = dramWrite s.twin.dram (w.base + f.off) f.data ∧ t.twin.windows = s.twin.windows ∧ t.store = s.store ∧
        (f.last = true → Output.twinFrame (twinFrame 0x11 0 s.twin.txSeq f.win f.xfer 0 (leBytes 2 0)) ∈ t.out) ∧
        { t with twin := s.twin, out := s.out, cnt := s.cnt } = s) ∧
    (∀ f w, memoryOk s → windowOf s f.win = some w → bitAt w.access 0 = true → w.target ≠ 0 → f.off + f.data.length ≤ w.len →
      ((List.range (ceilDiv f.data.length 32)).any fun k => inHole (w.base + f.off + 32 * k)) = false → s.store.marks = [] →
      ∃ t, exec (.twinWrite seq f) s = .next t ∧ (∀ j, j < f.data.length → memByte t.store.mem (w.base + f.off + j) = f.data.getD j 0) ∧
        (∀ a, (a < w.base + f.off ∨ w.base + f.off + f.data.length ≤ a) → memByte t.store.mem a = memByte s.store.mem a) ∧ t.twin.dram = s.twin.dram) ∧
    (∀ x st v, s.twin.xfers.find? (fun y => y.id == x.id) = some x → Status.ofCode v = some st → ∃ t, exec (.writeDone seq x.id v) s = .next t ∧
      (∀ y ∈ t.twin.xfers, y.id ≠ x.id) ∧ ∀ y ∈ s.twin.xfers, y.id ≠ x.id → y ∈ t.twin.xfers) ∧
    (∀ x st v, s.twin.xfers.find? (fun y => y.id == x.id) = some x → Status.ofCode v = some st → ringLive s x.r = true → cqRoom s x.r = true → (s.ring x.r).held = [] →
      ∃ t, exec (.writeDone seq x.id v) s = .next t ∧ (∀ y ∈ t.twin.xfers, y.id ≠ x.id) ∧ (t.ring x.r).cqTail = (s.ring x.r).cqTail + 1 ∧
        { t with twin := s.twin, fns := s.fns, out := s.out, cnt := s.cnt, pegs := s.pegs } = s)

/-- The sending side (R379, R384): ACK and NAK drop the frames they cover; a NAK sends the rest again, and a fifth without progress takes the link down; a
frame with a wrong CRC is answered with a NAK; an enabled module with the link up sends heartbeats, and counts those it misses. The count of resends is the
model's reading (log 40). -/
def Obligations.TwinSending : Prop :=
  ∀ s : State,
    (∀ q, s.twin.linkUp = true → ∃ t, exec (.ack q) s = .next t ∧ t.twin.unacked = s.twin.unacked.filter (fun e => decide (32768 ≤ (q - e.1).toNat)) ∧
      { t with twin := s.twin, cnt := s.cnt } = s) ∧
    (∀ q, s.twin.linkUp = true →
      (s.twin.resends < 4 ∨ (s.twin.unacked.filter fun e => decide (32768 ≤ (q - e.1).toNat)).length < s.twin.unacked.length) → ∃ t, exec (.nak q) s = .next t ∧
      t.twin.unacked = s.twin.unacked.filter (fun e => decide (32768 ≤ (q - e.1).toNat)) ∧
      t.out = s.out ++ t.twin.unacked.map (fun e => .twinFrame e.2) ∧ { t with twin := s.twin, out := s.out, cnt := s.cnt } = s) ∧
    (∀ q e u, s.twin.linkUp = true → s.twin.unacked = e :: u → (∀ x ∈ s.twin.unacked, 32768 ≤ (q - x.1).toNat) → 4 ≤ s.twin.resends →
      ∃ t, exec (.nak q) s = .next t ∧ t.twin.linkUp = false) ∧
    (s.twin.linkUp = true → ∃ t, exec .twinFrameCrcFail s = .next t ∧
      t.out = s.out ++ [.twinFrame (twinFrame 0x21 0 0 0 0 (s.twin.rxSeq.getD 0xFFFF).toNat [])] ∧ { t with out := s.out, cnt := s.cnt } = s) ∧
    (s.twin.linkUp = true → twinEnabled s = true → ∃ t, exec .heartbeatSend s = .next t ∧
      t.out = s.out ++ [.twinFrame (twinFrame 0x01 0 s.twin.txSeq 0 0 0 (heartbeatBytes (heartbeatOf s)))] ∧ t.twin.txSeq = s.twin.txSeq + 1 ∧
      { t with twin := s.twin, out := s.out, cnt := s.cnt } = s) ∧
    (twinEnabled s = true → s.twin.beat.isSome = true → (s.twin.misses ≠ 2 ∨ isStandby s = false ∨ s.twin.paired = false) →
      ∃ t, exec .heartbeatMissed s = .next t ∧ t.twin = { s.twin with misses := s.twin.misses + 1 } ∧ { t with twin := s.twin, cnt := s.cnt } = s)

/-- The link, the fence and the twin's states (R378, R383, R385, R388 to R390, R393, Tables 15-5 and 15-6): a new link starts both sequences again; a link
that goes down ends its transfers; three missed heartbeats make a paired standby take over with its fence output asserted; a fence input fences an enabled
module, whose FEED_HOLD goes, until it is cleared with the input released; TAKEOVER_CLEAR releases the fence output; enabling makes a module a standby until
it is paired; a handover without a ready partner is refused. Pairing, takeover and handover (R383, R388, R393): the answer to this module's PAIR pairs it, and
its state follows the requested roles, then the unit numbers, then the serial numbers; a HEALTH to a paired standby makes it take over, with its fence output
asserted unless the partner hands over (cause 4); a handover to a ready partner, with no piece that is not posted, sends HEALTH with cause 4 and leaves a
standby. The state before pairing, the release of the fence output and readiness are the model's readings (logs 41, 42 and 61). -/
def Obligations.TwinStatesAndRoles : Prop :=
  (∀ s : State,
      (∀ r, twinEnabled s = false → ∃ t, exec (.twinLinkUp r) s = .next t ∧ t.twin.linkUp = true ∧ t.twin.rate16 = r ∧ t.twin.txSeq = 0 ∧ t.twin.unacked = [] ∧
        t.twin.rxSeq = none ∧ t.twin.paired = false ∧ { t with twin := s.twin } = s) ∧
      (∀ r, ∃ t, exec (.twinLinkUp r) s = .next t ∧ t.twin.linkUp = true ∧ t.twin.rate16 = r ∧ t.twin.rxSeq = none ∧ t.twin.paired = false ∧ t.twin.partner = [] ∧
        t.twin.pairSent = twinEnabled s ∧ (twinEnabled s = true → Output.twinFrame (twinFrame 0x05 0 0 0 0 0 (pairBytes s)) ∈ t.out)) ∧
      (s.twin.linkUp = true → ∃ t, exec .twinLinkDown s = .next t ∧ t.twin.linkUp = false ∧ t.twin.xfers = [] ∧ t.twin.readyA = false ∧ t.twin.readyB = false ∧
        t.twin.windows = s.twin.windows ∧ t.twin.state = s.twin.state) ∧
      (twinEnabled s = true → s.twin.beat.isSome = true → s.twin.misses = 2 → isStandby s = true → s.twin.paired = true → s.trackA.armed = false → s.trackB.armed = false →
        s.sched.jobs = [] → ∃ t, exec .heartbeatMissed s = .next t ∧ t.twin.state = .active ∧ t.twin.takeover = true ∧ t.twin.fenceOut = true ∧
          { t with twin := s.twin, cnt := s.cnt } = s) ∧
      (twinEnabled s = true → s.trackA.pieces = [] → s.trackB.pieces = [] → ∃ t, exec (.twinFenceIn true) s = .next t ∧ t.twin.state = .fenced ∧ t.twin.fenced = true ∧
        t.twin.fenceIn = true ∧ t.twin.fenceOut = false ∧ feedHold t .A = false ∧ feedHold t .B = false ∧ { t with twin := s.twin, commitQ := s.commitQ } = s) ∧
      (twinEnabled s = true → s.twin.beat.isSome = true → s.twin.misses = 2 → isStandby s = true → s.twin.paired = true → ∃ t, exec .heartbeatMissed s = .next t ∧
        (t.twin.state = .active ∨ t.twin.state = .takingOver) ∧ t.twin.takeover = true ∧ t.twin.fenceOut = true ∧ t.twin.paired = false) ∧
      (twinEnabled s = true → ∃ t, exec (.twinFenceIn true) s = .next t ∧ t.twin.state = .fenced ∧ t.twin.fenced = true ∧ t.twin.fenceIn = true ∧
        t.twin.fenceOut = false ∧ feedHold t .A = false ∧ feedHold t .B = false) ∧
      (twinEnabled s = false → exec (.twinFenceIn true) s = .next { s with twin := { s.twin with fenceIn := true } }) ∧
      (s.twin.fenced = true → s.twin.fenceIn = false → ∃ t, exec .fenceClear s = .next t ∧ t.twin.fenced = false ∧
        t.twin.state = (if twinEnabled s then .standby else .solo) ∧ t.twin.paired = false ∧ (twinEnabled s = true → s.twin.linkUp = true → t.twin.pairSent = true)) ∧
      (∀ on, twinEnabled s ≠ on → ∃ t, exec (.twinEnable on) s = .next t ∧ twinEnabled t = on ∧
        t.twin.state = (if on then (if s.twin.state = .fenced then .fenced else .standby) else if s.twin.fenced then .fenced else .solo) ∧
        (on = true → s.twin.linkUp = true → t.twin.pairSent = true) ∧ (on = false → t.twin.paired = false ∧ t.twin.pairSent = false ∧ t.twin.fenceOut = false)) ∧
      exec (.twinFenceIn false) s = .next { s with twin := { s.twin with fenceIn := false } } ∧
      (s.twin.fenced = true → s.twin.fenceIn = false → (twinEnabled s = false ∨ s.twin.linkUp = false) → ∃ t, exec .fenceClear s = .next t ∧ t.twin = { s.twin with
        fenced := false, state := if twinEnabled s then .standby else .solo, paired := false } ∧ { t with twin := s.twin } = s) ∧
      (s.twin.fenceIn = true → exec .fenceClear s = .next s) ∧
      exec .takeoverClear s = .next { s with twin := { s.twin with takeover := false, fenceOut := false } } ∧
      (s.twin.state = .active → s.twin.handoverTo = none → s.twin.paired = false → exec .handover s = .next { s with twin := { s.twin with refused := true } }) ∧
      (twinEnabled s = false → s.twin.state = .solo → s.twin.linkUp = false → s.trackA.pieces = [] → s.trackB.pieces = [] → ∃ t, exec (.twinEnable true) s = .next t ∧
        t.twin.state = .standby ∧ t.twin.paired = false ∧ twinEnabled t = true ∧ { t with twin := s.twin, regs := s.regs, commitQ := s.commitQ } = s)) ∧
  (∀ s : State,
      (∀ seq unit role serial, nextFrame s seq = true → twinEnabled s = true → s.twin.pairSent = true → s.trackA.pieces = [] → s.trackB.pieces = [] →
        ∃ t, exec (.pair seq unit role serial) s = .next t ∧ t.twin.paired = true ∧ t.twin.misses = 0 ∧
          t.twin.state = (if s.twin.state = .fenced then .fenced
            else if (if twinRole s = role then (if twinUnit s = unit then !lexLe (serial.map BitVec.toNat) ((slice Config.serial 0 16).map BitVec.toNat) else !twinUnit s)
              else twinRole s) then .active else .standby) ∧
          { t with twin := s.twin, health := s.health, out := s.out, cnt := s.cnt, pegs := s.pegs, fns := s.fns, commitQ := s.commitQ } = s) ∧
      (∀ seq unit role serial, nextFrame s seq = true → twinEnabled s = true → s.twin.pairSent = true → ∃ t, exec (.pair seq unit role serial) s = .next t ∧
        t.twin.paired = true ∧ t.twin.misses = 0 ∧ t.twin.state = (if s.twin.state = .fenced then .fenced
          else if (if twinRole s = role then (if twinUnit s = unit then !lexLe (serial.map BitVec.toNat) ((slice Config.serial 0 16).map BitVec.toNat) else !twinUnit s)
            else twinRole s) then .active else .standby)) ∧
      (∀ seq cause a b, nextFrame s seq = true → isStandby s = true → s.twin.paired = true → 1 ≤ cause → cause ≤ 4 → ∃ t, exec (.health seq cause a b) s = .next t ∧
        (t.twin.state = .active ∨ t.twin.state = .takingOver) ∧ t.twin.takeover = true ∧ t.twin.fenceOut = decide (cause ≠ 4)) ∧
      (s.twin.state = .active → s.twin.handoverTo = none → s.twin.linkUp = true → s.twin.paired = true → partnerReady s = true → ∃ t, exec .handover s = .next t ∧
        (t.twin.state = .standby ∧ t.twin.handoverTo = none ∨ t.twin.state = .active ∧ t.twin.handoverTo = some s.nextPiece.toNat) ∧
        Output.twinFrame (twinFrame 0x02 0 s.twin.txSeq 0 0 0 (leBytes 1 4 ++ zeros 3 ++ leBytes 4 s.nextPiece.toNat ++ leBytes 4 s.nextPiece.toNat)) ∈ t.out) ∧
      (∀ seq cause a b, nextFrame s seq = true → isStandby s = true → s.twin.paired = true → 1 ≤ cause → cause ≤ 4 → s.trackA.armed = false → s.trackB.armed = false →
        s.sched.jobs = [] → ∃ t, exec (.health seq cause a b) s = .next t ∧ t.twin.state = .active ∧ t.twin.takeover = true ∧ t.twin.fenceOut = decide (cause ≠ 4) ∧
          { t with twin := s.twin, out := s.out, cnt := s.cnt } = s) ∧
      (s.twin.state = .active → s.twin.handoverTo = none → s.twin.linkUp = true → s.twin.paired = true → partnerReady s = true →
        (∀ k : Track, ∀ y ∈ (s.track k).pieces, y.posted = true) → ∃ t, exec .handover s = .next t ∧ t.twin.state = .standby ∧
          Output.twinFrame (twinFrame 0x02 0 s.twin.txSeq 0 0 0 (leBytes 1 4 ++ zeros 3 ++ leBytes 4 s.nextPiece.toNat ++ leBytes 4 s.nextPiece.toNat)) ∈ t.out ∧
          { t with twin := s.twin, out := s.out, cnt := s.cnt } = s))

/-- A quadrature error (R44): when both channels change within one sample, the module counts the error on the track's front port, leaves the position
unchanged, records the error in the DIAG chunk of every piece in flight on the track, and discards none; no line is issued, and no port, other track or other
part of the module changes. The line written in the DIAG entry is the model's reading (log 55). -/
def Obligations.QuadratureError : Prop :=
  ∀ (s : State) (k : Track) (dt : Nat),
    ∃ t, exec (.encoderCount k (!(s.track k).chA) (!(s.track k).chB) dt) s = .next t ∧
      t.cnt = ((passTime s (7 * dt)).portCnt (s.frontPort k) 6).cnt ∧ (t.track k).position = (s.track k).position ∧
      (t.track k).pieces = (s.track k).pieces.map (fun p => if p.line0.isSome && !p.posted
        then { p with diag := addDiag p.diag 2 .front ((s.track k).encLine - p.line0.getD 0).toNat (toBits (s.track k).position 32) } else p) ∧
      (t.track k).chA = !(s.track k).chA ∧ (t.track k).chB = !(s.track k).chB ∧ (t.track k).encLine = (s.track k).encLine ∧ (t.track k).quad = true ∧ (∀ j, j ≠ k → t.track j = s.track j) ∧
      { t with clk := s.clk, cnt := s.cnt, trackA := s.trackA, trackB := s.trackB } = s

/-- An encoder count on a track (R43, R45, R46): one channel that changes moves the 48-bit position by one, forward in the order 00, 10, 11, 01 unless the
track's sense is reversed (log 27); a sample in which neither or both change leaves it. A forward count past the highest position of an armed track that fills
the divider issues a line: one more trigger on every port of the track, unless the line follows the last within 1/f_max (R39). -/
def Obligations.CountsAndTriggers : Prop :=
  (∀ (s : State) (k : Track) (a b : Bool) (dt : Nat), ∃ t, exec (.encoderCount k a b dt) s = .next t ∧ (t.track k).chA = a ∧ (t.track k).chB = b ∧
      ((a == (s.track k).chA) = (b == (s.track k).chB) → (t.track k).position = (s.track k).position) ∧
      ((a == (s.track k).chA) ≠ (b == (s.track k).chB) →
        (t.track k).position = wrap48 (if ((quadIndex a b + 4 - quadIndex (s.track k).chA (s.track k).chB) % 4 == 1) != (s.track k).rev
          then (s.track k).position + 1 else (s.track k).position - 1)) ∧ keeps s t) ∧
  (∀ (s : State) (k : Track) (a b : Bool) (dt : Nat), (a == (s.track k).chA) ≠ (b == (s.track k).chB) →
      (((quadIndex a b + 4 - quadIndex (s.track k).chA (s.track k).chB) % 4 == 1) != (s.track k).rev) = true →
      (s.track k).armed = true → (s.track k).restart = none → (s.track k).highMark < wrap48 ((s.track k).position + 1) →
      (s.track k).divisor ≤ (s.track k).phase + 65536 → tooSoon (passTime s (7 * dt)) (s.track k) = false →
      ∃ t, exec (.encoderCount k a b dt) s = .next t ∧ (t.track k).encLine = (s.track k).encLine + 1 ∧
        (t.track k).highMark = wrap48 ((s.track k).position + 1) ∧ (t.track k).phase = (s.track k).phase + 65536 - (s.track k).divisor ∧
        (∀ p, (s.track k).portsOf.count p = 1 → (t.lp p).trigCount = (s.lp p).trigCount + 1)) ∧
  (∀ (s : State) (k : Track) d rest, (s.track k).subDue = d :: rest → ∃ t, exec (.sublineTrigger k) s = .next t ∧ (t.track k).subDue = rest ∧
      (∀ p, (s.track k).portsOf.count p = 1 → (s.lp p).cfg.switched = true →
        (t.lp p).trigCount = (s.lp p).trigCount + 1 ∧ (t.lp p).lamps = [d.2.2] ∧
        (∃ x, (t.lp p).trigs.getLast? = some x ∧ x.line = d.2.1 ∧ x.sub = d.2.2)) ∧
      (∀ p, ((s.track k).portsOf.count p = 0 ∨ (s.lp p).cfg.switched = false) → (t.lp p).trigCount = (s.lp p).trigCount) ∧ keeps s t) ∧
  (∀ (s : State) (k : Track) (a b : Bool) (dt : Nat), (s.track k).armed = false → (s.track k).held = false → feedHold s k = false →
      ∃ t, exec (.encoderCount k a b dt) s = .next t ∧ (t.track k).chA = a ∧ (t.track k).chB = b ∧
        (a = (s.track k).chA → b = (s.track k).chB → (t.track k).position = (s.track k).position) ∧
        ((a == (s.track k).chA) ≠ (b == (s.track k).chB) →
          (t.track k).position = wrap48 (if ((quadIndex a b + 4 - quadIndex (s.track k).chA (s.track k).chB) % 4 == 1) != (s.track k).rev
            then (s.track k).position + 1 else (s.track k).position - 1)) ∧
        (t.track k).encLine = (s.track k).encLine ∧ { t with clk := s.clk, cnt := s.cnt, trackA := s.trackA, trackB := s.trackB } = s) ∧
  (∀ s : State,
      (∀ k p d rest, (s.track k).subDue = d :: rest → (s.track k).front = some p → (s.track k).back = none → (s.lp p).cfg.switched = true → (s.lp p).trigs.length ≤ 1 →
        ∃ t, exec (.sublineTrigger k) s = .next t ∧ (t.track k).subDue = rest ∧ (t.lp p).trigCount = (s.lp p).trigCount + 1 ∧ (t.lp p).lamps = [d.2.2] ∧
          (∀ q, q ≠ p → t.lp q = s.lp q) ∧ { t with clk := s.clk, cnt := s.cnt, out := s.out, ports := s.ports, trackA := s.trackA, trackB := s.trackB } = s) ∧
      (∀ p c, (s.lp p).cal = some c → c.issued < calTotal c → ∃ t, exec (.calTrigger p) s = .next t ∧ (t.lp p).cal = some { c with issued := c.issued + 1 } ∧
        (t.lp p).trigCount = (s.lp p).trigCount + 1 ∧ (∀ q, q ≠ p → t.lp q = s.lp q) ∧ { t with clk := s.clk, cnt := s.cnt, out := s.out, ports := s.ports } = s) ∧
      (∀ p c, (s.lp p).cal = some c → calTotal c ≤ c.issued → ∃ t, exec (.calTrigger p) s = .next t ∧ (t.lp p).cal = none ∧
        (t.lp p).inUse = some (calResult (passTime s 140000) p c) ∧ keeps s t))

/-- PIECE_IN (R15, R57, R374): an edge takes the next number of the one counter that both tracks share; of two edges in one port cycle track A's takes the
lower; on a track that is not armed an edge is only counted; on an armed one, with no gap under measurement and no piece still without its first line, it
numbers a piece with the next number, which then rises by 1, and an edge that repeats a recorded one during a hold takes none. -/
def Obligations.PieceIn : Prop :=
  (∀ s : State, exec (.pieceInEdge ⟨false, false⟩) s = .next s) ∧
  (∀ (s : State) (k : Track), (s.track k).armed = true → (s.track k).disarm = none → sameEdge s k = false →
      ∃ t, exec (.pieceInEdge ⟨k == .A, k == .B⟩) s = .next t ∧ t.nextPiece = s.nextPiece + 1 ∧ (t.track k).lastPiece = s.nextPiece ∧
        (t.track k).numbered = true ∧ (t.track k).edges = (s.track k).edges ++ [(s.track k).position] ∧ keeps s t) ∧
  (∀ s : State, (∀ k, (s.track k).armed = true ∧ (s.track k).disarm = none ∧
        ∀ e ∈ (s.track k).edges, 64 * (s.track k).divisor < (((s.track k).position - e).natAbs : Int) * 65536) →
      ∃ t, exec (.pieceInEdge ⟨true, true⟩) s = .next t ∧ t.nextPiece = s.nextPiece + 2 ∧ t.trackA.lastPiece = s.nextPiece ∧ t.trackB.lastPiece = s.nextPiece + 1) ∧
  ∀ (s : State) (k : Track),
    ((s.track k).armed = false ∨ (s.track k).disarm.isSome = true → ∃ t, exec (.pieceInEdge ⟨k == .A, k == .B⟩) s = .next t ∧ { t with cnt := s.cnt } = s) ∧
    ((s.track k).armed = true → (s.track k).disarm = none → sameEdge s k = true → exec (.pieceInEdge ⟨k == .A, k == .B⟩) s = .next s) ∧
    ((s.track k).armed = true → (s.track k).disarm = none → sameEdge s k = false → (∀ y ∈ (s.track k).pieces, y.line0.isSome = true) →
      (∀ x ∈ (s.track k).sides, (s.lp x.2).strip.start = none ∧ (s.lp x.2).deadCols = []) →
      ∃ t, exec (.pieceInEdge ⟨k == .A, k == .B⟩) s = .next t ∧ t.nextPiece = s.nextPiece + 1 ∧ (t.track k).lastPiece = s.nextPiece ∧ (t.track k).numbered = true ∧
        (t.track k).pieces.dropLast = (s.track k).pieces ∧
        (∃ y, (t.track k).pieces.getLast? = some y ∧ y.num = s.nextPiece.toNat ∧ y.line0 = none ∧ y.status = .ok ∧ y.posted = false) ∧
        (t.track k).edges = (s.track k).edges ++ [(s.track k).position] ∧
        { t with nextPiece := s.nextPiece, cnt := s.cnt, ports := s.ports, trackA := s.trackA, trackB := s.trackB } = s)

/-- Line packets (R31, R32, R35, R55): 16 good packets lock a port and 4 bad ones unlock it; a packet with a wrong CRC is counted and its colour not taken;
one in another form, or of another width or port, is counted as unexpected; on a locked armed port a colour is taken for its trigger, once, and one of a
check-window line is kept for the check. Bytes without an idle byte before them are no packet. The packet that locks a port is itself taken, and so is a
second packet of a colour, without effect (log 67). -/
def Obligations.LinePackets : Prop :=
  (∀ (s : State) (p : Port) lanes, packetOfLanes (s.lp p).cfg.lanes lanes = none → exec (.linePacket p lanes) s = .next s) ∧
  (∀ (s : State) (p : Port) lanes b r col, packetOfLanes (s.lp p).cfg.lanes lanes = some b → packetCrc b = true → packetForm b (s.lp p).cfg.lanes = true →
      (parsePacket b).w = (s.lp p).cfg.width → (parsePacket b).port = p.val → (s.lp p).cal = none → (s.lp p).armed = true →
      ((s.lp p).locked = true ∨ 15 ≤ (s.lp p).goodRun) → ((s.lp p).trigs.find? fun r => r.num % 2 ^ 24 == (parsePacket b).num) = some r →
      colourOf (s.lp p).cfg.switched false (parsePacket b).col = some col → ((s.lp p).cfg.switched = false ∨ col = r.sub) → col ∉ r.got →
      ∃ t, exec (.linePacket p lanes) s = .next t ∧ (∃ x ∈ (t.lp p).trigs, x.num = r.num ∧ col ∈ x.got) ∧
        (t.lp p).goodRun = (s.lp p).goodRun + 1 ∧ (t.lp p).badRun = 0 ∧ (t.lp p).locked = true ∧
        (checkLine s (s.lp p).cfg.track r.line = true → (t.lp p).check.length = (s.lp p).check.length + 1) ∧
        (checkLine s (s.lp p).cfg.track r.line = false → (t.lp p).check = (s.lp p).check) ∧
        (∀ q, q ≠ p → t.lp q = s.lp q) ∧ { t with ports := s.ports, cnt := s.cnt } = s) ∧
  ∀ (s : State) (p : Port) (lanes : List (List Byte)) (b : List Byte), packetOfLanes (s.lp p).cfg.lanes lanes = some b →
    (packetCrc b = false → ∃ t, exec (.linePacket p lanes) s = .next t ∧ t.lp p = { s.lp p with
        goodRun := 0, badRun := (s.lp p).badRun + 1, locked := (s.lp p).locked && decide ((s.lp p).badRun < 3) } ∧
      (∀ q, q ≠ p → t.lp q = s.lp q) ∧ { t with ports := s.ports, cnt := s.cnt } = s) ∧
    (packetCrc b = true → (packetForm b (s.lp p).cfg.lanes = false ∨ (parsePacket b).w ≠ (s.lp p).cfg.width ∨ (parsePacket b).port ≠ p.val) →
      ∃ t, exec (.linePacket p lanes) s = .next t ∧ t.lp p = { s.lp p with
        goodRun := (s.lp p).goodRun + 1, badRun := 0, locked := (s.lp p).locked || decide (15 ≤ (s.lp p).goodRun) } ∧
      (∀ q, q ≠ p → t.lp q = s.lp q) ∧ { t with ports := s.ports, cnt := s.cnt } = s) ∧
    (∀ r col, packetCrc b = true → packetForm b (s.lp p).cfg.lanes = true → (parsePacket b).w = (s.lp p).cfg.width → (parsePacket b).port = p.val →
      (s.lp p).cal = none → (s.lp p).armed = true → (s.lp p).locked = true →
      ((s.lp p).trigs.find? fun r => r.num % 2 ^ 24 == (parsePacket b).num) = some r → colourOf (s.lp p).cfg.switched false (parsePacket b).col = some col →
      ((s.lp p).cfg.switched = false ∨ col = r.sub) → col ∉ r.got → checkLine s (s.lp p).cfg.track r.line = true →
      ∃ t, exec (.linePacket p lanes) s = .next t ∧ (t.lp p).check.dropLast = (s.lp p).check ∧
        (∃ l, (t.lp p).check.getLast? = some l ∧ l.col = col ∧ l.raw = (parsePacket b).samples ∧ l.lost = false) ∧
        (t.lp p).regQ = (s.lp p).regQ ∧ { t with ports := s.ports, cnt := s.cnt } = s)

/-- Lines into the tile store and the line window (R73, R74): the oldest registered line of a port leaves its queue for the store; the oldest line in the
store is committed, into the window unless the window refuses it, and the window's cause of FEED_HOLD is judged. -/
def Obligations.LinesStoredAndCommitted : Prop :=
  ∀ (s : State) (p : Port),
    ((s.lp p).regQ = [] → exec (.registeredLineStored p) s = .next s) ∧
    (∀ l rest, (s.lp p).regQ = l :: rest → ∃ t, exec (.registeredLineStored p) s = .next t ∧ (t.lp p).regQ = rest ∧
      (∃ x, (t.lp p).prev = some x ∧ x.pos = l.pos ∧ x.lost = l.lost ∧ x.fe = l.fe ∧ x.quad = l.quad) ∧
      ((s.track (s.lp p).cfg.track).firstLight = true → (t.lp p).storeQ = []) ∧
      ((s.track (s.lp p).cfg.track).firstLight = false →
        ∃ x, (t.lp p).storeQ = (s.lp p).storeQ ++ [x] ∧ x.pos = l.pos ∧ x.lost = l.lost ∧ x.fe = l.fe ∧ x.quad = l.quad) ∧
      (∀ q, q ≠ p → (t.lp q).regQ = (s.lp q).regQ ∧ (t.lp q).storeQ = (s.lp q).storeQ ∧ (t.lp q).prev = (s.lp q).prev) ∧ keeps s t) ∧
    (∀ l rest, (s.lp p).regQ = l :: rest → (∀ k, (s.track k).pieces = []) → s.pegs.waits = [] → (s.lp p).cfg.side = .back → (s.lp p).strip.stop = none → (s.lp p).queued = none →
      needsFree (s.lp p) l = false → (s.track (s.lp p).cfg.track).firstLight = false → s.sched.jobs = [] → s.twin.state ≠ .takingOver →
      ∃ t, exec (.registeredLineStored p) s = .next t ∧ (t.lp p).regQ = rest ∧
        (∃ x, (t.lp p).storeQ = (s.lp p).storeQ ++ [x] ∧ x.pos = l.pos ∧ x.piece = none) ∧ (∃ y, (t.lp p).prev = some y ∧ y.pos = l.pos) ∧ (∀ q, q ≠ p → t.lp q = s.lp q) ∧ { t with ports := s.ports, pegs := s.pegs } = s) ∧
    ((s.lp p).storeQ = [] → exec (.lineCommitted p) s = .next s) ∧
    (∀ l rest, (s.lp p).storeQ = l :: rest → ∃ t, exec (.lineCommitted p) s = .next t ∧ (t.lp p).storeQ = rest ∧
      (windowTakes s p l = true → (t.lp p).window.getLast? = some l) ∧ (windowTakes s p l = false → (t.lp p).window = (s.lp p).window) ∧
      (∀ q, q ≠ p → t.lp q = s.lp q) ∧ { t with ports := s.ports, trackA := s.trackA, trackB := s.trackB } = s)

/-- The ends of a piece (R14, R23, R81, R83, R84): a piece without its first line lead_win lines after its edge, and one without a trailing edge by Lmax +
trail, are discarded with PAGE_GEOMETRY; after trail lines without paper the trailing edge T is the last paper line and the piece is due D lines after it. -/
def Obligations.PieceEnds : Prop :=
  ∀ (s : State) (k : Track) (y : Piece), findPiece s k y.num = some y →
    (((s.track k).pieces.find? fun y => y.line0.isNone && y.live && decide (y.edgeLine + (((s.lp (s.frontPort k)).cfg.leadWin : Nat) : Int) ≤ (s.track k).frontPos)) = some y →
      ∃ t, exec (.leadingEdgeTimeout k) s = .next t ∧ (∃ z ∈ (t.track k).pieces, z.num = y.num ∧ z.status = .pageGeometry ∧ z.inFold = true) ∧ keeps s t) ∧
    (((s.track k).pieces.find? fun y => y.T.isNone && y.live && (match y.line0 with
        | some l => decide (l + (((s.lp (s.frontPort k)).cfg.lmax + (s.lp (s.frontPort k)).cfg.trail : Nat) : Int) ≤ (s.track k).frontPos)
        | none => false)) = some y →
      ∃ t, exec (.overlength k) s = .next t ∧ (∃ z ∈ (t.track k).pieces, z.num = y.num ∧ z.status = .pageGeometry ∧ z.inFold = true) ∧ keeps s t) ∧
    (((s.track k).pieces.find? fun y => y.line0.isSome && y.T.isNone && decide ((s.lp (s.frontPort k)).cfg.trail ≤ y.blank)) = some y →
      ∃ t, exec (.trailingEdgeFound k) s = .next t ∧ (∀ z ∈ (t.track k).pieces, z.num = y.num → z.T = some y.lastPaper) ∧ keeps s t ∧
        (y.posted = false → ∃ z ∈ (t.track k).pieces, z.num = y.num ∧ z.T = some y.lastPaper ∧ z.due = y.lastPaper + y.due ∧ z.line0 = y.line0)) ∧
    (((s.track k).pieces.find? fun y => y.line0.isSome && y.T.isNone && decide ((s.lp (s.frontPort k)).cfg.trail ≤ y.blank)) = some y →
      y.front.skew = none → y.back.skew = none → y.posted = false → s.sched.jobs = [] → ∃ t, exec (.trailingEdgeFound k) s = .next t ∧
        (∃ z ∈ (t.track k).pieces, z.num = y.num ∧ z.T = some y.lastPaper ∧ z.due = y.lastPaper + y.due ∧ z.status = y.status) ∧
        { t with ports := s.ports, cnt := s.cnt, trackA := s.trackA, trackB := s.trackB } = s)

/-- Gap updates, restarts, page boundaries and disarming (R54 to R57, R67, R79): the set being built is queued behind the set in use; a restart whose check
window matches on every side resumes after line N, and one whose window cannot be read ends; a reservation moves only at a page boundary; a pending
SCAN_DISARM sets its cause once every piece it waits for has ended, and takes effect once every one is posted. Ties of the check window and the moments of a
gap are the model's reading (logs 28 and 56). -/
def Obligations.GapsAndRestarts : Prop :=
  ∀ (s : State),
    (∀ p c, (s.lp p).strip.stop = none → (s.lp p).building = some c → ∃ t, exec (.gapUpdateBuilt p) s = .next t ∧
      (t.lp p).building = none ∧ (t.lp p).queued = some (c, (s.lp p).strip.lastPos) ∧ (t.lp p).inUse = (s.lp p).inUse ∧
      ((s.lp p).cfg.switched = false → deadColours c ≠ [] → (t.lp p).deadCols = deadColours c) ∧ keeps s t) ∧
    (∀ p e k, (s.lp p).strip.stop = some e → (s.lp p).inUse = some k → (s.lp p).cfg.gapLines ≤ (s.lp p).strip.n →
      let one := fun i => gapColour (s.lp p).cfg.tol ((s.lp p).cfg.target.getD i 0) (s.lp p).strip.n ((s.lp p).strip.sum.getD i []) (coefCol k i)
      let c : CoefSet := { r := one 0, g := one 1, b := one 2 }
      (∀ i ∈ [0, 1, 2], 256 * keptCount (coefCol c i) ≤ (s.lp p).cfg.maxFrac * (coefCol c i).length) →
      ∃ t, exec (.gapUpdateBuilt p) s = .next t ∧ (t.lp p).building = none ∧ (t.lp p).queued = some (c, (s.lp p).strip.lastPos) ∧
        (t.lp p).inUse = some k ∧ (t.lp p).gapDiscards = 0 ∧ (t.lp p).strip.start = none ∧ keeps s t) ∧
    (∀ p c, (s.lp p).strip.stop = none → (s.lp p).building = some c → (deadColours c = [] ∨ (s.lp p).cfg.switched = true) → ∃ t, exec (.gapUpdateBuilt p) s = .next t ∧
      t.lp p = { s.lp p with building := none, queued := some (c, (s.lp p).strip.lastPos) } ∧ (∀ q, q ≠ p → t.lp q = s.lp q) ∧ { t with ports := s.ports } = s) ∧
    (∀ k r, (s.track k).restart = some r → r.drop = 0 → ((s.track k).portsOf.all fun p => checkWhole (s.lp p)) = true →
      ((s.track k).portsOf.all fun p => sideMatches (s.lp p) (bestShift (s.lp p))) = true →
      ∃ t, exec (.checkWindowCaptured k false) s = .next t ∧ (t.track k).restart = none ∧ (t.track k).encLine = r.N ∧ (∀ p ∈ (s.track k).portsOf, (t.lp p).nextPos = r.N + 1) ∧
        (∀ y ∈ (t.track k).pieces, inFlight y = true → y.restarted = true) ∧ { t with ports := s.ports, trackA := s.trackA, trackB := s.trackB } = s) ∧
    (∀ k r, (s.track k).restart = some r → r.drop = 0 → ((s.track k).portsOf.all fun p => checkWhole (s.lp p)) = true →
      ∀ bad, (bad = true ∨ ∃ p ∈ (s.track k).portsOf, sideMatches (s.lp p) (bestShift (s.lp p)) = false) →
      ∃ t, exec (.checkWindowCaptured k bad) s = .next t ∧ (t.track k).restart = none ∧ (t.track k).restartBad = true ∧
        (t.track k).encLine = (s.track k).encLine ∧ (∀ p ∈ (s.track k).portsOf, (t.lp p).nextPos = (s.track k).encLine + 1) ∧
        (∀ y ∈ restartPieces s k, findPiece s k y.num = some y → y.live = true →
          ∃ z ∈ (t.track k).pieces, z.num = y.num ∧ z.status = (if bad then .dramUncorrectable else .refeedMismatch) ∧ z.inFold = true) ∧ keeps s t) ∧
    (∀ k r, (s.track k).restart = some r → r.drop ≠ 0 → ∀ bad, exec (.checkWindowCaptured k bad) s = .next s) ∧
    (∀ k, pageBoundary s k = true → ∃ t, exec (.reservationMove k) s = .next t ∧
      (∀ p, (t.lp p).reserved.length = (s.lp p).reserved.length) ∧
      (∀ p, (p ∉ (s.track k).portsOf ∨ resvDraining s p = false) → (t.lp p).reserved = (s.lp p).reserved) ∧
      (∀ p ∈ (s.track k).portsOf, (t.lp p).reserved = (s.lp p).reserved ∨ resvDraining t p = false) ∧
      (∀ p, (s.track k).portsOf = [p] → (moveReservation s p).isSome = true → resvDraining t p = false) ∧ keeps s t) ∧
    (∀ k, pageBoundary s k = false → exec (.reservationMove k) s = .next s) ∧
    (∀ k p, pageBoundary s k = true → (s.track k).portsOf = [p] → resvDraining s p = true →
      ∃ t, exec (.reservationMove k) s = .next t ∧ t = settleDrains ((moveReservation s p).getD s) ∧ keeps s t) ∧
    (∀ k ds ns, (s.track k).disarm = some (ds, ns) →
      (∀ n ∈ ns, ∀ y, findPiece s k n = some y → y.T.isSome = true ∨ y.status ≠ .ok ∨ y.posted = true) → ∃ t, exec (.scanDisarmGap k) s = .next t ∧ (t.track k) = { s.track k with hold := { (s.track k).hold with disarm := true } } ∧
      { t with trackA := s.trackA, trackB := s.trackB } = s) ∧
    (∀ k ds ns n, (s.track k).disarm = some (ds, ns) → n ∈ ns → (∃ y, findPiece s k n = some y ∧ y.T = none ∧ y.status = .ok ∧ y.posted = false) →
      exec (.scanDisarmGap k) s = .next s) ∧
    (∀ k ds ns n, (s.track k).disarm = some (ds, ns) → n ∈ ns → (s.track k).hold.twin = false →
      (∃ y, findPiece s k n = some y ∧ y.posted = false) → exec (.scanDisarmEffect k) s = .next s) ∧
    (∀ k ds ns, (s.track k).disarm = some (ds, ns) → (s.track k).hold.disarm = true →
      (∀ n ∈ ns, ∀ y, findPiece s k n = some y → y.posted = true ∨ (s.track k).hold.twin = true) → ∃ t, exec (.scanDisarmEffect k) s = .next t ∧
      (t.track k).armed = false ∧ (t.track k).disarm = none ∧ (t.track k).hold.disarm = true ∧ (t.track k).front = none ∧ (t.track k).back = none ∧
      (∀ p ∈ (s.track k).portsOf, (t.lp p).armed = false ∧ (t.lp p).reserved = []) ∧ keeps s t)

/-- Segments (R99, R101, R103, R107): a segment that ends is added to its function's actual and estimated times (R275); one with an error ends its job at
once, one of a job already done leaves its stripe, and the last of a test ends the test; the fetch of a stripe's next program is noted; a watchdog or a
missing end mark ends the job with SEQ_WATCHDOG and strikes or fails the tile. None moves anything of the machine port. Transfers, saves and restores (R114,
R191, R193, R261 to R265): a hem or far read that has been read lands its own transfer and no other; a save takes the stripes that are saving off their tiles
and counts a pre-emption for a victim; a restore whose saved state cannot be read ends the job with DRAM_UNCORRECTABLE, and one that can puts its stripes
back. A segment's commands and the pegs of transfers are the model's choices (logs 9 and 15). -/
def Obligations.SegmentsAndTransfers : Prop :=
  (∀ s : State,
      (∀ n m, ∃ t, exec (.programFetchComplete ⟨n, m⟩) s = .next t ∧ t = settle (modLane s n m fun l => { l with fetch := false }) ∧
        (∀ x ∈ t.sched.jobs, x.id = n → ∀ l ∈ x.lanes, l.stripe = m → l.fetch = false) ∧ keeps s t) ∧
      (∀ w j l c, findJob s w.job = some j → j.state = .running → j.lane w.stripe = some l → l.state = .run → pairsOf s j.id w.stripe = some c →
        ((∃ o, j.kind = .test o) ∨ ∃ p, jobPlan s j = some p ∧ progOk c l.tiles j p w = true) →
        ∃ t, exec (.segmentBoundary w) s = .next t ∧ t.sched.acct[j.fn.val].actual = s.sched.acct[j.fn.val].actual + segActual w ∧
          t.sched.acct[j.fn.val].estimate = s.sched.acct[j.fn.val].estimate + segEstimate w ∧
          (((∃ o, j.kind = .test o) ∧ w.last = true) ∨ ((∀ o, j.kind ≠ .test o) ∧ w.faults ≠ []) → ∀ x ∈ t.sched.jobs, x.id = j.id → x.state = .done) ∧ keeps s t) ∧
      (∀ w j l, findJob s w.job = some j → j.state = .done → j.lane w.stripe = some l → l.state = .run →
        ∃ t, exec (.segmentBoundary w) s = .next t ∧ (∀ x ∈ t.sched.jobs, x.id = j.id → ∀ y ∈ x.lanes, y.stripe ≠ w.stripe) ∧ keeps s t) ∧
      (∀ w j l o, findJob s w.job = some j → j.kind = .test o → j.state = .running → j.lane w.stripe = some l → l.state = .run →
        ∃ t, exec (.segmentBoundary w) s = .next t ∧ t = settle (testSegment s j o w) ∧ keeps s t) ∧
      (∀ w j l p c, findJob s w.job = some j → j.state = .running → (∀ o, j.kind ≠ .test o) → j.lane w.stripe = some l → pairsOf s j.id w.stripe = some c →
        jobPlan s j = some p → segRuns j p l c w = true → ∃ t, exec (.segmentBoundary w) s = .next t ∧ t = settle (runSegment s j p l c w) ∧ keeps s t) ∧
      (∀ n tile u j l, runsOn s n tile = some (u, j, l) → ∃ t, exec (.seqWatchdogExpiry n tile) s = .next t ∧
        t = settle (substituteDue (strike (watchdogEnd (logHealth u (seqEntry 7 tile j.fn)) j l) tile) l.tiles) ∧
        (j.state ≠ .done → ∀ x ∈ t.sched.jobs, x.id = n → x.state = .done) ∧ keeps s t) ∧
      (∀ n tile u j l, runsOn s n tile = some (u, j, l) → ∃ t, exec (.endMarkMissing n tile) s = .next t ∧
        t = settle (substituteDue (failTile ((watchdogEnd (logHealth u (seqEntry 11 tile j.fn)) j l).countN famTile tile 15 1) tile) l.tiles) ∧
        (j.state ≠ .done → ∀ x ∈ t.sched.jobs, x.id = n → x.state = .done) ∧ keeps s t)) ∧
  (∀ s : State,
      (∀ hem id x, (s.transfers.find? fun y => y.hem == hem && y.id == id) = some x → x.bytes.isSome = true → (placedLane s x.job x.stripe).isSome = true →
        ∃ t, exec (if hem then .hemLanded id else .farReadLanded id) s = .next t ∧ t = settle (landTransfer s x) ∧
          (∀ y ∈ t.transfers, ¬(y.hem = hem ∧ y.id = id ∧ y.job = x.job)) ∧ keeps s t) ∧
      (∀ id, (∀ x ∈ s.transfers, x.id ≠ id) → exec (.hemLanded id) s = .next (settle s) ∧ exec (.farReadLanded id) s = .next (settle s)) ∧
      (∀ n j, findJob s n = some j → j.state = .running → saveReady j = true →
        ∃ t, exec (.saveComplete n) s = .next t ∧ t = settle (saveJob s j) ∧
          (j.victim = true → t.sched.acct[j.fn.val].preempt = s.sched.acct[j.fn.val].preempt + 1) ∧
          (∀ l ∈ j.lanes, l.state = .saving → (pairsOf s n l.stripe).isSome = true →
            ∃ x ∈ (saveJob s j).sched.jobs, x.id = n ∧ ∃ y ∈ x.lanes, y.stripe = l.stripe ∧ y.state = .saved ∧ y.tiles = []) ∧ keeps s t) ∧
      (∀ n j, findJob s n = some j → j.state = .running → (j.lanes.any fun l => l.state == .restoring) = true →
        (∃ t, exec (.restoreComplete n false) s = .next t ∧ t = settle (restoreJob s j) ∧ (∀ x ∈ t.sched.jobs, x.id = n → ∀ y ∈ x.lanes,
          (∃ l ∈ j.lanes, l.stripe = y.stripe ∧ l.state = .restoring) → (pairsOf s n y.stripe).isSome = true → y.state ≠ .restoring) ∧ keeps s t) ∧
        (∃ t, exec (.restoreComplete n true) s = .next t ∧ (∀ x ∈ t.sched.jobs, x.id = n → x.state = .done) ∧ keeps s t)))

/-- The loader and the wardrobe (R229, R230, R250, R253, R270): while no load waits for its companion model the front load of the queue is judged: one that
fails is answered and leaves no plan, one that passes leaves its plan ready and is answered, and the next is read; a plan whose unload may go on is gone; a
load of a model counts the bytes it brings, and one whose words cannot be read marks its plan; a relowering that fits gives the plan its new lowering and next
revision, and one that does not leaves it stale. A batch step (R218, R219): the plan's final tokens move to its sequences, its SEQ_STEPs join, and the next
step is formed when a sequence wants one; while a step runs, or for an unknown plan, nothing happens. The lowering and what a step emits are operands (log 9).
-/
def Obligations.LoaderAndSteps : Prop :=
  (∀ s : State,
      (∀ r h o q b x y, s.plans.loading = none → s.plans.loadQ = (r, h, o) :: q →
        let v := loadLows s o b x y
        (∀ e, loadPlan v.1 r.fn o b v.2.1 v.2.2 = .error e → ∃ t, exec (.planLoadComplete b x y) s = .next t ∧
          t = nextInQueue (complete v.1 r h 0x20 e.1 e.2) ∧ t.plans.loadQ = q ∧ t.plans.loading = none ∧ t.plans.loaded = s.plans.loaded ∧ keeps s t) ∧
        (∀ p u, loadPlan v.1 r.fn o b v.2.1 v.2.2 = .ok (p, u) → u.plans.loading = none → ∃ t, exec (.planLoadComplete b x y) s = .next t ∧
          t = nextInQueue (endLoad u r h p) ∧ t.plans.loadQ = q ∧ t.plans.loading = none ∧
          (∃ z, findPlan t p.handle = some z ∧ z.ready = true) ∧ keeps s t) ∧
        (∀ p u, loadPlan v.1 r.fn o b v.2.1 v.2.2 = .ok (p, u) → u.plans.loading.isSome = true → exec (.planLoadComplete b x y) s = .next u)) ∧
      (s.plans.loadQ = [] ∨ s.plans.loading.isSome = true → ∀ b x y, exec (.planLoadComplete b x y) s = .next s) ∧
      (∀ n rest x y, s.plans.relowerQ = n :: rest → findPlan s n = none → exec (.relowerComplete x y) s = .next { s with plans := { s.plans with relowerQ := rest } }) ∧
      (s.plans.relowerQ = [] → ∀ x y, exec (.relowerComplete x y) s = .next s) ∧
      (∀ n rest p x y, s.plans.relowerQ = n :: rest → findPlan s n = some p →
        let v := relowerLows { s with plans := { s.plans with relowerQ := rest } } p x y
        (∀ e, relower v.1 p p.c v.2.1 v.2.2 = .error e → ∃ t, exec (.relowerComplete x y) s = .next t ∧ t = serveImages (staleRelower v.1 p) ∧
          (∃ z, findPlan t n = some z ∧ z.stale = true ∧ z.low = p.low) ∧ keeps s t) ∧
        (∀ p' q', relower v.1 p p.c v.2.1 v.2.2 = .ok (p', q') → p.comp ≠ some n → ∃ t, exec (.relowerComplete x y) s = .next t ∧
          t = serveImages (applyRelower v.1 p p' q') ∧
          (∃ z, findPlan t n = some z ∧ z.low = v.2.1 ∧ z.revision = p.revision + 1 ∧ z.stale = false) ∧ keeps s t)) ∧
      (∀ n p r h, findPlan s n = some p → p.unload = some (r, h) → unloadReady s p = true → ∃ t, exec (.planUnloadComplete n) s = .next t ∧
        t = serveImages (unloadPlan s p r h) ∧ findPlan t n = none ∧ keeps s t) ∧
      (∀ n p r h, findPlan s n = some p → p.unload = some (r, h) → unloadReady s p = false → exec (.planUnloadComplete n) s = .next s) ∧
      (∀ l p bad, nextLoad s = some l → loadPlanOf s l = some p → (bad = true ∨ p.storeBad = true) → ∃ t, exec (.wardrobeLoadComplete l.plan bad) s = .next t ∧
        t = serveImages (loadFailed s p) ∧ (∀ z, findPlan t p.handle = some z → z.storeBad = true) ∧ keeps s t) ∧
      (∀ l p w u, nextLoad s = some l → loadPlanOf s l = some p → p.storeBad = false → residentModel s p = none → findWays s p = some (w, u) →
        ∃ t, exec (.wardrobeLoadComplete l.plan false) s = .next t ∧ t = serveImages (loadWaitDone (donePins (loadModel u p w false) p .ok)) ∧
          t.sched.acct[p.fn.val].wardBytes = s.sched.acct[p.fn.val].wardBytes + modelBytes p ∧ keeps s t) ∧
      (∀ l p m, nextLoad s = some l → loadPlanOf s l = some p → p.storeBad = false → residentModel s p = some m →
        ∃ t, exec (.wardrobeLoadComplete l.plan false) s = .next t ∧ t = serveImages (loadWaitDone (donePins s p .ok)) ∧ keeps s t)) ∧
  (∀ (s : State) (n : Nat),
      (findPlan s n = none → exec (.batchStepStart n) s = .next s) ∧ (stepRuns s n = true → exec (.batchStepStart n) s = .next s) ∧
      (∀ p, findPlan s n = some p → stepRuns s n = false → s.pwr.device = false →
        let v := allTracks.foldl (fun s t => (piecesOn s t n).foldl (moveFinal p t) s) s
        let u := (seqJobs v n).foldl (takeSeqJob p) v
        ∃ t, exec (.batchStepStart n) s = .next t ∧ t = settle (startStep u p) ∧
          (stepRuns u n = false → ((batchSeqs u n).any (wantsStep u)) = true → ∃ z, findPlan t n = some z ∧ z.batchStep = p.batchStep + 1) ∧ keeps s t) ∧
      (∀ p, findPlan s n = some p → stepRuns s n = false → s.pwr.device = false → seqJobs s n = [] → (∀ k, piecesOn s k n = []) →
        ∃ t, exec (.batchStepStart n) s = .next t ∧ t = settle (startStep s p) ∧
          (((batchSeqs s n).any (wantsStep s)) = true → ∃ z, findPlan t n = some z ∧ z.batchStep = p.batchStep + 1) ∧ keeps s t))

/-- Codec engines, staging and the tailoring commit (R287, R339, R343, R355, R359): staging is granted in the jobs' order, to a job whose need fits; an engine
that has decoded is free again, a corrupt image ends its job and a good one is decoded, noted TRUNCATED when rows are missing; an engine that has encoded
hands its stream to the image it encodes; a commit of a tailoring step whose update is complete ends the step, and either gives the plan its next revision or
is FOLD_ABORTED; one of a job that is not updated waits. Decoded and encoded images are operands (logs 10 and 11). -/
def Obligations.CodecEvents : Prop :=
  ∀ s : State,
    (∀ j rest, sortBy (fun a b => lexLe (candKey s a) (candKey s b)) (s.sched.jobs.filter wantsStaging) = j :: rest → (∀ y ∈ rest, y.id ≠ j.id) →
      stagingUsed s + stagingNeed s j ≤ stageBytes s →
      ∃ t, exec .stagingGrant s = .next t ∧ (∀ x ∈ t.sched.jobs, x.id = j.id → x.staging = stagingNeed s j) ∧ keeps s t) ∧
    (∃ t, exec .stagingGrant s = .next t ∧ t = serveImages s ∧ keeps s t) ∧
    (s.sched.jobs = [] → exec .stagingGrant s = .next s) ∧
    (∀ (e : Fin 8) n k r j o pb, s.engines[e.val] = .decode n k → findJob s n = some j → j.kind = .image o pb →
      ∃ t, exec (.codecDecodeDone e r) s = .next t ∧ t = serveImages (imageDecoded (countCodec (setEngine s e.val .free) e (decodeBusy o)) j o pb r) ∧
        (r.corrupt = true → ∀ x ∈ t.sched.jobs, x.id = n → x.state = .done) ∧
        (r.corrupt = false → ∀ x ∈ t.sched.jobs, x.id = n → x.decoded = true ∧ x.note = (if r.rowsDecoded < o.height then .truncated else .ok)) ∧ keeps s t) ∧
    (∀ (e : Fin 8) n k r j tl x, s.engines[e.val] = .decode n k → findJob s n = some j → (∀ o pb, j.kind ≠ .image o pb) → findTailor s n = some tl →
      (tl.samples.find? fun y => y.idx == k) = some x → r.corrupt = false → x.height ≤ r.rowsDecoded →
      ∃ t, exec (.codecDecodeDone e r) s = .next t ∧ (∀ y ∈ t.sched.jobs, y.id = n → y.decoded = true) ∧ keeps s t) ∧
    (∀ (e : Fin 8) n k r, s.engines[e.val] = .decode n k → findJob s n = none → ∃ t, exec (.codecDecodeDone e r) s = .next t ∧
      t = serveImages (setEngine s e.val .free) ∧ keeps s t) ∧
    (∀ (e : Fin 8) n k r, s.engines[e.val] = .decode n k → findJob s n = none → s.sched.jobs = [] → ∃ t, exec (.codecDecodeDone e r) s = .next t ∧
      t.engines[e.val] = .free ∧ { t with engines := s.engines } = s) ∧
    (∀ (e : Fin 8) n k b, s.engines[e.val] = .encode n k → ∃ t, exec (.codecEncodeDone e b) s = .next t ∧
      t = serveImages (hostEncoded (setEngine s e.val .free) n k e b) ∧
      (∀ x ∈ t.sched.jobs, x.id = n → ∀ i ∈ x.images, i.kind = k → i.data = b ∧ i.len = b.length) ∧ keeps s t) ∧
    (∀ (e : Fin 8) n k b, s.engines[e.val] = .encode n k → findJob s n = none → s.sched.jobs = [] → ∃ t, exec (.codecEncodeDone e b) s = .next t ∧
      t.engines[e.val] = .free ∧ { t with engines := s.engines } = s) ∧
    (∀ (e : Fin 8) p b y k, s.engines[e.val] = .side p → sideEncode s p = some (y, k) → ∃ t, exec (.codecEncodeDone e b) s = .next t ∧ t = sideEncoded s p e b ∧
      (∃ z ∈ (t.track (s.lp p).cfg.track).pieces, z.num = y.num ∧ z.images.length = y.images.length + 1 ∧
        ∃ i, z.images.getLast? = some i ∧ i.kind = k ∧ (i.data = b ∨ i.dropped = true)) ∧ t.engines = s.engines ∧ keeps s t) ∧
    (∀ (e : Fin 8) r b, s.engines[e.val] = .free → exec (.codecDecodeDone e r) s = .next s ∧ exec (.codecEncodeDone e b) s = .next s) ∧
    (∀ n x t j, findTailor s n = some t → findJob s n = some j → (t.updated = false ∨ t.prep.isSome = true) → exec (.tailoringCommit n x) s = .next s) ∧
    (∀ n x t j p c u, findTailor s n = some t → findJob s n = some j → t.updated = true → t.prep = none → findPlan s t.plan = some p →
      prepareSwap s t p x = .ok (c, u) →
      ∃ v, exec (.tailoringCommit n x) s = .next v ∧ keeps s v ∧ (∀ y ∈ v.sched.jobs, y.id = n → y.state = .done) ∧
        (j.member = false → findTailor v n = none ∧ (∃ z, findPlan v t.plan = some z ∧ z.revision = p.revision + 1 ∧ z.low = x) ∧
          v = endTailor ((applySwap u n p.handle c x).chipCnt 26) j (tailorStatus t) (tailorDetail ((applySwap u n p.handle c x).chipCnt 26) t (stepLoss t))) ∧
        (j.member = true → ∃ z, findPlan v t.plan = some z ∧ z.revision = p.revision ∧ z.low = p.low)) ∧
    (∀ n x t j p e, findTailor s n = some t → findJob s n = some j → t.updated = true → t.prep = none → findPlan s t.plan = some p →
      prepareSwap s t p x = .error e →
      ∃ v, exec (.tailoringCommit n x) s = .next v ∧ keeps s v ∧ (∀ y ∈ v.sched.jobs, y.id = n → y.state = .done) ∧ findTailor v n = none ∧
        (j.member = false → v = endTailor (s.chipCnt 28) j .foldAborted (tailorAbort s t e)))

/-- The tokeniser dictionary (R349, R350): a load is refused with error 7 while a loaded plan names a dictionary; else the module reads it; a file that breaks
a condition leaves the dictionary in force with its error, and one that breaks none replaces it and is measured; either end clears busy. -/
def Obligations.Dictionary : Prop :=
  ∀ s : State,
    (s.dict.busy = false → dictPlan s = true → ∃ t, exec .dictLoad s = .next t ∧ t.dict = { s.dict with busy := false, error := 7 } ∧
      { t with dict := s.dict, out := s.out, fns := s.fns } = s) ∧
    (s.dict.busy = false → dictPlan s = false → ∃ t, exec .dictLoad s = .next t ∧ t.dict = { s.dict with busy := true } ∧
      t.out = s.out ++ [.hostRead 0 (dictBase s) (dictLen s)] ∧ { t with dict := s.dict, out := s.out } = s) ∧
    (∀ b, s.dict.busy = true → ∃ t, exec (.dictLoadDone (some b)) s = .next t ∧ t.dict.busy = false ∧ t.dict.error = dictCheck (slice b 0 (dictLen s)) ∧
      (if dictCheck (slice b 0 (dictLen s)) = 0 then t.dict.loaded = true ∧ t.dict.digest = digest32 (slice b 0 (dictLen s)) ∧ t.sec.logCount = s.sec.logCount + 1
        else t.dict = { s.dict with busy := false, error := dictCheck (slice b 0 (dictLen s)) } ∧ t.sec = s.sec) ∧
      { t with dict := s.dict, sec := s.sec, out := s.out, fns := s.fns } = s) ∧
    (s.dict.busy = false → ∀ b, exec (.dictLoadDone b) s = .next s)
end

