-- ==== Sys2Proof/Laws/Bytes.lean ====
section
/-! SUPPORT. Laws of bytes, little-endian fields and bit fields. -/

set_option Elab.async false

namespace Sys2Proof

theorem leBytes_length (n v : Nat) : (leBytes n v).length = n := by
  induction n generalizing v with
  | zero => rfl
  | succ n ih => simp [leBytes, ih]

theorem zeros_length (n : Nat) : (zeros n).length = n := by simp [zeros]

/-- What little-endian bytes hold. -/
theorem leNat_leBytes (n v : Nat) : leNat (leBytes n v) = v % 256 ^ n := by
  induction n generalizing v with
  | zero => simp [leBytes, leNat, Nat.mod_one]
  | succ n ih =>
    simp only [leBytes, leNat, ih, BitVec.toNat_ofNat]
    show v % 256 + 256 * (v / 256 % 256 ^ n) = _
    rw [pow_succ', Nat.mod_mul]

theorem leNat_lt (bs : List Byte) : leNat bs < 256 ^ bs.length := by
  induction bs with
  | nil => simp [leNat]
  | cons b bs ih =>
    have := b.isLt
    simp only [leNat, List.length_cons, pow_succ]
    omega

/-- A field that starts a run of bytes. -/
theorem fieldAt_here (n v : Nat) (r : List Byte) : fieldAt (leBytes n v ++ r) 0 n = v % 256 ^ n := by
  have h : (leBytes n v ++ r).take n = leBytes n v := by
    rw [List.take_append_of_le_length (by rw [leBytes_length])]
    exact List.take_of_length_le (by rw [leBytes_length])
  simp only [fieldAt, slice, List.drop_zero, h, leBytes_length, Nat.sub_self]
  simp [zeros, leNat_leBytes]

/-- A field behind other bytes. -/
theorem fieldAt_skip (x r : List Byte) (off n : Nat) (h : x.length ≤ off) : fieldAt (x ++ r) off n = fieldAt r (off - x.length) n := by
  simp only [fieldAt, slice]
  rw [List.drop_append, List.drop_of_length_le h, List.nil_append]

/-- Reading back a word of `n` bytes. -/
theorem slice_here (n v : Nat) (r : List Byte) : slice (leBytes n v ++ r) 0 n = leBytes n v := by
  have h : (leBytes n v ++ r).take n = leBytes n v := by
    rw [List.take_append_of_le_length (by rw [leBytes_length])]
    exact List.take_of_length_le (by rw [leBytes_length])
  simp only [slice, List.drop_zero, h, leBytes_length, Nat.sub_self]
  simp [zeros]

theorem slice_skip (x r : List Byte) (off n : Nat) (h : x.length ≤ off) : slice (x ++ r) off n = slice r (off - x.length) n := by
  simp only [slice]
  rw [List.drop_append, List.drop_of_length_le h, List.nil_append]

end Sys2Proof
end

