-- ==== Sys2Proof/Laws/Fixed.lean ====
section
/-! SUPPORT. What only a reset, a bring-up command or the commit of a verdict fold changes: the queue of waiting commands, the bring-up stage and
the verdict table. One lemma for each operation on the state says that it leaves all three; resets (powerState, moduleState and what calls them),
bring-up commands and commitVerdict have none. -/

set_option Elab.async false

set_option linter.unusedSimpArgs false
set_option linter.unreachableTactic false
set_option linter.unusedTactic false

namespace Sys2Proof.Machine

open Sys2Proof

/-- The queue, the bring-up stage and the verdict table. -/
def State.fixed (s : State) : List Instr × Nat × Vector (List Byte) 256 := (s.pending, s.boot.stage, s.port.table)

/-- The fields that stand for it, folded. -/
theorem fixed_eta (s : State) : (s.pending, s.boot.stage, s.port.table) = s.fixed := rfl

/-- A state given by its fields. -/
theorem fixed_mk (a1 a2 a3 a4 a5 a6 a7 a8 a9 a10 a11 a12 a13 a14 a15 a16 a17 a18 a19 a20 a21 a22 a23 a24 a25 a26 a27 a28 a29 a30) :
    (State.mk a1 a2 a3 a4 a5 a6 a7 a8 a9 a10 a11 a12 a13 a14 a15 a16 a17 a18 a19 a20 a21 a22 a23 a24 a25 a26 a27 a28 a29 a30).fixed = (a1, a5.stage, a25.table) := rfl

/-- A run of operations that each leave it leaves it. -/
theorem fixed_foldl {α : Type} (f : State → α → State) (l : List α) (s0 s : State) (hs : s.fixed = s0.fixed)
    (h : ∀ s a, (f s a).fixed = s.fixed) : (l.foldl f s).fixed = s0.fixed := by
  induction l generalizing s with
  | nil => simpa using hs
  | cons a l ih => simpa using ih _ ((h _ _).trans hs)

/-- Either branch of a choice. -/
theorem fixed_ite (c : Prop) [Decidable c] (a b : State) : (if c then a else b).fixed = if c then a.fixed else b.fixed := by
  split <;> rfl

/-! ### The operations, in the order of their files: each leaves what is fixed -/

theorem fixed_regSet (s : State) {x1} {x2} {x3} : (regSet s x1 x2 x3).fixed = s.fixed := by
  unfold regSet
  simp only [fixed_mk, fixed_eta]

theorem fixed_modFn (s : State) {x1} {x2} : (State.modFn s x1 x2).fixed = s.fixed := by
  unfold State.modFn
  simp only [fixed_mk, fixed_eta]

theorem fixed_modRing (s : State) {x1} {x2} : (State.modRing s x1 x2).fixed = s.fixed := by
  unfold State.modRing
  simp only [fixed_modFn]

theorem fixed_modPort (s : State) {x1} {x2} : (State.modPort s x1 x2).fixed = s.fixed := by
  unfold State.modPort
  simp only [fixed_mk, fixed_eta]

theorem fixed_modTrack (s : State) {x1} {x2} : (State.modTrack s x1 x2).fixed = s.fixed := by
  unfold State.modTrack
  split <;> simp only [fixed_mk, fixed_eta]

theorem fixed_modRegion (s : State) {x1} {x2} : (State.modRegion s x1 x2).fixed = s.fixed := by
  unfold State.modRegion
  simp only [fixed_mk, fixed_eta]

theorem fixed_modTile (s : State) {x1} {x2} : (State.modTile s x1 x2).fixed = s.fixed := by
  unfold State.modTile
  simp only [fixed_modRegion]

theorem fixed_freeNat (s : State)  : (State.freeNat s).2.fixed = s.fixed := by
  unfold State.freeNat
  simp only [fixed_mk, fixed_eta]

theorem fixed_freeWord (s : State)  : (State.freeWord s).2.fixed = s.fixed := by
  unfold State.freeWord
  simp only [fixed_mk, fixed_eta]

theorem fixed_emit (s : State) {x1} : (State.emit s x1).fixed = s.fixed := by
  unfold State.emit
  simp only [fixed_mk, fixed_eta]

theorem fixed_countN (s : State) {x1} {x2} {x3} {x4} : (State.countN s x1 x2 x3 x4).fixed = s.fixed := by
  unfold State.countN
  simp only [fixed_mk, fixed_eta]

theorem fixed_chipCnt (s : State) {x1} {x2} : (State.chipCnt s x1 x2).fixed = s.fixed := by
  unfold State.chipCnt
  simp only [fixed_countN]

theorem fixed_portCnt (s : State) {x1} {x2} {x3} : (State.portCnt s x1 x2 x3).fixed = s.fixed := by
  unfold State.portCnt
  simp only [fixed_countN]

theorem fixed_hostWrite (s : State) {x1} {x2} {x3} : (State.hostWrite s x1 x2 x3).fixed = s.fixed := by
  unfold State.hostWrite
  simp only [fixed_emit, fixed_chipCnt]

theorem fixed_hostRead (s : State) {x1} {x2} {x3} : (State.hostRead s x1 x2 x3).fixed = s.fixed := by
  unfold State.hostRead
  simp only [fixed_emit, fixed_chipCnt]

theorem fixed_raiseVec (s : State) {x1} {x2} : (State.raiseVec s x1 x2).fixed = s.fixed := by
  unfold State.raiseVec
  simp only [fixed_ite, ite_self, fixed_modFn, fixed_emit]

theorem fixed_raiseEvent (s : State) {x1} : (State.raiseEvent s x1).fixed = s.fixed := by
  unfold State.raiseEvent
  simp only [fixed_raiseVec]

theorem fixed_setPeg (s : State) {x1} {x2} : (State.setPeg s x1 x2).fixed = s.fixed := by
  unfold State.setPeg
  simp only [fixed_mk, fixed_eta]

theorem fixed_addPeg (s : State) {x1} {x2} : (State.addPeg s x1 x2).fixed = s.fixed := by
  unfold State.addPeg
  simp only [fixed_setPeg]

theorem fixed_laterPeg (s : State) {x1} {x2} : (State.laterPeg s x1 x2).fixed = s.fixed := by
  unfold State.laterPeg
  simp only [fixed_mk, fixed_eta]

theorem fixed_moderate (s : State) {x1} {x2} : (moderate s x1 x2).fixed = s.fixed := by
  unfold moderate
  simp only [fixed_ite, ite_self, fixed_modRing, fixed_raiseVec]

theorem fixed_writeCompl (s : State) {x1} {x2} : (writeCompl s x1 x2).fixed = s.fixed := by
  unfold writeCompl
  simp only [fixed_ite, ite_self, fixed_hostWrite, fixed_modRing, fixed_laterPeg, fixed_moderate]

theorem fixed_postCompl (s : State) {x1} {x2} : (postCompl s x1 x2).fixed = s.fixed := by
  unfold postCompl
  simp only [fixed_ite, ite_self, fixed_writeCompl, fixed_modRing]

theorem fixed_complete (s : State) {x1} {x2} {x3} {x4} {x5} : (complete s x1 x2 x3 x4 x5).fixed = s.fixed := by
  unfold complete
  simp only [fixed_postCompl]

theorem fixed_flushHeld (s : State) {r} {n} : (flushHeld s r n).fixed = s.fixed := by
  induction n generalizing s with
  | zero => rfl
  | succ n ih =>
    unfold flushHeld
    split
    · rfl
    · split
      · rw [ih, fixed_writeCompl, fixed_modRing]
      · rfl

theorem fixed_judgeWait (s : State) {x1} : (judgeWait s x1).fixed = s.fixed := by
  unfold judgeWait
  simp only [fixed_mk, fixed_eta, fixed_ite, ite_self, fixed_postCompl, fixed_modRing]

theorem fixed_pegArbitrate (s : State) {x1} {x2} : (pegArbitrate s x1 x2).fixed = s.fixed := by
  unfold pegArbitrate
  repeat' (first | (simp only [fixed_mk, fixed_eta, fixed_ite, ite_self, fixed_setPeg, fixed_addPeg, fixed_judgeWait]; done) | (with_reducible refine fixed_foldl _ _ _ _ ?_ ?_) | (intro _ _) | split | (simp only [fixed_mk, fixed_eta, fixed_ite, ite_self, fixed_setPeg, fixed_addPeg, fixed_judgeWait]))

theorem fixed_logHealth (s : State) {x1} : (logHealth s x1).fixed = s.fixed := by
  unfold logHealth
  simp only [fixed_mk, fixed_eta, fixed_ite, ite_self, fixed_hostWrite, fixed_laterPeg, fixed_raiseEvent]

theorem fixed_badWrite (s : State) {x1} : (badWrite s x1).fixed = s.fixed := by
  unfold badWrite
  simp only [fixed_modFn]

theorem fixed_setMark (s : State) {x1} {x2} : (setMark s x1 x2).fixed = s.fixed := by
  unfold setMark
  simp only [fixed_mk, fixed_eta]

theorem fixed_noteCorrected (s : State) {x1} : (noteCorrected s x1).fixed = s.fixed := by
  unfold noteCorrected
  simp only [fixed_mk, fixed_eta, fixed_countN]

theorem fixed_noteDramCorrected (s : State) {x1} {x2} : (noteDramCorrected s x1 x2).fixed = s.fixed := by
  unfold noteDramCorrected
  simp only [fixed_mk, fixed_eta, fixed_ite, ite_self, fixed_countN, fixed_logHealth]

theorem fixed_noteDramBad (s : State) {x1} : (noteDramBad s x1).fixed = s.fixed := by
  unfold noteDramBad
  simp only [fixed_countN]

theorem fixed_readWord (s : State) {x1} : (readWord s x1).2.2.fixed = s.fixed := by
  unfold readWord
  simp only [fixed_ite, ite_self, fixed_noteCorrected, fixed_countN]

theorem fixed_readVia (s : State) {f} {a} {n} {k} : (readVia f s a n k).2.2.fixed = s.fixed := by
  induction k generalizing s a n with
  | zero => rfl
  | succ k ih =>
    unfold readVia
    split
    · rfl
    · dsimp only
      split
      · rw [ih]
      · rw [ih, fixed_readWord]

theorem fixed_readBytes (s : State) {x1} {x2} : (readBytes s x1 x2).2.2.fixed = s.fixed := by
  unfold readBytes
  simp only [fixed_readVia]

theorem fixed_writeWord (s : State) {x1} {x2} : (writeWord s x1 x2).2.fixed = s.fixed := by
  unfold writeWord
  repeat' (first | (simp only [fixed_mk, fixed_eta, fixed_ite, ite_self, fixed_countN, fixed_noteCorrected, fixed_setMark]; done) | (with_reducible refine fixed_foldl _ _ _ _ ?_ ?_) | (intro _ _) | split | (simp only [fixed_mk, fixed_eta, fixed_ite, ite_self, fixed_countN, fixed_noteCorrected, fixed_setMark]))

theorem fixed_writeVia (s : State) {f} {a} {bs} {k} : (writeVia f s a bs k).2.fixed = s.fixed := by
  induction k generalizing s a bs with
  | zero => rfl
  | succ k ih =>
    unfold writeVia
    split
    · rfl
    · dsimp only
      split
      · rw [ih]
      · rw [ih, fixed_writeWord]

theorem fixed_writeBytes (s : State) {x1} {x2} : (writeBytes s x1 x2).2.fixed = s.fixed := by
  unfold writeBytes
  simp only [fixed_writeVia]

theorem fixed_doDarn (s : State) {x1} {x2} {x3} {x4} : (doDarn s x1 x2 x3 x4).fixed = s.fixed := by
  unfold doDarn
  simp only [fixed_mk, fixed_eta, fixed_logHealth]

theorem fixed_logFull (s : State) {x1} {x2} : (logFull s x1 x2).fixed = s.fixed := by
  unfold logFull
  simp only [fixed_mk, fixed_eta, fixed_ite, ite_self, fixed_logHealth]

theorem fixed_darnRow (s : State) {x1} {x2} {x3} {x4} : (darnRow s x1 x2 x3 x4).2.fixed = s.fixed := by
  unfold darnRow
  split <;> simp only [fixed_doDarn, fixed_logFull]

theorem fixed_modPlan (s : State) {x1} {x2} : (modPlan s x1 x2).fixed = s.fixed := by
  unfold modPlan
  simp only [fixed_mk, fixed_eta]

theorem fixed_dropModel (s : State) {x1} : (dropModel s x1).fixed = s.fixed := by
  unfold dropModel
  simp only [fixed_mk, fixed_eta]

theorem fixed_takeWays (s : State) {c} {n} {ms} {w t} (h : takeWays s c n ms = some (w, t)) : t.fixed = s.fixed := by
  induction ms generalizing s with
  | nil =>
    simp only [takeWays, Option.map_eq_some_iff, Prod.mk.injEq] at h
    obtain ⟨_, _, _, rfl⟩ := h
    rfl
  | cons m ms ih =>
    unfold takeWays at h
    split at h
    · cases h; rfl
    · exact (ih _ h).trans rfl

theorem fixed_writeModel (s : State) {x1} {x2} {x3} : (writeModel s x1 x2 x3).fixed = s.fixed := by
  unfold writeModel
  repeat' (first | (simp only [fixed_mk, fixed_eta, fixed_ite, ite_self, fixed_writeVia]; done) | (with_reducible refine fixed_foldl _ _ _ _ ?_ ?_) | (intro _ _) | split | (simp only [fixed_mk, fixed_eta, fixed_ite, ite_self, fixed_writeVia]))

theorem fixed_writeTables (s : State) {x1} {x2} : (writeTables s x1 x2).fixed = s.fixed := by
  unfold writeTables
  repeat' (first | (simp only [fixed_mk, fixed_eta, fixed_ite, ite_self, fixed_writeVia]; done) | (with_reducible refine fixed_foldl _ _ _ _ ?_ ?_) | (intro _ _) | split | (simp only [fixed_mk, fixed_eta, fixed_ite, ite_self, fixed_writeVia]))

theorem fixed_writePrograms (s : State) {x1} {x2} : (writePrograms s x1 x2).fixed = s.fixed := by
  unfold writePrograms
  repeat' (first | (simp only [fixed_mk, fixed_eta, fixed_ite, ite_self, fixed_writeVia]; done) | (with_reducible refine fixed_foldl _ _ _ _ ?_ ?_) | (intro _ _) | split | (simp only [fixed_mk, fixed_eta, fixed_ite, ite_self, fixed_writeVia]))

theorem fixed_placeModel (s : State) {x1} {x2} {x3} : (placeModel s x1 x2 x3).fixed = s.fixed := by
  unfold placeModel
  simp only [fixed_mk, fixed_eta, fixed_writeModel]

theorem fixed_setPageCount (s : State) {x1} {x2} : (setPageCount s x1 x2).fixed = s.fixed := by
  unfold setPageCount
  simp only [fixed_mk, fixed_eta]

theorem fixed_erasePage (s : State) {x1} : (erasePage s x1).fixed = s.fixed := by
  unfold erasePage
  simp only [fixed_mk, fixed_eta]

theorem fixed_addRef (s : State) {x1} : (addRef s x1).fixed = s.fixed := by
  unfold addRef
  simp only [fixed_setPageCount]

theorem fixed_dropRef (s : State) {x1} {x2} : (dropRef s x1 x2).fixed = s.fixed := by
  unfold dropRef
  simp only [fixed_mk, fixed_eta, fixed_ite, ite_self, fixed_setPageCount]

theorem fixed_startWalk (s : State) {x1} : (startWalk s x1).fixed = s.fixed := by
  unfold startWalk
  simp only [fixed_mk, fixed_eta]

theorem fixed_endWalk (s : State) {x1} : (endWalk s x1).fixed = s.fixed := by
  unfold endWalk
  simp only [fixed_mk, fixed_eta]

theorem fixed_raiseVersion (s : State)  : (raiseVersion s).fixed = s.fixed := by
  unfold raiseVersion
  simp only [fixed_mk, fixed_eta]

theorem fixed_modSeq (s : State) {x1} {x2} : (modSeq s x1 x2).fixed = s.fixed := by
  unfold modSeq
  simp only [fixed_mk, fixed_eta]

theorem fixed_shareOne (s : State) {x0} {x1} {x2} {x4} : (shareOne x0 x1 x2 s x4).fixed = s.fixed := by
  unfold shareOne
  split <;> simp only [fixed_modSeq, fixed_addRef]

theorem fixed_dropOne (s : State) {x0} {x1} {x3} : (dropOne x0 x1 s x3).fixed = s.fixed := by
  unfold dropOne
  split <;> simp only [fixed_modSeq, fixed_dropRef]

theorem fixed_editApply (s : State) {x1} {x2} : (editApply s x1 x2).fixed = s.fixed := by
  unfold editApply
  repeat' (first | (simp only [fixed_shareOne, fixed_modSeq, fixed_dropOne]; done) | (with_reducible refine fixed_foldl _ _ _ _ ?_ ?_) | (intro _ _) | split | (simp only [fixed_shareOne, fixed_modSeq, fixed_dropOne]))

theorem fixed_modJob (s : State) {x1} {x2} : (modJob s x1 x2).fixed = s.fixed := by
  unfold modJob
  simp only [fixed_mk, fixed_eta]

theorem fixed_addJob (s : State) {x1} : (addJob s x1).2.fixed = s.fixed := by
  unfold addJob
  simp only [fixed_mk, fixed_eta]

theorem fixed_modAcct (s : State) {x1} {x2} : (modAcct s x1 x2).fixed = s.fixed := by
  unfold modAcct
  simp only [fixed_mk, fixed_eta]

theorem fixed_modLane (s : State) {x1} {x2} {x3} : (modLane s x1 x2 x3).fixed = s.fixed := by
  unfold modLane
  simp only [fixed_modJob]

theorem fixed_holdTiles_modTileJob (s : State) {x1} {x2} : (holdTiles.modTileJob s x1 x2).fixed = s.fixed := by
  unfold holdTiles.modTileJob
  rw [fixed_modTile]

theorem fixed_holdTiles (s : State) {x1} {x2} : (holdTiles s x1 x2).fixed = s.fixed := by
  unfold holdTiles
  exact fixed_foldl _ _ _ _ rfl fun _ _ => fixed_holdTiles_modTileJob _

theorem fixed_zeroRows (s : State) {x1} {x2} {x3} : (zeroRows s x1 x2 x3).fixed = s.fixed := by
  unfold zeroRows
  simp only [fixed_mk, fixed_eta]

theorem fixed_freeLane (s : State) {x0} {x2} : (freeLane x0 s x2).fixed = s.fixed := by
  unfold freeLane
  repeat' (first | (simp only [fixed_mk, fixed_eta, fixed_modTile, fixed_zeroRows, fixed_modLane]; done) | (with_reducible refine fixed_foldl _ _ _ _ ?_ ?_) | (intro _ _) | split | (simp only [fixed_mk, fixed_eta, fixed_modTile, fixed_zeroRows, fixed_modLane]))

theorem fixed_releaseJob (s : State) {x1} : (releaseJob s x1).fixed = s.fixed := by
  unfold releaseJob
  repeat' (first | (simp only [fixed_mk, fixed_eta, fixed_ite, ite_self, fixed_freeLane, fixed_endWalk, fixed_modJob]; done) | (with_reducible refine fixed_foldl _ _ _ _ ?_ ?_) | (intro _ _) | split | (simp only [fixed_mk, fixed_eta, fixed_ite, ite_self, fixed_freeLane, fixed_endWalk, fixed_modJob]))

theorem fixed_removeJob (s : State) {x1} : (removeJob s x1).fixed = s.fixed := by
  unfold removeJob
  simp only [fixed_mk, fixed_eta]

theorem fixed_dropOldModels (s : State)  : (dropOldModels s).fixed = s.fixed := by
  unfold dropOldModels
  simp only [fixed_mk, fixed_eta]

theorem fixed_finishJob (s : State) {x1} {x2} : (finishJob s x1 x2).fixed = s.fixed := by
  unfold finishJob
  simp only [fixed_ite, ite_self, fixed_releaseJob, fixed_modJob, fixed_dropOldModels, fixed_removeJob, fixed_modAcct, fixed_chipCnt]

theorem fixed_lastRites (s : State) {x1} {x2} : (lastRites s x1 x2).fixed = s.fixed := by
  unfold lastRites
  repeat' (first | (simp only [fixed_ite, ite_self, fixed_modJob, fixed_freeLane, fixed_dropOldModels, fixed_removeJob]; done) | (with_reducible refine fixed_foldl _ _ _ _ ?_ ?_) | (intro _ _) | split | (simp only [fixed_ite, ite_self, fixed_modJob, fixed_freeLane, fixed_dropOldModels, fixed_removeJob]))

theorem fixed_requestLoad (s : State) {x1} {x2} : (requestLoad s x1 x2).fixed = s.fixed := by
  unfold requestLoad
  simp only [fixed_mk, fixed_eta, fixed_ite, ite_self]

theorem fixed_loadWays (s : State) {l} {w t} (h : loadWays s l = some (w, t)) : t.fixed = s.fixed := by
  unfold loadWays at h
  split at h
  · cases h
  · exact fixed_takeWays s h

theorem fixed_touchModel (s : State) {x1} : (touchModel s x1).fixed = s.fixed := by
  unfold touchModel
  simp only [fixed_mk, fixed_eta]

theorem fixed_takePlace (s : State) {x0} {x1} {x3} : (takePlace x0 x1 s x3).fixed = s.fixed := by
  unfold takePlace
  simp only [fixed_mk, fixed_eta, fixed_ite, ite_self, fixed_holdTiles, fixed_countN, fixed_modLane]

theorem fixed_bindJob (s : State) {x1} {x2} {x3} : (bindJob s x1 x2 x3).fixed = s.fixed := by
  unfold bindJob
  repeat' (first | (simp only [fixed_mk, fixed_eta, fixed_ite, ite_self, fixed_modJob, fixed_takePlace, fixed_chipCnt, fixed_modAcct, fixed_touchModel]; done) | (with_reducible refine fixed_foldl _ _ _ _ ?_ ?_) | (intro _ _) | split | (simp only [fixed_mk, fixed_eta, fixed_ite, ite_self, fixed_modJob, fixed_takePlace, fixed_chipCnt, fixed_modAcct, fixed_touchModel]))

theorem fixed_tryStart (s : State) {j} {t} (h : tryStart s j = some t) : t.fixed = s.fixed := by
  unfold tryStart at h
  split at h
  · cases h; rw [fixed_bindJob]
  · cases h

theorem fixed_preempt (s : State) {x1} : (preempt s x1).fixed = s.fixed := by
  unfold preempt
  repeat' (first | (simp only [fixed_mk, fixed_eta, fixed_ite, ite_self, fixed_modJob]; done) | (with_reducible refine fixed_foldl _ _ _ _ ?_ ?_) | (intro _ _) | split | (simp only [fixed_mk, fixed_eta, fixed_ite, ite_self, fixed_modJob]))

theorem fixed_makeReady (s : State) {x1} : (makeReady s x1).fixed = s.fixed := by
  unfold makeReady
  simp only [fixed_modJob]

theorem fixed_admitWaiting (s : State)  : (admitWaiting s).fixed = s.fixed := by
  unfold admitWaiting
  repeat' (first | (simp only [fixed_mk, fixed_eta, fixed_ite, ite_self, fixed_makeReady]; done) | (with_reducible refine fixed_foldl _ _ _ _ ?_ ?_) | (intro _ _) | split | (simp only [fixed_mk, fixed_eta, fixed_ite, ite_self, fixed_makeReady]))

theorem fixed_startAll (s : State) {n} : (startAll s n).fixed = s.fixed := by
  induction n generalizing s with
  | zero => rfl
  | succ n ih =>
    unfold startAll
    split
    · rename_i h
      obtain ⟨j, _, hj⟩ := List.exists_of_findSome?_eq_some h
      rw [ih, fixed_tryStart s hj]
    · rfl

theorem fixed_askModels (s : State)  : (askModels s).fixed = s.fixed := by
  unfold askModels
  repeat' (first | (simp only [fixed_mk, fixed_eta, fixed_ite, ite_self, fixed_requestLoad]; done) | (with_reducible refine fixed_foldl _ _ _ _ ?_ ?_) | (intro _ _) | split | (simp only [fixed_mk, fixed_eta, fixed_ite, ite_self, fixed_requestLoad]))

theorem fixed_runSched (s : State)  : (runSched s).fixed = s.fixed := by
  unfold runSched
  repeat' (first | (simp only [fixed_mk, fixed_eta, fixed_ite, ite_self, fixed_admitWaiting, fixed_startAll, fixed_preempt, fixed_askModels]; done) | (with_reducible refine fixed_foldl _ _ _ _ ?_ ?_) | (intro _ _) | split | (simp only [fixed_mk, fixed_eta, fixed_ite, ite_self, fixed_admitWaiting, fixed_startAll, fixed_preempt, fixed_askModels]))

theorem fixed_setBasketCause (s : State) {x1} : (setBasketCause s x1).fixed = s.fixed := by
  unfold setBasketCause
  repeat' (first | (simp only [fixed_mk, fixed_eta, fixed_ite, ite_self, fixed_modTrack]; done) | (with_reducible refine fixed_foldl _ _ _ _ ?_ ?_) | (intro _ _) | split | (simp only [fixed_mk, fixed_eta, fixed_ite, ite_self, fixed_modTrack]))

theorem fixed_basketMarks (s : State)  : (basketMarks s).fixed = s.fixed := by
  unfold basketMarks
  simp only [fixed_mk, fixed_eta, fixed_ite, ite_self, fixed_setBasketCause, fixed_chipCnt]

theorem fixed_setBuilding (s : State) {x1} {x2} : (setBuilding s x1 x2).fixed = s.fixed := by
  unfold setBuilding
  simp only [fixed_mk, fixed_eta, fixed_basketMarks]

theorem fixed_commitPost (s : State) {x1} {x2} : (commitPost s x1 x2).fixed = s.fixed := by
  unfold commitPost
  simp only [fixed_mk, fixed_eta, fixed_basketMarks]

theorem fixed_discardBuilding (s : State) {x1} : (discardBuilding s x1).fixed = s.fixed := by
  unfold discardBuilding
  simp only [fixed_setBuilding]

theorem fixed_modFold (s : State) {x1} {x2} {x3} : (modFold s x1 x2 x3).fixed = s.fixed := by
  unfold modFold
  simp only [fixed_modRing]

theorem fixed_reachCommit (s : State) {x1} : (reachCommit s x1).fixed = s.fixed := by
  unfold reachCommit
  simp only [fixed_mk, fixed_eta, fixed_ite, ite_self]

theorem fixed_checkFold (s : State) {x1} {x2} : (checkFold s x1 x2).fixed = s.fixed := by
  unfold checkFold
  split <;> simp only [fixed_ite, ite_self, fixed_reachCommit]

theorem fixed_memberEnded (s : State) {x1} {x2} {x3} {x4} {x5} : (memberEnded s x1 x2 x3 x4 x5).fixed = s.fixed := by
  unfold memberEnded
  split <;> simp only [fixed_checkFold, fixed_modFold]

theorem fixed_reportJob (s : State) {x1} {x2} {x3} {x4} : (reportJob s x1 x2 x3 x4).fixed = s.fixed := by
  unfold reportJob
  repeat' (first | (simp only [fixed_mk, fixed_eta, fixed_ite, ite_self, fixed_discardBuilding, fixed_memberEnded, fixed_commitPost, fixed_postCompl]; done) | (with_reducible refine fixed_foldl _ _ _ _ ?_ ?_) | (intro _ _) | split | (simp only [fixed_mk, fixed_eta, fixed_ite, ite_self, fixed_discardBuilding, fixed_memberEnded, fixed_commitPost, fixed_postCompl]))

theorem fixed_foldCompls (s : State) {x1} {x2} {x3} {x4} {x5} : (foldCompls s x1 x2 x3 x4 x5).fixed = s.fixed := by
  unfold foldCompls
  repeat' (first | (simp only [fixed_postCompl]; done) | (with_reducible refine fixed_foldl _ _ _ _ ?_ ?_) | (intro _ _) | split | (simp only [fixed_postCompl]))

theorem fixed_dropFold (s : State) {x1} {x2} : (dropFold s x1 x2).fixed = s.fixed := by
  unfold dropFold
  simp only [fixed_mk, fixed_eta, fixed_modRing]

theorem fixed_discardMembers (s : State) {x1} : (discardMembers s x1).fixed = s.fixed := by
  unfold discardMembers
  repeat' (first | (simp only [fixed_mk, fixed_eta, fixed_ite, ite_self, fixed_discardBuilding]; done) | (with_reducible refine fixed_foldl _ _ _ _ ?_ ?_) | (intro _ _) | split | (simp only [fixed_mk, fixed_eta, fixed_ite, ite_self, fixed_discardBuilding]))

theorem fixed_abortFold (s : State) {x1} {x2} {x3} {x4} {x5} : (abortFold s x1 x2 x3 x4 x5).fixed = s.fixed := by
  unfold abortFold
  simp only [fixed_dropFold, fixed_foldCompls, fixed_discardMembers]

theorem fixed_dropPrepared (s : State) {x1} : (dropPrepared s x1).fixed = s.fixed := by
  unfold dropPrepared
  simp only [fixed_mk, fixed_eta]

theorem fixed_dropSwaps (s : State) {x1} : (dropSwaps s x1).fixed = s.fixed := by
  unfold dropSwaps
  repeat' (first | (simp only [fixed_mk, fixed_eta, fixed_ite, ite_self, fixed_dropPrepared]; done) | (with_reducible refine fixed_foldl _ _ _ _ ?_ ?_) | (intro _ _) | split | (simp only [fixed_mk, fixed_eta, fixed_ite, ite_self, fixed_dropPrepared]))

theorem fixed_abandonFolds (s : State) {x1} {x2} : (abandonFolds s x1 x2).fixed = s.fixed := by
  unfold abandonFolds
  repeat' (first | (simp only [fixed_mk, fixed_eta, fixed_ite, ite_self, fixed_dropFold, fixed_discardMembers, fixed_dropSwaps]; done) | (with_reducible refine fixed_foldl _ _ _ _ ?_ ?_) | (intro _ _) | split | (simp only [fixed_mk, fixed_eta, fixed_ite, ite_self, fixed_dropFold, fixed_discardMembers, fixed_dropSwaps]))

theorem fixed_modPiece (s : State) {x1} {x2} {x3} : (modPiece s x1 x2 x3).fixed = s.fixed := by
  unfold modPiece
  simp only [fixed_modTrack]

theorem fixed_diagPiece (s : State) {x1} {x2} {x3} {x4} {x5} {x6} : (diagPiece s x1 x2 x3 x4 x5 x6).fixed = s.fixed := by
  unfold diagPiece
  simp only [fixed_modPiece]

theorem fixed_diagTrack (s : State) {x1} {x2} {x3} : (diagTrack s x1 x2 x3).fixed = s.fixed := by
  unfold diagTrack
  simp only [fixed_modTrack]

theorem fixed_stopPiece (s : State) {x1} {x2} : (stopPiece s x1 x2).fixed = s.fixed := by
  unfold stopPiece
  repeat' (first | (simp only [fixed_mk, fixed_eta, fixed_finishJob]; done) | (with_reducible refine fixed_foldl _ _ _ _ ?_ ?_) | (intro _ _) | split | (simp only [fixed_mk, fixed_eta, fixed_finishJob]))

theorem fixed_verdictFold (s : State) {x1} {x2} : (verdictFold s x1 x2).fixed = s.fixed := by
  unfold verdictFold
  simp only [fixed_ite, ite_self, fixed_modPiece, fixed_reachCommit]

theorem fixed_discardPiece (s : State) {x1} {x2} {x3} : (discardPiece s x1 x2 x3).fixed = s.fixed := by
  unfold discardPiece
  split <;> simp only [fixed_ite, ite_self, fixed_verdictFold, fixed_stopPiece, fixed_modPiece]

theorem fixed_discardGeometry (s : State) {x1} {x2} {x3} : (discardGeometry s x1 x2 x3).fixed = s.fixed := by
  unfold discardGeometry
  split <;> simp only [fixed_ite, ite_self, fixed_discardPiece, fixed_diagPiece]

theorem fixed_sidesEnded (s : State) {x1} {x2} : (sidesEnded s x1 x2).fixed = s.fixed := by
  unfold sidesEnded
  split <;> simp only [fixed_ite, ite_self, fixed_modPiece, fixed_verdictFold]

theorem fixed_sideEnded (s : State) {x1} {x2} {x3} : (sideEnded s x1 x2 x3).fixed = s.fixed := by
  unfold sideEnded
  simp only [fixed_sidesEnded, fixed_modPiece]

theorem fixed_seqEnded (s : State) {x1} {x2} : (seqEnded s x1 x2).fixed = s.fixed := by
  unfold seqEnded
  split <;> simp only [fixed_ite, ite_self, fixed_verdictFold, fixed_stopPiece]

theorem fixed_prunePieces (s : State) {x1} : (prunePieces s x1).fixed = s.fixed := by
  unfold prunePieces
  simp only [fixed_modTrack]

theorem fixed_countVerdict (s : State) {x1} {x2} {x3} : (countVerdict s x1 x2 x3).fixed = s.fixed := by
  unfold countVerdict
  simp only [fixed_ite, ite_self, fixed_modTrack, fixed_modAcct, fixed_chipCnt]

theorem fixed_sendFrame (s : State) {x1} {x2} {x3} {x4} {x5} {x6} : (sendFrame s x1 x2 x3 x4 x5 x6).fixed = s.fixed := by
  unfold sendFrame
  simp only [fixed_mk, fixed_eta, fixed_ite, ite_self, fixed_emit, fixed_chipCnt]

theorem fixed_sendAck (s : State) {x1} {x2} : (sendAck s x1 x2).fixed = s.fixed := by
  unfold sendAck
  simp only [fixed_ite, ite_self, fixed_emit, fixed_chipCnt]

theorem fixed_sendSyncBytes (s : State) {x1} : (sendSyncBytes s x1).fixed = s.fixed := by
  unfold sendSyncBytes
  repeat' (first | (simp only [fixed_mk, fixed_eta, fixed_ite, ite_self, fixed_sendFrame]; done) | (with_reducible refine fixed_foldl _ _ _ _ ?_ ?_) | (intro _ _) | split | (simp only [fixed_mk, fixed_eta, fixed_ite, ite_self, fixed_sendFrame]))

theorem fixed_sendSync (s : State)  : (sendSync s).fixed = s.fixed := by
  unfold sendSync
  simp only [fixed_ite, ite_self, fixed_sendSyncBytes]

theorem fixed_sendHealth (s : State) {x1} {x2} {x3} : (sendHealth s x1 x2 x3).fixed = s.fixed := by
  unfold sendHealth
  simp only [fixed_ite, ite_self, fixed_sendFrame]

theorem fixed_sendWindowState (s : State) {x1} : (sendWindowState s x1).fixed = s.fixed := by
  unfold sendWindowState
  simp only [fixed_sendFrame]

theorem fixed_countFrames (s : State) {x1} : (countFrames s x1).fixed = s.fixed := by
  unfold countFrames
  repeat' (first | (simp only [fixed_ite, ite_self, fixed_countN]; done) | (with_reducible refine fixed_foldl _ _ _ _ ?_ ?_) | (intro _ _) | split | (simp only [fixed_ite, ite_self, fixed_countN]))

theorem fixed_countHeld (s : State) {x1} : (countHeld s x1).fixed = s.fixed := by
  unfold countHeld
  simp only [fixed_ite, ite_self, fixed_chipCnt]

theorem fixed_passTime (s : State) {x1} : (passTime s x1).fixed = s.fixed := by
  unfold passTime
  simp only [fixed_mk, fixed_eta, fixed_ite, ite_self, fixed_countHeld, fixed_countFrames]

theorem fixed_passUntil (s : State) {x1} : (passUntil s x1).fixed = s.fixed := by
  unfold passUntil
  simp only [fixed_passTime]

theorem fixed_pushColour (s : State) {x1} {x2} : (pushColour s x1 x2).fixed = s.fixed := by
  unfold pushColour
  simp only [fixed_modPort]

theorem fixed_loseColours (s : State) {x1} {x2} {x3} : (loseColours s x1 x2 x3).fixed = s.fixed := by
  unfold loseColours
  repeat' (first | (simp only [fixed_mk, fixed_eta, fixed_ite, ite_self, fixed_portCnt, fixed_pushColour]; done) | (with_reducible refine fixed_foldl _ _ _ _ ?_ ?_) | (intro _ _) | split | (simp only [fixed_mk, fixed_eta, fixed_ite, ite_self, fixed_portCnt, fixed_pushColour]))

theorem fixed_expireTrig (s : State) {x1} {x2} : (expireTrig s x1 x2).fixed = s.fixed := by
  unfold expireTrig
  simp only [fixed_loseColours]

theorem fixed_emitPort (s : State) {x1} : (emitPort s x1).fixed = s.fixed := by
  unfold emitPort
  simp only [fixed_ite, ite_self, fixed_emit]

theorem fixed_lampsOff (s : State) {x1} : (lampsOff s x1).fixed = s.fixed := by
  unfold lampsOff
  repeat' (first | (simp only [fixed_emitPort, fixed_modPort]; done) | (with_reducible refine fixed_foldl _ _ _ _ ?_ ?_) | (intro _ _) | split | (simp only [fixed_emitPort, fixed_modPort]))

theorem fixed_lampsOn (s : State) {x1} : (lampsOn s x1).fixed = s.fixed := by
  unfold lampsOn
  repeat' (first | (simp only [fixed_emitPort, fixed_modPort]; done) | (with_reducible refine fixed_foldl _ _ _ _ ?_ ?_) | (intro _ _) | split | (simp only [fixed_emitPort, fixed_modPort]))

theorem fixed_switchLamp (s : State) {x1} {x2} : (switchLamp s x1 x2).fixed = s.fixed := by
  unfold switchLamp
  simp only [fixed_emitPort, fixed_lampsOff, fixed_modPort]

theorem fixed_issueTrigger (s : State) {x1} {x2} {x3} : (issueTrigger s x1 x2 x3).fixed = s.fixed := by
  unfold issueTrigger
  repeat' (first | (simp only [fixed_ite, ite_self, fixed_expireTrig, fixed_modPort, fixed_emitPort, fixed_portCnt, fixed_switchLamp]; done) | (with_reducible refine fixed_foldl _ _ _ _ ?_ ?_) | (intro _ _) | split | (simp only [fixed_ite, ite_self, fixed_expireTrig, fixed_modPort, fixed_emitPort, fixed_portCnt, fixed_switchLamp]))

theorem fixed_fireLine (s : State) {x1} {x2} : (fireLine s x1 x2).fixed = s.fixed := by
  unfold fireLine
  repeat' (first | (simp only [fixed_mk, fixed_eta, fixed_ite, ite_self, fixed_modTrack, fixed_issueTrigger]; done) | (with_reducible refine fixed_foldl _ _ _ _ ?_ ?_) | (intro _ _) | split | (simp only [fixed_mk, fixed_eta, fixed_ite, ite_self, fixed_modTrack, fixed_issueTrigger]))

theorem fixed_overrateLine (s : State) {x1} {x2} : (overrateLine s x1 x2).fixed = s.fixed := by
  unfold overrateLine
  repeat' (first | (simp only [fixed_mk, fixed_eta, fixed_ite, ite_self, fixed_modPort, fixed_modTrack, fixed_loseColours, fixed_portCnt]; done) | (with_reducible refine fixed_foldl _ _ _ _ ?_ ?_) | (intro _ _) | split | (simp only [fixed_mk, fixed_eta, fixed_ite, ite_self, fixed_modPort, fixed_modTrack, fixed_loseColours, fixed_portCnt]))

theorem fixed_encoderLine (s : State) {x1} : (encoderLine s x1).fixed = s.fixed := by
  unfold encoderLine
  simp only [fixed_ite, ite_self, fixed_modTrack, fixed_overrateLine, fixed_fireLine]

theorem fixed_beginRestart (s : State) {x1} : (beginRestart s x1).fixed = s.fixed := by
  unfold beginRestart
  repeat' (first | (simp only [fixed_ite, fixed_modTrack, fixed_discardPiece, fixed_modPort, fixed_portCnt]; done) | (with_reducible refine fixed_foldl _ _ _ _ ?_ ?_) | (intro _ _) | split | (simp only [fixed_ite, fixed_modTrack, fixed_discardPiece, fixed_modPort, fixed_portCnt]))

theorem fixed_releaseRestart (s : State) {x1} : (releaseRestart s x1).fixed = s.fixed := by
  unfold releaseRestart
  simp only [fixed_modTrack]

theorem fixed_failRestart (s : State) {x1} {x2} : (failRestart s x1 x2).fixed = s.fixed := by
  unfold failRestart
  repeat' (first | (simp only [fixed_ite, ite_self, fixed_modPort, fixed_modTrack, fixed_portCnt, fixed_discardPiece]; done) | (with_reducible refine fixed_foldl _ _ _ _ ?_ ?_) | (intro _ _) | split | (simp only [fixed_ite, ite_self, fixed_modPort, fixed_modTrack, fixed_portCnt, fixed_discardPiece]))

theorem fixed_restartForward (s : State) {x1} {x2} {x3} {x4} : (restartForward s x1 x2 x3 x4).fixed = s.fixed := by
  unfold restartForward
  repeat' (first | (simp only [fixed_ite, ite_self, fixed_failRestart, fixed_overrateLine, fixed_fireLine, fixed_modTrack]; done) | (with_reducible refine fixed_foldl _ _ _ _ ?_ ?_) | (intro _ _) | split | (simp only [fixed_ite, ite_self, fixed_failRestart, fixed_overrateLine, fixed_fireLine, fixed_modTrack]))

theorem fixed_countStep (s : State) {x1} {x2} : (countStep s x1 x2).fixed = s.fixed := by
  unfold countStep
  repeat' (first | (simp only [fixed_ite, ite_self, fixed_modTrack, fixed_restartForward, fixed_encoderLine]; done) | (with_reducible refine fixed_foldl _ _ _ _ ?_ ?_) | (intro _ _) | split | (simp only [fixed_ite, ite_self, fixed_modTrack, fixed_restartForward, fixed_encoderLine]))

theorem fixed_quadError (s : State) {x1} : (quadError s x1).fixed = s.fixed := by
  unfold quadError
  simp only [fixed_portCnt, fixed_modTrack, fixed_diagTrack]

theorem fixed_noteFeed (s : State) {x1} {x2} : (noteFeed s x1 x2).fixed = s.fixed := by
  unfold noteFeed
  simp only [fixed_ite, ite_self, fixed_modTrack, fixed_releaseRestart, fixed_beginRestart]

theorem fixed_finishCal (s : State) {x1} {x2} : (finishCal s x1 x2).fixed = s.fixed := by
  unfold finishCal
  simp only [fixed_hostWrite, fixed_modPort, fixed_complete, fixed_lampsOff, fixed_sendSync]

theorem fixed_calPacket (s : State) {x1} {x2} {x3} : (calPacket s x1 x2 x3).2.fixed = s.fixed := by
  unfold calPacket
  repeat' (first | (simp only [fixed_ite, ite_self, fixed_modPort, fixed_finishCal]; done) | (with_reducible refine fixed_foldl _ _ _ _ ?_ ?_) | (intro _ _) | split | (simp only [fixed_ite, ite_self, fixed_modPort, fixed_finishCal]))

theorem fixed_linePacket (s : State) {x1} {x2} : (linePacket s x1 x2).2.fixed = s.fixed := by
  unfold linePacket
  repeat' (first | (simp only [fixed_ite, ite_self, fixed_modPort, fixed_pushColour]; done) | (with_reducible refine fixed_foldl _ _ _ _ ?_ ?_) | (intro _ _) | split | (simp only [fixed_ite, ite_self, fixed_modPort, fixed_pushColour]))

theorem fixed_reportPost (s : State) {x1} {x2} {x3} {x4} : (reportPost s x1 x2 x3 x4).fixed = s.fixed := by
  unfold reportPost
  simp only [fixed_ite, ite_self, fixed_removeJob, fixed_reportJob, fixed_setBuilding, fixed_modJob]

theorem fixed_retryPosts (s : State)  : (retryPosts s).fixed = s.fixed := by
  unfold retryPosts
  repeat' (first | (simp only [fixed_mk, fixed_eta, fixed_ite, ite_self, fixed_reportPost]; done) | (with_reducible refine fixed_foldl _ _ _ _ ?_ ?_) | (intro _ _) | split | (simp only [fixed_mk, fixed_eta, fixed_ite, ite_self, fixed_reportPost]))

theorem fixed_failSeqStep (s : State) {x1} {x2} : (failSeqStep s x1 x2).fixed = s.fixed := by
  unfold failSeqStep
  split <;> simp only [fixed_removeJob, fixed_reportJob, fixed_modSeq]

theorem fixed_postSeqStep (s : State) {x1} : (postSeqStep s x1).fixed = s.fixed := by
  unfold postSeqStep
  split <;> simp only [fixed_modSeq, fixed_reportPost]

theorem fixed_sharedSeq (s : State) {x1} : (sharedSeq s x1).fixed = s.fixed := by
  unfold sharedSeq
  split <;> simp only [fixed_discardPiece, fixed_modSeq, fixed_failSeqStep]

theorem fixed_endSeq (s : State) {x1} {x2} : (endSeq s x1 x2).fixed = s.fixed := by
  unfold endSeq
  split <;> simp only [fixed_modSeq, fixed_discardPiece, fixed_failSeqStep]

theorem fixed_releaseSeq (s : State) {x1} : (releaseSeq s x1).fixed = s.fixed := by
  unfold releaseSeq
  repeat' (first | (simp only [fixed_mk, fixed_eta, fixed_ite, ite_self, fixed_seqEnded, fixed_failSeqStep]; done) | (with_reducible refine fixed_foldl _ _ _ _ ?_ ?_) | (intro _ _) | split | (simp only [fixed_mk, fixed_eta, fixed_ite, ite_self, fixed_seqEnded, fixed_failSeqStep]))

theorem fixed_leaveOne (s : State) {x1} : (leaveOne s x1).fixed = s.fixed := by
  unfold leaveOne
  repeat' (first | (simp only [fixed_mk, fixed_eta, fixed_ite, fixed_dropRef, fixed_modSeq]; done) | (with_reducible refine fixed_foldl _ _ _ _ ?_ ?_) | (intro _ _) | split | (simp only [fixed_mk, fixed_eta, fixed_ite, fixed_dropRef, fixed_modSeq]))

theorem fixed_dropIndex (s : State) {x0} {x1} {x3} : (dropIndex x0 x1 s x3).fixed = s.fixed := by
  unfold dropIndex
  repeat' (first | (simp only [fixed_mk, fixed_eta, fixed_ite, ite_self, fixed_dropOne, fixed_chipCnt]; done) | (with_reducible refine fixed_foldl _ _ _ _ ?_ ?_) | (intro _ _) | split | (simp only [fixed_mk, fixed_eta, fixed_ite, ite_self, fixed_dropOne, fixed_chipCnt]))

theorem fixed_dropDown (s : State) {c} {need} {id} {k} : (dropDown c need id k s).fixed = s.fixed := by
  induction k generalizing s with
  | zero => rfl
  | succ k ih =>
    unfold dropDown
    split
    · rfl
    · rw [ih, fixed_dropIndex]

theorem fixed_dropIdle (s : State) {need} {qs} : (dropIdle need qs s).fixed = s.fixed := by
  induction qs generalizing s with
  | nil => rfl
  | cons q qs ih =>
    unfold dropIdle
    split
    · rfl
    · split
      · exact ih s
      · dsimp only
        rw [ih, fixed_modSeq, fixed_dropDown]

theorem fixed_pauseLoop (s : State) {p} {n} {gs} : (pauseLoop p n gs s).2.fixed = s.fixed := by
  induction n generalizing s gs with
  | zero => rfl
  | succ n ih =>
    unfold pauseLoop
    dsimp only
    split
    · rfl
    · split
      · rfl
      · rw [fixed_endSeq, fixed_chipCnt]
      · rw [ih, fixed_chipCnt, fixed_modSeq]
        refine fixed_foldl _ _ _ _ rfl fun s a => ?_
        rw [fixed_chipCnt, fixed_dropOne]

theorem fixed_enterStep (s : State) {x0} {x2} : (enterStep x0 s x2).fixed = s.fixed := by
  unfold enterStep
  repeat' (first | (simp only [fixed_addRef, fixed_erasePage, fixed_modSeq, fixed_chipCnt, fixed_modPiece]; done) | (with_reducible refine fixed_foldl _ _ _ _ ?_ ?_) | (intro _ _) | split | (simp only [fixed_addRef, fixed_erasePage, fixed_modSeq, fixed_chipCnt, fixed_modPiece]))

theorem fixed_startStep (s : State) {x1} : (startStep s x1).fixed = s.fixed := by
  unfold startStep
  repeat' (first | (simp only [fixed_ite, ite_self, fixed_leaveOne, fixed_endSeq, fixed_modSeq, fixed_chipCnt, fixed_dropIdle, fixed_pauseLoop, fixed_enterStep, fixed_modPlan, fixed_raiseVersion, fixed_addJob]; done) | (with_reducible refine fixed_foldl _ _ _ _ ?_ ?_) | (intro _ _) | split | (simp only [fixed_ite, ite_self, fixed_leaveOne, fixed_endSeq, fixed_modSeq, fixed_chipCnt, fixed_dropIdle, fixed_pauseLoop, fixed_enterStep, fixed_modPlan, fixed_raiseVersion, fixed_addJob]))

theorem fixed_stepEndOne (s : State) {x0} {x1} {x3} : (stepEndOne x0 x1 s x3).fixed = s.fixed := by
  unfold stepEndOne
  repeat' (first | (simp only [fixed_ite, ite_self, fixed_dropOne, fixed_modSeq, fixed_modPiece, fixed_seqEnded, fixed_postSeqStep]; done) | (with_reducible refine fixed_foldl _ _ _ _ ?_ ?_) | (intro _ _) | split | (simp only [fixed_ite, ite_self, fixed_dropOne, fixed_modSeq, fixed_modPiece, fixed_seqEnded, fixed_postSeqStep]))

theorem fixed_finishStep (s : State) {x1} : (finishStep s x1).fixed = s.fixed := by
  unfold finishStep
  repeat' (first | (simp only [fixed_mk, fixed_eta, fixed_ite, ite_self, fixed_finishJob, fixed_stepEndOne]; done) | (with_reducible refine fixed_foldl _ _ _ _ ?_ ?_) | (intro _ _) | split | (simp only [fixed_mk, fixed_eta, fixed_ite, ite_self, fixed_finishJob, fixed_stepEndOne]))

theorem fixed_stepFailOne (s : State) {x0} {x1} {x3} : (stepFailOne x0 x1 s x3).fixed = s.fixed := by
  unfold stepFailOne
  repeat' (first | (simp only [fixed_endSeq, fixed_dropOne, fixed_modSeq, fixed_failSeqStep]; done) | (with_reducible refine fixed_foldl _ _ _ _ ?_ ?_) | (intro _ _) | split | (simp only [fixed_endSeq, fixed_dropOne, fixed_modSeq, fixed_failSeqStep]))

theorem fixed_failStep (s : State) {x1} {x2} : (failStep s x1 x2).fixed = s.fixed := by
  unfold failStep
  repeat' (first | (simp only [fixed_mk, fixed_eta, fixed_ite, ite_self, fixed_finishJob, fixed_stepFailOne]; done) | (with_reducible refine fixed_foldl _ _ _ _ ?_ ?_) | (intro _ _) | split | (simp only [fixed_mk, fixed_eta, fixed_ite, ite_self, fixed_finishJob, fixed_stepFailOne]))

theorem fixed_failJob (s : State) {x1} {x2} {x3} : (failJob s x1 x2 x3).fixed = s.fixed := by
  unfold failJob
  split <;> simp only [fixed_mk, fixed_eta, fixed_ite, ite_self, fixed_discardPiece, fixed_finishJob, fixed_failStep, fixed_discardBuilding, fixed_reportJob]

theorem fixed_logWords (s : State) {x1} {x2} : (logWords s x1 x2).fixed = s.fixed := by
  unfold logWords
  repeat' (first | (simp only [fixed_mk, fixed_eta, fixed_ite, ite_self, fixed_logHealth]; done) | (with_reducible refine fixed_foldl _ _ _ _ ?_ ?_) | (intro _ _) | split | (simp only [fixed_mk, fixed_eta, fixed_ite, ite_self, fixed_logHealth]))

theorem fixed_setFault (s : State) {x1} {x2} {x3} {x4} : (setFault s x1 x2 x3 x4).fixed = s.fixed := by
  unfold setFault
  simp only [fixed_modJob]

theorem fixed_buildPiece (s : State) {x1} {x2} : (buildPiece s x1 x2).fixed = s.fixed := by
  unfold buildPiece
  split <;> simp only [fixed_ite, ite_self, fixed_modPiece, fixed_setBuilding]

theorem fixed_feedRow (s : State) {x0} {x1} {x2} {x4} {x5} : (feedRow x0 x1 x2 s x4 x5).fixed = s.fixed := by
  unfold feedRow
  repeat' (first | (simp only [fixed_writeWord]; done) | (with_reducible refine fixed_foldl _ _ _ _ ?_ ?_) | (intro _ _) | split | (simp only [fixed_writeWord]))

theorem fixed_feedLane (s : State) {x0} {x1} {x3} : (feedLane x0 x1 s x3).fixed = s.fixed := by
  unfold feedLane
  repeat' (first | (simp only [fixed_ite, fixed_feedRow, fixed_modLane]; done) | (with_reducible refine fixed_foldl _ _ _ _ ?_ ?_) | (intro _ _) | split | (simp only [fixed_ite, fixed_feedRow, fixed_modLane]))

theorem fixed_feedLanes (s : State)  : (feedLanes s).fixed = s.fixed := by
  unfold feedLanes
  repeat' (first | (simp only [fixed_mk, fixed_eta, fixed_ite, ite_self, fixed_feedLane]; done) | (with_reducible refine fixed_foldl _ _ _ _ ?_ ?_) | (intro _ _) | split | (simp only [fixed_mk, fixed_eta, fixed_ite, ite_self, fixed_feedLane]))

theorem fixed_modTransfer (s : State) {x1} {x2} : (modTransfer s x1 x2).fixed = s.fixed := by
  unfold modTransfer
  simp only [fixed_mk, fixed_eta]

theorem fixed_takeTransfer (s : State) {x1} : (takeTransfer s x1).fixed = s.fixed := by
  unfold takeTransfer
  repeat' (first | (simp only [fixed_readVia, fixed_modTransfer, fixed_logWords, fixed_countN, fixed_setFault]; done) | (with_reducible refine fixed_foldl _ _ _ _ ?_ ?_) | (intro _ _) | split | (simp only [fixed_readVia, fixed_modTransfer, fixed_logWords, fixed_countN, fixed_setFault]))

theorem fixed_takeWaiting (s : State) {x1} {x2} : (takeWaiting s x1 x2).fixed = s.fixed := by
  unfold takeWaiting
  repeat' (first | (simp only [fixed_mk, fixed_eta, fixed_ite, ite_self, fixed_takeTransfer]; done) | (with_reducible refine fixed_foldl _ _ _ _ ?_ ?_) | (intro _ _) | split | (simp only [fixed_mk, fixed_eta, fixed_ite, ite_self, fixed_takeTransfer]))

theorem fixed_sendMove (s : State) {x0} {x1} {x2} {x4} : (sendMove x0 x1 x2 s x4).fixed = s.fixed := by
  unfold sendMove
  repeat' (first | (simp only [fixed_mk, fixed_eta, fixed_ite, ite_self, fixed_takeTransfer, fixed_countN]; done) | (with_reducible refine fixed_foldl _ _ _ _ ?_ ?_) | (intro _ _) | split | (simp only [fixed_mk, fixed_eta, fixed_ite, ite_self, fixed_takeTransfer, fixed_countN]))

theorem fixed_noteArrival (s : State) {x1} {x2} {x3} : (noteArrival s x1 x2 x3).fixed = s.fixed := by
  unfold noteArrival
  simp only [fixed_modJob]

theorem fixed_landTransfer (s : State) {x1} : (landTransfer s x1).fixed = s.fixed := by
  unfold landTransfer
  repeat' (first | (simp only [fixed_mk, fixed_eta, fixed_writeVia, fixed_logWords, fixed_countN, fixed_setFault, fixed_noteArrival, fixed_pegArbitrate]; done) | (with_reducible refine fixed_foldl _ _ _ _ ?_ ?_) | (intro _ _) | split | (simp only [fixed_mk, fixed_eta, fixed_writeVia, fixed_logWords, fixed_countN, fixed_setFault, fixed_noteArrival, fixed_pegArbitrate]))

theorem fixed_copyPrograms (s : State) {x1} {x2} : (copyPrograms s x1 x2).fixed = s.fixed := by
  unfold copyPrograms
  repeat' (first | (simp only [fixed_mk, fixed_eta, fixed_ite, ite_self, fixed_readBytes, fixed_writeBytes, fixed_logWords]; done) | (with_reducible refine fixed_foldl _ _ _ _ ?_ ?_) | (intro _ _) | split | (simp only [fixed_mk, fixed_eta, fixed_ite, ite_self, fixed_readBytes, fixed_writeBytes, fixed_logWords]))

theorem fixed_startLane (s : State) {x1} {x2} : (startLane s x1 x2).fixed = s.fixed := by
  unfold startLane
  repeat' (first | (simp only [fixed_ite, ite_self, fixed_countN, fixed_copyPrograms, fixed_startWalk, fixed_modJob]; done) | (with_reducible refine fixed_foldl _ _ _ _ ?_ ?_) | (intro _ _) | split | (simp only [fixed_ite, ite_self, fixed_countN, fixed_copyPrograms, fixed_startWalk, fixed_modJob]))

theorem fixed_goLane (s : State) {x0} {x2} : (goLane x0 s x2).fixed = s.fixed := by
  unfold goLane
  repeat' (first | (simp only [fixed_mk, fixed_eta, fixed_ite, ite_self, fixed_modLane, fixed_startLane]; done) | (with_reducible refine fixed_foldl _ _ _ _ ?_ ?_) | (intro _ _) | split | (simp only [fixed_mk, fixed_eta, fixed_ite, ite_self, fixed_modLane, fixed_startLane]))

theorem fixed_goJob (s : State) {x1} : (goJob s x1).fixed = s.fixed := by
  unfold goJob
  repeat' (first | (simp only [fixed_mk, fixed_eta, fixed_ite, ite_self, fixed_failJob, fixed_freeLane, fixed_goLane]; done) | (with_reducible refine fixed_foldl _ _ _ _ ?_ ?_) | (intro _ _) | split | (simp only [fixed_mk, fixed_eta, fixed_ite, ite_self, fixed_failJob, fixed_freeLane, fixed_goLane]))

theorem fixed_goLanes (s : State)  : (goLanes s).fixed = s.fixed := by
  unfold goLanes
  repeat' (first | (simp only [fixed_mk, fixed_eta, fixed_ite, ite_self, fixed_feedLanes, fixed_goJob]; done) | (with_reducible refine fixed_foldl _ _ _ _ ?_ ?_) | (intro _ _) | split | (simp only [fixed_mk, fixed_eta, fixed_ite, ite_self, fixed_feedLanes, fixed_goJob]))

theorem fixed_placeLane (s : State) {j} {l} {t} (h : placeLane s j l = some t) : t.fixed = s.fixed := by
  unfold placeLane at h
  split at h
  · cases h
    split
    · rw [fixed_failJob]
    · rw [fixed_takeWaiting, fixed_takePlace]
  · cases h

theorem fixed_placeLanes (s : State) : (placeLanes s).fixed = s.fixed := by
  unfold placeLanes
  split
  · rfl
  · refine fixed_foldl _ _ _ _ rfl fun s j => ?_
    split
    · cases h : placeLane s j _ with
      | none => rfl
      | some t => exact fixed_placeLane s h
    · rfl

theorem fixed_schedule (s : State)  : (schedule s).fixed = s.fixed := by
  unfold schedule
  simp only [fixed_goLanes, fixed_runSched, fixed_placeLanes]

theorem fixed_diagDead (s : State) {x1} {x2} {x3} {x4} : (diagDead s x1 x2 x3 x4).fixed = s.fixed := by
  unfold diagDead
  repeat' (first | (simp only [fixed_mk, fixed_eta, fixed_ite, ite_self, fixed_diagPiece]; done) | (with_reducible refine fixed_foldl _ _ _ _ ?_ ?_) | (intro _ _) | split | (simp only [fixed_mk, fixed_eta, fixed_ite, ite_self, fixed_diagPiece]))

theorem fixed_deadRecovery (s : State) {x1} {x2} : (deadRecovery s x1 x2).fixed = s.fixed := by
  unfold deadRecovery
  repeat' (first | (simp only [fixed_ite, ite_self, fixed_modPort, fixed_diagDead, fixed_lampsOff, fixed_sendSync, fixed_modTrack]; done) | (with_reducible refine fixed_foldl _ _ _ _ ?_ ?_) | (intro _ _) | split | (simp only [fixed_ite, ite_self, fixed_modPort, fixed_diagDead, fixed_lampsOff, fixed_sendSync, fixed_modTrack]))

theorem fixed_gapUpdate (s : State) {x1} : (gapUpdate s x1).fixed = s.fixed := by
  unfold gapUpdate
  repeat' (first | (simp only [fixed_ite, fixed_modPort, fixed_portCnt, fixed_diagPiece]; done) | (with_reducible refine fixed_foldl _ _ _ _ ?_ ?_) | (intro _ _) | split | (simp only [fixed_ite, fixed_modPort, fixed_portCnt, fixed_diagPiece]))

theorem fixed_closeGap (s : State) {x1} : (closeGap s x1).fixed = s.fixed := by
  unfold closeGap
  simp only [fixed_ite, ite_self, fixed_gapUpdate]

theorem fixed_swapCoefs (s : State) {x1} {x2} : (swapCoefs s x1 x2).fixed = s.fixed := by
  unfold swapCoefs
  split <;> simp only [fixed_ite, ite_self, fixed_modPort]

theorem fixed_geomDiscard (s : State) {x1} {x2} {x3} : (geomDiscard s x1 x2 x3).fixed = s.fixed := by
  unfold geomDiscard
  split <;> simp only [fixed_ite, ite_self, fixed_discardGeometry, fixed_portCnt]

theorem fixed_feedJob (s : State) {x1} {x2} {x3} : (feedJob s x1 x2 x3).fixed = s.fixed := by
  unfold feedJob
  repeat' (first | (simp only [fixed_mk, fixed_eta, fixed_ite, ite_self, fixed_addJob, fixed_modPiece]; done) | (with_reducible refine fixed_foldl _ _ _ _ ?_ ?_) | (intro _ _) | split | (simp only [fixed_mk, fixed_eta, fixed_ite, ite_self, fixed_addJob, fixed_modPiece]))

theorem fixed_estimateSkew (s : State) {x1} {x2} {x3} {x4} : (estimateSkew s x1 x2 x3 x4).fixed = s.fixed := by
  unfold estimateSkew
  repeat' (first | (simp only [fixed_ite, ite_self, fixed_modPiece, fixed_diagPiece, fixed_geomDiscard, fixed_feedJob]; done) | (with_reducible refine fixed_foldl _ _ _ _ ?_ ?_) | (intro _ _) | split | (simp only [fixed_ite, ite_self, fixed_modPiece, fixed_diagPiece, fixed_geomDiscard, fixed_feedJob]))

theorem fixed_feedInput (s : State) {x1} {x2} {x3} : (feedInput s x1 x2 x3).fixed = s.fixed := by
  unfold feedInput
  repeat' (first | (simp only [fixed_mk, fixed_eta, fixed_ite, ite_self, fixed_modJob]; done) | (with_reducible refine fixed_foldl _ _ _ _ ?_ ?_) | (intro _ _) | split | (simp only [fixed_mk, fixed_eta, fixed_ite, ite_self, fixed_modJob]))

theorem fixed_pressSideDone (s : State) {x1} {x2} {x3} : (pressSideDone s x1 x2 x3).fixed = s.fixed := by
  unfold pressSideDone
  repeat' (first | (simp only [fixed_ite, ite_self, fixed_modPiece, fixed_feedInput, fixed_setBuilding, fixed_buildPiece, fixed_verdictFold]; done) | (with_reducible refine fixed_foldl _ _ _ _ ?_ ?_) | (intro _ _) | split | (simp only [fixed_ite, ite_self, fixed_modPiece, fixed_feedInput, fixed_setBuilding, fixed_buildPiece, fixed_verdictFold]))

theorem fixed_pieceLoss (s : State) {x1} {x2} {x3} {x4} {x5} : (pieceLoss s x1 x2 x3 x4 x5).fixed = s.fixed := by
  unfold pieceLoss
  repeat' (first | (simp only [fixed_ite, ite_self, fixed_diagPiece, fixed_modPiece, fixed_discardPiece, fixed_portCnt]; done) | (with_reducible refine fixed_foldl _ _ _ _ ?_ ?_) | (intro _ _) | split | (simp only [fixed_ite, ite_self, fixed_diagPiece, fixed_modPiece, fixed_discardPiece, fixed_portCnt]))

theorem fixed_noteStatus (s : State) {x1} {x2} {x3} {x4} {x5} : (noteStatus s x1 x2 x3 x4 x5).fixed = s.fixed := by
  unfold noteStatus
  split <;> simp only [fixed_ite, ite_self, fixed_diagPiece, fixed_modPort]

theorem fixed_sideLine (s : State) {x1} {x2} {x3} {x4} {x5} {x6} : (sideLine s x1 x2 x3 x4 x5 x6).fixed = s.fixed := by
  unfold sideLine
  simp only [fixed_ite, ite_self, fixed_pieceLoss, fixed_noteStatus, fixed_modPort, fixed_modPiece, fixed_estimateSkew, fixed_pressSideDone, fixed_feedInput, fixed_buildPiece]

theorem fixed_lateSkew (s : State) {x1} {x2} {x3} : (lateSkew s x1 x2 x3).fixed = s.fixed := by
  unfold lateSkew
  repeat' (first | (simp only [fixed_mk, fixed_eta, fixed_ite, ite_self, fixed_pressSideDone, fixed_estimateSkew]; done) | (with_reducible refine fixed_foldl _ _ _ _ ?_ ?_) | (intro _ _) | split | (simp only [fixed_mk, fixed_eta, fixed_ite, ite_self, fixed_pressSideDone, fixed_estimateSkew]))

theorem fixed_cutSkew (s : State) {x1} {x2} {x3} : (cutSkew s x1 x2 x3).fixed = s.fixed := by
  unfold cutSkew
  repeat' (first | (simp only [fixed_mk, fixed_eta, fixed_ite, ite_self, fixed_pressSideDone, fixed_estimateSkew]; done) | (with_reducible refine fixed_foldl _ _ _ _ ?_ ?_) | (intro _ _) | split | (simp only [fixed_mk, fixed_eta, fixed_ite, ite_self, fixed_pressSideDone, fixed_estimateSkew]))

theorem fixed_strayPaper (s : State) {x1} {x2} : (strayPaper s x1 x2).fixed = s.fixed := by
  unfold strayPaper
  simp only [fixed_portCnt, fixed_modPort, fixed_logHealth]

theorem fixed_frontLine (s : State) {x1} {x2} {x3} {x4} {x5} : (frontLine s x1 x2 x3 x4 x5).fixed = s.fixed := by
  unfold frontLine
  repeat' (first | (simp only [fixed_ite, fixed_modTrack, fixed_geomDiscard, fixed_modPiece, fixed_cutSkew, fixed_strayPaper]; done) | (with_reducible refine fixed_foldl _ _ _ _ ?_ ?_) | (intro _ _) | split | (simp only [fixed_ite, fixed_modTrack, fixed_geomDiscard, fixed_modPiece, fixed_cutSkew, fixed_strayPaper]))

theorem fixed_judgeCapture (s : State)  : (judgeCapture s).fixed = s.fixed := by
  unfold judgeCapture
  repeat' (first | (simp only [fixed_mk, fixed_eta, fixed_ite, ite_self, fixed_modTrack]; done) | (with_reducible refine fixed_foldl _ _ _ _ ?_ ?_) | (intro _ _) | split | (simp only [fixed_mk, fixed_eta, fixed_ite, ite_self, fixed_modTrack]))

theorem fixed_caughtUp (s : State)  : (caughtUp s).fixed = s.fixed := by
  unfold caughtUp
  simp only [fixed_mk, fixed_eta, fixed_ite, ite_self]

theorem fixed_discardBadLine (s : State) {x1} {x2} {x3} : (discardBadLine s x1 x2 x3).fixed = s.fixed := by
  unfold discardBadLine
  simp only [fixed_discardPiece, fixed_logHealth]

theorem fixed_storeLine (s : State) {x1} {x2} : (storeLine s x1 x2).fixed = s.fixed := by
  unfold storeLine
  repeat' (first | (simp only [fixed_ite, ite_self, fixed_closeGap, fixed_swapCoefs, fixed_freeNat, fixed_modPort, fixed_frontLine, fixed_modTrack, fixed_discardBadLine, fixed_cutSkew, fixed_sideLine, fixed_lateSkew, fixed_pegArbitrate, fixed_schedule, fixed_caughtUp, fixed_judgeCapture]; done) | (with_reducible refine fixed_foldl _ _ _ _ ?_ ?_) | (intro _ _) | split | (simp only [fixed_ite, ite_self, fixed_closeGap, fixed_swapCoefs, fixed_freeNat, fixed_modPort, fixed_frontLine, fixed_modTrack, fixed_discardBadLine, fixed_cutSkew, fixed_sideLine, fixed_lateSkew, fixed_pegArbitrate, fixed_schedule, fixed_caughtUp, fixed_judgeCapture]))

theorem fixed_judgeWindow (s : State) {x1} : (judgeWindow s x1).fixed = s.fixed := by
  unfold judgeWindow
  simp only [fixed_ite, ite_self, fixed_modTrack]

theorem fixed_clearAgain (s : State) {x1} : (clearAgain s x1).fixed = s.fixed := by
  unfold clearAgain
  split <;> simp only [fixed_ite, ite_self, fixed_modTrack]

theorem fixed_openGap (s : State) {x1} {x2} {x3} : (openGap s x1 x2 x3).fixed = s.fixed := by
  unfold openGap
  repeat' (first | (simp only [fixed_mk, fixed_eta, fixed_ite, ite_self, fixed_modPort, fixed_closeGap]; done) | (with_reducible refine fixed_foldl _ _ _ _ ?_ ?_) | (intro _ _) | split | (simp only [fixed_mk, fixed_eta, fixed_ite, ite_self, fixed_modPort, fixed_closeGap]))

theorem fixed_endGap (s : State) {x1} : (endGap s x1).fixed = s.fixed := by
  unfold endGap
  repeat' (first | (simp only [fixed_mk, fixed_eta, fixed_ite, ite_self, fixed_modPort, fixed_closeGap]; done) | (with_reducible refine fixed_foldl _ _ _ _ ?_ ?_) | (intro _ _) | split | (simp only [fixed_mk, fixed_eta, fixed_ite, ite_self, fixed_modPort, fixed_closeGap]))

theorem fixed_numberPiece (s : State) {x1} : (numberPiece s x1).fixed = s.fixed := by
  unfold numberPiece
  repeat' (first | (simp only [fixed_mk, fixed_eta, fixed_ite, ite_self, fixed_geomDiscard, fixed_modTrack, fixed_endGap, fixed_portCnt, fixed_diagDead]; done) | (with_reducible refine fixed_foldl _ _ _ _ ?_ ?_) | (intro _ _) | split | (simp only [fixed_mk, fixed_eta, fixed_ite, ite_self, fixed_geomDiscard, fixed_modTrack, fixed_endGap, fixed_portCnt, fixed_diagDead]))

theorem fixed_takeEdge (s : State) {x1} : (takeEdge s x1).fixed = s.fixed := by
  unfold takeEdge
  simp only [fixed_ite, ite_self, fixed_portCnt, fixed_numberPiece]

theorem fixed_resumeAt (s : State) {x1} {x2} {x3} : (resumeAt s x1 x2 x3).fixed = s.fixed := by
  unfold resumeAt
  repeat' (first | (simp only [fixed_modTrack, fixed_modPort]; done) | (with_reducible refine fixed_foldl _ _ _ _ ?_ ?_) | (intro _ _) | split | (simp only [fixed_modTrack, fixed_modPort]))

theorem fixed_reserveTiles (s : State) {p} {n} {t} (h : reserveTiles s p n = some t) : t.fixed = s.fixed := by
  unfold reserveTiles at h
  simp only [Option.map_eq_some_iff] at h
  obtain ⟨ts, _, rfl⟩ := h
  rw [fixed_modPort]
  refine fixed_foldl _ _ _ _ rfl fun s a => ?_
  rw [fixed_modTile]
  split
  · rw [fixed_modJob]
  · rfl

theorem fixed_releaseTiles (s : State) {x1} : (releaseTiles s x1).fixed = s.fixed := by
  unfold releaseTiles
  repeat' (first | (simp only [fixed_modTile, fixed_modPort]; done) | (with_reducible refine fixed_foldl _ _ _ _ ?_ ?_) | (intro _ _) | split | (simp only [fixed_modTile, fixed_modPort]))

theorem fixed_invalidate (s : State)  : (invalidate s).fixed = s.fixed := by
  unfold invalidate
  simp only [fixed_mk, fixed_eta]

theorem fixed_settleDrains (s : State)  : (settleDrains s).fixed = s.fixed := by
  unfold settleDrains
  repeat' (first | (simp only [fixed_mk, fixed_eta, fixed_ite, ite_self, fixed_invalidate, fixed_modRegion]; done) | (with_reducible refine fixed_foldl _ _ _ _ ?_ ?_) | (intro _ _) | split | (simp only [fixed_mk, fixed_eta, fixed_ite, ite_self, fixed_invalidate, fixed_modRegion]))

theorem fixed_moveReservation (s : State) {p} {t} (h : moveReservation s p = some t) : t.fixed = s.fixed := by
  rw [fixed_reserveTiles _ h, fixed_releaseTiles]

theorem fixed_assignEngines (s : State)  : (assignEngines s).fixed = s.fixed := by
  unfold assignEngines
  repeat' (first | (simp only [fixed_mk, fixed_eta, fixed_ite, ite_self, fixed_modPort]; done) | (with_reducible refine fixed_foldl _ _ _ _ ?_ ?_) | (intro _ _) | split | (simp only [fixed_mk, fixed_eta, fixed_ite, ite_self, fixed_modPort]))

theorem fixed_freeEngine (s : State) {x1} : (freeEngine s x1).fixed = s.fixed := by
  unfold freeEngine
  simp only [fixed_mk, fixed_eta, fixed_modPort]

theorem fixed_scanLimit (s : State) {x1} {x2} {x3} {x4} {x5} : (scanLimit s x1 x2 x3 x4 x5).fixed = s.fixed := by
  unfold scanLimit
  simp only [fixed_complete]

theorem fixed_armPort (s : State) {x1} {x2} {x3} : (armPort s x1 x2 x3).fixed = s.fixed := by
  unfold armPort
  simp only [fixed_ite, ite_self, fixed_modPort, fixed_lampsOn]

theorem fixed_armTrack (s : State) {x1} {x2} {x3} : (armTrack s x1 x2 x3).fixed = s.fixed := by
  unfold armTrack
  simp only [fixed_modTrack]

theorem fixed_finishArms (s : State)  : (finishArms s).fixed = s.fixed := by
  unfold finishArms
  repeat' (first | (simp only [fixed_mk, fixed_eta, fixed_ite, ite_self, fixed_complete, fixed_modTrack]; done) | (with_reducible refine fixed_foldl _ _ _ _ ?_ ?_) | (intro _ _) | split | (simp only [fixed_mk, fixed_eta, fixed_ite, ite_self, fixed_complete, fixed_modTrack]))

theorem fixed_reserveAll (s : State) {cs} {t} (h : reserveAll s cs = some t) : t.fixed = s.fixed := by
  induction cs generalizing s with
  | nil => cases h; rfl
  | cons c cs ih =>
    obtain ⟨p, c⟩ := c
    simp only [reserveAll, Option.bind_eq_some_iff] at h
    obtain ⟨u, hu, ht⟩ := h
    rw [ih _ ht, fixed_reserveTiles _ hu]

theorem fixed_armNow (s : State) {r} {h} {o} {t} {f} {cs} {plan} : (armNow s r h o t f cs plan).fixed = s.fixed := by
  unfold armNow
  split
  · rw [fixed_scanLimit]
  · rename_i u hu
    dsimp only
    rw [fixed_finishArms, fixed_sendSync, fixed_modTrack]
    refine fixed_foldl _ _ _ _ ?_ fun s a => ?_
    · rw [fixed_assignEngines, fixed_armTrack]
      exact fixed_foldl _ _ _ _ (fixed_reserveAll s hu) fun s a => fixed_armPort s
    · split
      · rfl
      · rw [fixed_deadRecovery]

theorem fixed_runScanArm (s : State) {x1} {x2} {x3} : (runScanArm s x1 x2 x3).fixed = s.fixed := by
  unfold runScanArm
  repeat' (first | (simp only [fixed_ite, ite_self, fixed_complete, fixed_scanLimit, fixed_armNow]; done) | (with_reducible refine fixed_foldl _ _ _ _ ?_ ?_) | (intro _ _) | split | (simp only [fixed_ite, ite_self, fixed_complete, fixed_scanLimit, fixed_armNow]))

theorem fixed_startCal (s : State) {x1} {x2} {x3} : (startCal s x1 x2 x3).fixed = s.fixed := by
  unfold startCal
  simp only [fixed_modPort, fixed_lampsOff]

theorem fixed_startCals (s : State)  : (startCals s).fixed = s.fixed := by
  unfold startCals
  repeat' (first | (simp only [fixed_mk, fixed_eta, fixed_ite, ite_self, fixed_startCal, fixed_modPort]; done) | (with_reducible refine fixed_foldl _ _ _ _ ?_ ?_) | (intro _ _) | split | (simp only [fixed_mk, fixed_eta, fixed_ite, ite_self, fixed_startCal, fixed_modPort]))

theorem fixed_runCalRun (s : State) {x1} {x2} {x3} : (runCalRun s x1 x2 x3).fixed = s.fixed := by
  unfold runCalRun
  simp only [fixed_ite, ite_self, fixed_complete, fixed_startCals, fixed_modPort]

theorem fixed_disarmPorts (s : State) {x1} : (disarmPorts s x1).fixed = s.fixed := by
  unfold disarmPorts
  repeat' (first | (simp only [fixed_lampsOff, fixed_freeEngine, fixed_releaseTiles, fixed_modPort, fixed_modTrack]; done) | (with_reducible refine fixed_foldl _ _ _ _ ?_ ?_) | (intro _ _) | split | (simp only [fixed_lampsOff, fixed_freeEngine, fixed_releaseTiles, fixed_modPort, fixed_modTrack]))

theorem fixed_disarmTrack (s : State) {x1} {x2} : (disarmTrack s x1 x2).fixed = s.fixed := by
  unfold disarmTrack
  repeat' (first | (simp only [fixed_disarmPorts, fixed_complete, fixed_modTrack, fixed_schedule, fixed_startCals, fixed_settleDrains, fixed_assignEngines]; done) | (with_reducible refine fixed_foldl _ _ _ _ ?_ ?_) | (intro _ _) | split | (simp only [fixed_disarmPorts, fixed_complete, fixed_modTrack, fixed_schedule, fixed_startCals, fixed_settleDrains, fixed_assignEngines]))

theorem fixed_forceDisarm (s : State) {x1} : (forceDisarm s x1).fixed = s.fixed := by
  unfold forceDisarm
  simp only [fixed_ite, ite_self, fixed_disarmTrack]

theorem fixed_runScanDisarm (s : State) {x1} {x2} {x3} : (runScanDisarm s x1 x2 x3).fixed = s.fixed := by
  unfold runScanDisarm
  simp only [fixed_ite, ite_self, fixed_complete, fixed_modTrack]

theorem fixed_accSet (s : State) {x1} {x2} : (accSet s x1 x2).fixed = s.fixed := by
  unfold accSet
  simp only [fixed_mk, fixed_eta]

theorem fixed_modTailor (s : State) {x1} {x2} : (modTailor s x1 x2).fixed = s.fixed := by
  unfold modTailor
  simp only [fixed_mk, fixed_eta]

theorem fixed_modSample (s : State) {x1} {x2} {x3} : (modSample s x1 x2 x3).fixed = s.fixed := by
  unfold modSample
  simp only [fixed_modTailor]

theorem fixed_touchCache (s : State) {x1} {x2} : (touchCache s x1 x2).fixed = s.fixed := by
  unfold touchCache
  simp only [fixed_mk, fixed_eta]

theorem fixed_storeCache (s : State) {fn} {key} {n} : (storeCache s fn key n).fixed = s.fixed := by
  unfold storeCache
  rw [fixed_mk, fixed_eta]

theorem fixed_takeCached (s : State) {x1} : (takeCached s x1).fixed = s.fixed := by
  unfold takeCached
  repeat' (first | (simp only [fixed_mk, fixed_eta, fixed_ite, ite_self, fixed_modJob, fixed_modSample, fixed_touchCache]; done) | (with_reducible refine fixed_foldl _ _ _ _ ?_ ?_) | (intro _ _) | split | (simp only [fixed_mk, fixed_eta, fixed_ite, ite_self, fixed_modJob, fixed_modSample, fixed_touchCache]))

theorem fixed_grantStaging (s : State)  : (grantStaging s).fixed = s.fixed := by
  unfold grantStaging
  repeat' (first | (simp only [fixed_mk, fixed_eta, fixed_ite, ite_self, fixed_takeCached, fixed_modJob]; done) | (with_reducible refine fixed_foldl _ _ _ _ ?_ ?_) | (intro _ _) | split | (simp only [fixed_mk, fixed_eta, fixed_ite, ite_self, fixed_takeCached, fixed_modJob]))

theorem fixed_setEngine (s : State) {x1} {x2} : (setEngine s x1 x2).fixed = s.fixed := by
  unfold setEngine
  simp only [fixed_mk, fixed_eta]

theorem fixed_decodeRead (s : State) {x1} {x2} : (decodeRead s x1 x2).fixed = s.fixed := by
  unfold decodeRead
  repeat' (first | (simp only [fixed_mk, fixed_eta, fixed_ite, ite_self, fixed_hostRead]; done) | (with_reducible refine fixed_foldl _ _ _ _ ?_ ?_) | (intro _ _) | split | (simp only [fixed_mk, fixed_eta, fixed_ite, ite_self, fixed_hostRead]))

theorem fixed_giveEngines (s : State)  : (giveEngines s).fixed = s.fixed := by
  unfold giveEngines
  repeat' (first | (simp only [fixed_mk, fixed_eta, fixed_ite, ite_self, fixed_setEngine, fixed_decodeRead]; done) | (with_reducible refine fixed_foldl _ _ _ _ ?_ ?_) | (intro _ _) | split | (simp only [fixed_mk, fixed_eta, fixed_ite, ite_self, fixed_setEngine, fixed_decodeRead]))

theorem fixed_serveImages (s : State)  : (serveImages s).fixed = s.fixed := by
  unfold serveImages
  simp only [fixed_schedule, fixed_giveEngines, fixed_grantStaging]

theorem fixed_postImage (s : State) {x1} : (postImage s x1).fixed = s.fixed := by
  unfold postImage
  split <;> simp only [fixed_ite, ite_self, fixed_chipCnt, fixed_modJob, fixed_reportPost]

theorem fixed_imageStagesDone (s : State) {x1} : (imageStagesDone s x1).fixed = s.fixed := by
  unfold imageStagesDone
  repeat' (first | (simp only [fixed_ite, ite_self, fixed_modJob, fixed_releaseJob, fixed_serveImages, fixed_postImage]; done) | (with_reducible refine fixed_foldl _ _ _ _ ?_ ?_) | (intro _ _) | split | (simp only [fixed_ite, ite_self, fixed_modJob, fixed_releaseJob, fixed_serveImages, fixed_postImage]))

theorem fixed_imageDecoded (s : State) {x1} {x2} {x3} {x4} : (imageDecoded s x1 x2 x3 x4).fixed = s.fixed := by
  unfold imageDecoded
  simp only [fixed_ite, ite_self, fixed_failJob, fixed_modJob]

theorem fixed_endTailor (s : State) {x1} {x2} {x3} : (endTailor s x1 x2 x3).fixed = s.fixed := by
  unfold endTailor
  simp only [fixed_mk, fixed_eta, fixed_reportJob, fixed_serveImages, fixed_finishJob]

theorem fixed_tailorEmpty (s : State) {x1} : (tailorEmpty s x1).fixed = s.fixed := by
  unfold tailorEmpty
  split <;> simp only [fixed_ite, ite_self, fixed_endTailor]

theorem fixed_removeSample (s : State) {x1} {x2} : (removeSample s x1 x2).fixed = s.fixed := by
  unfold removeSample
  simp only [fixed_tailorEmpty, fixed_modSample]

theorem fixed_sampleDecoded (s : State) {x1} {x2} {x3} : (sampleDecoded s x1 x2 x3).fixed = s.fixed := by
  unfold sampleDecoded
  repeat' (first | (simp only [fixed_mk, fixed_eta, fixed_ite, ite_self, fixed_removeSample, fixed_storeCache, fixed_modTailor, fixed_modJob]; done) | (with_reducible refine fixed_foldl _ _ _ _ ?_ ?_) | (intro _ _) | split | (simp only [fixed_mk, fixed_eta, fixed_ite, ite_self, fixed_removeSample, fixed_storeCache, fixed_modTailor, fixed_modJob]))

theorem fixed_countCodec (s : State) {x1} {x2} : (countCodec s x1 x2).fixed = s.fixed := by
  unfold countCodec
  simp only [fixed_chipCnt]

theorem fixed_sideEncoded (s : State) {x1} {x2} {x3} : (sideEncoded s x1 x2 x3).fixed = s.fixed := by
  unfold sideEncoded
  split <;> simp only [fixed_countCodec, fixed_buildPiece, fixed_modPiece]

theorem fixed_hostEncoded (s : State) {x1} {x2} {x3} {x4} : (hostEncoded s x1 x2 x3 x4).fixed = s.fixed := by
  unfold hostEncoded
  repeat' (first | (simp only [fixed_ite, ite_self, fixed_countCodec, fixed_modJob, fixed_postImage]; done) | (with_reducible refine fixed_foldl _ _ _ _ ?_ ?_) | (intro _ _) | split | (simp only [fixed_ite, ite_self, fixed_countCodec, fixed_modJob, fixed_postImage]))

theorem fixed_relowerAll (s : State)  : (relowerAll s).fixed = s.fixed := by
  unfold relowerAll
  simp only [fixed_mk, fixed_eta]

theorem fixed_readScratch (s : State) {x1} {x2} : (readScratch s x1 x2).fixed = s.fixed := by
  unfold readScratch
  repeat' (first | (simp only [fixed_logWords, fixed_readWord]; done) | (with_reducible refine fixed_foldl _ _ _ _ ?_ ?_) | (intro _ _) | split | (simp only [fixed_logWords, fixed_readWord]))

theorem fixed_moveOffTile (s : State) {t} : (moveOffTile s t).fixed = s.fixed := by
  unfold moveOffTile
  split
  · rfl
  · split
    · rename_i h
      exact fixed_moveReservation s h
    · rw [fixed_forceDisarm]

theorem fixed_substitute (s : State) {x1} : (substitute s x1).fixed = s.fixed := by
  unfold substitute
  repeat' (first | (simp only [fixed_mk, fixed_eta, fixed_ite, fixed_modTile, fixed_logHealth, fixed_modJob, fixed_relowerAll, fixed_moveOffTile, fixed_readScratch, fixed_modRegion, fixed_failJob]; done) | (with_reducible refine fixed_foldl _ _ _ _ ?_ ?_) | (intro _ _) | split | (simp only [fixed_mk, fixed_eta, fixed_ite, fixed_modTile, fixed_logHealth, fixed_modJob, fixed_relowerAll, fixed_moveOffTile, fixed_readScratch, fixed_modRegion, fixed_failJob]))

theorem fixed_failTile (s : State) {x1} : (failTile s x1).fixed = s.fixed := by
  unfold failTile
  simp only [fixed_ite, ite_self, fixed_modTile, fixed_substitute]

theorem fixed_substituteDue (s : State) {x1} : (substituteDue s x1).fixed = s.fixed := by
  unfold substituteDue
  repeat' (first | (simp only [fixed_mk, fixed_eta, fixed_ite, ite_self, fixed_substitute]; done) | (with_reducible refine fixed_foldl _ _ _ _ ?_ ?_) | (intro _ _) | split | (simp only [fixed_mk, fixed_eta, fixed_ite, ite_self, fixed_substitute]))

theorem fixed_strike (s : State) {x1} : (strike s x1).fixed = s.fixed := by
  unfold strike
  simp only [fixed_ite, ite_self, fixed_countN, fixed_modTile, fixed_failTile]

theorem fixed_reloadTile (s : State) {x1} : (reloadTile s x1).fixed = s.fixed := by
  unfold reloadTile
  repeat' (first | (simp only [fixed_mk, fixed_eta, fixed_ite, ite_self, fixed_writeModel, fixed_writePrograms, fixed_writeTables]; done) | (with_reducible refine fixed_foldl _ _ _ _ ?_ ?_) | (intro _ _) | split | (simp only [fixed_mk, fixed_eta, fixed_ite, ite_self, fixed_writeModel, fixed_writePrograms, fixed_writeTables]))

theorem fixed_healthTake (s : State) {x1} : (healthTake s x1).fixed = s.fixed := by
  unfold healthTake
  simp only [fixed_ite, ite_self, fixed_sendHealth]

theorem fixed_evictSide (s : State) {g} {p} : (evictSide s g p).fixed = s.fixed := by
  unfold evictSide
  split
  · rfl
  · have h0 : ((unpressed s p).foldl (fun s n => discardPiece s (s.lp p).cfg.track n .regionLost) s).fixed = s.fixed :=
      fixed_foldl _ _ _ _ rfl fun _ _ => fixed_discardPiece _
    have h1 : ∀ t, ((unpressed s p).foldl (fun s n => discardPiece s t n .regionLost) s).fixed = s.fixed :=
      fun t => fixed_foldl _ _ _ _ rfl fun _ _ => fixed_discardPiece _
    dsimp only
    split
    · rename_i h
      rw [fixed_moveReservation _ h, h1]
    · split
      · rw [fixed_healthTake, h1]
      · rw [fixed_forceDisarm, h1]

theorem fixed_endInRegion (s : State) {x0} {x2} : (endInRegion x0 s x2).fixed = s.fixed := by
  unfold endInRegion
  repeat' (first | (simp only [fixed_ite, fixed_modJob, fixed_lastRites, fixed_failJob]; done) | (with_reducible refine fixed_foldl _ _ _ _ ?_ ?_) | (intro _ _) | split | (simp only [fixed_ite, fixed_modJob, fixed_lastRites, fixed_failJob]))

theorem fixed_regionError (s : State) {x1} {x2} : (regionError s x1 x2).fixed = s.fixed := by
  unfold regionError
  repeat' (first | (simp only [fixed_mk, fixed_eta, fixed_ite, ite_self, fixed_endInRegion, fixed_modRegion, fixed_evictSide, fixed_invalidate, fixed_relowerAll, fixed_raiseEvent, fixed_serveImages, fixed_logHealth]; done) | (with_reducible refine fixed_foldl _ _ _ _ ?_ ?_) | (intro _ _) | split | (simp only [fixed_mk, fixed_eta, fixed_ite, ite_self, fixed_endInRegion, fixed_modRegion, fixed_evictSide, fixed_invalidate, fixed_relowerAll, fixed_raiseEvent, fixed_serveImages, fixed_logHealth]))

theorem fixed_drainRegions (s : State) {x1} : (drainRegions s x1).fixed = s.fixed := by
  unfold drainRegions
  repeat' (first | (simp only [fixed_ite, fixed_modRegion, fixed_settleDrains, fixed_relowerAll]; done) | (with_reducible refine fixed_foldl _ _ _ _ ?_ ?_) | (intro _ _) | split | (simp only [fixed_ite, fixed_modRegion, fixed_settleDrains, fixed_relowerAll]))

theorem fixed_serveRegions (s : State) {x1} : (serveRegions s x1).fixed = s.fixed := by
  unfold serveRegions
  repeat' (first | (simp only [fixed_ite, fixed_serveImages, fixed_logHealth, fixed_modRegion, fixed_writePrograms]; done) | (with_reducible refine fixed_foldl _ _ _ _ ?_ ?_) | (intro _ _) | split | (simp only [fixed_ite, fixed_serveImages, fixed_logHealth, fixed_modRegion, fixed_writePrograms]))

theorem fixed_deviceError (s : State) {x1} : (deviceError s x1).fixed = s.fixed := by
  unfold deviceError
  repeat' (first | (simp only [fixed_mk, fixed_eta, fixed_ite, ite_self, fixed_healthTake, fixed_abandonFolds, fixed_modTrack, fixed_logHealth, fixed_raiseEvent]; done) | (with_reducible refine fixed_foldl _ _ _ _ ?_ ?_) | (intro _ _) | split | (simp only [fixed_mk, fixed_eta, fixed_ite, ite_self, fixed_healthTake, fixed_abandonFolds, fixed_modTrack, fixed_logHealth, fixed_raiseEvent]))

theorem fixed_dropModelAt (s : State) {x1} : (dropModelAt s x1).fixed = s.fixed := by
  unfold dropModelAt
  repeat' (first | (simp only [fixed_mk, fixed_eta, fixed_ite, ite_self]; done) | (with_reducible refine fixed_foldl _ _ _ _ ?_ ?_) | (intro _ _) | split | (simp only [fixed_mk, fixed_eta, fixed_ite, ite_self]))

theorem fixed_marchFail (s : State) {x1} {x2} {x3} : (marchFail s x1 x2 x3).fixed = s.fixed := by
  unfold marchFail
  simp only [fixed_mk, fixed_eta, fixed_ite, ite_self, fixed_darnRow, fixed_failTile]

theorem fixed_zeroBank (s : State) {x1} {x2} {x3} : (zeroBank s x1 x2 x3).fixed = s.fixed := by
  unfold zeroBank
  simp only [fixed_mk, fixed_eta]

theorem fixed_lintFault (s : State) {x1} {x2} : (lintFault s x1 x2).fixed = s.fixed := by
  unfold lintFault
  split <;> simp only [fixed_ite, ite_self, fixed_logHealth, fixed_strike, fixed_marchFail]

theorem fixed_runTestRun (s : State) {x1} {x2} {x3} : (runTestRun s x1 x2 x3).fixed = s.fixed := by
  unfold runTestRun
  repeat' (first | (simp only [fixed_ite, ite_self, fixed_complete, fixed_schedule, fixed_addJob, fixed_hostWrite, fixed_darnRow, fixed_setMark]; done) | (with_reducible refine fixed_foldl _ _ _ _ ?_ ?_) | (intro _ _) | split | (simp only [fixed_ite, ite_self, fixed_complete, fixed_schedule, fixed_addJob, fixed_hostWrite, fixed_darnRow, fixed_setMark]))

theorem fixed_testRows (s : State) {x1} : (testRows s x1).fixed = s.fixed := by
  unfold testRows
  repeat' (first | (simp only [fixed_mk, fixed_eta, fixed_ite, ite_self, fixed_zeroRows, fixed_modTile]; done) | (with_reducible refine fixed_foldl _ _ _ _ ?_ ?_) | (intro _ _) | split | (simp only [fixed_mk, fixed_eta, fixed_ite, ite_self, fixed_zeroRows, fixed_modTile]))

theorem fixed_finishTest (s : State) {x1} {x2} {x3} : (finishTest s x1 x2 x3).fixed = s.fixed := by
  unfold finishTest
  repeat' (first | (simp only [fixed_mk, fixed_eta, fixed_ite, ite_self, fixed_testRows, fixed_finishJob, fixed_reportJob, fixed_modRegion, fixed_lintFault]; done) | (with_reducible refine fixed_foldl _ _ _ _ ?_ ?_) | (intro _ _) | split | (simp only [fixed_mk, fixed_eta, fixed_ite, ite_self, fixed_testRows, fixed_finishJob, fixed_reportJob, fixed_modRegion, fixed_lintFault]))

theorem fixed_measure (s : State) {x1} {x2} {x3} {x4} : (measure s x1 x2 x3 x4).fixed = s.fixed := by
  unfold measure
  simp only [fixed_mk, fixed_eta]

theorem fixed_recordLow (s : State) {x1} {x2} : (recordLow s x1 x2).fixed = s.fixed := by
  unfold recordLow
  simp only [fixed_mk, fixed_eta, fixed_ite, ite_self]

theorem fixed_writeReport (s : State) {x1} : (writeReport s x1).fixed = s.fixed := by
  unfold writeReport
  split <;> simp only [fixed_hostWrite]

theorem fixed_loadModel (s : State) {x1} {x2} {x3} : (loadModel s x1 x2 x3).fixed = s.fixed := by
  unfold loadModel
  simp only [fixed_placeModel, fixed_chipCnt, fixed_modAcct]

theorem fixed_findWays (s : State) {p} {w t} (h : findWays s p = some (w, t)) : t.fixed = s.fixed := by
  simp only [findWays, Option.map_eq_some_iff, Prod.mk.injEq] at h
  obtain ⟨r, hr, _, rfl⟩ := h
  rw [fixed_chipCnt, fixed_takeWays s hr]

theorem fixed_loadIfWays (s : State) {p} : (loadIfWays s p).fixed = s.fixed := by
  unfold loadIfWays
  split
  · rfl
  · split
    · rename_i h
      rw [fixed_loadModel, fixed_findWays s h]
    · rfl

theorem fixed_writeRows (s : State) {x1} : (writeRows s x1).fixed = s.fixed := by
  unfold writeRows
  simp only [fixed_writeTables, fixed_writePrograms]

theorem fixed_takePages (s : State) {x1} : (takePages s x1).fixed = s.fixed := by
  unfold takePages
  simp only [fixed_mk, fixed_eta]

theorem fixed_endLoad (s : State) {x1} {x2} {x3} : (endLoad s x1 x2 x3).fixed = s.fixed := by
  unfold endLoad
  repeat' (first | (simp only [fixed_measure, fixed_modPlan, fixed_complete, fixed_writeReport]; done) | (with_reducible refine fixed_foldl _ _ _ _ ?_ ?_) | (intro _ _) | split | (simp only [fixed_measure, fixed_modPlan, fixed_complete, fixed_writeReport]))

theorem fixed_placeLoad (s : State) {p} {q} : (placeLoad s p q).fixed = s.fixed := by
  have h0 : ((p :: q.toList).foldl writeRows (takePages { s with plans := { s.plans with loaded := s.plans.loaded ++ (p :: q.toList), nextHandle := s.plans.nextHandle + (p :: q.toList).length } }
      (sumNat ((p :: q.toList).map (·.batchPages))))).fixed = s.fixed := by
    refine fixed_foldl _ _ _ _ ?_ fun _ _ => fixed_writeRows _
    rw [fixed_takePages, fixed_mk, fixed_eta]
  unfold placeLoad
  dsimp only
  rw [fixed_loadIfWays]
  split
  · exact h0
  · split
    · exact h0
    · split
      · rename_i hw
        rw [fixed_loadModel, fixed_findWays _ hw]
        exact h0
      · rw [fixed_mk, fixed_eta, fixed_requestLoad]
        exact h0

theorem fixed_loadPlan (s : State) {fn} {o} {b} {low} {lowC} {p t} (h : loadPlan s fn o b low lowC = .ok (p, t)) : t.fixed = s.fixed := by
  unfold loadPlan at h
  split at h
  · cases h
  · split at h
    · cases h
    · split at h
      · cases h
      · dsimp only at h
        split at h
        · cases h; rw [fixed_placeLoad]
        · split at h
          · cases h
          · cases h; rw [fixed_placeLoad]

theorem fixed_startLoad (s : State)  : (startLoad s).fixed = s.fixed := by
  unfold startLoad
  split <;> simp only [fixed_mk, fixed_eta, fixed_hostRead]

theorem fixed_runPlanLoad (s : State) {x1} {x2} {x3} : (runPlanLoad s x1 x2 x3).fixed = s.fixed := by
  unfold runPlanLoad
  simp only [fixed_mk, fixed_eta, fixed_ite, ite_self, fixed_complete, fixed_startLoad]

theorem fixed_loadLows (s : State) {o} {b} {low} {lowC} : (loadLows s o b low lowC).1.fixed = s.fixed := by
  unfold loadLows
  split
  · rfl
  · dsimp only
    split
    · rw [fixed_recordLow]
    · rw [fixed_recordLow, fixed_recordLow]

theorem fixed_nextInQueue (s : State)  : (nextInQueue s).fixed = s.fixed := by
  unfold nextInQueue
  simp only [fixed_mk, fixed_eta, fixed_startLoad]

theorem fixed_remodel (s : State) {p} {p'} : (remodel s p p').fixed = s.fixed := by
  have h1 : ∀ (c : Bool) (u : State) (m : List ModelSt), (if c = true then u else { u with sched := { u.sched with models := m } }).fixed = u.fixed := by
    intro c u m
    split <;> rfl
  unfold remodel
  split
  · rw [fixed_modPlan]
  · dsimp only
    split
    · rw [fixed_loadModel, h1, fixed_modPlan]
    · split
      · rename_i h
        rw [fixed_loadModel, fixed_findWays _ h, h1, fixed_modPlan]
      · rw [fixed_requestLoad, h1, fixed_modPlan]

theorem fixed_applyRelower (s : State) {x1} {x2} {x3} : (applyRelower s x1 x2 x3).fixed = s.fixed := by
  unfold applyRelower
  repeat' (first | (simp only [fixed_remodel, fixed_writeRows, fixed_logHealth, fixed_writeReport, fixed_dropOldModels]; done) | (with_reducible refine fixed_foldl _ _ _ _ ?_ ?_) | (intro _ _) | split | (simp only [fixed_remodel, fixed_writeRows, fixed_logHealth, fixed_writeReport, fixed_dropOldModels]))

theorem fixed_staleRelower (s : State) {x1} : (staleRelower s x1).fixed = s.fixed := by
  unfold staleRelower
  split <;> simp only [fixed_ite, ite_self, fixed_modPlan, fixed_invalidate]

theorem fixed_relowerLows (s : State) {p} {low} {lowC} : (relowerLows s p low lowC).1.fixed = s.fixed := by
  unfold relowerLows
  dsimp only
  split
  · rw [fixed_recordLow]
  · rw [fixed_recordLow, fixed_recordLow]

theorem fixed_scrubModels (s : State) {x1} : (scrubModels s x1).fixed = s.fixed := by
  unfold scrubModels
  repeat' (first | (simp only [fixed_mk, fixed_eta, fixed_ite, ite_self, fixed_zeroRows]; done) | (with_reducible refine fixed_foldl _ _ _ _ ?_ ?_) | (intro _ _) | split | (simp only [fixed_mk, fixed_eta, fixed_ite, ite_self, fixed_zeroRows]))

theorem fixed_closeBatch (s : State) {x1} : (closeBatch s x1).fixed = s.fixed := by
  unfold closeBatch
  repeat' (first | (simp only [fixed_mk, fixed_eta, fixed_failSeqStep, fixed_dropRef, fixed_endWalk]; done) | (with_reducible refine fixed_foldl _ _ _ _ ?_ ?_) | (intro _ _) | split | (simp only [fixed_mk, fixed_eta, fixed_failSeqStep, fixed_dropRef, fixed_endWalk]))

theorem fixed_dropPlan (s : State) {x1} : (dropPlan s x1).fixed = s.fixed := by
  unfold dropPlan
  simp only [fixed_mk, fixed_eta, fixed_dropModel, fixed_closeBatch, fixed_scrubModels]

theorem fixed_unloadPlan (s : State) {x1} {x2} {x3} : (unloadPlan s x1 x2 x3).fixed = s.fixed := by
  unfold unloadPlan
  repeat' (first | (simp only [fixed_dropPlan, fixed_measure, fixed_complete]; done) | (with_reducible refine fixed_foldl _ _ _ _ ?_ ?_) | (intro _ _) | split | (simp only [fixed_dropPlan, fixed_measure, fixed_complete]))

theorem fixed_runPlanUnload (s : State) {x1} {x2} {x3} : (runPlanUnload s x1 x2 x3).fixed = s.fixed := by
  unfold runPlanUnload
  repeat' (first | (simp only [fixed_mk, fixed_eta, fixed_ite, ite_self, fixed_complete, fixed_modPlan]; done) | (with_reducible refine fixed_foldl _ _ _ _ ?_ ?_) | (intro _ _) | split | (simp only [fixed_mk, fixed_eta, fixed_ite, ite_self, fixed_complete, fixed_modPlan]))

theorem fixed_setPin (s : State) {x1} {x2} : (setPin s x1 x2).fixed = s.fixed := by
  unfold setPin
  simp only [fixed_mk, fixed_eta]

theorem fixed_runWardrobePin (s : State) {x1} {x2} {x3} : (runWardrobePin s x1 x2 x3).fixed = s.fixed := by
  unfold runWardrobePin
  split <;> simp only [fixed_ite, ite_self, fixed_complete, fixed_setPin, fixed_requestLoad]

theorem fixed_donePins (s : State) {x1} {x2} : (donePins s x1 x2).fixed = s.fixed := by
  unfold donePins
  repeat' (first | (simp only [fixed_mk, fixed_eta, fixed_ite, ite_self, fixed_complete, fixed_setPin]; done) | (with_reducible refine fixed_foldl _ _ _ _ ?_ ?_) | (intro _ _) | split | (simp only [fixed_mk, fixed_eta, fixed_ite, ite_self, fixed_complete, fixed_setPin]))

theorem fixed_loadWaitDone (s : State)  : (loadWaitDone s).fixed = s.fixed := by
  unfold loadWaitDone
  repeat' (first | (simp only [fixed_mk, fixed_eta, fixed_ite, ite_self, fixed_nextInQueue, fixed_endLoad]; done) | (with_reducible refine fixed_foldl _ _ _ _ ?_ ?_) | (intro _ _) | split | (simp only [fixed_mk, fixed_eta, fixed_ite, ite_self, fixed_nextInQueue, fixed_endLoad]))

theorem fixed_loadWaitFails (s : State) {x1} : (loadWaitFails s x1).fixed = s.fixed := by
  unfold loadWaitFails
  repeat' (first | (simp only [fixed_mk, fixed_eta, fixed_ite, fixed_dropPlan, fixed_nextInQueue, fixed_complete]; done) | (with_reducible refine fixed_foldl _ _ _ _ ?_ ?_) | (intro _ _) | split | (simp only [fixed_mk, fixed_eta, fixed_ite, fixed_dropPlan, fixed_nextInQueue, fixed_complete]))

theorem fixed_loadFailed (s : State) {x1} : (loadFailed s x1).fixed = s.fixed := by
  unfold loadFailed
  repeat' (first | (simp only [fixed_logHealth, fixed_modPlan, fixed_loadWaitFails, fixed_donePins, fixed_failJob]; done) | (with_reducible refine fixed_foldl _ _ _ _ ?_ ?_) | (intro _ _) | split | (simp only [fixed_logHealth, fixed_modPlan, fixed_loadWaitFails, fixed_donePins, fixed_failJob]))

theorem fixed_landOne (s : State) {x0} {x1} : (landOne x0 x1 s).fixed = s.fixed := by
  unfold landOne
  split <;> simp only [fixed_landTransfer]

theorem fixed_dropSaved (s : State)  : (dropSaved s).fixed = s.fixed := by
  unfold dropSaved
  repeat' (first | (simp only [fixed_mk, fixed_eta, fixed_ite, ite_self, fixed_failJob, fixed_tryStart]; done) | (with_reducible refine fixed_foldl _ _ _ _ ?_ ?_) | (intro _ _) | split | (simp only [fixed_mk, fixed_eta, fixed_ite, ite_self, fixed_failJob, fixed_tryStart]))

theorem fixed_settle (s : State)  : (settle s).fixed = s.fixed := by
  unfold settle
  simp only [fixed_finishArms, fixed_settleDrains, fixed_dropSaved, fixed_serveImages]

theorem fixed_countMove (s : State) {x1} {x2} {x3} : (countMove s x1 x2 x3).fixed = s.fixed := by
  unfold countMove
  repeat' (first | (simp only [fixed_countN, fixed_modAcct]; done) | (with_reducible refine fixed_foldl _ _ _ _ ?_ ?_) | (intro _ _) | split | (simp only [fixed_countN, fixed_modAcct]))

theorem fixed_saveLane (s : State) {x1} {x2} : (saveLane s x1 x2).fixed = s.fixed := by
  unfold saveLane
  repeat' (first | (simp only [fixed_landTransfer, fixed_readScratch, fixed_freeLane, fixed_modJob]; done) | (with_reducible refine fixed_foldl _ _ _ _ ?_ ?_) | (intro _ _) | split | (simp only [fixed_landTransfer, fixed_readScratch, fixed_freeLane, fixed_modJob]))

theorem fixed_saveEnded (s : State) {x1} {x2} : (saveEnded s x1 x2).fixed = s.fixed := by
  unfold saveEnded
  repeat' (first | (simp only [fixed_freeLane, fixed_takeTransfer]; done) | (with_reducible refine fixed_foldl _ _ _ _ ?_ ?_) | (intro _ _) | split | (simp only [fixed_freeLane, fixed_takeTransfer]))

theorem fixed_saveJob (s : State) {x1} : (saveJob s x1).fixed = s.fixed := by
  unfold saveJob
  repeat' (first | (simp only [fixed_ite, fixed_countMove, fixed_modAcct, fixed_saveLane, fixed_saveEnded, fixed_modJob]; done) | (with_reducible refine fixed_foldl _ _ _ _ ?_ ?_) | (intro _ _) | split | (simp only [fixed_ite, fixed_countMove, fixed_modAcct, fixed_saveLane, fixed_saveEnded, fixed_modJob]))

theorem fixed_restoreLane (s : State) {x0} {x2} : (restoreLane x0 s x2).fixed = s.fixed := by
  unfold restoreLane
  split <;> simp only [fixed_mk, fixed_eta, fixed_zeroRows, fixed_modJob]

theorem fixed_restoreJob (s : State) {x1} : (restoreJob s x1).fixed = s.fixed := by
  unfold restoreJob
  repeat' (first | (simp only [fixed_mk, fixed_eta, fixed_ite, ite_self, fixed_countMove, fixed_restoreLane, fixed_takeTransfer]; done) | (with_reducible refine fixed_foldl _ _ _ _ ?_ ?_) | (intro _ _) | split | (simp only [fixed_mk, fixed_eta, fixed_ite, ite_self, fixed_countMove, fixed_restoreLane, fixed_takeTransfer]))

theorem fixed_newSeq (s : State) {x1} {x2} {x3} {x4} {x5} {x6} : (newSeq s x1 x2 x3 x4 x5 x6).2.fixed = s.fixed := by
  unfold newSeq
  simp only [fixed_mk, fixed_eta]

theorem fixed_moveFinal (s : State) {x0} {x1} {x3} : (moveFinal x0 x1 s x3).fixed = s.fixed := by
  unfold moveFinal
  repeat' (first | (simp only [fixed_ite, fixed_modPiece, fixed_modSeq, fixed_newSeq, fixed_sidesEnded]; done) | (with_reducible refine fixed_foldl _ _ _ _ ?_ ?_) | (intro _ _) | split | (simp only [fixed_ite, fixed_modPiece, fixed_modSeq, fixed_newSeq, fixed_sidesEnded]))

theorem fixed_seqRefused (s : State) {x1} {x2} {x3} : (seqRefused s x1 x2 x3).fixed = s.fixed := by
  unfold seqRefused
  simp only [fixed_removeJob, fixed_reportJob]

theorem fixed_takeSeqJob (s : State) {x0} {x2} : (takeSeqJob x0 s x2).fixed = s.fixed := by
  unfold takeSeqJob
  repeat' (first | (simp only [fixed_mk, fixed_eta, fixed_ite, ite_self, fixed_modJob, fixed_newSeq, fixed_modSeq, fixed_seqRefused]; done) | (with_reducible refine fixed_foldl _ _ _ _ ?_ ?_) | (intro _ _) | split | (simp only [fixed_mk, fixed_eta, fixed_ite, ite_self, fixed_modJob, fixed_newSeq, fixed_modSeq, fixed_seqRefused]))

theorem fixed_setBank (s : State) {x1} {x2} : (setBank s x1 x2).fixed = s.fixed := by
  unfold setBank
  simp only [fixed_mk, fixed_eta]

theorem fixed_runSnapshot (s : State) {x1} {x2} {x3} : (runSnapshot s x1 x2 x3).fixed = s.fixed := by
  unfold runSnapshot
  repeat' (first | (simp only [fixed_mk, fixed_eta, fixed_ite, ite_self, fixed_complete, fixed_setBank]; done) | (with_reducible refine fixed_foldl _ _ _ _ ?_ ?_) | (intro _ _) | split | (simp only [fixed_mk, fixed_eta, fixed_ite, ite_self, fixed_complete, fixed_setBank]))

theorem fixed_dropSnapshots (s : State) {x1} : (dropSnapshots s x1).fixed = s.fixed := by
  unfold dropSnapshots
  repeat' (first | (simp only [fixed_mk, fixed_eta, fixed_ite, ite_self, fixed_setBank]; done) | (with_reducible refine fixed_foldl _ _ _ _ ?_ ?_) | (intro _ _) | split | (simp only [fixed_mk, fixed_eta, fixed_ite, ite_self, fixed_setBank]))

theorem fixed_ensureMasters (s : State) {p} {t} (h : ensureMasters s p = some t) : t.fixed = s.fixed := by
  unfold ensureMasters at h
  split at h
  · cases h; rfl
  · dsimp only at h
    split at h
    · cases h
    · cases h; rfl

theorem fixed_startTailor (s : State) {r} {h} {o} {aux} {m} {n t} (e : startTailor s r h o aux m = .ok (n, t)) : t.fixed = s.fixed := by
  unfold startTailor at e
  split at e
  · cases e
  · split at e
    · cases e
    · split at e
      · cases e
      · rename_i hu
        cases e
        rw [fixed_tailorEmpty, fixed_mk, fixed_eta, fixed_mk, fixed_eta, fixed_ensureMasters s hu]

theorem fixed_takeSample (s : State) {x1} {x2} {x3} {x4} : (takeSample s x1 x2 x3 x4).fixed = s.fixed := by
  unfold takeSample
  split <;> simp only [fixed_ite, ite_self, fixed_removeSample, fixed_modSample, fixed_modTailor]

theorem fixed_tailorPassesDone (s : State) {x1} {x2} : (tailorPassesDone s x1 x2).fixed = s.fixed := by
  unfold tailorPassesDone
  split <;> simp only [fixed_mk, fixed_eta, fixed_ite, ite_self, fixed_modTailor, fixed_serveImages, fixed_modJob, fixed_releaseJob, fixed_endTailor]

theorem fixed_prepWays (s : State) {p} {w t} (h : prepWays s p = some (w, t)) : t.fixed = s.fixed := by
  simp only [prepWays, Option.map_eq_some_iff, Prod.mk.injEq] at h
  obtain ⟨r, hr, _, rfl⟩ := h
  rw [fixed_chipCnt, fixed_takeWays s hr]

theorem fixed_prepareSwap (s : State) {t} {p} {low} {c u} (h : prepareSwap s t p low = .ok (c, u)) : u.fixed = s.fixed := by
  unfold prepareSwap at h
  dsimp only at h
  split at h
  · cases h
  · split at h
    · cases h; rfl
    · split at h
      · cases h
      · rename_i hw
        cases h
        rw [fixed_loadModel, fixed_prepWays s hw]

theorem fixed_applySwap (s : State) {x1} {x2} {x3} {x4} : (applySwap s x1 x2 x3 x4).fixed = s.fixed := by
  unfold applySwap
  split <;> simp only [fixed_mk, fixed_eta, fixed_writeRows, fixed_modPlan, fixed_measure, fixed_dropOldModels, fixed_logHealth, fixed_writeReport]

theorem fixed_endMemberTailor (s : State) {x1} {x2} {x3} : (endMemberTailor s x1 x2 x3).fixed = s.fixed := by
  unfold endMemberTailor
  simp only [fixed_serveImages, fixed_finishJob, fixed_reportJob]

theorem fixed_countTile (s : State) {x0} {x1} {x3} : (countTile x0 x1 s x3).fixed = s.fixed := by
  unfold countTile
  simp only [fixed_countN, fixed_modTile]

theorem fixed_acctSegment (s : State) {x1} {x2} : (acctSegment s x1 x2).fixed = s.fixed := by
  unfold acctSegment
  simp only [fixed_modAcct]

theorem fixed_countSegment (s : State) {x1} {x2} {x3} {x4} : (countSegment s x1 x2 x3 x4).fixed = s.fixed := by
  unfold countSegment
  repeat' (first | (simp only [fixed_noteDramCorrected, fixed_countTile, fixed_noteDramBad, fixed_acctSegment, fixed_countN]; done) | (with_reducible refine fixed_foldl _ _ _ _ ?_ ?_) | (intro _ _) | split | (simp only [fixed_noteDramCorrected, fixed_countTile, fixed_noteDramBad, fixed_acctSegment, fixed_countN]))

theorem fixed_addSlip (s : State) {x1} {x2} : (addSlip s x1 x2).fixed = s.fixed := by
  unfold addSlip
  split <;> simp only [fixed_modJob, fixed_modPiece]

theorem fixed_logEvents (s : State) {x1} {x2} {x3} : (logEvents s x1 x2 x3).fixed = s.fixed := by
  unfold logEvents
  repeat' (first | (simp only [fixed_mk, fixed_eta, fixed_ite, ite_self, fixed_logHealth]; done) | (with_reducible refine fixed_foldl _ _ _ _ ?_ ?_) | (intro _ _) | split | (simp only [fixed_mk, fixed_eta, fixed_ite, ite_self, fixed_logHealth]))

theorem fixed_countLater (s : State) {x1} : (countLater s x1).fixed = s.fixed := by
  unfold countLater
  simp only [fixed_mk, fixed_eta]

theorem fixed_segError (s : State) {x1} {x2} {x3} {x4} : (segError s x1 x2 x3 x4).fixed = s.fixed := by
  unfold segError
  simp only [fixed_ite, ite_self, fixed_countLater, fixed_logEvents, fixed_failJob, fixed_strike, fixed_substituteDue]

theorem fixed_emitPiece (s : State) {t} {n} {j} {e} : (emitPiece s t n j e).fixed = s.fixed := by
  unfold emitPiece
  dsimp only
  cases e with
  | token num x y seg side =>
    dsimp only
    split
    · rw [fixed_modPiece]
    · rfl
  | done => rfl
  | sample _ _ _ => rfl
  | _ => exact fixed_modPiece s

theorem fixed_emitImage (s : State) {x1} {x2} : (emitImage s x1 x2).fixed = s.fixed := by
  unfold emitImage
  split <;> simp only [fixed_modJob]

theorem fixed_emitSeq (s : State) {x1} {x2} {x3} : (emitSeq s x1 x2 x3).fixed = s.fixed := by
  unfold emitSeq
  repeat' (first | (simp only [fixed_mk, fixed_eta, fixed_ite, ite_self, fixed_modSeq, fixed_emitPiece]; done) | (with_reducible refine fixed_foldl _ _ _ _ ?_ ?_) | (intro _ _) | split | (simp only [fixed_mk, fixed_eta, fixed_ite, ite_self, fixed_modSeq, fixed_emitPiece]))

theorem fixed_emitItem (s : State) {x0} {x2} : (emitItem x0 s x2).fixed = s.fixed := by
  unfold emitItem
  repeat' (first | (simp only [fixed_mk, fixed_eta, fixed_ite, ite_self, fixed_emitSeq, fixed_emitPiece, fixed_emitImage, fixed_takeSample]; done) | (with_reducible refine fixed_foldl _ _ _ _ ?_ ?_) | (intro _ _) | split | (simp only [fixed_mk, fixed_eta, fixed_ite, ite_self, fixed_emitSeq, fixed_emitPiece, fixed_emitImage, fixed_takeSample]))

theorem fixed_companionJob (s : State) {x1} {x2} {x3} {x4} : (companionJob s x1 x2 x3 x4).fixed = s.fixed := by
  unfold companionJob
  repeat' (first | (simp only [fixed_feedJob, fixed_finishJob, fixed_feedInput, fixed_modJob]; done) | (with_reducible refine fixed_foldl _ _ _ _ ?_ ?_) | (intro _ _) | split | (simp only [fixed_feedJob, fixed_finishJob, fixed_feedInput, fixed_modJob]))

theorem fixed_swapSideJobs (s : State) {x1} {x2} : (swapSideJobs s x1 x2).fixed = s.fixed := by
  unfold swapSideJobs
  repeat' (first | (simp only [fixed_mk, fixed_eta, fixed_ite, ite_self, fixed_companionJob]; done) | (with_reducible refine fixed_foldl _ _ _ _ ?_ ?_) | (intro _ _) | split | (simp only [fixed_mk, fixed_eta, fixed_ite, ite_self, fixed_companionJob]))

theorem fixed_quickWash (s : State) {x1} {x2} {x3} : (quickWash s x1 x2 x3).fixed = s.fixed := by
  unfold quickWash
  repeat' (first | (simp only [fixed_mk, fixed_eta, fixed_ite, ite_self, fixed_modSeq, fixed_modPiece, fixed_newSeq, fixed_modAcct, fixed_chipCnt, fixed_sidesEnded, fixed_swapSideJobs]; done) | (with_reducible refine fixed_foldl _ _ _ _ ?_ ?_) | (intro _ _) | split | (simp only [fixed_mk, fixed_eta, fixed_ite, ite_self, fixed_modSeq, fixed_modPiece, fixed_newSeq, fixed_modAcct, fixed_chipCnt, fixed_sidesEnded, fixed_swapSideJobs]))

theorem fixed_monitorPiece (s : State) {x1} {x2} : (monitorPiece s x1 x2).fixed = s.fixed := by
  unfold monitorPiece
  repeat' (first | (simp only [fixed_ite, ite_self, fixed_chipCnt, fixed_quickWash, fixed_discardPiece]; done) | (with_reducible refine fixed_foldl _ _ _ _ ?_ ?_) | (intro _ _) | split | (simp only [fixed_ite, ite_self, fixed_chipCnt, fixed_quickWash, fixed_discardPiece]))

theorem fixed_monitor (s : State) {x1} {x2} : (monitor s x1 x2).fixed = s.fixed := by
  unfold monitor
  repeat' (first | (simp only [fixed_mk, fixed_eta, fixed_ite, ite_self, fixed_monitorPiece]; done) | (with_reducible refine fixed_foldl _ _ _ _ ?_ ?_) | (intro _ _) | split | (simp only [fixed_mk, fixed_eta, fixed_ite, ite_self, fixed_monitorPiece]))

theorem fixed_jobEnds (s : State) {x1} {x2} : (jobEnds s x1 x2).fixed = s.fixed := by
  unfold jobEnds
  split <;> simp only [fixed_sideEnded, fixed_finishJob, fixed_finishStep, fixed_imageStagesDone, fixed_tailorPassesDone, fixed_finishTest]

theorem fixed_sharedPart (s : State) {x1} : (sharedPart s x1).fixed = s.fixed := by
  unfold sharedPart
  split <;> simp only [fixed_sharedSeq]

theorem fixed_absentPart (s : State) {x1} : (absentPart s x1).fixed = s.fixed := by
  unfold absentPart
  repeat' (first | (simp only [fixed_ite, fixed_modSeq, fixed_dropOne]; done) | (with_reducible refine fixed_foldl _ _ _ _ ?_ ?_) | (intro _ _) | split | (simp only [fixed_ite, fixed_modSeq, fixed_dropOne]))

theorem fixed_endCommand (s : State) {x1} {x2} : (endCommand s x1 x2).fixed = s.fixed := by
  unfold endCommand
  simp only [fixed_ite, ite_self, fixed_modJob, fixed_endWalk]

theorem fixed_advanceLane (s : State) {x1} {x2} : (advanceLane s x1 x2).fixed = s.fixed := by
  unfold advanceLane
  repeat' (first | (simp only [fixed_mk, fixed_eta, fixed_ite, ite_self, fixed_modLane, fixed_modJob]; done) | (with_reducible refine fixed_foldl _ _ _ _ ?_ ?_) | (intro _ _) | split | (simp only [fixed_mk, fixed_eta, fixed_ite, ite_self, fixed_modLane, fixed_modJob]))

theorem fixed_giveWay (s : State) {x1} : (giveWay s x1).fixed = s.fixed := by
  unfold giveWay
  repeat' (first | (simp only [fixed_mk, fixed_eta, fixed_ite, ite_self, fixed_companionJob]; done) | (with_reducible refine fixed_foldl _ _ _ _ ?_ ?_) | (intro _ _) | split | (simp only [fixed_mk, fixed_eta, fixed_ite, ite_self, fixed_companionJob]))

theorem fixed_segGood (s : State) {x1} {x2} {x3} {x4} {x5} {x6} : (segGood s x1 x2 x3 x4 x5 x6).fixed = s.fixed := by
  unfold segGood
  repeat' (first | (simp only [fixed_ite, ite_self, fixed_emitItem, fixed_sendMove, fixed_absentPart, fixed_sharedPart, fixed_advanceLane, fixed_endCommand, fixed_addSlip, fixed_jobEnds, fixed_giveWay, fixed_substituteDue, fixed_monitor]; done) | (with_reducible refine fixed_foldl _ _ _ _ ?_ ?_) | (intro _ _) | split | (simp only [fixed_ite, ite_self, fixed_emitItem, fixed_sendMove, fixed_absentPart, fixed_sharedPart, fixed_advanceLane, fixed_endCommand, fixed_addSlip, fixed_jobEnds, fixed_giveWay, fixed_substituteDue, fixed_monitor]))

theorem fixed_testSegment (s : State) {x1} {x2} {x3} : (testSegment s x1 x2 x3).fixed = s.fixed := by
  unfold testSegment
  repeat' (first | (simp only [fixed_ite, ite_self, fixed_countSegment, fixed_modLane, fixed_substituteDue, fixed_failJob, fixed_finishTest]; done) | (with_reducible refine fixed_foldl _ _ _ _ ?_ ?_) | (intro _ _) | split | (simp only [fixed_ite, ite_self, fixed_countSegment, fixed_modLane, fixed_substituteDue, fixed_failJob, fixed_finishTest]))

/-! A segment's happenings: its reads, writes and work leave what is fixed (R127). -/

theorem fixed_segFold {α : Type} (f : SegRun → α → SegRun) (l : List α) (r : SegRun) (h : ∀ r a, (f r a).s.fixed = r.s.fixed) :
    (l.foldl f r).s.fixed = r.s.fixed := by
  induction l generalizing r with
  | nil => rfl
  | cons a l ih => rw [List.foldl_cons, ih, h]

theorem fixed_setRegs {r : SegRun} {ks} {ws} : (r.setRegs ks ws).s.fixed = r.s.fixed := fixed_segFold _ _ _ fun _ _ => rfl

theorem fixed_stampAccess {c} {r : SegRun} {i} {e} {a} {w} {k} {n} {x} : (stampAccess c r i e a w k n x).s.fixed = r.s.fixed := by
  unfold stampAccess
  split
  · rfl
  · split
    · rfl
    · dsimp only
      split <;> rfl

theorem fixed_scaleAccess {c} {r : SegRun} {e} {a} {n} {w} : (scaleAccess c r e a n w).s.fixed = r.s.fixed := by
  unfold scaleAccess
  split
  · rfl
  · dsimp only
    split <;> rfl

theorem fixed_serveRead {c} {set} {lost} {r : SegRun} {i} {e} {a} {k} {n} : (serveRead c set lost r i e a k n).s.fixed = r.s.fixed := by
  unfold serveRead
  dsimp only
  split
  · rfl
  · split
    · exact fixed_stampAccess
    · rw [fixed_scaleAccess]
      split <;> exact (fixed_readWord _).trans ((fixed_countN _).trans fixed_stampAccess)

theorem fixed_serveWrite {c} {set} {lost} {r : SegRun} {i} {e} {a} {k} {n} : (serveWrite c set lost r i e a k n).s.fixed = r.s.fixed := by
  unfold serveWrite
  dsimp only
  split
  · rfl
  · split
    · rfl
    · split
      · exact fixed_stampAccess
      · split <;> exact (fixed_writeWord _).trans ((fixed_countN _).trans fixed_stampAccess)

theorem fixed_serveDma {c} {set} {r : SegRun} {d} : (serveDma c set r d).s.fixed = r.s.fixed := by
  unfold serveDma
  dsimp only
  split
  · rfl
  · split
    · split <;> exact fixed_writeWord _
    · split <;> exact fixed_readWord _

theorem fixed_runDot {c} {r : SegRun} {tile fa fb ra rb acc} {sa sb} : (runDot c r tile fa fb ra rb acc sa sb).s.fixed = r.s.fixed := by
  unfold runDot
  dsimp only
  rw [fixed_countN, fixed_accSet]

theorem fixed_runLut {c} {r : SegRun} {tile tab fmt} {base step} {ra rd i} : (runLut c r tile tab fmt base step ra rd i).s.fixed = r.s.fixed := by
  unfold runLut
  dsimp only
  split
  · exact fixed_countN _
  · rfl

theorem fixed_runWin {c} {r : SegRun} {tile} {op} {src dst} : (runWin c r tile op src dst).s.fixed = r.s.fixed := by
  unfold runWin
  dsimp only
  split
  · rw [fixed_setRegs]
    split
    · exact fixed_setRegs
    · exact (fixed_countN _).trans fixed_setRegs
  · split
    · exact fixed_setRegs
    · exact (fixed_countN _).trans fixed_setRegs

theorem fixed_noteWalk {r : SegRun} {seq layer pos} : (noteWalk r seq layer pos).s.fixed = r.s.fixed := by
  unfold noteWalk
  split
  · split <;> rfl
  · rfl

theorem fixed_runKvWr {r : SegRun} {seq layer pos head} {val} {part reg} : (runKvWr r seq layer pos head val part reg).s.fixed = r.s.fixed := by
  unfold runKvWr
  split
  · split
    · rfl
    · split
      · rfl
      · split
        · rfl
        · split
          · rfl
          · dsimp only
            split
            · split
              · exact fixed_modSeq _
              · rfl
            · rfl
  · rfl

theorem fixed_runKvRd {r : SegRun} {seq layer pos head} {val} {part reg} : (runKvRd r seq layer pos head val part reg).s.fixed = r.s.fixed := by
  unfold runKvRd
  dsimp only
  split
  · split <;> exact fixed_noteWalk
  · exact fixed_noteWalk

theorem fixed_attnForward {r : SegRun} {a} : (attnForward r a).s.fixed = r.s.fixed := by
  unfold attnForward
  dsimp only
  split
  · refine fixed_setRegs.trans ?_
    split
    · rfl
    · exact fixed_setRegs
  · rw [fixed_setRegs]
    split
    · rfl
    · exact fixed_setRegs

theorem fixed_runAttn {r : SegRun} {a} : (runAttn r a).s.fixed = r.s.fixed := by
  have h : ∀ (r : SegRun), (match a.paged with
      | some (seq, layer) => a.kj.foldl (fun r (p : PosInfo) => noteWalk r seq layer p.pos) r
      | none => r).s.fixed = r.s.fixed := by
    intro r
    split
    · exact fixed_segFold _ _ _ fun _ _ => fixed_noteWalk
    · rfl
  unfold runAttn
  dsimp only
  split
  · exact fixed_attnForward.trans (h r)
  · exact h r

theorem fixed_runBwd {r : SegRun} {b} : (runBwd r b).s.fixed = r.s.fixed := by
  unfold runBwd
  dsimp only
  rw [fixed_segFold _ _ _ fun _ _ => fixed_setRegs, fixed_segFold _ _ _ fun _ _ => fixed_setRegs, fixed_setRegs]

theorem fixed_runStep {c} {cells} {r : SegRun} {i} {e} : (runStep c cells r i e).s.fixed = r.s.fixed := by
  unfold runStep
  dsimp only
  split
  · rfl
  · exact fixed_segFold _ _ _ fun _ _ => rfl
  · exact fixed_runDot
  · exact fixed_accSet _
  · rfl
  · rfl
  · exact fixed_runLut
  · rfl
  · rfl
  · rfl
  · exact fixed_setRegs
  · rfl
  · exact fixed_runAttn
  · exact fixed_runBwd
  · exact fixed_runWin
  · exact fixed_runKvWr
  · exact fixed_runKvRd
  · rfl

theorem fixed_runMicro {c} {set} {w} {lost} {r : SegRun} {m} : (runMicro c set w lost r m).s.fixed = r.s.fixed := by
  unfold runMicro
  split
  · exact fixed_serveDma
  · split
    · rfl
    · split
      · rfl
      · exact fixed_serveRead
      · exact fixed_serveWrite
      · exact fixed_runStep
      · rfl

theorem fixed_runOps (s : State) {c} {set} {blocks} {w} : (runOps s c set blocks w).s.fixed = s.fixed := by
  unfold runOps
  exact fixed_segFold _ _ _ fun _ _ => fixed_runMicro

theorem fixed_runSegment (s : State) {j} {p} {l} {c} {w} : (runSegment s j p l c w).fixed = s.fixed := by
  have h0 : ∀ (r : SegRun) (f : Job → Job), (modJob (r.badRows.foldl dropModelAt r.s) j.id f).fixed = r.s.fixed := by
    intro r f
    rw [fixed_modJob]
    exact fixed_foldl _ _ _ _ rfl fun s _ => fixed_dropModelAt s
  unfold runSegment
  dsimp only
  split
  · rw [h0, fixed_runOps, fixed_countSegment]
  · split
    · rw [fixed_segError, h0, fixed_runOps, fixed_countSegment]
    · rw [fixed_substituteDue, fixed_failJob, h0, fixed_runOps, fixed_countSegment]
    · split
      · rw [fixed_substituteDue, fixed_failJob, h0, fixed_runOps, fixed_countSegment]
      · rw [fixed_segGood, h0, fixed_runOps, fixed_countSegment]

theorem fixed_runsOn (s : State) {job} {tile} {t j l} (h : runsOn s job tile = some (t, j, l)) : t.fixed = s.fixed := by
  unfold runsOn at h
  split at h
  · cases h
  · split at h
    · cases h
    · simp only [Option.map_eq_some_iff, Prod.mk.injEq] at h
      obtain ⟨_, _, rfl, _⟩ := h
      rw [fixed_modLane]

theorem fixed_watchdogEnd (s : State) {x1} {x2} : (watchdogEnd s x1 x2).fixed = s.fixed := by
  unfold watchdogEnd
  simp only [fixed_ite, ite_self, fixed_lastRites, fixed_failJob]

theorem fixed_windowApply (s : State) {x1} : (windowApply s x1).fixed = s.fixed := by
  unfold windowApply
  simp only [fixed_mk, fixed_eta, fixed_sendWindowState]

theorem fixed_runWindowOpen (s : State) {x1} {x2} {x3} : (runWindowOpen s x1 x2 x3).fixed = s.fixed := by
  unfold runWindowOpen
  split <;> simp only [fixed_complete, fixed_windowApply]

theorem fixed_runWindowClose (s : State) {x1} {x2} {x3} : (runWindowClose s x1 x2 x3).fixed = s.fixed := by
  unfold runWindowClose
  split <;> simp only [fixed_mk, fixed_eta, fixed_complete, fixed_sendWindowState]

theorem fixed_commitSwap (s : State) {x1} : (commitSwap s x1).fixed = s.fixed := by
  unfold commitSwap
  repeat' (first | (simp only [fixed_mk, fixed_eta, fixed_ite, ite_self, fixed_applySwap]; done) | (with_reducible refine fixed_foldl _ _ _ _ ?_ ?_) | (intro _ _) | split | (simp only [fixed_mk, fixed_eta, fixed_ite, ite_self, fixed_applySwap]))

theorem fixed_commitRecord (s : State) {x0} {x1} {x3} : (commitRecord x0 x1 s x3).fixed = s.fixed := by
  unfold commitRecord
  split <;> simp only [fixed_commitPost]

theorem fixed_finishFold (s : State) {x1} {x2} : (finishFold s x1 x2).fixed = s.fixed := by
  unfold finishFold
  split <;> simp only [fixed_ite, ite_self, fixed_dropFold, fixed_foldCompls]

theorem fixed_runMember {r} {f g : FoldRun} {m} (h : runMember r f m = .ok g) : g.s.fixed = f.s.fixed := by
  unfold runMember at h
  split at h
  · split at h <;> cases h
    rfl
  · split at h
    · split at h
      · cases h
      · cases h; exact fixed_editApply f.s
    · split at h
      · cases h
      · split at h <;> cases h <;> rfl
    · split at h
      · cases h
      · cases h; exact fixed_windowApply f.s
    all_goals (cases h; rfl)

theorem fixed_runMembers {r} {i} {f g : FoldRun} {ms} (h : runMembers r i f ms = .ok g) : g.s.fixed = f.s.fixed := by
  induction ms generalizing i f with
  | nil => cases h; rfl
  | cons m ms ih =>
    unfold runMembers at h
    split at h
    · cases h
    · rename_i hm
      rw [ih h, fixed_runMember hm]

theorem fixed_commitHost (s : State) {r} {f} : (commitHost s r f).fixed = s.fixed := by
  unfold commitHost
  split
  · rw [fixed_abortFold, fixed_chipCnt, fixed_dropSwaps]
  · split
    · rw [fixed_abortFold, fixed_chipCnt, fixed_dropSwaps]
    · split
      · rw [fixed_abortFold, fixed_chipCnt, fixed_dropSwaps]
      · rename_i g hg
        have hgs : (if g.edits then raiseVersion g.s else g.s).fixed = s.fixed := by
          have := fixed_runMembers hg
          split
          · rw [fixed_raiseVersion, this]
          · exact this
        dsimp only
        rw [fixed_finishFold]
        refine fixed_foldl _ _ _ _ ?_ fun s a => ?_
        · rw [fixed_pegArbitrate]
          refine fixed_foldl _ _ _ _ ?_ fun s a => fixed_commitRecord s
          rw [fixed_chipCnt]
          refine fixed_foldl _ _ _ _ ?_ fun s a => fixed_commitSwap s
          rw [fixed_modFold]
          exact hgs
        · split
          · rw [fixed_releaseSeq]
          · rfl

theorem fixed_finishHandover (s : State)  : (finishHandover s).fixed = s.fixed := by
  unfold finishHandover
  split <;> simp only [fixed_mk, fixed_eta, fixed_ite, ite_self]

theorem fixed_judgeWindows (s : State)  : (judgeWindows s).fixed = s.fixed := by
  unfold judgeWindows
  simp only [fixed_judgeWindow]

theorem fixed_dropPost (s : State) {x1} : (dropPost s x1).fixed = s.fixed := by
  unfold dropPost
  simp only [fixed_mk, fixed_eta]

theorem fixed_memberPost (s : State) {x0} {x1} {x2} {x3} {x4} {x5} : (memberPost x0 x1 x2 x3 x4 x5 s).fixed = s.fixed := by
  unfold memberPost
  simp only [fixed_modFold]

theorem fixed_reportPostCopy (s : State) {x1} {x2} {x3} {x4} : (reportPostCopy s x1 x2 x3 x4).fixed = s.fixed := by
  unfold reportPostCopy
  repeat' (first | (simp only [fixed_mk, fixed_eta, fixed_ite, ite_self, fixed_postCompl, fixed_finishFold, fixed_memberPost]; done) | (with_reducible refine fixed_foldl _ _ _ _ ?_ ?_) | (intro _ _) | split | (simp only [fixed_mk, fixed_eta, fixed_ite, ite_self, fixed_postCompl, fixed_finishFold, fixed_memberPost]))

theorem fixed_copyPost (s : State) {x1} {x2} : (copyPost s x1 x2).fixed = s.fixed := by
  unfold copyPost
  simp only [fixed_ite, ite_self, fixed_hostWrite, fixed_modFn, fixed_reportPostCopy, fixed_dropPost, fixed_raiseVec]

theorem fixed_loseBadPost (s : State) {x1} : (loseBadPost s x1).fixed = s.fixed := by
  unfold loseBadPost
  simp only [fixed_logHealth, fixed_reportPostCopy, fixed_dropPost]

theorem fixed_basketFreed (s : State)  : (basketFreed s).fixed = s.fixed := by
  unfold basketFreed
  simp only [fixed_serveImages, fixed_retryPosts, fixed_judgeCapture, fixed_basketMarks]

theorem fixed_receiveFrame (s : State) {seq} {act} (h : ∀ u, (act u).fixed = u.fixed) : (receiveFrame s seq act).fixed = s.fixed := by
  unfold receiveFrame
  split
  · rfl
  · dsimp only
    split
    · rw [h, fixed_sendAck]; rw [fixed_mk, fixed_eta, fixed_chipCnt]
    · split
      · rw [h, fixed_sendAck]; rw [fixed_mk, fixed_eta, fixed_chipCnt]
      · split
        · rw [fixed_sendAck, fixed_chipCnt]
        · rw [fixed_sendAck, fixed_chipCnt]

theorem fixed_setReady (s : State) {x1} {x2} {x3} : (setReady s x1 x2 x3).fixed = s.fixed := by
  unfold setReady
  split <;> simp only [fixed_mk, fixed_eta]

theorem fixed_linkDown (s : State)  : (linkDown s).fixed = s.fixed := by
  unfold linkDown
  repeat' (first | (simp only [fixed_mk, fixed_eta, fixed_setReady, fixed_logHealth, fixed_complete]; done) | (with_reducible refine fixed_foldl _ _ _ _ ?_ ?_) | (intro _ _) | split | (simp only [fixed_mk, fixed_eta, fixed_setReady, fixed_logHealth, fixed_complete]))

theorem fixed_sendPair (s : State)  : (sendPair s).fixed = s.fixed := by
  unfold sendPair
  repeat' (first | (simp only [fixed_mk, fixed_eta, fixed_ite, ite_self, fixed_sendFrame, fixed_sendWindowState]; done) | (with_reducible refine fixed_foldl _ _ _ _ ?_ ?_) | (intro _ _) | split | (simp only [fixed_mk, fixed_eta, fixed_ite, ite_self, fixed_sendFrame, fixed_sendWindowState]))

theorem fixed_stopReading (s : State)  : (stopReading s).fixed = s.fixed := by
  unfold stopReading
  repeat' (first | (simp only [fixed_mk, fixed_eta, fixed_ite, ite_self, fixed_stopPiece]; done) | (with_reducible refine fixed_foldl _ _ _ _ ?_ ?_) | (intro _ _) | split | (simp only [fixed_mk, fixed_eta, fixed_ite, ite_self, fixed_stopPiece]))

theorem fixed_finishPair (s : State) {x1} {x2} {x3} : (finishPair s x1 x2 x3).fixed = s.fixed := by
  unfold finishPair
  simp only [fixed_mk, fixed_eta, fixed_ite, ite_self, fixed_logHealth, fixed_sendSync, fixed_stopReading]

theorem fixed_setTwinEnable (s : State) {x1} : (setTwinEnable s x1).fixed = s.fixed := by
  unfold setTwinEnable
  repeat' (first | (simp only [fixed_mk, fixed_eta, fixed_ite, ite_self, fixed_regSet, fixed_stopReading, fixed_sendPair, fixed_setReady]; done) | (with_reducible refine fixed_foldl _ _ _ _ ?_ ?_) | (intro _ _) | split | (simp only [fixed_mk, fixed_eta, fixed_ite, ite_self, fixed_regSet, fixed_stopReading, fixed_sendPair, fixed_setReady]))

theorem fixed_adoptTrack (s : State) {x1} {x2} : (adoptTrack s x1 x2).fixed = s.fixed := by
  unfold adoptTrack
  repeat' (first | (simp only [fixed_mk, fixed_eta, fixed_ite, ite_self, fixed_modTrack, fixed_modPort]; done) | (with_reducible refine fixed_foldl _ _ _ _ ?_ ?_) | (intro _ _) | split | (simp only [fixed_mk, fixed_eta, fixed_ite, ite_self, fixed_modTrack, fixed_modPort]))

theorem fixed_judgeReady (s : State) {x1} {x2} : (judgeReady s x1 x2).fixed = s.fixed := by
  unfold judgeReady
  repeat' (first | (simp only [fixed_ite, fixed_setReady]; done) | (with_reducible refine fixed_foldl _ _ _ _ ?_ ?_) | (intro _ _) | split | (simp only [fixed_ite, fixed_setReady]))

theorem fixed_noteCommitted (s : State) {x1} {x2} : (noteCommitted s x1 x2).fixed = s.fixed := by
  unfold noteCommitted
  simp only [fixed_ite, ite_self, fixed_modTrack, fixed_prunePieces]

theorem fixed_replaySide (s : State) {x1} {x2} {x3} {x4} : (replaySide s x1 x2 x3 x4).fixed = s.fixed := by
  unfold replaySide
  split <;> simp only [fixed_ite, ite_self, fixed_modPiece, fixed_feedInput, fixed_feedJob]

theorem fixed_replayPiece (s : State) {x0} {x1} {x3} : (replayPiece x0 x1 s x3).fixed = s.fixed := by
  unfold replayPiece
  repeat' (first | (simp only [fixed_mk, fixed_eta, fixed_ite, ite_self, fixed_verdictFold, fixed_replaySide, fixed_discardPiece, fixed_portCnt]; done) | (with_reducible refine fixed_foldl _ _ _ _ ?_ ?_) | (intro _ _) | split | (simp only [fixed_mk, fixed_eta, fixed_ite, ite_self, fixed_verdictFold, fixed_replaySide, fixed_discardPiece, fixed_portCnt]))

theorem fixed_takeTrack (s : State) {x1} {x2} : (takeTrack s x1 x2).fixed = s.fixed := by
  unfold takeTrack
  repeat' (first | (simp only [fixed_modTrack, fixed_prunePieces, fixed_replayPiece]; done) | (with_reducible refine fixed_foldl _ _ _ _ ?_ ?_) | (intro _ _) | split | (simp only [fixed_modTrack, fixed_prunePieces, fixed_replayPiece]))

theorem fixed_takeOver (s : State) {x1} {x2} : (takeOver s x1 x2).fixed = s.fixed := by
  unfold takeOver
  repeat' (first | (simp only [fixed_mk, fixed_eta, fixed_ite, ite_self, fixed_takeTrack, fixed_logHealth, fixed_modTrack, fixed_schedule]; done) | (with_reducible refine fixed_foldl _ _ _ _ ?_ ?_) | (intro _ _) | split | (simp only [fixed_mk, fixed_eta, fixed_ite, ite_self, fixed_takeTrack, fixed_logHealth, fixed_modTrack, fixed_schedule]))

theorem fixed_clearTakeover (s : State)  : (clearTakeover s).fixed = s.fixed := by
  unfold clearTakeover
  simp only [fixed_mk, fixed_eta]

theorem fixed_clearFence (s : State)  : (clearFence s).fixed = s.fixed := by
  unfold clearFence
  simp only [fixed_mk, fixed_eta, fixed_ite, ite_self, fixed_sendPair]

theorem fixed_startHandover (s : State)  : (startHandover s).fixed = s.fixed := by
  unfold startHandover
  simp only [fixed_mk, fixed_eta, fixed_ite, ite_self, fixed_badWrite, fixed_sendHealth, fixed_finishHandover]

theorem fixed_landWrite (s : State) {x1} : (landWrite s x1).2.fixed = s.fixed := by
  unfold landWrite
  repeat' (first | (simp only [fixed_mk, fixed_eta, fixed_writeVia, fixed_logWords]; done) | (with_reducible refine fixed_foldl _ _ _ _ ?_ ?_) | (intro _ _) | split | (simp only [fixed_mk, fixed_eta, fixed_writeVia, fixed_logWords]))

theorem fixed_dmaSource (s : State) {fn} {o} {aux} : (dmaSource s fn o aux).2.2.fixed = s.fixed := by
  unfold dmaSource
  split
  · rfl
  · rfl
  · dsimp only
    split
    · rw [fixed_readBytes]
    · split
      · rw [fixed_readBytes]
      · rw [fixed_logWords, fixed_readWord, fixed_readBytes]

theorem fixed_sendWrites (s : State) {win} {xfer} {whole} {off} {cs} : (sendWrites win xfer whole s off cs).fixed = s.fixed := by
  induction cs generalizing s off with
  | nil => rfl
  | cons c cs ih =>
    unfold sendWrites
    rw [ih, fixed_sendFrame]

theorem fixed_runTwinDma (s : State) {x1} {x2} {x3} {x4} : (runTwinDma s x1 x2 x3 x4).fixed = s.fixed := by
  unfold runTwinDma
  repeat' (first | (simp only [fixed_mk, fixed_eta, fixed_complete, fixed_hostRead, fixed_dmaSource, fixed_sendWrites]; done) | (with_reducible refine fixed_foldl _ _ _ _ ?_ ?_) | (intro _ _) | split | (simp only [fixed_mk, fixed_eta, fixed_complete, fixed_hostRead, fixed_dmaSource, fixed_sendWrites]))

theorem fixed_fetchNow (s : State) {x1} : (fetchNow s x1).fixed = s.fixed := by
  unfold fetchNow
  simp only [fixed_ite, ite_self, fixed_modRing]

theorem fixed_startImage (s : State) {x1} {x2} {x3} {x4} : (startImage s x1 x2 x3 x4).fixed = s.fixed := by
  unfold startImage
  split <;> simp only [fixed_ite, ite_self, fixed_complete, fixed_hostRead, fixed_serveImages, fixed_addJob]

theorem fixed_startSeqStep (s : State) {x1} {x2} {x3} {x4} : (startSeqStep s x1 x2 x3 x4).fixed = s.fixed := by
  unfold startSeqStep
  split <;> simp only [fixed_complete, fixed_addJob, fixed_hostRead]

theorem fixed_startTailorStep (s : State) {r} {h} {o} {aux} : (startTailorStep s r h o aux).fixed = s.fixed := by
  unfold startTailorStep
  split
  · rw [fixed_complete]
  · rename_i e
    rw [fixed_serveImages, fixed_startTailor _ e, fixed_hostRead]

theorem fixed_startEdit (s : State) {x1} {x2} {x3} : (startEdit s x1 x2 x3).fixed = s.fixed := by
  unfold startEdit
  repeat' (first | (simp only [fixed_ite, ite_self, fixed_complete, fixed_chipCnt, fixed_raiseVersion, fixed_editApply, fixed_releaseSeq]; done) | (with_reducible refine fixed_foldl _ _ _ _ ?_ ?_) | (intro _ _) | split | (simp only [fixed_ite, ite_self, fixed_complete, fixed_chipCnt, fixed_raiseVersion, fixed_editApply, fixed_releaseSeq]))

theorem fixed_startPegWait (s : State) {x1} {x2} {x3} : (startPegWait s x1 x2 x3).fixed = s.fixed := by
  unfold startPegWait
  simp only [fixed_mk, fixed_eta, fixed_modRing, fixed_pegArbitrate]

theorem fixed_startPegSignal (s : State) {x1} {x2} {x3} : (startPegSignal s x1 x2 x3).fixed = s.fixed := by
  unfold startPegSignal
  simp only [fixed_ite, ite_self, fixed_complete, fixed_pegArbitrate]

theorem fixed_startFoldOpen (s : State) {x1} {x2} : (startFoldOpen s x1 x2).fixed = s.fixed := by
  unfold startFoldOpen
  simp only [fixed_modRing]

theorem fixed_runDesc (s : State) {x1} {x2} : (runDesc s x1 x2).fixed = s.fixed := by
  unfold runDesc
  split <;> simp only [fixed_complete, fixed_runScanArm, fixed_runScanDisarm, fixed_runCalRun, fixed_startImage, fixed_startSeqStep, fixed_startTailorStep, fixed_runPlanLoad, fixed_runPlanUnload, fixed_runWardrobePin, fixed_startEdit, fixed_startPegWait, fixed_startPegSignal, fixed_startFoldOpen, fixed_runSnapshot, fixed_runWindowOpen, fixed_runWindowClose, fixed_runTwinDma, fixed_runTestRun]

theorem fixed_memberJob (s : State) {d} {j} : (memberJob s d j).1.fixed = s.fixed := fixed_addJob s

theorem fixed_stageMember (s : State) {r} {d} : (stageMember s r d).1.fixed = s.fixed := by
  unfold stageMember
  split
  · rfl
  · rfl
  · rfl
  · split
    · rfl
    · rw [fixed_memberJob]
      split
      · rfl
      · rw [fixed_hostRead]
  · split
    · rfl
    · rw [fixed_memberJob, fixed_hostRead]
  · split
    · rfl
    · rename_i e
      rw [fixed_startTailor _ e, fixed_hostRead]
  · rfl

theorem fixed_addMember (s : State) {x1} {x2} {x3} : (addMember s x1 x2 x3).fixed = s.fixed := by
  unfold addMember
  simp only [fixed_modRing]

theorem fixed_startMember (s : State) {r} {f} {d} : (startMember s r f d).fixed = s.fixed := by
  unfold startMember
  dsimp only
  split
  · rw [fixed_addMember]
  · split
    · rw [fixed_addMember]
    · split
      · rw [fixed_addMember]
      · rw [fixed_serveImages, fixed_addMember, fixed_stageMember]

theorem fixed_closeFold (s : State) {x1} {x2} {x3} {x4} : (closeFold s x1 x2 x3 x4).fixed = s.fixed := by
  unfold closeFold
  simp only [fixed_checkFold, fixed_modRing]

theorem fixed_startDesc (s : State) {x1} {x2} : (startDesc s x1 x2).fixed = s.fixed := by
  unfold startDesc
  repeat' (first | (simp only [fixed_modRing, fixed_closeFold, fixed_startMember, fixed_complete, fixed_runDesc]; done) | (with_reducible refine fixed_foldl _ _ _ _ ?_ ?_) | (intro _ _) | split | (simp only [fixed_modRing, fixed_closeFold, fixed_startMember, fixed_complete, fixed_runDesc]))

theorem fixed_pumpRing (s : State) {r} {n} : (pumpRing s r n).fixed = s.fixed := by
  induction n generalizing s with
  | zero => rfl
  | succ n ih =>
    unfold pumpRing
    dsimp only
    split
    · rw [fixed_fetchNow]
    · split
      · rw [ih, fixed_startDesc, fixed_modRing, fixed_fetchNow]
      · rw [fixed_fetchNow]

theorem fixed_pumpAll (s : State)  : (pumpAll s).fixed = s.fixed := by
  unfold pumpAll
  repeat' (first | (simp only [fixed_mk, fixed_eta, fixed_ite, ite_self, fixed_pumpRing]; done) | (with_reducible refine fixed_foldl _ _ _ _ ?_ ?_) | (intro _ _) | split | (simp only [fixed_mk, fixed_eta, fixed_ite, ite_self, fixed_pumpRing]))

theorem fixed_takeDesc (s : State) {x1} {x2} : (takeDesc s x1 x2).fixed = s.fixed := by
  unfold takeDesc
  simp only [fixed_pumpAll, fixed_modRing]

theorem fixed_submit (s : State) {x1} {x2} : (submit s x1 x2).fixed = s.fixed := by
  unfold submit
  simp only [fixed_ite, ite_self, fixed_takeDesc, fixed_modRing]

theorem fixed_dictEnd (s : State) {x1} : (dictEnd s x1).fixed = s.fixed := by
  unfold dictEnd
  simp only [fixed_mk, fixed_eta, fixed_raiseEvent]

theorem fixed_dictStart (s : State)  : (dictStart s).fixed = s.fixed := by
  unfold dictStart
  simp only [fixed_mk, fixed_eta, fixed_ite, ite_self, fixed_dictEnd, fixed_hostRead]

theorem fixed_dictPlace (s : State) {x1} : (dictPlace s x1).fixed = s.fixed := by
  unfold dictPlace
  simp only [fixed_mk, fixed_eta, fixed_measure]

theorem fixed_stopPair (s : State) {x1} : (stopPair s x1).fixed = s.fixed := by
  unfold stopPair
  simp only [fixed_mk, fixed_eta, fixed_abandonFolds, fixed_modRing]

theorem fixed_ringFault (s : State) {x1} {x2} : (ringFault s x1 x2).fixed = s.fixed := by
  unfold ringFault
  simp only [fixed_ite, ite_self, fixed_writeCompl, fixed_stopPair, fixed_modRing, fixed_raiseEvent]

theorem fixed_enableRing (s : State) {x1} : (enableRing s x1).fixed = s.fixed := by
  unfold enableRing
  simp only [fixed_ite, ite_self, fixed_modRing]

theorem fixed_disableRing (s : State) {x1} : (disableRing s x1).fixed = s.fixed := by
  unfold disableRing
  simp only [fixed_ite, ite_self, fixed_stopPair, fixed_modRing]

theorem fixed_readLine (s : State) {x1} : (readLine s x1).fixed = s.fixed := by
  unfold readLine
  simp only [fixed_ite, ite_self, fixed_hostRead, fixed_chipCnt, fixed_modFn]

theorem fixed_kick (s : State) {x1} : (kick s x1).fixed = s.fixed := by
  unfold kick
  simp only [fixed_ite, ite_self, fixed_chipCnt, fixed_modFn, fixed_readLine]

theorem fixed_fetchReads (s : State) {x1} {x2} {x3} : (fetchReads s x1 x2 x3).fixed = s.fixed := by
  unfold fetchReads
  simp only [fixed_ite, ite_self, fixed_hostRead]

theorem fixed_takeCounters (s : State) {x0} {x2} : (takeCounters x0 s x2).fixed = s.fixed := by
  unfold takeCounters
  simp only [fixed_ite, ite_self, fixed_modRing, fixed_ringFault, fixed_flushHeld, fixed_fetchReads]

theorem fixed_failRead (s : State) {x1} {x2} {x3} : (failRead s x1 x2 x3).fixed = s.fixed := by
  unfold failRead
  repeat' (first | (simp only [fixed_mk, fixed_eta, fixed_ite, ite_self, fixed_serveImages, fixed_failJob, fixed_startLoad, fixed_complete]; done) | (with_reducible refine fixed_foldl _ _ _ _ ?_ ?_) | (intro _ _) | split | (simp only [fixed_mk, fixed_eta, fixed_ite, ite_self, fixed_serveImages, fixed_failJob, fixed_startLoad, fixed_complete]))

theorem fixed_hostReadFails (s : State) {x1} {x2} {x3} : (hostReadFails s x1 x2 x3).fixed = s.fixed := by
  unfold hostReadFails
  repeat' (first | (simp only [fixed_mk, fixed_eta, fixed_ite, ite_self, fixed_modFn, fixed_ringFault, fixed_pumpAll, fixed_failRead]; done) | (with_reducible refine fixed_foldl _ _ _ _ ?_ ?_) | (intro _ _) | split | (simp only [fixed_mk, fixed_eta, fixed_ite, ite_self, fixed_modFn, fixed_ringFault, fixed_pumpAll, fixed_failRead]))

theorem fixed_enableRec (s : State) {x1} : (enableRec s x1).fixed = s.fixed := by
  unfold enableRec
  simp only [fixed_ite, ite_self, fixed_modFn]

theorem fixed_pegGrant (s : State) {x1} {x2} : (pegGrant s x1 x2).fixed = s.fixed := by
  unfold pegGrant
  simp only [fixed_ite, ite_self, fixed_badWrite, fixed_modFn, fixed_regSet]

theorem fixed_portIgnore (s : State)  : (portIgnore s).fixed = s.fixed := by
  unfold portIgnore
  simp only [fixed_mk, fixed_eta, fixed_chipCnt]

theorem fixed_ackRate (s : State) {x0} {x2} : (ackRate x0 s x2).fixed = s.fixed := by
  unfold ackRate
  simp only [fixed_mk, fixed_eta, fixed_ite, ite_self, fixed_modTrack, fixed_chipCnt]

theorem fixed_writeRate (s : State) {x1} : (writeRate s x1).fixed = s.fixed := by
  unfold writeRate
  repeat' (first | (simp only [fixed_mk, fixed_eta, fixed_ite, ite_self, fixed_ackRate, fixed_chipCnt]; done) | (with_reducible refine fixed_foldl _ _ _ _ ?_ ?_) | (intro _ _) | split | (simp only [fixed_mk, fixed_eta, fixed_ite, ite_self, fixed_ackRate, fixed_chipCnt]))

theorem fixed_writeConfig (s : State) {x1} : (writeConfig s x1).fixed = s.fixed := by
  unfold writeConfig
  simp only [fixed_mk, fixed_eta, fixed_ite, ite_self, fixed_chipCnt, fixed_portIgnore]

theorem fixed_bootImage (s : State) {x1} {x2} : (bootImage s x1 x2).fixed = s.fixed := by
  unfold bootImage
  simp only [fixed_mk, fixed_eta, fixed_measure]

theorem fixed_readRecords (s : State)  : (readRecords s).fixed = s.fixed := by
  unfold readRecords
  simp only [fixed_mk, fixed_eta]

theorem fixed_reserveBlock (s : State) {x1} {x2} {x3} : (reserveBlock s x1 x2 x3).fixed = s.fixed := by
  unfold reserveBlock
  simp only [fixed_mk, fixed_eta]

theorem fixed_attLeafIn (s : State) {n t} (h : attLeafIn s = some (n, t)) : t.fixed = s.fixed := by
  unfold attLeafIn at h
  split at h
  · split at h
    · cases h; rfl
    · split at h
      · cases h; rw [fixed_mk, fixed_eta, fixed_reserveBlock]
      · cases h
  · dsimp only at h
    split at h
    · cases h; rw [fixed_mk, fixed_eta, fixed_reserveBlock]
    · cases h

theorem fixed_takeLeaf (s : State) {n t} (h : takeLeaf s = some (n, t)) : t.fixed = s.fixed := by
  unfold takeLeaf at h
  split at h
  · cases h
  · split at h
    · rename_i e
      cases h
      exact fixed_attLeafIn s e
    · split at h
      · exact (fixed_attLeafIn _ h).trans rfl
      · cases h

theorem fixed_idLeaf (s : State) {n t} (h : idLeaf s = some (n, t)) : t.fixed = s.fixed := by
  unfold idLeaf at h
  split at h
  · split at h
    · cases h; rfl
    · split at h
      · cases h; rw [fixed_mk, fixed_eta, fixed_reserveBlock]
      · cases h
  · dsimp only at h
    split at h
    · cases h; rw [fixed_mk, fixed_eta, fixed_reserveBlock]
    · cases h

theorem fixed_attestGo (s : State) {x1} : (attestGo s x1).fixed = s.fixed := by
  unfold attestGo
  simp only [fixed_ite, ite_self, fixed_badWrite, fixed_modFn]

theorem fixed_endQuote (s : State) {x1} {x2} : (endQuote s x1 x2).fixed = s.fixed := by
  unfold endQuote
  simp only [fixed_mk, fixed_eta, fixed_modFn, fixed_raiseEvent]

theorem fixed_serveQuote (s : State) {fn} {ok} : (serveQuote s fn ok).fixed = s.fixed := by
  unfold serveQuote
  dsimp only
  split
  · rw [fixed_endQuote]
  · split
    · rw [fixed_endQuote]
    · rename_i h
      split
      · rw [fixed_endQuote, fixed_hostWrite, fixed_mk, fixed_eta, fixed_takeLeaf s h]
      · rw [fixed_endQuote, fixed_mk, fixed_eta, fixed_takeLeaf s h]

theorem fixed_startUpdate (s : State) {x1} : (startUpdate s x1).fixed = s.fixed := by
  unfold startUpdate
  simp only [fixed_mk, fixed_eta, fixed_ite, ite_self, fixed_badWrite, fixed_hostRead]

theorem fixed_endUpdate (s : State) {x1} : (endUpdate s x1).fixed = s.fixed := by
  unfold endUpdate
  simp only [fixed_mk, fixed_eta]

theorem fixed_putSlot (s : State) {x1} : (putSlot s x1).fixed = s.fixed := by
  unfold putSlot
  simp only [fixed_mk, fixed_eta]

theorem fixed_stageImage (s : State) {x1} {x2} : (stageImage s x1 x2).fixed = s.fixed := by
  unfold stageImage
  repeat' (first | (simp only [fixed_mk, fixed_eta, fixed_ite, ite_self, fixed_endUpdate, fixed_putSlot, fixed_bootImage]; done) | (with_reducible refine fixed_foldl _ _ _ _ ?_ ?_) | (intro _ _) | split | (simp only [fixed_mk, fixed_eta, fixed_ite, ite_self, fixed_endUpdate, fixed_putSlot, fixed_bootImage]))

theorem fixed_stageBlob (s : State) {x1} {x2} : (stageBlob s x1 x2).fixed = s.fixed := by
  unfold stageBlob
  simp only [fixed_mk, fixed_eta, fixed_ite, ite_self, fixed_endUpdate]

theorem fixed_applyRegion (s : State) {x1} : (applyRegion s x1).fixed = s.fixed := by
  unfold applyRegion
  repeat' (first | (simp only [fixed_mk, fixed_eta, fixed_ite, ite_self, fixed_badWrite, fixed_endUpdate, fixed_measure, fixed_modRegion]; done) | (with_reducible refine fixed_foldl _ _ _ _ ?_ ?_) | (intro _ _) | split | (simp only [fixed_mk, fixed_eta, fixed_ite, ite_self, fixed_badWrite, fixed_endUpdate, fixed_measure, fixed_modRegion]))

theorem fixed_raiseFloor (s : State) {x1} : (raiseFloor s x1).fixed = s.fixed := by
  unfold raiseFloor
  simp only [fixed_mk, fixed_eta]

theorem fixed_confirmFloor (s : State)  : (confirmFloor s).fixed = s.fixed := by
  unfold confirmFloor
  repeat' (first | (simp only [fixed_mk, fixed_eta, fixed_ite, ite_self, fixed_badWrite, fixed_endUpdate, fixed_raiseFloor]; done) | (with_reducible refine fixed_foldl _ _ _ _ ?_ ?_) | (intro _ _) | split | (simp only [fixed_mk, fixed_eta, fixed_ite, ite_self, fixed_badWrite, fixed_endUpdate, fixed_raiseFloor]))

theorem fixed_switchover (s : State) {x1} : (switchover s x1).fixed = s.fixed := by
  unfold switchover
  simp only [fixed_mk, fixed_eta, fixed_ite, ite_self, fixed_logHealth, fixed_chipCnt]

theorem fixed_loadRegion (s : State) {x1} : (loadRegion s x1).fixed = s.fixed := by
  unfold loadRegion
  simp only [fixed_measure, fixed_modRegion]

theorem fixed_endFirstLight (s : State) {x1} : (endFirstLight s x1).fixed = s.fixed := by
  unfold endFirstLight
  simp only [fixed_ite, ite_self, fixed_modTrack]

theorem fixed_s5Row (s : State) {x1} : (s5Row s x1).fixed = s.fixed := by
  unfold s5Row
  simp only [fixed_marchFail]

theorem fixed_s5Region (s : State) {x0} {x2} : (s5Region x0 s x2).fixed = s.fixed := by
  unfold s5Region
  repeat' (first | (simp only [fixed_ite, fixed_regionError, fixed_failTile]; done) | (with_reducible refine fixed_foldl _ _ _ _ ?_ ?_) | (intro _ _) | split | (simp only [fixed_ite, fixed_regionError, fixed_failTile]))

theorem fixed_resetJob (s : State) {x1} : (resetJob s x1).fixed = s.fixed := by
  unfold resetJob
  split <;> simp only [fixed_ite, ite_self, fixed_modJob, fixed_failJob]

theorem fixed_abandonLoad (s : State)  : (abandonLoad s).fixed = s.fixed := by
  unfold abandonLoad
  repeat' (first | (simp only [fixed_mk, fixed_eta, fixed_ite, ite_self, fixed_dropPlan]; done) | (with_reducible refine fixed_foldl _ _ _ _ ?_ ?_) | (intro _ _) | split | (simp only [fixed_mk, fixed_eta, fixed_ite, ite_self, fixed_dropPlan]))

theorem fixed_dropHostPosts (s : State) {x1} : (dropHostPosts s x1).fixed = s.fixed := by
  unfold dropHostPosts
  simp only [fixed_mk, fixed_eta, fixed_basketMarks]

theorem fixed_resetFunction (s : State) {x1} : (resetFunction s x1).fixed = s.fixed := by
  unfold resetFunction
  repeat' (first | (simp only [fixed_mk, fixed_eta, fixed_ite, ite_self, fixed_stopPair, fixed_abandonFolds, fixed_modRing, fixed_dropHostPosts, fixed_resetJob, fixed_startLoad, fixed_abandonLoad, fixed_setPeg, fixed_dropSnapshots, fixed_serveImages, fixed_modFn]; done) | (with_reducible refine fixed_foldl _ _ _ _ ?_ ?_) | (intro _ _) | split | (simp only [fixed_mk, fixed_eta, fixed_ite, ite_self, fixed_stopPair, fixed_abandonFolds, fixed_modRing, fixed_dropHostPosts, fixed_resetJob, fixed_startLoad, fixed_abandonLoad, fixed_setPeg, fixed_dropSnapshots, fixed_serveImages, fixed_modFn]))

theorem fixed_disableVf (s : State) {x1} : (disableVf s x1).fixed = s.fixed := by
  unfold disableVf
  simp only [fixed_resetFunction, fixed_modFn]

theorem fixed_resetHostInterface (s : State)  : (resetHostInterface s).fixed = s.fixed := by
  unfold resetHostInterface
  repeat' (first | (simp only [fixed_ite, ite_self, fixed_disableVf, fixed_regSet, fixed_resetFunction]; done) | (with_reducible refine fixed_foldl _ _ _ _ ?_ ?_) | (intro _ _) | split | (simp only [fixed_ite, ite_self, fixed_disableVf, fixed_regSet, fixed_resetFunction]))

theorem fixed_writeVfEnable (s : State) {x1} : (writeVfEnable s x1).fixed = s.fixed := by
  unfold writeVfEnable
  repeat' (first | (simp only [fixed_ite, ite_self, fixed_disableVf, fixed_modFn, fixed_regSet]; done) | (with_reducible refine fixed_foldl _ _ _ _ ?_ ?_) | (intro _ _) | split | (simp only [fixed_ite, ite_self, fixed_disableVf, fixed_modFn, fixed_regSet]))

theorem fixed_clearOverrate (s : State) {x1} : (clearOverrate s x1).fixed = s.fixed := by
  unfold clearOverrate
  simp only [fixed_modPort]

theorem fixed_clearUnexpected (s : State) {x1} : (clearUnexpected s x1).fixed = s.fixed := by
  unfold clearUnexpected
  simp only [fixed_modPort]

theorem fixed_setupGo (s : State) {x1} : (setupGo s x1).fixed = s.fixed := by
  unfold setupGo
  simp only [fixed_ite, ite_self, fixed_badWrite, fixed_modPort, fixed_emit]

theorem fixed_enableLog (s : State)  : (enableLog s).fixed = s.fixed := by
  unfold enableLog
  simp only [fixed_mk, fixed_eta, fixed_ite, ite_self]

theorem fixed_unmaskVec (s : State) {x1} {x2} : (unmaskVec s x1 x2).fixed = s.fixed := by
  unfold unmaskVec
  simp only [fixed_ite, ite_self, fixed_regSet, fixed_modFn, fixed_emit]

theorem fixed_maskVec (s : State) {x1} {x2} : (maskVec s x1 x2).fixed = s.fixed := by
  unfold maskVec
  simp only [fixed_regSet, fixed_modFn]

theorem fixed_writePlain (s : State) {x1} {x2} {x3} {x4} : (writePlain s x1 x2 x3 x4).fixed = s.fixed := by
  unfold writePlain
  simp only [fixed_ite, ite_self, fixed_regSet, fixed_basketMarks, fixed_badWrite]

theorem fixed_writeSetup (s : State) {x1} {x2} {x3} {x4} {x5} : (writeSetup s x1 x2 x3 x4 x5).fixed = s.fixed := by
  unfold writeSetup
  simp only [fixed_ite, ite_self, fixed_badWrite, fixed_regSet, fixed_setupGo]

theorem fixed_writeTwinCfg (s : State) {x1} : (writeTwinCfg s x1).fixed = s.fixed := by
  unfold writeTwinCfg
  simp only [fixed_ite, ite_self, fixed_badWrite, fixed_setTwinEnable, fixed_regSet]

theorem fixed_writeTwinStatus (s : State) {x1} : (writeTwinStatus s x1).fixed = s.fixed := by
  unfold writeTwinStatus
  simp only [fixed_mk, fixed_eta, fixed_ite, ite_self, fixed_badWrite, fixed_clearFence, fixed_clearTakeover]

theorem fixed_writeUpdate (s : State) {x1} : (writeUpdate s x1).fixed = s.fixed := by
  unfold writeUpdate
  simp only [fixed_ite, ite_self, fixed_badWrite, fixed_startUpdate, fixed_applyRegion, fixed_confirmFloor]

theorem fixed_writeRegions (s : State) {x1} : (writeRegions s x1).fixed = s.fixed := by
  unfold writeRegions
  simp only [fixed_ite, ite_self, fixed_badWrite, fixed_drainRegions, fixed_serveRegions]

theorem fixed_noteHold (s : State) {x1} : (noteHold s x1).fixed = s.fixed := by
  unfold noteHold
  simp only [fixed_ite, ite_self, fixed_modTrack]

end Sys2Proof.Machine
end

