-- ==== Sys2Proof/Laws/Commands.lean ====
section
/-! SUPPORT. What each command does to the queue, the bring-up stage and the verdict table: most leave all three; resets, bring-up commands, register writes and the commit
of a fold move them as `moves` says. `exec_moves` gathers them. -/

set_option Elab.async false

set_option linter.unusedSimpArgs false
set_option linter.unreachableTactic false
set_option linter.unusedTactic false
set_option linter.unnecessarySeqFocus false

namespace Sys2Proof.Machine

open Sys2Proof

/-- The outcome is a next state with the same queue, stage and verdict table. -/
def staysNext (s : State) (o : Host.Outcome State Fault Refusal) : Prop := ∃ t, o = .next t ∧ t.fixed = s.fixed

/-- A next state that leaves what is fixed. -/
theorem staysNext_of {s t : State} (h : t.fixed = s.fixed) : staysNext s (.next t) := ⟨t, rfl, h⟩

theorem cmd_reservationMove (t : Track) (s : State) : staysNext s (execReservationMove t s) := by
  unfold execReservationMove
  split
  · exact staysNext_of rfl
  · refine staysNext_of ?_
    rw [fixed_settleDrains]
    refine fixed_foldl _ _ _ _ rfl ?_
    intro s p
    split
    · cases h : moveReservation s p with
      | none => rfl
      | some u => exact fixed_moveReservation s h
    · rfl

theorem cmd_scanDisarmGap (t : Track) (s : State) : staysNext s (execScanDisarmGap t s) := by
  unfold execScanDisarmGap
  first
    | (with_reducible refine staysNext_of ?_; simp only [fixed_mk, fixed_eta, fixed_ite, ite_self, fixed_modTrack]; done)
    | (repeat' (first | (with_reducible refine staysNext_of ?_) | split | dsimp only)) <;>
      repeat' (first | (with_reducible rfl) | (simp only [fixed_mk, fixed_eta, fixed_ite, ite_self, fixed_modTrack]; done) | (with_reducible refine fixed_foldl _ _ _ _ ?_ ?_) | (intro _ _) | split | (simp only [fixed_mk, fixed_eta, fixed_ite, ite_self, fixed_modTrack]))

theorem cmd_scanDisarmEffect (t : Track) (s : State) : staysNext s (execScanDisarmEffect t s) := by
  unfold execScanDisarmEffect
  first
    | (with_reducible refine staysNext_of ?_; simp only [fixed_mk, fixed_eta, fixed_ite, ite_self, fixed_disarmTrack]; done)
    | (repeat' (first | (with_reducible refine staysNext_of ?_) | split | dsimp only)) <;>
      repeat' (first | (with_reducible rfl) | (simp only [fixed_mk, fixed_eta, fixed_ite, ite_self, fixed_disarmTrack]; done) | (with_reducible refine fixed_foldl _ _ _ _ ?_ ?_) | (intro _ _) | split | (simp only [fixed_mk, fixed_eta, fixed_ite, ite_self, fixed_disarmTrack]))

theorem cmd_batchStepStart (plan : Nat) (s : State) : staysNext s (execBatchStepStart plan s) := by
  unfold execBatchStepStart
  first
    | (with_reducible refine staysNext_of ?_; simp only [fixed_mk, fixed_eta, fixed_ite, ite_self, fixed_foldl, fixed_moveFinal, fixed_takeSeqJob, fixed_settle, fixed_startStep]; done)
    | (repeat' (first | (with_reducible refine staysNext_of ?_) | split | dsimp only)) <;>
      repeat' (first | (with_reducible rfl) | (simp only [fixed_mk, fixed_eta, fixed_ite, ite_self, fixed_foldl, fixed_moveFinal, fixed_takeSeqJob, fixed_settle, fixed_startStep]; done) | (with_reducible refine fixed_foldl _ _ _ _ ?_ ?_) | (intro _ _) | split | (simp only [fixed_mk, fixed_eta, fixed_ite, ite_self, fixed_foldl, fixed_moveFinal, fixed_takeSeqJob, fixed_settle, fixed_startStep]))

theorem cmd_stagingGrant (s : State) : staysNext s (execStagingGrant s) := by
  unfold execStagingGrant
  first
    | (with_reducible refine staysNext_of ?_; simp only [fixed_mk, fixed_eta, fixed_ite, ite_self, fixed_serveImages]; done)
    | (repeat' (first | (with_reducible refine staysNext_of ?_) | split | dsimp only)) <;>
      repeat' (first | (with_reducible rfl) | (simp only [fixed_mk, fixed_eta, fixed_ite, ite_self, fixed_serveImages]; done) | (with_reducible refine fixed_foldl _ _ _ _ ?_ ?_) | (intro _ _) | split | (simp only [fixed_mk, fixed_eta, fixed_ite, ite_self, fixed_serveImages]))

theorem cmd_codecDecodeDone (engine : Fin 8) (res : DecodeResult) (s : State) : staysNext s (execCodecDecodeDone engine res s) := by
  unfold execCodecDecodeDone
  first
    | (with_reducible refine staysNext_of ?_; simp only [fixed_mk, fixed_eta, fixed_ite, ite_self, fixed_setEngine, fixed_serveImages, fixed_imageDecoded, fixed_countCodec, fixed_sampleDecoded]; done)
    | (repeat' (first | (with_reducible refine staysNext_of ?_) | split | dsimp only)) <;>
      repeat' (first | (with_reducible rfl) | (simp only [fixed_mk, fixed_eta, fixed_ite, ite_self, fixed_setEngine, fixed_serveImages, fixed_imageDecoded, fixed_countCodec, fixed_sampleDecoded]; done) | (with_reducible refine fixed_foldl _ _ _ _ ?_ ?_) | (intro _ _) | split | (simp only [fixed_mk, fixed_eta, fixed_ite, ite_self, fixed_setEngine, fixed_serveImages, fixed_imageDecoded, fixed_countCodec, fixed_sampleDecoded]))

theorem cmd_codecEncodeDone (engine : Fin 8) (stream : List Byte) (s : State) : staysNext s (execCodecEncodeDone engine stream s) := by
  unfold execCodecEncodeDone
  first
    | (with_reducible refine staysNext_of ?_; simp only [fixed_mk, fixed_eta, fixed_ite, ite_self, fixed_sideEncoded, fixed_serveImages, fixed_hostEncoded, fixed_setEngine]; done)
    | (repeat' (first | (with_reducible refine staysNext_of ?_) | split | dsimp only)) <;>
      repeat' (first | (with_reducible rfl) | (simp only [fixed_mk, fixed_eta, fixed_ite, ite_self, fixed_sideEncoded, fixed_serveImages, fixed_hostEncoded, fixed_setEngine]; done) | (with_reducible refine fixed_foldl _ _ _ _ ?_ ?_) | (intro _ _) | split | (simp only [fixed_mk, fixed_eta, fixed_ite, ite_self, fixed_sideEncoded, fixed_serveImages, fixed_hostEncoded, fixed_setEngine]))

theorem cmd_snapshotCapture (bank : Fin 2) (s : State) : staysNext s (execSnapshotCapture bank s) := by
  unfold execSnapshotCapture
  first
    | (with_reducible refine staysNext_of ?_; simp only [fixed_mk, fixed_eta, fixed_ite, ite_self, fixed_passUntil, fixed_setBank]; done)
    | (repeat' (first | (with_reducible refine staysNext_of ?_) | split | dsimp only)) <;>
      repeat' (first | (with_reducible rfl) | (simp only [fixed_mk, fixed_eta, fixed_ite, ite_self, fixed_passUntil, fixed_setBank]; done) | (with_reducible refine fixed_foldl _ _ _ _ ?_ ?_) | (intro _ _) | split | (simp only [fixed_mk, fixed_eta, fixed_ite, ite_self, fixed_passUntil, fixed_setBank]))

theorem cmd_snapshotGatherDone (bank : Fin 2) (s : State) : staysNext s (execSnapshotGatherDone bank s) := by
  unfold execSnapshotGatherDone
  first
    | (with_reducible refine staysNext_of ?_; simp only [fixed_mk, fixed_eta, fixed_ite, ite_self, fixed_foldl, fixed_complete, fixed_hostWrite, fixed_setBank]; done)
    | (repeat' (first | (with_reducible refine staysNext_of ?_) | split | dsimp only)) <;>
      repeat' (first | (with_reducible rfl) | (simp only [fixed_mk, fixed_eta, fixed_ite, ite_self, fixed_foldl, fixed_complete, fixed_hostWrite, fixed_setBank]; done) | (with_reducible refine fixed_foldl _ _ _ _ ?_ ?_) | (intro _ _) | split | (simp only [fixed_mk, fixed_eta, fixed_ite, ite_self, fixed_foldl, fixed_complete, fixed_hostWrite, fixed_setBank]))

theorem cmd_descriptorFetched (i : RingId) (bytes aux : List Byte) (s : State) : staysNext s (execDescriptorFetched i bytes aux s) := by
  unfold execDescriptorFetched
  first
    | (with_reducible refine staysNext_of ?_; simp only [fixed_mk, fixed_eta, fixed_ite, ite_self, fixed_takeDesc]; done)
    | (repeat' (first | (with_reducible refine staysNext_of ?_) | split | dsimp only)) <;>
      repeat' (first | (with_reducible rfl) | (simp only [fixed_mk, fixed_eta, fixed_ite, ite_self, fixed_takeDesc]; done) | (with_reducible refine fixed_foldl _ _ _ _ ?_ ?_) | (intro _ _) | split | (simp only [fixed_mk, fixed_eta, fixed_ite, ite_self, fixed_takeDesc]))

theorem cmd_nop (r : RingId) (h : Hdr) (s : State) : staysNext s (execNop r h s) := by
  unfold execNop
  first
    | (with_reducible refine staysNext_of ?_; simp only [fixed_mk, fixed_eta, fixed_ite, ite_self, fixed_submit]; done)
    | (repeat' (first | (with_reducible refine staysNext_of ?_) | split | dsimp only)) <;>
      repeat' (first | (with_reducible rfl) | (simp only [fixed_mk, fixed_eta, fixed_ite, ite_self, fixed_submit]; done) | (with_reducible refine fixed_foldl _ _ _ _ ?_ ?_) | (intro _ _) | split | (simp only [fixed_mk, fixed_eta, fixed_ite, ite_self, fixed_submit]))

theorem cmd_scanArm (r : RingId) (h : Hdr) (o : ScanArmOp) (s : State) : staysNext s (execScanArm r h o s) := by
  unfold execScanArm
  first
    | (with_reducible refine staysNext_of ?_; simp only [fixed_mk, fixed_eta, fixed_ite, ite_self, fixed_submit]; done)
    | (repeat' (first | (with_reducible refine staysNext_of ?_) | split | dsimp only)) <;>
      repeat' (first | (with_reducible rfl) | (simp only [fixed_mk, fixed_eta, fixed_ite, ite_self, fixed_submit]; done) | (with_reducible refine fixed_foldl _ _ _ _ ?_ ?_) | (intro _ _) | split | (simp only [fixed_mk, fixed_eta, fixed_ite, ite_self, fixed_submit]))

theorem cmd_scanDisarm (r : RingId) (h : Hdr) (track : Nat) (s : State) : staysNext s (execScanDisarm r h track s) := by
  unfold execScanDisarm
  first
    | (with_reducible refine staysNext_of ?_; simp only [fixed_mk, fixed_eta, fixed_ite, ite_self, fixed_submit]; done)
    | (repeat' (first | (with_reducible refine staysNext_of ?_) | split | dsimp only)) <;>
      repeat' (first | (with_reducible rfl) | (simp only [fixed_mk, fixed_eta, fixed_ite, ite_self, fixed_submit]; done) | (with_reducible refine fixed_foldl _ _ _ _ ?_ ?_) | (intro _ _) | split | (simp only [fixed_mk, fixed_eta, fixed_ite, ite_self, fixed_submit]))

theorem cmd_calRun (r : RingId) (h : Hdr) (o : CalRunOp) (s : State) : staysNext s (execCalRun r h o s) := by
  unfold execCalRun
  first
    | (with_reducible refine staysNext_of ?_; simp only [fixed_mk, fixed_eta, fixed_ite, ite_self, fixed_submit]; done)
    | (repeat' (first | (with_reducible refine staysNext_of ?_) | split | dsimp only)) <;>
      repeat' (first | (with_reducible rfl) | (simp only [fixed_mk, fixed_eta, fixed_ite, ite_self, fixed_submit]; done) | (with_reducible refine fixed_foldl _ _ _ _ ?_ ?_) | (intro _ _) | split | (simp only [fixed_mk, fixed_eta, fixed_ite, ite_self, fixed_submit]))

theorem cmd_imageRead (r : RingId) (h : Hdr) (o : ImageReadOp) (aux : List Byte) (s : State) : staysNext s (execImageRead r h o aux s) := by
  unfold execImageRead
  first
    | (with_reducible refine staysNext_of ?_; simp only [fixed_mk, fixed_eta, fixed_ite, ite_self, fixed_submit]; done)
    | (repeat' (first | (with_reducible refine staysNext_of ?_) | split | dsimp only)) <;>
      repeat' (first | (with_reducible rfl) | (simp only [fixed_mk, fixed_eta, fixed_ite, ite_self, fixed_submit]; done) | (with_reducible refine fixed_foldl _ _ _ _ ?_ ?_) | (intro _ _) | split | (simp only [fixed_mk, fixed_eta, fixed_ite, ite_self, fixed_submit]))

theorem cmd_seqStep (r : RingId) (h : Hdr) (o : SeqStepOp) (aux : List Byte) (s : State) : staysNext s (execSeqStep r h o aux s) := by
  unfold execSeqStep
  first
    | (with_reducible refine staysNext_of ?_; simp only [fixed_mk, fixed_eta, fixed_ite, ite_self, fixed_submit]; done)
    | (repeat' (first | (with_reducible refine staysNext_of ?_) | split | dsimp only)) <;>
      repeat' (first | (with_reducible rfl) | (simp only [fixed_mk, fixed_eta, fixed_ite, ite_self, fixed_submit]; done) | (with_reducible refine fixed_foldl _ _ _ _ ?_ ?_) | (intro _ _) | split | (simp only [fixed_mk, fixed_eta, fixed_ite, ite_self, fixed_submit]))

theorem cmd_tailorStep (r : RingId) (h : Hdr) (o : TailorStepOp) (aux : List Byte) (s : State) : staysNext s (execTailorStep r h o aux s) := by
  unfold execTailorStep
  first
    | (with_reducible refine staysNext_of ?_; simp only [fixed_mk, fixed_eta, fixed_ite, ite_self, fixed_submit]; done)
    | (repeat' (first | (with_reducible refine staysNext_of ?_) | split | dsimp only)) <;>
      repeat' (first | (with_reducible rfl) | (simp only [fixed_mk, fixed_eta, fixed_ite, ite_self, fixed_submit]; done) | (with_reducible refine fixed_foldl _ _ _ _ ?_ ?_) | (intro _ _) | split | (simp only [fixed_mk, fixed_eta, fixed_ite, ite_self, fixed_submit]))

theorem cmd_planLoad (r : RingId) (h : Hdr) (o : PlanLoadOp) (s : State) : staysNext s (execPlanLoad r h o s) := by
  unfold execPlanLoad
  first
    | (with_reducible refine staysNext_of ?_; simp only [fixed_mk, fixed_eta, fixed_ite, ite_self, fixed_submit]; done)
    | (repeat' (first | (with_reducible refine staysNext_of ?_) | split | dsimp only)) <;>
      repeat' (first | (with_reducible rfl) | (simp only [fixed_mk, fixed_eta, fixed_ite, ite_self, fixed_submit]; done) | (with_reducible refine fixed_foldl _ _ _ _ ?_ ?_) | (intro _ _) | split | (simp only [fixed_mk, fixed_eta, fixed_ite, ite_self, fixed_submit]))

theorem cmd_planUnload (r : RingId) (h : Hdr) (plan : Nat) (s : State) : staysNext s (execPlanUnload r h plan s) := by
  unfold execPlanUnload
  first
    | (with_reducible refine staysNext_of ?_; simp only [fixed_mk, fixed_eta, fixed_ite, ite_self, fixed_submit]; done)
    | (repeat' (first | (with_reducible refine staysNext_of ?_) | split | dsimp only)) <;>
      repeat' (first | (with_reducible rfl) | (simp only [fixed_mk, fixed_eta, fixed_ite, ite_self, fixed_submit]; done) | (with_reducible refine fixed_foldl _ _ _ _ ?_ ?_) | (intro _ _) | split | (simp only [fixed_mk, fixed_eta, fixed_ite, ite_self, fixed_submit]))

theorem cmd_wardrobePin (r : RingId) (h : Hdr) (o : WardrobePinOp) (s : State) : staysNext s (execWardrobePin r h o s) := by
  unfold execWardrobePin
  first
    | (with_reducible refine staysNext_of ?_; simp only [fixed_mk, fixed_eta, fixed_ite, ite_self, fixed_submit]; done)
    | (repeat' (first | (with_reducible refine staysNext_of ?_) | split | dsimp only)) <;>
      repeat' (first | (with_reducible rfl) | (simp only [fixed_mk, fixed_eta, fixed_ite, ite_self, fixed_submit]; done) | (with_reducible refine fixed_foldl _ _ _ _ ?_ ?_) | (intro _ _) | split | (simp only [fixed_mk, fixed_eta, fixed_ite, ite_self, fixed_submit]))

theorem cmd_ptEdit (r : RingId) (h : Hdr) (o : PtEditOp) (s : State) : staysNext s (execPtEdit r h o s) := by
  unfold execPtEdit
  first
    | (with_reducible refine staysNext_of ?_; simp only [fixed_mk, fixed_eta, fixed_ite, ite_self, fixed_submit]; done)
    | (repeat' (first | (with_reducible refine staysNext_of ?_) | split | dsimp only)) <;>
      repeat' (first | (with_reducible rfl) | (simp only [fixed_mk, fixed_eta, fixed_ite, ite_self, fixed_submit]; done) | (with_reducible refine fixed_foldl _ _ _ _ ?_ ?_) | (intro _ _) | split | (simp only [fixed_mk, fixed_eta, fixed_ite, ite_self, fixed_submit]))

theorem cmd_pegWait (r : RingId) (h : Hdr) (o : PegWaitOp) (s : State) : staysNext s (execPegWait r h o s) := by
  unfold execPegWait
  first
    | (with_reducible refine staysNext_of ?_; simp only [fixed_mk, fixed_eta, fixed_ite, ite_self, fixed_submit]; done)
    | (repeat' (first | (with_reducible refine staysNext_of ?_) | split | dsimp only)) <;>
      repeat' (first | (with_reducible rfl) | (simp only [fixed_mk, fixed_eta, fixed_ite, ite_self, fixed_submit]; done) | (with_reducible refine fixed_foldl _ _ _ _ ?_ ?_) | (intro _ _) | split | (simp only [fixed_mk, fixed_eta, fixed_ite, ite_self, fixed_submit]))

theorem cmd_pegWaitTimeout (i : RingId) (s : State) : staysNext s (execPegWaitTimeout i s) := by
  unfold execPegWaitTimeout
  first
    | (with_reducible refine staysNext_of ?_; simp only [fixed_mk, fixed_eta, fixed_ite, ite_self, fixed_pumpAll, fixed_pegArbitrate, fixed_passUntil]; done)
    | (repeat' (first | (with_reducible refine staysNext_of ?_) | split | dsimp only)) <;>
      repeat' (first | (with_reducible rfl) | (simp only [fixed_mk, fixed_eta, fixed_ite, ite_self, fixed_pumpAll, fixed_pegArbitrate, fixed_passUntil]; done) | (with_reducible refine fixed_foldl _ _ _ _ ?_ ?_) | (intro _ _) | split | (simp only [fixed_mk, fixed_eta, fixed_ite, ite_self, fixed_pumpAll, fixed_pegArbitrate, fixed_passUntil]))

theorem cmd_pegSignal (r : RingId) (h : Hdr) (o : PegSignalOp) (s : State) : staysNext s (execPegSignal r h o s) := by
  unfold execPegSignal
  first
    | (with_reducible refine staysNext_of ?_; simp only [fixed_mk, fixed_eta, fixed_ite, ite_self, fixed_submit]; done)
    | (repeat' (first | (with_reducible refine staysNext_of ?_) | split | dsimp only)) <;>
      repeat' (first | (with_reducible rfl) | (simp only [fixed_mk, fixed_eta, fixed_ite, ite_self, fixed_submit]; done) | (with_reducible refine fixed_foldl _ _ _ _ ?_ ?_) | (intro _ _) | split | (simp only [fixed_mk, fixed_eta, fixed_ite, ite_self, fixed_submit]))

theorem cmd_foldOpen (r : RingId) (h : Hdr) (s : State) : staysNext s (execFoldOpen r h s) := by
  unfold execFoldOpen
  first
    | (with_reducible refine staysNext_of ?_; simp only [fixed_mk, fixed_eta, fixed_ite, ite_self, fixed_submit]; done)
    | (repeat' (first | (with_reducible refine staysNext_of ?_) | split | dsimp only)) <;>
      repeat' (first | (with_reducible rfl) | (simp only [fixed_mk, fixed_eta, fixed_ite, ite_self, fixed_submit]; done) | (with_reducible refine fixed_foldl _ _ _ _ ?_ ?_) | (intro _ _) | split | (simp only [fixed_mk, fixed_eta, fixed_ite, ite_self, fixed_submit]))

theorem cmd_foldClose (r : RingId) (h : Hdr) (flags : Nat) (s : State) : staysNext s (execFoldClose r h flags s) := by
  unfold execFoldClose
  first
    | (with_reducible refine staysNext_of ?_; simp only [fixed_mk, fixed_eta, fixed_ite, ite_self, fixed_submit]; done)
    | (repeat' (first | (with_reducible refine staysNext_of ?_) | split | dsimp only)) <;>
      repeat' (first | (with_reducible rfl) | (simp only [fixed_mk, fixed_eta, fixed_ite, ite_self, fixed_submit]; done) | (with_reducible refine fixed_foldl _ _ _ _ ?_ ?_) | (intro _ _) | split | (simp only [fixed_mk, fixed_eta, fixed_ite, ite_self, fixed_submit]))

theorem cmd_snapshot (r : RingId) (h : Hdr) (o : SnapshotOp) (s : State) : staysNext s (execSnapshot r h o s) := by
  unfold execSnapshot
  first
    | (with_reducible refine staysNext_of ?_; simp only [fixed_mk, fixed_eta, fixed_ite, ite_self, fixed_submit]; done)
    | (repeat' (first | (with_reducible refine staysNext_of ?_) | split | dsimp only)) <;>
      repeat' (first | (with_reducible rfl) | (simp only [fixed_mk, fixed_eta, fixed_ite, ite_self, fixed_submit]; done) | (with_reducible refine fixed_foldl _ _ _ _ ?_ ?_) | (intro _ _) | split | (simp only [fixed_mk, fixed_eta, fixed_ite, ite_self, fixed_submit]))

theorem cmd_windowOpen (r : RingId) (h : Hdr) (o : WindowOpenOp) (s : State) : staysNext s (execWindowOpen r h o s) := by
  unfold execWindowOpen
  first
    | (with_reducible refine staysNext_of ?_; simp only [fixed_mk, fixed_eta, fixed_ite, ite_self, fixed_submit]; done)
    | (repeat' (first | (with_reducible refine staysNext_of ?_) | split | dsimp only)) <;>
      repeat' (first | (with_reducible rfl) | (simp only [fixed_mk, fixed_eta, fixed_ite, ite_self, fixed_submit]; done) | (with_reducible refine fixed_foldl _ _ _ _ ?_ ?_) | (intro _ _) | split | (simp only [fixed_mk, fixed_eta, fixed_ite, ite_self, fixed_submit]))

theorem cmd_windowClose (r : RingId) (h : Hdr) (win : Nat) (s : State) : staysNext s (execWindowClose r h win s) := by
  unfold execWindowClose
  first
    | (with_reducible refine staysNext_of ?_; simp only [fixed_mk, fixed_eta, fixed_ite, ite_self, fixed_submit]; done)
    | (repeat' (first | (with_reducible refine staysNext_of ?_) | split | dsimp only)) <;>
      repeat' (first | (with_reducible rfl) | (simp only [fixed_mk, fixed_eta, fixed_ite, ite_self, fixed_submit]; done) | (with_reducible refine fixed_foldl _ _ _ _ ?_ ?_) | (intro _ _) | split | (simp only [fixed_mk, fixed_eta, fixed_ite, ite_self, fixed_submit]))

theorem cmd_twinDma (r : RingId) (h : Hdr) (o : TwinDmaOp) (aux : List Byte) (s : State) : staysNext s (execTwinDma r h o aux s) := by
  unfold execTwinDma
  first
    | (with_reducible refine staysNext_of ?_; simp only [fixed_mk, fixed_eta, fixed_ite, ite_self, fixed_submit]; done)
    | (repeat' (first | (with_reducible refine staysNext_of ?_) | split | dsimp only)) <;>
      repeat' (first | (with_reducible rfl) | (simp only [fixed_mk, fixed_eta, fixed_ite, ite_self, fixed_submit]; done) | (with_reducible refine fixed_foldl _ _ _ _ ?_ ?_) | (intro _ _) | split | (simp only [fixed_mk, fixed_eta, fixed_ite, ite_self, fixed_submit]))

theorem cmd_testRun (r : RingId) (h : Hdr) (o : TestRunOp) (s : State) : staysNext s (execTestRun r h o s) := by
  unfold execTestRun
  first
    | (with_reducible refine staysNext_of ?_; simp only [fixed_mk, fixed_eta, fixed_ite, ite_self, fixed_submit]; done)
    | (repeat' (first | (with_reducible refine staysNext_of ?_) | split | dsimp only)) <;>
      repeat' (first | (with_reducible rfl) | (simp only [fixed_mk, fixed_eta, fixed_ite, ite_self, fixed_submit]; done) | (with_reducible refine fixed_foldl _ _ _ _ ?_ ?_) | (intro _ _) | split | (simp only [fixed_mk, fixed_eta, fixed_ite, ite_self, fixed_submit]))

theorem cmd_dictLoad (s : State) : staysNext s (execDictLoad s) := by
  unfold execDictLoad
  first
    | (with_reducible refine staysNext_of ?_; simp only [fixed_mk, fixed_eta, fixed_ite, ite_self, fixed_dictStart]; done)
    | (repeat' (first | (with_reducible refine staysNext_of ?_) | split | dsimp only)) <;>
      repeat' (first | (with_reducible rfl) | (simp only [fixed_mk, fixed_eta, fixed_ite, ite_self, fixed_dictStart]; done) | (with_reducible refine fixed_foldl _ _ _ _ ?_ ?_) | (intro _ _) | split | (simp only [fixed_mk, fixed_eta, fixed_ite, ite_self, fixed_dictStart]))

theorem cmd_dictLoadDone (bytes : Option (List Byte)) (s : State) : staysNext s (execDictLoadDone bytes s) := by
  unfold execDictLoadDone
  first
    | (with_reducible refine staysNext_of ?_; simp only [fixed_mk, fixed_eta, fixed_ite, ite_self, fixed_dictEnd, fixed_dictPlace]; done)
    | (repeat' (first | (with_reducible refine staysNext_of ?_) | split | dsimp only)) <;>
      repeat' (first | (with_reducible rfl) | (simp only [fixed_mk, fixed_eta, fixed_ite, ite_self, fixed_dictEnd, fixed_dictPlace]; done) | (with_reducible refine fixed_foldl _ _ _ _ ?_ ?_) | (intro _ _) | split | (simp only [fixed_mk, fixed_eta, fixed_ite, ite_self, fixed_dictEnd, fixed_dictPlace]))

theorem cmd_segmentBoundary (w : SegWork) (s : State) : staysNext s (execSegmentBoundary w s) := by
  unfold execSegmentBoundary
  (repeat' (first | (with_reducible refine staysNext_of ?_) | split | dsimp only)) <;>
    repeat' (first | (with_reducible rfl) | (simp only [fixed_mk, fixed_eta, fixed_ite, ite_self, fixed_settle, fixed_testSegment, fixed_finishTest, fixed_substituteDue, fixed_lastRites, fixed_runSegment]; done) | (with_reducible refine fixed_foldl _ _ _ _ ?_ ?_) | (intro _ _) | split | (simp only [fixed_mk, fixed_eta, fixed_ite, ite_self, fixed_settle, fixed_testSegment, fixed_finishTest, fixed_substituteDue, fixed_lastRites, fixed_runSegment]))

theorem cmd_programFetchComplete (p : FetchedP) (s : State) : staysNext s (execProgramFetchComplete p s) := by
  unfold execProgramFetchComplete
  (repeat' (first | (with_reducible refine staysNext_of ?_) | split | dsimp only)) <;>
    repeat' (first | (with_reducible rfl) | (simp only [fixed_mk, fixed_eta, fixed_ite, ite_self, fixed_settle, fixed_modLane]; done) | (with_reducible refine fixed_foldl _ _ _ _ ?_ ?_) | (intro _ _) | split | (simp only [fixed_mk, fixed_eta, fixed_ite, ite_self, fixed_settle, fixed_modLane]))

theorem cmd_seqWatchdogExpiry (job tile : Nat) (s : State) : staysNext s (execSeqWatchdogExpiry job tile s) := by
  unfold execSeqWatchdogExpiry
  split
  · rename_i h
    refine staysNext_of ?_
    simp only [fixed_substituteDue, fixed_failTile, fixed_watchdogEnd, fixed_countN, fixed_logHealth, fixed_settle, fixed_strike]
    exact fixed_runsOn s h
  · exact staysNext_of rfl

theorem cmd_endMarkMissing (job tile : Nat) (s : State) : staysNext s (execEndMarkMissing job tile s) := by
  unfold execEndMarkMissing
  split
  · rename_i h
    refine staysNext_of ?_
    simp only [fixed_substituteDue, fixed_failTile, fixed_watchdogEnd, fixed_countN, fixed_logHealth, fixed_settle, fixed_strike]
    exact fixed_runsOn s h
  · exact staysNext_of rfl

theorem cmd_gapUpdateBuilt (p : Port) (s : State) : staysNext s (execGapUpdateBuilt p s) := by
  unfold execGapUpdateBuilt
  first
    | (with_reducible refine staysNext_of ?_; simp only [fixed_mk, fixed_eta, fixed_ite, ite_self, fixed_closeGap, fixed_modPort, fixed_deadRecovery]; done)
    | (repeat' (first | (with_reducible refine staysNext_of ?_) | split | dsimp only)) <;>
      repeat' (first | (with_reducible rfl) | (simp only [fixed_mk, fixed_eta, fixed_ite, ite_self, fixed_closeGap, fixed_modPort, fixed_deadRecovery]; done) | (with_reducible refine fixed_foldl _ _ _ _ ?_ ?_) | (intro _ _) | split | (simp only [fixed_mk, fixed_eta, fixed_ite, ite_self, fixed_closeGap, fixed_modPort, fixed_deadRecovery]))

theorem cmd_registeredLineStored (p : Port) (s : State) : staysNext s (execRegisteredLineStored p s) := by
  unfold execRegisteredLineStored
  (repeat' (first | (with_reducible refine staysNext_of ?_) | split | dsimp only)) <;>
    repeat' (first | (with_reducible rfl) | (simp only [fixed_mk, fixed_eta, fixed_ite, ite_self, fixed_storeLine, fixed_modPort]; done) | (with_reducible refine fixed_foldl _ _ _ _ ?_ ?_) | (intro _ _) | split | (simp only [fixed_mk, fixed_eta, fixed_ite, ite_self, fixed_storeLine, fixed_modPort]))

theorem cmd_lineCommitted (p : Port) (s : State) : staysNext s (execLineCommitted p s) := by
  unfold execLineCommitted
  (repeat' (first | (with_reducible refine staysNext_of ?_) | split | dsimp only)) <;>
    repeat' (first | (with_reducible rfl) | (simp only [fixed_mk, fixed_eta, fixed_ite, ite_self, fixed_modPort, fixed_judgeWindow, fixed_prunePieces, fixed_clearAgain]; done) | (with_reducible refine fixed_foldl _ _ _ _ ?_ ?_) | (intro _ _) | split | (simp only [fixed_mk, fixed_eta, fixed_ite, ite_self, fixed_modPort, fixed_judgeWindow, fixed_prunePieces, fixed_clearAgain]))

theorem cmd_leadingEdgeTimeout (t : Track) (s : State) : staysNext s (execLeadingEdgeTimeout t s) := by
  unfold execLeadingEdgeTimeout
  first
    | (with_reducible refine staysNext_of ?_; simp only [fixed_mk, fixed_eta, fixed_ite, ite_self, fixed_prunePieces, fixed_geomDiscard]; done)
    | (repeat' (first | (with_reducible refine staysNext_of ?_) | split | dsimp only)) <;>
      repeat' (first | (with_reducible rfl) | (simp only [fixed_mk, fixed_eta, fixed_ite, ite_self, fixed_prunePieces, fixed_geomDiscard]; done) | (with_reducible refine fixed_foldl _ _ _ _ ?_ ?_) | (intro _ _) | split | (simp only [fixed_mk, fixed_eta, fixed_ite, ite_self, fixed_prunePieces, fixed_geomDiscard]))

theorem cmd_trailingEdgeFound (t : Track) (s : State) : staysNext s (execTrailingEdgeFound t s) := by
  unfold execTrailingEdgeFound
  (repeat' (first | (with_reducible refine staysNext_of ?_) | split | dsimp only)) <;>
    repeat' (first | (with_reducible rfl) | (simp only [fixed_mk, fixed_eta, fixed_ite, ite_self, fixed_modPiece, fixed_openGap, fixed_pressSideDone, fixed_schedule, fixed_prunePieces]; done) | (with_reducible refine fixed_foldl _ _ _ _ ?_ ?_) | (intro _ _) | split | (simp only [fixed_mk, fixed_eta, fixed_ite, ite_self, fixed_modPiece, fixed_openGap, fixed_pressSideDone, fixed_schedule, fixed_prunePieces]))

theorem cmd_overlength (t : Track) (s : State) : staysNext s (execOverlength t s) := by
  unfold execOverlength
  first
    | (with_reducible refine staysNext_of ?_; simp only [fixed_mk, fixed_eta, fixed_ite, ite_self, fixed_geomDiscard]; done)
    | (repeat' (first | (with_reducible refine staysNext_of ?_) | split | dsimp only)) <;>
      repeat' (first | (with_reducible rfl) | (simp only [fixed_mk, fixed_eta, fixed_ite, ite_self, fixed_geomDiscard]; done) | (with_reducible refine fixed_foldl _ _ _ _ ?_ ?_) | (intro _ _) | split | (simp only [fixed_mk, fixed_eta, fixed_ite, ite_self, fixed_geomDiscard]))

theorem cmd_pieceInEdge (e : EdgeP) (s : State) : staysNext s (execPieceInEdge e s) := by
  unfold execPieceInEdge
  (repeat' (first | (with_reducible refine staysNext_of ?_) | split | dsimp only)) <;>
    repeat' (first | (with_reducible rfl) | (simp only [fixed_mk, fixed_eta, fixed_ite, ite_self, fixed_takeEdge]; done) | (with_reducible refine fixed_foldl _ _ _ _ ?_ ?_) | (intro _ _) | split | (simp only [fixed_mk, fixed_eta, fixed_ite, ite_self, fixed_takeEdge]))

theorem cmd_checkWindowCaptured (t : Track) (dramBad : Bool) (s : State) : staysNext s (execCheckWindowCaptured t dramBad s) := by
  unfold execCheckWindowCaptured
  first
    | (with_reducible refine staysNext_of ?_; simp only [fixed_mk, fixed_eta, fixed_ite, ite_self, fixed_failRestart, fixed_logHealth, fixed_resumeAt]; done)
    | (repeat' (first | (with_reducible refine staysNext_of ?_) | split | dsimp only)) <;>
      repeat' (first | (with_reducible rfl) | (simp only [fixed_mk, fixed_eta, fixed_ite, ite_self, fixed_failRestart, fixed_logHealth, fixed_resumeAt]; done) | (with_reducible refine fixed_foldl _ _ _ _ ?_ ?_) | (intro _ _) | split | (simp only [fixed_mk, fixed_eta, fixed_ite, ite_self, fixed_failRestart, fixed_logHealth, fixed_resumeAt]))

theorem cmd_spareReloadDone (tile : Nat) (s : State) : staysNext s (execSpareReloadDone tile s) := by
  unfold execSpareReloadDone
  (repeat' (first | (with_reducible refine staysNext_of ?_) | split | dsimp only)) <;>
    repeat' (first | (with_reducible rfl) | (simp only [fixed_mk, fixed_eta, fixed_ite, ite_self, fixed_serveImages, fixed_reloadTile, fixed_modTile]; done) | (with_reducible refine fixed_foldl _ _ _ _ ?_ ?_) | (intro _ _) | split | (simp only [fixed_mk, fixed_eta, fixed_ite, ite_self, fixed_serveImages, fixed_reloadTile, fixed_modTile]))

theorem cmd_ringRetryExhausted (g : Region) (s : State) : staysNext s (execRingRetryExhausted g s) := by
  unfold execRingRetryExhausted
  first
    | (with_reducible refine staysNext_of ?_; simp only [fixed_mk, fixed_eta, fixed_ite, ite_self, fixed_regionError]; done)
    | (repeat' (first | (with_reducible refine staysNext_of ?_) | split | dsimp only)) <;>
      repeat' (first | (with_reducible rfl) | (simp only [fixed_mk, fixed_eta, fixed_ite, ite_self, fixed_regionError]; done) | (with_reducible refine fixed_foldl _ _ _ _ ?_ ?_) | (intro _ _) | split | (simp only [fixed_mk, fixed_eta, fixed_ite, ite_self, fixed_regionError]))

theorem cmd_regionControllerError (g : Region) (s : State) : staysNext s (execRegionControllerError g s) := by
  unfold execRegionControllerError
  first
    | (with_reducible refine staysNext_of ?_; simp only [fixed_mk, fixed_eta, fixed_ite, ite_self, fixed_regionError]; done)
    | (repeat' (first | (with_reducible refine staysNext_of ?_) | split | dsimp only)) <;>
      repeat' (first | (with_reducible rfl) | (simp only [fixed_mk, fixed_eta, fixed_ite, ite_self, fixed_regionError]; done) | (with_reducible refine fixed_foldl _ _ _ _ ?_ ?_) | (intro _ _) | split | (simp only [fixed_mk, fixed_eta, fixed_ite, ite_self, fixed_regionError]))

theorem cmd_regionDrain (mask : Byte) (s : State) : staysNext s (execRegionDrain mask s) := by
  unfold execRegionDrain
  first
    | (with_reducible refine staysNext_of ?_; simp only [fixed_mk, fixed_eta, fixed_ite, ite_self, fixed_drainRegions]; done)
    | (repeat' (first | (with_reducible refine staysNext_of ?_) | split | dsimp only)) <;>
      repeat' (first | (with_reducible rfl) | (simp only [fixed_mk, fixed_eta, fixed_ite, ite_self, fixed_drainRegions]; done) | (with_reducible refine fixed_foldl _ _ _ _ ?_ ?_) | (intro _ _) | split | (simp only [fixed_mk, fixed_eta, fixed_ite, ite_self, fixed_drainRegions]))

theorem cmd_regionServe (mask : Byte) (s : State) : staysNext s (execRegionServe mask s) := by
  unfold execRegionServe
  first
    | (with_reducible refine staysNext_of ?_; simp only [fixed_mk, fixed_eta, fixed_ite, ite_self, fixed_serveRegions]; done)
    | (repeat' (first | (with_reducible refine staysNext_of ?_) | split | dsimp only)) <;>
      repeat' (first | (with_reducible rfl) | (simp only [fixed_mk, fixed_eta, fixed_ite, ite_self, fixed_serveRegions]; done) | (with_reducible refine fixed_foldl _ _ _ _ ?_ ?_) | (intro _ _) | split | (simp only [fixed_mk, fixed_eta, fixed_ite, ite_self, fixed_serveRegions]))

theorem cmd_chipParityError (unit : Fin 3) (s : State) : staysNext s (execChipParityError unit s) := by
  unfold execChipParityError
  first
    | (with_reducible refine staysNext_of ?_; simp only [fixed_mk, fixed_eta, fixed_ite, ite_self, fixed_deviceError]; done)
    | (repeat' (first | (with_reducible refine staysNext_of ?_) | split | dsimp only)) <;>
      repeat' (first | (with_reducible rfl) | (simp only [fixed_mk, fixed_eta, fixed_ite, ite_self, fixed_deviceError]; done) | (with_reducible refine fixed_foldl _ _ _ _ ?_ ?_) | (intro _ _) | split | (simp only [fixed_mk, fixed_eta, fixed_ite, ite_self, fixed_deviceError]))

theorem cmd_healthAlertClear (s : State) : staysNext s (execHealthAlertClear s) := by
  unfold execHealthAlertClear
  first
    | (with_reducible refine staysNext_of ?_; simp only [fixed_mk, fixed_eta, fixed_ite, ite_self]; done)
    | (repeat' (first | (with_reducible refine staysNext_of ?_) | split | dsimp only)) <;>
      repeat' (first | (with_reducible rfl) | (simp only [fixed_mk, fixed_eta, fixed_ite, ite_self]; done) | (with_reducible refine fixed_foldl _ _ _ _ ?_ ?_) | (intro _ _) | split | (simp only [fixed_mk, fixed_eta, fixed_ite, ite_self]))

theorem cmd_hostLinkCorrectableError (s : State) : staysNext s (execHostLinkCorrectableError s) := by
  unfold execHostLinkCorrectableError
  first
    | (with_reducible refine staysNext_of ?_; simp only [fixed_mk, fixed_eta, fixed_ite, ite_self]; done)
    | (repeat' (first | (with_reducible refine staysNext_of ?_) | split | dsimp only)) <;>
      repeat' (first | (with_reducible rfl) | (simp only [fixed_mk, fixed_eta, fixed_ite, ite_self]; done) | (with_reducible refine fixed_foldl _ _ _ _ ?_ ?_) | (intro _ _) | split | (simp only [fixed_mk, fixed_eta, fixed_ite, ite_self]))

theorem cmd_scrubRead (tile bank row : Nat) (s : State) : staysNext s (execScrubRead tile bank row s) := by
  unfold execScrubRead
  (repeat' (first | (with_reducible refine staysNext_of ?_) | split | dsimp only)) <;>
    repeat' (first | (with_reducible rfl) | (simp only [fixed_mk, fixed_eta, fixed_ite, ite_self, fixed_readWord, fixed_dropModelAt, fixed_logWords]; done) | (with_reducible refine fixed_foldl _ _ _ _ ?_ ?_) | (intro _ _) | split | (simp only [fixed_mk, fixed_eta, fixed_ite, ite_self, fixed_readWord, fixed_dropModelAt, fixed_logWords]))

theorem cmd_fieldDarn (tile bank row : Nat) (s : State) : staysNext s (execFieldDarn tile bank row s) := by
  unfold execFieldDarn
  first
    | (with_reducible refine staysNext_of ?_; simp only [fixed_mk, fixed_eta, fixed_ite, ite_self, fixed_darnRow, fixed_failTile]; done)
    | (repeat' (first | (with_reducible refine staysNext_of ?_) | split | dsimp only)) <;>
      repeat' (first | (with_reducible rfl) | (simp only [fixed_mk, fixed_eta, fixed_ite, ite_self, fixed_darnRow, fixed_failTile]; done) | (with_reducible refine fixed_foldl _ _ _ _ ?_ ?_) | (intro _ _) | split | (simp only [fixed_mk, fixed_eta, fixed_ite, ite_self, fixed_darnRow, fixed_failTile]))

theorem cmd_lintUnit (tile : Nat) (k : LintKind) (faulty recurs : Bool) (s : State) : staysNext s (execLintUnit tile k faulty recurs s) := by
  unfold execLintUnit
  first
    | (with_reducible refine staysNext_of ?_; simp only [fixed_mk, fixed_eta, fixed_ite, ite_self, fixed_countN, fixed_modTile, fixed_zeroBank, fixed_lintFault]; done)
    | (repeat' (first | (with_reducible refine staysNext_of ?_) | split | dsimp only)) <;>
      repeat' (first | (with_reducible rfl) | (simp only [fixed_mk, fixed_eta, fixed_ite, ite_self, fixed_countN, fixed_modTile, fixed_zeroBank, fixed_lintFault]; done) | (with_reducible refine fixed_foldl _ _ _ _ ?_ ?_) | (intro _ _) | split | (simp only [fixed_mk, fixed_eta, fixed_ite, ite_self, fixed_countN, fixed_modTile, fixed_zeroBank, fixed_lintFault]))

theorem cmd_lintOverdue (tile : Nat) (s : State) : staysNext s (execLintOverdue tile s) := by
  unfold execLintOverdue
  first
    | (with_reducible refine staysNext_of ?_; simp only [fixed_mk, fixed_eta, fixed_ite, ite_self, fixed_logHealth, fixed_modTile]; done)
    | (repeat' (first | (with_reducible refine staysNext_of ?_) | split | dsimp only)) <;>
      repeat' (first | (with_reducible rfl) | (simp only [fixed_mk, fixed_eta, fixed_ite, ite_self, fixed_logHealth, fixed_modTile]; done) | (with_reducible refine fixed_foldl _ _ _ _ ?_ ?_) | (intro _ _) | split | (simp only [fixed_mk, fixed_eta, fixed_ite, ite_self, fixed_logHealth, fixed_modTile]))

theorem cmd_planLoadComplete (container : List Byte) (low lowC : Lowering) (s : State) : staysNext s (execPlanLoadComplete container low lowC s) := by
  unfold execPlanLoadComplete
  split
  · dsimp only
    split
    · refine staysNext_of ?_
      simp only [fixed_nextInQueue, fixed_complete, fixed_loadLows]
    · rename_i h
      have h := fixed_loadPlan _ h
      refine staysNext_of ?_
      split <;> simp only [fixed_nextInQueue, fixed_endLoad, h, fixed_loadLows]
  · exact staysNext_of rfl

theorem cmd_relowerComplete (low lowC : Lowering) (s : State) : staysNext s (execRelowerComplete low lowC s) := by
  unfold execRelowerComplete
  (repeat' (first | (with_reducible refine staysNext_of ?_) | split | dsimp only)) <;>
    repeat' (first | (with_reducible rfl) | (simp only [fixed_relowerLows, fixed_mk, fixed_eta, fixed_ite, ite_self, fixed_serveImages, fixed_staleRelower, fixed_applyRelower]; done) | (with_reducible refine fixed_foldl _ _ _ _ ?_ ?_) | (intro _ _) | split | (simp only [fixed_relowerLows, fixed_mk, fixed_eta, fixed_ite, ite_self, fixed_serveImages, fixed_staleRelower, fixed_applyRelower]))

theorem cmd_planUnloadComplete (plan : Nat) (s : State) : staysNext s (execPlanUnloadComplete plan s) := by
  unfold execPlanUnloadComplete
  first
    | (with_reducible refine staysNext_of ?_; simp only [fixed_mk, fixed_eta, fixed_ite, ite_self, fixed_serveImages, fixed_unloadPlan]; done)
    | (repeat' (first | (with_reducible refine staysNext_of ?_) | split | dsimp only)) <;>
      repeat' (first | (with_reducible rfl) | (simp only [fixed_mk, fixed_eta, fixed_ite, ite_self, fixed_serveImages, fixed_unloadPlan]; done) | (with_reducible refine fixed_foldl _ _ _ _ ?_ ?_) | (intro _ _) | split | (simp only [fixed_mk, fixed_eta, fixed_ite, ite_self, fixed_serveImages, fixed_unloadPlan]))

theorem cmd_wardrobeLoadComplete (plan : Nat) (dramBad : Bool) (s : State) : staysNext s (execWardrobeLoadComplete plan dramBad s) := by
  unfold execWardrobeLoadComplete
  cases nextLoad s with
  | none => exact staysNext_of rfl
  | some l =>
    dsimp only
    split
    · exact staysNext_of rfl
    · cases loadPlanOf s l with
      | none => exact staysNext_of rfl
      | some p =>
        dsimp only
        split
        · exact staysNext_of (by simp only [fixed_serveImages, fixed_loadFailed])
        · split
          · exact staysNext_of (by simp only [fixed_serveImages, fixed_loadWaitDone, fixed_donePins])
          · cases h : findWays s p with
            | none => exact staysNext_of rfl
            | some x => exact staysNext_of (by simp only [fixed_serveImages, fixed_loadWaitDone, fixed_donePins, fixed_loadModel, fixed_findWays _ h])

theorem cmd_read (addr : Word32) (len : Nat) (s : State) : staysNext s (execRead addr len s) := by
  unfold execRead
  first
    | (with_reducible refine staysNext_of ?_; simp only [fixed_mk, fixed_eta, fixed_ite, ite_self, fixed_chipCnt, fixed_emit]; done)
    | (repeat' (first | (with_reducible refine staysNext_of ?_) | split | dsimp only)) <;>
      repeat' (first | (with_reducible rfl) | (simp only [fixed_mk, fixed_eta, fixed_ite, ite_self, fixed_chipCnt, fixed_emit]; done) | (with_reducible refine fixed_foldl _ _ _ _ ?_ ?_) | (intro _ _) | split | (simp only [fixed_mk, fixed_eta, fixed_ite, ite_self, fixed_chipCnt, fixed_emit]))

theorem cmd_readId (s : State) : staysNext s (execReadId s) := by
  unfold execReadId
  first
    | (with_reducible refine staysNext_of ?_; simp only [fixed_mk, fixed_eta, fixed_ite, ite_self, fixed_chipCnt, fixed_emit]; done)
    | (repeat' (first | (with_reducible refine staysNext_of ?_) | split | dsimp only)) <;>
      repeat' (first | (with_reducible rfl) | (simp only [fixed_mk, fixed_eta, fixed_ite, ite_self, fixed_chipCnt, fixed_emit]; done) | (with_reducible refine fixed_foldl _ _ _ _ ?_ ?_) | (intro _ _) | split | (simp only [fixed_mk, fixed_eta, fixed_ite, ite_self, fixed_chipCnt, fixed_emit]))

theorem cmd_portReset (s : State) : staysNext s (execPortReset s) := by
  unfold execPortReset
  first
    | (with_reducible refine staysNext_of ?_; simp only [fixed_mk, fixed_eta, fixed_ite, ite_self, fixed_chipCnt]; done)
    | (repeat' (first | (with_reducible refine staysNext_of ?_) | split | dsimp only)) <;>
      repeat' (first | (with_reducible rfl) | (simp only [fixed_mk, fixed_eta, fixed_ite, ite_self, fixed_chipCnt]; done) | (with_reducible refine fixed_foldl _ _ _ _ ?_ ?_) | (intro _ _) | split | (simp only [fixed_mk, fixed_eta, fixed_ite, ite_self, fixed_chipCnt]))

theorem cmd_rateAcknowledge (v : Byte) (s : State) : staysNext s (execRateAcknowledge v s) := by
  unfold execRateAcknowledge
  first
    | (with_reducible refine staysNext_of ?_; simp only [fixed_mk, fixed_eta, fixed_ite, ite_self, fixed_writeRate]; done)
    | (repeat' (first | (with_reducible refine staysNext_of ?_) | split | dsimp only)) <;>
      repeat' (first | (with_reducible rfl) | (simp only [fixed_mk, fixed_eta, fixed_ite, ite_self, fixed_writeRate]; done) | (with_reducible refine fixed_foldl _ _ _ _ ?_ ?_) | (intro _ _) | split | (simp only [fixed_mk, fixed_eta, fixed_ite, ite_self, fixed_writeRate]))

theorem cmd_configurationWord (v : Word32) (s : State) : staysNext s (execConfigurationWord v s) := by
  unfold execConfigurationWord
  first
    | (with_reducible refine staysNext_of ?_; simp only [fixed_mk, fixed_eta, fixed_ite, ite_self, fixed_writeConfig]; done)
    | (repeat' (first | (with_reducible refine staysNext_of ?_) | split | dsimp only)) <;>
      repeat' (first | (with_reducible rfl) | (simp only [fixed_mk, fixed_eta, fixed_ite, ite_self, fixed_writeConfig]; done) | (with_reducible refine fixed_foldl _ _ _ _ ?_ ?_) | (intro _ _) | split | (simp only [fixed_mk, fixed_eta, fixed_ite, ite_self, fixed_writeConfig]))

theorem cmd_write (addr : Word32) (data : List Byte) (s : State) : staysNext s (execWrite addr data s) := by
  unfold execWrite
  first
    | (with_reducible refine staysNext_of ?_; simp only [fixed_mk, fixed_eta, fixed_ite, ite_self, fixed_writeRate, fixed_writeConfig, fixed_portIgnore]; done)
    | (repeat' (first | (with_reducible refine staysNext_of ?_) | split | dsimp only)) <;>
      repeat' (first | (with_reducible rfl) | (simp only [fixed_mk, fixed_eta, fixed_ite, ite_self, fixed_writeRate, fixed_writeConfig, fixed_portIgnore]; done) | (with_reducible refine fixed_foldl _ _ _ _ ?_ ?_) | (intro _ _) | split | (simp only [fixed_mk, fixed_eta, fixed_ite, ite_self, fixed_writeRate, fixed_writeConfig, fixed_portIgnore]))

theorem cmd_badCommandInverse (op inv : Byte) (s : State) : staysNext s (execBadCommandInverse op inv s) := by
  unfold execBadCommandInverse
  first
    | (with_reducible refine staysNext_of ?_; simp only [fixed_mk, fixed_eta, fixed_ite, ite_self, fixed_portIgnore]; done)
    | (repeat' (first | (with_reducible refine staysNext_of ?_) | split | dsimp only)) <;>
      repeat' (first | (with_reducible rfl) | (simp only [fixed_mk, fixed_eta, fixed_ite, ite_self, fixed_portIgnore]; done) | (with_reducible refine fixed_foldl _ _ _ _ ?_ ?_) | (intro _ _) | split | (simp only [fixed_mk, fixed_eta, fixed_ite, ite_self, fixed_portIgnore]))

theorem cmd_refclkRestored (s : State) : staysNext s (execRefclkRestored s) := by
  unfold execRefclkRestored
  first
    | (with_reducible refine staysNext_of ?_; simp only [fixed_mk, fixed_eta, fixed_ite, ite_self]; done)
    | (repeat' (first | (with_reducible refine staysNext_of ?_) | split | dsimp only)) <;>
      repeat' (first | (with_reducible rfl) | (simp only [fixed_mk, fixed_eta, fixed_ite, ite_self]; done) | (with_reducible refine fixed_foldl _ _ _ _ ?_ ?_) | (intro _ _) | split | (simp only [fixed_mk, fixed_eta, fixed_ite, ite_self]))

theorem cmd_pwrMainLow (s : State) : staysNext s (execPwrMainLow s) := by
  unfold execPwrMainLow
  first
    | (with_reducible refine staysNext_of ?_; simp only [fixed_mk, fixed_eta, fixed_ite, ite_self, fixed_switchover]; done)
    | (repeat' (first | (with_reducible refine staysNext_of ?_) | split | dsimp only)) <;>
      repeat' (first | (with_reducible rfl) | (simp only [fixed_mk, fixed_eta, fixed_ite, ite_self, fixed_switchover]; done) | (with_reducible refine fixed_foldl _ _ _ _ ?_ ?_) | (intro _ _) | split | (simp only [fixed_mk, fixed_eta, fixed_ite, ite_self, fixed_switchover]))

theorem cmd_pwrMainReturn (s : State) : staysNext s (execPwrMainReturn s) := by
  unfold execPwrMainReturn
  first
    | (with_reducible refine staysNext_of ?_; simp only [fixed_mk, fixed_eta, fixed_ite, ite_self, fixed_switchover]; done)
    | (repeat' (first | (with_reducible refine staysNext_of ?_) | split | dsimp only)) <;>
      repeat' (first | (with_reducible rfl) | (simp only [fixed_mk, fixed_eta, fixed_ite, ite_self, fixed_switchover]; done) | (with_reducible refine fixed_foldl _ _ _ _ ?_ ?_) | (intro _ _) | split | (simp only [fixed_mk, fixed_eta, fixed_ite, ite_self, fixed_switchover]))

theorem cmd_pwrAuxLow (s : State) : staysNext s (execPwrAuxLow s) := by
  unfold execPwrAuxLow
  first
    | (with_reducible refine staysNext_of ?_; simp only [fixed_mk, fixed_eta, fixed_ite, ite_self]; done)
    | (repeat' (first | (with_reducible refine staysNext_of ?_) | split | dsimp only)) <;>
      repeat' (first | (with_reducible rfl) | (simp only [fixed_mk, fixed_eta, fixed_ite, ite_self]; done) | (with_reducible refine fixed_foldl _ _ _ _ ?_ ?_) | (intro _ _) | split | (simp only [fixed_mk, fixed_eta, fixed_ite, ite_self]))

theorem cmd_pwrAuxReturn (s : State) : staysNext s (execPwrAuxReturn s) := by
  unfold execPwrAuxReturn
  first
    | (with_reducible refine staysNext_of ?_; simp only [fixed_mk, fixed_eta, fixed_ite, ite_self, fixed_switchover]; done)
    | (repeat' (first | (with_reducible refine staysNext_of ?_) | split | dsimp only)) <;>
      repeat' (first | (with_reducible rfl) | (simp only [fixed_mk, fixed_eta, fixed_ite, ite_self, fixed_switchover]; done) | (with_reducible refine fixed_foldl _ _ _ _ ?_ ?_) | (intro _ _) | split | (simp only [fixed_mk, fixed_eta, fixed_ite, ite_self, fixed_switchover]))

theorem cmd_bothInputsLow (s : State) : staysNext s (execBothInputsLow s) := by
  unfold execBothInputsLow
  first
    | (with_reducible refine staysNext_of ?_; simp only [fixed_mk, fixed_eta, fixed_ite, ite_self, fixed_deviceError]; done)
    | (repeat' (first | (with_reducible refine staysNext_of ?_) | split | dsimp only)) <;>
      repeat' (first | (with_reducible rfl) | (simp only [fixed_mk, fixed_eta, fixed_ite, ite_self, fixed_deviceError]; done) | (with_reducible refine fixed_foldl _ _ _ _ ?_ ?_) | (intro _ _) | split | (simp only [fixed_mk, fixed_eta, fixed_ite, ite_self, fixed_deviceError]))

theorem cmd_hostInterfaceReset (linkError : Bool) (s : State) : staysNext s (execHostInterfaceReset linkError s) := by
  unfold execHostInterfaceReset
  first
    | (with_reducible refine staysNext_of ?_; simp only [fixed_mk, fixed_eta, fixed_ite, ite_self, fixed_resetHostInterface, fixed_logHealth]; done)
    | (repeat' (first | (with_reducible refine staysNext_of ?_) | split | dsimp only)) <;>
      repeat' (first | (with_reducible rfl) | (simp only [fixed_mk, fixed_eta, fixed_ite, ite_self, fixed_resetHostInterface, fixed_logHealth]; done) | (with_reducible refine fixed_foldl _ _ _ _ ?_ ?_) | (intro _ _) | split | (simp only [fixed_mk, fixed_eta, fixed_ite, ite_self, fixed_resetHostInterface, fixed_logHealth]))

theorem cmd_functionLevelReset (fn : Fn) (s : State) : staysNext s (execFunctionLevelReset fn s) := by
  unfold execFunctionLevelReset
  first
    | (with_reducible refine staysNext_of ?_; simp only [fixed_mk, fixed_eta, fixed_ite, ite_self, fixed_resetHostInterface, fixed_resetFunction]; done)
    | (repeat' (first | (with_reducible refine staysNext_of ?_) | split | dsimp only)) <;>
      repeat' (first | (with_reducible rfl) | (simp only [fixed_mk, fixed_eta, fixed_ite, ite_self, fixed_resetHostInterface, fixed_resetFunction]; done) | (with_reducible refine fixed_foldl _ _ _ _ ?_ ?_) | (intro _ _) | split | (simp only [fixed_mk, fixed_eta, fixed_ite, ite_self, fixed_resetHostInterface, fixed_resetFunction]))

theorem cmd_vfEnable (mask : Half) (s : State) : staysNext s (execVfEnable mask s) := by
  unfold execVfEnable
  first
    | (with_reducible refine staysNext_of ?_; simp only [fixed_mk, fixed_eta, fixed_ite, ite_self, fixed_writeVfEnable]; done)
    | (repeat' (first | (with_reducible refine staysNext_of ?_) | split | dsimp only)) <;>
      repeat' (first | (with_reducible rfl) | (simp only [fixed_mk, fixed_eta, fixed_ite, ite_self, fixed_writeVfEnable]; done) | (with_reducible refine fixed_foldl _ _ _ _ ?_ ?_) | (intro _ _) | split | (simp only [fixed_mk, fixed_eta, fixed_ite, ite_self, fixed_writeVfEnable]))

theorem cmd_recordCopy (fn : Fn) (dramBad : Bool) (s : State) : staysNext s (execRecordCopy fn dramBad s) := by
  unfold execRecordCopy
  first
    | (with_reducible refine staysNext_of ?_; simp only [fixed_mk, fixed_eta, fixed_ite, ite_self, fixed_basketFreed, fixed_loseBadPost, fixed_copyPost]; done)
    | (repeat' (first | (with_reducible refine staysNext_of ?_) | split | dsimp only)) <;>
      repeat' (first | (with_reducible rfl) | (simp only [fixed_mk, fixed_eta, fixed_ite, ite_self, fixed_basketFreed, fixed_loseBadPost, fixed_copyPost]; done) | (with_reducible refine fixed_foldl _ _ _ _ ?_ ?_) | (intro _ _) | split | (simp only [fixed_mk, fixed_eta, fixed_ite, ite_self, fixed_basketFreed, fixed_loseBadPost, fixed_copyPost]))

theorem cmd_timebaseLowRead (fn : Fn) (s : State) : staysNext s (execTimebaseLowRead fn s) := by
  unfold execTimebaseLowRead
  first
    | (with_reducible refine staysNext_of ?_; simp only [fixed_mk, fixed_eta, fixed_ite, ite_self, fixed_emit]; done)
    | (repeat' (first | (with_reducible refine staysNext_of ?_) | split | dsimp only)) <;>
      repeat' (first | (with_reducible rfl) | (simp only [fixed_mk, fixed_eta, fixed_ite, ite_self, fixed_emit]; done) | (with_reducible refine fixed_foldl _ _ _ _ ?_ ?_) | (intro _ _) | split | (simp only [fixed_mk, fixed_eta, fixed_ite, ite_self, fixed_emit]))

theorem cmd_termEnChange (level : Bool) (s : State) : staysNext s (execTermEnChange level s) := by
  unfold execTermEnChange
  first
    | (with_reducible refine staysNext_of ?_; simp only [fixed_mk, fixed_eta, fixed_ite, ite_self]; done)
    | (repeat' (first | (with_reducible refine staysNext_of ?_) | split | dsimp only)) <;>
      repeat' (first | (with_reducible rfl) | (simp only [fixed_mk, fixed_eta, fixed_ite, ite_self]; done) | (with_reducible refine fixed_foldl _ _ _ _ ?_ ?_) | (intro _ _) | split | (simp only [fixed_mk, fixed_eta, fixed_ite, ite_self]))

theorem cmd_overrateClear (p : Port) (s : State) : staysNext s (execOverrateClear p s) := by
  unfold execOverrateClear
  first
    | (with_reducible refine staysNext_of ?_; simp only [fixed_mk, fixed_eta, fixed_ite, ite_self, fixed_clearOverrate]; done)
    | (repeat' (first | (with_reducible refine staysNext_of ?_) | split | dsimp only)) <;>
      repeat' (first | (with_reducible rfl) | (simp only [fixed_mk, fixed_eta, fixed_ite, ite_self, fixed_clearOverrate]; done) | (with_reducible refine fixed_foldl _ _ _ _ ?_ ?_) | (intro _ _) | split | (simp only [fixed_mk, fixed_eta, fixed_ite, ite_self, fixed_clearOverrate]))

theorem cmd_unexpectedClear (p : Port) (s : State) : staysNext s (execUnexpectedClear p s) := by
  unfold execUnexpectedClear
  first
    | (with_reducible refine staysNext_of ?_; simp only [fixed_mk, fixed_eta, fixed_ite, ite_self, fixed_clearUnexpected]; done)
    | (repeat' (first | (with_reducible refine staysNext_of ?_) | split | dsimp only)) <;>
      repeat' (first | (with_reducible rfl) | (simp only [fixed_mk, fixed_eta, fixed_ite, ite_self, fixed_clearUnexpected]; done) | (with_reducible refine fixed_foldl _ _ _ _ ?_ ?_) | (intro _ _) | split | (simp only [fixed_mk, fixed_eta, fixed_ite, ite_self, fixed_clearUnexpected]))

theorem cmd_setupBusGo (p : Port) (s : State) : staysNext s (execSetupBusGo p s) := by
  unfold execSetupBusGo
  first
    | (with_reducible refine staysNext_of ?_; simp only [fixed_mk, fixed_eta, fixed_ite, ite_self, fixed_setupGo]; done)
    | (repeat' (first | (with_reducible refine staysNext_of ?_) | split | dsimp only)) <;>
      repeat' (first | (with_reducible rfl) | (simp only [fixed_mk, fixed_eta, fixed_ite, ite_self, fixed_setupGo]; done) | (with_reducible refine fixed_foldl _ _ _ _ ?_ ?_) | (intro _ _) | split | (simp only [fixed_mk, fixed_eta, fixed_ite, ite_self, fixed_setupGo]))

theorem cmd_setupBusDone (p : Port) (rx : Word64) (s : State) : staysNext s (execSetupBusDone p rx s) := by
  unfold execSetupBusDone
  first
    | (with_reducible refine staysNext_of ?_; simp only [fixed_mk, fixed_eta, fixed_ite, ite_self, fixed_modPort]; done)
    | (repeat' (first | (with_reducible refine staysNext_of ?_) | split | dsimp only)) <;>
      repeat' (first | (with_reducible rfl) | (simp only [fixed_mk, fixed_eta, fixed_ite, ite_self, fixed_modPort]; done) | (with_reducible refine fixed_foldl _ _ _ _ ?_ ?_) | (intro _ _) | split | (simp only [fixed_mk, fixed_eta, fixed_ite, ite_self, fixed_modPort]))

theorem cmd_healthLogEnable (s : State) : staysNext s (execHealthLogEnable s) := by
  unfold execHealthLogEnable
  first
    | (with_reducible refine staysNext_of ?_; simp only [fixed_mk, fixed_eta, fixed_ite, ite_self, fixed_enableLog]; done)
    | (repeat' (first | (with_reducible refine staysNext_of ?_) | split | dsimp only)) <;>
      repeat' (first | (with_reducible rfl) | (simp only [fixed_mk, fixed_eta, fixed_ite, ite_self, fixed_enableLog]; done) | (with_reducible refine fixed_foldl _ _ _ _ ?_ ?_) | (intro _ _) | split | (simp only [fixed_mk, fixed_eta, fixed_ite, ite_self, fixed_enableLog]))

theorem cmd_msixVectorUnmask (fn : Fn) (vec : Fin 64) (s : State) : staysNext s (execMsixVectorUnmask fn vec s) := by
  unfold execMsixVectorUnmask
  first
    | (with_reducible refine staysNext_of ?_; simp only [fixed_mk, fixed_eta, fixed_ite, ite_self, fixed_unmaskVec]; done)
    | (repeat' (first | (with_reducible refine staysNext_of ?_) | split | dsimp only)) <;>
      repeat' (first | (with_reducible rfl) | (simp only [fixed_mk, fixed_eta, fixed_ite, ite_self, fixed_unmaskVec]; done) | (with_reducible refine fixed_foldl _ _ _ _ ?_ ?_) | (intro _ _) | split | (simp only [fixed_mk, fixed_eta, fixed_ite, ite_self, fixed_unmaskVec]))

theorem cmd_ringEnable (i : RingId) (s : State) : staysNext s (execRingEnable i s) := by
  unfold execRingEnable
  first
    | (with_reducible refine staysNext_of ?_; simp only [fixed_mk, fixed_eta, fixed_ite, ite_self, fixed_enableRing]; done)
    | (repeat' (first | (with_reducible refine staysNext_of ?_) | split | dsimp only)) <;>
      repeat' (first | (with_reducible rfl) | (simp only [fixed_mk, fixed_eta, fixed_ite, ite_self, fixed_enableRing]; done) | (with_reducible refine fixed_foldl _ _ _ _ ?_ ?_) | (intro _ _) | split | (simp only [fixed_mk, fixed_eta, fixed_ite, ite_self, fixed_enableRing]))

theorem cmd_ringDisable (i : RingId) (s : State) : staysNext s (execRingDisable i s) := by
  unfold execRingDisable
  first
    | (with_reducible refine staysNext_of ?_; simp only [fixed_mk, fixed_eta, fixed_ite, ite_self, fixed_disableRing]; done)
    | (repeat' (first | (with_reducible refine staysNext_of ?_) | split | dsimp only)) <;>
      repeat' (first | (with_reducible rfl) | (simp only [fixed_mk, fixed_eta, fixed_ite, ite_self, fixed_disableRing]; done) | (with_reducible refine fixed_foldl _ _ _ _ ?_ ?_) | (intro _ _) | split | (simp only [fixed_mk, fixed_eta, fixed_ite, ite_self, fixed_disableRing]))

theorem cmd_ringKick (fn : Fn) (s : State) : staysNext s (execRingKick fn s) := by
  unfold execRingKick
  first
    | (with_reducible refine staysNext_of ?_; simp only [fixed_mk, fixed_eta, fixed_ite, ite_self, fixed_kick]; done)
    | (repeat' (first | (with_reducible refine staysNext_of ?_) | split | dsimp only)) <;>
      repeat' (first | (with_reducible rfl) | (simp only [fixed_mk, fixed_eta, fixed_ite, ite_self, fixed_kick]; done) | (with_reducible refine fixed_foldl _ _ _ _ ?_ ?_) | (intro _ _) | split | (simp only [fixed_mk, fixed_eta, fixed_ite, ite_self, fixed_kick]))

theorem cmd_doorbellPoll (s : State) : staysNext s (execDoorbellPoll s) := by
  unfold execDoorbellPoll
  first
    | (with_reducible refine staysNext_of ?_; simp only [fixed_mk, fixed_eta, fixed_ite, ite_self, fixed_foldl, fixed_readLine]; done)
    | (repeat' (first | (with_reducible refine staysNext_of ?_) | split | dsimp only)) <;>
      repeat' (first | (with_reducible rfl) | (simp only [fixed_mk, fixed_eta, fixed_ite, ite_self, fixed_foldl, fixed_readLine]; done) | (with_reducible refine fixed_foldl _ _ _ _ ?_ ?_) | (intro _ _) | split | (simp only [fixed_mk, fixed_eta, fixed_ite, ite_self, fixed_foldl, fixed_readLine]))

theorem cmd_doorbellLineArrived (fn : Fn) (line : List Byte) (recHead : Word64) (healthHead : Word32) (s : State) : staysNext s (execDoorbellLineArrived fn line recHead healthHead s) := by
  unfold execDoorbellLineArrived
  first
    | (with_reducible refine staysNext_of ?_; simp only [fixed_mk, fixed_eta, fixed_ite, ite_self, fixed_modFn, fixed_foldl, fixed_takeCounters, fixed_pumpAll, fixed_readLine]; done)
    | (repeat' (first | (with_reducible refine staysNext_of ?_) | split | dsimp only)) <;>
      repeat' (first | (with_reducible rfl) | (simp only [fixed_mk, fixed_eta, fixed_ite, ite_self, fixed_modFn, fixed_foldl, fixed_takeCounters, fixed_pumpAll, fixed_readLine]; done) | (with_reducible refine fixed_foldl _ _ _ _ ?_ ?_) | (intro _ _) | split | (simp only [fixed_mk, fixed_eta, fixed_ite, ite_self, fixed_modFn, fixed_foldl, fixed_takeCounters, fixed_pumpAll, fixed_readLine]))

theorem cmd_hostDmaError (src : DmaSrc) (addr : Word64) (kind : Nat) (s : State) : staysNext s (execHostDmaError src addr kind s) := by
  unfold execHostDmaError
  first
    | (with_reducible refine staysNext_of ?_; simp only [fixed_mk, fixed_eta, fixed_ite, ite_self, fixed_hostReadFails]; done)
    | (repeat' (first | (with_reducible refine staysNext_of ?_) | split | dsimp only)) <;>
      repeat' (first | (with_reducible rfl) | (simp only [fixed_mk, fixed_eta, fixed_ite, ite_self, fixed_hostReadFails]; done) | (with_reducible refine fixed_foldl _ _ _ _ ?_ ?_) | (intro _ _) | split | (simp only [fixed_mk, fixed_eta, fixed_ite, ite_self, fixed_hostReadFails]))

theorem cmd_hostReadTimeout (src : DmaSrc) (addr : Word64) (s : State) : staysNext s (execHostReadTimeout src addr s) := by
  unfold execHostReadTimeout
  first
    | (with_reducible refine staysNext_of ?_; simp only [fixed_mk, fixed_eta, fixed_ite, ite_self, fixed_hostReadFails]; done)
    | (repeat' (first | (with_reducible refine staysNext_of ?_) | split | dsimp only)) <;>
      repeat' (first | (with_reducible rfl) | (simp only [fixed_mk, fixed_eta, fixed_ite, ite_self, fixed_hostReadFails]; done) | (with_reducible refine fixed_foldl _ _ _ _ ?_ ?_) | (intro _ _) | split | (simp only [fixed_mk, fixed_eta, fixed_ite, ite_self, fixed_hostReadFails]))

theorem cmd_irqModerationTimer (i : RingId) (s : State) : staysNext s (execIrqModerationTimer i s) := by
  unfold execIrqModerationTimer
  first
    | (with_reducible refine staysNext_of ?_; simp only [fixed_mk, fixed_eta, fixed_ite, ite_self, fixed_passUntil, fixed_modRing, fixed_raiseVec]; done)
    | (repeat' (first | (with_reducible refine staysNext_of ?_) | split | dsimp only)) <;>
      repeat' (first | (with_reducible rfl) | (simp only [fixed_mk, fixed_eta, fixed_ite, ite_self, fixed_passUntil, fixed_modRing, fixed_raiseVec]; done) | (with_reducible refine fixed_foldl _ _ _ _ ?_ ?_) | (intro _ _) | split | (simp only [fixed_mk, fixed_eta, fixed_ite, ite_self, fixed_passUntil, fixed_modRing, fixed_raiseVec]))

theorem cmd_recRingEnable (fn : Fn) (s : State) : staysNext s (execRecRingEnable fn s) := by
  unfold execRecRingEnable
  first
    | (with_reducible refine staysNext_of ?_; simp only [fixed_mk, fixed_eta, fixed_ite, ite_self, fixed_enableRec]; done)
    | (repeat' (first | (with_reducible refine staysNext_of ?_) | split | dsimp only)) <;>
      repeat' (first | (with_reducible rfl) | (simp only [fixed_mk, fixed_eta, fixed_ite, ite_self, fixed_enableRec]; done) | (with_reducible refine fixed_foldl _ _ _ _ ?_ ?_) | (intro _ _) | split | (simp only [fixed_mk, fixed_eta, fixed_ite, ite_self, fixed_enableRec]))

theorem cmd_pegGrant (fn : Fn) (count : Nat) (s : State) : staysNext s (execPegGrant fn count s) := by
  unfold execPegGrant
  first
    | (with_reducible refine staysNext_of ?_; simp only [fixed_mk, fixed_eta, fixed_ite, ite_self, fixed_pegGrant]; done)
    | (repeat' (first | (with_reducible refine staysNext_of ?_) | split | dsimp only)) <;>
      repeat' (first | (with_reducible rfl) | (simp only [fixed_mk, fixed_eta, fixed_ite, ite_self, fixed_pegGrant]; done) | (with_reducible refine fixed_foldl _ _ _ _ ?_ ?_) | (intro _ _) | split | (simp only [fixed_mk, fixed_eta, fixed_ite, ite_self, fixed_pegGrant]))

theorem cmd_hemLanded (id : Nat) (s : State) : staysNext s (execHemLanded id s) := by
  unfold execHemLanded
  (repeat' (first | (with_reducible refine staysNext_of ?_) | split | dsimp only)) <;>
    repeat' (first | (with_reducible rfl) | (simp only [fixed_mk, fixed_eta, fixed_ite, ite_self, fixed_settle, fixed_landOne]; done) | (with_reducible refine fixed_foldl _ _ _ _ ?_ ?_) | (intro _ _) | split | (simp only [fixed_mk, fixed_eta, fixed_ite, ite_self, fixed_settle, fixed_landOne]))

theorem cmd_farReadLanded (id : Nat) (s : State) : staysNext s (execFarReadLanded id s) := by
  unfold execFarReadLanded
  (repeat' (first | (with_reducible refine staysNext_of ?_) | split | dsimp only)) <;>
    repeat' (first | (with_reducible rfl) | (simp only [fixed_mk, fixed_eta, fixed_ite, ite_self, fixed_settle, fixed_landOne]; done) | (with_reducible refine fixed_foldl _ _ _ _ ?_ ?_) | (intro _ _) | split | (simp only [fixed_mk, fixed_eta, fixed_ite, ite_self, fixed_settle, fixed_landOne]))

theorem cmd_saveComplete (job : Nat) (s : State) : staysNext s (execSaveComplete job s) := by
  unfold execSaveComplete
  first
    | (with_reducible refine staysNext_of ?_; simp only [fixed_mk, fixed_eta, fixed_ite, ite_self, fixed_settle, fixed_saveJob]; done)
    | (repeat' (first | (with_reducible refine staysNext_of ?_) | split | dsimp only)) <;>
      repeat' (first | (with_reducible rfl) | (simp only [fixed_mk, fixed_eta, fixed_ite, ite_self, fixed_settle, fixed_saveJob]; done) | (with_reducible refine fixed_foldl _ _ _ _ ?_ ?_) | (intro _ _) | split | (simp only [fixed_mk, fixed_eta, fixed_ite, ite_self, fixed_settle, fixed_saveJob]))

theorem cmd_restoreComplete (job : Nat) (dramBad : Bool) (s : State) : staysNext s (execRestoreComplete job dramBad s) := by
  unfold execRestoreComplete
  first
    | (with_reducible refine staysNext_of ?_; simp only [fixed_mk, fixed_eta, fixed_ite, ite_self, fixed_logHealth, fixed_settle, fixed_failJob, fixed_restoreJob]; done)
    | (repeat' (first | (with_reducible refine staysNext_of ?_) | split | dsimp only)) <;>
      repeat' (first | (with_reducible rfl) | (simp only [fixed_mk, fixed_eta, fixed_ite, ite_self, fixed_logHealth, fixed_settle, fixed_failJob, fixed_restoreJob]; done) | (with_reducible refine fixed_foldl _ _ _ _ ?_ ?_) | (intro _ _) | split | (simp only [fixed_mk, fixed_eta, fixed_ite, ite_self, fixed_logHealth, fixed_settle, fixed_failJob, fixed_restoreJob]))

theorem cmd_tailoringCommit (job : Nat) (low : Lowering) (s : State) : staysNext s (execTailoringCommit job low s) := by
  unfold execTailoringCommit
  split
  · split
    · exact staysNext_of rfl
    · split
      · exact staysNext_of rfl
      · split
        · split
          · refine staysNext_of ?_
            simp only [fixed_endMemberTailor, fixed_mk, fixed_eta]
          · refine staysNext_of ?_
            simp only [fixed_endTailor, fixed_chipCnt]
        · rename_i h
          have h := fixed_prepareSwap s h
          dsimp only
          split
          · refine staysNext_of ?_
            rw [fixed_endMemberTailor]
            repeat' split
            all_goals first | (rw [fixed_modTailor, h]; done) | (rw [fixed_dropPrepared, fixed_modTailor, h]; done)
          · refine staysNext_of ?_
            simp only [fixed_endTailor, fixed_chipCnt, fixed_applySwap, h]
  · exact staysNext_of rfl

theorem cmd_encoderCount (t : Track) (a b : Bool) (dt : Nat) (s : State) : staysNext s (execEncoderCount t a b dt s) := by
  unfold execEncoderCount
  (repeat' (first | (with_reducible refine staysNext_of ?_) | split | dsimp only)) <;>
    repeat' (first | (with_reducible rfl) | (simp only [fixed_mk, fixed_eta, fixed_ite, ite_self, fixed_passTime, fixed_modTrack, fixed_noteFeed, fixed_quadError, fixed_countStep]; done) | (with_reducible refine fixed_foldl _ _ _ _ ?_ ?_) | (intro _ _) | split | (simp only [fixed_mk, fixed_eta, fixed_ite, ite_self, fixed_passTime, fixed_modTrack, fixed_noteFeed, fixed_quadError, fixed_countStep]))

theorem cmd_sublineTrigger (t : Track) (s : State) : staysNext s (execSublineTrigger t s) := by
  unfold execSublineTrigger
  first
    | (with_reducible refine staysNext_of ?_; simp only [fixed_mk, fixed_eta, fixed_ite, ite_self, fixed_passUntil, fixed_modTrack, fixed_foldl, fixed_issueTrigger]; done)
    | (repeat' (first | (with_reducible refine staysNext_of ?_) | split | dsimp only)) <;>
      repeat' (first | (with_reducible rfl) | (simp only [fixed_mk, fixed_eta, fixed_ite, ite_self, fixed_passUntil, fixed_modTrack, fixed_foldl, fixed_issueTrigger]; done) | (with_reducible refine fixed_foldl _ _ _ _ ?_ ?_) | (intro _ _) | split | (simp only [fixed_mk, fixed_eta, fixed_ite, ite_self, fixed_passUntil, fixed_modTrack, fixed_foldl, fixed_issueTrigger]))

theorem cmd_calTrigger (p : Port) (s : State) : staysNext s (execCalTrigger p s) := by
  unfold execCalTrigger
  (repeat' (first | (with_reducible refine staysNext_of ?_) | split | dsimp only)) <;>
    repeat' (first | (with_reducible rfl) | (simp only [fixed_mk, fixed_eta, fixed_ite, ite_self, fixed_passTime, fixed_finishCal, fixed_modPort, fixed_switchLamp, fixed_lampsOn, fixed_emitPort, fixed_portCnt]; done) | (with_reducible refine fixed_foldl _ _ _ _ ?_ ?_) | (intro _ _) | split | (simp only [fixed_mk, fixed_eta, fixed_ite, ite_self, fixed_passTime, fixed_finishCal, fixed_modPort, fixed_switchLamp, fixed_lampsOn, fixed_emitPort, fixed_portCnt]))

theorem fixed_takePacket (p : Port) (bytes : List Byte) (s : State) : staysNext s (takePacket p bytes s) := by
  unfold takePacket
  (repeat' (first | (with_reducible refine staysNext_of ?_) | split | dsimp only)) <;>
    repeat' (first | (with_reducible rfl) | (simp only [fixed_mk, fixed_eta, fixed_ite, ite_self, fixed_modPort, fixed_portCnt, fixed_calPacket, fixed_linePacket]; done) | (with_reducible refine fixed_foldl _ _ _ _ ?_ ?_) | (intro _ _) | split | (simp only [fixed_mk, fixed_eta, fixed_ite, ite_self, fixed_modPort, fixed_portCnt, fixed_calPacket, fixed_linePacket]))

theorem cmd_linePacket (p : Port) (lanes : List (List Byte)) (s : State) : staysNext s (execLinePacket p lanes s) := by
  unfold execLinePacket
  split
  · exact staysNext_of rfl
  · exact fixed_takePacket ..

theorem cmd_romBoot (f : RomFacts) (s : State) : staysNext s (execRomBoot f s) := by
  unfold execRomBoot
  first
    | (with_reducible refine staysNext_of ?_; simp only [fixed_mk, fixed_eta, fixed_ite, ite_self, fixed_readRecords, fixed_bootImage]; done)
    | (repeat' (first | (with_reducible refine staysNext_of ?_) | split | dsimp only)) <;>
      repeat' (first | (with_reducible rfl) | (simp only [fixed_mk, fixed_eta, fixed_ite, ite_self, fixed_readRecords, fixed_bootImage]; done) | (with_reducible refine fixed_foldl _ _ _ _ ?_ ?_) | (intro _ _) | split | (simp only [fixed_mk, fixed_eta, fixed_ite, ite_self, fixed_readRecords, fixed_bootImage]))

theorem cmd_attestationRenewal (s : State) : staysNext s (execAttestationRenewal s) := by
  unfold execAttestationRenewal
  split
  · exact staysNext_of rfl
  · split
    · exact staysNext_of rfl
    · split
      · exact staysNext_of rfl
      · rename_i h
        refine staysNext_of ?_
        have := fixed_idLeaf s h
        simpa only [fixed_mk, fixed_eta] using this

theorem cmd_attestationTreeRebuilt (s : State) : staysNext s (execAttestationTreeRebuilt s) := by
  unfold execAttestationTreeRebuilt
  first
    | (with_reducible refine staysNext_of ?_; simp only [fixed_mk, fixed_eta, fixed_ite, ite_self]; done)
    | (repeat' (first | (with_reducible refine staysNext_of ?_) | split | dsimp only)) <;>
      repeat' (first | (with_reducible rfl) | (simp only [fixed_mk, fixed_eta, fixed_ite, ite_self]; done) | (with_reducible refine fixed_foldl _ _ _ _ ?_ ?_) | (intro _ _) | split | (simp only [fixed_mk, fixed_eta, fixed_ite, ite_self]))

theorem cmd_attestGo (fn : Fn) (s : State) : staysNext s (execAttestGo fn s) := by
  unfold execAttestGo
  first
    | (with_reducible refine staysNext_of ?_; simp only [fixed_mk, fixed_eta, fixed_ite, ite_self, fixed_attestGo]; done)
    | (repeat' (first | (with_reducible refine staysNext_of ?_) | split | dsimp only)) <;>
      repeat' (first | (with_reducible rfl) | (simp only [fixed_mk, fixed_eta, fixed_ite, ite_self, fixed_attestGo]; done) | (with_reducible refine fixed_foldl _ _ _ _ ?_ ?_) | (intro _ _) | split | (simp only [fixed_mk, fixed_eta, fixed_ite, ite_self, fixed_attestGo]))

theorem cmd_quoteStart (hostWriteOk : Bool) (s : State) : staysNext s (execQuoteStart hostWriteOk s) := by
  unfold execQuoteStart
  first
    | (with_reducible refine staysNext_of ?_; simp only [fixed_mk, fixed_eta, fixed_ite, ite_self, fixed_serveQuote]; done)
    | (repeat' (first | (with_reducible refine staysNext_of ?_) | split | dsimp only)) <;>
      repeat' (first | (with_reducible rfl) | (simp only [fixed_mk, fixed_eta, fixed_ite, ite_self, fixed_serveQuote]; done) | (with_reducible refine fixed_foldl _ _ _ _ ?_ ?_) | (intro _ _) | split | (simp only [fixed_mk, fixed_eta, fixed_ite, ite_self, fixed_serveQuote]))

theorem cmd_updateStage (s : State) : staysNext s (execUpdateStage s) := by
  unfold execUpdateStage
  first
    | (with_reducible refine staysNext_of ?_; simp only [fixed_mk, fixed_eta, fixed_ite, ite_self, fixed_startUpdate]; done)
    | (repeat' (first | (with_reducible refine staysNext_of ?_) | split | dsimp only)) <;>
      repeat' (first | (with_reducible rfl) | (simp only [fixed_mk, fixed_eta, fixed_ite, ite_self, fixed_startUpdate]; done) | (with_reducible refine fixed_foldl _ _ _ _ ?_ ?_) | (intro _ _) | split | (simp only [fixed_mk, fixed_eta, fixed_ite, ite_self, fixed_startUpdate]))

theorem cmd_updateBlob (s : State) : staysNext s (execUpdateBlob s) := by
  unfold execUpdateBlob
  first
    | (with_reducible refine staysNext_of ?_; simp only [fixed_mk, fixed_eta, fixed_ite, ite_self, fixed_startUpdate]; done)
    | (repeat' (first | (with_reducible refine staysNext_of ?_) | split | dsimp only)) <;>
      repeat' (first | (with_reducible rfl) | (simp only [fixed_mk, fixed_eta, fixed_ite, ite_self, fixed_startUpdate]; done) | (with_reducible refine fixed_foldl _ _ _ _ ?_ ?_) | (intro _ _) | split | (simp only [fixed_mk, fixed_eta, fixed_ite, ite_self, fixed_startUpdate]))

theorem cmd_updateDone (bytes : List Byte) (writeOk : Bool) (s : State) : staysNext s (execUpdateDone bytes writeOk s) := by
  unfold execUpdateDone
  first
    | (with_reducible refine staysNext_of ?_; simp only [fixed_mk, fixed_eta, fixed_ite, ite_self, fixed_stageBlob, fixed_stageImage]; done)
    | (repeat' (first | (with_reducible refine staysNext_of ?_) | split | dsimp only)) <;>
      repeat' (first | (with_reducible rfl) | (simp only [fixed_mk, fixed_eta, fixed_ite, ite_self, fixed_stageBlob, fixed_stageImage]; done) | (with_reducible refine fixed_foldl _ _ _ _ ?_ ?_) | (intro _ _) | split | (simp only [fixed_mk, fixed_eta, fixed_ite, ite_self, fixed_stageBlob, fixed_stageImage]))

theorem cmd_regionApply (g : Region) (s : State) : staysNext s (execRegionApply g s) := by
  unfold execRegionApply
  first
    | (with_reducible refine staysNext_of ?_; simp only [fixed_mk, fixed_eta, fixed_ite, ite_self, fixed_applyRegion]; done)
    | (repeat' (first | (with_reducible refine staysNext_of ?_) | split | dsimp only)) <;>
      repeat' (first | (with_reducible rfl) | (simp only [fixed_mk, fixed_eta, fixed_ite, ite_self, fixed_applyRegion]; done) | (with_reducible refine fixed_foldl _ _ _ _ ?_ ?_) | (intro _ _) | split | (simp only [fixed_mk, fixed_eta, fixed_ite, ite_self, fixed_applyRegion]))

theorem cmd_confirm (s : State) : staysNext s (execConfirm s) := by
  unfold execConfirm
  first
    | (with_reducible refine staysNext_of ?_; simp only [fixed_mk, fixed_eta, fixed_ite, ite_self, fixed_confirmFloor]; done)
    | (repeat' (first | (with_reducible refine staysNext_of ?_) | split | dsimp only)) <;>
      repeat' (first | (with_reducible rfl) | (simp only [fixed_mk, fixed_eta, fixed_ite, ite_self, fixed_confirmFloor]; done) | (with_reducible refine fixed_foldl _ _ _ _ ?_ ?_) | (intro _ _) | split | (simp only [fixed_mk, fixed_eta, fixed_ite, ite_self, fixed_confirmFloor]))

theorem cmd_ack (seq : Half) (s : State) : staysNext s (execAck seq s) := by
  unfold execAck
  first
    | (with_reducible refine staysNext_of ?_; simp only [fixed_mk, fixed_eta, fixed_ite, ite_self, fixed_chipCnt]; done)
    | (repeat' (first | (with_reducible refine staysNext_of ?_) | split | dsimp only)) <;>
      repeat' (first | (with_reducible rfl) | (simp only [fixed_mk, fixed_eta, fixed_ite, ite_self, fixed_chipCnt]; done) | (with_reducible refine fixed_foldl _ _ _ _ ?_ ?_) | (intro _ _) | split | (simp only [fixed_mk, fixed_eta, fixed_ite, ite_self, fixed_chipCnt]))

theorem cmd_nak (seq : Half) (s : State) : staysNext s (execNak seq s) := by
  unfold execNak
  first
    | (with_reducible refine staysNext_of ?_; simp only [fixed_mk, fixed_eta, fixed_ite, ite_self, fixed_chipCnt, fixed_linkDown, fixed_foldl, fixed_emit]; done)
    | (repeat' (first | (with_reducible refine staysNext_of ?_) | split | dsimp only)) <;>
      repeat' (first | (with_reducible rfl) | (simp only [fixed_mk, fixed_eta, fixed_ite, ite_self, fixed_chipCnt, fixed_linkDown, fixed_foldl, fixed_emit]; done) | (with_reducible refine fixed_foldl _ _ _ _ ?_ ?_) | (intro _ _) | split | (simp only [fixed_mk, fixed_eta, fixed_ite, ite_self, fixed_chipCnt, fixed_linkDown, fixed_foldl, fixed_emit]))

theorem cmd_twinFrameCrcFail (s : State) : staysNext s (execTwinFrameCrcFail s) := by
  unfold execTwinFrameCrcFail
  first
    | (with_reducible refine staysNext_of ?_; simp only [fixed_mk, fixed_eta, fixed_ite, ite_self, fixed_sendAck]; done)
    | (repeat' (first | (with_reducible refine staysNext_of ?_) | split | dsimp only)) <;>
      repeat' (first | (with_reducible rfl) | (simp only [fixed_mk, fixed_eta, fixed_ite, ite_self, fixed_sendAck]; done) | (with_reducible refine fixed_foldl _ _ _ _ ?_ ?_) | (intro _ _) | split | (simp only [fixed_mk, fixed_eta, fixed_ite, ite_self, fixed_sendAck]))

theorem cmd_twinLinkUp (rate16 : Bool) (s : State) : staysNext s (execTwinLinkUp rate16 s) := by
  unfold execTwinLinkUp
  first
    | (with_reducible refine staysNext_of ?_; simp only [fixed_mk, fixed_eta, fixed_ite, ite_self, fixed_sendPair]; done)
    | (repeat' (first | (with_reducible refine staysNext_of ?_) | split | dsimp only)) <;>
      repeat' (first | (with_reducible rfl) | (simp only [fixed_mk, fixed_eta, fixed_ite, ite_self, fixed_sendPair]; done) | (with_reducible refine fixed_foldl _ _ _ _ ?_ ?_) | (intro _ _) | split | (simp only [fixed_mk, fixed_eta, fixed_ite, ite_self, fixed_sendPair]))

theorem cmd_twinLinkDown (s : State) : staysNext s (execTwinLinkDown s) := by
  unfold execTwinLinkDown
  first
    | (with_reducible refine staysNext_of ?_; simp only [fixed_mk, fixed_eta, fixed_ite, ite_self, fixed_linkDown]; done)
    | (repeat' (first | (with_reducible refine staysNext_of ?_) | split | dsimp only)) <;>
      repeat' (first | (with_reducible rfl) | (simp only [fixed_mk, fixed_eta, fixed_ite, ite_self, fixed_linkDown]; done) | (with_reducible refine fixed_foldl _ _ _ _ ?_ ?_) | (intro _ _) | split | (simp only [fixed_mk, fixed_eta, fixed_ite, ite_self, fixed_linkDown]))

theorem cmd_pair (seq : Half) (unit role : Bool) (serial : List Byte) (s : State) : staysNext s (execPair seq unit role serial s) := by
  unfold execPair
  refine staysNext_of (fixed_receiveFrame s ?_)
  intro u
  split
  · exact fixed_finishPair u
  · rfl

theorem cmd_twinEnable (on : Bool) (s : State) : staysNext s (execTwinEnable on s) := by
  unfold execTwinEnable
  first
    | (with_reducible refine staysNext_of ?_; simp only [fixed_mk, fixed_eta, fixed_ite, ite_self, fixed_setTwinEnable]; done)
    | (repeat' (first | (with_reducible refine staysNext_of ?_) | split | dsimp only)) <;>
      repeat' (first | (with_reducible rfl) | (simp only [fixed_mk, fixed_eta, fixed_ite, ite_self, fixed_setTwinEnable]; done) | (with_reducible refine fixed_foldl _ _ _ _ ?_ ?_) | (intro _ _) | split | (simp only [fixed_mk, fixed_eta, fixed_ite, ite_self, fixed_setTwinEnable]))

theorem cmd_sync (seq : Half) (p : SyncP) (s : State) : staysNext s (execSync seq p s) := by
  unfold execSync
  refine staysNext_of (fixed_receiveFrame s ?_)
  intro u
  split
  · dsimp only
    refine fixed_foldl _ _ _ _ ?_ ?_
    · simp only [fixed_mk, fixed_eta, fixed_adoptTrack]
    · intro _ _
      exact fixed_modPort _
  · rfl

theorem cmd_heartbeat (seq : Half) (p : HeartbeatP) (s : State) : staysNext s (execHeartbeat seq p s) := by
  unfold execHeartbeat
  refine staysNext_of (fixed_receiveFrame s ?_)
  intro u
  dsimp only
  split
  · simp only [fixed_judgeWindows, fixed_judgeReady, fixed_noteCommitted, fixed_mk, fixed_eta]
  · simp only [fixed_mk, fixed_eta]

theorem cmd_heartbeatSend (s : State) : staysNext s (execHeartbeatSend s) := by
  unfold execHeartbeatSend
  first
    | (with_reducible refine staysNext_of ?_; simp only [fixed_mk, fixed_eta, fixed_ite, ite_self, fixed_sendFrame]; done)
    | (repeat' (first | (with_reducible refine staysNext_of ?_) | split | dsimp only)) <;>
      repeat' (first | (with_reducible rfl) | (simp only [fixed_mk, fixed_eta, fixed_ite, ite_self, fixed_sendFrame]; done) | (with_reducible refine fixed_foldl _ _ _ _ ?_ ?_) | (intro _ _) | split | (simp only [fixed_mk, fixed_eta, fixed_ite, ite_self, fixed_sendFrame]))

theorem cmd_heartbeatMissed (s : State) : staysNext s (execHeartbeatMissed s) := by
  unfold execHeartbeatMissed
  first
    | (with_reducible refine staysNext_of ?_; simp only [fixed_mk, fixed_eta, fixed_ite, ite_self, fixed_chipCnt, fixed_takeOver]; done)
    | (repeat' (first | (with_reducible refine staysNext_of ?_) | split | dsimp only)) <;>
      repeat' (first | (with_reducible rfl) | (simp only [fixed_mk, fixed_eta, fixed_ite, ite_self, fixed_chipCnt, fixed_takeOver]; done) | (with_reducible refine fixed_foldl _ _ _ _ ?_ ?_) | (intro _ _) | split | (simp only [fixed_mk, fixed_eta, fixed_ite, ite_self, fixed_chipCnt, fixed_takeOver]))

theorem cmd_health (seq : Half) (cause : Nat) (pieceA pieceB : Word32) (s : State) : staysNext s (execHealth seq cause pieceA pieceB s) := by
  unfold execHealth
  refine staysNext_of (fixed_receiveFrame s ?_)
  intro u
  split
  · exact fixed_takeOver u
  · rfl

theorem cmd_takeoverClear (s : State) : staysNext s (execTakeoverClear s) := by
  unfold execTakeoverClear
  first
    | (with_reducible refine staysNext_of ?_; simp only [fixed_mk, fixed_eta, fixed_ite, ite_self, fixed_clearTakeover]; done)
    | (repeat' (first | (with_reducible refine staysNext_of ?_) | split | dsimp only)) <;>
      repeat' (first | (with_reducible rfl) | (simp only [fixed_mk, fixed_eta, fixed_ite, ite_self, fixed_clearTakeover]; done) | (with_reducible refine fixed_foldl _ _ _ _ ?_ ?_) | (intro _ _) | split | (simp only [fixed_mk, fixed_eta, fixed_ite, ite_self, fixed_clearTakeover]))

theorem cmd_twinFenceIn (asserted : Bool) (s : State) : staysNext s (execTwinFenceIn asserted s) := by
  unfold execTwinFenceIn
  first
    | (with_reducible refine staysNext_of ?_; simp only [fixed_mk, fixed_eta, fixed_ite, ite_self, fixed_stopReading]; done)
    | (repeat' (first | (with_reducible refine staysNext_of ?_) | split | dsimp only)) <;>
      repeat' (first | (with_reducible rfl) | (simp only [fixed_mk, fixed_eta, fixed_ite, ite_self, fixed_stopReading]; done) | (with_reducible refine fixed_foldl _ _ _ _ ?_ ?_) | (intro _ _) | split | (simp only [fixed_mk, fixed_eta, fixed_ite, ite_self, fixed_stopReading]))

theorem cmd_fenceClear (s : State) : staysNext s (execFenceClear s) := by
  unfold execFenceClear
  first
    | (with_reducible refine staysNext_of ?_; simp only [fixed_mk, fixed_eta, fixed_ite, ite_self, fixed_clearFence]; done)
    | (repeat' (first | (with_reducible refine staysNext_of ?_) | split | dsimp only)) <;>
      repeat' (first | (with_reducible rfl) | (simp only [fixed_mk, fixed_eta, fixed_ite, ite_self, fixed_clearFence]; done) | (with_reducible refine fixed_foldl _ _ _ _ ?_ ?_) | (intro _ _) | split | (simp only [fixed_mk, fixed_eta, fixed_ite, ite_self, fixed_clearFence]))

theorem cmd_handover (s : State) : staysNext s (execHandover s) := by
  unfold execHandover
  first
    | (with_reducible refine staysNext_of ?_; simp only [fixed_mk, fixed_eta, fixed_ite, ite_self, fixed_startHandover]; done)
    | (repeat' (first | (with_reducible refine staysNext_of ?_) | split | dsimp only)) <;>
      repeat' (first | (with_reducible rfl) | (simp only [fixed_mk, fixed_eta, fixed_ite, ite_self, fixed_startHandover]; done) | (with_reducible refine fixed_foldl _ _ _ _ ?_ ?_) | (intro _ _) | split | (simp only [fixed_mk, fixed_eta, fixed_ite, ite_self, fixed_startHandover]))

theorem cmd_windowState (seq : Half) (win access len : Nat) (s : State) : staysNext s (execWindowState seq win access len s) := by
  unfold execWindowState
  refine staysNext_of (fixed_receiveFrame s ?_)
  intro u
  simp only [fixed_mk, fixed_eta]

theorem cmd_twinWrite (seq : Half) (f : TwinWriteP) (s : State) : staysNext s (execTwinWrite seq f s) := by
  unfold execTwinWrite
  refine staysNext_of (fixed_receiveFrame s ?_)
  intro u
  have h := fixed_landWrite u (x1 := f)
  dsimp only
  repeat' split
  all_goals first | exact h | (rw [fixed_sendFrame, fixed_mk]; exact h) | (rw [fixed_mk]; exact h)

theorem cmd_writeDone (seq : Half) (xfer status : Nat) (s : State) : staysNext s (execWriteDone seq xfer status s) := by
  unfold execWriteDone
  refine staysNext_of (fixed_receiveFrame s ?_)
  intro u
  split
  · simp only [fixed_complete, fixed_mk, fixed_eta]
  · rfl


/-! ### Resets, bring-up, register writes, the commit of a fold -/

/-- What any command may do to the queue, the stage and the verdict table: the queue stays; the stage stays, rises by one up to S6, or goes to S0; the table stays, is
cleared, or takes one sound entry. -/
def moves (s t : State) : Prop :=
  t.pending = s.pending ∧ (t.boot.stage = s.boot.stage ∨ (t.boot.stage = s.boot.stage + 1 ∧ s.boot.stage ≤ 5) ∨ t.boot.stage = 0) ∧
  (t.port.table = s.port.table ∨ t.port.table = State.reset.port.table ∨ ∃ (i : Nat) (hi : i < 256) (e : List Byte), entryOk e ∧ t.port.table = s.port.table.set i e hi)

theorem moves_of_fixed {s t : State} (h : t.fixed = s.fixed) : moves s t := by
  simp only [State.fixed, Prod.mk.injEq] at h
  exact ⟨h.1, .inl h.2.1, .inl h.2.2⟩

/-- The stage rises by one and nothing else moves. -/
theorem moves_of_rise {s t : State} (h : t.fixed = (s.pending, s.boot.stage + 1, s.port.table)) (hs : s.boot.stage ≤ 5) : moves s t := by
  simp only [State.fixed, Prod.mk.injEq] at h
  exact ⟨h.1, .inr (.inl ⟨h.2.1, hs⟩), .inl h.2.2⟩

/-- What a reset does to them, if it happens: the queue stays, the stage goes to S0 and the verdict table is cleared. -/
def clears (s t : State) : Prop :=
  t.pending = s.pending ∧ (t.boot.stage = s.boot.stage ∨ t.boot.stage = 0) ∧ (t.port.table = s.port.table ∨ t.port.table = State.reset.port.table)

theorem clears_of_fixed {s t : State} (h : t.fixed = s.fixed) : clears s t := by
  simp only [State.fixed, Prod.mk.injEq] at h
  exact ⟨h.1, .inl h.2.1, .inl h.2.2⟩

theorem clears.trans {s t u : State} (h : clears s t) (k : clears t u) : clears s u := by
  obtain ⟨a, b, c⟩ := h
  obtain ⟨a', b', c'⟩ := k
  refine ⟨a'.trans a, ?_, ?_⟩
  · rcases b' with h | h
    · rw [h]; exact b
    · exact .inr h
  · rcases c' with h | h
    · rw [h]; exact c
    · exact .inr h

theorem clears.moves {s t : State} (h : clears s t) : moves s t := by
  obtain ⟨a, b, c⟩ := h
  exact ⟨a, b.elim .inl fun h => .inr (.inr h), c.elim .inl fun h => .inr (.inl h)⟩

theorem clears_powerState (s : State) (r : Bool) : clears s (powerState s r) := ⟨rfl, .inr rfl, .inr rfl⟩

theorem clears_moduleState (s : State) (c : Nat) (h : Held) : clears s (moduleState s c h) := ⟨rfl, .inr rfl, .inr rfl⟩

theorem clears_moduleReset (s : State) (c : Nat) : clears s (moduleReset s c) := by
  unfold moduleReset
  split
  · exact clears_moduleState s c _
  · exact clears_of_fixed rfl

theorem clears_pwrReset (s : State) : clears s (pwrReset s) := by
  unfold pwrReset
  split
  · exact clears_of_fixed rfl
  · exact clears_moduleReset s 3

theorem moves_trans {s t u : State} (h : t.fixed = s.fixed) (k : moves t u) : moves s u := by
  simp only [State.fixed, Prod.mk.injEq] at h
  obtain ⟨a, b, c⟩ := k
  refine ⟨a.trans h.1, ?_, ?_⟩
  · rw [h.2.1] at b; exact b
  · rw [h.2.2] at c; exact c

theorem moves_fixed {s t u : State} (k : moves s t) (h : u.fixed = t.fixed) : moves s u := by
  simp only [State.fixed, Prod.mk.injEq] at h
  obtain ⟨a, b, c⟩ := k
  exact ⟨h.1.trans a, by rw [h.2.1]; exact b, by rw [h.2.2]; exact c⟩

theorem moves_thermalSample (rs : List (List Int)) (c : Int) (d : List Int) (s : State) : ∃ t, execThermalSample rs c d s = .next t ∧ moves s t := by
  refine ⟨_, rfl, ?_⟩
  split
  · exact moves_of_fixed rfl
  · split
    · split <;> exact moves_of_fixed rfl
    · exact moves_of_fixed rfl
    · split
      · unfold takeTemps
        dsimp only
        split
        · unfold thermalTrip
          dsimp only
          exact moves_trans (t := { s with pwr := _ }) rfl (clears_moduleState _ _ _).moves
        · refine moves_of_fixed ?_
          rw [fixed_mk, fixed_eta]
          exact fixed_foldl _ _ _ _ rfl fun _ _ => fixed_modRegion _
      · exact moves_of_fixed rfl

theorem moves_romBoot (f : RomFacts) (s : State) : ∃ t, execRomBoot f s = .next t ∧ moves s t := by
  unfold execRomBoot
  split
  · exact ⟨_, rfl, moves_of_fixed rfl⟩
  · dsimp only
    split
    · exact ⟨_, rfl, moves_of_fixed rfl⟩
    · split
      · refine ⟨_, rfl, moves_of_fixed ?_⟩
        rw [fixed_bootImage, fixed_readRecords, fixed_mk]; rfl
      · refine ⟨_, rfl, moves_of_fixed ?_⟩
        rw [fixed_mk]; rfl

theorem moves_regionFirmware (s : State) : ∃ t, execRegionFirmwareLoaded s = .next t ∧ moves s t := by
  refine ⟨_, rfl, ?_⟩
  split
  · rename_i h
    refine moves_of_rise ?_ (by omega)
    have := fixed_foldl loadRegion allRegions s s rfl fun _ _ => fixed_loadRegion _
    simp only [State.fixed, Prod.mk.injEq] at this
    rw [fixed_pumpAll, fixed_mk, this.1, this.2.2, h]
  · exact moves_of_fixed rfl

theorem moves_dramTrained (ok : Bool) (s : State) : ∃ t, execDramTrained ok s = .next t ∧ moves s t := by
  refine ⟨_, rfl, ?_⟩
  split
  · rename_i h
    split
    · refine moves_of_rise ?_ (by omega)
      refine Eq.trans (fixed_foldl endFirstLight allTracks _ { s with boot := { s.boot with stage := 4 } } rfl fun _ _ => fixed_endFirstLight _) ?_
      rw [fixed_mk, h]
    · exact moves_of_fixed rfl
  · exact moves_of_fixed rfl

theorem moves_fabricTests (br : List (Nat × Nat × Nat)) (bt : List Nat) (s : State) : ∃ t, execFabricTestsDone br bt s = .next t ∧ moves s t := by
  refine ⟨_, rfl, ?_⟩
  split
  · rename_i h
    have hf : (allRegions.foldl (s5Region bt) (br.foldl s5Row s)).fixed = s.fixed :=
      fixed_foldl _ _ _ _ (fixed_foldl _ _ _ _ rfl fun _ _ => fixed_s5Row _) fun _ _ => fixed_s5Region _
    dsimp only
    split
    · exact moves_of_fixed (Eq.trans (by rw [fixed_mk, fixed_eta]) hf)
    · refine moves_of_rise ?_ (by omega)
      simp only [State.fixed, Prod.mk.injEq] at hf
      rw [fixed_pumpAll, fixed_mk, hf.1, hf.2.2, h]
  · exact moves_of_fixed rfl

theorem clears_writeAct (s : State) (fn : Fn) (off : Nat) (r : RegSpec) (v : Nat) : clears s (writeAct s fn off r v) := by
  unfold writeAct
  split
  all_goals first
    | with_reducible exact clears_of_fixed (fixed_writePlain _)
    | with_reducible exact clears_of_fixed (fixed_modFn _)
    | with_reducible exact clears_of_fixed (fixed_writeVfEnable _)
    | with_reducible exact clears_of_fixed (fixed_kick _)
    | with_reducible exact clears_of_fixed (fixed_pegGrant _)
    | with_reducible exact clears_of_fixed (fixed_writeSetup _)
    | with_reducible exact clears_of_fixed (fixed_writeTwinCfg _)
    | with_reducible exact clears_of_fixed (fixed_writeTwinStatus _)
    | with_reducible exact clears_of_fixed (fixed_writeUpdate _)
    | with_reducible exact clears_of_fixed (fixed_writeRegions _)
    | skip
  all_goals try dsimp only
  all_goals repeat' split
  all_goals first
    | exact clears_pwrReset s
    | (refine clears_of_fixed ?_; with_reducible rfl)
    | (refine clears_of_fixed ?_; simp only [fixed_enableRec, fixed_modFn, fixed_enableRing, fixed_disableRing, fixed_clearOverrate, fixed_clearUnexpected, fixed_badWrite, fixed_dictStart, fixed_startHandover, fixed_attestGo, fixed_enableLog, fixed_maskVec, fixed_unmaskVec, fixed_mk, fixed_eta])

theorem clears_writeReg (s : State) (fn : Fn) (off : Nat) (r : RegSpec) (v : Nat) : clears s (writeReg s fn off r v) := by
  unfold writeReg
  split
  · exact clears_of_fixed rfl
  · split
    · exact clears_of_fixed (fixed_writeSetup _)
    · exact clears_writeAct ..

theorem clears_write4 (s : State) (fn : Fn) (off v : Nat) : clears s (write4 s fn off v) := by
  unfold write4
  split
  · split
    · exact clears_of_fixed rfl
    · exact clears_writeReg ..
  · split
    · split
      · exact (clears_of_fixed (t := { s with regs := _ }) rfl).trans (clears_writeReg ..)
      · exact clears_of_fixed rfl
    · exact clears_of_fixed rfl

theorem clears_writeAccess (s : State) (fn : Fn) (off size v : Nat) : clears s (writeAccess s fn off size v) := by
  unfold writeAccess
  split
  · exact clears_write4 ..
  · split
    · split
      · split
        · exact clears_writeReg ..
        · exact (clears_write4 ..).trans (clears_write4 ..)
      · exact clears_write4 ..
    · exact clears_of_fixed (fixed_badWrite _)

/-- An entry built for the verdict table is sound (R369, Table 14-6). -/
theorem entryOk_verdictEntry (n : Nat) (st : Status) (t : Nat) (a b : Bool) (v : Word32) (l : Nat) : entryOk (verdictEntry n st t a b v l) := by
  right
  have h : ∀ (x : List Byte) (y : Byte), x.length = 15 → (x ++ [y]).length = 16 ∧ (x ++ [y]).getD 15 0 = y ∧ (x ++ [y]).take 15 = x := by
    intro x y hx
    refine ⟨by simp [hx], by simp [List.getD, hx], by rw [← hx]; simp⟩
  have hl : ∀ n v, (leBytes n v).length = n := by
    intro n
    induction n with
    | zero => intro v; rfl
    | succ n ih => intro v; simp [leBytes, ih]
  unfold verdictEntry
  dsimp only
  generalize hb : (leBytes 4 n ++ leBytes 2 st.code ++ leBytes 1 t ++ leBytes 1 (1 + 2 * b2n a + 4 * b2n b) ++
    leBytes 4 (if st = .ok then v.toNat else 0xFFFFFFFF) ++ leBytes 2 l ++ zeros 1) = body
  have hn : body.length = 15 := by rw [← hb]; simp [hl, zeros]
  obtain ⟨h1, h2, h3⟩ := h body (xorBytes body) hn
  exact ⟨h1, by rw [h2, h3]⟩

/-- A verdict that becomes visible writes one sound entry. -/
theorem moves_publishVerdict (s u : State) (k : Track) (n : Nat) (p : Piece) (st : Status) (line : Nat) (h : u.fixed = s.fixed) : moves s (publishVerdict u k n p st line) := by
  unfold publishVerdict
  dsimp only
  refine moves_fixed (t := setEntry u n (verdictEntry n st (trackNum k) p.companion p.restarted (p.verdict.getD 0xFFFFFFFF) line)) ?_ ?_
  · refine moves_trans h ⟨rfl, .inl rfl, .inr (.inr ⟨n % 256, Nat.mod_lt n (by decide), _, entryOk_verdictEntry .., rfl⟩)⟩
  · rw [fixed_prunePieces, fixed_pegArbitrate, fixed_countVerdict]

theorem moves_verdictOrCapture (s u : State) (k : Track) (n : Nat) (p : Piece) (st : Status) (line : Nat) (h : u.fixed = s.fixed) :
    moves s (if (u.track k).firstLight then prunePieces u k else publishVerdict u k n p st line) := by
  split
  · exact moves_of_fixed ((fixed_prunePieces u).trans h)
  · exact moves_publishVerdict s u k n p st line h

theorem moves_commitVerdict (s : State) (k : Track) (n : Nat) {u : State} (h : commitVerdict s k n = some u) : moves s u := by
  unfold commitVerdict at h
  split at h
  · cases h; exact moves_of_fixed rfl
  · rename_i p _
    have hv : (if p.T.isNone = true then (s.freeNat.1 % 2 ^ 32, s.freeNat.2) else (0, s)).2.fixed = s.fixed := by
      split
      · exact fixed_freeNat s
      · rfl
    dsimp only at h
    generalize (if p.T.isNone = true then (s.freeNat.1 % 2 ^ 32, s.freeNat.2) else (0, s)) = g at h hv
    split at h
    · exact absurd h (by simp)
    · exact absurd h (by simp)
    · rw [Option.some.injEq] at h
      rw [← h]
      refine moves_verdictOrCapture _ _ _ _ _ _ _ ?_
      rw [fixed_modPiece, fixed_commitPost]; exact hv

theorem moves_foldCommit (s : State) : ∃ t, execFoldCommit s = .next t ∧ moves s t := by
  refine ⟨_, rfl, ?_⟩
  unfold commitNext
  split
  · exact moves_of_fixed rfl
  · split
    · split
      · rename_i h
        refine moves_fixed ?_ ((fixed_finishHandover _).trans (fixed_judgeWindows _))
        exact moves_trans (t := { s with commitQ := _ }) (by rw [fixed_mk, fixed_eta]) (moves_commitVerdict _ _ _ h)
      · exact moves_of_fixed (by rw [fixed_mk, fixed_eta])
    · split
      · refine moves_of_fixed ?_
        rw [fixed_serveImages, fixed_commitHost, fixed_mk, fixed_eta]
      · exact moves_of_fixed (by rw [fixed_mk, fixed_eta])

/-- Whatever the command and the state: a next state that moves the queue, the stage and the verdict table only as `moves` says, or the one refusal. -/
theorem exec_moves (c : Instr) (s : State) :
    (∃ t, exec c s = .next t ∧ moves s t) ∨ (exec c s = .refused .debugPortOpen ∧ (∃ v, c = .testAccessPort (.other v)) ∧ s.sec.blob.debugOpen = true) := by
  have go : ∀ {o}, staysNext s o → (∃ t, o = .next t ∧ moves s t) := fun ⟨t, h, k⟩ => ⟨t, h, moves_of_fixed k⟩
  cases c
  case pieceInEdge => exact .inl (go (cmd_pieceInEdge _ s))
  case gapUpdateBuilt => exact .inl (go (cmd_gapUpdateBuilt _ s))
  case encoderCount => exact .inl (go (cmd_encoderCount _ _ _ _ s))
  case sublineTrigger => exact .inl (go (cmd_sublineTrigger _ s))
  case linePacket => exact .inl (go (cmd_linePacket _ _ s))
  case registeredLineStored => exact .inl (go (cmd_registeredLineStored _ s))
  case leadingEdgeTimeout => exact .inl (go (cmd_leadingEdgeTimeout _ s))
  case trailingEdgeFound => exact .inl (go (cmd_trailingEdgeFound _ s))
  case overlength => exact .inl (go (cmd_overlength _ s))
  case lineCommitted => exact .inl (go (cmd_lineCommitted _ s))
  case checkWindowCaptured => exact .inl (go (cmd_checkWindowCaptured _ _ s))
  case scanDisarmGap => exact .inl (go (cmd_scanDisarmGap _ s))
  case scanDisarmEffect => exact .inl (go (cmd_scanDisarmEffect _ s))
  case calTrigger => exact .inl (go (cmd_calTrigger _ s))
  case reservationMove => exact .inl (go (cmd_reservationMove _ s))
  case segmentBoundary => exact .inl (go (cmd_segmentBoundary _ s))
  case programFetchComplete => exact .inl (go (cmd_programFetchComplete _ s))
  case seqWatchdogExpiry => exact .inl (go (cmd_seqWatchdogExpiry _ _ s))
  case endMarkMissing => exact .inl (go (cmd_endMarkMissing _ _ s))
  case spareReloadDone => exact .inl (go (cmd_spareReloadDone _ s))
  case thermalSample =>
    exact .inl (moves_thermalSample ..)
  case farReadLanded => exact .inl (go (cmd_farReadLanded _ s))
  case hemLanded => exact .inl (go (cmd_hemLanded _ s))
  case scrubRead => exact .inl (go (cmd_scrubRead _ _ _ s))
  case fieldDarn => exact .inl (go (cmd_fieldDarn _ _ _ s))
  case batchStepStart => exact .inl (go (cmd_batchStepStart _ s))
  case saveComplete => exact .inl (go (cmd_saveComplete _ s))
  case restoreComplete => exact .inl (go (cmd_restoreComplete _ _ s))
  case wardrobeLoadComplete => exact .inl (go (cmd_wardrobeLoadComplete _ _ s))
  case planLoadComplete => exact .inl (go (cmd_planLoadComplete _ _ _ s))
  case relowerComplete => exact .inl (go (cmd_relowerComplete _ _ s))
  case planUnloadComplete => exact .inl (go (cmd_planUnloadComplete _ s))
  case doorbellPoll => exact .inl (go (cmd_doorbellPoll s))
  case doorbellLineArrived => exact .inl (go (cmd_doorbellLineArrived _ _ _ _ s))
  case descriptorFetched => exact .inl (go (cmd_descriptorFetched _ _ _ s))
  case hostDmaError => exact .inl (go (cmd_hostDmaError _ _ _ s))
  case hostReadTimeout => exact .inl (go (cmd_hostReadTimeout _ _ s))
  case irqModerationTimer => exact .inl (go (cmd_irqModerationTimer _ s))
  case nop => exact .inl (go (cmd_nop _ _ s))
  case scanArm => exact .inl (go (cmd_scanArm _ _ _ s))
  case scanDisarm => exact .inl (go (cmd_scanDisarm _ _ _ s))
  case calRun => exact .inl (go (cmd_calRun _ _ _ s))
  case imageRead => exact .inl (go (cmd_imageRead _ _ _ _ s))
  case seqStep => exact .inl (go (cmd_seqStep _ _ _ _ s))
  case tailorStep => exact .inl (go (cmd_tailorStep _ _ _ _ s))
  case planLoad => exact .inl (go (cmd_planLoad _ _ _ s))
  case planUnload => exact .inl (go (cmd_planUnload _ _ _ s))
  case wardrobePin => exact .inl (go (cmd_wardrobePin _ _ _ s))
  case ptEdit => exact .inl (go (cmd_ptEdit _ _ _ s))
  case pegWait => exact .inl (go (cmd_pegWait _ _ _ s))
  case pegWaitTimeout => exact .inl (go (cmd_pegWaitTimeout _ s))
  case pegSignal => exact .inl (go (cmd_pegSignal _ _ _ s))
  case foldOpen => exact .inl (go (cmd_foldOpen _ _ s))
  case foldClose => exact .inl (go (cmd_foldClose _ _ _ s))
  case foldCommit =>
    exact .inl (moves_foldCommit s)
  case snapshot => exact .inl (go (cmd_snapshot _ _ _ s))
  case snapshotCapture => exact .inl (go (cmd_snapshotCapture _ s))
  case snapshotGatherDone => exact .inl (go (cmd_snapshotGatherDone _ s))
  case windowOpen => exact .inl (go (cmd_windowOpen _ _ _ s))
  case windowClose => exact .inl (go (cmd_windowClose _ _ _ s))
  case twinDma => exact .inl (go (cmd_twinDma _ _ _ _ s))
  case testRun => exact .inl (go (cmd_testRun _ _ _ s))
  case recordCopy => exact .inl (go (cmd_recordCopy _ _ s))
  case stagingGrant => exact .inl (go (cmd_stagingGrant s))
  case codecDecodeDone => exact .inl (go (cmd_codecDecodeDone _ _ s))
  case codecEncodeDone => exact .inl (go (cmd_codecEncodeDone _ _ s))
  case tailoringCommit => exact .inl (go (cmd_tailoringCommit _ _ s))
  case dictLoad => exact .inl (go (cmd_dictLoad s))
  case dictLoadDone => exact .inl (go (cmd_dictLoadDone _ s))
  case read => exact .inl (go (cmd_read _ _ s))
  case write => exact .inl (go (cmd_write _ _ s))
  case rateAcknowledge => exact .inl (go (cmd_rateAcknowledge _ s))
  case configurationWord => exact .inl (go (cmd_configurationWord _ s))
  case readId => exact .inl (go (cmd_readId s))
  case portReset => exact .inl (go (cmd_portReset s))
  case badCommandInverse => exact .inl (go (cmd_badCommandInverse _ _ s))
  case heartbeat => exact .inl (go (cmd_heartbeat _ _ s))
  case heartbeatSend => exact .inl (go (cmd_heartbeatSend s))
  case heartbeatMissed => exact .inl (go (cmd_heartbeatMissed s))
  case health => exact .inl (go (cmd_health _ _ _ _ s))
  case sync => exact .inl (go (cmd_sync _ _ s))
  case windowState => exact .inl (go (cmd_windowState _ _ _ _ s))
  case pair => exact .inl (go (cmd_pair _ _ _ _ s))
  case twinWrite => exact .inl (go (cmd_twinWrite _ _ s))
  case writeDone => exact .inl (go (cmd_writeDone _ _ _ s))
  case ack => exact .inl (go (cmd_ack _ s))
  case nak => exact .inl (go (cmd_nak _ s))
  case twinFrameCrcFail => exact .inl (go (cmd_twinFrameCrcFail s))
  case twinLinkUp => exact .inl (go (cmd_twinLinkUp _ s))
  case twinLinkDown => exact .inl (go (cmd_twinLinkDown s))
  case twinFenceIn => exact .inl (go (cmd_twinFenceIn _ s))
  case handover => exact .inl (go (cmd_handover s))
  case fenceClear => exact .inl (go (cmd_fenceClear s))
  case takeoverClear => exact .inl (go (cmd_takeoverClear s))
  case powerOnReset =>
    exact .inl ⟨_, rfl, by split <;> first | exact (clears_of_fixed rfl).moves | exact moves_trans (t := { s with pwr := _ }) rfl (clears_powerState _ _).moves⟩
  case pllLock =>
    refine .inl ⟨_, rfl, ?_⟩
    split
    · rename_i h
      exact moves_of_rise (by rw [fixed_mk, h.1]) (by omega)
    · exact moves_of_fixed rfl
  case romBoot =>
    exact .inl (moves_romBoot ..)
  case firmwareRunning =>
    refine .inl ⟨_, rfl, ?_⟩
    split
    · rename_i h
      exact moves_of_rise (by rw [fixed_mk, h.1]) (by omega)
    · exact moves_of_fixed rfl
  case regionFirmwareLoaded =>
    exact .inl (moves_regionFirmware s)
  case dramTrained =>
    exact .inl (moves_dramTrained ..)
  case bringupS5Start =>
    refine .inl ⟨_, rfl, ?_⟩
    split
    · rename_i h
      exact moves_of_rise (by rw [fixed_mk, h.1]) (by omega)
    · exact moves_of_fixed rfl
  case fabricTestsDone =>
    exact .inl (moves_fabricTests ..)
  case resetN =>
    exact .inl ⟨_, rfl, (clears_moduleReset s 1).moves⟩
  case perst =>
    exact .inl ⟨_, rfl, (clears_moduleReset s 2).moves⟩
  case pwrCtrlReset =>
    exact .inl ⟨_, rfl, (clears_pwrReset s).moves⟩
  case hostInterfaceReset => exact .inl (go (cmd_hostInterfaceReset _ s))
  case hostLinkCorrectableError => exact .inl (go (cmd_hostLinkCorrectableError s))
  case functionLevelReset => exact .inl (go (cmd_functionLevelReset _ s))
  case vfEnable => exact .inl (go (cmd_vfEnable _ s))
  case refclkLoss =>
    refine .inl ⟨_, rfl, ?_⟩
    split
    · exact moves_trans (t := { s with clk := _ }) rfl (clears_moduleState _ _ _).moves
    · exact moves_of_fixed rfl
  case refclkRestored => exact .inl (go (cmd_refclkRestored s))
  case pwrMainLow => exact .inl (go (cmd_pwrMainLow s))
  case pwrMainReturn => exact .inl (go (cmd_pwrMainReturn s))
  case bothInputsLow => exact .inl (go (cmd_bothInputsLow s))
  case holdUpEnd =>
    refine .inl ⟨_, rfl, ?_⟩
    split
    · exact moves_of_fixed rfl
    · split
      · exact moves_of_fixed rfl
      · exact (clears_powerState _ _).moves
  case chipParityError => exact .inl (go (cmd_chipParityError _ s))
  case ringRetryExhausted => exact .inl (go (cmd_ringRetryExhausted _ s))
  case regionControllerError => exact .inl (go (cmd_regionControllerError _ s))
  case regionDrain => exact .inl (go (cmd_regionDrain _ s))
  case regionServe => exact .inl (go (cmd_regionServe _ s))
  case healthAlertClear => exact .inl (go (cmd_healthAlertClear s))
  case lintUnit => exact .inl (go (cmd_lintUnit _ _ _ _ s))
  case lintOverdue => exact .inl (go (cmd_lintOverdue _ s))
  case overrateClear => exact .inl (go (cmd_overrateClear _ s))
  case unexpectedClear => exact .inl (go (cmd_unexpectedClear _ s))
  case setupBusGo => exact .inl (go (cmd_setupBusGo _ s))
  case setupBusDone => exact .inl (go (cmd_setupBusDone _ _ s))
  case ringEnable => exact .inl (go (cmd_ringEnable _ s))
  case ringDisable => exact .inl (go (cmd_ringDisable _ s))
  case ringKick => exact .inl (go (cmd_ringKick _ s))
  case recRingEnable => exact .inl (go (cmd_recRingEnable _ s))
  case pegGrant => exact .inl (go (cmd_pegGrant _ _ s))
  case healthLogEnable => exact .inl (go (cmd_healthLogEnable s))
  case attestGo => exact .inl (go (cmd_attestGo _ s))
  case quoteStart => exact .inl (go (cmd_quoteStart _ s))
  case attestationRenewal => exact .inl (go (cmd_attestationRenewal s))
  case attestationTreeRebuilt => exact .inl (go (cmd_attestationTreeRebuilt s))
  case updateStage => exact .inl (go (cmd_updateStage s))
  case updateBlob => exact .inl (go (cmd_updateBlob s))
  case updateDone => exact .inl (go (cmd_updateDone _ _ s))
  case regionApply => exact .inl (go (cmd_regionApply _ s))
  case confirm => exact .inl (go (cmd_confirm s))
  case timebaseLowRead => exact .inl (go (cmd_timebaseLowRead _ s))
  case termEnChange => exact .inl (go (cmd_termEnChange _ s))
  case registerWrite =>
    refine .inl ⟨_, rfl, ?_⟩
    split
    · exact (clears_writeAccess ..).moves
    · exact moves_of_fixed rfl
  case pwrAuxLow => exact .inl (go (cmd_pwrAuxLow s))
  case pwrAuxReturn => exact .inl (go (cmd_pwrAuxReturn s))
  case twinEnable => exact .inl (go (cmd_twinEnable _ s))
  case msixVectorUnmask => exact .inl (go (cmd_msixVectorUnmask _ _ s))
  case testAccessPort =>
    rename_i op
    cases op with
    | bypass b => exact .inl ⟨_, rfl, moves_of_fixed rfl⟩
    | idcode => exact .inl ⟨_, rfl, moves_of_fixed rfl⟩
    | other v =>
      by_cases h : s.sec.blob.debugOpen
      · exact .inr ⟨by simp [exec, execTestAccessPort, h], ⟨v, rfl⟩, h⟩
      · exact .inl ⟨s, by simp [exec, execTestAccessPort, h], moves_of_fixed rfl⟩

end Sys2Proof.Machine
end

