-- ==== Sys2Proof/Laws/Queues.lean ====
section
/-! SUPPORT. Which operations leave the descriptors that wait on the ring pairs: all but fetching, starting, stopping a pair and resets. -/

set_option Elab.async false

set_option linter.unusedSimpArgs false
set_option linter.unreachableTactic false
set_option linter.unusedTactic false

namespace Sys2Proof.Machine

open Sys2Proof

/-- Of every ring pair: its descriptors fetched and not started, and how many of them still stand in the ring. -/
def fnsQ (v : Vector FnState 16) : Vector (Vector (List Desc × Nat) 8) 16 := v.map fun f => f.rings.map fun x => (x.fetched, x.unfetched)

/-- The waiting descriptors of every pair. -/
def State.queues (s : State) : Vector (Vector (List Desc × Nat) 8) 16 := fnsQ s.fns

theorem queues_eta (s : State) : fnsQ s.fns = s.queues := rfl

theorem queues_mk (a1 a2 a3 a4 a5 a6 a7 a8 a9 a10 a11 a12 a13 a14 a15 a16 a17 a18 a19 a20 a21 a22 a23 a24 a25 a26 a27 a28 a29 a30) :
    (State.mk a1 a2 a3 a4 a5 a6 a7 a8 a9 a10 a11 a12 a13 a14 a15 a16 a17 a18 a19 a20 a21 a22 a23 a24 a25 a26 a27 a28 a29 a30).queues = fnsQ a7 := rfl

theorem queues_foldl {α : Type} (f : State → α → State) (l : List α) (s0 s : State) (hs : s.queues = s0.queues)
    (h : ∀ s a, (f s a).queues = s.queues) : (l.foldl f s).queues = s0.queues := by
  induction l generalizing s with
  | nil => simpa using hs
  | cons a l ih => simpa using ih _ ((h _ _).trans hs)

theorem queues_ite (c : Prop) [Decidable c] (a b : State) : (if c then a else b).queues = if c then a.queues else b.queues := by
  split <;> rfl

theorem queues_modFn (s : State) {f} {g} (h : ∀ x : FnState, (g x).rings = x.rings) : (s.modFn f g).queues = s.queues := by
  simp only [State.queues, fnsQ, State.modFn]
  ext i hi j hj
  all_goals
    simp only [Vector.getElem_map, Vector.getElem_set]
    split
    · rename_i e
      subst e
      simp [h]
    · rfl

theorem queues_modRing (s : State) {r} {g} (h : ∀ x : RingPair, (g x).fetched = x.fetched ∧ (g x).unfetched = x.unfetched) :
    (s.modRing r g).queues = s.queues := by
  simp only [State.queues, fnsQ, State.modRing, State.modFn]
  ext i hi j hj
  all_goals
    simp only [Vector.getElem_map, Vector.getElem_set]
    split
    · rename_i e
      subst e
      simp only [Vector.getElem_map, Vector.getElem_set]
      split
      · rename_i e
        subst e
        simp [h]
      · rfl
    · rfl

theorem queues_regSet (s : State) {x1} {x2} {x3} : (regSet s x1 x2 x3).queues = s.queues := by
  unfold regSet
  simp only [queues_mk, queues_eta]

theorem queues_modPort (s : State) {x1} {x2} : (State.modPort s x1 x2).queues = s.queues := by
  unfold State.modPort
  simp only [queues_mk, queues_eta]

theorem queues_modTrack (s : State) {x1} {x2} : (State.modTrack s x1 x2).queues = s.queues := by
  unfold State.modTrack
  split <;> simp only [queues_mk, queues_eta]

theorem queues_modRegion (s : State) {x1} {x2} : (State.modRegion s x1 x2).queues = s.queues := by
  unfold State.modRegion
  simp only [queues_mk, queues_eta]

theorem queues_modTile (s : State) {x1} {x2} : (State.modTile s x1 x2).queues = s.queues := by
  unfold State.modTile
  simp only [queues_modRegion]

theorem queues_freeNat (s : State)  : (State.freeNat s).2.queues = s.queues := by
  unfold State.freeNat
  simp only [queues_mk, queues_eta]

theorem queues_freeWord (s : State)  : (State.freeWord s).2.queues = s.queues := by
  unfold State.freeWord
  simp only [queues_mk, queues_eta]

theorem queues_emit (s : State) {x1} : (State.emit s x1).queues = s.queues := by
  unfold State.emit
  simp only [queues_mk, queues_eta]

theorem queues_countN (s : State) {x1} {x2} {x3} {x4} : (State.countN s x1 x2 x3 x4).queues = s.queues := by
  unfold State.countN
  simp only [queues_mk, queues_eta]

theorem queues_chipCnt (s : State) {x1} {x2} : (State.chipCnt s x1 x2).queues = s.queues := by
  unfold State.chipCnt
  simp only [queues_countN]

theorem queues_portCnt (s : State) {x1} {x2} {x3} : (State.portCnt s x1 x2 x3).queues = s.queues := by
  unfold State.portCnt
  simp only [queues_countN]

theorem queues_hostWrite (s : State) {x1} {x2} {x3} : (State.hostWrite s x1 x2 x3).queues = s.queues := by
  unfold State.hostWrite
  simp only [queues_emit, queues_chipCnt]

theorem queues_hostRead (s : State) {x1} {x2} {x3} : (State.hostRead s x1 x2 x3).queues = s.queues := by
  unfold State.hostRead
  simp only [queues_emit, queues_chipCnt]

theorem queues_raiseVec (s : State) {x1} {x2} : (State.raiseVec s x1 x2).queues = s.queues := by
  unfold State.raiseVec
  simp only [queues_ite, ite_self, queues_emit, queues_modFn, implies_true, and_self]

theorem queues_raiseEvent (s : State) {x1} : (State.raiseEvent s x1).queues = s.queues := by
  unfold State.raiseEvent
  simp only [queues_raiseVec]

theorem queues_setPeg (s : State) {x1} {x2} : (State.setPeg s x1 x2).queues = s.queues := by
  unfold State.setPeg
  simp only [queues_mk, queues_eta]

theorem queues_addPeg (s : State) {x1} {x2} : (State.addPeg s x1 x2).queues = s.queues := by
  unfold State.addPeg
  simp only [queues_setPeg]

theorem queues_laterPeg (s : State) {x1} {x2} : (State.laterPeg s x1 x2).queues = s.queues := by
  unfold State.laterPeg
  simp only [queues_mk, queues_eta]

theorem queues_moderate (s : State) {x1} {x2} : (moderate s x1 x2).queues = s.queues := by
  unfold moderate
  simp only [queues_ite, ite_self, queues_raiseVec, queues_modRing, implies_true, and_self]

theorem queues_writeCompl (s : State) {x1} {x2} : (writeCompl s x1 x2).queues = s.queues := by
  unfold writeCompl
  simp only [queues_ite, ite_self, queues_hostWrite, queues_laterPeg, queues_moderate, queues_modRing, implies_true, and_self]

theorem queues_postCompl (s : State) {x1} {x2} : (postCompl s x1 x2).queues = s.queues := by
  unfold postCompl
  simp only [queues_ite, ite_self, queues_writeCompl, queues_modRing, implies_true, and_self]

theorem queues_complete (s : State) {x1} {x2} {x3} {x4} {x5} : (complete s x1 x2 x3 x4 x5).queues = s.queues := by
  unfold complete
  simp only [queues_postCompl]

theorem queues_flushHeld (s : State) {r} {n} : (flushHeld s r n).queues = s.queues := by
  induction n generalizing s with
  | zero => rfl
  | succ n ih =>
    unfold flushHeld
    split
    · rfl
    · split
      · rw [ih, queues_writeCompl]; exact queues_modRing _ fun _ => ⟨rfl, rfl⟩
      · rfl

theorem queues_judgeWait (s : State) {x1} : (judgeWait s x1).queues = s.queues := by
  unfold judgeWait
  simp only [queues_mk, queues_eta, queues_ite, ite_self, queues_postCompl, queues_modRing, implies_true, and_self]

theorem queues_pegArbitrate (s : State) {x1} {x2} : (pegArbitrate s x1 x2).queues = s.queues := by
  unfold pegArbitrate
  repeat' (first | (simp only [queues_mk, queues_eta, queues_ite, ite_self, queues_setPeg, queues_addPeg, queues_judgeWait]; done) | (with_reducible refine queues_foldl _ _ _ _ ?_ ?_) | (intro _ _) | split | (simp only [queues_mk, queues_eta, queues_ite, ite_self, queues_setPeg, queues_addPeg, queues_judgeWait]))

theorem queues_logHealth (s : State) {x1} : (logHealth s x1).queues = s.queues := by
  unfold logHealth
  simp only [queues_mk, queues_eta, queues_ite, ite_self, queues_hostWrite, queues_laterPeg, queues_raiseEvent]

theorem queues_badWrite (s : State) {x1} : (badWrite s x1).queues = s.queues := by
  unfold badWrite
  simp only [queues_modFn, implies_true, and_self]

theorem queues_setMark (s : State) {x1} {x2} : (setMark s x1 x2).queues = s.queues := by
  unfold setMark
  simp only [queues_mk, queues_eta]

theorem queues_noteCorrected (s : State) {x1} : (noteCorrected s x1).queues = s.queues := by
  unfold noteCorrected
  simp only [queues_mk, queues_eta, queues_countN]

theorem queues_noteDramCorrected (s : State) {x1} {x2} : (noteDramCorrected s x1 x2).queues = s.queues := by
  unfold noteDramCorrected
  simp only [queues_mk, queues_eta, queues_ite, ite_self, queues_countN, queues_logHealth]

theorem queues_noteDramBad (s : State) {x1} : (noteDramBad s x1).queues = s.queues := by
  unfold noteDramBad
  simp only [queues_countN]

theorem queues_readWord (s : State) {x1} : (readWord s x1).2.2.queues = s.queues := by
  unfold readWord
  simp only [queues_ite, ite_self, queues_noteCorrected, queues_countN]

theorem queues_readVia (s : State) {f} {a} {n} {k} : (readVia f s a n k).2.2.queues = s.queues := by
  induction k generalizing s a n with
  | zero => rfl
  | succ k ih =>
    unfold readVia
    split
    · rfl
    · dsimp only
      split
      · rw [ih]
      · rw [ih, queues_readWord]

theorem queues_readBytes (s : State) {x1} {x2} : (readBytes s x1 x2).2.2.queues = s.queues := by
  unfold readBytes
  simp only [queues_readVia]

theorem queues_writeWord (s : State) {x1} {x2} : (writeWord s x1 x2).2.queues = s.queues := by
  unfold writeWord
  repeat' (first | (simp only [queues_mk, queues_eta, queues_ite, ite_self, queues_countN, queues_noteCorrected, queues_setMark]; done) | (with_reducible refine queues_foldl _ _ _ _ ?_ ?_) | (intro _ _) | split | (simp only [queues_mk, queues_eta, queues_ite, ite_self, queues_countN, queues_noteCorrected, queues_setMark]))

theorem queues_writeVia (s : State) {f} {a} {bs} {k} : (writeVia f s a bs k).2.queues = s.queues := by
  induction k generalizing s a bs with
  | zero => rfl
  | succ k ih =>
    unfold writeVia
    split
    · rfl
    · dsimp only
      split
      · rw [ih]
      · rw [ih, queues_writeWord]

theorem queues_writeBytes (s : State) {x1} {x2} : (writeBytes s x1 x2).2.queues = s.queues := by
  unfold writeBytes
  simp only [queues_writeVia]

theorem queues_doDarn (s : State) {x1} {x2} {x3} {x4} : (doDarn s x1 x2 x3 x4).queues = s.queues := by
  unfold doDarn
  simp only [queues_mk, queues_eta, queues_logHealth]

theorem queues_logFull (s : State) {x1} {x2} : (logFull s x1 x2).queues = s.queues := by
  unfold logFull
  simp only [queues_mk, queues_eta, queues_ite, ite_self, queues_logHealth]

theorem queues_darnRow (s : State) {x1} {x2} {x3} {x4} : (darnRow s x1 x2 x3 x4).2.queues = s.queues := by
  unfold darnRow
  split <;> simp only [queues_doDarn, queues_logFull]

theorem queues_modPlan (s : State) {x1} {x2} : (modPlan s x1 x2).queues = s.queues := by
  unfold modPlan
  simp only [queues_mk, queues_eta]

theorem queues_dropModel (s : State) {x1} : (dropModel s x1).queues = s.queues := by
  unfold dropModel
  simp only [queues_mk, queues_eta]

theorem queues_takeWays (s : State) {c} {n} {ms} {w t} (h : takeWays s c n ms = some (w, t)) : t.queues = s.queues := by
  induction ms generalizing s with
  | nil =>
    simp only [takeWays, Option.map_eq_some_iff, Prod.mk.injEq] at h
    obtain ⟨_, _, _, rfl⟩ := h
    rfl
  | cons m ms ih =>
    unfold takeWays at h
    split at h
    · cases h; rfl
    · exact (ih _ h).trans rfl

theorem queues_writeModel (s : State) {x1} {x2} {x3} : (writeModel s x1 x2 x3).queues = s.queues := by
  unfold writeModel
  repeat' (first | (simp only [queues_mk, queues_eta, queues_ite, ite_self, queues_writeVia]; done) | (with_reducible refine queues_foldl _ _ _ _ ?_ ?_) | (intro _ _) | split | (simp only [queues_mk, queues_eta, queues_ite, ite_self, queues_writeVia]))

theorem queues_writeTables (s : State) {x1} {x2} : (writeTables s x1 x2).queues = s.queues := by
  unfold writeTables
  repeat' (first | (simp only [queues_mk, queues_eta, queues_ite, ite_self, queues_writeVia]; done) | (with_reducible refine queues_foldl _ _ _ _ ?_ ?_) | (intro _ _) | split | (simp only [queues_mk, queues_eta, queues_ite, ite_self, queues_writeVia]))

theorem queues_writePrograms (s : State) {x1} {x2} : (writePrograms s x1 x2).queues = s.queues := by
  unfold writePrograms
  repeat' (first | (simp only [queues_mk, queues_eta, queues_ite, ite_self, queues_writeVia]; done) | (with_reducible refine queues_foldl _ _ _ _ ?_ ?_) | (intro _ _) | split | (simp only [queues_mk, queues_eta, queues_ite, ite_self, queues_writeVia]))

theorem queues_placeModel (s : State) {x1} {x2} {x3} : (placeModel s x1 x2 x3).queues = s.queues := by
  unfold placeModel
  simp only [queues_mk, queues_eta, queues_writeModel]

theorem queues_setPageCount (s : State) {x1} {x2} : (setPageCount s x1 x2).queues = s.queues := by
  unfold setPageCount
  simp only [queues_mk, queues_eta]

theorem queues_erasePage (s : State) {x1} : (erasePage s x1).queues = s.queues := by
  unfold erasePage
  simp only [queues_mk, queues_eta]

theorem queues_addRef (s : State) {x1} : (addRef s x1).queues = s.queues := by
  unfold addRef
  simp only [queues_setPageCount]

theorem queues_dropRef (s : State) {x1} {x2} : (dropRef s x1 x2).queues = s.queues := by
  unfold dropRef
  simp only [queues_mk, queues_eta, queues_ite, ite_self, queues_setPageCount]

theorem queues_startWalk (s : State) {x1} : (startWalk s x1).queues = s.queues := by
  unfold startWalk
  simp only [queues_mk, queues_eta]

theorem queues_endWalk (s : State) {x1} : (endWalk s x1).queues = s.queues := by
  unfold endWalk
  simp only [queues_mk, queues_eta]

theorem queues_raiseVersion (s : State)  : (raiseVersion s).queues = s.queues := by
  unfold raiseVersion
  simp only [queues_mk, queues_eta]

theorem queues_modSeq (s : State) {x1} {x2} : (modSeq s x1 x2).queues = s.queues := by
  unfold modSeq
  simp only [queues_mk, queues_eta]

theorem queues_shareOne (s : State) {x0} {x1} {x2} {x4} : (shareOne x0 x1 x2 s x4).queues = s.queues := by
  unfold shareOne
  split <;> simp only [queues_modSeq, queues_addRef]

theorem queues_dropOne (s : State) {x0} {x1} {x3} : (dropOne x0 x1 s x3).queues = s.queues := by
  unfold dropOne
  split <;> simp only [queues_modSeq, queues_dropRef]

theorem queues_editApply (s : State) {x1} {x2} : (editApply s x1 x2).queues = s.queues := by
  unfold editApply
  repeat' (first | (simp only [queues_shareOne, queues_modSeq, queues_dropOne]; done) | (with_reducible refine queues_foldl _ _ _ _ ?_ ?_) | (intro _ _) | split | (simp only [queues_shareOne, queues_modSeq, queues_dropOne]))

theorem queues_modJob (s : State) {x1} {x2} : (modJob s x1 x2).queues = s.queues := by
  unfold modJob
  simp only [queues_mk, queues_eta]

theorem queues_addJob (s : State) {x1} : (addJob s x1).2.queues = s.queues := by
  unfold addJob
  simp only [queues_mk, queues_eta]

theorem queues_modAcct (s : State) {x1} {x2} : (modAcct s x1 x2).queues = s.queues := by
  unfold modAcct
  simp only [queues_mk, queues_eta]

theorem queues_modLane (s : State) {x1} {x2} {x3} : (modLane s x1 x2 x3).queues = s.queues := by
  unfold modLane
  simp only [queues_modJob]

theorem queues_holdTiles_modTileJob (s : State) {x1} {x2} : (holdTiles.modTileJob s x1 x2).queues = s.queues := by
  unfold holdTiles.modTileJob
  rw [queues_modTile]

theorem queues_holdTiles (s : State) {x1} {x2} : (holdTiles s x1 x2).queues = s.queues := by
  unfold holdTiles
  exact queues_foldl _ _ _ _ rfl fun _ _ => queues_holdTiles_modTileJob _

theorem queues_zeroRows (s : State) {x1} {x2} {x3} : (zeroRows s x1 x2 x3).queues = s.queues := by
  unfold zeroRows
  simp only [queues_mk, queues_eta]

theorem queues_freeLane (s : State) {x0} {x2} : (freeLane x0 s x2).queues = s.queues := by
  unfold freeLane
  repeat' (first | (simp only [queues_mk, queues_eta, queues_modTile, queues_zeroRows, queues_modLane]; done) | (with_reducible refine queues_foldl _ _ _ _ ?_ ?_) | (intro _ _) | split | (simp only [queues_mk, queues_eta, queues_modTile, queues_zeroRows, queues_modLane]))

theorem queues_releaseJob (s : State) {x1} : (releaseJob s x1).queues = s.queues := by
  unfold releaseJob
  repeat' (first | (simp only [queues_mk, queues_eta, queues_ite, ite_self, queues_freeLane, queues_endWalk, queues_modJob]; done) | (with_reducible refine queues_foldl _ _ _ _ ?_ ?_) | (intro _ _) | split | (simp only [queues_mk, queues_eta, queues_ite, ite_self, queues_freeLane, queues_endWalk, queues_modJob]))

theorem queues_removeJob (s : State) {x1} : (removeJob s x1).queues = s.queues := by
  unfold removeJob
  simp only [queues_mk, queues_eta]

theorem queues_dropOldModels (s : State)  : (dropOldModels s).queues = s.queues := by
  unfold dropOldModels
  simp only [queues_mk, queues_eta]

theorem queues_finishJob (s : State) {x1} {x2} : (finishJob s x1 x2).queues = s.queues := by
  unfold finishJob
  simp only [queues_ite, ite_self, queues_releaseJob, queues_modJob, queues_dropOldModels, queues_removeJob, queues_modAcct, queues_chipCnt]

theorem queues_lastRites (s : State) {x1} {x2} : (lastRites s x1 x2).queues = s.queues := by
  unfold lastRites
  repeat' (first | (simp only [queues_ite, ite_self, queues_modJob, queues_freeLane, queues_dropOldModels, queues_removeJob]; done) | (with_reducible refine queues_foldl _ _ _ _ ?_ ?_) | (intro _ _) | split | (simp only [queues_ite, ite_self, queues_modJob, queues_freeLane, queues_dropOldModels, queues_removeJob]))

theorem queues_requestLoad (s : State) {x1} {x2} : (requestLoad s x1 x2).queues = s.queues := by
  unfold requestLoad
  simp only [queues_mk, queues_eta, queues_ite, ite_self]

theorem queues_loadWays (s : State) {l} {w t} (h : loadWays s l = some (w, t)) : t.queues = s.queues := by
  unfold loadWays at h
  split at h
  · cases h
  · exact queues_takeWays s h

theorem queues_touchModel (s : State) {x1} : (touchModel s x1).queues = s.queues := by
  unfold touchModel
  simp only [queues_mk, queues_eta]

theorem queues_takePlace (s : State) {x0} {x1} {x3} : (takePlace x0 x1 s x3).queues = s.queues := by
  unfold takePlace
  simp only [queues_mk, queues_eta, queues_ite, ite_self, queues_holdTiles, queues_countN, queues_modLane]

theorem queues_bindJob (s : State) {x1} {x2} {x3} : (bindJob s x1 x2 x3).queues = s.queues := by
  unfold bindJob
  repeat' (first | (simp only [queues_mk, queues_eta, queues_ite, ite_self, queues_modJob, queues_takePlace, queues_chipCnt, queues_modAcct, queues_touchModel]; done) | (with_reducible refine queues_foldl _ _ _ _ ?_ ?_) | (intro _ _) | split | (simp only [queues_mk, queues_eta, queues_ite, ite_self, queues_modJob, queues_takePlace, queues_chipCnt, queues_modAcct, queues_touchModel]))

theorem queues_tryStart (s : State) {j} {t} (h : tryStart s j = some t) : t.queues = s.queues := by
  unfold tryStart at h
  split at h
  · cases h; rw [queues_bindJob]
  · cases h

theorem queues_preempt (s : State) {x1} : (preempt s x1).queues = s.queues := by
  unfold preempt
  repeat' (first | (simp only [queues_mk, queues_eta, queues_ite, ite_self, queues_modJob]; done) | (with_reducible refine queues_foldl _ _ _ _ ?_ ?_) | (intro _ _) | split | (simp only [queues_mk, queues_eta, queues_ite, ite_self, queues_modJob]))

theorem queues_makeReady (s : State) {x1} : (makeReady s x1).queues = s.queues := by
  unfold makeReady
  simp only [queues_modJob]

theorem queues_admitWaiting (s : State)  : (admitWaiting s).queues = s.queues := by
  unfold admitWaiting
  repeat' (first | (simp only [queues_mk, queues_eta, queues_ite, ite_self, queues_makeReady]; done) | (with_reducible refine queues_foldl _ _ _ _ ?_ ?_) | (intro _ _) | split | (simp only [queues_mk, queues_eta, queues_ite, ite_self, queues_makeReady]))

theorem queues_startAll (s : State) {n} : (startAll s n).queues = s.queues := by
  induction n generalizing s with
  | zero => rfl
  | succ n ih =>
    unfold startAll
    split
    · rename_i h
      obtain ⟨j, _, hj⟩ := List.exists_of_findSome?_eq_some h
      rw [ih, queues_tryStart s hj]
    · rfl

theorem queues_askModels (s : State)  : (askModels s).queues = s.queues := by
  unfold askModels
  repeat' (first | (simp only [queues_mk, queues_eta, queues_ite, ite_self, queues_requestLoad]; done) | (with_reducible refine queues_foldl _ _ _ _ ?_ ?_) | (intro _ _) | split | (simp only [queues_mk, queues_eta, queues_ite, ite_self, queues_requestLoad]))

theorem queues_runSched (s : State)  : (runSched s).queues = s.queues := by
  unfold runSched
  repeat' (first | (simp only [queues_mk, queues_eta, queues_ite, ite_self, queues_admitWaiting, queues_startAll, queues_preempt, queues_askModels]; done) | (with_reducible refine queues_foldl _ _ _ _ ?_ ?_) | (intro _ _) | split | (simp only [queues_mk, queues_eta, queues_ite, ite_self, queues_admitWaiting, queues_startAll, queues_preempt, queues_askModels]))

theorem queues_setBasketCause (s : State) {x1} : (setBasketCause s x1).queues = s.queues := by
  unfold setBasketCause
  repeat' (first | (simp only [queues_mk, queues_eta, queues_ite, ite_self, queues_modTrack]; done) | (with_reducible refine queues_foldl _ _ _ _ ?_ ?_) | (intro _ _) | split | (simp only [queues_mk, queues_eta, queues_ite, ite_self, queues_modTrack]))

theorem queues_basketMarks (s : State)  : (basketMarks s).queues = s.queues := by
  unfold basketMarks
  simp only [queues_mk, queues_eta, queues_ite, ite_self, queues_setBasketCause, queues_chipCnt]

theorem queues_setBuilding (s : State) {x1} {x2} : (setBuilding s x1 x2).queues = s.queues := by
  unfold setBuilding
  simp only [queues_mk, queues_eta, queues_basketMarks]

theorem queues_commitPost (s : State) {x1} {x2} : (commitPost s x1 x2).queues = s.queues := by
  unfold commitPost
  simp only [queues_mk, queues_eta, queues_basketMarks]

theorem queues_discardBuilding (s : State) {x1} : (discardBuilding s x1).queues = s.queues := by
  unfold discardBuilding
  simp only [queues_setBuilding]

theorem queues_modFold (s : State) {x1} {x2} {x3} : (modFold s x1 x2 x3).queues = s.queues := by
  unfold modFold
  simp only [queues_modRing, implies_true, and_self]

theorem queues_reachCommit (s : State) {x1} : (reachCommit s x1).queues = s.queues := by
  unfold reachCommit
  simp only [queues_mk, queues_eta, queues_ite, ite_self]

theorem queues_checkFold (s : State) {x1} {x2} : (checkFold s x1 x2).queues = s.queues := by
  unfold checkFold
  split <;> simp only [queues_ite, ite_self, queues_reachCommit]

theorem queues_memberEnded (s : State) {x1} {x2} {x3} {x4} {x5} : (memberEnded s x1 x2 x3 x4 x5).queues = s.queues := by
  unfold memberEnded
  split <;> simp only [queues_checkFold, queues_modFold]

theorem queues_reportJob (s : State) {x1} {x2} {x3} {x4} : (reportJob s x1 x2 x3 x4).queues = s.queues := by
  unfold reportJob
  repeat' (first | (simp only [queues_mk, queues_eta, queues_ite, ite_self, queues_discardBuilding, queues_memberEnded, queues_commitPost, queues_postCompl]; done) | (with_reducible refine queues_foldl _ _ _ _ ?_ ?_) | (intro _ _) | split | (simp only [queues_mk, queues_eta, queues_ite, ite_self, queues_discardBuilding, queues_memberEnded, queues_commitPost, queues_postCompl]))

theorem queues_foldCompls (s : State) {x1} {x2} {x3} {x4} {x5} : (foldCompls s x1 x2 x3 x4 x5).queues = s.queues := by
  unfold foldCompls
  repeat' (first | (simp only [queues_postCompl]; done) | (with_reducible refine queues_foldl _ _ _ _ ?_ ?_) | (intro _ _) | split | (simp only [queues_postCompl]))

theorem queues_dropFold (s : State) {x1} {x2} : (dropFold s x1 x2).queues = s.queues := by
  unfold dropFold
  simp only [queues_mk, queues_eta, queues_modRing, implies_true, and_self]

theorem queues_discardMembers (s : State) {x1} : (discardMembers s x1).queues = s.queues := by
  unfold discardMembers
  repeat' (first | (simp only [queues_mk, queues_eta, queues_ite, ite_self, queues_discardBuilding]; done) | (with_reducible refine queues_foldl _ _ _ _ ?_ ?_) | (intro _ _) | split | (simp only [queues_mk, queues_eta, queues_ite, ite_self, queues_discardBuilding]))

theorem queues_abortFold (s : State) {x1} {x2} {x3} {x4} {x5} : (abortFold s x1 x2 x3 x4 x5).queues = s.queues := by
  unfold abortFold
  simp only [queues_dropFold, queues_foldCompls, queues_discardMembers]

theorem queues_dropPrepared (s : State) {x1} : (dropPrepared s x1).queues = s.queues := by
  unfold dropPrepared
  simp only [queues_mk, queues_eta]

theorem queues_dropSwaps (s : State) {x1} : (dropSwaps s x1).queues = s.queues := by
  unfold dropSwaps
  repeat' (first | (simp only [queues_mk, queues_eta, queues_ite, ite_self, queues_dropPrepared]; done) | (with_reducible refine queues_foldl _ _ _ _ ?_ ?_) | (intro _ _) | split | (simp only [queues_mk, queues_eta, queues_ite, ite_self, queues_dropPrepared]))

theorem queues_abandonFolds (s : State) {x1} {x2} : (abandonFolds s x1 x2).queues = s.queues := by
  unfold abandonFolds
  repeat' (first | (simp only [queues_mk, queues_eta, queues_ite, ite_self, queues_dropFold, queues_discardMembers, queues_dropSwaps]; done) | (with_reducible refine queues_foldl _ _ _ _ ?_ ?_) | (intro _ _) | split | (simp only [queues_mk, queues_eta, queues_ite, ite_self, queues_dropFold, queues_discardMembers, queues_dropSwaps]))

theorem queues_modPiece (s : State) {x1} {x2} {x3} : (modPiece s x1 x2 x3).queues = s.queues := by
  unfold modPiece
  simp only [queues_modTrack]

theorem queues_diagPiece (s : State) {x1} {x2} {x3} {x4} {x5} {x6} : (diagPiece s x1 x2 x3 x4 x5 x6).queues = s.queues := by
  unfold diagPiece
  simp only [queues_modPiece]

theorem queues_diagTrack (s : State) {x1} {x2} {x3} : (diagTrack s x1 x2 x3).queues = s.queues := by
  unfold diagTrack
  simp only [queues_modTrack]

theorem queues_stopPiece (s : State) {x1} {x2} : (stopPiece s x1 x2).queues = s.queues := by
  unfold stopPiece
  repeat' (first | (simp only [queues_mk, queues_eta, queues_finishJob]; done) | (with_reducible refine queues_foldl _ _ _ _ ?_ ?_) | (intro _ _) | split | (simp only [queues_mk, queues_eta, queues_finishJob]))

theorem queues_verdictFold (s : State) {x1} {x2} : (verdictFold s x1 x2).queues = s.queues := by
  unfold verdictFold
  simp only [queues_ite, ite_self, queues_modPiece, queues_reachCommit]

theorem queues_discardPiece (s : State) {x1} {x2} {x3} : (discardPiece s x1 x2 x3).queues = s.queues := by
  unfold discardPiece
  split <;> simp only [queues_ite, ite_self, queues_verdictFold, queues_stopPiece, queues_modPiece]

theorem queues_discardGeometry (s : State) {x1} {x2} {x3} : (discardGeometry s x1 x2 x3).queues = s.queues := by
  unfold discardGeometry
  split <;> simp only [queues_ite, ite_self, queues_discardPiece, queues_diagPiece]

theorem queues_sidesEnded (s : State) {x1} {x2} : (sidesEnded s x1 x2).queues = s.queues := by
  unfold sidesEnded
  split <;> simp only [queues_ite, ite_self, queues_modPiece, queues_verdictFold]

theorem queues_sideEnded (s : State) {x1} {x2} {x3} : (sideEnded s x1 x2 x3).queues = s.queues := by
  unfold sideEnded
  simp only [queues_sidesEnded, queues_modPiece]

theorem queues_seqEnded (s : State) {x1} {x2} : (seqEnded s x1 x2).queues = s.queues := by
  unfold seqEnded
  split <;> simp only [queues_ite, ite_self, queues_verdictFold, queues_stopPiece]

theorem queues_prunePieces (s : State) {x1} : (prunePieces s x1).queues = s.queues := by
  unfold prunePieces
  simp only [queues_modTrack]

theorem queues_countVerdict (s : State) {x1} {x2} {x3} : (countVerdict s x1 x2 x3).queues = s.queues := by
  unfold countVerdict
  simp only [queues_ite, ite_self, queues_modTrack, queues_modAcct, queues_chipCnt]

theorem queues_sendFrame (s : State) {x1} {x2} {x3} {x4} {x5} {x6} : (sendFrame s x1 x2 x3 x4 x5 x6).queues = s.queues := by
  unfold sendFrame
  simp only [queues_mk, queues_eta, queues_ite, ite_self, queues_emit, queues_chipCnt]

theorem queues_sendAck (s : State) {x1} {x2} : (sendAck s x1 x2).queues = s.queues := by
  unfold sendAck
  simp only [queues_ite, ite_self, queues_emit, queues_chipCnt]

theorem queues_sendSyncBytes (s : State) {x1} : (sendSyncBytes s x1).queues = s.queues := by
  unfold sendSyncBytes
  repeat' (first | (simp only [queues_mk, queues_eta, queues_ite, ite_self, queues_sendFrame]; done) | (with_reducible refine queues_foldl _ _ _ _ ?_ ?_) | (intro _ _) | split | (simp only [queues_mk, queues_eta, queues_ite, ite_self, queues_sendFrame]))

theorem queues_sendSync (s : State)  : (sendSync s).queues = s.queues := by
  unfold sendSync
  simp only [queues_ite, ite_self, queues_sendSyncBytes]

theorem queues_sendHealth (s : State) {x1} {x2} {x3} : (sendHealth s x1 x2 x3).queues = s.queues := by
  unfold sendHealth
  simp only [queues_ite, ite_self, queues_sendFrame]

theorem queues_sendWindowState (s : State) {x1} : (sendWindowState s x1).queues = s.queues := by
  unfold sendWindowState
  simp only [queues_sendFrame]

theorem queues_countFrames (s : State) {x1} : (countFrames s x1).queues = s.queues := by
  unfold countFrames
  repeat' (first | (simp only [queues_ite, ite_self, queues_countN]; done) | (with_reducible refine queues_foldl _ _ _ _ ?_ ?_) | (intro _ _) | split | (simp only [queues_ite, ite_self, queues_countN]))

theorem queues_countHeld (s : State) {x1} : (countHeld s x1).queues = s.queues := by
  unfold countHeld
  simp only [queues_ite, ite_self, queues_chipCnt]

theorem queues_passTime (s : State) {x1} : (passTime s x1).queues = s.queues := by
  unfold passTime
  simp only [queues_mk, queues_eta, queues_ite, ite_self, queues_countHeld, queues_countFrames]

theorem queues_passUntil (s : State) {x1} : (passUntil s x1).queues = s.queues := by
  unfold passUntil
  simp only [queues_passTime]

theorem queues_pushColour (s : State) {x1} {x2} : (pushColour s x1 x2).queues = s.queues := by
  unfold pushColour
  simp only [queues_modPort]

theorem queues_loseColours (s : State) {x1} {x2} {x3} : (loseColours s x1 x2 x3).queues = s.queues := by
  unfold loseColours
  repeat' (first | (simp only [queues_mk, queues_eta, queues_ite, ite_self, queues_portCnt, queues_pushColour]; done) | (with_reducible refine queues_foldl _ _ _ _ ?_ ?_) | (intro _ _) | split | (simp only [queues_mk, queues_eta, queues_ite, ite_self, queues_portCnt, queues_pushColour]))

theorem queues_expireTrig (s : State) {x1} {x2} : (expireTrig s x1 x2).queues = s.queues := by
  unfold expireTrig
  simp only [queues_loseColours]

theorem queues_emitPort (s : State) {x1} : (emitPort s x1).queues = s.queues := by
  unfold emitPort
  simp only [queues_ite, ite_self, queues_emit]

theorem queues_lampsOff (s : State) {x1} : (lampsOff s x1).queues = s.queues := by
  unfold lampsOff
  repeat' (first | (simp only [queues_emitPort, queues_modPort]; done) | (with_reducible refine queues_foldl _ _ _ _ ?_ ?_) | (intro _ _) | split | (simp only [queues_emitPort, queues_modPort]))

theorem queues_lampsOn (s : State) {x1} : (lampsOn s x1).queues = s.queues := by
  unfold lampsOn
  repeat' (first | (simp only [queues_emitPort, queues_modPort]; done) | (with_reducible refine queues_foldl _ _ _ _ ?_ ?_) | (intro _ _) | split | (simp only [queues_emitPort, queues_modPort]))

theorem queues_switchLamp (s : State) {x1} {x2} : (switchLamp s x1 x2).queues = s.queues := by
  unfold switchLamp
  simp only [queues_emitPort, queues_lampsOff, queues_modPort]

theorem queues_issueTrigger (s : State) {x1} {x2} {x3} : (issueTrigger s x1 x2 x3).queues = s.queues := by
  unfold issueTrigger
  repeat' (first | (simp only [queues_ite, ite_self, queues_expireTrig, queues_modPort, queues_emitPort, queues_portCnt, queues_switchLamp]; done) | (with_reducible refine queues_foldl _ _ _ _ ?_ ?_) | (intro _ _) | split | (simp only [queues_ite, ite_self, queues_expireTrig, queues_modPort, queues_emitPort, queues_portCnt, queues_switchLamp]))

theorem queues_fireLine (s : State) {x1} {x2} : (fireLine s x1 x2).queues = s.queues := by
  unfold fireLine
  repeat' (first | (simp only [queues_mk, queues_eta, queues_ite, ite_self, queues_modTrack, queues_issueTrigger]; done) | (with_reducible refine queues_foldl _ _ _ _ ?_ ?_) | (intro _ _) | split | (simp only [queues_mk, queues_eta, queues_ite, ite_self, queues_modTrack, queues_issueTrigger]))

theorem queues_overrateLine (s : State) {x1} {x2} : (overrateLine s x1 x2).queues = s.queues := by
  unfold overrateLine
  repeat' (first | (simp only [queues_mk, queues_eta, queues_ite, ite_self, queues_modPort, queues_modTrack, queues_loseColours, queues_portCnt]; done) | (with_reducible refine queues_foldl _ _ _ _ ?_ ?_) | (intro _ _) | split | (simp only [queues_mk, queues_eta, queues_ite, ite_self, queues_modPort, queues_modTrack, queues_loseColours, queues_portCnt]))

theorem queues_encoderLine (s : State) {x1} : (encoderLine s x1).queues = s.queues := by
  unfold encoderLine
  simp only [queues_ite, ite_self, queues_modTrack, queues_overrateLine, queues_fireLine]

theorem queues_beginRestart (s : State) {x1} : (beginRestart s x1).queues = s.queues := by
  unfold beginRestart
  repeat' (first | (simp only [queues_ite, queues_modTrack, queues_discardPiece, queues_modPort, queues_portCnt]; done) | (with_reducible refine queues_foldl _ _ _ _ ?_ ?_) | (intro _ _) | split | (simp only [queues_ite, queues_modTrack, queues_discardPiece, queues_modPort, queues_portCnt]))

theorem queues_releaseRestart (s : State) {x1} : (releaseRestart s x1).queues = s.queues := by
  unfold releaseRestart
  simp only [queues_modTrack]

theorem queues_failRestart (s : State) {x1} {x2} : (failRestart s x1 x2).queues = s.queues := by
  unfold failRestart
  repeat' (first | (simp only [queues_ite, ite_self, queues_modPort, queues_modTrack, queues_portCnt, queues_discardPiece]; done) | (with_reducible refine queues_foldl _ _ _ _ ?_ ?_) | (intro _ _) | split | (simp only [queues_ite, ite_self, queues_modPort, queues_modTrack, queues_portCnt, queues_discardPiece]))

theorem queues_restartForward (s : State) {x1} {x2} {x3} {x4} : (restartForward s x1 x2 x3 x4).queues = s.queues := by
  unfold restartForward
  repeat' (first | (simp only [queues_ite, ite_self, queues_failRestart, queues_overrateLine, queues_fireLine, queues_modTrack]; done) | (with_reducible refine queues_foldl _ _ _ _ ?_ ?_) | (intro _ _) | split | (simp only [queues_ite, ite_self, queues_failRestart, queues_overrateLine, queues_fireLine, queues_modTrack]))

theorem queues_countStep (s : State) {x1} {x2} : (countStep s x1 x2).queues = s.queues := by
  unfold countStep
  repeat' (first | (simp only [queues_ite, ite_self, queues_modTrack, queues_restartForward, queues_encoderLine]; done) | (with_reducible refine queues_foldl _ _ _ _ ?_ ?_) | (intro _ _) | split | (simp only [queues_ite, ite_self, queues_modTrack, queues_restartForward, queues_encoderLine]))

theorem queues_quadError (s : State) {x1} : (quadError s x1).queues = s.queues := by
  unfold quadError
  simp only [queues_portCnt, queues_modTrack, queues_diagTrack]

theorem queues_noteFeed (s : State) {x1} {x2} : (noteFeed s x1 x2).queues = s.queues := by
  unfold noteFeed
  simp only [queues_ite, ite_self, queues_modTrack, queues_releaseRestart, queues_beginRestart]

theorem queues_finishCal (s : State) {x1} {x2} : (finishCal s x1 x2).queues = s.queues := by
  unfold finishCal
  simp only [queues_hostWrite, queues_modPort, queues_complete, queues_lampsOff, queues_sendSync]

theorem queues_calPacket (s : State) {x1} {x2} {x3} : (calPacket s x1 x2 x3).2.queues = s.queues := by
  unfold calPacket
  repeat' (first | (simp only [queues_ite, ite_self, queues_modPort, queues_finishCal]; done) | (with_reducible refine queues_foldl _ _ _ _ ?_ ?_) | (intro _ _) | split | (simp only [queues_ite, ite_self, queues_modPort, queues_finishCal]))

theorem queues_linePacket (s : State) {x1} {x2} : (linePacket s x1 x2).2.queues = s.queues := by
  unfold linePacket
  repeat' (first | (simp only [queues_ite, ite_self, queues_modPort, queues_pushColour]; done) | (with_reducible refine queues_foldl _ _ _ _ ?_ ?_) | (intro _ _) | split | (simp only [queues_ite, ite_self, queues_modPort, queues_pushColour]))

theorem queues_reportPost (s : State) {x1} {x2} {x3} {x4} : (reportPost s x1 x2 x3 x4).queues = s.queues := by
  unfold reportPost
  simp only [queues_ite, ite_self, queues_removeJob, queues_reportJob, queues_setBuilding, queues_modJob]

theorem queues_retryPosts (s : State)  : (retryPosts s).queues = s.queues := by
  unfold retryPosts
  repeat' (first | (simp only [queues_mk, queues_eta, queues_ite, ite_self, queues_reportPost]; done) | (with_reducible refine queues_foldl _ _ _ _ ?_ ?_) | (intro _ _) | split | (simp only [queues_mk, queues_eta, queues_ite, ite_self, queues_reportPost]))

theorem queues_failSeqStep (s : State) {x1} {x2} : (failSeqStep s x1 x2).queues = s.queues := by
  unfold failSeqStep
  split <;> simp only [queues_removeJob, queues_reportJob, queues_modSeq]

theorem queues_postSeqStep (s : State) {x1} : (postSeqStep s x1).queues = s.queues := by
  unfold postSeqStep
  split <;> simp only [queues_modSeq, queues_reportPost]

theorem queues_sharedSeq (s : State) {x1} : (sharedSeq s x1).queues = s.queues := by
  unfold sharedSeq
  split <;> simp only [queues_discardPiece, queues_modSeq, queues_failSeqStep]

theorem queues_endSeq (s : State) {x1} {x2} : (endSeq s x1 x2).queues = s.queues := by
  unfold endSeq
  split <;> simp only [queues_modSeq, queues_discardPiece, queues_failSeqStep]

theorem queues_releaseSeq (s : State) {x1} : (releaseSeq s x1).queues = s.queues := by
  unfold releaseSeq
  repeat' (first | (simp only [queues_mk, queues_eta, queues_ite, ite_self, queues_seqEnded, queues_failSeqStep]; done) | (with_reducible refine queues_foldl _ _ _ _ ?_ ?_) | (intro _ _) | split | (simp only [queues_mk, queues_eta, queues_ite, ite_self, queues_seqEnded, queues_failSeqStep]))

theorem queues_leaveOne (s : State) {x1} : (leaveOne s x1).queues = s.queues := by
  unfold leaveOne
  repeat' (first | (simp only [queues_mk, queues_eta, queues_ite, queues_dropRef, queues_modSeq]; done) | (with_reducible refine queues_foldl _ _ _ _ ?_ ?_) | (intro _ _) | split | (simp only [queues_mk, queues_eta, queues_ite, queues_dropRef, queues_modSeq]))

theorem queues_dropIndex (s : State) {x0} {x1} {x3} : (dropIndex x0 x1 s x3).queues = s.queues := by
  unfold dropIndex
  repeat' (first | (simp only [queues_mk, queues_eta, queues_ite, ite_self, queues_dropOne, queues_chipCnt]; done) | (with_reducible refine queues_foldl _ _ _ _ ?_ ?_) | (intro _ _) | split | (simp only [queues_mk, queues_eta, queues_ite, ite_self, queues_dropOne, queues_chipCnt]))

theorem queues_dropDown (s : State) {c} {need} {id} {k} : (dropDown c need id k s).queues = s.queues := by
  induction k generalizing s with
  | zero => rfl
  | succ k ih =>
    unfold dropDown
    split
    · rfl
    · rw [ih, queues_dropIndex]

theorem queues_dropIdle (s : State) {need} {qs} : (dropIdle need qs s).queues = s.queues := by
  induction qs generalizing s with
  | nil => rfl
  | cons q qs ih =>
    unfold dropIdle
    split
    · rfl
    · split
      · exact ih s
      · dsimp only
        rw [ih, queues_modSeq, queues_dropDown]

theorem queues_pauseLoop (s : State) {p} {n} {gs} : (pauseLoop p n gs s).2.queues = s.queues := by
  induction n generalizing s gs with
  | zero => rfl
  | succ n ih =>
    unfold pauseLoop
    dsimp only
    split
    · rfl
    · split
      · rfl
      · rw [queues_endSeq, queues_chipCnt]
      · rw [ih, queues_chipCnt, queues_modSeq]
        refine queues_foldl _ _ _ _ rfl fun s a => ?_
        rw [queues_chipCnt, queues_dropOne]

theorem queues_enterStep (s : State) {x0} {x2} : (enterStep x0 s x2).queues = s.queues := by
  unfold enterStep
  repeat' (first | (simp only [queues_addRef, queues_erasePage, queues_modSeq, queues_chipCnt, queues_modPiece]; done) | (with_reducible refine queues_foldl _ _ _ _ ?_ ?_) | (intro _ _) | split | (simp only [queues_addRef, queues_erasePage, queues_modSeq, queues_chipCnt, queues_modPiece]))

theorem queues_startStep (s : State) {x1} : (startStep s x1).queues = s.queues := by
  unfold startStep
  repeat' (first | (simp only [queues_ite, ite_self, queues_leaveOne, queues_endSeq, queues_modSeq, queues_chipCnt, queues_dropIdle, queues_pauseLoop, queues_enterStep, queues_modPlan, queues_raiseVersion, queues_addJob]; done) | (with_reducible refine queues_foldl _ _ _ _ ?_ ?_) | (intro _ _) | split | (simp only [queues_ite, ite_self, queues_leaveOne, queues_endSeq, queues_modSeq, queues_chipCnt, queues_dropIdle, queues_pauseLoop, queues_enterStep, queues_modPlan, queues_raiseVersion, queues_addJob]))

theorem queues_stepEndOne (s : State) {x0} {x1} {x3} : (stepEndOne x0 x1 s x3).queues = s.queues := by
  unfold stepEndOne
  repeat' (first | (simp only [queues_ite, ite_self, queues_dropOne, queues_modSeq, queues_modPiece, queues_seqEnded, queues_postSeqStep]; done) | (with_reducible refine queues_foldl _ _ _ _ ?_ ?_) | (intro _ _) | split | (simp only [queues_ite, ite_self, queues_dropOne, queues_modSeq, queues_modPiece, queues_seqEnded, queues_postSeqStep]))

theorem queues_finishStep (s : State) {x1} : (finishStep s x1).queues = s.queues := by
  unfold finishStep
  repeat' (first | (simp only [queues_mk, queues_eta, queues_ite, ite_self, queues_finishJob, queues_stepEndOne]; done) | (with_reducible refine queues_foldl _ _ _ _ ?_ ?_) | (intro _ _) | split | (simp only [queues_mk, queues_eta, queues_ite, ite_self, queues_finishJob, queues_stepEndOne]))

theorem queues_stepFailOne (s : State) {x0} {x1} {x3} : (stepFailOne x0 x1 s x3).queues = s.queues := by
  unfold stepFailOne
  repeat' (first | (simp only [queues_endSeq, queues_dropOne, queues_modSeq, queues_failSeqStep]; done) | (with_reducible refine queues_foldl _ _ _ _ ?_ ?_) | (intro _ _) | split | (simp only [queues_endSeq, queues_dropOne, queues_modSeq, queues_failSeqStep]))

theorem queues_failStep (s : State) {x1} {x2} : (failStep s x1 x2).queues = s.queues := by
  unfold failStep
  repeat' (first | (simp only [queues_mk, queues_eta, queues_ite, ite_self, queues_finishJob, queues_stepFailOne]; done) | (with_reducible refine queues_foldl _ _ _ _ ?_ ?_) | (intro _ _) | split | (simp only [queues_mk, queues_eta, queues_ite, ite_self, queues_finishJob, queues_stepFailOne]))

theorem queues_failJob (s : State) {x1} {x2} {x3} : (failJob s x1 x2 x3).queues = s.queues := by
  unfold failJob
  split <;> simp only [queues_mk, queues_eta, queues_ite, ite_self, queues_discardPiece, queues_finishJob, queues_failStep, queues_discardBuilding, queues_reportJob]

theorem queues_logWords (s : State) {x1} {x2} : (logWords s x1 x2).queues = s.queues := by
  unfold logWords
  repeat' (first | (simp only [queues_mk, queues_eta, queues_ite, ite_self, queues_logHealth]; done) | (with_reducible refine queues_foldl _ _ _ _ ?_ ?_) | (intro _ _) | split | (simp only [queues_mk, queues_eta, queues_ite, ite_self, queues_logHealth]))

theorem queues_setFault (s : State) {x1} {x2} {x3} {x4} : (setFault s x1 x2 x3 x4).queues = s.queues := by
  unfold setFault
  simp only [queues_modJob]

theorem queues_buildPiece (s : State) {x1} {x2} : (buildPiece s x1 x2).queues = s.queues := by
  unfold buildPiece
  split <;> simp only [queues_ite, ite_self, queues_modPiece, queues_setBuilding]

theorem queues_feedRow (s : State) {x0} {x1} {x2} {x4} {x5} : (feedRow x0 x1 x2 s x4 x5).queues = s.queues := by
  unfold feedRow
  repeat' (first | (simp only [queues_writeWord]; done) | (with_reducible refine queues_foldl _ _ _ _ ?_ ?_) | (intro _ _) | split | (simp only [queues_writeWord]))

theorem queues_feedLane (s : State) {x0} {x1} {x3} : (feedLane x0 x1 s x3).queues = s.queues := by
  unfold feedLane
  repeat' (first | (simp only [queues_ite, queues_feedRow, queues_modLane]; done) | (with_reducible refine queues_foldl _ _ _ _ ?_ ?_) | (intro _ _) | split | (simp only [queues_ite, queues_feedRow, queues_modLane]))

theorem queues_feedLanes (s : State)  : (feedLanes s).queues = s.queues := by
  unfold feedLanes
  repeat' (first | (simp only [queues_mk, queues_eta, queues_ite, ite_self, queues_feedLane]; done) | (with_reducible refine queues_foldl _ _ _ _ ?_ ?_) | (intro _ _) | split | (simp only [queues_mk, queues_eta, queues_ite, ite_self, queues_feedLane]))

theorem queues_modTransfer (s : State) {x1} {x2} : (modTransfer s x1 x2).queues = s.queues := by
  unfold modTransfer
  simp only [queues_mk, queues_eta]

theorem queues_takeTransfer (s : State) {x1} : (takeTransfer s x1).queues = s.queues := by
  unfold takeTransfer
  repeat' (first | (simp only [queues_readVia, queues_modTransfer, queues_logWords, queues_countN, queues_setFault]; done) | (with_reducible refine queues_foldl _ _ _ _ ?_ ?_) | (intro _ _) | split | (simp only [queues_readVia, queues_modTransfer, queues_logWords, queues_countN, queues_setFault]))

theorem queues_takeWaiting (s : State) {x1} {x2} : (takeWaiting s x1 x2).queues = s.queues := by
  unfold takeWaiting
  repeat' (first | (simp only [queues_mk, queues_eta, queues_ite, ite_self, queues_takeTransfer]; done) | (with_reducible refine queues_foldl _ _ _ _ ?_ ?_) | (intro _ _) | split | (simp only [queues_mk, queues_eta, queues_ite, ite_self, queues_takeTransfer]))

theorem queues_sendMove (s : State) {x0} {x1} {x2} {x4} : (sendMove x0 x1 x2 s x4).queues = s.queues := by
  unfold sendMove
  repeat' (first | (simp only [queues_mk, queues_eta, queues_ite, ite_self, queues_takeTransfer, queues_countN]; done) | (with_reducible refine queues_foldl _ _ _ _ ?_ ?_) | (intro _ _) | split | (simp only [queues_mk, queues_eta, queues_ite, ite_self, queues_takeTransfer, queues_countN]))

theorem queues_noteArrival (s : State) {x1} {x2} {x3} : (noteArrival s x1 x2 x3).queues = s.queues := by
  unfold noteArrival
  simp only [queues_modJob]

theorem queues_landTransfer (s : State) {x1} : (landTransfer s x1).queues = s.queues := by
  unfold landTransfer
  repeat' (first | (simp only [queues_mk, queues_eta, queues_writeVia, queues_logWords, queues_countN, queues_setFault, queues_noteArrival, queues_pegArbitrate]; done) | (with_reducible refine queues_foldl _ _ _ _ ?_ ?_) | (intro _ _) | split | (simp only [queues_mk, queues_eta, queues_writeVia, queues_logWords, queues_countN, queues_setFault, queues_noteArrival, queues_pegArbitrate]))

theorem queues_copyPrograms (s : State) {x1} {x2} : (copyPrograms s x1 x2).queues = s.queues := by
  unfold copyPrograms
  repeat' (first | (simp only [queues_mk, queues_eta, queues_ite, ite_self, queues_readBytes, queues_writeBytes, queues_logWords]; done) | (with_reducible refine queues_foldl _ _ _ _ ?_ ?_) | (intro _ _) | split | (simp only [queues_mk, queues_eta, queues_ite, ite_self, queues_readBytes, queues_writeBytes, queues_logWords]))

theorem queues_startLane (s : State) {x1} {x2} : (startLane s x1 x2).queues = s.queues := by
  unfold startLane
  repeat' (first | (simp only [queues_ite, ite_self, queues_countN, queues_copyPrograms, queues_startWalk, queues_modJob]; done) | (with_reducible refine queues_foldl _ _ _ _ ?_ ?_) | (intro _ _) | split | (simp only [queues_ite, ite_self, queues_countN, queues_copyPrograms, queues_startWalk, queues_modJob]))

theorem queues_goLane (s : State) {x0} {x2} : (goLane x0 s x2).queues = s.queues := by
  unfold goLane
  repeat' (first | (simp only [queues_mk, queues_eta, queues_ite, ite_self, queues_modLane, queues_startLane]; done) | (with_reducible refine queues_foldl _ _ _ _ ?_ ?_) | (intro _ _) | split | (simp only [queues_mk, queues_eta, queues_ite, ite_self, queues_modLane, queues_startLane]))

theorem queues_goJob (s : State) {x1} : (goJob s x1).queues = s.queues := by
  unfold goJob
  repeat' (first | (simp only [queues_mk, queues_eta, queues_ite, ite_self, queues_failJob, queues_freeLane, queues_goLane]; done) | (with_reducible refine queues_foldl _ _ _ _ ?_ ?_) | (intro _ _) | split | (simp only [queues_mk, queues_eta, queues_ite, ite_self, queues_failJob, queues_freeLane, queues_goLane]))

theorem queues_goLanes (s : State)  : (goLanes s).queues = s.queues := by
  unfold goLanes
  repeat' (first | (simp only [queues_mk, queues_eta, queues_ite, ite_self, queues_feedLanes, queues_goJob]; done) | (with_reducible refine queues_foldl _ _ _ _ ?_ ?_) | (intro _ _) | split | (simp only [queues_mk, queues_eta, queues_ite, ite_self, queues_feedLanes, queues_goJob]))

theorem queues_placeLane (s : State) {j} {l} {t} (h : placeLane s j l = some t) : t.queues = s.queues := by
  unfold placeLane at h
  split at h
  · cases h
    split
    · rw [queues_failJob]
    · rw [queues_takeWaiting, queues_takePlace]
  · cases h

theorem queues_placeLanes (s : State) : (placeLanes s).queues = s.queues := by
  unfold placeLanes
  split
  · rfl
  · refine queues_foldl _ _ _ _ rfl fun s j => ?_
    split
    · cases h : placeLane s j _ with
      | none => rfl
      | some t => exact queues_placeLane s h
    · rfl

theorem queues_schedule (s : State)  : (schedule s).queues = s.queues := by
  unfold schedule
  simp only [queues_goLanes, queues_runSched, queues_placeLanes]

theorem queues_diagDead (s : State) {x1} {x2} {x3} {x4} : (diagDead s x1 x2 x3 x4).queues = s.queues := by
  unfold diagDead
  repeat' (first | (simp only [queues_mk, queues_eta, queues_ite, ite_self, queues_diagPiece]; done) | (with_reducible refine queues_foldl _ _ _ _ ?_ ?_) | (intro _ _) | split | (simp only [queues_mk, queues_eta, queues_ite, ite_self, queues_diagPiece]))

theorem queues_deadRecovery (s : State) {x1} {x2} : (deadRecovery s x1 x2).queues = s.queues := by
  unfold deadRecovery
  repeat' (first | (simp only [queues_ite, ite_self, queues_modPort, queues_diagDead, queues_lampsOff, queues_sendSync, queues_modTrack]; done) | (with_reducible refine queues_foldl _ _ _ _ ?_ ?_) | (intro _ _) | split | (simp only [queues_ite, ite_self, queues_modPort, queues_diagDead, queues_lampsOff, queues_sendSync, queues_modTrack]))

theorem queues_gapUpdate (s : State) {x1} : (gapUpdate s x1).queues = s.queues := by
  unfold gapUpdate
  repeat' (first | (simp only [queues_ite, queues_modPort, queues_portCnt, queues_diagPiece]; done) | (with_reducible refine queues_foldl _ _ _ _ ?_ ?_) | (intro _ _) | split | (simp only [queues_ite, queues_modPort, queues_portCnt, queues_diagPiece]))

theorem queues_closeGap (s : State) {x1} : (closeGap s x1).queues = s.queues := by
  unfold closeGap
  simp only [queues_ite, ite_self, queues_gapUpdate]

theorem queues_swapCoefs (s : State) {x1} {x2} : (swapCoefs s x1 x2).queues = s.queues := by
  unfold swapCoefs
  split <;> simp only [queues_ite, ite_self, queues_modPort]

theorem queues_geomDiscard (s : State) {x1} {x2} {x3} : (geomDiscard s x1 x2 x3).queues = s.queues := by
  unfold geomDiscard
  split <;> simp only [queues_ite, ite_self, queues_discardGeometry, queues_portCnt]

theorem queues_feedJob (s : State) {x1} {x2} {x3} : (feedJob s x1 x2 x3).queues = s.queues := by
  unfold feedJob
  repeat' (first | (simp only [queues_mk, queues_eta, queues_ite, ite_self, queues_addJob, queues_modPiece]; done) | (with_reducible refine queues_foldl _ _ _ _ ?_ ?_) | (intro _ _) | split | (simp only [queues_mk, queues_eta, queues_ite, ite_self, queues_addJob, queues_modPiece]))

theorem queues_estimateSkew (s : State) {x1} {x2} {x3} {x4} : (estimateSkew s x1 x2 x3 x4).queues = s.queues := by
  unfold estimateSkew
  repeat' (first | (simp only [queues_ite, ite_self, queues_modPiece, queues_diagPiece, queues_geomDiscard, queues_feedJob]; done) | (with_reducible refine queues_foldl _ _ _ _ ?_ ?_) | (intro _ _) | split | (simp only [queues_ite, ite_self, queues_modPiece, queues_diagPiece, queues_geomDiscard, queues_feedJob]))

theorem queues_feedInput (s : State) {x1} {x2} {x3} : (feedInput s x1 x2 x3).queues = s.queues := by
  unfold feedInput
  repeat' (first | (simp only [queues_mk, queues_eta, queues_ite, ite_self, queues_modJob]; done) | (with_reducible refine queues_foldl _ _ _ _ ?_ ?_) | (intro _ _) | split | (simp only [queues_mk, queues_eta, queues_ite, ite_self, queues_modJob]))

theorem queues_pressSideDone (s : State) {x1} {x2} {x3} : (pressSideDone s x1 x2 x3).queues = s.queues := by
  unfold pressSideDone
  repeat' (first | (simp only [queues_ite, ite_self, queues_modPiece, queues_feedInput, queues_setBuilding, queues_buildPiece, queues_verdictFold]; done) | (with_reducible refine queues_foldl _ _ _ _ ?_ ?_) | (intro _ _) | split | (simp only [queues_ite, ite_self, queues_modPiece, queues_feedInput, queues_setBuilding, queues_buildPiece, queues_verdictFold]))

theorem queues_pieceLoss (s : State) {x1} {x2} {x3} {x4} {x5} : (pieceLoss s x1 x2 x3 x4 x5).queues = s.queues := by
  unfold pieceLoss
  repeat' (first | (simp only [queues_ite, ite_self, queues_diagPiece, queues_modPiece, queues_discardPiece, queues_portCnt]; done) | (with_reducible refine queues_foldl _ _ _ _ ?_ ?_) | (intro _ _) | split | (simp only [queues_ite, ite_self, queues_diagPiece, queues_modPiece, queues_discardPiece, queues_portCnt]))

theorem queues_noteStatus (s : State) {x1} {x2} {x3} {x4} {x5} : (noteStatus s x1 x2 x3 x4 x5).queues = s.queues := by
  unfold noteStatus
  split <;> simp only [queues_ite, ite_self, queues_diagPiece, queues_modPort]

theorem queues_sideLine (s : State) {x1} {x2} {x3} {x4} {x5} {x6} : (sideLine s x1 x2 x3 x4 x5 x6).queues = s.queues := by
  unfold sideLine
  simp only [queues_ite, ite_self, queues_pieceLoss, queues_noteStatus, queues_modPort, queues_modPiece, queues_estimateSkew, queues_pressSideDone, queues_feedInput, queues_buildPiece]

theorem queues_lateSkew (s : State) {x1} {x2} {x3} : (lateSkew s x1 x2 x3).queues = s.queues := by
  unfold lateSkew
  repeat' (first | (simp only [queues_mk, queues_eta, queues_ite, ite_self, queues_pressSideDone, queues_estimateSkew]; done) | (with_reducible refine queues_foldl _ _ _ _ ?_ ?_) | (intro _ _) | split | (simp only [queues_mk, queues_eta, queues_ite, ite_self, queues_pressSideDone, queues_estimateSkew]))

theorem queues_cutSkew (s : State) {x1} {x2} {x3} : (cutSkew s x1 x2 x3).queues = s.queues := by
  unfold cutSkew
  repeat' (first | (simp only [queues_mk, queues_eta, queues_ite, ite_self, queues_pressSideDone, queues_estimateSkew]; done) | (with_reducible refine queues_foldl _ _ _ _ ?_ ?_) | (intro _ _) | split | (simp only [queues_mk, queues_eta, queues_ite, ite_self, queues_pressSideDone, queues_estimateSkew]))

theorem queues_strayPaper (s : State) {x1} {x2} : (strayPaper s x1 x2).queues = s.queues := by
  unfold strayPaper
  simp only [queues_portCnt, queues_modPort, queues_logHealth]

theorem queues_frontLine (s : State) {x1} {x2} {x3} {x4} {x5} : (frontLine s x1 x2 x3 x4 x5).queues = s.queues := by
  unfold frontLine
  repeat' (first | (simp only [queues_ite, queues_modTrack, queues_geomDiscard, queues_modPiece, queues_cutSkew, queues_strayPaper]; done) | (with_reducible refine queues_foldl _ _ _ _ ?_ ?_) | (intro _ _) | split | (simp only [queues_ite, queues_modTrack, queues_geomDiscard, queues_modPiece, queues_cutSkew, queues_strayPaper]))

theorem queues_judgeCapture (s : State)  : (judgeCapture s).queues = s.queues := by
  unfold judgeCapture
  repeat' (first | (simp only [queues_mk, queues_eta, queues_ite, ite_self, queues_modTrack]; done) | (with_reducible refine queues_foldl _ _ _ _ ?_ ?_) | (intro _ _) | split | (simp only [queues_mk, queues_eta, queues_ite, ite_self, queues_modTrack]))

theorem queues_caughtUp (s : State)  : (caughtUp s).queues = s.queues := by
  unfold caughtUp
  simp only [queues_mk, queues_eta, queues_ite, ite_self]

theorem queues_discardBadLine (s : State) {x1} {x2} {x3} : (discardBadLine s x1 x2 x3).queues = s.queues := by
  unfold discardBadLine
  simp only [queues_discardPiece, queues_logHealth]

theorem queues_storeLine (s : State) {x1} {x2} : (storeLine s x1 x2).queues = s.queues := by
  unfold storeLine
  repeat' (first | (simp only [queues_ite, ite_self, queues_closeGap, queues_swapCoefs, queues_freeNat, queues_modPort, queues_frontLine, queues_modTrack, queues_discardBadLine, queues_cutSkew, queues_sideLine, queues_lateSkew, queues_pegArbitrate, queues_schedule, queues_caughtUp, queues_judgeCapture]; done) | (with_reducible refine queues_foldl _ _ _ _ ?_ ?_) | (intro _ _) | split | (simp only [queues_ite, ite_self, queues_closeGap, queues_swapCoefs, queues_freeNat, queues_modPort, queues_frontLine, queues_modTrack, queues_discardBadLine, queues_cutSkew, queues_sideLine, queues_lateSkew, queues_pegArbitrate, queues_schedule, queues_caughtUp, queues_judgeCapture]))

theorem queues_judgeWindow (s : State) {x1} : (judgeWindow s x1).queues = s.queues := by
  unfold judgeWindow
  simp only [queues_ite, ite_self, queues_modTrack]

theorem queues_clearAgain (s : State) {x1} : (clearAgain s x1).queues = s.queues := by
  unfold clearAgain
  split <;> simp only [queues_ite, ite_self, queues_modTrack]

theorem queues_openGap (s : State) {x1} {x2} {x3} : (openGap s x1 x2 x3).queues = s.queues := by
  unfold openGap
  repeat' (first | (simp only [queues_mk, queues_eta, queues_ite, ite_self, queues_modPort, queues_closeGap]; done) | (with_reducible refine queues_foldl _ _ _ _ ?_ ?_) | (intro _ _) | split | (simp only [queues_mk, queues_eta, queues_ite, ite_self, queues_modPort, queues_closeGap]))

theorem queues_endGap (s : State) {x1} : (endGap s x1).queues = s.queues := by
  unfold endGap
  repeat' (first | (simp only [queues_mk, queues_eta, queues_ite, ite_self, queues_modPort, queues_closeGap]; done) | (with_reducible refine queues_foldl _ _ _ _ ?_ ?_) | (intro _ _) | split | (simp only [queues_mk, queues_eta, queues_ite, ite_self, queues_modPort, queues_closeGap]))

theorem queues_numberPiece (s : State) {x1} : (numberPiece s x1).queues = s.queues := by
  unfold numberPiece
  repeat' (first | (simp only [queues_mk, queues_eta, queues_ite, ite_self, queues_geomDiscard, queues_modTrack, queues_endGap, queues_portCnt, queues_diagDead]; done) | (with_reducible refine queues_foldl _ _ _ _ ?_ ?_) | (intro _ _) | split | (simp only [queues_mk, queues_eta, queues_ite, ite_self, queues_geomDiscard, queues_modTrack, queues_endGap, queues_portCnt, queues_diagDead]))

theorem queues_takeEdge (s : State) {x1} : (takeEdge s x1).queues = s.queues := by
  unfold takeEdge
  simp only [queues_ite, ite_self, queues_portCnt, queues_numberPiece]

theorem queues_resumeAt (s : State) {x1} {x2} {x3} : (resumeAt s x1 x2 x3).queues = s.queues := by
  unfold resumeAt
  repeat' (first | (simp only [queues_modTrack, queues_modPort]; done) | (with_reducible refine queues_foldl _ _ _ _ ?_ ?_) | (intro _ _) | split | (simp only [queues_modTrack, queues_modPort]))

theorem queues_reserveTiles (s : State) {p} {n} {t} (h : reserveTiles s p n = some t) : t.queues = s.queues := by
  unfold reserveTiles at h
  simp only [Option.map_eq_some_iff] at h
  obtain ⟨ts, _, rfl⟩ := h
  rw [queues_modPort]
  refine queues_foldl _ _ _ _ rfl fun s a => ?_
  rw [queues_modTile]
  split
  · rw [queues_modJob]
  · rfl

theorem queues_releaseTiles (s : State) {x1} : (releaseTiles s x1).queues = s.queues := by
  unfold releaseTiles
  repeat' (first | (simp only [queues_modTile, queues_modPort]; done) | (with_reducible refine queues_foldl _ _ _ _ ?_ ?_) | (intro _ _) | split | (simp only [queues_modTile, queues_modPort]))

theorem queues_invalidate (s : State)  : (invalidate s).queues = s.queues := by
  unfold invalidate
  simp only [queues_mk, queues_eta]

theorem queues_settleDrains (s : State)  : (settleDrains s).queues = s.queues := by
  unfold settleDrains
  repeat' (first | (simp only [queues_mk, queues_eta, queues_ite, ite_self, queues_invalidate, queues_modRegion]; done) | (with_reducible refine queues_foldl _ _ _ _ ?_ ?_) | (intro _ _) | split | (simp only [queues_mk, queues_eta, queues_ite, ite_self, queues_invalidate, queues_modRegion]))

theorem queues_moveReservation (s : State) {p} {t} (h : moveReservation s p = some t) : t.queues = s.queues := by
  rw [queues_reserveTiles _ h, queues_releaseTiles]

theorem queues_assignEngines (s : State)  : (assignEngines s).queues = s.queues := by
  unfold assignEngines
  repeat' (first | (simp only [queues_mk, queues_eta, queues_ite, ite_self, queues_modPort]; done) | (with_reducible refine queues_foldl _ _ _ _ ?_ ?_) | (intro _ _) | split | (simp only [queues_mk, queues_eta, queues_ite, ite_self, queues_modPort]))

theorem queues_freeEngine (s : State) {x1} : (freeEngine s x1).queues = s.queues := by
  unfold freeEngine
  simp only [queues_mk, queues_eta, queues_modPort]

theorem queues_scanLimit (s : State) {x1} {x2} {x3} {x4} {x5} : (scanLimit s x1 x2 x3 x4 x5).queues = s.queues := by
  unfold scanLimit
  simp only [queues_complete]

theorem queues_armPort (s : State) {x1} {x2} {x3} : (armPort s x1 x2 x3).queues = s.queues := by
  unfold armPort
  simp only [queues_ite, ite_self, queues_modPort, queues_lampsOn]

theorem queues_armTrack (s : State) {x1} {x2} {x3} : (armTrack s x1 x2 x3).queues = s.queues := by
  unfold armTrack
  simp only [queues_modTrack]

theorem queues_finishArms (s : State)  : (finishArms s).queues = s.queues := by
  unfold finishArms
  repeat' (first | (simp only [queues_mk, queues_eta, queues_ite, ite_self, queues_complete, queues_modTrack]; done) | (with_reducible refine queues_foldl _ _ _ _ ?_ ?_) | (intro _ _) | split | (simp only [queues_mk, queues_eta, queues_ite, ite_self, queues_complete, queues_modTrack]))

theorem queues_reserveAll (s : State) {cs} {t} (h : reserveAll s cs = some t) : t.queues = s.queues := by
  induction cs generalizing s with
  | nil => cases h; rfl
  | cons c cs ih =>
    obtain ⟨p, c⟩ := c
    simp only [reserveAll, Option.bind_eq_some_iff] at h
    obtain ⟨u, hu, ht⟩ := h
    rw [ih _ ht, queues_reserveTiles _ hu]

theorem queues_armNow (s : State) {r} {h} {o} {t} {f} {cs} {plan} : (armNow s r h o t f cs plan).queues = s.queues := by
  unfold armNow
  split
  · rw [queues_scanLimit]
  · rename_i u hu
    dsimp only
    rw [queues_finishArms, queues_sendSync, queues_modTrack]
    refine queues_foldl _ _ _ _ ?_ fun s a => ?_
    · rw [queues_assignEngines, queues_armTrack]
      exact queues_foldl _ _ _ _ (queues_reserveAll s hu) fun s a => queues_armPort s
    · split
      · rfl
      · rw [queues_deadRecovery]

theorem queues_runScanArm (s : State) {x1} {x2} {x3} : (runScanArm s x1 x2 x3).queues = s.queues := by
  unfold runScanArm
  repeat' (first | (simp only [queues_ite, ite_self, queues_complete, queues_scanLimit, queues_armNow]; done) | (with_reducible refine queues_foldl _ _ _ _ ?_ ?_) | (intro _ _) | split | (simp only [queues_ite, ite_self, queues_complete, queues_scanLimit, queues_armNow]))

theorem queues_startCal (s : State) {x1} {x2} {x3} : (startCal s x1 x2 x3).queues = s.queues := by
  unfold startCal
  simp only [queues_modPort, queues_lampsOff]

theorem queues_startCals (s : State)  : (startCals s).queues = s.queues := by
  unfold startCals
  repeat' (first | (simp only [queues_mk, queues_eta, queues_ite, ite_self, queues_startCal, queues_modPort]; done) | (with_reducible refine queues_foldl _ _ _ _ ?_ ?_) | (intro _ _) | split | (simp only [queues_mk, queues_eta, queues_ite, ite_self, queues_startCal, queues_modPort]))

theorem queues_runCalRun (s : State) {x1} {x2} {x3} : (runCalRun s x1 x2 x3).queues = s.queues := by
  unfold runCalRun
  simp only [queues_ite, ite_self, queues_complete, queues_startCals, queues_modPort]

theorem queues_disarmPorts (s : State) {x1} : (disarmPorts s x1).queues = s.queues := by
  unfold disarmPorts
  repeat' (first | (simp only [queues_lampsOff, queues_freeEngine, queues_releaseTiles, queues_modPort, queues_modTrack]; done) | (with_reducible refine queues_foldl _ _ _ _ ?_ ?_) | (intro _ _) | split | (simp only [queues_lampsOff, queues_freeEngine, queues_releaseTiles, queues_modPort, queues_modTrack]))

theorem queues_disarmTrack (s : State) {x1} {x2} : (disarmTrack s x1 x2).queues = s.queues := by
  unfold disarmTrack
  repeat' (first | (simp only [queues_disarmPorts, queues_complete, queues_modTrack, queues_schedule, queues_startCals, queues_settleDrains, queues_assignEngines]; done) | (with_reducible refine queues_foldl _ _ _ _ ?_ ?_) | (intro _ _) | split | (simp only [queues_disarmPorts, queues_complete, queues_modTrack, queues_schedule, queues_startCals, queues_settleDrains, queues_assignEngines]))

theorem queues_forceDisarm (s : State) {x1} : (forceDisarm s x1).queues = s.queues := by
  unfold forceDisarm
  simp only [queues_ite, ite_self, queues_disarmTrack]

theorem queues_runScanDisarm (s : State) {x1} {x2} {x3} : (runScanDisarm s x1 x2 x3).queues = s.queues := by
  unfold runScanDisarm
  simp only [queues_ite, ite_self, queues_complete, queues_modTrack]

theorem queues_accSet (s : State) {x1} {x2} : (accSet s x1 x2).queues = s.queues := by
  unfold accSet
  simp only [queues_mk, queues_eta]

theorem queues_modTailor (s : State) {x1} {x2} : (modTailor s x1 x2).queues = s.queues := by
  unfold modTailor
  simp only [queues_mk, queues_eta]

theorem queues_modSample (s : State) {x1} {x2} {x3} : (modSample s x1 x2 x3).queues = s.queues := by
  unfold modSample
  simp only [queues_modTailor]

theorem queues_touchCache (s : State) {x1} {x2} : (touchCache s x1 x2).queues = s.queues := by
  unfold touchCache
  simp only [queues_mk, queues_eta]

theorem queues_storeCache (s : State) {fn} {key} {n} : (storeCache s fn key n).queues = s.queues := by
  unfold storeCache
  rw [queues_mk, queues_eta]

theorem queues_takeCached (s : State) {x1} : (takeCached s x1).queues = s.queues := by
  unfold takeCached
  repeat' (first | (simp only [queues_mk, queues_eta, queues_ite, ite_self, queues_modJob, queues_modSample, queues_touchCache]; done) | (with_reducible refine queues_foldl _ _ _ _ ?_ ?_) | (intro _ _) | split | (simp only [queues_mk, queues_eta, queues_ite, ite_self, queues_modJob, queues_modSample, queues_touchCache]))

theorem queues_grantStaging (s : State)  : (grantStaging s).queues = s.queues := by
  unfold grantStaging
  repeat' (first | (simp only [queues_mk, queues_eta, queues_ite, ite_self, queues_takeCached, queues_modJob]; done) | (with_reducible refine queues_foldl _ _ _ _ ?_ ?_) | (intro _ _) | split | (simp only [queues_mk, queues_eta, queues_ite, ite_self, queues_takeCached, queues_modJob]))

theorem queues_setEngine (s : State) {x1} {x2} : (setEngine s x1 x2).queues = s.queues := by
  unfold setEngine
  simp only [queues_mk, queues_eta]

theorem queues_decodeRead (s : State) {x1} {x2} : (decodeRead s x1 x2).queues = s.queues := by
  unfold decodeRead
  repeat' (first | (simp only [queues_mk, queues_eta, queues_ite, ite_self, queues_hostRead]; done) | (with_reducible refine queues_foldl _ _ _ _ ?_ ?_) | (intro _ _) | split | (simp only [queues_mk, queues_eta, queues_ite, ite_self, queues_hostRead]))

theorem queues_giveEngines (s : State)  : (giveEngines s).queues = s.queues := by
  unfold giveEngines
  repeat' (first | (simp only [queues_mk, queues_eta, queues_ite, ite_self, queues_setEngine, queues_decodeRead]; done) | (with_reducible refine queues_foldl _ _ _ _ ?_ ?_) | (intro _ _) | split | (simp only [queues_mk, queues_eta, queues_ite, ite_self, queues_setEngine, queues_decodeRead]))

theorem queues_serveImages (s : State)  : (serveImages s).queues = s.queues := by
  unfold serveImages
  simp only [queues_schedule, queues_giveEngines, queues_grantStaging]

theorem queues_postImage (s : State) {x1} : (postImage s x1).queues = s.queues := by
  unfold postImage
  split <;> simp only [queues_ite, ite_self, queues_chipCnt, queues_modJob, queues_reportPost]

theorem queues_imageStagesDone (s : State) {x1} : (imageStagesDone s x1).queues = s.queues := by
  unfold imageStagesDone
  repeat' (first | (simp only [queues_ite, ite_self, queues_modJob, queues_releaseJob, queues_serveImages, queues_postImage]; done) | (with_reducible refine queues_foldl _ _ _ _ ?_ ?_) | (intro _ _) | split | (simp only [queues_ite, ite_self, queues_modJob, queues_releaseJob, queues_serveImages, queues_postImage]))

theorem queues_imageDecoded (s : State) {x1} {x2} {x3} {x4} : (imageDecoded s x1 x2 x3 x4).queues = s.queues := by
  unfold imageDecoded
  simp only [queues_ite, ite_self, queues_failJob, queues_modJob]

theorem queues_endTailor (s : State) {x1} {x2} {x3} : (endTailor s x1 x2 x3).queues = s.queues := by
  unfold endTailor
  simp only [queues_mk, queues_eta, queues_reportJob, queues_serveImages, queues_finishJob]

theorem queues_tailorEmpty (s : State) {x1} : (tailorEmpty s x1).queues = s.queues := by
  unfold tailorEmpty
  split <;> simp only [queues_ite, ite_self, queues_endTailor]

theorem queues_removeSample (s : State) {x1} {x2} : (removeSample s x1 x2).queues = s.queues := by
  unfold removeSample
  simp only [queues_tailorEmpty, queues_modSample]

theorem queues_sampleDecoded (s : State) {x1} {x2} {x3} : (sampleDecoded s x1 x2 x3).queues = s.queues := by
  unfold sampleDecoded
  repeat' (first | (simp only [queues_mk, queues_eta, queues_ite, ite_self, queues_removeSample, queues_storeCache, queues_modTailor, queues_modJob]; done) | (with_reducible refine queues_foldl _ _ _ _ ?_ ?_) | (intro _ _) | split | (simp only [queues_mk, queues_eta, queues_ite, ite_self, queues_removeSample, queues_storeCache, queues_modTailor, queues_modJob]))

theorem queues_countCodec (s : State) {x1} {x2} : (countCodec s x1 x2).queues = s.queues := by
  unfold countCodec
  simp only [queues_chipCnt]

theorem queues_sideEncoded (s : State) {x1} {x2} {x3} : (sideEncoded s x1 x2 x3).queues = s.queues := by
  unfold sideEncoded
  split <;> simp only [queues_countCodec, queues_buildPiece, queues_modPiece]

theorem queues_hostEncoded (s : State) {x1} {x2} {x3} {x4} : (hostEncoded s x1 x2 x3 x4).queues = s.queues := by
  unfold hostEncoded
  repeat' (first | (simp only [queues_ite, ite_self, queues_countCodec, queues_modJob, queues_postImage]; done) | (with_reducible refine queues_foldl _ _ _ _ ?_ ?_) | (intro _ _) | split | (simp only [queues_ite, ite_self, queues_countCodec, queues_modJob, queues_postImage]))

theorem queues_relowerAll (s : State)  : (relowerAll s).queues = s.queues := by
  unfold relowerAll
  simp only [queues_mk, queues_eta]

theorem queues_readScratch (s : State) {x1} {x2} : (readScratch s x1 x2).queues = s.queues := by
  unfold readScratch
  repeat' (first | (simp only [queues_logWords, queues_readWord]; done) | (with_reducible refine queues_foldl _ _ _ _ ?_ ?_) | (intro _ _) | split | (simp only [queues_logWords, queues_readWord]))

theorem queues_moveOffTile (s : State) {t} : (moveOffTile s t).queues = s.queues := by
  unfold moveOffTile
  split
  · rfl
  · split
    · rename_i h
      exact queues_moveReservation s h
    · rw [queues_forceDisarm]

theorem queues_substitute (s : State) {x1} : (substitute s x1).queues = s.queues := by
  unfold substitute
  repeat' (first | (simp only [queues_mk, queues_eta, queues_ite, queues_modTile, queues_logHealth, queues_modJob, queues_relowerAll, queues_moveOffTile, queues_readScratch, queues_modRegion, queues_failJob]; done) | (with_reducible refine queues_foldl _ _ _ _ ?_ ?_) | (intro _ _) | split | (simp only [queues_mk, queues_eta, queues_ite, queues_modTile, queues_logHealth, queues_modJob, queues_relowerAll, queues_moveOffTile, queues_readScratch, queues_modRegion, queues_failJob]))

theorem queues_failTile (s : State) {x1} : (failTile s x1).queues = s.queues := by
  unfold failTile
  simp only [queues_ite, ite_self, queues_modTile, queues_substitute]

theorem queues_substituteDue (s : State) {x1} : (substituteDue s x1).queues = s.queues := by
  unfold substituteDue
  repeat' (first | (simp only [queues_mk, queues_eta, queues_ite, ite_self, queues_substitute]; done) | (with_reducible refine queues_foldl _ _ _ _ ?_ ?_) | (intro _ _) | split | (simp only [queues_mk, queues_eta, queues_ite, ite_self, queues_substitute]))

theorem queues_strike (s : State) {x1} : (strike s x1).queues = s.queues := by
  unfold strike
  simp only [queues_ite, ite_self, queues_countN, queues_modTile, queues_failTile]

theorem queues_reloadTile (s : State) {x1} : (reloadTile s x1).queues = s.queues := by
  unfold reloadTile
  repeat' (first | (simp only [queues_mk, queues_eta, queues_ite, ite_self, queues_writeModel, queues_writePrograms, queues_writeTables]; done) | (with_reducible refine queues_foldl _ _ _ _ ?_ ?_) | (intro _ _) | split | (simp only [queues_mk, queues_eta, queues_ite, ite_self, queues_writeModel, queues_writePrograms, queues_writeTables]))

theorem queues_healthTake (s : State) {x1} : (healthTake s x1).queues = s.queues := by
  unfold healthTake
  simp only [queues_ite, ite_self, queues_sendHealth]

theorem queues_evictSide (s : State) {g} {p} : (evictSide s g p).queues = s.queues := by
  unfold evictSide
  split
  · rfl
  · have h0 : ((unpressed s p).foldl (fun s n => discardPiece s (s.lp p).cfg.track n .regionLost) s).queues = s.queues :=
      queues_foldl _ _ _ _ rfl fun _ _ => queues_discardPiece _
    have h1 : ∀ t, ((unpressed s p).foldl (fun s n => discardPiece s t n .regionLost) s).queues = s.queues :=
      fun t => queues_foldl _ _ _ _ rfl fun _ _ => queues_discardPiece _
    dsimp only
    split
    · rename_i h
      rw [queues_moveReservation _ h, h1]
    · split
      · rw [queues_healthTake, h1]
      · rw [queues_forceDisarm, h1]

theorem queues_endInRegion (s : State) {x0} {x2} : (endInRegion x0 s x2).queues = s.queues := by
  unfold endInRegion
  repeat' (first | (simp only [queues_ite, queues_modJob, queues_lastRites, queues_failJob]; done) | (with_reducible refine queues_foldl _ _ _ _ ?_ ?_) | (intro _ _) | split | (simp only [queues_ite, queues_modJob, queues_lastRites, queues_failJob]))

theorem queues_regionError (s : State) {x1} {x2} : (regionError s x1 x2).queues = s.queues := by
  unfold regionError
  repeat' (first | (simp only [queues_mk, queues_eta, queues_ite, ite_self, queues_endInRegion, queues_modRegion, queues_evictSide, queues_invalidate, queues_relowerAll, queues_raiseEvent, queues_serveImages, queues_logHealth]; done) | (with_reducible refine queues_foldl _ _ _ _ ?_ ?_) | (intro _ _) | split | (simp only [queues_mk, queues_eta, queues_ite, ite_self, queues_endInRegion, queues_modRegion, queues_evictSide, queues_invalidate, queues_relowerAll, queues_raiseEvent, queues_serveImages, queues_logHealth]))

theorem queues_drainRegions (s : State) {x1} : (drainRegions s x1).queues = s.queues := by
  unfold drainRegions
  repeat' (first | (simp only [queues_ite, queues_modRegion, queues_settleDrains, queues_relowerAll]; done) | (with_reducible refine queues_foldl _ _ _ _ ?_ ?_) | (intro _ _) | split | (simp only [queues_ite, queues_modRegion, queues_settleDrains, queues_relowerAll]))

theorem queues_serveRegions (s : State) {x1} : (serveRegions s x1).queues = s.queues := by
  unfold serveRegions
  repeat' (first | (simp only [queues_ite, queues_serveImages, queues_logHealth, queues_modRegion, queues_writePrograms]; done) | (with_reducible refine queues_foldl _ _ _ _ ?_ ?_) | (intro _ _) | split | (simp only [queues_ite, queues_serveImages, queues_logHealth, queues_modRegion, queues_writePrograms]))

theorem queues_deviceError (s : State) {x1} : (deviceError s x1).queues = s.queues := by
  unfold deviceError
  repeat' (first | (simp only [queues_mk, queues_eta, queues_ite, ite_self, queues_healthTake, queues_abandonFolds, queues_modTrack, queues_logHealth, queues_raiseEvent]; done) | (with_reducible refine queues_foldl _ _ _ _ ?_ ?_) | (intro _ _) | split | (simp only [queues_mk, queues_eta, queues_ite, ite_self, queues_healthTake, queues_abandonFolds, queues_modTrack, queues_logHealth, queues_raiseEvent]))

theorem queues_dropModelAt (s : State) {x1} : (dropModelAt s x1).queues = s.queues := by
  unfold dropModelAt
  repeat' (first | (simp only [queues_mk, queues_eta, queues_ite, ite_self]; done) | (with_reducible refine queues_foldl _ _ _ _ ?_ ?_) | (intro _ _) | split | (simp only [queues_mk, queues_eta, queues_ite, ite_self]))

theorem queues_marchFail (s : State) {x1} {x2} {x3} : (marchFail s x1 x2 x3).queues = s.queues := by
  unfold marchFail
  simp only [queues_mk, queues_eta, queues_ite, ite_self, queues_darnRow, queues_failTile]

theorem queues_zeroBank (s : State) {x1} {x2} {x3} : (zeroBank s x1 x2 x3).queues = s.queues := by
  unfold zeroBank
  simp only [queues_mk, queues_eta]

theorem queues_lintFault (s : State) {x1} {x2} : (lintFault s x1 x2).queues = s.queues := by
  unfold lintFault
  split <;> simp only [queues_ite, ite_self, queues_logHealth, queues_strike, queues_marchFail]

theorem queues_runTestRun (s : State) {x1} {x2} {x3} : (runTestRun s x1 x2 x3).queues = s.queues := by
  unfold runTestRun
  repeat' (first | (simp only [queues_ite, ite_self, queues_complete, queues_schedule, queues_addJob, queues_hostWrite, queues_darnRow, queues_setMark]; done) | (with_reducible refine queues_foldl _ _ _ _ ?_ ?_) | (intro _ _) | split | (simp only [queues_ite, ite_self, queues_complete, queues_schedule, queues_addJob, queues_hostWrite, queues_darnRow, queues_setMark]))

theorem queues_testRows (s : State) {x1} : (testRows s x1).queues = s.queues := by
  unfold testRows
  repeat' (first | (simp only [queues_mk, queues_eta, queues_ite, ite_self, queues_zeroRows, queues_modTile]; done) | (with_reducible refine queues_foldl _ _ _ _ ?_ ?_) | (intro _ _) | split | (simp only [queues_mk, queues_eta, queues_ite, ite_self, queues_zeroRows, queues_modTile]))

theorem queues_finishTest (s : State) {x1} {x2} {x3} : (finishTest s x1 x2 x3).queues = s.queues := by
  unfold finishTest
  repeat' (first | (simp only [queues_mk, queues_eta, queues_ite, ite_self, queues_testRows, queues_finishJob, queues_reportJob, queues_modRegion, queues_lintFault]; done) | (with_reducible refine queues_foldl _ _ _ _ ?_ ?_) | (intro _ _) | split | (simp only [queues_mk, queues_eta, queues_ite, ite_self, queues_testRows, queues_finishJob, queues_reportJob, queues_modRegion, queues_lintFault]))

theorem queues_measure (s : State) {x1} {x2} {x3} {x4} : (measure s x1 x2 x3 x4).queues = s.queues := by
  unfold measure
  simp only [queues_mk, queues_eta]

theorem queues_recordLow (s : State) {x1} {x2} : (recordLow s x1 x2).queues = s.queues := by
  unfold recordLow
  simp only [queues_mk, queues_eta, queues_ite, ite_self]

theorem queues_writeReport (s : State) {x1} : (writeReport s x1).queues = s.queues := by
  unfold writeReport
  split <;> simp only [queues_hostWrite]

theorem queues_loadModel (s : State) {x1} {x2} {x3} : (loadModel s x1 x2 x3).queues = s.queues := by
  unfold loadModel
  simp only [queues_placeModel, queues_chipCnt, queues_modAcct]

theorem queues_findWays (s : State) {p} {w t} (h : findWays s p = some (w, t)) : t.queues = s.queues := by
  simp only [findWays, Option.map_eq_some_iff, Prod.mk.injEq] at h
  obtain ⟨r, hr, _, rfl⟩ := h
  rw [queues_chipCnt, queues_takeWays s hr]

theorem queues_loadIfWays (s : State) {p} : (loadIfWays s p).queues = s.queues := by
  unfold loadIfWays
  split
  · rfl
  · split
    · rename_i h
      rw [queues_loadModel, queues_findWays s h]
    · rfl

theorem queues_writeRows (s : State) {x1} : (writeRows s x1).queues = s.queues := by
  unfold writeRows
  simp only [queues_writeTables, queues_writePrograms]

theorem queues_takePages (s : State) {x1} : (takePages s x1).queues = s.queues := by
  unfold takePages
  simp only [queues_mk, queues_eta]

theorem queues_endLoad (s : State) {x1} {x2} {x3} : (endLoad s x1 x2 x3).queues = s.queues := by
  unfold endLoad
  repeat' (first | (simp only [queues_measure, queues_modPlan, queues_complete, queues_writeReport]; done) | (with_reducible refine queues_foldl _ _ _ _ ?_ ?_) | (intro _ _) | split | (simp only [queues_measure, queues_modPlan, queues_complete, queues_writeReport]))

theorem queues_placeLoad (s : State) {p} {q} : (placeLoad s p q).queues = s.queues := by
  have h0 : ((p :: q.toList).foldl writeRows (takePages { s with plans := { s.plans with loaded := s.plans.loaded ++ (p :: q.toList), nextHandle := s.plans.nextHandle + (p :: q.toList).length } }
      (sumNat ((p :: q.toList).map (·.batchPages))))).queues = s.queues := by
    refine queues_foldl _ _ _ _ ?_ fun _ _ => queues_writeRows _
    rw [queues_takePages, queues_mk, queues_eta]
  unfold placeLoad
  dsimp only
  rw [queues_loadIfWays]
  split
  · exact h0
  · split
    · exact h0
    · split
      · rename_i hw
        rw [queues_loadModel, queues_findWays _ hw]
        exact h0
      · rw [queues_mk, queues_eta, queues_requestLoad]
        exact h0

theorem queues_loadPlan (s : State) {fn} {o} {b} {low} {lowC} {p t} (h : loadPlan s fn o b low lowC = .ok (p, t)) : t.queues = s.queues := by
  unfold loadPlan at h
  split at h
  · cases h
  · split at h
    · cases h
    · split at h
      · cases h
      · dsimp only at h
        split at h
        · cases h; rw [queues_placeLoad]
        · split at h
          · cases h
          · cases h; rw [queues_placeLoad]

theorem queues_startLoad (s : State)  : (startLoad s).queues = s.queues := by
  unfold startLoad
  split <;> simp only [queues_mk, queues_eta, queues_hostRead]

theorem queues_runPlanLoad (s : State) {x1} {x2} {x3} : (runPlanLoad s x1 x2 x3).queues = s.queues := by
  unfold runPlanLoad
  simp only [queues_mk, queues_eta, queues_ite, ite_self, queues_complete, queues_startLoad]

theorem queues_loadLows (s : State) {o} {b} {low} {lowC} : (loadLows s o b low lowC).1.queues = s.queues := by
  unfold loadLows
  split
  · rfl
  · dsimp only
    split
    · rw [queues_recordLow]
    · rw [queues_recordLow, queues_recordLow]

theorem queues_nextInQueue (s : State)  : (nextInQueue s).queues = s.queues := by
  unfold nextInQueue
  simp only [queues_mk, queues_eta, queues_startLoad]

theorem queues_remodel (s : State) {p} {p'} : (remodel s p p').queues = s.queues := by
  have h1 : ∀ (c : Bool) (u : State) (m : List ModelSt), (if c = true then u else { u with sched := { u.sched with models := m } }).queues = u.queues := by
    intro c u m
    split <;> rfl
  unfold remodel
  split
  · rw [queues_modPlan]
  · dsimp only
    split
    · rw [queues_loadModel, h1, queues_modPlan]
    · split
      · rename_i h
        rw [queues_loadModel, queues_findWays _ h, h1, queues_modPlan]
      · rw [queues_requestLoad, h1, queues_modPlan]

theorem queues_applyRelower (s : State) {x1} {x2} {x3} : (applyRelower s x1 x2 x3).queues = s.queues := by
  unfold applyRelower
  repeat' (first | (simp only [queues_remodel, queues_writeRows, queues_logHealth, queues_writeReport, queues_dropOldModels]; done) | (with_reducible refine queues_foldl _ _ _ _ ?_ ?_) | (intro _ _) | split | (simp only [queues_remodel, queues_writeRows, queues_logHealth, queues_writeReport, queues_dropOldModels]))

theorem queues_staleRelower (s : State) {x1} : (staleRelower s x1).queues = s.queues := by
  unfold staleRelower
  split <;> simp only [queues_ite, ite_self, queues_modPlan, queues_invalidate]

theorem queues_relowerLows (s : State) {p} {low} {lowC} : (relowerLows s p low lowC).1.queues = s.queues := by
  unfold relowerLows
  dsimp only
  split
  · rw [queues_recordLow]
  · rw [queues_recordLow, queues_recordLow]

theorem queues_scrubModels (s : State) {x1} : (scrubModels s x1).queues = s.queues := by
  unfold scrubModels
  repeat' (first | (simp only [queues_mk, queues_eta, queues_ite, ite_self, queues_zeroRows]; done) | (with_reducible refine queues_foldl _ _ _ _ ?_ ?_) | (intro _ _) | split | (simp only [queues_mk, queues_eta, queues_ite, ite_self, queues_zeroRows]))

theorem queues_closeBatch (s : State) {x1} : (closeBatch s x1).queues = s.queues := by
  unfold closeBatch
  repeat' (first | (simp only [queues_mk, queues_eta, queues_failSeqStep, queues_dropRef, queues_endWalk]; done) | (with_reducible refine queues_foldl _ _ _ _ ?_ ?_) | (intro _ _) | split | (simp only [queues_mk, queues_eta, queues_failSeqStep, queues_dropRef, queues_endWalk]))

theorem queues_dropPlan (s : State) {x1} : (dropPlan s x1).queues = s.queues := by
  unfold dropPlan
  simp only [queues_mk, queues_eta, queues_dropModel, queues_closeBatch, queues_scrubModels]

theorem queues_unloadPlan (s : State) {x1} {x2} {x3} : (unloadPlan s x1 x2 x3).queues = s.queues := by
  unfold unloadPlan
  repeat' (first | (simp only [queues_dropPlan, queues_measure, queues_complete]; done) | (with_reducible refine queues_foldl _ _ _ _ ?_ ?_) | (intro _ _) | split | (simp only [queues_dropPlan, queues_measure, queues_complete]))

theorem queues_runPlanUnload (s : State) {x1} {x2} {x3} : (runPlanUnload s x1 x2 x3).queues = s.queues := by
  unfold runPlanUnload
  repeat' (first | (simp only [queues_mk, queues_eta, queues_ite, ite_self, queues_complete, queues_modPlan]; done) | (with_reducible refine queues_foldl _ _ _ _ ?_ ?_) | (intro _ _) | split | (simp only [queues_mk, queues_eta, queues_ite, ite_self, queues_complete, queues_modPlan]))

theorem queues_setPin (s : State) {x1} {x2} : (setPin s x1 x2).queues = s.queues := by
  unfold setPin
  simp only [queues_mk, queues_eta]

theorem queues_runWardrobePin (s : State) {x1} {x2} {x3} : (runWardrobePin s x1 x2 x3).queues = s.queues := by
  unfold runWardrobePin
  split <;> simp only [queues_ite, ite_self, queues_complete, queues_setPin, queues_requestLoad]

theorem queues_donePins (s : State) {x1} {x2} : (donePins s x1 x2).queues = s.queues := by
  unfold donePins
  repeat' (first | (simp only [queues_mk, queues_eta, queues_ite, ite_self, queues_complete, queues_setPin]; done) | (with_reducible refine queues_foldl _ _ _ _ ?_ ?_) | (intro _ _) | split | (simp only [queues_mk, queues_eta, queues_ite, ite_self, queues_complete, queues_setPin]))

theorem queues_loadWaitDone (s : State)  : (loadWaitDone s).queues = s.queues := by
  unfold loadWaitDone
  repeat' (first | (simp only [queues_mk, queues_eta, queues_ite, ite_self, queues_nextInQueue, queues_endLoad]; done) | (with_reducible refine queues_foldl _ _ _ _ ?_ ?_) | (intro _ _) | split | (simp only [queues_mk, queues_eta, queues_ite, ite_self, queues_nextInQueue, queues_endLoad]))

theorem queues_loadWaitFails (s : State) {x1} : (loadWaitFails s x1).queues = s.queues := by
  unfold loadWaitFails
  repeat' (first | (simp only [queues_mk, queues_eta, queues_ite, queues_dropPlan, queues_nextInQueue, queues_complete]; done) | (with_reducible refine queues_foldl _ _ _ _ ?_ ?_) | (intro _ _) | split | (simp only [queues_mk, queues_eta, queues_ite, queues_dropPlan, queues_nextInQueue, queues_complete]))

theorem queues_loadFailed (s : State) {x1} : (loadFailed s x1).queues = s.queues := by
  unfold loadFailed
  repeat' (first | (simp only [queues_logHealth, queues_modPlan, queues_loadWaitFails, queues_donePins, queues_failJob]; done) | (with_reducible refine queues_foldl _ _ _ _ ?_ ?_) | (intro _ _) | split | (simp only [queues_logHealth, queues_modPlan, queues_loadWaitFails, queues_donePins, queues_failJob]))

theorem queues_landOne (s : State) {x0} {x1} : (landOne x0 x1 s).queues = s.queues := by
  unfold landOne
  split <;> simp only [queues_landTransfer]

theorem queues_dropSaved (s : State)  : (dropSaved s).queues = s.queues := by
  unfold dropSaved
  repeat' (first | (simp only [queues_mk, queues_eta, queues_ite, ite_self, queues_failJob, queues_tryStart]; done) | (with_reducible refine queues_foldl _ _ _ _ ?_ ?_) | (intro _ _) | split | (simp only [queues_mk, queues_eta, queues_ite, ite_self, queues_failJob, queues_tryStart]))

theorem queues_settle (s : State)  : (settle s).queues = s.queues := by
  unfold settle
  simp only [queues_finishArms, queues_settleDrains, queues_dropSaved, queues_serveImages]

theorem queues_countMove (s : State) {x1} {x2} {x3} : (countMove s x1 x2 x3).queues = s.queues := by
  unfold countMove
  repeat' (first | (simp only [queues_countN, queues_modAcct]; done) | (with_reducible refine queues_foldl _ _ _ _ ?_ ?_) | (intro _ _) | split | (simp only [queues_countN, queues_modAcct]))

theorem queues_saveLane (s : State) {x1} {x2} : (saveLane s x1 x2).queues = s.queues := by
  unfold saveLane
  repeat' (first | (simp only [queues_landTransfer, queues_readScratch, queues_freeLane, queues_modJob]; done) | (with_reducible refine queues_foldl _ _ _ _ ?_ ?_) | (intro _ _) | split | (simp only [queues_landTransfer, queues_readScratch, queues_freeLane, queues_modJob]))

theorem queues_saveEnded (s : State) {x1} {x2} : (saveEnded s x1 x2).queues = s.queues := by
  unfold saveEnded
  repeat' (first | (simp only [queues_freeLane, queues_takeTransfer]; done) | (with_reducible refine queues_foldl _ _ _ _ ?_ ?_) | (intro _ _) | split | (simp only [queues_freeLane, queues_takeTransfer]))

theorem queues_saveJob (s : State) {x1} : (saveJob s x1).queues = s.queues := by
  unfold saveJob
  repeat' (first | (simp only [queues_ite, queues_countMove, queues_modAcct, queues_saveLane, queues_saveEnded, queues_modJob]; done) | (with_reducible refine queues_foldl _ _ _ _ ?_ ?_) | (intro _ _) | split | (simp only [queues_ite, queues_countMove, queues_modAcct, queues_saveLane, queues_saveEnded, queues_modJob]))

theorem queues_restoreLane (s : State) {x0} {x2} : (restoreLane x0 s x2).queues = s.queues := by
  unfold restoreLane
  split <;> simp only [queues_mk, queues_eta, queues_zeroRows, queues_modJob]

theorem queues_restoreJob (s : State) {x1} : (restoreJob s x1).queues = s.queues := by
  unfold restoreJob
  repeat' (first | (simp only [queues_mk, queues_eta, queues_ite, ite_self, queues_countMove, queues_restoreLane, queues_takeTransfer]; done) | (with_reducible refine queues_foldl _ _ _ _ ?_ ?_) | (intro _ _) | split | (simp only [queues_mk, queues_eta, queues_ite, ite_self, queues_countMove, queues_restoreLane, queues_takeTransfer]))

theorem queues_newSeq (s : State) {x1} {x2} {x3} {x4} {x5} {x6} : (newSeq s x1 x2 x3 x4 x5 x6).2.queues = s.queues := by
  unfold newSeq
  simp only [queues_mk, queues_eta]

theorem queues_moveFinal (s : State) {x0} {x1} {x3} : (moveFinal x0 x1 s x3).queues = s.queues := by
  unfold moveFinal
  repeat' (first | (simp only [queues_ite, queues_modPiece, queues_modSeq, queues_newSeq, queues_sidesEnded]; done) | (with_reducible refine queues_foldl _ _ _ _ ?_ ?_) | (intro _ _) | split | (simp only [queues_ite, queues_modPiece, queues_modSeq, queues_newSeq, queues_sidesEnded]))

theorem queues_seqRefused (s : State) {x1} {x2} {x3} : (seqRefused s x1 x2 x3).queues = s.queues := by
  unfold seqRefused
  simp only [queues_removeJob, queues_reportJob]

theorem queues_takeSeqJob (s : State) {x0} {x2} : (takeSeqJob x0 s x2).queues = s.queues := by
  unfold takeSeqJob
  repeat' (first | (simp only [queues_mk, queues_eta, queues_ite, ite_self, queues_modJob, queues_newSeq, queues_modSeq, queues_seqRefused]; done) | (with_reducible refine queues_foldl _ _ _ _ ?_ ?_) | (intro _ _) | split | (simp only [queues_mk, queues_eta, queues_ite, ite_self, queues_modJob, queues_newSeq, queues_modSeq, queues_seqRefused]))

theorem queues_setBank (s : State) {x1} {x2} : (setBank s x1 x2).queues = s.queues := by
  unfold setBank
  simp only [queues_mk, queues_eta]

theorem queues_runSnapshot (s : State) {x1} {x2} {x3} : (runSnapshot s x1 x2 x3).queues = s.queues := by
  unfold runSnapshot
  repeat' (first | (simp only [queues_mk, queues_eta, queues_ite, ite_self, queues_complete, queues_setBank]; done) | (with_reducible refine queues_foldl _ _ _ _ ?_ ?_) | (intro _ _) | split | (simp only [queues_mk, queues_eta, queues_ite, ite_self, queues_complete, queues_setBank]))

theorem queues_dropSnapshots (s : State) {x1} : (dropSnapshots s x1).queues = s.queues := by
  unfold dropSnapshots
  repeat' (first | (simp only [queues_mk, queues_eta, queues_ite, ite_self, queues_setBank]; done) | (with_reducible refine queues_foldl _ _ _ _ ?_ ?_) | (intro _ _) | split | (simp only [queues_mk, queues_eta, queues_ite, ite_self, queues_setBank]))

theorem queues_ensureMasters (s : State) {p} {t} (h : ensureMasters s p = some t) : t.queues = s.queues := by
  unfold ensureMasters at h
  split at h
  · cases h; rfl
  · dsimp only at h
    split at h
    · cases h
    · cases h; rfl

theorem queues_startTailor (s : State) {r} {h} {o} {aux} {m} {n t} (e : startTailor s r h o aux m = .ok (n, t)) : t.queues = s.queues := by
  unfold startTailor at e
  split at e
  · cases e
  · split at e
    · cases e
    · split at e
      · cases e
      · rename_i hu
        cases e
        rw [queues_tailorEmpty, queues_mk, queues_eta, queues_mk, queues_eta, queues_ensureMasters s hu]

theorem queues_takeSample (s : State) {x1} {x2} {x3} {x4} : (takeSample s x1 x2 x3 x4).queues = s.queues := by
  unfold takeSample
  split <;> simp only [queues_ite, ite_self, queues_removeSample, queues_modSample, queues_modTailor]

theorem queues_tailorPassesDone (s : State) {x1} {x2} : (tailorPassesDone s x1 x2).queues = s.queues := by
  unfold tailorPassesDone
  split <;> simp only [queues_mk, queues_eta, queues_ite, ite_self, queues_modTailor, queues_serveImages, queues_modJob, queues_releaseJob, queues_endTailor]

theorem queues_prepWays (s : State) {p} {w t} (h : prepWays s p = some (w, t)) : t.queues = s.queues := by
  simp only [prepWays, Option.map_eq_some_iff, Prod.mk.injEq] at h
  obtain ⟨r, hr, _, rfl⟩ := h
  rw [queues_chipCnt, queues_takeWays s hr]

theorem queues_prepareSwap (s : State) {t} {p} {low} {c u} (h : prepareSwap s t p low = .ok (c, u)) : u.queues = s.queues := by
  unfold prepareSwap at h
  dsimp only at h
  split at h
  · cases h
  · split at h
    · cases h; rfl
    · split at h
      · cases h
      · rename_i hw
        cases h
        rw [queues_loadModel, queues_prepWays s hw]

theorem queues_applySwap (s : State) {x1} {x2} {x3} {x4} : (applySwap s x1 x2 x3 x4).queues = s.queues := by
  unfold applySwap
  split <;> simp only [queues_mk, queues_eta, queues_writeRows, queues_modPlan, queues_measure, queues_dropOldModels, queues_logHealth, queues_writeReport]

theorem queues_endMemberTailor (s : State) {x1} {x2} {x3} : (endMemberTailor s x1 x2 x3).queues = s.queues := by
  unfold endMemberTailor
  simp only [queues_serveImages, queues_finishJob, queues_reportJob]

theorem queues_countTile (s : State) {x0} {x1} {x3} : (countTile x0 x1 s x3).queues = s.queues := by
  unfold countTile
  simp only [queues_countN, queues_modTile]

theorem queues_acctSegment (s : State) {x1} {x2} : (acctSegment s x1 x2).queues = s.queues := by
  unfold acctSegment
  simp only [queues_modAcct]

theorem queues_countSegment (s : State) {x1} {x2} {x3} {x4} : (countSegment s x1 x2 x3 x4).queues = s.queues := by
  unfold countSegment
  repeat' (first | (simp only [queues_noteDramCorrected, queues_countTile, queues_noteDramBad, queues_acctSegment, queues_countN]; done) | (with_reducible refine queues_foldl _ _ _ _ ?_ ?_) | (intro _ _) | split | (simp only [queues_noteDramCorrected, queues_countTile, queues_noteDramBad, queues_acctSegment, queues_countN]))

theorem queues_addSlip (s : State) {x1} {x2} : (addSlip s x1 x2).queues = s.queues := by
  unfold addSlip
  split <;> simp only [queues_modJob, queues_modPiece]

theorem queues_logEvents (s : State) {x1} {x2} {x3} : (logEvents s x1 x2 x3).queues = s.queues := by
  unfold logEvents
  repeat' (first | (simp only [queues_mk, queues_eta, queues_ite, ite_self, queues_logHealth]; done) | (with_reducible refine queues_foldl _ _ _ _ ?_ ?_) | (intro _ _) | split | (simp only [queues_mk, queues_eta, queues_ite, ite_self, queues_logHealth]))

theorem queues_countLater (s : State) {x1} : (countLater s x1).queues = s.queues := by
  unfold countLater
  simp only [queues_mk, queues_eta]

theorem queues_segError (s : State) {x1} {x2} {x3} {x4} : (segError s x1 x2 x3 x4).queues = s.queues := by
  unfold segError
  simp only [queues_ite, ite_self, queues_countLater, queues_logEvents, queues_failJob, queues_strike, queues_substituteDue]

theorem queues_emitPiece (s : State) {t} {n} {j} {e} : (emitPiece s t n j e).queues = s.queues := by
  unfold emitPiece
  dsimp only
  cases e with
  | token num x y seg side =>
    dsimp only
    split
    · rw [queues_modPiece]
    · rfl
  | done => rfl
  | sample _ _ _ => rfl
  | _ => exact queues_modPiece s

theorem queues_emitImage (s : State) {x1} {x2} : (emitImage s x1 x2).queues = s.queues := by
  unfold emitImage
  split <;> simp only [queues_modJob]

theorem queues_emitSeq (s : State) {x1} {x2} {x3} : (emitSeq s x1 x2 x3).queues = s.queues := by
  unfold emitSeq
  repeat' (first | (simp only [queues_mk, queues_eta, queues_ite, ite_self, queues_modSeq, queues_emitPiece]; done) | (with_reducible refine queues_foldl _ _ _ _ ?_ ?_) | (intro _ _) | split | (simp only [queues_mk, queues_eta, queues_ite, ite_self, queues_modSeq, queues_emitPiece]))

theorem queues_emitItem (s : State) {x0} {x2} : (emitItem x0 s x2).queues = s.queues := by
  unfold emitItem
  repeat' (first | (simp only [queues_mk, queues_eta, queues_ite, ite_self, queues_emitSeq, queues_emitPiece, queues_emitImage, queues_takeSample]; done) | (with_reducible refine queues_foldl _ _ _ _ ?_ ?_) | (intro _ _) | split | (simp only [queues_mk, queues_eta, queues_ite, ite_self, queues_emitSeq, queues_emitPiece, queues_emitImage, queues_takeSample]))

theorem queues_companionJob (s : State) {x1} {x2} {x3} {x4} : (companionJob s x1 x2 x3 x4).queues = s.queues := by
  unfold companionJob
  repeat' (first | (simp only [queues_feedJob, queues_finishJob, queues_feedInput, queues_modJob]; done) | (with_reducible refine queues_foldl _ _ _ _ ?_ ?_) | (intro _ _) | split | (simp only [queues_feedJob, queues_finishJob, queues_feedInput, queues_modJob]))

theorem queues_swapSideJobs (s : State) {x1} {x2} : (swapSideJobs s x1 x2).queues = s.queues := by
  unfold swapSideJobs
  repeat' (first | (simp only [queues_mk, queues_eta, queues_ite, ite_self, queues_companionJob]; done) | (with_reducible refine queues_foldl _ _ _ _ ?_ ?_) | (intro _ _) | split | (simp only [queues_mk, queues_eta, queues_ite, ite_self, queues_companionJob]))

theorem queues_quickWash (s : State) {x1} {x2} {x3} : (quickWash s x1 x2 x3).queues = s.queues := by
  unfold quickWash
  repeat' (first | (simp only [queues_mk, queues_eta, queues_ite, ite_self, queues_modSeq, queues_modPiece, queues_newSeq, queues_modAcct, queues_chipCnt, queues_sidesEnded, queues_swapSideJobs]; done) | (with_reducible refine queues_foldl _ _ _ _ ?_ ?_) | (intro _ _) | split | (simp only [queues_mk, queues_eta, queues_ite, ite_self, queues_modSeq, queues_modPiece, queues_newSeq, queues_modAcct, queues_chipCnt, queues_sidesEnded, queues_swapSideJobs]))

theorem queues_monitorPiece (s : State) {x1} {x2} : (monitorPiece s x1 x2).queues = s.queues := by
  unfold monitorPiece
  repeat' (first | (simp only [queues_ite, ite_self, queues_chipCnt, queues_quickWash, queues_discardPiece]; done) | (with_reducible refine queues_foldl _ _ _ _ ?_ ?_) | (intro _ _) | split | (simp only [queues_ite, ite_self, queues_chipCnt, queues_quickWash, queues_discardPiece]))

theorem queues_monitor (s : State) {x1} {x2} : (monitor s x1 x2).queues = s.queues := by
  unfold monitor
  repeat' (first | (simp only [queues_mk, queues_eta, queues_ite, ite_self, queues_monitorPiece]; done) | (with_reducible refine queues_foldl _ _ _ _ ?_ ?_) | (intro _ _) | split | (simp only [queues_mk, queues_eta, queues_ite, ite_self, queues_monitorPiece]))

theorem queues_jobEnds (s : State) {x1} {x2} : (jobEnds s x1 x2).queues = s.queues := by
  unfold jobEnds
  split <;> simp only [queues_sideEnded, queues_finishJob, queues_finishStep, queues_imageStagesDone, queues_tailorPassesDone, queues_finishTest]

theorem queues_sharedPart (s : State) {x1} : (sharedPart s x1).queues = s.queues := by
  unfold sharedPart
  split <;> simp only [queues_sharedSeq]

theorem queues_absentPart (s : State) {x1} : (absentPart s x1).queues = s.queues := by
  unfold absentPart
  repeat' (first | (simp only [queues_ite, queues_modSeq, queues_dropOne]; done) | (with_reducible refine queues_foldl _ _ _ _ ?_ ?_) | (intro _ _) | split | (simp only [queues_ite, queues_modSeq, queues_dropOne]))

theorem queues_endCommand (s : State) {x1} {x2} : (endCommand s x1 x2).queues = s.queues := by
  unfold endCommand
  simp only [queues_ite, ite_self, queues_modJob, queues_endWalk]

theorem queues_advanceLane (s : State) {x1} {x2} : (advanceLane s x1 x2).queues = s.queues := by
  unfold advanceLane
  repeat' (first | (simp only [queues_mk, queues_eta, queues_ite, ite_self, queues_modLane, queues_modJob]; done) | (with_reducible refine queues_foldl _ _ _ _ ?_ ?_) | (intro _ _) | split | (simp only [queues_mk, queues_eta, queues_ite, ite_self, queues_modLane, queues_modJob]))

theorem queues_giveWay (s : State) {x1} : (giveWay s x1).queues = s.queues := by
  unfold giveWay
  repeat' (first | (simp only [queues_mk, queues_eta, queues_ite, ite_self, queues_companionJob]; done) | (with_reducible refine queues_foldl _ _ _ _ ?_ ?_) | (intro _ _) | split | (simp only [queues_mk, queues_eta, queues_ite, ite_self, queues_companionJob]))

theorem queues_segGood (s : State) {x1} {x2} {x3} {x4} {x5} {x6} : (segGood s x1 x2 x3 x4 x5 x6).queues = s.queues := by
  unfold segGood
  repeat' (first | (simp only [queues_ite, ite_self, queues_emitItem, queues_sendMove, queues_absentPart, queues_sharedPart, queues_advanceLane, queues_endCommand, queues_addSlip, queues_jobEnds, queues_giveWay, queues_substituteDue, queues_monitor]; done) | (with_reducible refine queues_foldl _ _ _ _ ?_ ?_) | (intro _ _) | split | (simp only [queues_ite, ite_self, queues_emitItem, queues_sendMove, queues_absentPart, queues_sharedPart, queues_advanceLane, queues_endCommand, queues_addSlip, queues_jobEnds, queues_giveWay, queues_substituteDue, queues_monitor]))

theorem queues_testSegment (s : State) {x1} {x2} {x3} : (testSegment s x1 x2 x3).queues = s.queues := by
  unfold testSegment
  repeat' (first | (simp only [queues_ite, ite_self, queues_countSegment, queues_modLane, queues_substituteDue, queues_failJob, queues_finishTest]; done) | (with_reducible refine queues_foldl _ _ _ _ ?_ ?_) | (intro _ _) | split | (simp only [queues_ite, ite_self, queues_countSegment, queues_modLane, queues_substituteDue, queues_failJob, queues_finishTest]))

/-! A segment's happenings: its reads, writes and work leave what is fixed (R127). -/

theorem queues_segFold {α : Type} (f : SegRun → α → SegRun) (l : List α) (r : SegRun) (h : ∀ r a, (f r a).s.queues = r.s.queues) :
    (l.foldl f r).s.queues = r.s.queues := by
  induction l generalizing r with
  | nil => rfl
  | cons a l ih => rw [List.foldl_cons, ih, h]

theorem queues_setRegs {r : SegRun} {ks} {ws} : (r.setRegs ks ws).s.queues = r.s.queues := queues_segFold _ _ _ fun _ _ => rfl

theorem queues_stampAccess {c} {r : SegRun} {i} {e} {a} {w} {k} {n} {x} : (stampAccess c r i e a w k n x).s.queues = r.s.queues := by
  unfold stampAccess
  split
  · rfl
  · split
    · rfl
    · dsimp only
      split <;> rfl

theorem queues_scaleAccess {c} {r : SegRun} {e} {a} {n} {w} : (scaleAccess c r e a n w).s.queues = r.s.queues := by
  unfold scaleAccess
  split
  · rfl
  · dsimp only
    split <;> rfl

theorem queues_serveRead {c} {set} {lost} {r : SegRun} {i} {e} {a} {k} {n} : (serveRead c set lost r i e a k n).s.queues = r.s.queues := by
  unfold serveRead
  dsimp only
  split
  · rfl
  · split
    · exact queues_stampAccess
    · rw [queues_scaleAccess]
      split <;> exact (queues_readWord _).trans ((queues_countN _).trans queues_stampAccess)

theorem queues_serveWrite {c} {set} {lost} {r : SegRun} {i} {e} {a} {k} {n} : (serveWrite c set lost r i e a k n).s.queues = r.s.queues := by
  unfold serveWrite
  dsimp only
  split
  · rfl
  · split
    · rfl
    · split
      · exact queues_stampAccess
      · split <;> exact (queues_writeWord _).trans ((queues_countN _).trans queues_stampAccess)

theorem queues_serveDma {c} {set} {r : SegRun} {d} : (serveDma c set r d).s.queues = r.s.queues := by
  unfold serveDma
  dsimp only
  split
  · rfl
  · split
    · split <;> exact queues_writeWord _
    · split <;> exact queues_readWord _

theorem queues_runDot {c} {r : SegRun} {tile fa fb ra rb acc} {sa sb} : (runDot c r tile fa fb ra rb acc sa sb).s.queues = r.s.queues := by
  unfold runDot
  dsimp only
  rw [queues_countN, queues_accSet]

theorem queues_runLut {c} {r : SegRun} {tile tab fmt} {base step} {ra rd i} : (runLut c r tile tab fmt base step ra rd i).s.queues = r.s.queues := by
  unfold runLut
  dsimp only
  split
  · exact queues_countN _
  · rfl

theorem queues_runWin {c} {r : SegRun} {tile} {op} {src dst} : (runWin c r tile op src dst).s.queues = r.s.queues := by
  unfold runWin
  dsimp only
  split
  · rw [queues_setRegs]
    split
    · exact queues_setRegs
    · exact (queues_countN _).trans queues_setRegs
  · split
    · exact queues_setRegs
    · exact (queues_countN _).trans queues_setRegs

theorem queues_noteWalk {r : SegRun} {seq layer pos} : (noteWalk r seq layer pos).s.queues = r.s.queues := by
  unfold noteWalk
  split
  · split <;> rfl
  · rfl

theorem queues_runKvWr {r : SegRun} {seq layer pos head} {val} {part reg} : (runKvWr r seq layer pos head val part reg).s.queues = r.s.queues := by
  unfold runKvWr
  split
  · split
    · rfl
    · split
      · rfl
      · split
        · rfl
        · split
          · rfl
          · dsimp only
            split
            · split
              · exact queues_modSeq _
              · rfl
            · rfl
  · rfl

theorem queues_runKvRd {r : SegRun} {seq layer pos head} {val} {part reg} : (runKvRd r seq layer pos head val part reg).s.queues = r.s.queues := by
  unfold runKvRd
  dsimp only
  split
  · split <;> exact queues_noteWalk
  · exact queues_noteWalk

theorem queues_attnForward {r : SegRun} {a} : (attnForward r a).s.queues = r.s.queues := by
  unfold attnForward
  dsimp only
  split
  · refine queues_setRegs.trans ?_
    split
    · rfl
    · exact queues_setRegs
  · rw [queues_setRegs]
    split
    · rfl
    · exact queues_setRegs

theorem queues_runAttn {r : SegRun} {a} : (runAttn r a).s.queues = r.s.queues := by
  have h : ∀ (r : SegRun), (match a.paged with
      | some (seq, layer) => a.kj.foldl (fun r (p : PosInfo) => noteWalk r seq layer p.pos) r
      | none => r).s.queues = r.s.queues := by
    intro r
    split
    · exact queues_segFold _ _ _ fun _ _ => queues_noteWalk
    · rfl
  unfold runAttn
  dsimp only
  split
  · exact queues_attnForward.trans (h r)
  · exact h r

theorem queues_runBwd {r : SegRun} {b} : (runBwd r b).s.queues = r.s.queues := by
  unfold runBwd
  dsimp only
  rw [queues_segFold _ _ _ fun _ _ => queues_setRegs, queues_segFold _ _ _ fun _ _ => queues_setRegs, queues_setRegs]

theorem queues_runStep {c} {cells} {r : SegRun} {i} {e} : (runStep c cells r i e).s.queues = r.s.queues := by
  unfold runStep
  dsimp only
  split
  · rfl
  · exact queues_segFold _ _ _ fun _ _ => rfl
  · exact queues_runDot
  · exact queues_accSet _
  · rfl
  · rfl
  · exact queues_runLut
  · rfl
  · rfl
  · rfl
  · exact queues_setRegs
  · rfl
  · exact queues_runAttn
  · exact queues_runBwd
  · exact queues_runWin
  · exact queues_runKvWr
  · exact queues_runKvRd
  · rfl

theorem queues_runMicro {c} {set} {w} {lost} {r : SegRun} {m} : (runMicro c set w lost r m).s.queues = r.s.queues := by
  unfold runMicro
  split
  · exact queues_serveDma
  · split
    · rfl
    · split
      · rfl
      · exact queues_serveRead
      · exact queues_serveWrite
      · exact queues_runStep
      · rfl

theorem queues_runOps (s : State) {c} {set} {blocks} {w} : (runOps s c set blocks w).s.queues = s.queues := by
  unfold runOps
  exact queues_segFold _ _ _ fun _ _ => queues_runMicro

theorem queues_runSegment (s : State) {j} {p} {l} {c} {w} : (runSegment s j p l c w).queues = s.queues := by
  have h0 : ∀ (r : SegRun) (f : Job → Job), (modJob (r.badRows.foldl dropModelAt r.s) j.id f).queues = r.s.queues := by
    intro r f
    rw [queues_modJob]
    exact queues_foldl _ _ _ _ rfl fun s _ => queues_dropModelAt s
  unfold runSegment
  dsimp only
  split
  · rw [h0, queues_runOps, queues_countSegment]
  · split
    · rw [queues_segError, h0, queues_runOps, queues_countSegment]
    · rw [queues_substituteDue, queues_failJob, h0, queues_runOps, queues_countSegment]
    · split
      · rw [queues_substituteDue, queues_failJob, h0, queues_runOps, queues_countSegment]
      · rw [queues_segGood, h0, queues_runOps, queues_countSegment]

theorem queues_runsOn (s : State) {job} {tile} {t j l} (h : runsOn s job tile = some (t, j, l)) : t.queues = s.queues := by
  unfold runsOn at h
  split at h
  · cases h
  · split at h
    · cases h
    · simp only [Option.map_eq_some_iff, Prod.mk.injEq] at h
      obtain ⟨_, _, rfl, _⟩ := h
      rw [queues_modLane]

theorem queues_watchdogEnd (s : State) {x1} {x2} : (watchdogEnd s x1 x2).queues = s.queues := by
  unfold watchdogEnd
  simp only [queues_ite, ite_self, queues_lastRites, queues_failJob]

theorem queues_windowApply (s : State) {x1} : (windowApply s x1).queues = s.queues := by
  unfold windowApply
  simp only [queues_mk, queues_eta, queues_sendWindowState]

theorem queues_runWindowOpen (s : State) {x1} {x2} {x3} : (runWindowOpen s x1 x2 x3).queues = s.queues := by
  unfold runWindowOpen
  split <;> simp only [queues_complete, queues_windowApply]

theorem queues_runWindowClose (s : State) {x1} {x2} {x3} : (runWindowClose s x1 x2 x3).queues = s.queues := by
  unfold runWindowClose
  split <;> simp only [queues_mk, queues_eta, queues_complete, queues_sendWindowState]

theorem queues_commitSwap (s : State) {x1} : (commitSwap s x1).queues = s.queues := by
  unfold commitSwap
  repeat' (first | (simp only [queues_mk, queues_eta, queues_ite, ite_self, queues_applySwap]; done) | (with_reducible refine queues_foldl _ _ _ _ ?_ ?_) | (intro _ _) | split | (simp only [queues_mk, queues_eta, queues_ite, ite_self, queues_applySwap]))

theorem queues_commitRecord (s : State) {x0} {x1} {x3} : (commitRecord x0 x1 s x3).queues = s.queues := by
  unfold commitRecord
  split <;> simp only [queues_commitPost]

theorem queues_finishFold (s : State) {x1} {x2} : (finishFold s x1 x2).queues = s.queues := by
  unfold finishFold
  split <;> simp only [queues_ite, ite_self, queues_dropFold, queues_foldCompls]

theorem queues_runMember {r} {f g : FoldRun} {m} (h : runMember r f m = .ok g) : g.s.queues = f.s.queues := by
  unfold runMember at h
  split at h
  · split at h <;> cases h
    rfl
  · split at h
    · split at h
      · cases h
      · cases h; exact queues_editApply f.s
    · split at h
      · cases h
      · split at h <;> cases h <;> rfl
    · split at h
      · cases h
      · cases h; exact queues_windowApply f.s
    all_goals (cases h; rfl)

theorem queues_runMembers {r} {i} {f g : FoldRun} {ms} (h : runMembers r i f ms = .ok g) : g.s.queues = f.s.queues := by
  induction ms generalizing i f with
  | nil => cases h; rfl
  | cons m ms ih =>
    unfold runMembers at h
    split at h
    · cases h
    · rename_i hm
      rw [ih h, queues_runMember hm]

theorem queues_commitHost (s : State) {r} {f} : (commitHost s r f).queues = s.queues := by
  unfold commitHost
  split
  · rw [queues_abortFold, queues_chipCnt, queues_dropSwaps]
  · split
    · rw [queues_abortFold, queues_chipCnt, queues_dropSwaps]
    · split
      · rw [queues_abortFold, queues_chipCnt, queues_dropSwaps]
      · rename_i g hg
        have hgs : (if g.edits then raiseVersion g.s else g.s).queues = s.queues := by
          have := queues_runMembers hg
          split
          · rw [queues_raiseVersion, this]
          · exact this
        dsimp only
        rw [queues_finishFold]
        refine queues_foldl _ _ _ _ ?_ fun s a => ?_
        · rw [queues_pegArbitrate]
          refine queues_foldl _ _ _ _ ?_ fun s a => queues_commitRecord s
          rw [queues_chipCnt]
          refine queues_foldl _ _ _ _ ?_ fun s a => queues_commitSwap s
          rw [queues_modFold]
          exact hgs
        · split
          · rw [queues_releaseSeq]
          · rfl

theorem queues_finishHandover (s : State)  : (finishHandover s).queues = s.queues := by
  unfold finishHandover
  split <;> simp only [queues_mk, queues_eta, queues_ite, ite_self]

theorem queues_judgeWindows (s : State)  : (judgeWindows s).queues = s.queues := by
  unfold judgeWindows
  simp only [queues_judgeWindow]

theorem queues_dropPost (s : State) {x1} : (dropPost s x1).queues = s.queues := by
  unfold dropPost
  simp only [queues_mk, queues_eta]

theorem queues_memberPost (s : State) {x0} {x1} {x2} {x3} {x4} {x5} : (memberPost x0 x1 x2 x3 x4 x5 s).queues = s.queues := by
  unfold memberPost
  simp only [queues_modFold]

theorem queues_reportPostCopy (s : State) {x1} {x2} {x3} {x4} : (reportPostCopy s x1 x2 x3 x4).queues = s.queues := by
  unfold reportPostCopy
  repeat' (first | (simp only [queues_mk, queues_eta, queues_ite, ite_self, queues_postCompl, queues_finishFold, queues_memberPost]; done) | (with_reducible refine queues_foldl _ _ _ _ ?_ ?_) | (intro _ _) | split | (simp only [queues_mk, queues_eta, queues_ite, ite_self, queues_postCompl, queues_finishFold, queues_memberPost]))

theorem queues_copyPost (s : State) {x1} {x2} : (copyPost s x1 x2).queues = s.queues := by
  unfold copyPost
  simp only [queues_ite, ite_self, queues_hostWrite, queues_reportPostCopy, queues_dropPost, queues_raiseVec, queues_modFn, implies_true, and_self]

theorem queues_loseBadPost (s : State) {x1} : (loseBadPost s x1).queues = s.queues := by
  unfold loseBadPost
  simp only [queues_logHealth, queues_reportPostCopy, queues_dropPost]

theorem queues_basketFreed (s : State)  : (basketFreed s).queues = s.queues := by
  unfold basketFreed
  simp only [queues_serveImages, queues_retryPosts, queues_judgeCapture, queues_basketMarks]

theorem queues_receiveFrame (s : State) {seq} {act} (h : ∀ u, (act u).queues = u.queues) : (receiveFrame s seq act).queues = s.queues := by
  unfold receiveFrame
  split
  · rfl
  · dsimp only
    split
    · rw [h, queues_sendAck]; rw [queues_mk, queues_eta, queues_chipCnt]
    · split
      · rw [h, queues_sendAck]; rw [queues_mk, queues_eta, queues_chipCnt]
      · split
        · rw [queues_sendAck, queues_chipCnt]
        · rw [queues_sendAck, queues_chipCnt]

theorem queues_setReady (s : State) {x1} {x2} {x3} : (setReady s x1 x2 x3).queues = s.queues := by
  unfold setReady
  split <;> simp only [queues_mk, queues_eta]

theorem queues_linkDown (s : State)  : (linkDown s).queues = s.queues := by
  unfold linkDown
  repeat' (first | (simp only [queues_mk, queues_eta, queues_setReady, queues_logHealth, queues_complete]; done) | (with_reducible refine queues_foldl _ _ _ _ ?_ ?_) | (intro _ _) | split | (simp only [queues_mk, queues_eta, queues_setReady, queues_logHealth, queues_complete]))

theorem queues_sendPair (s : State)  : (sendPair s).queues = s.queues := by
  unfold sendPair
  repeat' (first | (simp only [queues_mk, queues_eta, queues_ite, ite_self, queues_sendFrame, queues_sendWindowState]; done) | (with_reducible refine queues_foldl _ _ _ _ ?_ ?_) | (intro _ _) | split | (simp only [queues_mk, queues_eta, queues_ite, ite_self, queues_sendFrame, queues_sendWindowState]))

theorem queues_stopReading (s : State)  : (stopReading s).queues = s.queues := by
  unfold stopReading
  repeat' (first | (simp only [queues_mk, queues_eta, queues_ite, ite_self, queues_stopPiece]; done) | (with_reducible refine queues_foldl _ _ _ _ ?_ ?_) | (intro _ _) | split | (simp only [queues_mk, queues_eta, queues_ite, ite_self, queues_stopPiece]))

theorem queues_finishPair (s : State) {x1} {x2} {x3} : (finishPair s x1 x2 x3).queues = s.queues := by
  unfold finishPair
  simp only [queues_mk, queues_eta, queues_ite, ite_self, queues_logHealth, queues_sendSync, queues_stopReading]

theorem queues_setTwinEnable (s : State) {x1} : (setTwinEnable s x1).queues = s.queues := by
  unfold setTwinEnable
  repeat' (first | (simp only [queues_mk, queues_eta, queues_ite, ite_self, queues_regSet, queues_stopReading, queues_sendPair, queues_setReady]; done) | (with_reducible refine queues_foldl _ _ _ _ ?_ ?_) | (intro _ _) | split | (simp only [queues_mk, queues_eta, queues_ite, ite_self, queues_regSet, queues_stopReading, queues_sendPair, queues_setReady]))

theorem queues_adoptTrack (s : State) {x1} {x2} : (adoptTrack s x1 x2).queues = s.queues := by
  unfold adoptTrack
  repeat' (first | (simp only [queues_mk, queues_eta, queues_ite, ite_self, queues_modTrack, queues_modPort]; done) | (with_reducible refine queues_foldl _ _ _ _ ?_ ?_) | (intro _ _) | split | (simp only [queues_mk, queues_eta, queues_ite, ite_self, queues_modTrack, queues_modPort]))

theorem queues_judgeReady (s : State) {x1} {x2} : (judgeReady s x1 x2).queues = s.queues := by
  unfold judgeReady
  repeat' (first | (simp only [queues_ite, queues_setReady]; done) | (with_reducible refine queues_foldl _ _ _ _ ?_ ?_) | (intro _ _) | split | (simp only [queues_ite, queues_setReady]))

theorem queues_noteCommitted (s : State) {x1} {x2} : (noteCommitted s x1 x2).queues = s.queues := by
  unfold noteCommitted
  simp only [queues_ite, ite_self, queues_modTrack, queues_prunePieces]

theorem queues_replaySide (s : State) {x1} {x2} {x3} {x4} : (replaySide s x1 x2 x3 x4).queues = s.queues := by
  unfold replaySide
  split <;> simp only [queues_ite, ite_self, queues_modPiece, queues_feedInput, queues_feedJob]

theorem queues_replayPiece (s : State) {x0} {x1} {x3} : (replayPiece x0 x1 s x3).queues = s.queues := by
  unfold replayPiece
  repeat' (first | (simp only [queues_mk, queues_eta, queues_ite, ite_self, queues_verdictFold, queues_replaySide, queues_discardPiece, queues_portCnt]; done) | (with_reducible refine queues_foldl _ _ _ _ ?_ ?_) | (intro _ _) | split | (simp only [queues_mk, queues_eta, queues_ite, ite_self, queues_verdictFold, queues_replaySide, queues_discardPiece, queues_portCnt]))

theorem queues_takeTrack (s : State) {x1} {x2} : (takeTrack s x1 x2).queues = s.queues := by
  unfold takeTrack
  repeat' (first | (simp only [queues_modTrack, queues_prunePieces, queues_replayPiece]; done) | (with_reducible refine queues_foldl _ _ _ _ ?_ ?_) | (intro _ _) | split | (simp only [queues_modTrack, queues_prunePieces, queues_replayPiece]))

theorem queues_takeOver (s : State) {x1} {x2} : (takeOver s x1 x2).queues = s.queues := by
  unfold takeOver
  repeat' (first | (simp only [queues_mk, queues_eta, queues_ite, ite_self, queues_takeTrack, queues_logHealth, queues_modTrack, queues_schedule]; done) | (with_reducible refine queues_foldl _ _ _ _ ?_ ?_) | (intro _ _) | split | (simp only [queues_mk, queues_eta, queues_ite, ite_self, queues_takeTrack, queues_logHealth, queues_modTrack, queues_schedule]))

theorem queues_clearTakeover (s : State)  : (clearTakeover s).queues = s.queues := by
  unfold clearTakeover
  simp only [queues_mk, queues_eta]

theorem queues_clearFence (s : State)  : (clearFence s).queues = s.queues := by
  unfold clearFence
  simp only [queues_mk, queues_eta, queues_ite, ite_self, queues_sendPair]

theorem queues_startHandover (s : State)  : (startHandover s).queues = s.queues := by
  unfold startHandover
  simp only [queues_mk, queues_eta, queues_ite, ite_self, queues_badWrite, queues_sendHealth, queues_finishHandover]

theorem queues_landWrite (s : State) {x1} : (landWrite s x1).2.queues = s.queues := by
  unfold landWrite
  repeat' (first | (simp only [queues_mk, queues_eta, queues_writeVia, queues_logWords]; done) | (with_reducible refine queues_foldl _ _ _ _ ?_ ?_) | (intro _ _) | split | (simp only [queues_mk, queues_eta, queues_writeVia, queues_logWords]))

theorem queues_dmaSource (s : State) {fn} {o} {aux} : (dmaSource s fn o aux).2.2.queues = s.queues := by
  unfold dmaSource
  split
  · rfl
  · rfl
  · dsimp only
    split
    · rw [queues_readBytes]
    · split
      · rw [queues_readBytes]
      · rw [queues_logWords, queues_readWord, queues_readBytes]

theorem queues_sendWrites (s : State) {win} {xfer} {whole} {off} {cs} : (sendWrites win xfer whole s off cs).queues = s.queues := by
  induction cs generalizing s off with
  | nil => rfl
  | cons c cs ih =>
    unfold sendWrites
    rw [ih, queues_sendFrame]

theorem queues_runTwinDma (s : State) {x1} {x2} {x3} {x4} : (runTwinDma s x1 x2 x3 x4).queues = s.queues := by
  unfold runTwinDma
  repeat' (first | (simp only [queues_mk, queues_eta, queues_complete, queues_hostRead, queues_dmaSource, queues_sendWrites]; done) | (with_reducible refine queues_foldl _ _ _ _ ?_ ?_) | (intro _ _) | split | (simp only [queues_mk, queues_eta, queues_complete, queues_hostRead, queues_dmaSource, queues_sendWrites]))

theorem queues_startImage (s : State) {x1} {x2} {x3} {x4} : (startImage s x1 x2 x3 x4).queues = s.queues := by
  unfold startImage
  split <;> simp only [queues_ite, ite_self, queues_complete, queues_hostRead, queues_serveImages, queues_addJob]

theorem queues_startSeqStep (s : State) {x1} {x2} {x3} {x4} : (startSeqStep s x1 x2 x3 x4).queues = s.queues := by
  unfold startSeqStep
  split <;> simp only [queues_complete, queues_addJob, queues_hostRead]

theorem queues_startTailorStep (s : State) {r} {h} {o} {aux} : (startTailorStep s r h o aux).queues = s.queues := by
  unfold startTailorStep
  split
  · rw [queues_complete]
  · rename_i e
    rw [queues_serveImages, queues_startTailor _ e, queues_hostRead]

theorem queues_startEdit (s : State) {x1} {x2} {x3} : (startEdit s x1 x2 x3).queues = s.queues := by
  unfold startEdit
  repeat' (first | (simp only [queues_ite, ite_self, queues_complete, queues_chipCnt, queues_raiseVersion, queues_editApply, queues_releaseSeq]; done) | (with_reducible refine queues_foldl _ _ _ _ ?_ ?_) | (intro _ _) | split | (simp only [queues_ite, ite_self, queues_complete, queues_chipCnt, queues_raiseVersion, queues_editApply, queues_releaseSeq]))

theorem queues_startPegWait (s : State) {x1} {x2} {x3} : (startPegWait s x1 x2 x3).queues = s.queues := by
  unfold startPegWait
  simp only [queues_mk, queues_eta, queues_pegArbitrate, queues_modRing, implies_true, and_self]

theorem queues_startPegSignal (s : State) {x1} {x2} {x3} : (startPegSignal s x1 x2 x3).queues = s.queues := by
  unfold startPegSignal
  simp only [queues_ite, ite_self, queues_complete, queues_pegArbitrate]

theorem queues_startFoldOpen (s : State) {x1} {x2} : (startFoldOpen s x1 x2).queues = s.queues := by
  unfold startFoldOpen
  simp only [queues_modRing, implies_true, and_self]

theorem queues_runDesc (s : State) {x1} {x2} : (runDesc s x1 x2).queues = s.queues := by
  unfold runDesc
  split <;> simp only [queues_complete, queues_runScanArm, queues_runScanDisarm, queues_runCalRun, queues_startImage, queues_startSeqStep, queues_startTailorStep, queues_runPlanLoad, queues_runPlanUnload, queues_runWardrobePin, queues_startEdit, queues_startPegWait, queues_startPegSignal, queues_startFoldOpen, queues_runSnapshot, queues_runWindowOpen, queues_runWindowClose, queues_runTwinDma, queues_runTestRun]

theorem queues_memberJob (s : State) {d} {j} : (memberJob s d j).1.queues = s.queues := queues_addJob s

theorem queues_stageMember (s : State) {r} {d} : (stageMember s r d).1.queues = s.queues := by
  unfold stageMember
  split
  · rfl
  · rfl
  · rfl
  · split
    · rfl
    · rw [queues_memberJob]
      split
      · rfl
      · rw [queues_hostRead]
  · split
    · rfl
    · rw [queues_memberJob, queues_hostRead]
  · split
    · rfl
    · rename_i e
      rw [queues_startTailor _ e, queues_hostRead]
  · rfl

theorem queues_addMember (s : State) {x1} {x2} {x3} : (addMember s x1 x2 x3).queues = s.queues := by
  unfold addMember
  simp only [queues_modRing, implies_true, and_self]

theorem queues_startMember (s : State) {r} {f} {d} : (startMember s r f d).queues = s.queues := by
  unfold startMember
  dsimp only
  split
  · rw [queues_addMember]
  · split
    · rw [queues_addMember]
    · split
      · rw [queues_addMember]
      · rw [queues_serveImages, queues_addMember, queues_stageMember]

theorem queues_closeFold (s : State) {x1} {x2} {x3} {x4} : (closeFold s x1 x2 x3 x4).queues = s.queues := by
  unfold closeFold
  simp only [queues_checkFold, queues_modRing, implies_true, and_self]

theorem queues_startDesc (s : State) {x1} {x2} : (startDesc s x1 x2).queues = s.queues := by
  unfold startDesc
  repeat' (first | (simp only [queues_closeFold, queues_startMember, queues_complete, queues_runDesc, queues_modRing, implies_true, and_self]; done) | (with_reducible refine queues_foldl _ _ _ _ ?_ ?_) | (intro _ _) | split | (simp only [queues_closeFold, queues_startMember, queues_complete, queues_runDesc, queues_modRing, implies_true, and_self]))

theorem queues_dictEnd (s : State) {x1} : (dictEnd s x1).queues = s.queues := by
  unfold dictEnd
  simp only [queues_mk, queues_eta, queues_raiseEvent]

theorem queues_dictStart (s : State)  : (dictStart s).queues = s.queues := by
  unfold dictStart
  simp only [queues_mk, queues_eta, queues_ite, ite_self, queues_dictEnd, queues_hostRead]

theorem queues_dictPlace (s : State) {x1} : (dictPlace s x1).queues = s.queues := by
  unfold dictPlace
  simp only [queues_mk, queues_eta, queues_measure]

theorem queues_enableRing (s : State) {x1} : (enableRing s x1).queues = s.queues := by
  unfold enableRing
  simp only [queues_ite, ite_self, queues_modRing, implies_true, and_self]

theorem queues_readLine (s : State) {x1} : (readLine s x1).queues = s.queues := by
  unfold readLine
  simp only [queues_ite, ite_self, queues_hostRead, queues_chipCnt, queues_modFn, implies_true, and_self]

theorem queues_kick (s : State) {x1} : (kick s x1).queues = s.queues := by
  unfold kick
  simp only [queues_ite, ite_self, queues_chipCnt, queues_readLine, queues_modFn, implies_true, and_self]

theorem queues_fetchReads (s : State) {x1} {x2} {x3} : (fetchReads s x1 x2 x3).queues = s.queues := by
  unfold fetchReads
  simp only [queues_ite, ite_self, queues_hostRead]

theorem queues_failRead (s : State) {x1} {x2} {x3} : (failRead s x1 x2 x3).queues = s.queues := by
  unfold failRead
  repeat' (first | (simp only [queues_mk, queues_eta, queues_ite, ite_self, queues_serveImages, queues_failJob, queues_startLoad, queues_complete]; done) | (with_reducible refine queues_foldl _ _ _ _ ?_ ?_) | (intro _ _) | split | (simp only [queues_mk, queues_eta, queues_ite, ite_self, queues_serveImages, queues_failJob, queues_startLoad, queues_complete]))

theorem queues_enableRec (s : State) {x1} : (enableRec s x1).queues = s.queues := by
  unfold enableRec
  simp only [queues_ite, ite_self, queues_modFn, implies_true, and_self]

theorem queues_pegGrant (s : State) {x1} {x2} : (pegGrant s x1 x2).queues = s.queues := by
  unfold pegGrant
  simp only [queues_ite, ite_self, queues_badWrite, queues_regSet, queues_modFn, implies_true, and_self]

theorem queues_portIgnore (s : State)  : (portIgnore s).queues = s.queues := by
  unfold portIgnore
  simp only [queues_mk, queues_eta, queues_chipCnt]

theorem queues_ackRate (s : State) {x0} {x2} : (ackRate x0 s x2).queues = s.queues := by
  unfold ackRate
  simp only [queues_mk, queues_eta, queues_ite, ite_self, queues_modTrack, queues_chipCnt]

theorem queues_writeRate (s : State) {x1} : (writeRate s x1).queues = s.queues := by
  unfold writeRate
  repeat' (first | (simp only [queues_mk, queues_eta, queues_ite, ite_self, queues_ackRate, queues_chipCnt]; done) | (with_reducible refine queues_foldl _ _ _ _ ?_ ?_) | (intro _ _) | split | (simp only [queues_mk, queues_eta, queues_ite, ite_self, queues_ackRate, queues_chipCnt]))

theorem queues_writeConfig (s : State) {x1} : (writeConfig s x1).queues = s.queues := by
  unfold writeConfig
  simp only [queues_mk, queues_eta, queues_ite, ite_self, queues_chipCnt, queues_portIgnore]

theorem queues_bootImage (s : State) {x1} {x2} : (bootImage s x1 x2).queues = s.queues := by
  unfold bootImage
  simp only [queues_mk, queues_eta, queues_measure]

theorem queues_readRecords (s : State)  : (readRecords s).queues = s.queues := by
  unfold readRecords
  simp only [queues_mk, queues_eta]

theorem queues_reserveBlock (s : State) {x1} {x2} {x3} : (reserveBlock s x1 x2 x3).queues = s.queues := by
  unfold reserveBlock
  simp only [queues_mk, queues_eta]

theorem queues_attLeafIn (s : State) {n t} (h : attLeafIn s = some (n, t)) : t.queues = s.queues := by
  unfold attLeafIn at h
  split at h
  · split at h
    · cases h; rfl
    · split at h
      · cases h; rw [queues_mk, queues_eta, queues_reserveBlock]
      · cases h
  · dsimp only at h
    split at h
    · cases h; rw [queues_mk, queues_eta, queues_reserveBlock]
    · cases h

theorem queues_takeLeaf (s : State) {n t} (h : takeLeaf s = some (n, t)) : t.queues = s.queues := by
  unfold takeLeaf at h
  split at h
  · cases h
  · split at h
    · rename_i e
      cases h
      exact queues_attLeafIn s e
    · split at h
      · exact (queues_attLeafIn _ h).trans rfl
      · cases h

theorem queues_idLeaf (s : State) {n t} (h : idLeaf s = some (n, t)) : t.queues = s.queues := by
  unfold idLeaf at h
  split at h
  · split at h
    · cases h; rfl
    · split at h
      · cases h; rw [queues_mk, queues_eta, queues_reserveBlock]
      · cases h
  · dsimp only at h
    split at h
    · cases h; rw [queues_mk, queues_eta, queues_reserveBlock]
    · cases h

theorem queues_attestGo (s : State) {x1} : (attestGo s x1).queues = s.queues := by
  unfold attestGo
  simp only [queues_ite, ite_self, queues_badWrite, queues_modFn, implies_true, and_self]

theorem queues_endQuote (s : State) {x1} {x2} : (endQuote s x1 x2).queues = s.queues := by
  unfold endQuote
  simp only [queues_mk, queues_eta, queues_raiseEvent, queues_modFn, implies_true, and_self]

theorem queues_serveQuote (s : State) {fn} {ok} : (serveQuote s fn ok).queues = s.queues := by
  unfold serveQuote
  dsimp only
  split
  · rw [queues_endQuote]
  · split
    · rw [queues_endQuote]
    · rename_i h
      split
      · rw [queues_endQuote, queues_hostWrite, queues_mk, queues_eta, queues_takeLeaf s h]
      · rw [queues_endQuote, queues_mk, queues_eta, queues_takeLeaf s h]

theorem queues_startUpdate (s : State) {x1} : (startUpdate s x1).queues = s.queues := by
  unfold startUpdate
  simp only [queues_mk, queues_eta, queues_ite, ite_self, queues_badWrite, queues_hostRead]

theorem queues_endUpdate (s : State) {x1} : (endUpdate s x1).queues = s.queues := by
  unfold endUpdate
  simp only [queues_mk, queues_eta]

theorem queues_putSlot (s : State) {x1} : (putSlot s x1).queues = s.queues := by
  unfold putSlot
  simp only [queues_mk, queues_eta]

theorem queues_stageImage (s : State) {x1} {x2} : (stageImage s x1 x2).queues = s.queues := by
  unfold stageImage
  repeat' (first | (simp only [queues_mk, queues_eta, queues_ite, ite_self, queues_endUpdate, queues_putSlot, queues_bootImage]; done) | (with_reducible refine queues_foldl _ _ _ _ ?_ ?_) | (intro _ _) | split | (simp only [queues_mk, queues_eta, queues_ite, ite_self, queues_endUpdate, queues_putSlot, queues_bootImage]))

theorem queues_stageBlob (s : State) {x1} {x2} : (stageBlob s x1 x2).queues = s.queues := by
  unfold stageBlob
  simp only [queues_mk, queues_eta, queues_ite, ite_self, queues_endUpdate]

theorem queues_applyRegion (s : State) {x1} : (applyRegion s x1).queues = s.queues := by
  unfold applyRegion
  repeat' (first | (simp only [queues_mk, queues_eta, queues_ite, ite_self, queues_badWrite, queues_endUpdate, queues_measure, queues_modRegion]; done) | (with_reducible refine queues_foldl _ _ _ _ ?_ ?_) | (intro _ _) | split | (simp only [queues_mk, queues_eta, queues_ite, ite_self, queues_badWrite, queues_endUpdate, queues_measure, queues_modRegion]))

theorem queues_raiseFloor (s : State) {x1} : (raiseFloor s x1).queues = s.queues := by
  unfold raiseFloor
  simp only [queues_mk, queues_eta]

theorem queues_confirmFloor (s : State)  : (confirmFloor s).queues = s.queues := by
  unfold confirmFloor
  repeat' (first | (simp only [queues_mk, queues_eta, queues_ite, ite_self, queues_badWrite, queues_endUpdate, queues_raiseFloor]; done) | (with_reducible refine queues_foldl _ _ _ _ ?_ ?_) | (intro _ _) | split | (simp only [queues_mk, queues_eta, queues_ite, ite_self, queues_badWrite, queues_endUpdate, queues_raiseFloor]))

theorem queues_switchover (s : State) {x1} : (switchover s x1).queues = s.queues := by
  unfold switchover
  simp only [queues_mk, queues_eta, queues_ite, ite_self, queues_logHealth, queues_chipCnt]

theorem queues_loadRegion (s : State) {x1} : (loadRegion s x1).queues = s.queues := by
  unfold loadRegion
  simp only [queues_measure, queues_modRegion]

theorem queues_endFirstLight (s : State) {x1} : (endFirstLight s x1).queues = s.queues := by
  unfold endFirstLight
  simp only [queues_ite, ite_self, queues_modTrack]

theorem queues_s5Row (s : State) {x1} : (s5Row s x1).queues = s.queues := by
  unfold s5Row
  simp only [queues_marchFail]

theorem queues_s5Region (s : State) {x0} {x2} : (s5Region x0 s x2).queues = s.queues := by
  unfold s5Region
  repeat' (first | (simp only [queues_ite, queues_regionError, queues_failTile]; done) | (with_reducible refine queues_foldl _ _ _ _ ?_ ?_) | (intro _ _) | split | (simp only [queues_ite, queues_regionError, queues_failTile]))

theorem queues_resetJob (s : State) {x1} : (resetJob s x1).queues = s.queues := by
  unfold resetJob
  split <;> simp only [queues_ite, ite_self, queues_modJob, queues_failJob]

theorem queues_abandonLoad (s : State)  : (abandonLoad s).queues = s.queues := by
  unfold abandonLoad
  repeat' (first | (simp only [queues_mk, queues_eta, queues_ite, ite_self, queues_dropPlan]; done) | (with_reducible refine queues_foldl _ _ _ _ ?_ ?_) | (intro _ _) | split | (simp only [queues_mk, queues_eta, queues_ite, ite_self, queues_dropPlan]))

theorem queues_dropHostPosts (s : State) {x1} : (dropHostPosts s x1).queues = s.queues := by
  unfold dropHostPosts
  simp only [queues_mk, queues_eta, queues_basketMarks]

theorem queues_clearOverrate (s : State) {x1} : (clearOverrate s x1).queues = s.queues := by
  unfold clearOverrate
  simp only [queues_modPort]

theorem queues_clearUnexpected (s : State) {x1} : (clearUnexpected s x1).queues = s.queues := by
  unfold clearUnexpected
  simp only [queues_modPort]

theorem queues_setupGo (s : State) {x1} : (setupGo s x1).queues = s.queues := by
  unfold setupGo
  simp only [queues_ite, ite_self, queues_badWrite, queues_modPort, queues_emit]

theorem queues_enableLog (s : State)  : (enableLog s).queues = s.queues := by
  unfold enableLog
  simp only [queues_mk, queues_eta, queues_ite, ite_self]

theorem queues_unmaskVec (s : State) {x1} {x2} : (unmaskVec s x1 x2).queues = s.queues := by
  unfold unmaskVec
  simp only [queues_ite, ite_self, queues_regSet, queues_emit, queues_modFn, implies_true, and_self]

theorem queues_maskVec (s : State) {x1} {x2} : (maskVec s x1 x2).queues = s.queues := by
  unfold maskVec
  simp only [queues_regSet, queues_modFn, implies_true, and_self]

theorem queues_writePlain (s : State) {x1} {x2} {x3} {x4} : (writePlain s x1 x2 x3 x4).queues = s.queues := by
  unfold writePlain
  simp only [queues_ite, ite_self, queues_regSet, queues_basketMarks, queues_badWrite]

theorem queues_writeSetup (s : State) {x1} {x2} {x3} {x4} {x5} : (writeSetup s x1 x2 x3 x4 x5).queues = s.queues := by
  unfold writeSetup
  simp only [queues_ite, ite_self, queues_badWrite, queues_regSet, queues_setupGo]

theorem queues_writeTwinCfg (s : State) {x1} : (writeTwinCfg s x1).queues = s.queues := by
  unfold writeTwinCfg
  simp only [queues_ite, ite_self, queues_badWrite, queues_setTwinEnable, queues_regSet]

theorem queues_writeTwinStatus (s : State) {x1} : (writeTwinStatus s x1).queues = s.queues := by
  unfold writeTwinStatus
  simp only [queues_mk, queues_eta, queues_ite, ite_self, queues_badWrite, queues_clearFence, queues_clearTakeover]

theorem queues_writeUpdate (s : State) {x1} : (writeUpdate s x1).queues = s.queues := by
  unfold writeUpdate
  simp only [queues_ite, ite_self, queues_badWrite, queues_startUpdate, queues_applyRegion, queues_confirmFloor]

theorem queues_writeRegions (s : State) {x1} : (writeRegions s x1).queues = s.queues := by
  unfold writeRegions
  simp only [queues_ite, ite_self, queues_badWrite, queues_drainRegions, queues_serveRegions]

theorem queues_noteHold (s : State) {x1} : (noteHold s x1).queues = s.queues := by
  unfold noteHold
  simp only [queues_ite, ite_self, queues_modTrack]

end Sys2Proof.Machine
end

