-- ==== Sys2Proof/Laws/State.lean ====
section
/-! SUPPORT. One lemma for each field and each update of the state: what an update does not touch, it leaves; and what it touches reads as written. -/

set_option Elab.async false

namespace Sys2Proof.Machine

open Sys2Proof

/-! ### emit -/

@[simp] theorem State.emit_pending (s : State) (o : Output) : (s.emit o).pending = s.pending := rfl
@[simp] theorem State.emit_clk (s : State) (o : Output) : (s.emit o).clk = s.clk := rfl
@[simp] theorem State.emit_pwr (s : State) (o : Output) : (s.emit o).pwr = s.pwr := rfl
@[simp] theorem State.emit_boot (s : State) (o : Output) : (s.emit o).boot = s.boot := rfl
@[simp] theorem State.emit_regs (s : State) (o : Output) : (s.emit o).regs = s.regs := rfl
@[simp] theorem State.emit_fns (s : State) (o : Output) : (s.emit o).fns = s.fns := rfl
@[simp] theorem State.emit_pegs (s : State) (o : Output) : (s.emit o).pegs = s.pegs := rfl
@[simp] theorem State.emit_commitQ (s : State) (o : Output) : (s.emit o).commitQ = s.commitQ := rfl
@[simp] theorem State.emit_trackA (s : State) (o : Output) : (s.emit o).trackA = s.trackA := rfl
@[simp] theorem State.emit_trackB (s : State) (o : Output) : (s.emit o).trackB = s.trackB := rfl
@[simp] theorem State.emit_ports (s : State) (o : Output) : (s.emit o).ports = s.ports := rfl
@[simp] theorem State.emit_nextPiece (s : State) (o : Output) : (s.emit o).nextPiece = s.nextPiece := rfl
@[simp] theorem State.emit_regions (s : State) (o : Output) : (s.emit o).regions = s.regions := rfl
@[simp] theorem State.emit_acc (s : State) (o : Output) : (s.emit o).acc = s.acc := rfl
@[simp] theorem State.emit_transfers (s : State) (o : Output) : (s.emit o).transfers = s.transfers := rfl
@[simp] theorem State.emit_store (s : State) (o : Output) : (s.emit o).store = s.store := rfl
@[simp] theorem State.emit_sched (s : State) (o : Output) : (s.emit o).sched = s.sched := rfl
@[simp] theorem State.emit_plans (s : State) (o : Output) : (s.emit o).plans = s.plans := rfl
@[simp] theorem State.emit_pool (s : State) (o : Output) : (s.emit o).pool = s.pool := rfl
@[simp] theorem State.emit_basket (s : State) (o : Output) : (s.emit o).basket = s.basket := rfl
@[simp] theorem State.emit_engines (s : State) (o : Output) : (s.emit o).engines = s.engines := rfl
@[simp] theorem State.emit_dict (s : State) (o : Output) : (s.emit o).dict = s.dict := rfl
@[simp] theorem State.emit_tailor (s : State) (o : Output) : (s.emit o).tailor = s.tailor := rfl
@[simp] theorem State.emit_port (s : State) (o : Output) : (s.emit o).port = s.port := rfl
@[simp] theorem State.emit_twin (s : State) (o : Output) : (s.emit o).twin = s.twin := rfl
@[simp] theorem State.emit_sec (s : State) (o : Output) : (s.emit o).sec = s.sec := rfl
@[simp] theorem State.emit_health (s : State) (o : Output) : (s.emit o).health = s.health := rfl
@[simp] theorem State.emit_cnt (s : State) (o : Output) : (s.emit o).cnt = s.cnt := rfl
@[simp] theorem State.emit_banks (s : State) (o : Output) : (s.emit o).banks = s.banks := rfl

/-! ### countN -/

@[simp] theorem State.countN_pending (s : State) (a b c n : Nat) : (s.countN a b c n).pending = s.pending := rfl
@[simp] theorem State.countN_out (s : State) (a b c n : Nat) : (s.countN a b c n).out = s.out := rfl
@[simp] theorem State.countN_clk (s : State) (a b c n : Nat) : (s.countN a b c n).clk = s.clk := rfl
@[simp] theorem State.countN_pwr (s : State) (a b c n : Nat) : (s.countN a b c n).pwr = s.pwr := rfl
@[simp] theorem State.countN_boot (s : State) (a b c n : Nat) : (s.countN a b c n).boot = s.boot := rfl
@[simp] theorem State.countN_regs (s : State) (a b c n : Nat) : (s.countN a b c n).regs = s.regs := rfl
@[simp] theorem State.countN_fns (s : State) (a b c n : Nat) : (s.countN a b c n).fns = s.fns := rfl
@[simp] theorem State.countN_pegs (s : State) (a b c n : Nat) : (s.countN a b c n).pegs = s.pegs := rfl
@[simp] theorem State.countN_commitQ (s : State) (a b c n : Nat) : (s.countN a b c n).commitQ = s.commitQ := rfl
@[simp] theorem State.countN_trackA (s : State) (a b c n : Nat) : (s.countN a b c n).trackA = s.trackA := rfl
@[simp] theorem State.countN_trackB (s : State) (a b c n : Nat) : (s.countN a b c n).trackB = s.trackB := rfl
@[simp] theorem State.countN_ports (s : State) (a b c n : Nat) : (s.countN a b c n).ports = s.ports := rfl
@[simp] theorem State.countN_nextPiece (s : State) (a b c n : Nat) : (s.countN a b c n).nextPiece = s.nextPiece := rfl
@[simp] theorem State.countN_regions (s : State) (a b c n : Nat) : (s.countN a b c n).regions = s.regions := rfl
@[simp] theorem State.countN_acc (s : State) (a b c n : Nat) : (s.countN a b c n).acc = s.acc := rfl
@[simp] theorem State.countN_transfers (s : State) (a b c n : Nat) : (s.countN a b c n).transfers = s.transfers := rfl
@[simp] theorem State.countN_store (s : State) (a b c n : Nat) : (s.countN a b c n).store = s.store := rfl
@[simp] theorem State.countN_sched (s : State) (a b c n : Nat) : (s.countN a b c n).sched = s.sched := rfl
@[simp] theorem State.countN_plans (s : State) (a b c n : Nat) : (s.countN a b c n).plans = s.plans := rfl
@[simp] theorem State.countN_pool (s : State) (a b c n : Nat) : (s.countN a b c n).pool = s.pool := rfl
@[simp] theorem State.countN_basket (s : State) (a b c n : Nat) : (s.countN a b c n).basket = s.basket := rfl
@[simp] theorem State.countN_engines (s : State) (a b c n : Nat) : (s.countN a b c n).engines = s.engines := rfl
@[simp] theorem State.countN_dict (s : State) (a b c n : Nat) : (s.countN a b c n).dict = s.dict := rfl
@[simp] theorem State.countN_tailor (s : State) (a b c n : Nat) : (s.countN a b c n).tailor = s.tailor := rfl
@[simp] theorem State.countN_port (s : State) (a b c n : Nat) : (s.countN a b c n).port = s.port := rfl
@[simp] theorem State.countN_twin (s : State) (a b c n : Nat) : (s.countN a b c n).twin = s.twin := rfl
@[simp] theorem State.countN_sec (s : State) (a b c n : Nat) : (s.countN a b c n).sec = s.sec := rfl
@[simp] theorem State.countN_health (s : State) (a b c n : Nat) : (s.countN a b c n).health = s.health := rfl
@[simp] theorem State.countN_banks (s : State) (a b c n : Nat) : (s.countN a b c n).banks = s.banks := rfl

/-! ### chipCnt -/

@[simp] theorem State.chipCnt_pending (s : State) (i n : Nat) : (s.chipCnt i n).pending = s.pending := rfl
@[simp] theorem State.chipCnt_out (s : State) (i n : Nat) : (s.chipCnt i n).out = s.out := rfl
@[simp] theorem State.chipCnt_clk (s : State) (i n : Nat) : (s.chipCnt i n).clk = s.clk := rfl
@[simp] theorem State.chipCnt_pwr (s : State) (i n : Nat) : (s.chipCnt i n).pwr = s.pwr := rfl
@[simp] theorem State.chipCnt_boot (s : State) (i n : Nat) : (s.chipCnt i n).boot = s.boot := rfl
@[simp] theorem State.chipCnt_regs (s : State) (i n : Nat) : (s.chipCnt i n).regs = s.regs := rfl
@[simp] theorem State.chipCnt_fns (s : State) (i n : Nat) : (s.chipCnt i n).fns = s.fns := rfl
@[simp] theorem State.chipCnt_pegs (s : State) (i n : Nat) : (s.chipCnt i n).pegs = s.pegs := rfl
@[simp] theorem State.chipCnt_commitQ (s : State) (i n : Nat) : (s.chipCnt i n).commitQ = s.commitQ := rfl
@[simp] theorem State.chipCnt_trackA (s : State) (i n : Nat) : (s.chipCnt i n).trackA = s.trackA := rfl
@[simp] theorem State.chipCnt_trackB (s : State) (i n : Nat) : (s.chipCnt i n).trackB = s.trackB := rfl
@[simp] theorem State.chipCnt_ports (s : State) (i n : Nat) : (s.chipCnt i n).ports = s.ports := rfl
@[simp] theorem State.chipCnt_nextPiece (s : State) (i n : Nat) : (s.chipCnt i n).nextPiece = s.nextPiece := rfl
@[simp] theorem State.chipCnt_regions (s : State) (i n : Nat) : (s.chipCnt i n).regions = s.regions := rfl
@[simp] theorem State.chipCnt_acc (s : State) (i n : Nat) : (s.chipCnt i n).acc = s.acc := rfl
@[simp] theorem State.chipCnt_transfers (s : State) (i n : Nat) : (s.chipCnt i n).transfers = s.transfers := rfl
@[simp] theorem State.chipCnt_store (s : State) (i n : Nat) : (s.chipCnt i n).store = s.store := rfl
@[simp] theorem State.chipCnt_sched (s : State) (i n : Nat) : (s.chipCnt i n).sched = s.sched := rfl
@[simp] theorem State.chipCnt_plans (s : State) (i n : Nat) : (s.chipCnt i n).plans = s.plans := rfl
@[simp] theorem State.chipCnt_pool (s : State) (i n : Nat) : (s.chipCnt i n).pool = s.pool := rfl
@[simp] theorem State.chipCnt_basket (s : State) (i n : Nat) : (s.chipCnt i n).basket = s.basket := rfl
@[simp] theorem State.chipCnt_engines (s : State) (i n : Nat) : (s.chipCnt i n).engines = s.engines := rfl
@[simp] theorem State.chipCnt_dict (s : State) (i n : Nat) : (s.chipCnt i n).dict = s.dict := rfl
@[simp] theorem State.chipCnt_tailor (s : State) (i n : Nat) : (s.chipCnt i n).tailor = s.tailor := rfl
@[simp] theorem State.chipCnt_port (s : State) (i n : Nat) : (s.chipCnt i n).port = s.port := rfl
@[simp] theorem State.chipCnt_twin (s : State) (i n : Nat) : (s.chipCnt i n).twin = s.twin := rfl
@[simp] theorem State.chipCnt_sec (s : State) (i n : Nat) : (s.chipCnt i n).sec = s.sec := rfl
@[simp] theorem State.chipCnt_health (s : State) (i n : Nat) : (s.chipCnt i n).health = s.health := rfl
@[simp] theorem State.chipCnt_banks (s : State) (i n : Nat) : (s.chipCnt i n).banks = s.banks := rfl

/-! ### portCnt -/

@[simp] theorem State.portCnt_pending (s : State) (p : Port) (i n : Nat) : (s.portCnt p i n).pending = s.pending := rfl
@[simp] theorem State.portCnt_out (s : State) (p : Port) (i n : Nat) : (s.portCnt p i n).out = s.out := rfl
@[simp] theorem State.portCnt_clk (s : State) (p : Port) (i n : Nat) : (s.portCnt p i n).clk = s.clk := rfl
@[simp] theorem State.portCnt_pwr (s : State) (p : Port) (i n : Nat) : (s.portCnt p i n).pwr = s.pwr := rfl
@[simp] theorem State.portCnt_boot (s : State) (p : Port) (i n : Nat) : (s.portCnt p i n).boot = s.boot := rfl
@[simp] theorem State.portCnt_regs (s : State) (p : Port) (i n : Nat) : (s.portCnt p i n).regs = s.regs := rfl
@[simp] theorem State.portCnt_fns (s : State) (p : Port) (i n : Nat) : (s.portCnt p i n).fns = s.fns := rfl
@[simp] theorem State.portCnt_pegs (s : State) (p : Port) (i n : Nat) : (s.portCnt p i n).pegs = s.pegs := rfl
@[simp] theorem State.portCnt_commitQ (s : State) (p : Port) (i n : Nat) : (s.portCnt p i n).commitQ = s.commitQ := rfl
@[simp] theorem State.portCnt_trackA (s : State) (p : Port) (i n : Nat) : (s.portCnt p i n).trackA = s.trackA := rfl
@[simp] theorem State.portCnt_trackB (s : State) (p : Port) (i n : Nat) : (s.portCnt p i n).trackB = s.trackB := rfl
@[simp] theorem State.portCnt_ports (s : State) (p : Port) (i n : Nat) : (s.portCnt p i n).ports = s.ports := rfl
@[simp] theorem State.portCnt_nextPiece (s : State) (p : Port) (i n : Nat) : (s.portCnt p i n).nextPiece = s.nextPiece := rfl
@[simp] theorem State.portCnt_regions (s : State) (p : Port) (i n : Nat) : (s.portCnt p i n).regions = s.regions := rfl
@[simp] theorem State.portCnt_acc (s : State) (p : Port) (i n : Nat) : (s.portCnt p i n).acc = s.acc := rfl
@[simp] theorem State.portCnt_transfers (s : State) (p : Port) (i n : Nat) : (s.portCnt p i n).transfers = s.transfers := rfl
@[simp] theorem State.portCnt_store (s : State) (p : Port) (i n : Nat) : (s.portCnt p i n).store = s.store := rfl
@[simp] theorem State.portCnt_sched (s : State) (p : Port) (i n : Nat) : (s.portCnt p i n).sched = s.sched := rfl
@[simp] theorem State.portCnt_plans (s : State) (p : Port) (i n : Nat) : (s.portCnt p i n).plans = s.plans := rfl
@[simp] theorem State.portCnt_pool (s : State) (p : Port) (i n : Nat) : (s.portCnt p i n).pool = s.pool := rfl
@[simp] theorem State.portCnt_basket (s : State) (p : Port) (i n : Nat) : (s.portCnt p i n).basket = s.basket := rfl
@[simp] theorem State.portCnt_engines (s : State) (p : Port) (i n : Nat) : (s.portCnt p i n).engines = s.engines := rfl
@[simp] theorem State.portCnt_dict (s : State) (p : Port) (i n : Nat) : (s.portCnt p i n).dict = s.dict := rfl
@[simp] theorem State.portCnt_tailor (s : State) (p : Port) (i n : Nat) : (s.portCnt p i n).tailor = s.tailor := rfl
@[simp] theorem State.portCnt_port (s : State) (p : Port) (i n : Nat) : (s.portCnt p i n).port = s.port := rfl
@[simp] theorem State.portCnt_twin (s : State) (p : Port) (i n : Nat) : (s.portCnt p i n).twin = s.twin := rfl
@[simp] theorem State.portCnt_sec (s : State) (p : Port) (i n : Nat) : (s.portCnt p i n).sec = s.sec := rfl
@[simp] theorem State.portCnt_health (s : State) (p : Port) (i n : Nat) : (s.portCnt p i n).health = s.health := rfl
@[simp] theorem State.portCnt_banks (s : State) (p : Port) (i n : Nat) : (s.portCnt p i n).banks = s.banks := rfl

/-! ### hostWrite -/

@[simp] theorem State.hostWrite_pending (s : State) (f : Fn) (a : Nat) (bs : List Byte) : (s.hostWrite f a bs).pending = s.pending := rfl
@[simp] theorem State.hostWrite_clk (s : State) (f : Fn) (a : Nat) (bs : List Byte) : (s.hostWrite f a bs).clk = s.clk := rfl
@[simp] theorem State.hostWrite_pwr (s : State) (f : Fn) (a : Nat) (bs : List Byte) : (s.hostWrite f a bs).pwr = s.pwr := rfl
@[simp] theorem State.hostWrite_boot (s : State) (f : Fn) (a : Nat) (bs : List Byte) : (s.hostWrite f a bs).boot = s.boot := rfl
@[simp] theorem State.hostWrite_regs (s : State) (f : Fn) (a : Nat) (bs : List Byte) : (s.hostWrite f a bs).regs = s.regs := rfl
@[simp] theorem State.hostWrite_fns (s : State) (f : Fn) (a : Nat) (bs : List Byte) : (s.hostWrite f a bs).fns = s.fns := rfl
@[simp] theorem State.hostWrite_pegs (s : State) (f : Fn) (a : Nat) (bs : List Byte) : (s.hostWrite f a bs).pegs = s.pegs := rfl
@[simp] theorem State.hostWrite_commitQ (s : State) (f : Fn) (a : Nat) (bs : List Byte) : (s.hostWrite f a bs).commitQ = s.commitQ := rfl
@[simp] theorem State.hostWrite_trackA (s : State) (f : Fn) (a : Nat) (bs : List Byte) : (s.hostWrite f a bs).trackA = s.trackA := rfl
@[simp] theorem State.hostWrite_trackB (s : State) (f : Fn) (a : Nat) (bs : List Byte) : (s.hostWrite f a bs).trackB = s.trackB := rfl
@[simp] theorem State.hostWrite_ports (s : State) (f : Fn) (a : Nat) (bs : List Byte) : (s.hostWrite f a bs).ports = s.ports := rfl
@[simp] theorem State.hostWrite_nextPiece (s : State) (f : Fn) (a : Nat) (bs : List Byte) : (s.hostWrite f a bs).nextPiece = s.nextPiece := rfl
@[simp] theorem State.hostWrite_regions (s : State) (f : Fn) (a : Nat) (bs : List Byte) : (s.hostWrite f a bs).regions = s.regions := rfl
@[simp] theorem State.hostWrite_acc (s : State) (f : Fn) (a : Nat) (bs : List Byte) : (s.hostWrite f a bs).acc = s.acc := rfl
@[simp] theorem State.hostWrite_transfers (s : State) (f : Fn) (a : Nat) (bs : List Byte) : (s.hostWrite f a bs).transfers = s.transfers := rfl
@[simp] theorem State.hostWrite_store (s : State) (f : Fn) (a : Nat) (bs : List Byte) : (s.hostWrite f a bs).store = s.store := rfl
@[simp] theorem State.hostWrite_sched (s : State) (f : Fn) (a : Nat) (bs : List Byte) : (s.hostWrite f a bs).sched = s.sched := rfl
@[simp] theorem State.hostWrite_plans (s : State) (f : Fn) (a : Nat) (bs : List Byte) : (s.hostWrite f a bs).plans = s.plans := rfl
@[simp] theorem State.hostWrite_pool (s : State) (f : Fn) (a : Nat) (bs : List Byte) : (s.hostWrite f a bs).pool = s.pool := rfl
@[simp] theorem State.hostWrite_basket (s : State) (f : Fn) (a : Nat) (bs : List Byte) : (s.hostWrite f a bs).basket = s.basket := rfl
@[simp] theorem State.hostWrite_engines (s : State) (f : Fn) (a : Nat) (bs : List Byte) : (s.hostWrite f a bs).engines = s.engines := rfl
@[simp] theorem State.hostWrite_dict (s : State) (f : Fn) (a : Nat) (bs : List Byte) : (s.hostWrite f a bs).dict = s.dict := rfl
@[simp] theorem State.hostWrite_tailor (s : State) (f : Fn) (a : Nat) (bs : List Byte) : (s.hostWrite f a bs).tailor = s.tailor := rfl
@[simp] theorem State.hostWrite_port (s : State) (f : Fn) (a : Nat) (bs : List Byte) : (s.hostWrite f a bs).port = s.port := rfl
@[simp] theorem State.hostWrite_twin (s : State) (f : Fn) (a : Nat) (bs : List Byte) : (s.hostWrite f a bs).twin = s.twin := rfl
@[simp] theorem State.hostWrite_sec (s : State) (f : Fn) (a : Nat) (bs : List Byte) : (s.hostWrite f a bs).sec = s.sec := rfl
@[simp] theorem State.hostWrite_health (s : State) (f : Fn) (a : Nat) (bs : List Byte) : (s.hostWrite f a bs).health = s.health := rfl
@[simp] theorem State.hostWrite_banks (s : State) (f : Fn) (a : Nat) (bs : List Byte) : (s.hostWrite f a bs).banks = s.banks := rfl

/-! ### hostRead -/

@[simp] theorem State.hostRead_pending (s : State) (f : Fn) (a n : Nat) : (s.hostRead f a n).pending = s.pending := rfl
@[simp] theorem State.hostRead_clk (s : State) (f : Fn) (a n : Nat) : (s.hostRead f a n).clk = s.clk := rfl
@[simp] theorem State.hostRead_pwr (s : State) (f : Fn) (a n : Nat) : (s.hostRead f a n).pwr = s.pwr := rfl
@[simp] theorem State.hostRead_boot (s : State) (f : Fn) (a n : Nat) : (s.hostRead f a n).boot = s.boot := rfl
@[simp] theorem State.hostRead_regs (s : State) (f : Fn) (a n : Nat) : (s.hostRead f a n).regs = s.regs := rfl
@[simp] theorem State.hostRead_fns (s : State) (f : Fn) (a n : Nat) : (s.hostRead f a n).fns = s.fns := rfl
@[simp] theorem State.hostRead_pegs (s : State) (f : Fn) (a n : Nat) : (s.hostRead f a n).pegs = s.pegs := rfl
@[simp] theorem State.hostRead_commitQ (s : State) (f : Fn) (a n : Nat) : (s.hostRead f a n).commitQ = s.commitQ := rfl
@[simp] theorem State.hostRead_trackA (s : State) (f : Fn) (a n : Nat) : (s.hostRead f a n).trackA = s.trackA := rfl
@[simp] theorem State.hostRead_trackB (s : State) (f : Fn) (a n : Nat) : (s.hostRead f a n).trackB = s.trackB := rfl
@[simp] theorem State.hostRead_ports (s : State) (f : Fn) (a n : Nat) : (s.hostRead f a n).ports = s.ports := rfl
@[simp] theorem State.hostRead_nextPiece (s : State) (f : Fn) (a n : Nat) : (s.hostRead f a n).nextPiece = s.nextPiece := rfl
@[simp] theorem State.hostRead_regions (s : State) (f : Fn) (a n : Nat) : (s.hostRead f a n).regions = s.regions := rfl
@[simp] theorem State.hostRead_acc (s : State) (f : Fn) (a n : Nat) : (s.hostRead f a n).acc = s.acc := rfl
@[simp] theorem State.hostRead_transfers (s : State) (f : Fn) (a n : Nat) : (s.hostRead f a n).transfers = s.transfers := rfl
@[simp] theorem State.hostRead_store (s : State) (f : Fn) (a n : Nat) : (s.hostRead f a n).store = s.store := rfl
@[simp] theorem State.hostRead_sched (s : State) (f : Fn) (a n : Nat) : (s.hostRead f a n).sched = s.sched := rfl
@[simp] theorem State.hostRead_plans (s : State) (f : Fn) (a n : Nat) : (s.hostRead f a n).plans = s.plans := rfl
@[simp] theorem State.hostRead_pool (s : State) (f : Fn) (a n : Nat) : (s.hostRead f a n).pool = s.pool := rfl
@[simp] theorem State.hostRead_basket (s : State) (f : Fn) (a n : Nat) : (s.hostRead f a n).basket = s.basket := rfl
@[simp] theorem State.hostRead_engines (s : State) (f : Fn) (a n : Nat) : (s.hostRead f a n).engines = s.engines := rfl
@[simp] theorem State.hostRead_dict (s : State) (f : Fn) (a n : Nat) : (s.hostRead f a n).dict = s.dict := rfl
@[simp] theorem State.hostRead_tailor (s : State) (f : Fn) (a n : Nat) : (s.hostRead f a n).tailor = s.tailor := rfl
@[simp] theorem State.hostRead_port (s : State) (f : Fn) (a n : Nat) : (s.hostRead f a n).port = s.port := rfl
@[simp] theorem State.hostRead_twin (s : State) (f : Fn) (a n : Nat) : (s.hostRead f a n).twin = s.twin := rfl
@[simp] theorem State.hostRead_sec (s : State) (f : Fn) (a n : Nat) : (s.hostRead f a n).sec = s.sec := rfl
@[simp] theorem State.hostRead_health (s : State) (f : Fn) (a n : Nat) : (s.hostRead f a n).health = s.health := rfl
@[simp] theorem State.hostRead_banks (s : State) (f : Fn) (a n : Nat) : (s.hostRead f a n).banks = s.banks := rfl

/-! ### modFn -/

@[simp] theorem State.modFn_pending (s : State) (f : Fn) (g : FnState → FnState) : (s.modFn f g).pending = s.pending := rfl
@[simp] theorem State.modFn_out (s : State) (f : Fn) (g : FnState → FnState) : (s.modFn f g).out = s.out := rfl
@[simp] theorem State.modFn_clk (s : State) (f : Fn) (g : FnState → FnState) : (s.modFn f g).clk = s.clk := rfl
@[simp] theorem State.modFn_pwr (s : State) (f : Fn) (g : FnState → FnState) : (s.modFn f g).pwr = s.pwr := rfl
@[simp] theorem State.modFn_boot (s : State) (f : Fn) (g : FnState → FnState) : (s.modFn f g).boot = s.boot := rfl
@[simp] theorem State.modFn_regs (s : State) (f : Fn) (g : FnState → FnState) : (s.modFn f g).regs = s.regs := rfl
@[simp] theorem State.modFn_pegs (s : State) (f : Fn) (g : FnState → FnState) : (s.modFn f g).pegs = s.pegs := rfl
@[simp] theorem State.modFn_commitQ (s : State) (f : Fn) (g : FnState → FnState) : (s.modFn f g).commitQ = s.commitQ := rfl
@[simp] theorem State.modFn_trackA (s : State) (f : Fn) (g : FnState → FnState) : (s.modFn f g).trackA = s.trackA := rfl
@[simp] theorem State.modFn_trackB (s : State) (f : Fn) (g : FnState → FnState) : (s.modFn f g).trackB = s.trackB := rfl
@[simp] theorem State.modFn_ports (s : State) (f : Fn) (g : FnState → FnState) : (s.modFn f g).ports = s.ports := rfl
@[simp] theorem State.modFn_nextPiece (s : State) (f : Fn) (g : FnState → FnState) : (s.modFn f g).nextPiece = s.nextPiece := rfl
@[simp] theorem State.modFn_regions (s : State) (f : Fn) (g : FnState → FnState) : (s.modFn f g).regions = s.regions := rfl
@[simp] theorem State.modFn_acc (s : State) (f : Fn) (g : FnState → FnState) : (s.modFn f g).acc = s.acc := rfl
@[simp] theorem State.modFn_transfers (s : State) (f : Fn) (g : FnState → FnState) : (s.modFn f g).transfers = s.transfers := rfl
@[simp] theorem State.modFn_store (s : State) (f : Fn) (g : FnState → FnState) : (s.modFn f g).store = s.store := rfl
@[simp] theorem State.modFn_sched (s : State) (f : Fn) (g : FnState → FnState) : (s.modFn f g).sched = s.sched := rfl
@[simp] theorem State.modFn_plans (s : State) (f : Fn) (g : FnState → FnState) : (s.modFn f g).plans = s.plans := rfl
@[simp] theorem State.modFn_pool (s : State) (f : Fn) (g : FnState → FnState) : (s.modFn f g).pool = s.pool := rfl
@[simp] theorem State.modFn_basket (s : State) (f : Fn) (g : FnState → FnState) : (s.modFn f g).basket = s.basket := rfl
@[simp] theorem State.modFn_engines (s : State) (f : Fn) (g : FnState → FnState) : (s.modFn f g).engines = s.engines := rfl
@[simp] theorem State.modFn_dict (s : State) (f : Fn) (g : FnState → FnState) : (s.modFn f g).dict = s.dict := rfl
@[simp] theorem State.modFn_tailor (s : State) (f : Fn) (g : FnState → FnState) : (s.modFn f g).tailor = s.tailor := rfl
@[simp] theorem State.modFn_port (s : State) (f : Fn) (g : FnState → FnState) : (s.modFn f g).port = s.port := rfl
@[simp] theorem State.modFn_twin (s : State) (f : Fn) (g : FnState → FnState) : (s.modFn f g).twin = s.twin := rfl
@[simp] theorem State.modFn_sec (s : State) (f : Fn) (g : FnState → FnState) : (s.modFn f g).sec = s.sec := rfl
@[simp] theorem State.modFn_health (s : State) (f : Fn) (g : FnState → FnState) : (s.modFn f g).health = s.health := rfl
@[simp] theorem State.modFn_cnt (s : State) (f : Fn) (g : FnState → FnState) : (s.modFn f g).cnt = s.cnt := rfl
@[simp] theorem State.modFn_banks (s : State) (f : Fn) (g : FnState → FnState) : (s.modFn f g).banks = s.banks := rfl

/-! ### modRing -/

@[simp] theorem State.modRing_pending (s : State) (r : RingRef) (g : RingPair → RingPair) : (s.modRing r g).pending = s.pending := rfl
@[simp] theorem State.modRing_out (s : State) (r : RingRef) (g : RingPair → RingPair) : (s.modRing r g).out = s.out := rfl
@[simp] theorem State.modRing_clk (s : State) (r : RingRef) (g : RingPair → RingPair) : (s.modRing r g).clk = s.clk := rfl
@[simp] theorem State.modRing_pwr (s : State) (r : RingRef) (g : RingPair → RingPair) : (s.modRing r g).pwr = s.pwr := rfl
@[simp] theorem State.modRing_boot (s : State) (r : RingRef) (g : RingPair → RingPair) : (s.modRing r g).boot = s.boot := rfl
@[simp] theorem State.modRing_regs (s : State) (r : RingRef) (g : RingPair → RingPair) : (s.modRing r g).regs = s.regs := rfl
@[simp] theorem State.modRing_pegs (s : State) (r : RingRef) (g : RingPair → RingPair) : (s.modRing r g).pegs = s.pegs := rfl
@[simp] theorem State.modRing_commitQ (s : State) (r : RingRef) (g : RingPair → RingPair) : (s.modRing r g).commitQ = s.commitQ := rfl
@[simp] theorem State.modRing_trackA (s : State) (r : RingRef) (g : RingPair → RingPair) : (s.modRing r g).trackA = s.trackA := rfl
@[simp] theorem State.modRing_trackB (s : State) (r : RingRef) (g : RingPair → RingPair) : (s.modRing r g).trackB = s.trackB := rfl
@[simp] theorem State.modRing_ports (s : State) (r : RingRef) (g : RingPair → RingPair) : (s.modRing r g).ports = s.ports := rfl
@[simp] theorem State.modRing_nextPiece (s : State) (r : RingRef) (g : RingPair → RingPair) : (s.modRing r g).nextPiece = s.nextPiece := rfl
@[simp] theorem State.modRing_regions (s : State) (r : RingRef) (g : RingPair → RingPair) : (s.modRing r g).regions = s.regions := rfl
@[simp] theorem State.modRing_acc (s : State) (r : RingRef) (g : RingPair → RingPair) : (s.modRing r g).acc = s.acc := rfl
@[simp] theorem State.modRing_transfers (s : State) (r : RingRef) (g : RingPair → RingPair) : (s.modRing r g).transfers = s.transfers := rfl
@[simp] theorem State.modRing_store (s : State) (r : RingRef) (g : RingPair → RingPair) : (s.modRing r g).store = s.store := rfl
@[simp] theorem State.modRing_sched (s : State) (r : RingRef) (g : RingPair → RingPair) : (s.modRing r g).sched = s.sched := rfl
@[simp] theorem State.modRing_plans (s : State) (r : RingRef) (g : RingPair → RingPair) : (s.modRing r g).plans = s.plans := rfl
@[simp] theorem State.modRing_pool (s : State) (r : RingRef) (g : RingPair → RingPair) : (s.modRing r g).pool = s.pool := rfl
@[simp] theorem State.modRing_basket (s : State) (r : RingRef) (g : RingPair → RingPair) : (s.modRing r g).basket = s.basket := rfl
@[simp] theorem State.modRing_engines (s : State) (r : RingRef) (g : RingPair → RingPair) : (s.modRing r g).engines = s.engines := rfl
@[simp] theorem State.modRing_dict (s : State) (r : RingRef) (g : RingPair → RingPair) : (s.modRing r g).dict = s.dict := rfl
@[simp] theorem State.modRing_tailor (s : State) (r : RingRef) (g : RingPair → RingPair) : (s.modRing r g).tailor = s.tailor := rfl
@[simp] theorem State.modRing_port (s : State) (r : RingRef) (g : RingPair → RingPair) : (s.modRing r g).port = s.port := rfl
@[simp] theorem State.modRing_twin (s : State) (r : RingRef) (g : RingPair → RingPair) : (s.modRing r g).twin = s.twin := rfl
@[simp] theorem State.modRing_sec (s : State) (r : RingRef) (g : RingPair → RingPair) : (s.modRing r g).sec = s.sec := rfl
@[simp] theorem State.modRing_health (s : State) (r : RingRef) (g : RingPair → RingPair) : (s.modRing r g).health = s.health := rfl
@[simp] theorem State.modRing_cnt (s : State) (r : RingRef) (g : RingPair → RingPair) : (s.modRing r g).cnt = s.cnt := rfl
@[simp] theorem State.modRing_banks (s : State) (r : RingRef) (g : RingPair → RingPair) : (s.modRing r g).banks = s.banks := rfl

/-! ### modPort -/

@[simp] theorem State.modPort_pending (s : State) (p : Port) (g : PortState → PortState) : (s.modPort p g).pending = s.pending := rfl
@[simp] theorem State.modPort_out (s : State) (p : Port) (g : PortState → PortState) : (s.modPort p g).out = s.out := rfl
@[simp] theorem State.modPort_clk (s : State) (p : Port) (g : PortState → PortState) : (s.modPort p g).clk = s.clk := rfl
@[simp] theorem State.modPort_pwr (s : State) (p : Port) (g : PortState → PortState) : (s.modPort p g).pwr = s.pwr := rfl
@[simp] theorem State.modPort_boot (s : State) (p : Port) (g : PortState → PortState) : (s.modPort p g).boot = s.boot := rfl
@[simp] theorem State.modPort_regs (s : State) (p : Port) (g : PortState → PortState) : (s.modPort p g).regs = s.regs := rfl
@[simp] theorem State.modPort_fns (s : State) (p : Port) (g : PortState → PortState) : (s.modPort p g).fns = s.fns := rfl
@[simp] theorem State.modPort_pegs (s : State) (p : Port) (g : PortState → PortState) : (s.modPort p g).pegs = s.pegs := rfl
@[simp] theorem State.modPort_commitQ (s : State) (p : Port) (g : PortState → PortState) : (s.modPort p g).commitQ = s.commitQ := rfl
@[simp] theorem State.modPort_trackA (s : State) (p : Port) (g : PortState → PortState) : (s.modPort p g).trackA = s.trackA := rfl
@[simp] theorem State.modPort_trackB (s : State) (p : Port) (g : PortState → PortState) : (s.modPort p g).trackB = s.trackB := rfl
@[simp] theorem State.modPort_nextPiece (s : State) (p : Port) (g : PortState → PortState) : (s.modPort p g).nextPiece = s.nextPiece := rfl
@[simp] theorem State.modPort_regions (s : State) (p : Port) (g : PortState → PortState) : (s.modPort p g).regions = s.regions := rfl
@[simp] theorem State.modPort_acc (s : State) (p : Port) (g : PortState → PortState) : (s.modPort p g).acc = s.acc := rfl
@[simp] theorem State.modPort_transfers (s : State) (p : Port) (g : PortState → PortState) : (s.modPort p g).transfers = s.transfers := rfl
@[simp] theorem State.modPort_store (s : State) (p : Port) (g : PortState → PortState) : (s.modPort p g).store = s.store := rfl
@[simp] theorem State.modPort_sched (s : State) (p : Port) (g : PortState → PortState) : (s.modPort p g).sched = s.sched := rfl
@[simp] theorem State.modPort_plans (s : State) (p : Port) (g : PortState → PortState) : (s.modPort p g).plans = s.plans := rfl
@[simp] theorem State.modPort_pool (s : State) (p : Port) (g : PortState → PortState) : (s.modPort p g).pool = s.pool := rfl
@[simp] theorem State.modPort_basket (s : State) (p : Port) (g : PortState → PortState) : (s.modPort p g).basket = s.basket := rfl
@[simp] theorem State.modPort_engines (s : State) (p : Port) (g : PortState → PortState) : (s.modPort p g).engines = s.engines := rfl
@[simp] theorem State.modPort_dict (s : State) (p : Port) (g : PortState → PortState) : (s.modPort p g).dict = s.dict := rfl
@[simp] theorem State.modPort_tailor (s : State) (p : Port) (g : PortState → PortState) : (s.modPort p g).tailor = s.tailor := rfl
@[simp] theorem State.modPort_port (s : State) (p : Port) (g : PortState → PortState) : (s.modPort p g).port = s.port := rfl
@[simp] theorem State.modPort_twin (s : State) (p : Port) (g : PortState → PortState) : (s.modPort p g).twin = s.twin := rfl
@[simp] theorem State.modPort_sec (s : State) (p : Port) (g : PortState → PortState) : (s.modPort p g).sec = s.sec := rfl
@[simp] theorem State.modPort_health (s : State) (p : Port) (g : PortState → PortState) : (s.modPort p g).health = s.health := rfl
@[simp] theorem State.modPort_cnt (s : State) (p : Port) (g : PortState → PortState) : (s.modPort p g).cnt = s.cnt := rfl
@[simp] theorem State.modPort_banks (s : State) (p : Port) (g : PortState → PortState) : (s.modPort p g).banks = s.banks := rfl

/-! ### modRegion -/

@[simp] theorem State.modRegion_pending (s : State) (r : Region) (g : RegionSt → RegionSt) : (s.modRegion r g).pending = s.pending := rfl
@[simp] theorem State.modRegion_out (s : State) (r : Region) (g : RegionSt → RegionSt) : (s.modRegion r g).out = s.out := rfl
@[simp] theorem State.modRegion_clk (s : State) (r : Region) (g : RegionSt → RegionSt) : (s.modRegion r g).clk = s.clk := rfl
@[simp] theorem State.modRegion_pwr (s : State) (r : Region) (g : RegionSt → RegionSt) : (s.modRegion r g).pwr = s.pwr := rfl
@[simp] theorem State.modRegion_boot (s : State) (r : Region) (g : RegionSt → RegionSt) : (s.modRegion r g).boot = s.boot := rfl
@[simp] theorem State.modRegion_regs (s : State) (r : Region) (g : RegionSt → RegionSt) : (s.modRegion r g).regs = s.regs := rfl
@[simp] theorem State.modRegion_fns (s : State) (r : Region) (g : RegionSt → RegionSt) : (s.modRegion r g).fns = s.fns := rfl
@[simp] theorem State.modRegion_pegs (s : State) (r : Region) (g : RegionSt → RegionSt) : (s.modRegion r g).pegs = s.pegs := rfl
@[simp] theorem State.modRegion_commitQ (s : State) (r : Region) (g : RegionSt → RegionSt) : (s.modRegion r g).commitQ = s.commitQ := rfl
@[simp] theorem State.modRegion_trackA (s : State) (r : Region) (g : RegionSt → RegionSt) : (s.modRegion r g).trackA = s.trackA := rfl
@[simp] theorem State.modRegion_trackB (s : State) (r : Region) (g : RegionSt → RegionSt) : (s.modRegion r g).trackB = s.trackB := rfl
@[simp] theorem State.modRegion_ports (s : State) (r : Region) (g : RegionSt → RegionSt) : (s.modRegion r g).ports = s.ports := rfl
@[simp] theorem State.modRegion_nextPiece (s : State) (r : Region) (g : RegionSt → RegionSt) : (s.modRegion r g).nextPiece = s.nextPiece := rfl
@[simp] theorem State.modRegion_acc (s : State) (r : Region) (g : RegionSt → RegionSt) : (s.modRegion r g).acc = s.acc := rfl
@[simp] theorem State.modRegion_transfers (s : State) (r : Region) (g : RegionSt → RegionSt) : (s.modRegion r g).transfers = s.transfers := rfl
@[simp] theorem State.modRegion_store (s : State) (r : Region) (g : RegionSt → RegionSt) : (s.modRegion r g).store = s.store := rfl
@[simp] theorem State.modRegion_sched (s : State) (r : Region) (g : RegionSt → RegionSt) : (s.modRegion r g).sched = s.sched := rfl
@[simp] theorem State.modRegion_plans (s : State) (r : Region) (g : RegionSt → RegionSt) : (s.modRegion r g).plans = s.plans := rfl
@[simp] theorem State.modRegion_pool (s : State) (r : Region) (g : RegionSt → RegionSt) : (s.modRegion r g).pool = s.pool := rfl
@[simp] theorem State.modRegion_basket (s : State) (r : Region) (g : RegionSt → RegionSt) : (s.modRegion r g).basket = s.basket := rfl
@[simp] theorem State.modRegion_engines (s : State) (r : Region) (g : RegionSt → RegionSt) : (s.modRegion r g).engines = s.engines := rfl
@[simp] theorem State.modRegion_dict (s : State) (r : Region) (g : RegionSt → RegionSt) : (s.modRegion r g).dict = s.dict := rfl
@[simp] theorem State.modRegion_tailor (s : State) (r : Region) (g : RegionSt → RegionSt) : (s.modRegion r g).tailor = s.tailor := rfl
@[simp] theorem State.modRegion_port (s : State) (r : Region) (g : RegionSt → RegionSt) : (s.modRegion r g).port = s.port := rfl
@[simp] theorem State.modRegion_twin (s : State) (r : Region) (g : RegionSt → RegionSt) : (s.modRegion r g).twin = s.twin := rfl
@[simp] theorem State.modRegion_sec (s : State) (r : Region) (g : RegionSt → RegionSt) : (s.modRegion r g).sec = s.sec := rfl
@[simp] theorem State.modRegion_health (s : State) (r : Region) (g : RegionSt → RegionSt) : (s.modRegion r g).health = s.health := rfl
@[simp] theorem State.modRegion_cnt (s : State) (r : Region) (g : RegionSt → RegionSt) : (s.modRegion r g).cnt = s.cnt := rfl
@[simp] theorem State.modRegion_banks (s : State) (r : Region) (g : RegionSt → RegionSt) : (s.modRegion r g).banks = s.banks := rfl

/-! ### modTile -/

@[simp] theorem State.modTile_pending (s : State) (t : Nat) (g : TileSt → TileSt) : (s.modTile t g).pending = s.pending := rfl
@[simp] theorem State.modTile_out (s : State) (t : Nat) (g : TileSt → TileSt) : (s.modTile t g).out = s.out := rfl
@[simp] theorem State.modTile_clk (s : State) (t : Nat) (g : TileSt → TileSt) : (s.modTile t g).clk = s.clk := rfl
@[simp] theorem State.modTile_pwr (s : State) (t : Nat) (g : TileSt → TileSt) : (s.modTile t g).pwr = s.pwr := rfl
@[simp] theorem State.modTile_boot (s : State) (t : Nat) (g : TileSt → TileSt) : (s.modTile t g).boot = s.boot := rfl
@[simp] theorem State.modTile_regs (s : State) (t : Nat) (g : TileSt → TileSt) : (s.modTile t g).regs = s.regs := rfl
@[simp] theorem State.modTile_fns (s : State) (t : Nat) (g : TileSt → TileSt) : (s.modTile t g).fns = s.fns := rfl
@[simp] theorem State.modTile_pegs (s : State) (t : Nat) (g : TileSt → TileSt) : (s.modTile t g).pegs = s.pegs := rfl
@[simp] theorem State.modTile_commitQ (s : State) (t : Nat) (g : TileSt → TileSt) : (s.modTile t g).commitQ = s.commitQ := rfl
@[simp] theorem State.modTile_trackA (s : State) (t : Nat) (g : TileSt → TileSt) : (s.modTile t g).trackA = s.trackA := rfl
@[simp] theorem State.modTile_trackB (s : State) (t : Nat) (g : TileSt → TileSt) : (s.modTile t g).trackB = s.trackB := rfl
@[simp] theorem State.modTile_ports (s : State) (t : Nat) (g : TileSt → TileSt) : (s.modTile t g).ports = s.ports := rfl
@[simp] theorem State.modTile_nextPiece (s : State) (t : Nat) (g : TileSt → TileSt) : (s.modTile t g).nextPiece = s.nextPiece := rfl
@[simp] theorem State.modTile_acc (s : State) (t : Nat) (g : TileSt → TileSt) : (s.modTile t g).acc = s.acc := rfl
@[simp] theorem State.modTile_transfers (s : State) (t : Nat) (g : TileSt → TileSt) : (s.modTile t g).transfers = s.transfers := rfl
@[simp] theorem State.modTile_store (s : State) (t : Nat) (g : TileSt → TileSt) : (s.modTile t g).store = s.store := rfl
@[simp] theorem State.modTile_sched (s : State) (t : Nat) (g : TileSt → TileSt) : (s.modTile t g).sched = s.sched := rfl
@[simp] theorem State.modTile_plans (s : State) (t : Nat) (g : TileSt → TileSt) : (s.modTile t g).plans = s.plans := rfl
@[simp] theorem State.modTile_pool (s : State) (t : Nat) (g : TileSt → TileSt) : (s.modTile t g).pool = s.pool := rfl
@[simp] theorem State.modTile_basket (s : State) (t : Nat) (g : TileSt → TileSt) : (s.modTile t g).basket = s.basket := rfl
@[simp] theorem State.modTile_engines (s : State) (t : Nat) (g : TileSt → TileSt) : (s.modTile t g).engines = s.engines := rfl
@[simp] theorem State.modTile_dict (s : State) (t : Nat) (g : TileSt → TileSt) : (s.modTile t g).dict = s.dict := rfl
@[simp] theorem State.modTile_tailor (s : State) (t : Nat) (g : TileSt → TileSt) : (s.modTile t g).tailor = s.tailor := rfl
@[simp] theorem State.modTile_port (s : State) (t : Nat) (g : TileSt → TileSt) : (s.modTile t g).port = s.port := rfl
@[simp] theorem State.modTile_twin (s : State) (t : Nat) (g : TileSt → TileSt) : (s.modTile t g).twin = s.twin := rfl
@[simp] theorem State.modTile_sec (s : State) (t : Nat) (g : TileSt → TileSt) : (s.modTile t g).sec = s.sec := rfl
@[simp] theorem State.modTile_health (s : State) (t : Nat) (g : TileSt → TileSt) : (s.modTile t g).health = s.health := rfl
@[simp] theorem State.modTile_cnt (s : State) (t : Nat) (g : TileSt → TileSt) : (s.modTile t g).cnt = s.cnt := rfl
@[simp] theorem State.modTile_banks (s : State) (t : Nat) (g : TileSt → TileSt) : (s.modTile t g).banks = s.banks := rfl

/-! ### setPeg -/

@[simp] theorem State.setPeg_pending (s : State) (p : Nat) (v : Word32) : (s.setPeg p v).pending = s.pending := rfl
@[simp] theorem State.setPeg_out (s : State) (p : Nat) (v : Word32) : (s.setPeg p v).out = s.out := rfl
@[simp] theorem State.setPeg_clk (s : State) (p : Nat) (v : Word32) : (s.setPeg p v).clk = s.clk := rfl
@[simp] theorem State.setPeg_pwr (s : State) (p : Nat) (v : Word32) : (s.setPeg p v).pwr = s.pwr := rfl
@[simp] theorem State.setPeg_boot (s : State) (p : Nat) (v : Word32) : (s.setPeg p v).boot = s.boot := rfl
@[simp] theorem State.setPeg_regs (s : State) (p : Nat) (v : Word32) : (s.setPeg p v).regs = s.regs := rfl
@[simp] theorem State.setPeg_fns (s : State) (p : Nat) (v : Word32) : (s.setPeg p v).fns = s.fns := rfl
@[simp] theorem State.setPeg_commitQ (s : State) (p : Nat) (v : Word32) : (s.setPeg p v).commitQ = s.commitQ := rfl
@[simp] theorem State.setPeg_trackA (s : State) (p : Nat) (v : Word32) : (s.setPeg p v).trackA = s.trackA := rfl
@[simp] theorem State.setPeg_trackB (s : State) (p : Nat) (v : Word32) : (s.setPeg p v).trackB = s.trackB := rfl
@[simp] theorem State.setPeg_ports (s : State) (p : Nat) (v : Word32) : (s.setPeg p v).ports = s.ports := rfl
@[simp] theorem State.setPeg_nextPiece (s : State) (p : Nat) (v : Word32) : (s.setPeg p v).nextPiece = s.nextPiece := rfl
@[simp] theorem State.setPeg_regions (s : State) (p : Nat) (v : Word32) : (s.setPeg p v).regions = s.regions := rfl
@[simp] theorem State.setPeg_acc (s : State) (p : Nat) (v : Word32) : (s.setPeg p v).acc = s.acc := rfl
@[simp] theorem State.setPeg_transfers (s : State) (p : Nat) (v : Word32) : (s.setPeg p v).transfers = s.transfers := rfl
@[simp] theorem State.setPeg_store (s : State) (p : Nat) (v : Word32) : (s.setPeg p v).store = s.store := rfl
@[simp] theorem State.setPeg_sched (s : State) (p : Nat) (v : Word32) : (s.setPeg p v).sched = s.sched := rfl
@[simp] theorem State.setPeg_plans (s : State) (p : Nat) (v : Word32) : (s.setPeg p v).plans = s.plans := rfl
@[simp] theorem State.setPeg_pool (s : State) (p : Nat) (v : Word32) : (s.setPeg p v).pool = s.pool := rfl
@[simp] theorem State.setPeg_basket (s : State) (p : Nat) (v : Word32) : (s.setPeg p v).basket = s.basket := rfl
@[simp] theorem State.setPeg_engines (s : State) (p : Nat) (v : Word32) : (s.setPeg p v).engines = s.engines := rfl
@[simp] theorem State.setPeg_dict (s : State) (p : Nat) (v : Word32) : (s.setPeg p v).dict = s.dict := rfl
@[simp] theorem State.setPeg_tailor (s : State) (p : Nat) (v : Word32) : (s.setPeg p v).tailor = s.tailor := rfl
@[simp] theorem State.setPeg_port (s : State) (p : Nat) (v : Word32) : (s.setPeg p v).port = s.port := rfl
@[simp] theorem State.setPeg_twin (s : State) (p : Nat) (v : Word32) : (s.setPeg p v).twin = s.twin := rfl
@[simp] theorem State.setPeg_sec (s : State) (p : Nat) (v : Word32) : (s.setPeg p v).sec = s.sec := rfl
@[simp] theorem State.setPeg_health (s : State) (p : Nat) (v : Word32) : (s.setPeg p v).health = s.health := rfl
@[simp] theorem State.setPeg_cnt (s : State) (p : Nat) (v : Word32) : (s.setPeg p v).cnt = s.cnt := rfl
@[simp] theorem State.setPeg_banks (s : State) (p : Nat) (v : Word32) : (s.setPeg p v).banks = s.banks := rfl

/-! ### addPeg -/

@[simp] theorem State.addPeg_pending (s : State) (p : Nat) (v : Word32) : (s.addPeg p v).pending = s.pending := rfl
@[simp] theorem State.addPeg_out (s : State) (p : Nat) (v : Word32) : (s.addPeg p v).out = s.out := rfl
@[simp] theorem State.addPeg_clk (s : State) (p : Nat) (v : Word32) : (s.addPeg p v).clk = s.clk := rfl
@[simp] theorem State.addPeg_pwr (s : State) (p : Nat) (v : Word32) : (s.addPeg p v).pwr = s.pwr := rfl
@[simp] theorem State.addPeg_boot (s : State) (p : Nat) (v : Word32) : (s.addPeg p v).boot = s.boot := rfl
@[simp] theorem State.addPeg_regs (s : State) (p : Nat) (v : Word32) : (s.addPeg p v).regs = s.regs := rfl
@[simp] theorem State.addPeg_fns (s : State) (p : Nat) (v : Word32) : (s.addPeg p v).fns = s.fns := rfl
@[simp] theorem State.addPeg_commitQ (s : State) (p : Nat) (v : Word32) : (s.addPeg p v).commitQ = s.commitQ := rfl
@[simp] theorem State.addPeg_trackA (s : State) (p : Nat) (v : Word32) : (s.addPeg p v).trackA = s.trackA := rfl
@[simp] theorem State.addPeg_trackB (s : State) (p : Nat) (v : Word32) : (s.addPeg p v).trackB = s.trackB := rfl
@[simp] theorem State.addPeg_ports (s : State) (p : Nat) (v : Word32) : (s.addPeg p v).ports = s.ports := rfl
@[simp] theorem State.addPeg_nextPiece (s : State) (p : Nat) (v : Word32) : (s.addPeg p v).nextPiece = s.nextPiece := rfl
@[simp] theorem State.addPeg_regions (s : State) (p : Nat) (v : Word32) : (s.addPeg p v).regions = s.regions := rfl
@[simp] theorem State.addPeg_acc (s : State) (p : Nat) (v : Word32) : (s.addPeg p v).acc = s.acc := rfl
@[simp] theorem State.addPeg_transfers (s : State) (p : Nat) (v : Word32) : (s.addPeg p v).transfers = s.transfers := rfl
@[simp] theorem State.addPeg_store (s : State) (p : Nat) (v : Word32) : (s.addPeg p v).store = s.store := rfl
@[simp] theorem State.addPeg_sched (s : State) (p : Nat) (v : Word32) : (s.addPeg p v).sched = s.sched := rfl
@[simp] theorem State.addPeg_plans (s : State) (p : Nat) (v : Word32) : (s.addPeg p v).plans = s.plans := rfl
@[simp] theorem State.addPeg_pool (s : State) (p : Nat) (v : Word32) : (s.addPeg p v).pool = s.pool := rfl
@[simp] theorem State.addPeg_basket (s : State) (p : Nat) (v : Word32) : (s.addPeg p v).basket = s.basket := rfl
@[simp] theorem State.addPeg_engines (s : State) (p : Nat) (v : Word32) : (s.addPeg p v).engines = s.engines := rfl
@[simp] theorem State.addPeg_dict (s : State) (p : Nat) (v : Word32) : (s.addPeg p v).dict = s.dict := rfl
@[simp] theorem State.addPeg_tailor (s : State) (p : Nat) (v : Word32) : (s.addPeg p v).tailor = s.tailor := rfl
@[simp] theorem State.addPeg_port (s : State) (p : Nat) (v : Word32) : (s.addPeg p v).port = s.port := rfl
@[simp] theorem State.addPeg_twin (s : State) (p : Nat) (v : Word32) : (s.addPeg p v).twin = s.twin := rfl
@[simp] theorem State.addPeg_sec (s : State) (p : Nat) (v : Word32) : (s.addPeg p v).sec = s.sec := rfl
@[simp] theorem State.addPeg_health (s : State) (p : Nat) (v : Word32) : (s.addPeg p v).health = s.health := rfl
@[simp] theorem State.addPeg_cnt (s : State) (p : Nat) (v : Word32) : (s.addPeg p v).cnt = s.cnt := rfl
@[simp] theorem State.addPeg_banks (s : State) (p : Nat) (v : Word32) : (s.addPeg p v).banks = s.banks := rfl

/-! ### laterPeg -/

@[simp] theorem State.laterPeg_pending (s : State) (p : Nat) (v : Word32) : (s.laterPeg p v).pending = s.pending := rfl
@[simp] theorem State.laterPeg_out (s : State) (p : Nat) (v : Word32) : (s.laterPeg p v).out = s.out := rfl
@[simp] theorem State.laterPeg_clk (s : State) (p : Nat) (v : Word32) : (s.laterPeg p v).clk = s.clk := rfl
@[simp] theorem State.laterPeg_pwr (s : State) (p : Nat) (v : Word32) : (s.laterPeg p v).pwr = s.pwr := rfl
@[simp] theorem State.laterPeg_boot (s : State) (p : Nat) (v : Word32) : (s.laterPeg p v).boot = s.boot := rfl
@[simp] theorem State.laterPeg_regs (s : State) (p : Nat) (v : Word32) : (s.laterPeg p v).regs = s.regs := rfl
@[simp] theorem State.laterPeg_fns (s : State) (p : Nat) (v : Word32) : (s.laterPeg p v).fns = s.fns := rfl
@[simp] theorem State.laterPeg_commitQ (s : State) (p : Nat) (v : Word32) : (s.laterPeg p v).commitQ = s.commitQ := rfl
@[simp] theorem State.laterPeg_trackA (s : State) (p : Nat) (v : Word32) : (s.laterPeg p v).trackA = s.trackA := rfl
@[simp] theorem State.laterPeg_trackB (s : State) (p : Nat) (v : Word32) : (s.laterPeg p v).trackB = s.trackB := rfl
@[simp] theorem State.laterPeg_ports (s : State) (p : Nat) (v : Word32) : (s.laterPeg p v).ports = s.ports := rfl
@[simp] theorem State.laterPeg_nextPiece (s : State) (p : Nat) (v : Word32) : (s.laterPeg p v).nextPiece = s.nextPiece := rfl
@[simp] theorem State.laterPeg_regions (s : State) (p : Nat) (v : Word32) : (s.laterPeg p v).regions = s.regions := rfl
@[simp] theorem State.laterPeg_acc (s : State) (p : Nat) (v : Word32) : (s.laterPeg p v).acc = s.acc := rfl
@[simp] theorem State.laterPeg_transfers (s : State) (p : Nat) (v : Word32) : (s.laterPeg p v).transfers = s.transfers := rfl
@[simp] theorem State.laterPeg_store (s : State) (p : Nat) (v : Word32) : (s.laterPeg p v).store = s.store := rfl
@[simp] theorem State.laterPeg_sched (s : State) (p : Nat) (v : Word32) : (s.laterPeg p v).sched = s.sched := rfl
@[simp] theorem State.laterPeg_plans (s : State) (p : Nat) (v : Word32) : (s.laterPeg p v).plans = s.plans := rfl
@[simp] theorem State.laterPeg_pool (s : State) (p : Nat) (v : Word32) : (s.laterPeg p v).pool = s.pool := rfl
@[simp] theorem State.laterPeg_basket (s : State) (p : Nat) (v : Word32) : (s.laterPeg p v).basket = s.basket := rfl
@[simp] theorem State.laterPeg_engines (s : State) (p : Nat) (v : Word32) : (s.laterPeg p v).engines = s.engines := rfl
@[simp] theorem State.laterPeg_dict (s : State) (p : Nat) (v : Word32) : (s.laterPeg p v).dict = s.dict := rfl
@[simp] theorem State.laterPeg_tailor (s : State) (p : Nat) (v : Word32) : (s.laterPeg p v).tailor = s.tailor := rfl
@[simp] theorem State.laterPeg_port (s : State) (p : Nat) (v : Word32) : (s.laterPeg p v).port = s.port := rfl
@[simp] theorem State.laterPeg_twin (s : State) (p : Nat) (v : Word32) : (s.laterPeg p v).twin = s.twin := rfl
@[simp] theorem State.laterPeg_sec (s : State) (p : Nat) (v : Word32) : (s.laterPeg p v).sec = s.sec := rfl
@[simp] theorem State.laterPeg_health (s : State) (p : Nat) (v : Word32) : (s.laterPeg p v).health = s.health := rfl
@[simp] theorem State.laterPeg_cnt (s : State) (p : Nat) (v : Word32) : (s.laterPeg p v).cnt = s.cnt := rfl
@[simp] theorem State.laterPeg_banks (s : State) (p : Nat) (v : Word32) : (s.laterPeg p v).banks = s.banks := rfl

/-! ### regSet -/

@[simp] theorem regSet_pending (s : State) (fn off v : Nat) : (regSet s fn off v).pending = s.pending := rfl
@[simp] theorem regSet_out (s : State) (fn off v : Nat) : (regSet s fn off v).out = s.out := rfl
@[simp] theorem regSet_clk (s : State) (fn off v : Nat) : (regSet s fn off v).clk = s.clk := rfl
@[simp] theorem regSet_pwr (s : State) (fn off v : Nat) : (regSet s fn off v).pwr = s.pwr := rfl
@[simp] theorem regSet_boot (s : State) (fn off v : Nat) : (regSet s fn off v).boot = s.boot := rfl
@[simp] theorem regSet_fns (s : State) (fn off v : Nat) : (regSet s fn off v).fns = s.fns := rfl
@[simp] theorem regSet_pegs (s : State) (fn off v : Nat) : (regSet s fn off v).pegs = s.pegs := rfl
@[simp] theorem regSet_commitQ (s : State) (fn off v : Nat) : (regSet s fn off v).commitQ = s.commitQ := rfl
@[simp] theorem regSet_trackA (s : State) (fn off v : Nat) : (regSet s fn off v).trackA = s.trackA := rfl
@[simp] theorem regSet_trackB (s : State) (fn off v : Nat) : (regSet s fn off v).trackB = s.trackB := rfl
@[simp] theorem regSet_ports (s : State) (fn off v : Nat) : (regSet s fn off v).ports = s.ports := rfl
@[simp] theorem regSet_nextPiece (s : State) (fn off v : Nat) : (regSet s fn off v).nextPiece = s.nextPiece := rfl
@[simp] theorem regSet_regions (s : State) (fn off v : Nat) : (regSet s fn off v).regions = s.regions := rfl
@[simp] theorem regSet_acc (s : State) (fn off v : Nat) : (regSet s fn off v).acc = s.acc := rfl
@[simp] theorem regSet_transfers (s : State) (fn off v : Nat) : (regSet s fn off v).transfers = s.transfers := rfl
@[simp] theorem regSet_store (s : State) (fn off v : Nat) : (regSet s fn off v).store = s.store := rfl
@[simp] theorem regSet_sched (s : State) (fn off v : Nat) : (regSet s fn off v).sched = s.sched := rfl
@[simp] theorem regSet_plans (s : State) (fn off v : Nat) : (regSet s fn off v).plans = s.plans := rfl
@[simp] theorem regSet_pool (s : State) (fn off v : Nat) : (regSet s fn off v).pool = s.pool := rfl
@[simp] theorem regSet_basket (s : State) (fn off v : Nat) : (regSet s fn off v).basket = s.basket := rfl
@[simp] theorem regSet_engines (s : State) (fn off v : Nat) : (regSet s fn off v).engines = s.engines := rfl
@[simp] theorem regSet_dict (s : State) (fn off v : Nat) : (regSet s fn off v).dict = s.dict := rfl
@[simp] theorem regSet_tailor (s : State) (fn off v : Nat) : (regSet s fn off v).tailor = s.tailor := rfl
@[simp] theorem regSet_port (s : State) (fn off v : Nat) : (regSet s fn off v).port = s.port := rfl
@[simp] theorem regSet_twin (s : State) (fn off v : Nat) : (regSet s fn off v).twin = s.twin := rfl
@[simp] theorem regSet_sec (s : State) (fn off v : Nat) : (regSet s fn off v).sec = s.sec := rfl
@[simp] theorem regSet_health (s : State) (fn off v : Nat) : (regSet s fn off v).health = s.health := rfl
@[simp] theorem regSet_cnt (s : State) (fn off v : Nat) : (regSet s fn off v).cnt = s.cnt := rfl
@[simp] theorem regSet_banks (s : State) (fn off v : Nat) : (regSet s fn off v).banks = s.banks := rfl

/-! ### modTrack -/

@[simp] theorem State.modTrack_pending (s : State) (t : Track) (g : TrackState → TrackState) : (s.modTrack t g).pending = s.pending := by cases t <;> rfl
@[simp] theorem State.modTrack_out (s : State) (t : Track) (g : TrackState → TrackState) : (s.modTrack t g).out = s.out := by cases t <;> rfl
@[simp] theorem State.modTrack_clk (s : State) (t : Track) (g : TrackState → TrackState) : (s.modTrack t g).clk = s.clk := by cases t <;> rfl
@[simp] theorem State.modTrack_pwr (s : State) (t : Track) (g : TrackState → TrackState) : (s.modTrack t g).pwr = s.pwr := by cases t <;> rfl
@[simp] theorem State.modTrack_boot (s : State) (t : Track) (g : TrackState → TrackState) : (s.modTrack t g).boot = s.boot := by cases t <;> rfl
@[simp] theorem State.modTrack_regs (s : State) (t : Track) (g : TrackState → TrackState) : (s.modTrack t g).regs = s.regs := by cases t <;> rfl
@[simp] theorem State.modTrack_fns (s : State) (t : Track) (g : TrackState → TrackState) : (s.modTrack t g).fns = s.fns := by cases t <;> rfl
@[simp] theorem State.modTrack_pegs (s : State) (t : Track) (g : TrackState → TrackState) : (s.modTrack t g).pegs = s.pegs := by cases t <;> rfl
@[simp] theorem State.modTrack_commitQ (s : State) (t : Track) (g : TrackState → TrackState) : (s.modTrack t g).commitQ = s.commitQ := by cases t <;> rfl
@[simp] theorem State.modTrack_ports (s : State) (t : Track) (g : TrackState → TrackState) : (s.modTrack t g).ports = s.ports := by cases t <;> rfl
@[simp] theorem State.modTrack_nextPiece (s : State) (t : Track) (g : TrackState → TrackState) : (s.modTrack t g).nextPiece = s.nextPiece := by cases t <;> rfl
@[simp] theorem State.modTrack_regions (s : State) (t : Track) (g : TrackState → TrackState) : (s.modTrack t g).regions = s.regions := by cases t <;> rfl
@[simp] theorem State.modTrack_acc (s : State) (t : Track) (g : TrackState → TrackState) : (s.modTrack t g).acc = s.acc := by cases t <;> rfl
@[simp] theorem State.modTrack_transfers (s : State) (t : Track) (g : TrackState → TrackState) : (s.modTrack t g).transfers = s.transfers := by cases t <;> rfl
@[simp] theorem State.modTrack_store (s : State) (t : Track) (g : TrackState → TrackState) : (s.modTrack t g).store = s.store := by cases t <;> rfl
@[simp] theorem State.modTrack_sched (s : State) (t : Track) (g : TrackState → TrackState) : (s.modTrack t g).sched = s.sched := by cases t <;> rfl
@[simp] theorem State.modTrack_plans (s : State) (t : Track) (g : TrackState → TrackState) : (s.modTrack t g).plans = s.plans := by cases t <;> rfl
@[simp] theorem State.modTrack_pool (s : State) (t : Track) (g : TrackState → TrackState) : (s.modTrack t g).pool = s.pool := by cases t <;> rfl
@[simp] theorem State.modTrack_basket (s : State) (t : Track) (g : TrackState → TrackState) : (s.modTrack t g).basket = s.basket := by cases t <;> rfl
@[simp] theorem State.modTrack_engines (s : State) (t : Track) (g : TrackState → TrackState) : (s.modTrack t g).engines = s.engines := by cases t <;> rfl
@[simp] theorem State.modTrack_dict (s : State) (t : Track) (g : TrackState → TrackState) : (s.modTrack t g).dict = s.dict := by cases t <;> rfl
@[simp] theorem State.modTrack_tailor (s : State) (t : Track) (g : TrackState → TrackState) : (s.modTrack t g).tailor = s.tailor := by cases t <;> rfl
@[simp] theorem State.modTrack_port (s : State) (t : Track) (g : TrackState → TrackState) : (s.modTrack t g).port = s.port := by cases t <;> rfl
@[simp] theorem State.modTrack_twin (s : State) (t : Track) (g : TrackState → TrackState) : (s.modTrack t g).twin = s.twin := by cases t <;> rfl
@[simp] theorem State.modTrack_sec (s : State) (t : Track) (g : TrackState → TrackState) : (s.modTrack t g).sec = s.sec := by cases t <;> rfl
@[simp] theorem State.modTrack_health (s : State) (t : Track) (g : TrackState → TrackState) : (s.modTrack t g).health = s.health := by cases t <;> rfl
@[simp] theorem State.modTrack_cnt (s : State) (t : Track) (g : TrackState → TrackState) : (s.modTrack t g).cnt = s.cnt := by cases t <;> rfl
@[simp] theorem State.modTrack_banks (s : State) (t : Track) (g : TrackState → TrackState) : (s.modTrack t g).banks = s.banks := by cases t <;> rfl

/-! ### Read after write -/

@[simp] theorem State.emit_out (s : State) (o : Output) : (s.emit o).out = s.out ++ [o] := rfl

@[simp] theorem State.modTrack_same (s : State) (t : Track) (g : TrackState → TrackState) : (s.modTrack t g).track t = g (s.track t) := by
  cases t <;> rfl

theorem State.modTrack_other (s : State) {t u : Track} (h : t ≠ u) (g : TrackState → TrackState) : (s.modTrack t g).track u = s.track u := by
  cases t <;> cases u <;> first | rfl | exact absurd rfl h

@[simp] theorem State.modPort_same (s : State) (p : Port) (g : PortState → PortState) : (s.modPort p g).lp p = g (s.lp p) := by
  simp [State.modPort, State.lp]

theorem State.modPort_other (s : State) {p q : Port} (h : p ≠ q) (g : PortState → PortState) : (s.modPort p g).lp q = s.lp q := by
  simp [State.modPort, State.lp, Fin.val_ne_of_ne h]

@[simp] theorem State.modPort_track (s : State) (p : Port) (g : PortState → PortState) (t : Track) : (s.modPort p g).track t = s.track t := by
  cases t <;> rfl

@[simp] theorem State.modTrack_lp (s : State) (t : Track) (g : TrackState → TrackState) (p : Port) : (s.modTrack t g).lp p = s.lp p := by
  cases t <;> rfl

@[simp] theorem State.modFn_same (s : State) (f : Fn) (g : FnState → FnState) : (s.modFn f g).fnOf f = g (s.fnOf f) := by
  simp [State.modFn, State.fnOf]

theorem State.modFn_other (s : State) {f k : Fn} (h : f ≠ k) (g : FnState → FnState) : (s.modFn f g).fnOf k = s.fnOf k := by
  simp [State.modFn, State.fnOf, Fin.val_ne_of_ne h]

@[simp] theorem State.modRing_same (s : State) (r : RingRef) (g : RingPair → RingPair) : (s.modRing r g).ring r = g (s.ring r) := by
  simp [State.modRing, State.ring, State.fnOf, State.modFn]

theorem State.modRing_other (s : State) {r q : RingRef} (h : (r.fn, r.pair) ≠ (q.fn, q.pair)) (g : RingPair → RingPair) :
    (s.modRing r g).ring q = s.ring q := by
  obtain ⟨f, p, _⟩ := r
  obtain ⟨f', p', _⟩ := q
  by_cases hf : f = f'
  · subst hf
    have hp : p ≠ p' := fun e => h (by rw [e])
    simp [State.modRing, State.ring, State.fnOf, State.modFn, Fin.val_ne_of_ne hp]
  · simp [State.modRing, State.ring, State.fnOf, State.modFn, Fin.val_ne_of_ne hf]

@[simp] theorem State.modRegion_same (s : State) (r : Region) (g : RegionSt → RegionSt) : (s.modRegion r g).reg8 r = g (s.reg8 r) := by
  simp [State.modRegion, State.reg8]

theorem State.modRegion_other (s : State) {r q : Region} (h : r ≠ q) (g : RegionSt → RegionSt) : (s.modRegion r g).reg8 q = s.reg8 q := by
  simp [State.modRegion, State.reg8, Fin.val_ne_of_ne h]

@[simp] theorem State.emit_fnOf (s : State) (o : Output) (f : Fn) : (s.emit o).fnOf f = s.fnOf f := rfl
@[simp] theorem State.emit_lp (s : State) (o : Output) (p : Port) : (s.emit o).lp p = s.lp p := rfl
@[simp] theorem State.emit_ring (s : State) (o : Output) (r : RingRef) : (s.emit o).ring r = s.ring r := rfl
@[simp] theorem State.emit_track (s : State) (o : Output) (t : Track) : (s.emit o).track t = s.track t := by cases t <;> rfl
@[simp] theorem State.countN_fnOf (s : State) (a b c n : Nat) (f : Fn) : (s.countN a b c n).fnOf f = s.fnOf f := rfl
@[simp] theorem State.countN_lp (s : State) (a b c n : Nat) (p : Port) : (s.countN a b c n).lp p = s.lp p := rfl
@[simp] theorem State.countN_ring (s : State) (a b c n : Nat) (r : RingRef) : (s.countN a b c n).ring r = s.ring r := rfl
@[simp] theorem State.countN_track (s : State) (a b c n : Nat) (t : Track) : (s.countN a b c n).track t = s.track t := by cases t <;> rfl

/-- The registers do not depend on the functions' state. -/
@[simp] theorem regGet_fns (s : State) (v : Vector FnState 16) (fn off : Nat) : regGet { s with fns := v } fn off = regGet s fn off := rfl

end Sys2Proof.Machine
end

