-- ==== Sys2Proof/Laws/Rings.lean ====
section
/-! SUPPORT. Ring pairs: updates of one pair compose, a pair that is left as it is changes nothing, and where nothing waits the pump does nothing. -/

set_option Elab.async false

namespace Sys2Proof.Machine

open Sys2Proof

/-- Two updates of one pair are one. -/
theorem modRing_modRing (s : State) (r : RingRef) (g h : RingPair → RingPair) :
    (s.modRing r g).modRing r h = s.modRing r fun x => h (g x) := by
  simp [State.modRing, State.modFn]

/-- An update that leaves the pair as it is changes nothing. -/
theorem modRing_id (s : State) (r : RingRef) (g : RingPair → RingPair) (h : g (s.ring r) = s.ring r) : s.modRing r g = s := by
  simp only [State.ring, State.fnOf] at h
  have e : s.fns.set r.fn.val { s.fns[r.fn.val] with rings := s.fns[r.fn.val].rings.set r.pair.val (g s.fns[r.fn.val].rings[r.pair.val]) } = s.fns := by
    rw [h, Vector.set_getElem_self]
    exact Vector.set_getElem_self _
  unfold State.modRing State.modFn
  rw [e]

/-- Every function and every pair is listed. -/
theorem mem_allFns (f : Fn) : f ∈ allFns := by revert f; decide
theorem mem_allPairs (p : Fin 8) : p ∈ allPairs := by revert p; decide

/-- What a quiet state says of one pair. -/
theorem quiet_pair {s : State} (h : quiet s = true) (r : RingRef) : (s.ring r).fetched = [] ∧ (s.ring r).unfetched = 0 := by
  simp only [quiet, List.all_eq_true, Bool.and_eq_true, List.isEmpty_iff, beq_iff_eq] at h
  exact h r.fn (mem_allFns _) r.pair (mem_allPairs _)

/-- Quiet states are those whose pairs have nothing waiting. -/
theorem quiet_of_pairs {s : State} (h : ∀ r : RingRef, (s.ring r).fetched = [] ∧ (s.ring r).unfetched = 0) : quiet s = true := by
  simp only [quiet, List.all_eq_true, Bool.and_eq_true, List.isEmpty_iff, beq_iff_eq]
  intro f _ p _
  exact h { fn := f, pair := p, gen := 0 }

/-- The waiting descriptors of one pair, read from all of them. -/
theorem queues_ring (s : State) (r : RingRef) : (s.queues[r.fn.val])[r.pair.val] = ((s.ring r).fetched, (s.ring r).unfetched) := by
  simp [State.queues, fnsQ, State.ring, State.fnOf]

/-- An operation that leaves what waits leaves a quiet state quiet. -/
theorem quiet_of_queues {s t : State} (h : t.queues = s.queues) (hs : quiet s = true) : quiet t = true := by
  apply quiet_of_pairs
  intro r
  have h1 := queues_ring s r
  have h2 := queues_ring t r
  rw [h] at h2
  have h3 := h2.symm.trans h1
  simp only [Prod.mk.injEq] at h3
  have := quiet_pair hs r
  exact ⟨h3.1.trans this.1, h3.2.trans this.2⟩

/-- Where nothing stands unfetched, fetching changes nothing. -/
theorem fetchNow_idle (s : State) (r : RingRef) (h : (s.ring r).unfetched = 0) : fetchNow s r = s := by
  unfold fetchNow
  split
  · apply modRing_id
    rw [h]
    generalize hx : s.ring r = x at h
    cases x
    subst h
    simp
  · rfl

/-- A pair with nothing waiting starts nothing. -/
theorem pumpRing_idle (s : State) (r : RingRef) (n : Nat) (h : (s.ring r).fetched = [] ∧ (s.ring r).unfetched = 0) : pumpRing s r n = s := by
  cases n with
  | zero => rfl
  | succ n =>
    unfold pumpRing
    simp [fetchNow_idle s r h.2, unstarted, h.1]

/-- A quiet state starts nothing. -/
theorem pump_quiet (s : State) (rs : List RingRef) (h : quiet s = true) :
    rs.foldl (fun s r => pumpRing s r ((s.ring r).fetched.length + 1)) s = s := by
  induction rs with
  | nil => rfl
  | cons r rs ih => rw [List.foldl_cons, pumpRing_idle s r _ (quiet_pair h r), ih]

theorem pumpAll_quiet (s : State) (h : quiet s = true) : pumpAll s = s := pump_quiet s _ h

end Sys2Proof.Machine
end

