-- ==== Sys2Proof/Laws/Frames.lean ====
section
/-! SUPPORT. What the shared operations leave as it was: the transfers to the host, interrupts, the health log, completions, and the scheduler with nothing to do. -/

set_option Elab.async false

namespace Sys2Proof.Machine

open Sys2Proof

/-- An operation that moves at most the functions' state, the messages out, the counters and the pegs. -/
def answersOnly (s t : State) : Prop := { t with fns := s.fns, out := s.out, cnt := s.cnt, pegs := s.pegs } = s

theorem answersOnly_refl (s : State) : answersOnly s s := rfl

theorem answersOnly_trans {s t u : State} (h : answersOnly s t) (k : answersOnly t u) : answersOnly s u := by
  unfold answersOnly at *
  rw [← h, ← k]

theorem answersOnly_emit (s : State) (o : Output) : answersOnly s (s.emit o) := rfl
theorem answersOnly_countN (s : State) (a b c n : Nat) : answersOnly s (s.countN a b c n) := rfl
theorem answersOnly_modFn (s : State) (f : Fn) (g : FnState → FnState) : answersOnly s (s.modFn f g) := rfl
theorem answersOnly_modRing (s : State) (r : RingRef) (g : RingPair → RingPair) : answersOnly s (s.modRing r g) := rfl
theorem answersOnly_laterPeg (s : State) (p : Nat) (v : Word32) : answersOnly s (s.laterPeg p v) := rfl
theorem answersOnly_hostWrite (s : State) (f : Fn) (a : Nat) (b : List Byte) : answersOnly s (s.hostWrite f a b) := rfl
theorem answersOnly_hostRead (s : State) (f : Fn) (a n : Nat) : answersOnly s (s.hostRead f a n) := rfl

theorem answersOnly_raiseVec (s : State) (f : Fn) (v : Nat) : answersOnly s (s.raiseVec f v) := by
  unfold State.raiseVec; split
  · exact answersOnly_modFn ..
  · rfl

theorem answersOnly_raiseEvent (s : State) (f : Fn) : answersOnly s (s.raiseEvent f) := answersOnly_raiseVec ..

theorem answersOnly_moderate (s : State) (r : RingRef) (b : Bool) : answersOnly s (moderate s r b) := by
  unfold moderate; dsimp only; split
  · exact answersOnly_trans (answersOnly_modRing s r _) (answersOnly_raiseVec ..)
  · exact answersOnly_modRing ..

theorem answersOnly_writeCompl (s : State) (r : RingRef) (c : Compl) : answersOnly s (writeCompl s r c) := by
  unfold writeCompl; dsimp only
  refine answersOnly_trans ?_ (answersOnly_moderate ..)
  split
  · exact answersOnly_trans (answersOnly_trans (answersOnly_hostWrite ..) (answersOnly_modRing ..)) (answersOnly_laterPeg ..)
  · exact answersOnly_trans (answersOnly_hostWrite ..) (answersOnly_modRing ..)

theorem answersOnly_postCompl (s : State) (r : RingRef) (c : Compl) : answersOnly s (postCompl s r c) := by
  unfold postCompl; split
  · rfl
  · split
    · exact answersOnly_writeCompl ..
    · exact answersOnly_modRing ..

theorem answersOnly_complete (s : State) (r : RingRef) (h : Hdr) (n : Nat) (st : Status) (x : List Byte) : answersOnly s (complete s r h n st x) :=
  answersOnly_postCompl ..

/-! ### The health log -/

/-- Logging moves only the log's own state, beside what answers move. -/
theorem logHealth_frame (s : State) (e : HealthEntry) :
    { logHealth s e with health := s.health, fns := s.fns, out := s.out, cnt := s.cnt, pegs := s.pegs } = s := by
  unfold logHealth; dsimp only
  split
  · exact congrArg (fun z : State => { z with health := s.health, fns := s.fns, out := s.out, cnt := s.cnt, pegs := s.pegs }) (answersOnly_raiseEvent _ 0)
  · rfl

/-! ### Field by field -/

@[simp] theorem State.raiseVec_pending (s : State) (f : Fn) (v : Nat) : (s.raiseVec f v).pending = s.pending := by have k := congrArg State.pending (answersOnly_raiseVec s f v); exact k
@[simp] theorem State.raiseVec_clk (s : State) (f : Fn) (v : Nat) : (s.raiseVec f v).clk = s.clk := by have k := congrArg State.clk (answersOnly_raiseVec s f v); exact k
@[simp] theorem State.raiseVec_pwr (s : State) (f : Fn) (v : Nat) : (s.raiseVec f v).pwr = s.pwr := by have k := congrArg State.pwr (answersOnly_raiseVec s f v); exact k
@[simp] theorem State.raiseVec_boot (s : State) (f : Fn) (v : Nat) : (s.raiseVec f v).boot = s.boot := by have k := congrArg State.boot (answersOnly_raiseVec s f v); exact k
@[simp] theorem State.raiseVec_regs (s : State) (f : Fn) (v : Nat) : (s.raiseVec f v).regs = s.regs := by have k := congrArg State.regs (answersOnly_raiseVec s f v); exact k
@[simp] theorem State.raiseVec_commitQ (s : State) (f : Fn) (v : Nat) : (s.raiseVec f v).commitQ = s.commitQ := by have k := congrArg State.commitQ (answersOnly_raiseVec s f v); exact k
@[simp] theorem State.raiseVec_trackA (s : State) (f : Fn) (v : Nat) : (s.raiseVec f v).trackA = s.trackA := by have k := congrArg State.trackA (answersOnly_raiseVec s f v); exact k
@[simp] theorem State.raiseVec_trackB (s : State) (f : Fn) (v : Nat) : (s.raiseVec f v).trackB = s.trackB := by have k := congrArg State.trackB (answersOnly_raiseVec s f v); exact k
@[simp] theorem State.raiseVec_ports (s : State) (f : Fn) (v : Nat) : (s.raiseVec f v).ports = s.ports := by have k := congrArg State.ports (answersOnly_raiseVec s f v); exact k
@[simp] theorem State.raiseVec_nextPiece (s : State) (f : Fn) (v : Nat) : (s.raiseVec f v).nextPiece = s.nextPiece := by have k := congrArg State.nextPiece (answersOnly_raiseVec s f v); exact k
@[simp] theorem State.raiseVec_regions (s : State) (f : Fn) (v : Nat) : (s.raiseVec f v).regions = s.regions := by have k := congrArg State.regions (answersOnly_raiseVec s f v); exact k
@[simp] theorem State.raiseVec_acc (s : State) (f : Fn) (v : Nat) : (s.raiseVec f v).acc = s.acc := by have k := congrArg State.acc (answersOnly_raiseVec s f v); exact k
@[simp] theorem State.raiseVec_transfers (s : State) (f : Fn) (v : Nat) : (s.raiseVec f v).transfers = s.transfers := by have k := congrArg State.transfers (answersOnly_raiseVec s f v); exact k
@[simp] theorem State.raiseVec_store (s : State) (f : Fn) (v : Nat) : (s.raiseVec f v).store = s.store := by have k := congrArg State.store (answersOnly_raiseVec s f v); exact k
@[simp] theorem State.raiseVec_sched (s : State) (f : Fn) (v : Nat) : (s.raiseVec f v).sched = s.sched := by have k := congrArg State.sched (answersOnly_raiseVec s f v); exact k
@[simp] theorem State.raiseVec_plans (s : State) (f : Fn) (v : Nat) : (s.raiseVec f v).plans = s.plans := by have k := congrArg State.plans (answersOnly_raiseVec s f v); exact k
@[simp] theorem State.raiseVec_pool (s : State) (f : Fn) (v : Nat) : (s.raiseVec f v).pool = s.pool := by have k := congrArg State.pool (answersOnly_raiseVec s f v); exact k
@[simp] theorem State.raiseVec_basket (s : State) (f : Fn) (v : Nat) : (s.raiseVec f v).basket = s.basket := by have k := congrArg State.basket (answersOnly_raiseVec s f v); exact k
@[simp] theorem State.raiseVec_engines (s : State) (f : Fn) (v : Nat) : (s.raiseVec f v).engines = s.engines := by have k := congrArg State.engines (answersOnly_raiseVec s f v); exact k
@[simp] theorem State.raiseVec_dict (s : State) (f : Fn) (v : Nat) : (s.raiseVec f v).dict = s.dict := by have k := congrArg State.dict (answersOnly_raiseVec s f v); exact k
@[simp] theorem State.raiseVec_tailor (s : State) (f : Fn) (v : Nat) : (s.raiseVec f v).tailor = s.tailor := by have k := congrArg State.tailor (answersOnly_raiseVec s f v); exact k
@[simp] theorem State.raiseVec_port (s : State) (f : Fn) (v : Nat) : (s.raiseVec f v).port = s.port := by have k := congrArg State.port (answersOnly_raiseVec s f v); exact k
@[simp] theorem State.raiseVec_twin (s : State) (f : Fn) (v : Nat) : (s.raiseVec f v).twin = s.twin := by have k := congrArg State.twin (answersOnly_raiseVec s f v); exact k
@[simp] theorem State.raiseVec_sec (s : State) (f : Fn) (v : Nat) : (s.raiseVec f v).sec = s.sec := by have k := congrArg State.sec (answersOnly_raiseVec s f v); exact k
@[simp] theorem State.raiseVec_banks (s : State) (f : Fn) (v : Nat) : (s.raiseVec f v).banks = s.banks := by have k := congrArg State.banks (answersOnly_raiseVec s f v); exact k
@[simp] theorem State.raiseVec_health (s : State) (f : Fn) (v : Nat) : (s.raiseVec f v).health = s.health := by have k := congrArg State.health (answersOnly_raiseVec s f v); exact k

@[simp] theorem State.raiseEvent_pending (s : State) (f : Fn) : (s.raiseEvent f).pending = s.pending := by have k := congrArg State.pending (answersOnly_raiseEvent s f); exact k
@[simp] theorem State.raiseEvent_clk (s : State) (f : Fn) : (s.raiseEvent f).clk = s.clk := by have k := congrArg State.clk (answersOnly_raiseEvent s f); exact k
@[simp] theorem State.raiseEvent_pwr (s : State) (f : Fn) : (s.raiseEvent f).pwr = s.pwr := by have k := congrArg State.pwr (answersOnly_raiseEvent s f); exact k
@[simp] theorem State.raiseEvent_boot (s : State) (f : Fn) : (s.raiseEvent f).boot = s.boot := by have k := congrArg State.boot (answersOnly_raiseEvent s f); exact k
@[simp] theorem State.raiseEvent_regs (s : State) (f : Fn) : (s.raiseEvent f).regs = s.regs := by have k := congrArg State.regs (answersOnly_raiseEvent s f); exact k
@[simp] theorem State.raiseEvent_commitQ (s : State) (f : Fn) : (s.raiseEvent f).commitQ = s.commitQ := by have k := congrArg State.commitQ (answersOnly_raiseEvent s f); exact k
@[simp] theorem State.raiseEvent_trackA (s : State) (f : Fn) : (s.raiseEvent f).trackA = s.trackA := by have k := congrArg State.trackA (answersOnly_raiseEvent s f); exact k
@[simp] theorem State.raiseEvent_trackB (s : State) (f : Fn) : (s.raiseEvent f).trackB = s.trackB := by have k := congrArg State.trackB (answersOnly_raiseEvent s f); exact k
@[simp] theorem State.raiseEvent_ports (s : State) (f : Fn) : (s.raiseEvent f).ports = s.ports := by have k := congrArg State.ports (answersOnly_raiseEvent s f); exact k
@[simp] theorem State.raiseEvent_nextPiece (s : State) (f : Fn) : (s.raiseEvent f).nextPiece = s.nextPiece := by have k := congrArg State.nextPiece (answersOnly_raiseEvent s f); exact k
@[simp] theorem State.raiseEvent_regions (s : State) (f : Fn) : (s.raiseEvent f).regions = s.regions := by have k := congrArg State.regions (answersOnly_raiseEvent s f); exact k
@[simp] theorem State.raiseEvent_acc (s : State) (f : Fn) : (s.raiseEvent f).acc = s.acc := by have k := congrArg State.acc (answersOnly_raiseEvent s f); exact k
@[simp] theorem State.raiseEvent_transfers (s : State) (f : Fn) : (s.raiseEvent f).transfers = s.transfers := by have k := congrArg State.transfers (answersOnly_raiseEvent s f); exact k
@[simp] theorem State.raiseEvent_store (s : State) (f : Fn) : (s.raiseEvent f).store = s.store := by have k := congrArg State.store (answersOnly_raiseEvent s f); exact k
@[simp] theorem State.raiseEvent_sched (s : State) (f : Fn) : (s.raiseEvent f).sched = s.sched := by have k := congrArg State.sched (answersOnly_raiseEvent s f); exact k
@[simp] theorem State.raiseEvent_plans (s : State) (f : Fn) : (s.raiseEvent f).plans = s.plans := by have k := congrArg State.plans (answersOnly_raiseEvent s f); exact k
@[simp] theorem State.raiseEvent_pool (s : State) (f : Fn) : (s.raiseEvent f).pool = s.pool := by have k := congrArg State.pool (answersOnly_raiseEvent s f); exact k
@[simp] theorem State.raiseEvent_basket (s : State) (f : Fn) : (s.raiseEvent f).basket = s.basket := by have k := congrArg State.basket (answersOnly_raiseEvent s f); exact k
@[simp] theorem State.raiseEvent_engines (s : State) (f : Fn) : (s.raiseEvent f).engines = s.engines := by have k := congrArg State.engines (answersOnly_raiseEvent s f); exact k
@[simp] theorem State.raiseEvent_dict (s : State) (f : Fn) : (s.raiseEvent f).dict = s.dict := by have k := congrArg State.dict (answersOnly_raiseEvent s f); exact k
@[simp] theorem State.raiseEvent_tailor (s : State) (f : Fn) : (s.raiseEvent f).tailor = s.tailor := by have k := congrArg State.tailor (answersOnly_raiseEvent s f); exact k
@[simp] theorem State.raiseEvent_port (s : State) (f : Fn) : (s.raiseEvent f).port = s.port := by have k := congrArg State.port (answersOnly_raiseEvent s f); exact k
@[simp] theorem State.raiseEvent_twin (s : State) (f : Fn) : (s.raiseEvent f).twin = s.twin := by have k := congrArg State.twin (answersOnly_raiseEvent s f); exact k
@[simp] theorem State.raiseEvent_sec (s : State) (f : Fn) : (s.raiseEvent f).sec = s.sec := by have k := congrArg State.sec (answersOnly_raiseEvent s f); exact k
@[simp] theorem State.raiseEvent_banks (s : State) (f : Fn) : (s.raiseEvent f).banks = s.banks := by have k := congrArg State.banks (answersOnly_raiseEvent s f); exact k
@[simp] theorem State.raiseEvent_health (s : State) (f : Fn) : (s.raiseEvent f).health = s.health := by have k := congrArg State.health (answersOnly_raiseEvent s f); exact k

@[simp] theorem complete_pending (s : State) (r : RingRef) (h : Hdr) (n : Nat) (st : Status) (x : List Byte) : (complete s r h n st x).pending = s.pending := by have k := congrArg State.pending (answersOnly_complete s r h n st x); exact k
@[simp] theorem complete_clk (s : State) (r : RingRef) (h : Hdr) (n : Nat) (st : Status) (x : List Byte) : (complete s r h n st x).clk = s.clk := by have k := congrArg State.clk (answersOnly_complete s r h n st x); exact k
@[simp] theorem complete_pwr (s : State) (r : RingRef) (h : Hdr) (n : Nat) (st : Status) (x : List Byte) : (complete s r h n st x).pwr = s.pwr := by have k := congrArg State.pwr (answersOnly_complete s r h n st x); exact k
@[simp] theorem complete_boot (s : State) (r : RingRef) (h : Hdr) (n : Nat) (st : Status) (x : List Byte) : (complete s r h n st x).boot = s.boot := by have k := congrArg State.boot (answersOnly_complete s r h n st x); exact k
@[simp] theorem complete_regs (s : State) (r : RingRef) (h : Hdr) (n : Nat) (st : Status) (x : List Byte) : (complete s r h n st x).regs = s.regs := by have k := congrArg State.regs (answersOnly_complete s r h n st x); exact k
@[simp] theorem complete_commitQ (s : State) (r : RingRef) (h : Hdr) (n : Nat) (st : Status) (x : List Byte) : (complete s r h n st x).commitQ = s.commitQ := by have k := congrArg State.commitQ (answersOnly_complete s r h n st x); exact k
@[simp] theorem complete_trackA (s : State) (r : RingRef) (h : Hdr) (n : Nat) (st : Status) (x : List Byte) : (complete s r h n st x).trackA = s.trackA := by have k := congrArg State.trackA (answersOnly_complete s r h n st x); exact k
@[simp] theorem complete_trackB (s : State) (r : RingRef) (h : Hdr) (n : Nat) (st : Status) (x : List Byte) : (complete s r h n st x).trackB = s.trackB := by have k := congrArg State.trackB (answersOnly_complete s r h n st x); exact k
@[simp] theorem complete_ports (s : State) (r : RingRef) (h : Hdr) (n : Nat) (st : Status) (x : List Byte) : (complete s r h n st x).ports = s.ports := by have k := congrArg State.ports (answersOnly_complete s r h n st x); exact k
@[simp] theorem complete_nextPiece (s : State) (r : RingRef) (h : Hdr) (n : Nat) (st : Status) (x : List Byte) : (complete s r h n st x).nextPiece = s.nextPiece := by have k := congrArg State.nextPiece (answersOnly_complete s r h n st x); exact k
@[simp] theorem complete_regions (s : State) (r : RingRef) (h : Hdr) (n : Nat) (st : Status) (x : List Byte) : (complete s r h n st x).regions = s.regions := by have k := congrArg State.regions (answersOnly_complete s r h n st x); exact k
@[simp] theorem complete_acc (s : State) (r : RingRef) (h : Hdr) (n : Nat) (st : Status) (x : List Byte) : (complete s r h n st x).acc = s.acc := by have k := congrArg State.acc (answersOnly_complete s r h n st x); exact k
@[simp] theorem complete_transfers (s : State) (r : RingRef) (h : Hdr) (n : Nat) (st : Status) (x : List Byte) : (complete s r h n st x).transfers = s.transfers := by have k := congrArg State.transfers (answersOnly_complete s r h n st x); exact k
@[simp] theorem complete_store (s : State) (r : RingRef) (h : Hdr) (n : Nat) (st : Status) (x : List Byte) : (complete s r h n st x).store = s.store := by have k := congrArg State.store (answersOnly_complete s r h n st x); exact k
@[simp] theorem complete_sched (s : State) (r : RingRef) (h : Hdr) (n : Nat) (st : Status) (x : List Byte) : (complete s r h n st x).sched = s.sched := by have k := congrArg State.sched (answersOnly_complete s r h n st x); exact k
@[simp] theorem complete_plans (s : State) (r : RingRef) (h : Hdr) (n : Nat) (st : Status) (x : List Byte) : (complete s r h n st x).plans = s.plans := by have k := congrArg State.plans (answersOnly_complete s r h n st x); exact k
@[simp] theorem complete_pool (s : State) (r : RingRef) (h : Hdr) (n : Nat) (st : Status) (x : List Byte) : (complete s r h n st x).pool = s.pool := by have k := congrArg State.pool (answersOnly_complete s r h n st x); exact k
@[simp] theorem complete_basket (s : State) (r : RingRef) (h : Hdr) (n : Nat) (st : Status) (x : List Byte) : (complete s r h n st x).basket = s.basket := by have k := congrArg State.basket (answersOnly_complete s r h n st x); exact k
@[simp] theorem complete_engines (s : State) (r : RingRef) (h : Hdr) (n : Nat) (st : Status) (x : List Byte) : (complete s r h n st x).engines = s.engines := by have k := congrArg State.engines (answersOnly_complete s r h n st x); exact k
@[simp] theorem complete_dict (s : State) (r : RingRef) (h : Hdr) (n : Nat) (st : Status) (x : List Byte) : (complete s r h n st x).dict = s.dict := by have k := congrArg State.dict (answersOnly_complete s r h n st x); exact k
@[simp] theorem complete_tailor (s : State) (r : RingRef) (h : Hdr) (n : Nat) (st : Status) (x : List Byte) : (complete s r h n st x).tailor = s.tailor := by have k := congrArg State.tailor (answersOnly_complete s r h n st x); exact k
@[simp] theorem complete_port (s : State) (r : RingRef) (h : Hdr) (n : Nat) (st : Status) (x : List Byte) : (complete s r h n st x).port = s.port := by have k := congrArg State.port (answersOnly_complete s r h n st x); exact k
@[simp] theorem complete_twin (s : State) (r : RingRef) (h : Hdr) (n : Nat) (st : Status) (x : List Byte) : (complete s r h n st x).twin = s.twin := by have k := congrArg State.twin (answersOnly_complete s r h n st x); exact k
@[simp] theorem complete_sec (s : State) (r : RingRef) (h : Hdr) (n : Nat) (st : Status) (x : List Byte) : (complete s r h n st x).sec = s.sec := by have k := congrArg State.sec (answersOnly_complete s r h n st x); exact k
@[simp] theorem complete_banks (s : State) (r : RingRef) (h : Hdr) (n : Nat) (st : Status) (x : List Byte) : (complete s r h n st x).banks = s.banks := by have k := congrArg State.banks (answersOnly_complete s r h n st x); exact k
@[simp] theorem complete_health (s : State) (r : RingRef) (h : Hdr) (n : Nat) (st : Status) (x : List Byte) : (complete s r h n st x).health = s.health := by have k := congrArg State.health (answersOnly_complete s r h n st x); exact k

@[simp] theorem postCompl_pending (s : State) (r : RingRef) (c : Compl) : (postCompl s r c).pending = s.pending := by have k := congrArg State.pending (answersOnly_postCompl s r c); exact k
@[simp] theorem postCompl_clk (s : State) (r : RingRef) (c : Compl) : (postCompl s r c).clk = s.clk := by have k := congrArg State.clk (answersOnly_postCompl s r c); exact k
@[simp] theorem postCompl_pwr (s : State) (r : RingRef) (c : Compl) : (postCompl s r c).pwr = s.pwr := by have k := congrArg State.pwr (answersOnly_postCompl s r c); exact k
@[simp] theorem postCompl_boot (s : State) (r : RingRef) (c : Compl) : (postCompl s r c).boot = s.boot := by have k := congrArg State.boot (answersOnly_postCompl s r c); exact k
@[simp] theorem postCompl_regs (s : State) (r : RingRef) (c : Compl) : (postCompl s r c).regs = s.regs := by have k := congrArg State.regs (answersOnly_postCompl s r c); exact k
@[simp] theorem postCompl_commitQ (s : State) (r : RingRef) (c : Compl) : (postCompl s r c).commitQ = s.commitQ := by have k := congrArg State.commitQ (answersOnly_postCompl s r c); exact k
@[simp] theorem postCompl_trackA (s : State) (r : RingRef) (c : Compl) : (postCompl s r c).trackA = s.trackA := by have k := congrArg State.trackA (answersOnly_postCompl s r c); exact k
@[simp] theorem postCompl_trackB (s : State) (r : RingRef) (c : Compl) : (postCompl s r c).trackB = s.trackB := by have k := congrArg State.trackB (answersOnly_postCompl s r c); exact k
@[simp] theorem postCompl_ports (s : State) (r : RingRef) (c : Compl) : (postCompl s r c).ports = s.ports := by have k := congrArg State.ports (answersOnly_postCompl s r c); exact k
@[simp] theorem postCompl_nextPiece (s : State) (r : RingRef) (c : Compl) : (postCompl s r c).nextPiece = s.nextPiece := by have k := congrArg State.nextPiece (answersOnly_postCompl s r c); exact k
@[simp] theorem postCompl_regions (s : State) (r : RingRef) (c : Compl) : (postCompl s r c).regions = s.regions := by have k := congrArg State.regions (answersOnly_postCompl s r c); exact k
@[simp] theorem postCompl_acc (s : State) (r : RingRef) (c : Compl) : (postCompl s r c).acc = s.acc := by have k := congrArg State.acc (answersOnly_postCompl s r c); exact k
@[simp] theorem postCompl_transfers (s : State) (r : RingRef) (c : Compl) : (postCompl s r c).transfers = s.transfers := by have k := congrArg State.transfers (answersOnly_postCompl s r c); exact k
@[simp] theorem postCompl_store (s : State) (r : RingRef) (c : Compl) : (postCompl s r c).store = s.store := by have k := congrArg State.store (answersOnly_postCompl s r c); exact k
@[simp] theorem postCompl_sched (s : State) (r : RingRef) (c : Compl) : (postCompl s r c).sched = s.sched := by have k := congrArg State.sched (answersOnly_postCompl s r c); exact k
@[simp] theorem postCompl_plans (s : State) (r : RingRef) (c : Compl) : (postCompl s r c).plans = s.plans := by have k := congrArg State.plans (answersOnly_postCompl s r c); exact k
@[simp] theorem postCompl_pool (s : State) (r : RingRef) (c : Compl) : (postCompl s r c).pool = s.pool := by have k := congrArg State.pool (answersOnly_postCompl s r c); exact k
@[simp] theorem postCompl_basket (s : State) (r : RingRef) (c : Compl) : (postCompl s r c).basket = s.basket := by have k := congrArg State.basket (answersOnly_postCompl s r c); exact k
@[simp] theorem postCompl_engines (s : State) (r : RingRef) (c : Compl) : (postCompl s r c).engines = s.engines := by have k := congrArg State.engines (answersOnly_postCompl s r c); exact k
@[simp] theorem postCompl_dict (s : State) (r : RingRef) (c : Compl) : (postCompl s r c).dict = s.dict := by have k := congrArg State.dict (answersOnly_postCompl s r c); exact k
@[simp] theorem postCompl_tailor (s : State) (r : RingRef) (c : Compl) : (postCompl s r c).tailor = s.tailor := by have k := congrArg State.tailor (answersOnly_postCompl s r c); exact k
@[simp] theorem postCompl_port (s : State) (r : RingRef) (c : Compl) : (postCompl s r c).port = s.port := by have k := congrArg State.port (answersOnly_postCompl s r c); exact k
@[simp] theorem postCompl_twin (s : State) (r : RingRef) (c : Compl) : (postCompl s r c).twin = s.twin := by have k := congrArg State.twin (answersOnly_postCompl s r c); exact k
@[simp] theorem postCompl_sec (s : State) (r : RingRef) (c : Compl) : (postCompl s r c).sec = s.sec := by have k := congrArg State.sec (answersOnly_postCompl s r c); exact k
@[simp] theorem postCompl_banks (s : State) (r : RingRef) (c : Compl) : (postCompl s r c).banks = s.banks := by have k := congrArg State.banks (answersOnly_postCompl s r c); exact k
@[simp] theorem postCompl_health (s : State) (r : RingRef) (c : Compl) : (postCompl s r c).health = s.health := by have k := congrArg State.health (answersOnly_postCompl s r c); exact k

@[simp] theorem logHealth_pending (s : State) (e : HealthEntry) : (logHealth s e).pending = s.pending := by have k := congrArg State.pending (logHealth_frame s e); exact k
@[simp] theorem logHealth_clk (s : State) (e : HealthEntry) : (logHealth s e).clk = s.clk := by have k := congrArg State.clk (logHealth_frame s e); exact k
@[simp] theorem logHealth_pwr (s : State) (e : HealthEntry) : (logHealth s e).pwr = s.pwr := by have k := congrArg State.pwr (logHealth_frame s e); exact k
@[simp] theorem logHealth_boot (s : State) (e : HealthEntry) : (logHealth s e).boot = s.boot := by have k := congrArg State.boot (logHealth_frame s e); exact k
@[simp] theorem logHealth_regs (s : State) (e : HealthEntry) : (logHealth s e).regs = s.regs := by have k := congrArg State.regs (logHealth_frame s e); exact k
@[simp] theorem logHealth_commitQ (s : State) (e : HealthEntry) : (logHealth s e).commitQ = s.commitQ := by have k := congrArg State.commitQ (logHealth_frame s e); exact k
@[simp] theorem logHealth_trackA (s : State) (e : HealthEntry) : (logHealth s e).trackA = s.trackA := by have k := congrArg State.trackA (logHealth_frame s e); exact k
@[simp] theorem logHealth_trackB (s : State) (e : HealthEntry) : (logHealth s e).trackB = s.trackB := by have k := congrArg State.trackB (logHealth_frame s e); exact k
@[simp] theorem logHealth_ports (s : State) (e : HealthEntry) : (logHealth s e).ports = s.ports := by have k := congrArg State.ports (logHealth_frame s e); exact k
@[simp] theorem logHealth_nextPiece (s : State) (e : HealthEntry) : (logHealth s e).nextPiece = s.nextPiece := by have k := congrArg State.nextPiece (logHealth_frame s e); exact k
@[simp] theorem logHealth_regions (s : State) (e : HealthEntry) : (logHealth s e).regions = s.regions := by have k := congrArg State.regions (logHealth_frame s e); exact k
@[simp] theorem logHealth_acc (s : State) (e : HealthEntry) : (logHealth s e).acc = s.acc := by have k := congrArg State.acc (logHealth_frame s e); exact k
@[simp] theorem logHealth_transfers (s : State) (e : HealthEntry) : (logHealth s e).transfers = s.transfers := by have k := congrArg State.transfers (logHealth_frame s e); exact k
@[simp] theorem logHealth_store (s : State) (e : HealthEntry) : (logHealth s e).store = s.store := by have k := congrArg State.store (logHealth_frame s e); exact k
@[simp] theorem logHealth_sched (s : State) (e : HealthEntry) : (logHealth s e).sched = s.sched := by have k := congrArg State.sched (logHealth_frame s e); exact k
@[simp] theorem logHealth_plans (s : State) (e : HealthEntry) : (logHealth s e).plans = s.plans := by have k := congrArg State.plans (logHealth_frame s e); exact k
@[simp] theorem logHealth_pool (s : State) (e : HealthEntry) : (logHealth s e).pool = s.pool := by have k := congrArg State.pool (logHealth_frame s e); exact k
@[simp] theorem logHealth_basket (s : State) (e : HealthEntry) : (logHealth s e).basket = s.basket := by have k := congrArg State.basket (logHealth_frame s e); exact k
@[simp] theorem logHealth_engines (s : State) (e : HealthEntry) : (logHealth s e).engines = s.engines := by have k := congrArg State.engines (logHealth_frame s e); exact k
@[simp] theorem logHealth_dict (s : State) (e : HealthEntry) : (logHealth s e).dict = s.dict := by have k := congrArg State.dict (logHealth_frame s e); exact k
@[simp] theorem logHealth_tailor (s : State) (e : HealthEntry) : (logHealth s e).tailor = s.tailor := by have k := congrArg State.tailor (logHealth_frame s e); exact k
@[simp] theorem logHealth_port (s : State) (e : HealthEntry) : (logHealth s e).port = s.port := by have k := congrArg State.port (logHealth_frame s e); exact k
@[simp] theorem logHealth_twin (s : State) (e : HealthEntry) : (logHealth s e).twin = s.twin := by have k := congrArg State.twin (logHealth_frame s e); exact k
@[simp] theorem logHealth_sec (s : State) (e : HealthEntry) : (logHealth s e).sec = s.sec := by have k := congrArg State.sec (logHealth_frame s e); exact k
@[simp] theorem logHealth_banks (s : State) (e : HealthEntry) : (logHealth s e).banks = s.banks := by have k := congrArg State.banks (logHealth_frame s e); exact k

/-- Logging raises the sequence number by 1. -/
theorem logHealth_seq (s : State) (e : HealthEntry) : (logHealth s e).health.seq = s.health.seq + 1 := by
  unfold logHealth; dsimp only
  split
  · rw [State.raiseEvent_health]
    show (if _ then _ else _ : Health).seq = _
    split <;> rfl
  · show (if _ then _ else _ : Health).seq = _
    split <;> rfl

/-- Logging leaves the alert bit. -/
theorem logHealth_alert (s : State) (e : HealthEntry) : (logHealth s e).health.alert = s.health.alert := by
  unfold logHealth; dsimp only
  split
  · rw [State.raiseEvent_health]
    show (if _ then _ else _ : Health).alert = _
    split <;> rfl
  · show (if _ then _ else _ : Health).alert = _
    split <;> rfl

/-- The kept entries after a log entry. -/
theorem logHealth_last (s : State) (e : HealthEntry) :
    (logHealth s e).health.last = if 2 ≤ healthClass e.kind
      then (s.health.last ++ [{ e with cls := healthClass e.kind, seq := s.health.seq, tb := s.now }]).drop (s.health.last.length + 1 - 16) else s.health.last := by
  unfold logHealth; dsimp only
  split
  · rw [State.raiseEvent_health]
    show (if _ then _ else _ : Health).last = _
    split <;> rfl
  · show (if _ then _ else _ : Health).last = _
    split <;> rfl

/-! ### The scheduler and the codec with nothing to do -/

theorem sortBy_nil {α : Type} (le : α → α → Bool) : sortBy le [] = [] := rfl

/-- With no job the scheduler does nothing. -/
theorem askModels_idle (s : State) (h : s.sched.jobs = []) : askModels s = s := by unfold askModels; rw [h]; rfl

theorem runSched_idle (s : State) (h : s.sched.jobs = []) : runSched s = s := by
  have c : candidates s = [] := by unfold candidates; rw [h]; rfl
  have a : admitWaiting s = s := by unfold admitWaiting; rw [h]; rfl
  unfold runSched
  split
  · rfl
  · simp [a, startAll, c, askModels_idle s h]

theorem placeLanes_idle (s : State) (h : s.sched.jobs = []) : placeLanes s = s := by
  unfold placeLanes
  split
  · rfl
  · rw [h]; rfl

theorem feedLanes_idle (s : State) (h : s.sched.jobs = []) : feedLanes s = s := by unfold feedLanes; rw [h]; rfl

theorem goLanes_idle (s : State) (h : s.sched.jobs = []) : goLanes s = s := by
  unfold goLanes
  rw [feedLanes_idle s h]
  dsimp only
  rw [h]
  rfl

theorem schedule_idle (s : State) (h : s.sched.jobs = []) : schedule s = s := by
  unfold schedule; rw [placeLanes_idle s h, runSched_idle s h, goLanes_idle s h]

theorem grantStaging_idle (s : State) (h : s.sched.jobs = []) : grantStaging s = s := by unfold grantStaging; rw [h]; rfl
theorem giveEngines_idle (s : State) (h : s.sched.jobs = []) : giveEngines s = s := by
  have : engineWork s = [] := by unfold engineWork; rw [h]; rfl
  unfold giveEngines; rw [this]; rfl

theorem serveImages_idle (s : State) (h : s.sched.jobs = []) : serveImages s = s := by
  unfold serveImages; rw [grantStaging_idle s h, giveEngines_idle s h, schedule_idle s h]

theorem dropSaved_idle (s : State) (h : s.sched.jobs = []) : dropSaved s = s := by unfold dropSaved; rw [h]; rfl

end Sys2Proof.Machine
end

