-- ==== Sys2Proof/Laws/Sparse.lean ====
section
/-! SUPPORT. Laws of the sparse stores: read after write, writes to one key leave the others, and every operation keeps the
canonical form. -/

set_option Elab.async false

namespace Sys2Proof.Machine

open Sys2Proof

variable {α : Type} [DecidableEq α]

/-! ### The canonical form as a proposition -/

/-- Every listed key is above a bound. -/
def smAbove (b : Nat) (m : List (Nat × α)) : Prop := ∀ c ∈ m, b < c.1

omit [DecidableEq α] in
theorem smSorted_cons {k : Nat} {v : α} {m : List (Nat × α)} : smSorted ((k, v) :: m) = true ↔ smAbove k m ∧ smSorted m = true := by
  induction m generalizing k v with
  | nil => simp [smSorted, smAbove]
  | cons c m ih =>
    obtain ⟨l, w⟩ := c
    simp only [smSorted, Bool.and_eq_true, decide_eq_true_eq]
    constructor
    · rintro ⟨h, hs⟩
      refine ⟨?_, hs⟩
      intro c hc
      rcases List.mem_cons.1 hc with rfl | hc
      · exact h
      · exact lt_trans h ((ih.1 hs).1 c hc)
    · rintro ⟨h, hs⟩
      exact ⟨h (l, w) (by simp), hs⟩

theorem smWf_cons {d : α} {k : Nat} {v : α} {m : List (Nat × α)} :
    smWf d ((k, v) :: m) = true ↔ v ≠ d ∧ smAbove k m ∧ smWf d m = true := by
  simp only [smWf, Bool.and_eq_true, smSorted_cons, List.all_cons, decide_eq_true_eq]
  tauto

theorem smWf_nil (d : α) : smWf d [] = true := rfl

/-! ### Erasing and inserting -/

omit [DecidableEq α] in
theorem smAbove_erase {b : Nat} {m : List (Nat × α)} (h : smAbove b m) (x : Nat) : smAbove b (smErase m x) := by
  induction m with
  | nil => simpa [smErase] using h
  | cons c m ih =>
    obtain ⟨k, v⟩ := c
    have hm : smAbove b m := fun c hc => h c (List.mem_cons_of_mem _ hc)
    unfold smErase
    split
    · exact ih hm
    · intro c hc
      rcases List.mem_cons.1 hc with rfl | hc
      · exact h (k, v) (by simp)
      · exact ih hm c hc

omit [DecidableEq α] in
theorem smAbove_insert {b : Nat} {m : List (Nat × α)} (h : smAbove b m) {x : Nat} (hx : b < x) (w : α) : smAbove b (smInsert m x w) := by
  induction m with
  | nil => simpa [smInsert, smAbove] using hx
  | cons c m ih =>
    obtain ⟨k, v⟩ := c
    have hm : smAbove b m := fun c hc => h c (List.mem_cons_of_mem _ hc)
    have hk : b < k := h (k, v) (by simp)
    unfold smInsert
    split
    · intro c hc
      rcases List.mem_cons.1 hc with rfl | hc
      · exact hx
      · exact h c hc
    · split
      · intro c hc
        rcases List.mem_cons.1 hc with rfl | hc
        · exact hx
        · exact hm c hc
      · intro c hc
        rcases List.mem_cons.1 hc with rfl | hc
        · exact hk
        · exact ih hm c hc

/-- Erasing a key keeps the canonical form. -/
theorem smErase_wf {d : α} {m : List (Nat × α)} (h : smWf d m = true) (x : Nat) : smWf d (smErase m x) = true := by
  induction m with
  | nil => exact h
  | cons c m ih =>
    obtain ⟨k, v⟩ := c
    obtain ⟨hv, ha, hm⟩ := smWf_cons.1 h
    unfold smErase
    split
    · exact ih hm
    · exact smWf_cons.2 ⟨hv, smAbove_erase ha x, ih hm⟩

/-- Listing a value that differs from the unlisted one keeps the canonical form. -/
theorem smInsert_wf {d : α} {m : List (Nat × α)} (h : smWf d m = true) (x : Nat) {w : α} (hw : w ≠ d) :
    smWf d (smInsert m x w) = true := by
  induction m with
  | nil => simp [smInsert, smWf, smSorted, hw]
  | cons c m ih =>
    obtain ⟨k, v⟩ := c
    obtain ⟨hv, ha, hm⟩ := smWf_cons.1 h
    unfold smInsert
    split
    · rename_i hx
      refine smWf_cons.2 ⟨hw, ?_, h⟩
      intro c hc
      rcases List.mem_cons.1 hc with rfl | hc
      · exact hx
      · exact lt_trans hx (ha c hc)
    · split
      · rename_i hx
        subst hx
        exact smWf_cons.2 ⟨hw, ha, hm⟩
      · exact smWf_cons.2 ⟨hv, smAbove_insert ha (by omega) w, ih hm⟩

/-- A write keeps the canonical form. -/
theorem smSet_wf {d : α} {m : List (Nat × α)} (h : smWf d m = true) (k : Nat) (v : α) : smWf d (smSet d m k v) = true := by
  unfold smSet
  split
  · exact smErase_wf h k
  · rename_i hv
    exact smInsert_wf h k hv

/-- Writing a run keeps the canonical form. -/
theorem smSetList_wf {d : α} {m : List (Nat × α)} (h : smWf d m = true) (k : Nat) (vs : List α) : smWf d (smSetList d m k vs) = true := by
  induction vs generalizing m k with
  | nil => exact h
  | cons v vs ih => exact ih (smSet_wf h k v) (k + 1)

/-- Dropping keys keeps the canonical form. -/
theorem smFilter_wf {d : α} {m : List (Nat × α)} (h : smWf d m = true) (p : Nat × α → Bool) : smWf d (m.filter p) = true := by
  induction m with
  | nil => exact h
  | cons c m ih =>
    obtain ⟨k, v⟩ := c
    obtain ⟨hv, ha, hm⟩ := smWf_cons.1 h
    rw [List.filter_cons]
    split
    · exact smWf_cons.2 ⟨hv, fun c hc => ha c (List.mem_of_mem_filter hc), ih hm⟩
    · exact ih hm

/-- Two stores of which the first lies below the second join to one. -/
theorem smAppend_wf {d : α} {a b : List (Nat × α)} (ha : smWf d a = true) (hb : smWf d b = true) (h : ∀ x ∈ a, ∀ y ∈ b, x.1 < y.1) :
    smWf d (a ++ b) = true := by
  induction a with
  | nil => exact hb
  | cons c a ih =>
    obtain ⟨k, v⟩ := c
    obtain ⟨hv, hk, hm⟩ := smWf_cons.1 ha
    refine smWf_cons.2 ⟨hv, ?_, ih hm fun x hx y hy => h x (List.mem_cons_of_mem _ hx) y hy⟩
    intro c hc
    rcases List.mem_append.1 hc with hc | hc
    · exact hk c hc
    · exact h (k, v) (by simp) c hc

/-! ### Reading -/

omit [DecidableEq α] in
/-- A key above which everything lies is not listed. -/
theorem smFind_above {b x : Nat} {m : List (Nat × α)} (h : smAbove b m) (hx : x ≤ b) : smFind m x = none := by
  induction m with
  | nil => rfl
  | cons c m ih =>
    obtain ⟨k, v⟩ := c
    have hk : b < k := h (k, v) (by simp)
    unfold smFind
    rw [if_neg (by omega)]
    exact ih fun c hc => h c (List.mem_cons_of_mem _ hc)

omit [DecidableEq α] in
theorem smFind_insert (m : List (Nat × α)) (x : Nat) (w : α) (y : Nat) :
    smFind (smInsert m x w) y = if x = y then some w else smFind m y := by
  induction m with
  | nil => simp [smInsert, smFind]
  | cons c m ih =>
    obtain ⟨k, v⟩ := c
    unfold smInsert
    split
    · simp [smFind]
    · split
      · rename_i hx
        subst hx
        by_cases hy : x = y <;> simp [smFind, hy]
      · by_cases hy : k = y
        · subst hy
          simp [smFind, *]
        · simp [smFind, hy, ih]

omit [DecidableEq α] in
theorem smFind_erase (m : List (Nat × α)) (x y : Nat) :
    smFind (smErase m x) y = if x = y then none else smFind m y := by
  induction m with
  | nil => simp [smErase, smFind]
  | cons c m ih =>
    obtain ⟨k, v⟩ := c
    unfold smErase
    split
    · rename_i hk
      subst hk
      by_cases hy : k = y
      · subst hy
        simpa using ih
      · simp [smFind, hy, ih]
    · rename_i hk
      by_cases hy : k = y
      · subst hy
        simp [smFind, Ne.symm hk]
      · simp [smFind, hy, ih]

/-- Reading a key after a write. -/
theorem smGet_set (d : α) (m : List (Nat × α)) (x : Nat) (w : α) (y : Nat) :
    smGet d (smSet d m x w) y = if x = y then w else smGet d m y := by
  unfold smSet
  split
  · rename_i hw
    simp only [smGet, smFind_erase]
    by_cases hy : x = y <;> simp [hy, hw]
  · simp only [smGet, smFind_insert]
    by_cases hy : x = y <;> simp [hy]

/-- A write leaves every other key. -/
theorem smGet_set_ne (d : α) (m : List (Nat × α)) {x y : Nat} (hxy : x ≠ y) (w : α) :
    smGet d (smSet d m x w) y = smGet d m y := by
  rw [smGet_set, if_neg hxy]

/-- Writing a run leaves every key outside it. -/
theorem smGet_setList_out (d : α) (m : List (Nat × α)) (k : Nat) (vs : List α) {y : Nat}
    (hy : y < k ∨ k + vs.length ≤ y) : smGet d (smSetList d m k vs) y = smGet d m y := by
  induction vs generalizing m k with
  | nil => rfl
  | cons v vs ih =>
    simp only [List.length_cons] at hy
    unfold smSetList
    rw [ih _ (k + 1) (by omega), smGet_set_ne d m (by omega)]

/-- Reading a key of a run that was written. -/
theorem smGet_setList_in (d : α) (m : List (Nat × α)) (k : Nat) (vs : List α) (i : Nat) (hi : i < vs.length) :
    smGet d (smSetList d m k vs) (k + i) = vs[i] := by
  induction vs generalizing m k i with
  | nil => simp at hi
  | cons v vs ih =>
    unfold smSetList
    cases i with
    | zero => rw [smGet_setList_out _ _ _ _ (by omega), smGet_set]; simp
    | succ i =>
      have := ih (smSet d m k v) (k + 1) i (by simpa using hi)
      rw [show k + 1 + i = k + (i + 1) by omega] at this
      simpa using this

/-! ### The tile store's memory -/

/-- Writing bytes keeps the memory's canonical form. -/
theorem memWrite_wf {m : List Host.Cell} (h : Memory.wf m) (a : Nat) (bs : List Byte) : Memory.wf (memWrite m a bs) := smSetList_wf h a bs

/-- A byte outside the written ones reads as before. -/
theorem memByte_write_out (m : List Host.Cell) (a : Nat) (bs : List Byte) {y : Nat} (hy : y < a ∨ a + bs.length ≤ y) :
    memByte (memWrite m a bs) y = memByte m y := smGet_setList_out 0 m a bs hy

/-- A written byte reads as written. -/
theorem memByte_write_in (m : List Host.Cell) (a : Nat) (bs : List Byte) (i : Nat) (hi : i < bs.length) :
    memByte (memWrite m a bs) (a + i) = bs[i] := smGet_setList_in 0 m a bs i hi

/-- What was written is read back. -/
theorem memRead_write (m : List Host.Cell) (a : Nat) (bs : List Byte) : memRead (memWrite m a bs) a bs.length = bs := by
  apply List.ext_getElem
  · simp [memRead, smGetList]
  · intro i h1 h2
    simp only [memRead, smGetList, List.getElem_map, List.getElem_range]
    exact memByte_write_in m a bs i h2

/-- The memory right after reset is in its canonical form. -/
theorem reset_memory_wf : Memory.wf State.reset.store.mem := rfl

end Sys2Proof.Machine
end

