-- ==== Sys2Proof/Laws/Memory.lean ====
section
/-! SUPPORT. The operations that write the tile store: each keeps the memory's canonical form, and each leaves every byte outside those it writes. -/

set_option Elab.async false

namespace Sys2Proof.Machine

open Sys2Proof

/-- A fold of operations that each keep a property keeps it. -/
theorem foldl_keeps {α β : Type} (P : β → Prop) (f : β → α → β) (h : ∀ b a, P b → P (f b a)) (xs : List α) (b : β) (hb : P b) : P (xs.foldl f b) := by
  induction xs generalizing b with
  | nil => exact hb
  | cons x xs ih => exact ih _ (h _ _ hb)

/-! ### Writes of bytes (R126, R135) -/

/-- Writing inside one word writes its bytes or, over an uncorrectable word, none. -/
theorem writeWord_mem (s : State) (a : Nat) (bs : List Byte) :
    (writeWord s a bs).2.store.mem = s.store.mem ∨ (writeWord s a bs).2.store.mem = memWrite s.store.mem a bs := by
  unfold writeWord
  dsimp only
  split
  · exact .inl rfl
  · right
    split <;> split <;> split <;> rfl

/-- Writing inside one word keeps the canonical form. -/
theorem writeWord_wf (s : State) (a : Nat) (bs : List Byte) (h : Memory.wf s.store.mem) : Memory.wf (writeWord s a bs).2.store.mem := by
  rcases writeWord_mem s a bs with e | e <;> rw [e]
  · exact h
  · exact memWrite_wf h a bs

/-- Writing inside one word leaves every other byte. -/
theorem writeWord_out (s : State) (a : Nat) (bs : List Byte) {y : Nat} (hy : y < a ∨ a + bs.length ≤ y) :
    memByte (writeWord s a bs).2.store.mem y = memByte s.store.mem y := by
  rcases writeWord_mem s a bs with e | e <;> rw [e]
  exact memByte_write_out _ a bs hy

/-- A run of writes, wherever its words lie, keeps the canonical form. -/
theorem writeVia_wf (f : Nat → Option Nat) (s : State) (a : Nat) (bs : List Byte) (n : Nat) (h : Memory.wf s.store.mem) :
    Memory.wf (writeVia f s a bs n).2.store.mem := by
  induction n generalizing s a bs with
  | zero => exact h
  | succ n ih =>
    unfold writeVia
    split
    · exact h
    · dsimp only
      split
      · exact ih _ _ _ h
      · exact ih _ _ _ (writeWord_wf _ _ _ h)

/-- A run of writes to consecutive addresses leaves every byte outside it. -/
theorem writeVia_out (s : State) (a : Nat) (bs : List Byte) (n : Nat) {y : Nat} (hy : y < a ∨ a + bs.length ≤ y) :
    memByte (writeVia some s a bs n).2.store.mem y = memByte s.store.mem y := by
  induction n generalizing s a bs with
  | zero => rfl
  | succ n ih =>
    unfold writeVia
    split
    · rfl
    · dsimp only
      by_cases hn : bs.length ≤ 32 - a % 32
      · rw [List.drop_eq_nil_of_le hn, List.take_of_length_le hn]
        have e : (writeVia some (writeWord s a bs).2 (a + (32 - a % 32)) [] n).2 = (writeWord s a bs).2 := by
          cases n <;> simp [writeVia]
        rw [e]
        exact writeWord_out s a bs hy
      · rw [ih _ _ _ (by simp only [List.length_drop]; omega), writeWord_out _ _ _ (by simp only [List.length_take]; omega)]

/-- Writing bytes keeps the canonical form, and leaves every byte outside them. -/
theorem writeBytes_wf (s : State) (a : Nat) (bs : List Byte) (h : Memory.wf s.store.mem) : Memory.wf (writeBytes s a bs).2.store.mem := writeVia_wf _ s a bs _ h
theorem writeBytes_out (s : State) (a : Nat) (bs : List Byte) {y : Nat} (hy : y < a ∨ a + bs.length ≤ y) :
    memByte (writeBytes s a bs).2.store.mem y = memByte s.store.mem y := writeVia_out s a bs _ hy

/-! ### Rows, models, spares, saved state -/

/-- Zeroing rows (R144), a spare that takes a tile's place (R418, R422), and the darn of a row keep the canonical form. -/
theorem zeroRows_wf (s : State) (ts : List Nat) (base count : Nat) (h : Memory.wf s.store.mem) : Memory.wf (zeroRows s ts base count).store.mem := smFilter_wf h _
theorem zeroBank_wf (s : State) (tile bank row : Nat) (h : Memory.wf s.store.mem) : Memory.wf (zeroBank s tile bank row).store.mem := smFilter_wf h _
theorem spareStore_wf (s : State) (t : Nat) (keep : Nat → Bool) (h : Memory.wf s.store.mem) : Memory.wf (spareStore s t keep).mem := smFilter_wf h _

/-- Setting cells one by one keeps the canonical form. -/
theorem setCells_wf (cs : List Host.Cell) (m : List Host.Cell) (h : Memory.wf m) : Memory.wf (cs.foldl (fun m c => smSet (0 : Byte) m c.1 c.2) m) :=
  foldl_keeps (fun m => Memory.wf m) _ (fun _ _ hb => smSet_wf hb _ _) cs m h

/-- A fold of runs of writes keeps the canonical form. -/
theorem writes_wf {α : Type} (f : State → α → State) (hf : ∀ s x, Memory.wf s.store.mem → Memory.wf (f s x).store.mem) (xs : List α) (s : State)
    (h : Memory.wf s.store.mem) : Memory.wf (xs.foldl f s).store.mem := foldl_keeps (fun t : State => Memory.wf t.store.mem) f hf xs s h

/-- Writing a model into its ways (R270), a plan's slot programs (R238) and its tables (R142) keeps the canonical form. -/
theorem writeModel_wf (s : State) (low : Lowering) (ways : List Nat) (on : Nat → Bool) (h : Memory.wf s.store.mem) : Memory.wf (writeModel s low ways on).store.mem :=
  writes_wf _ (fun _ _ hb => writeVia_wf _ _ _ _ _ hb) low.image s h
theorem writePrograms_wf (s : State) (low : Lowering) (on : Nat → Bool) (h : Memory.wf s.store.mem) : Memory.wf (writePrograms s low on).store.mem :=
  writes_wf _ (fun _ _ hb => writes_wf _ (fun _ _ hb => writeVia_wf _ _ _ _ _ hb) _ _ hb) _ s h
theorem writeTables_wf (s : State) (low : Lowering) (on : Nat → Bool) (h : Memory.wf s.store.mem) : Memory.wf (writeTables s low on).store.mem :=
  writes_wf _ (fun _ _ hb => writeVia_wf _ _ _ _ _ hb) low.tables s h

/-- A restored job's cells keep the canonical form (R265). -/
theorem restoreCells_wf (f : List Host.Cell → Host.Cell → List Host.Cell) (hf : ∀ m c, f m c = m ∨ ∃ a, f m c = smSet (0 : Byte) m a c.2)
    (cs : List Host.Cell) (m : List Host.Cell) (h : Memory.wf m) : Memory.wf (cs.foldl f m) := by
  refine foldl_keeps (fun m => Memory.wf m) f (fun b c hb => ?_) cs m h
  rcases hf b c with e | ⟨a, e⟩ <;> rw [e]
  · exact hb
  · exact smSet_wf hb a c.2

/-- Bring-up zeroes the tile store (Table 18-7): the empty memory is canonical. -/
theorem empty_memory_wf : Memory.wf ([] : List Host.Cell) := rfl

end Sys2Proof.Machine
end

