-- ==== Sys2Proof/Laws/Tiles.lean ====
section
/-! SUPPORT. When a side's tiles can be reserved (R77, R79): the pick succeeds exactly when enough tiles may be reserved. -/

set_option Elab.async false

namespace Sys2Proof.Machine

theorem insertBy_length {α : Type} (le : α → α → Bool) (x : α) (xs : List α) : (insertBy le x xs).length = xs.length + 1 := by
  induction xs with
  | nil => rfl
  | cons y ys ih => unfold insertBy; split <;> simp [ih]

theorem sortBy_length {α : Type} (le : α → α → Bool) (xs : List α) : (sortBy le xs).length = xs.length := by
  suffices h : ∀ acc : List α, (xs.foldl (fun acc x => insertBy le x acc) acc).length = acc.length + xs.length by simpa [sortBy] using h []
  induction xs with
  | nil => simp
  | cons y ys ih => intro acc; simp [ih, insertBy_length]; omega

theorem pickReserved_isSome (s : State) (p : Port) (n : Nat) :
    (pickReserved s p n).isSome = decide (n ≤ ((List.range 256).filter (mayReserve s)).length) := by
  unfold pickReserved
  simp only [sortBy_length]
  split <;> simp <;> omega

theorem reserveTiles_isSome (s : State) (p : Port) (n : Nat) :
    (reserveTiles s p n).isSome = decide (n ≤ ((List.range 256).filter (mayReserve s)).length) := by
  rw [reserveTiles, Option.isSome_map, pickReserved_isSome]

theorem moveReservation_isSome (s : State) (p : Port) :
    (moveReservation s p).isSome = decide ((s.lp p).reserved.length ≤ ((List.range 256).filter (mayReserve (releaseTiles s p))).length) :=
  reserveTiles_isSome _ _ _

theorem reserveAll_one (s : State) (p : Port) (c : PortCfg) :
    (reserveAll s [(p, c)]).isSome = decide (1 + pressTiles p c ≤ ((List.range 256).filter (mayReserve s)).length) := by
  rw [← reserveTiles_isSome]
  cases h : reserveTiles s p (1 + pressTiles p c) <;> simp [reserveAll, h]

end Sys2Proof.Machine
end

