-- ==== Sys2Proof/Tests/Slice0.lean ====
section
/-! SUPPORT. The model's own tests: commands that are not well formed are refused, states that meet the hypotheses of the statements, and single steps checked by hand
from the spec. -/

set_option Elab.async false

namespace Sys2Proof.Tests

open Sys2Proof Sys2Proof.Machine

/-! ### Small states -/

/-- A module at a bring-up stage with its clocks running. -/
def atStage (n : Nat) : State :=
  { State.reset with boot := { State.reset.boot with stage := n }, clk := { State.reset.clk with running := true, timeBase := 5600 } }

/-- Pair 0 of the PF. -/
def pair0 : RingId := { fn := 0, pair := 0 }

/-- The same state with pair 0 of the PF changed. -/
def withPair (s : State) (g : RingPair → RingPair) : State := s.modRing (s.ref pair0) g

/-- A module in service whose PF has pair 0 enabled and the pegs 512 to 527. -/
def live : State := withPair ((atStage 6).modFn 0 fun f => { f with pegBase := 512, pegCount := 16 }) fun x => { x with enable := true }

/-- A plain header, and one with completion peg 512. -/
def hdr0 : Hdr := { irq := false, fence := false, peg := false, complPeg := 0, tag := 7 }
def hdrPeg : Hdr := { irq := true, fence := false, peg := true, complPeg := 512, tag := 9 }

/-- An image that qualifies for boot. -/
def image3 : FlashImage :=
  { magicOk := true, version := 3, floorReq := 2, length := 1000, leastChip := 1, sigOk := true, bodyOk := true, digest := zeros 32, regionDigest := zeros 32 }

/-- The ROM's facts without straps. -/
def facts : RomFacts := { mpOctal := true, recoveryStrap := false, flashSingle := false, pufOk := true }

/-- S1 with one image in slot A. -/
def romReady : State := { atStage 1 with sec := { Sec.reset with flash := { (default : Flash) with slotA := some image3 } } }

/-- On the auxiliary input; in the hold-up; tripped. -/
def onAux : State := { atStage 6 with pwr := { State.reset.pwr with mainOk := false, onAux := true } }
def holding : State := { atStage 6 with pwr := { State.reset.pwr with mainOk := false, auxOk := false, holdUp := true } }
def tripped : State := { atStage 0 with pwr := { State.reset.pwr with held := .thermal } }
def nearTrip : State := { atStage 6 with pwr := { State.reset.pwr with tripRun := [0, 0, 1, 0, 0, 0, 0, 0, 0, 0, 0, 0, 0] } }

/-- The tile store with a correctable and an uncorrectable word, and a row due for a darn. -/
def marked : State := { atStage 6 with store := { TileStore.reset with marks := [(wordKey (tsAddr 0 3 0 0), 1), (wordKey (tsAddr 0 4 0 0), 2)], due := [(bankKey 0 0, 4)] } }

/-- A module whose tile 5 waits for its reload, and one whose lint sweeps are late. -/
def reloading : State := (atStage 6).modTile 5 fun x => { x with reload := true }
def lateSweeps : State := { atStage 6 with clk := { State.reset.clk with running := true, timeBase := 4000000000000 } }

/-- Region 1 drained, failed and tested again; region 2 draining. -/
def drained : State :=
  ((atStage 6).modRegion 1 fun x => { x with state := 2, failed := true, test3 := true }).modRegion 2 fun x => { x with state := 1 }

/-- VF 3 enabled with the pegs 600 to 607 and a record ring. -/
def withVf : State :=
  live.modFn 3 fun f => { f with enabled := true, pegBase := 600, pegCount := 8, recEnable := true, masked := [] }

/-- A pair with a descriptor announced, with an unsignalled completion under a moderation time of 5 ns, and a doorbell line under way. -/
def announcing : State := withPair live fun x => { x with sqTail := 1 }
def unsignalled : State :=
  { (withPair live fun x => { x with unsignalled := 1, firstUnsig := some 100 }) with regs := [(regKey 0 0x2020, 5 * 4096)], clk := { State.reset.clk with timeBase := 5600 } }
def lineComing : State := (atStage 6).modFn 0 fun f => { f with lineRead := true }

/-- One committed post of the PF, whose record ring is enabled or not. -/
def post0 : Post := { fn := 0, feed := false, piece := 0, track := 0, done := none, record := [1, 2, 3], images := [], fold := none }
def posting : State := { (atStage 6).modFn 0 fun f => { f with recEnable := true } with basket := { State.reset.basket with committed := [post0] } }
def postingOff : State := { atStage 6 with basket := { State.reset.basket with committed := [post0] } }
def postingFull : State :=
  { (atStage 6).modFn 0 fun f => { f with recEnable := true, recTail := 0x1000000 } with basket := { State.reset.basket with committed := [post0] } }

/-- A plan of the PF with number 1: a paged decoder of one layer, a FEED plan, a tailored one. -/
def cont1 : Container :=
  { (default : Container) with feed := true, concurrency := 4, stages := [{ kind := 6, seam := 0, first := 0, last := 0, input := 0 }],
                               opers := [{ kind := 0x11, stage := 0, ins := [], outs := [], params := [0, 0, 0, 0, 64, 1, 0, 0, 0, 0] }] }
def plan1 : PlanRec :=
  { (default : PlanRec) with handle := 1, fn := 0, main := 1, c := cont1, op := { (default : PlanLoadOp) with rate := 64000, width := 16384, offset := 64 }, skewK := 4096, ready := true }
def planned : State :=
  { live with plans := { live.plans with loaded := [plan1], nextHandle := 2 }, tailor := { masters := [(1, [])], cache := [], steps := [] } }

/-- A sequence of plan 1 with one page, and an edit of it. -/
def seq1 : SeqSt := { (default : SeqSt) with id := 1, fn := 0, plan := 1, state := .waiting, len := 16, entries := [(0, .present 3 false)] }
def sequenced : State := { planned with pool := { State.reset.pool with seqs := [seq1], refs := [(3, 1)] } }
def edit (kind : Nat) : PtEditOp := { plan := 1, seq := 1, kind := kind, layer := 0, page := 0, srcSeq := 0, srcPage := 0 }

/-- A fold open on pair 0, and one at its commit point. -/
def fold0 : FoldSt := { id := 0, openHdr := hdr0, members := [], failed := none, closeHdr := none, hostAbort := false, committed := false }
def folding : State := withPair live fun x => { x with fold := some fold0, running := [(7, some 0)], nextFold := 1 }
def committing (f : FoldSt) : State :=
  { (withPair live fun x => { x with closed := [{ f with closeHdr := some hdrPeg }], nextFold := 1 }) with commitQ := [(1400, .host (live.ref pair0) 0)] }

/-- A PEG_WAIT of pair 0 that stands. -/
def wait0 : PegWaitSt := { r := live.ref pair0, hdr := hdr0, peg := 513, target := 6, deadline := some 5600 }
def waiting : State := { (withPair live fun x => { x with pegWait := true, sqHead := 1, sqTail := 1, running := [(7, none)] }) with pegs := { val := [(513, 5)], later := [], waits := [wait0] } }

/-- Counter banks with a SNAPSHOT each, one taken. -/
def join0 : SnapJoin := { r := live.ref pair0, hdr := hdr0, op := { T := 9000, addr := 64, len := 4096, mask := 16 } }
def bank0 : Bank := { T := 9000, joins := [join0], taken := false, shadow := [], acct := [] }
def banked : State := { live with banks := #v[some bank0, some { bank0 with taken := true, acct := State.reset.sched.acct.toList }] }

/-- The twin link up with a window at both ends. -/
def window0 : Window := { target := 0, access := 1, base := 4096, len := 8192 }
def linked : State :=
  { live with twin := { State.reset.twin with linkUp := true, rxSeq := some 4, txSeq := 8, windows := [(0, window0)], partner := [(0, 1, 65536)], partnerCount := 1 } }

/-- Track A armed with a piece, without a pending SCAN_DISARM. -/
def pieceZ : Piece := { (default : Piece) with num := 0, edgePos := 100, edgeLine := 10 }
def trackOn : State :=
  (live.modTrack .A fun x => { x with armed := true, front := some 0, plan := 1, pieces := [pieceZ], hold := { x.hold with disarm := false } }).modPort 0 fun x => { x with armed := true }

/-- Everything that a SCAN_ARM of track A's front asks for. -/
def armable : State :=
  { ((planned.modPort 0 fun x => { x with calKey := some (8192, false), inUse := some default }).modPort 2 fun x =>
      { x with calKey := some (8192, false), inUse := some default }) with
    regs := [(regKey 0 0x10440, 1000)] }

/-- Variants: a rate request of track A; rails down; fenced; a clock loss held; an auxiliary input good; power back in the hold-up; every region failed; the health log enabled; a
measured log; the debug port open. -/
def rated : State := (atStage 6).modTrack .A fun x => { x with rateReq := true }
def railsDown : State := { live with pwr := { live.pwr with rails := false } }
def fencedOff : State := { live with twin := { live.twin with fenced := true } }
def clockLost : State := { live with pwr := { live.pwr with held := .clockLoss } }
def auxGood : State := { live with pwr := { live.pwr with auxOk := true } }
def powerBack : State := { holding with pwr := { holding.pwr with auxOk := true } }
def noRegions : State := { atStage 5 with regions := Vector.replicate 8 { State.reset.reg8 0 with failed := true } }
def logging : State := { live with health := { live.health with logEnable := true } }
def measured : State := { atStage 1 with sec := { Sec.reset with logCount := 3 } }
def debugging : State := { State.reset with sec := { Sec.reset with blob := { Blob.default with debugOpen := true } } }

/-- A set-up transfer under way; a grant base of 512 for VF 3; vector 0 unmasked; peg 513 at 5; a commit of a fold that its ring no longer has. -/
def busBusy : State := live.modPort 0 fun x => { x with suBusy := true }
def granting : State := { atStage 6 with regs := [(regKey 0 0x300C, 512)] }
def vectorOpen : State := unsignalled.modFn 0 fun f => { f with masked := [] }
def pegged : State := { live with pegs := { val := [(513, 5)], later := [], waits := [] } }
def foldGone : State := { live with commitQ := [(1400, .host (live.ref pair0) 5)] }

/-- Operands of an IMAGE_READ of 64 × 64 raw pixels with its parameter block, of a SEQ_STEP that opens a sequence, of a TAILOR_STEP of one sample; a pinned page; an armed track under a plan. -/
def image64 : ImageReadOp := { (default : ImageReadOp) with plan := 1, width := 64, height := 64, comps := 1, bits := 8, inLen := 4096, pbAddr := 64, pbLen := 64 }
def block64 : List Byte := zeros 56 ++ leBytes 4 64 ++ leBytes 4 64
def step1 : SeqStepOp := { (default : SeqStepOp) with plan := 1, flags := 1 }
def tailorOp : TailorStepOp := { (default : TailorStepOp) with plan := 1, count := 1, listLen := 96, step := 0x3F800000 }
def pinnedPage : State := { planned with pool := { State.reset.pool with seqs := [{ seq1 with entries := [(0, .present 3 true)] }], refs := [(3, 1)] } }
def alreadyArmed : State := { armable with trackA := { armable.trackA with armed := true } }

/-- A wardrobe of 1,024 rows. -/
def wardrobe1024 : State := { live with regs := [(regKey 0 0x2200C, 1024)] }

/-! ### Trust, twin -/

/-- Flash with an image in both slots and the first tree's certificate; VF 3 waiting for a quote into a buffer; the same before the tree is rebuilt; an update under way; a staged image
with region 1 drained. -/
def flash1 : Flash := { (default : Flash) with slotA := some image3, slotB := some { image3 with version := 4 }, certs := [(0, 0)] }
def quoting (n : Nat) : State :=
  { live.modFn 3 fun f => { f with enabled := true, quote := { busy := true, result := 0 } } with
    regs := [(regKey 3 0x40048, n)], sec := { live.sec with rebuilt := true, block := some 0, leaf := 5, flash := flash1 } }
def noTree : State := { quoting 8768 with sec := { (quoting 8768).sec with rebuilt := false } }
def updating (blob : Bool) : State := { live with sec := { live.sec with updBusy := true, updBlob := blob } }
def applying : State :=
  { drained with sec := { live.sec with flash := flash1, version := 3, staged := some image3, blob := { live.sec.blob with regionUpdate := true } } }

/-- The link up with the twin enabled: its PAIR sent; paired as the standby after two misses; paired as the active; active without a partner; a transfer out; four resends without
progress. A fence input that stands, and a track that is free to run. -/
def twinned (g : Twin → Twin) : State := { linked with regs := [(regKey 0 0x31000, 1)], twin := g linked.twin }
def ready1 : HeartbeatP := { (default : HeartbeatP) with readyA := true, readyB := true }
def pairing : State := twinned fun x => { x with state := .standby, pairSent := true }
def paired : State := twinned fun x => { x with state := .standby, paired := true, misses := 2, beat := some ready1 }
def active : State := twinned fun x => { x with state := .active, paired := true, beat := some ready1 }
def unpaired : State := twinned fun x => { x with state := .active }
def sending : State := twinned fun x => { x with xfers := [⟨2, live.ref pair0, hdr0⟩] }
def resending : State := twinned fun x => { x with unacked := [(6, [1])], resends := 4 }
def fenceStands : State := { live with twin := { live.twin with fenceIn := true, fenced := true } }
def releasing : State := live.modTrack .A fun x => { x with hold := { x.hold with disarm := false } }
def edgeAgain : State := live.modTrack .A fun x => { x with armed := true, front := some 0, restart := some { N := 5, released := true, drop := 0 }, edges := [0], divN := 1 }

/-! ### Lines and pieces -/

/-- A line packet of two samples (Table 02-4). -/
def packet (num col port : Nat) (good : Bool) : List Byte :=
  let body := leBytes 4 (num + col * 2 ^ 24 + port * 2 ^ 28) ++ leBytes 4 1 ++ leBytes 3 (100 + 200 * 4096)
  [0xB8, 0x47, 0x1D, 0xE2] ++ body ++ leBytes 4 ((crc32 body).toNat + (if good then 0 else 1))

/-- Port 0, two samples wide, on one lane; a piece is lost 4 lines after its edge, ends after 10 lines without paper and may be 100 lines long. -/
def cfg2 : PortCfg := { (default : PortCfg) with width := 2, lanes := 1, leadWin := 4, lmax := 100, trail := 10, laneRate := 0 }

/-- Track A armed with port 0, locked, after a trigger, in a restart whose check window ends with line 5. -/
def receiving : State :=
  (live.modTrack .A fun x => { x with armed := true, front := some 0, plan := 1, hold := { x.hold with disarm := false }, restart := some { N := 5, released := true, drop := 0 } }).modPort 0
    fun x => { x with armed := true, locked := true, cfg := cfg2, trigs := [{ num := 1, line := 1, sub := 0, got := [] }] }

/-- The same with a check window captured that matches what the line window holds. -/
def matching : State := receiving.modPort 0 fun x =>
  { x with check := (List.range 16).flatMap fun i => (List.range 3).map fun c => { pos := (i : Int) - 10, col := c, lost := false, raw := [100, 200], fe := 0 },
           inUse := some default, window := (List.range 16).map fun i => { (default : RegLine) with pos := (i : Int) - 10, data := [[0, 0], [0, 0], [0, 0]] } }
def mismatched : State := matching.modPort 0 fun x => { x with window := [] }

/-- A sub-line trigger due, a calibration under way, and one with every trigger issued. -/
def sublineDue : State := (receiving.modTrack .A fun x => { x with subDue := [(6000, 1, 1)] }).modPort 0 fun x => { x with cfg := { cfg2 with switched := true } }
def calibrating (n : Nat) : State := live.modPort 0 fun x =>
  { x with cal := some { r := live.ref pair0, hdr := hdr0, op := { port := 0, addr := 64, len := 100000000 }, switched := false, issued := n, darkN := [], darkSum := [], lampN := [],
                         lampSum := [] } }

/-- A registered line of port 1 on the back, and one of port 0 in the store. -/
def line3 : RegLine := { (default : RegLine) with pos := 3, lost := [false, false, false], data := [[1, 2], [1, 2], [1, 2]] }
def lined : State :=
  (live.modPort 1 fun x => { x with armed := true, cfg := { cfg2 with side := .back, track := .B }, regQ := [line3] }).modPort 0 fun x =>
    { x with cfg := cfg2, storeQ := [line3] }

/-- A piece past its leading window, past its greatest length, and at its trailing edge. -/
def trackWith (y : Piece) : State :=
  ((live.modTrack .A fun x => { x with armed := true, front := some 0, plan := 1, pieces := [y], frontPos := 200, hold := { x.hold with disarm := false } }).modPort 0 fun x =>
    { x with armed := true, cfg := cfg2 })
def noEdge : State := trackWith { pieceZ with line0 := none }
def tooLong : State := trackWith { pieceZ with line0 := some 20 }
def ending : State := trackWith { pieceZ with line0 := some 190, blank := 10, lastPaper := 60 }

/-- A set of coefficients built in the gap; reserved tile 5 of region 0 draining, at a page boundary; a SCAN_DISARM that waits for nothing, for a piece. -/
def built : State := live.modPort 0 fun x => { x with building := some default }
def moving : State :=
  ((live.modTrack .A fun x => { x with armed := true, front := some 0, plan := 1 }).modPort 0 fun x => { x with armed := true, reserved := [(5, 0)] }).modRegion 0
    fun x => { x with state := 1 }
def disarming (ns : List Nat) (held : Bool) : State :=
  (trackWith { pieceZ with line0 := some 190 }).modTrack .A fun x => { x with disarm := some ([(live.ref pair0, hdr0)], ns), hold := { x.hold with disarm := held } }

/-! ### Jobs -/

/-- A running job on tile 5 of region 0, and a module that runs it; the same job done; a step job of plan 1. -/
def lane5 (st : LaneState) : Lane := { (default : Lane) with tiles := [5], state := st }
def job1 : Job := { (default : Job) with id := 1, fn := 0, ring := some (live.ref pair0), hdr := hdr0, opcode := 0x70, cls := 3, kind := .test ⟨1, 5, 0, 0, 0⟩,
                                         state := .running, started := true, ctx := some 0, lanes := [lane5 .run] }
def pairs1 : CtxPairs := { job := 1, stripe := 0, region := 0, sShift := 0, sBase := 0, sCount := 0, wShift := 0, wBase := 0, wCount := 0, wWays := [], wRows := 0 }
def withJob (s : State) (j : Job) : State :=
  { s with sched := { s.sched with jobs := [j], contexts := [(0, pairs1)], nextId := 2 } }
def running : State := withJob live job1
def finished : State := withJob live { job1 with state := .done }
def stepJob1 : Job := { job1 with plan := 1, kind := .step }
def seg1 (last : Bool) : SegWork := { (default : SegWork) with job := 1, last := last }

/-- A segment in which a cell faults. -/
def segBad : SegWork := { seg1 false with faults := [default] }

/-- A save and a restore under way. -/
def savingJob : Job := { job1 with victim := true, lanes := [lane5 .saving] }
def saving : State := withJob live savingJob
def restoring : State := withJob live { job1 with lanes := [lane5 .restoring] }

/-- A hem and a far read under way. -/
def transfer1 (id : Nat) (hem : Bool) : Transfer := { (default : Transfer) with id := id, hem := hem, job := 1, bytes := some [1, 2] }
def moved : State := { running with transfers := [transfer1 1 true, transfer1 2 false] }

/-- A container with one stage, and one with a companion of 32 bytes of weights (Tables 09-1 to 09-4). -/
def container (flags : Nat) (extra : List (Nat × List Byte)) : List Byte :=
  let first := 4 + (3 + extra.length) / 2
  let offs := extra.foldl (fun (a : List Byte × Nat) e => (a.1 ++ leBytes 4 e.1 ++ leBytes 4 a.2 ++ leBytes 8 (e.2.length / 32), a.2 + e.2.length / 32)) ([], first)
  let head := [0x59, 0x42, 0x58, 0x50] ++ leBytes 2 1 ++ leBytes 2 0 ++ leBytes 8 (32 * offs.2) ++ leBytes 2 (3 + extra.length) ++ leBytes 2 flags ++ [1] ++ zeros 11
  let table := leBytes 4 1 ++ leBytes 4 (first - 1) ++ leBytes 8 1 ++ leBytes 4 2 ++ leBytes 4 first ++ leBytes 8 0 ++ leBytes 4 3 ++ leBytes 4 first ++ leBytes 8 0 ++ offs.1
  let tail := table ++ zeros (32 * (first - 1) - 64 - table.length) ++ [6] ++ zeros 31 ++ extra.flatMap (·.2)
  head ++ digest32 (head ++ tail) ++ tail
def alone : List Byte := container 0 []
def withComp : List Byte := container 2 [(9, container 8 [(4, zeros 32)])]
def loadOp (b : List Byte) : PlanLoadOp := { (default : PlanLoadOp) with len := b.length, repLen := 288, allotment := 4096 }
def readyToLoad (b : List Byte) : State :=
  { live with plans := { live.plans with grant := 4096, loadQ := [(live.ref pair0, hdr0, loadOp b)] },
              sched := { live.sched with jobs := [{ (default : Job) with id := 1, plan := 9, state := .running, started := true }],
                                         models := [{ plan := 9, revision := 0, ways := List.range 16, pinned := false, useTime := 0 }] } }

/-- A plan that lowers with nothing to place. -/
def plan2 : PlanRec := { plan1 with c := { (default : Container) with concurrency := 1 } }
def relowerable : State := { planned with plans := { planned.plans with loaded := [plan2], relowerQ := [1] } }

/-- A PLAN_LOAD read; a relowering to do; an unload to finish; a wardrobe load. -/
def loading : State := { live with plans := { live.plans with loadQ := [(live.ref pair0, hdr0, { (default : PlanLoadOp) with repLen := 128 })] } }
def relowering : State := { planned with plans := { planned.plans with relowerQ := [1] } }
def relowerGone : State := { live with plans := { live.plans with relowerQ := [1] } }
def unloading : State := { planned with plans := { planned.plans with loaded := [{ plan1 with unload := some (live.ref pair0, hdr0) }] } }
def unloadingUsed : State := withJob unloading { job1 with plan := 1 }
def wardrobeLoading : State := { planned with sched := { planned.sched with loads := [{ plan := 1, revision := 0, feed := false, pin := none }] } }

/-- The load that waits in it, and the same with the model in the wardrobe. -/
def load1 : LoadReq := { plan := 1, revision := 0, feed := false, pin := none }
def wardrobeLoaded : State :=
  { wardrobeLoading with sched := { wardrobeLoading.sched with models := [{ plan := 1, revision := 0, ways := [], pinned := false, useTime := 0 }] } }

/-- A batch step that runs. -/
def stepping : State := withJob planned stepJob1

/-- Engine 0 decodes or encodes for a job that has gone, decodes for an image job, encodes for port 0. -/
def engined (e : Engine) : State := { live with engines := live.engines.set 0 e }
def decoding : State := { withJob live { job1 with kind := .image default (zeros 64) } with engines := live.engines.set 0 (.decode 1 0) }

/-- A tailoring step that has made its update, and one that has not. -/
def tailor1 : TailorSt := { (default : TailorSt) with job := 1, plan := 1, updated := true }
def tailoring (b : Bool) : State :=
  { withJob planned { job1 with kind := .tailor default [] } with tailor := { planned.tailor with steps := [{ tailor1 with updated := b }] } }

/-- A dictionary load under way, and a plan that uses the dictionary. -/
def tailorable : State :=
  { withJob relowerable { job1 with kind := .tailor default [] } with tailor := { masters := [(1, [])], cache := [], steps := [tailor1] } }
def dictBusy : State := { live with dict := { live.dict with busy := true } }
def dictUsed : State := { planned with plans := { planned.plans with loaded := [{ plan1 with c := { cont1 with dict := some default } }] } }

/-! ### Commands that are not well formed are refused -/

/-- A header whose peg does not fit 16 bits, on every descriptor command. -/
def hdrBad : Hdr := { hdr0 with complPeg := 65536 }
theorem test_wf_headers : [Instr.nop pair0 hdrBad, .foldOpen pair0 hdrBad, .scanArm pair0 hdrBad default, .scanDisarm pair0 hdrBad 0, .calRun pair0 hdrBad default,
    .imageRead pair0 hdrBad default [], .seqStep pair0 hdrBad default [], .tailorStep pair0 hdrBad default [], .planLoad pair0 hdrBad default, .planUnload pair0 hdrBad 0,
    .wardrobePin pair0 hdrBad default, .ptEdit pair0 hdrBad default, .pegWait pair0 hdrBad default, .pegSignal pair0 hdrBad default, .foldClose pair0 hdrBad 0,
    .snapshot pair0 hdrBad default, .windowOpen pair0 hdrBad default, .windowClose pair0 hdrBad 0, .twinDma pair0 hdrBad default [], .testRun pair0 hdrBad default].all (fun c => !c.wf) = true := by decide

/-- Operands one past their field (Table 11-5). -/
theorem test_wf_operands : [Instr.scanArm pair0 hdr0 ⟨256, 0, 0⟩, .scanArm pair0 hdr0 ⟨0, 256, 0⟩, .scanArm pair0 hdr0 ⟨0, 0, 2 ^ 32⟩, .scanDisarm pair0 hdr0 256, .calRun pair0 hdr0 ⟨256, 0, 0⟩,
    .calRun pair0 hdr0 ⟨0, 2 ^ 64, 0⟩, .calRun pair0 hdr0 ⟨0, 0, 2 ^ 32⟩, .planUnload pair0 hdr0 (2 ^ 32), .wardrobePin pair0 hdr0 ⟨2 ^ 32, 0⟩, .wardrobePin pair0 hdr0 ⟨0, 256⟩,
    .pegWait pair0 hdr0 ⟨65536, 0, 0⟩, .pegWait pair0 hdr0 ⟨0, 0, 2 ^ 32⟩, .pegSignal pair0 hdr0 ⟨65536, 0, 0⟩, .pegSignal pair0 hdr0 ⟨0, 256, 0⟩, .foldClose pair0 hdr0 256,
    .windowClose pair0 hdr0 256, .snapshot pair0 hdr0 ⟨2 ^ 64, 0, 0, 0⟩, .snapshot pair0 hdr0 ⟨0, 0, 0, 2 ^ 32⟩, .windowOpen pair0 hdr0 ⟨256, 0, 0, 0, 0⟩, .windowOpen pair0 hdr0 ⟨0, 0, 0, 0, 2 ^ 64⟩,
    .twinDma pair0 hdr0 ⟨0, 256, 0, 0, 0⟩ [], .twinDma pair0 hdr0 ⟨0, 0, 0, 0, 2 ^ 64⟩ [], .testRun pair0 hdr0 ⟨65536, 0, 0, 0, 0⟩, .testRun pair0 hdr0 ⟨0, 0, 2 ^ 32, 0, 0⟩,
    .imageRead pair0 hdr0 { (default : ImageReadOp) with comps := 256 } [], .seqStep pair0 hdr0 { (default : SeqStepOp) with flags := 65536 } [],
    .tailorStep pair0 hdr0 { (default : TailorStepOp) with count := 65536 } [], .planLoad pair0 hdr0 { (default : PlanLoadOp) with width := 65536 },
    .ptEdit pair0 hdr0 { (default : PtEditOp) with kind := 256 }].all (fun c => !c.wf) = true := by decide +kernel

/-- Places, lengths and sizes out of range. -/
theorem test_wf_places : [Instr.linePacket 0 (List.replicate 7 []), .segmentBoundary { (default : SegWork) with dram := [(32, 0)] }, .seqWatchdogExpiry 1 256, .endMarkMissing 1 256, .spareReloadDone 256,
    .lintOverdue 256, .lintUnit 256 .spare false false, .scrubRead 256 0 0, .scrubRead 0 32 0, .fieldDarn 0 0 1568, .doorbellLineArrived 0 (zeros 63) 0 0,
    .descriptorFetched pair0 (zeros 65) [], .thermalSample [] 50 [50, 50, 50, 50], .thermalSample (List.replicate 8 [50]) 50 [50, 50, 50, 50],
    .thermalSample (List.replicate 8 [50, 50, 50, 50]) 50 [], .windowState 0 256 0 0, .pair 0 false false [], .twinWrite 0 ⟨256, 0, false, 0, []⟩, .writeDone 0 0 65536,
    .registerWrite 0 1048576 4 0, .registerWrite 0 0x1000 2 0, .registerWrite 0 0x1004 8 0].all (fun c => !c.wf) = true := by decide +kernel

/-- And ones at the ends of their ranges are well formed. -/
theorem test_wf_good : [Instr.nop pair0 { hdr0 with complPeg := 65535 }, .scanArm pair0 hdr0 ⟨255, 255, 4294967295⟩, .fieldDarn 255 31 1567, .registerWrite 15 0xFFFF8 8 0,
    .pair 0 true true (zeros 16), .linePacket 3 (List.replicate 8 [])].all (fun c => c.wf) = true := by decide

/-- No row of the table has bits (spec/opcode_table.json), so no word spells a command and none goes in front of the queue. -/
theorem test_no_words : decodeTableWord 0 0 = none ∧ decodeTableWord 64 5 = none ∧ (State.reset.withFetchWord 64 5).pending = [] := by decide

/-! ### The manual's worked examples -/

/-- Piece 2,047 of chapter 14's example: its entry in the verdict table. -/
theorem test_verdict_entry : verdictEntry 2047 .ok 1 false false 1 2843 = [0xFF, 7, 0, 0, 0, 0, 1, 1, 1, 0, 0, 0, 0x1B, 0x0B, 0, 0xE9] := by decide
/-- READ is 0xB1 with the inverse 0x4E: a known command is not counted, a wrong inverse is. -/
theorem test_read_inverse : exec (.badCommandInverse 0xB1 0x4E) (atStage 6) = .next (atStage 6) := by rfl
/-- Chapter 05's block on tile 77: bank row 267, bank 13. -/
theorem test_tile_address : tsAddr 77 267 13 0 = 0x09A42DA0 ∧ tsTile 0x09A42DA0 = 77 ∧ tsRow 0x09A42DA0 = 267 ∧ inHole (tsAddr 77 1536 0 0) = true ∧
    77 * 2 ^ 21 + 0x180000 = tsAddr 77 1536 0 0 := by decide
/-- R164's MXFP4 block of chapter 06. -/
theorem test_mxfp4_block : mxPack 8 [0x3F500000, 0x3EE00000, 0x3E99999A, 0xBE428F5C, 0x3D800000, 0x3CA3D70A] = (0x7C, [7, 6, 4, 0xB, 1, 0]) := by decide +kernel
/-- Channel 17, of scale 0.254 / 127, and the asymmetric activation from -1.0 to 3.0 of chapter 06. -/
theorem test_quantise_symmetric : (quantDyn 1 0 [0x3E820C4A, 0x3DCCCCCD, 0xBE8194AF, 0x3B4B295F]).2.2 = [127, 50, -127, 2] := by decide +kernel
theorem test_quantise_asymmetric : (quantDyn 1 1 [0xBF800000, 0x40400000, 0]).2 = (64, [-128, 127, -64]) := by decide +kernel
/-- A channel that reads 3.7 everywhere: scale 1.0, zero point 4, every code 0. -/
theorem test_quantise_constant : quantDyn 1 1 [0x406CCCCD, 0x406CCCCD] = (0x3F800000, 4, [0, 0]) := by decide +kernel
/-- R201's example: the amount lies 93 steps right of its label and 7 above it. -/
theorem test_bias_bucket : bucket 8 4 32 93 = 22 ∧ bucket 8 4 32 (-7) = -7 := by decide +kernel
/-- Table 11-10's PT_EDIT, byte by byte. -/
theorem test_pt_edit_bytes : parseDesc ([0x30] ++ zeros 7 ++ [1, 1, 0, 0, 0, 0, 0, 0, 7, 0, 0, 0, 0x11, 0, 0, 0, 2, 0, 0xFF, 0xFF] ++ zeros 36) [] =
    { hdr := { irq := false, fence := false, peg := false, complPeg := 0, tag := 0x0101 }, op := .ptEdit ⟨7, 17, 2, 65535, 0, 0, 0⟩ } := by decide
/-- The phase of CQ counters 0x0122 to 0x0126 on a ring of 64. -/
theorem test_phase : phaseAt 0x0122 64 = true ∧ phaseAt 0x0126 64 = true ∧ phaseAt 0x0140 64 = false := by decide
/-- A divisor of 84.6667 counts a line. -/
theorem test_divisor : ({ State.reset.trackA with divN := 84, divF := 43691 }).divisor = 5548715 := by decide
/-- W = 1,024: a way is 16 MiB, and 103.5 MiB take 7 ways (chapter 10). -/
theorem test_ways : wayBytes wardrobe1024 = 16777216 ∧ ceilDiv 108527616 (wayBytes wardrobe1024) = 7 := by decide
/-- The claim form of chapter 13: 435 bytes are plausible, 434 are not. -/
theorem test_implausible : imageLimit live 0 2480 3508 3 1 8 434 2480 3508 = some .implausible ∧ imageLimit live 0 2480 3508 3 1 8 435 2480 3508 = none := by decide +kernel

/-! ### Single steps -/

/-- The first piece after a reset is piece 0 (R15). -/
theorem test_first_piece : (match exec (.pieceInEdge ⟨true, false⟩) receiving with | .next t => (t.nextPiece, t.trackA.pieces.map (·.num)) | _ => (9, [])) = (1, [0]) := by decide
/-- An ADD on a peg wraps modulo 2^32 (R303). -/
theorem test_peg_wraps : (match exec (.pegSignal pair0 hdr0 ⟨513, 0, 0xFFFFFFFF⟩) pegged with | .next t => t.peg 513 | _ => 9) = 4 := by decide +kernel
/-- A peg 2^31 below its target has not reached it, one at it has (R306). -/
theorem test_peg_reached : pegReached 0x80000000 0 = false ∧ pegReached 0x7FFFFFFF 0 = true ∧ pegReached 0 0xFFFFFFFF = true ∧ pegReached 5 5 = true := by decide
/-- The step takes the front command and leaves the rest. -/
theorem test_step_front : (match step { atStage 6 with pending := [.healthAlertClear, .foldCommit] } with | .next t => t.pending | _ => []) = [.foldCommit] := by decide
/-- An idle step of a running clock counts one cycle, one of a stopped clock none (log 2). -/
theorem test_idle_tick : (match step (atStage 6) with | .next t => t.clk.timeBase | _ => 0) = 5601 ∧ step State.reset = .next State.reset := ⟨by decide +kernel, rfl⟩
/-- A NOP's completion: phase 1 on the first lap, its tag, opcode and status 0 (Table 11-6). -/
theorem test_nop_entry : (match exec (.nop pair0 hdr0) live with | .next t => t.out.length | _ => 0) = 1 := by decide +kernel
/-- The TAP's IDCODE (R488). -/
theorem test_idcode : exec (.testAccessPort .idcode) State.reset = .next { State.reset with out := [.tap 0x94000A0B] } := by rfl
/-- A drain of region 0 with nothing on it is DRAINED at once; region 1, failed with test 3 passed, serves again (R108, R419). -/
theorem test_drain : (match exec (.regionDrain 1) drained with | .next t => (t.reg8 0).state | _ => 9) = 2 := by decide
theorem test_serve : (match exec (.regionServe 2) drained with | .next t => ((t.reg8 1).state, (t.reg8 1).failed) | _ => (9, true)) = (0, false) := by decide
/-- A quadrature error leaves the position (R44); a single change moves it by one. -/
theorem test_quadrature : (match exec (.encoderCount .A true true 1) releasing with | .next t => t.trackA.position | _ => 9) = 0 ∧
    (match exec (.encoderCount .A true false 1) releasing with | .next t => t.trackA.position | _ => 9) = 1 := by decide

/-! ### States that meet the statements' hypotheses -/

/-- The block's own machinery: a queue with a command in front, the reset state's empty one, a state that is sound, a descriptor that is well formed. -/
theorem meets_StepTakesFront : { State.reset with pending := [.doorbellPoll] }.pending = .doorbellPoll :: [] := rfl
theorem meets_StepIdles : State.reset.pending = [] ∧ State.reset.clk.running = false ∧ live.pending = [] ∧ live.clk.running = true := by decide
theorem meets_QueueUntouched : ∃ t, exec .portReset (atStage 2) = .next t := ⟨_, rfl⟩
theorem meets_StageMoves : stageOk State.reset ∧ stageOk (atStage 6) ∧ ∃ t, step State.reset = .next t := ⟨by unfold stageOk; decide, by unfold stageOk; decide, _, rfl⟩
theorem meets_VerdictTableSound : tableOk State.reset ∧ ∃ t, step State.reset = .next t := ⟨fun _ => Or.inl (by simp [State.reset, MachPort.reset]), _, rfl⟩
theorem meets_TestAccessPort : State.reset.sec.blob.debugOpen = false := by decide
theorem meets_NoStop : exec (.testAccessPort (.other 3)) debugging = .refused .debugPortOpen := rfl
theorem meets_DescriptorRoundTrip : ({ hdr := hdrPeg, op := .pegWait ⟨8191, 0xFFFFFFFF, 4294967295⟩ } : Desc).wf = true ∧ ({ hdr := hdr0, op := .nop } : Desc).wf = true := by decide

/-- Machine port: it answers from S2; control words at the ends of their ranges and one past them; each reason for silence. -/
theorem meets_Port : portAnswers (atStage 2) = true ∧ portAnswers (atStage 6) = true ∧ (atStage 6).boot.stage ≤ 6 ∧ ¬ ((0x2000 : Word32) = 0x2000 ∧ [(0 : Byte), 0].length = 1) ∧
    ¬ ((0x2003 : Word32) = 0x2004 ∧ (zeros 4).length = 4) ∧ ¬ ((0x2004 : Word32) = 0x2000 ∧ (zeros 3).length = 1) ∧ ¬ ((0x2004 : Word32) = 0x2004 ∧ (zeros 3).length = 4) := by decide

theorem meets_PortControlWords : bitAt (1 : Byte).toNat (trackNum .A) = true ∧ (rated.track .A).rateReq = true ∧
    ¬ (bitAt (1 : Byte).toNat (trackNum .B) = true ∧ (rated.track .B).rateReq = true) ∧ (zeros 4).length = 4 := by decide
theorem meets_PortConfigurations :
    (∀ v ∈ [(8 : Word32), 20, 264, 276], 8 ≤ v.toNat % 32 ∧ v.toNat % 32 ≤ 20 ∧ v.toNat / 32 % 8 = 0 ∧ v.toNat < 512) ∧
    (∀ v ∈ [(7 : Word32), 21, 40, 520], ¬ (8 ≤ v.toNat % 32 ∧ v.toNat % 32 ≤ 20 ∧ v.toNat / 32 % 8 = 0 ∧ v.toNat < 512)) := by simp
theorem meets_PortCommands : ((0x4F : Byte) ≠ 0xB1 ^^^ 0xFF ∨ (0xB1 : Byte) ∉ [(0xB1 : Byte), 0xC6, 0x9F, 0x99]) ∧ ((0xFF : Byte) ≠ 0 ^^^ 0xFF ∨ (0 : Byte) ∉ [(0xB1 : Byte), 0xC6, 0x9F, 0x99]) ∧
    (0x99 : Byte) ∈ [(0xB1 : Byte), 0xC6, 0x9F, 0x99] := by decide
theorem meets_PortSilent : (atStage 1).boot.stage < 2 ∧ tripped.pwr.held ≠ .no ∧ railsDown.pwr.rails = false ∧
    fencedOff.twin.fenced = true := by decide

/-- Supplies, clocks, resets, bring-up. -/
theorem meets_ModuleResets : live.pwr.rails = true ∧ 2 ≤ live.boot.stage ∧ 2 ≤ (atStage 2).boot.stage ∧
    clockLost.pwr.held = .clockLoss := by decide
theorem meets_PowerOn : (true || false) = true ∧ (false || true) = true ∧ holding.pwr.holdUp = true ∧ holding.pwr.mainOk = false ∧ holding.pwr.auxOk = false ∧
    powerBack.pwr.holdUp = true ∧
    (powerBack.pwr.mainOk || powerBack.pwr.auxOk) = true := by decide
theorem meets_SupplyInputs : live.pwr.rails = true ∧ auxGood.pwr.auxOk = true ∧ live.pwr.onAux = false ∧ onAux.pwr.rails = true ∧
    onAux.pwr.onAux = true ∧ live.pwr.mainOk = true ∧ live.pwr.holdUp = false ∧ live.pwr.held = .no ∧ live.pwr.device = false ∧ 1 ≤ live.boot.stage := by decide
theorem meets_Clock : State.reset.boot.stage = 0 ∧ State.reset.clk.running = false ∧ State.reset.pwr.rails = true ∧ State.reset.pwr.held = .no ∧
    State.reset.clk.refclkOk = true := by decide
theorem meets_ThermalSample : nearTrip.pwr.rails = true ∧ nearTrip.pwr.held = .no ∧ nearTrip.clk.running = true ∧
    (let rs := (List.replicate 8 [(50 : Int), 50, 50, 50]).set 2 [50, 120, 50, 50]
     rs.length = 8 ∧ 120 ≤ regionTemp (rs.getD 2 []) ∧ 1 ≤ nearTrip.pwr.tripRun.getD 2 0 ∧ ∀ k, k < 2 → regionTemp (rs.getD k []) < 120) ∧
    (∀ r ∈ List.replicate 8 [(119 : Int), 50, 50, 50], regionTemp r < 120) ∧ (119 : Int) < 120 ∧ (∀ d ∈ [(94 : Int), 90, 80, 70], d < 95) ∧
    tripped.pwr.held = .thermal ∧ tripped.pwr.rails = true ∧ (∀ r ∈ List.replicate 8 [(89 : Int), 50, 50, 50], regionTemp r < 90) ∧ (∀ d ∈ [(79 : Int), 70, 70, 70], d < 80) := by decide
theorem meets_BringUp : romReady.boot.stage = 1 ∧ romReady.sec.logCount = 0 ∧ romReady.boot.recovery = false ∧ facts.pufOk = true ∧ facts.recoveryStrap = false ∧
    romReady.sec.flash.slotA = some image3 ∧ imageQualifies (readRecords romReady).sec.floor image3 = true ∧ romReady.sec.flash.slotB = none ∧
    { facts with recoveryStrap := true }.recoveryStrap = true ∧ measured.sec.logCount ≠ 0 ∧ (atStage 2).boot.stage = 2 ∧
    (atStage 3).boot.stage = 3 ∧ (atStage 4).boot.stage = 4 ∧ firstLightOver (atStage 4) = true ∧ (atStage 5).boot.stage = 5 ∧ ((atStage 5).reg8 0).failed = false := by decide
theorem meets_BringUpLost : noRegions.boot.stage = 5 ∧ ∀ g : Region, (noRegions.reg8 g).failed = true := by decide
theorem meets_RegionFirmware : (atStage 2).boot.stage = 2 ∧ quiet (atStage 2) = true := by decide
theorem meets_VfEnable : 2 ≤ live.boot.stage ∧ ∀ f : Fn, f.val ≠ 0 → (live.fnOf f).enabled = true → bitAt (8 : Half).toNat f.val = true ∧ f.val ≤ live.sec.blob.vfs := by decide
theorem meets_HostResets : withVf.sched.jobs = [] ∧ withVf.plans.loaded = [] ∧ withVf.plans.loadQ = [] ∧ (∀ k, bankOf withVf k = none) ∧
    (∀ (f : Fn) (p : Fin 8), ((withVf.fnOf f).rings[p.val]).fold = none ∧ ((withVf.fnOf f).rings[p.val]).closed = []) ∧ (withVf.fnOf 3).enabled = true ∧
    withVf.basket.committed = [] ∧ withVf.basket.hold = false ∧ basketUsed withVf ≤ mib * basketHigh withVf := by decide

/-- Health. -/
theorem meets_DeviceErrors : live.pwr.device = false ∧ live.pwr.rails = true ∧ live.pwr.holdUp = false ∧ live.pwr.held = .no ∧ 1 ≤ live.boot.stage ∧
    ({ live with pwr := { live.pwr with device := true } } : State).pwr.device = true := by decide
theorem meets_RegionErrors : idleModule live ∧ ∀ p : Port, ∀ x ∈ (live.lp p).reserved, x.1 / 32 ≠ 2 := ⟨by unfold idleModule; decide, by decide⟩
theorem meets_DrainAndServe : idleModule drained ∧ bitAt (1 : Byte).toNat (0 : Region).val = true ∧ (drained.reg8 0).state = 0 := ⟨by unfold idleModule; decide, by decide, by decide⟩
theorem meets_HealthLogEnable : 2 ≤ live.boot.stage ∧ live.health.logEnable = false ∧ logging.health.logEnable = true ∧
    (atStage 1).boot.stage < 2 := by decide
theorem meets_LintSweep : lintMayRun lateSweeps 5 (.rowMarch 0 5) = true ∧ lintMayRun State.reset 5 (.rowMarch 0 5) = false ∧ (false && true) = false ∧ (true && false) = false := by decide
theorem meets_LintOverdue : (lateSweeps.tile 255).overdue = false ∧ (lateSweeps.tile 255).sweepAt + 4 * lintPeriodS lateSweeps * 1400000000 ≤ lateSweeps.now := by decide
theorem meets_ScrubAndDarn : markOf marked (tsAddr 0 5 0 0) = 0 ∧ markOf marked (tsAddr 0 3 0 0) = 1 ∧ markOf marked (tsAddr 0 4 0 0) = 2 ∧ (marked.tile 0).failed = false ∧
    (rowDue marked 0 0 4 || rowAtThreshold marked 0 0 4) = true ∧ freePatch marked (bankKey 0 0) ≠ none ∧ (rowDue marked 0 0 5 || rowAtThreshold marked 0 0 5) = false := by decide
theorem meets_SpareReload : (reloading.tile 5).reload = true ∧ reloading.sched.jobs = [] ∧ reloading.sched.models = [] := by decide

/-- Set-up registers, rings, doorbells. -/
theorem meets_LinePortRegisters : 2 ≤ live.boot.stage ∧ (live.lp 3).suBusy = false ∧ (busBusy.lp 0).suBusy = true := by decide
theorem meets_ClockTermAndVectors : regsUsable live 0 = true ∧ regsUsable withVf 3 = true := by decide
theorem meets_RegisterWrite : regsUsable live 0 = true ∧ ((regSpec 0x1040).any fun r => r.bytes == 4 && decide (r.act = .plain) && r.ok 250 && r.ok 100000 && !r.ok 240 && !r.ok 100010 && r.pf) = true ∧
    timeAllowed live 0 0x1040 250 = true ∧ regsUsable withVf 3 = true := by decide
theorem meets_RingSetup : ringsUsable live 0 = true ∧ (live.ring (live.ref { fn := 0, pair := 7 })).enable = false ∧ (live.ring (live.ref pair0)).enable = true ∧
    (live.ring (live.ref pair0)).fold = none ∧ (live.fnOf 0).recEnable = false ∧ 2 ≤ (atStage 6).boot.stage ∧ regGet granting 0 (0x3000 + 4 * 3) + 7680 ≤ 8192 ∧
    512 ≤ regGet granting 0 (0x3000 + 4 * 3) ∧ grantOverlaps granting 3 (regGet granting 0 (0x3000 + 4 * 3)) 7680 = false ∧
    (∀ p : Fin 8, ((granting.fnOf 3).rings[p.val]).enable = false) := by decide
theorem meets_Doorbells : ringsUsable live 0 = true ∧ (live.fnOf 0).lineRead = false ∧ ringsUsable lineComing 0 = true ∧ (lineComing.fnOf 0).lineRead = true ∧
    (lineComing.fnOf 0).kickWaiting = false ∧ (∀ p : Fin 8, ((lineComing.fnOf 0).rings[p.val]).enable = false) ∧ quiet lineComing = true := by decide
theorem meets_RingCounters : ringLive live (live.ref pair0) = true ∧ (live.ring (live.ref pair0)).held = [] ∧ ringN live (live.ref pair0) = 16 ∧
    ((16 : Half) - (live.ring (live.ref pair0)).sqHead).toNat = 16 ∧ ((live.ring (live.ref pair0)).cqTail - (0xFFF0 : Half)).toNat = 16 ∧
    16 < ((17 : Half) - (live.ring (live.ref pair0)).sqHead).toNat ∧ 16 < ((live.ring (live.ref pair0)).cqTail - (1 : Half)).toNat := by decide
theorem meets_HostReadErrors : ringLive announcing (announcing.ref pair0) = true ∧ 0 < announced (announcing.ring (announcing.ref pair0)) ∧ (lineComing.fnOf 0).lineRead = true ∧
    (∀ p : Fin 8, ((lineComing.fnOf 0).rings[p.val]).enable = false) := by decide
theorem meets_IrqModeration : (unsignalled.ring (unsignalled.ref pair0)).firstUnsig = some 100 ∧ irqTimeNs unsignalled (unsignalled.ref pair0) ≠ 0 ∧ unsignalled.clk.running = false ∧
    ringVector unsignalled (unsignalled.ref pair0) ∉ (vectorOpen.fnOf 0).masked := by decide
theorem meets_RecordCopy : nextPost posting 0 = some post0 ∧ (posting.fnOf 0).enabled = true ∧ (posting.fnOf 0).recEnable = true ∧ postLen post0 ≤ recFree posting 0 ∧
    posting.sched.jobs = [] ∧ post0.done = none ∧ post0.fold = none ∧ nextPost postingOff 0 = some post0 ∧ (postingOff.fnOf 0).recEnable = false ∧
    nextPost postingFull 0 = some post0 ∧ (postingFull.fnOf 0).recEnable = true ∧ recFree postingFull 0 < postLen post0 := by decide

/-- Descriptors: a pair that is ready, with each opcode's operands at work. -/
theorem meets_DescriptorStarts : descCmd pair0 { hdr := hdr0, op := .nop } = some (.nop pair0 hdr0) ∧ readyFor live pair0 = true ∧ mayStart live pair0 { hdr := hdr0, op := .nop } = true ∧
    mayStart live pair0 { hdr := hdrPeg, op := .nop } = true := by decide
theorem meets_DescriptorRefused : let d : Desc := { hdr := hdr0, op := .pegSignal ⟨40, 0, 5⟩ }
    descCmd pair0 d = some (.pegSignal pair0 hdr0 ⟨40, 0, 5⟩) ∧ heldByLimit live d = false ∧ waitsBank live d = false ∧
    startCheck (startedState live pair0 d) (live.ref pair0) d = some (.pegRange, []) := by decide
theorem meets_StartCheckOrder : known (.nop : DescOp) = true ∧ pfOnly (.scanDisarm 0) = true ∧ pfOnly (.nop : DescOp) = false ∧ (withVf.ref { fn := 3, pair := 0 }).fn.val ≠ 0 ∧
    stageAllows (atStage 2) (live.ref pair0) (.planUnload 1) = false ∧ stageAllows live (live.ref pair0) .nop = true ∧ hdrPeg.peg = true ∧ inGrant (atStage 6) 0 hdrPeg.complPeg = false := by decide
theorem meets_DescriptorFetched : ({ hdr := hdr0, op := .nop } : Desc).wf = true ∧ ringLive announcing (announcing.ref pair0) = true ∧
    0 < announced (announcing.ring (announcing.ref pair0)) ∧ announced (live.ring (live.ref pair0)) = 0 := by decide
theorem meets_PegSignal : readyFor live pair0 = true ∧ mayStart live pair0 { hdr := hdr0, op := .pegSignal ⟨527, 0, 5⟩ } = true ∧
    mayStart live pair0 { hdr := hdr0, op := .pegSignal ⟨512, 1, 5⟩ } = true ∧ live.pegs.later = [] ∧ live.pegs.waits = [] := by decide
theorem meets_PegWait : readyFor pegged pair0 = true ∧ mayStart pegged pair0 { hdr := hdr0, op := .pegWait ⟨513, 5, 0⟩ } = true ∧
    mayStart pegged pair0 { hdr := hdr0, op := .pegWait ⟨513, 6, 0⟩ } = true ∧ mayStart pegged pair0 { hdr := hdr0, op := .pegWait ⟨513, 6, 100⟩ } = true ∧
    pegged.pegs.later = [] ∧ pegged.pegs.waits = [] ∧ pegReached (pegged.peg 513) 5 = true ∧ pegReached (pegged.peg 513) 6 = false := by decide
theorem meets_PegWaitTimeout : waiting.pegs.waits = [wait0] ∧ wait0.r = waiting.ref pair0 ∧ wait0.deadline = some 5600 ∧ waiting.pegs.later = [] ∧ waiting.now = 5600 ∧
    pegReached (waiting.peg wait0.peg) wait0.target = false ∧ ringLive waiting (waiting.ref pair0) = true ∧ cqRoom waiting (waiting.ref pair0) = true ∧
    (waiting.ring (waiting.ref pair0)).held = [] ∧ quiet waiting = true := by decide
theorem meets_FoldOpenClose : mayStart live pair0 { hdr := hdr0, op := .foldOpen } = true ∧ mayStart live pair0 { hdr := hdr0, op := .foldClose 1 } = true ∧
    readyFor (folding.modRing (folding.ref pair0) fun x => { x with fold := none, running := [] }) pair0 = true ∧ (folding.ring (folding.ref pair0)).fold = some fold0 ∧
    6 ≤ folding.boot.stage ∧ hdr0.peg = false ∧ hdr0.fence = false ∧ fold0.failed = none ∧ fold0.committed = false ∧ fold0.members = [] ∧
    (folding.ring (folding.ref pair0)).closed = [] := by decide
theorem meets_FoldCommit : live.commitQ = [] ∧ foldGone.commitQ = [(1400, .host (live.ref pair0) 5)] ∧ (∀ f ∈ (foldGone.ring (live.ref pair0)).closed, f.id ≠ 5) ∧
    (committing fold0).commitQ = [(1400, .host (live.ref pair0) 0)] ∧ ((committing fold0).ring (live.ref pair0)).closed = [{ fold0 with closeHdr := some hdrPeg }] ∧
    ((committing fold0).ring (live.ref pair0)).fold = none ∧ fold0.members = [] ∧ ringLive (committing fold0) (live.ref pair0) = true ∧
    (((committing fold0).ring (live.ref pair0)).cqTail - ((committing fold0).ring (live.ref pair0)).cqHead).toNat + 2 ≤ ringN (committing fold0) (live.ref pair0) ∧
    ((committing fold0).ring (live.ref pair0)).held = [] ∧ (committing fold0).pegs.later = [] ∧ (committing fold0).pegs.waits = [] ∧ (committing fold0).sched.jobs = [] ∧
    (committing fold0).basket.committed = [] := by decide
theorem meets_Snapshots : mayStart live pair0 { hdr := hdr0, op := .snapshot ⟨20000, 64, 100000000, 31⟩ } = true ∧ snapshotCheck live 0 ⟨20000, 64, 100000000, 31⟩ = none ∧
    snapshotBank live 20000 = some 0 ∧ bankOf banked 0 = some bank0 ∧ bank0.taken = false ∧ banked.clk.running = true ∧ banked.now ≤ bank0.T ∧ bank0.T < 2 ^ 64 ∧
    (bankOf banked 1).map (·.taken) = some true := by decide
theorem meets_Windows : mayStart linked pair0 { hdr := hdr0, op := .windowOpen ⟨1, 1, 1, 4096, 8192⟩ } = true ∧ winOpenCheck linked ⟨1, 1, 1, 4096, 8192⟩ = none ∧
    mayStart linked pair0 { hdr := hdr0, op := .windowClose 0 } = true ∧ mayStart live pair0 { hdr := hdr0, op := .twinDma ⟨0, 0, 0, 0, 64⟩ [] } = true ∧ live.twin.linkUp = false ∧
    mayStart linked pair0 { hdr := hdr0, op := .twinDma ⟨0, 2, 0, 0, 64⟩ (zeros 64) } = true ∧ dmaCheck linked ⟨0, 2, 0, 0, 64⟩ = none ∧
    (dmaSource linked 0 ⟨0, 2, 0, 0, 64⟩ (zeros 64)).2.1 = none ∧ linked.twin.linkUp = true ∧ readyFor linked pair0 = true := by decide

/-- Jobs, plans, page tables, arming by descriptor. -/
theorem meets_JobDescriptors : readyFor planned pair0 = true ∧ mayStart planned pair0 { hdr := hdr0, op := .imageRead image64 block64 } = true ∧
    mayStart planned pair0 { hdr := hdr0, op := .seqStep step1 [] } = true ∧
    seqStartCheck (startedState planned pair0 { hdr := hdr0, op := .seqStep step1 [] }) (planned.ref pair0) step1 = none ∧
    mayStart live pair0 { hdr := hdr0, op := .testRun ⟨1, 5, 0, 0, 0⟩ } = true ∧ mayStart live pair0 { hdr := hdr0, op := .testRun ⟨2, 5, 0, 0, 0⟩ } = true := by decide
theorem meets_ImageRead : imageStartCheck (startedState planned pair0 { hdr := hdr0, op := .imageRead image64 block64 }) (planned.ref pair0) image64 block64 = none := by decide +kernel
theorem meets_TailorStep : mayStart live pair0 { hdr := hdr0, op := .tailorStep tailorOp [] } = true ∧ planOf live 0 tailorOp.plan = none ∧
    mayStart planned pair0 { hdr := hdr0, op := .tailorStep tailorOp [] } = true ∧ planOf planned 0 tailorOp.plan = some plan1 ∧ tailorCheck plan1 = none ∧
    mastersOf planned plan1.handle = some [] := by decide
theorem meets_TileStoreTests : mayStart live pair0 { hdr := hdr0, op := .testRun ⟨6, 0, 64, 0, 0⟩ } = true ∧ mayStart live pair0 { hdr := hdr0, op := .testRun ⟨7, 0, 64, 0, 0⟩ } = true ∧
    inHole 64 = false ∧ mayStart live pair0 { hdr := hdr0, op := .testRun ⟨4, 0, 64, 640, 128⟩ } = true ∧ (∀ k, k < 128 / 64 → inHole (64 + 32 * k) = false) := by decide
theorem meets_PlanDescriptors : mayStart live pair0 { hdr := hdr0, op := .planLoad { (default : PlanLoadOp) with repLen := 128 } } = true ∧
    mayStart live pair0 { hdr := hdr0, op := .planLoad { (default : PlanLoadOp) with repLen := 127 } } = true ∧ mayStart live pair0 { hdr := hdr0, op := .planUnload 1 } = true ∧
    planOf live 0 1 = none ∧ mayStart planned pair0 { hdr := hdr0, op := .planUnload 1 } = true ∧ planOf planned 0 1 = some plan1 ∧
    mayStart planned pair0 { hdr := hdr0, op := .wardrobePin ⟨1, 0⟩ } = true := by decide
theorem meets_PtEdit : readyFor sequenced pair0 = true ∧ mayStart sequenced pair0 { hdr := hdr0, op := .ptEdit (edit 2) } = true ∧ editCheck sequenced 0 (edit 2) = none ∧
    editCheck pinnedPage 0 (edit 3) = none ∧ mayStart pinnedPage pair0 { hdr := hdr0, op := .ptEdit (edit 3) } = true ∧
    mayStart sequenced pair0 { hdr := hdr0, op := .ptEdit (edit 3) } = true ∧ editCheck sequenced 0 (edit 3) = some .badState ∧
    mayStart live pair0 { hdr := hdr0, op := .ptEdit (edit 3) } = true ∧ editCheck live 0 (edit 3) = some .planUnknown := by decide
theorem meets_ArmRefused : readyFor armable pair0 = true ∧ mayStart armable pair0 { hdr := hdr0, op := .scanArm ⟨0, 0, 1⟩ } = true ∧
    mayStart alreadyArmed pair0 { hdr := hdr0, op := .scanArm ⟨0, 1, 1⟩ } = true ∧ readyFor alreadyArmed pair0 = true ∧ 6 ≤ alreadyArmed.boot.stage ∧
    (armPlan alreadyArmed (alreadyArmed.ref pair0) ⟨0, 1, 1⟩).isSome = true ∧ (alreadyArmed.track (trackOf 0)).armed = true := by decide
theorem meets_Arm : mayStart armable pair0 { hdr := hdr0, op := .scanArm ⟨0, 1, 1⟩ } = true ∧ 6 ≤ armable.boot.stage ∧ armPlan armable (armable.ref pair0) ⟨0, 1, 1⟩ = some plan1 ∧
    (armable.track (trackOf 0)).armed = false ∧ armPorts armable (trackOf 0) 1 = some (0, none) ∧ plan1.c.feed = true ∧ pinFits armable plan1 = true ∧
    portLimit armable false (rateMax armable .A) 1 0 (portCfg armable 0 .A .front) = none ∧ exceedsPlan plan1 (rateMax armable .A) (portCfg armable 0 .A .front) = false := by decide
theorem meets_Calibrate : mayStart live pair0 { hdr := hdr0, op := .scanDisarm 0 } = true ∧ (live.track (trackOf 0)).armed = false ∧ readyFor trackOn pair0 = true ∧
    mayStart trackOn pair0 { hdr := hdr0, op := .scanDisarm 0 } = true ∧ (trackOn.track (trackOf 0)).armed = true ∧ (trackOn.track (trackOf 0)).disarm = none ∧
    mayStart live pair0 { hdr := hdr0, op := .calRun ⟨0, 64, 100000000⟩ } = true ∧ isStandby live = false ∧ (∀ q : Port, (live.lp q).calWait = []) ∧ (live.lp 0).armed = false ∧
    (live.lp 0).cal = none ∧ (live.track (portTrack live 0)).armed = false ∧ mayStart trackOn pair0 { hdr := hdr0, op := .calRun ⟨0, 64, 100000000⟩ } = true ∧
    isStandby trackOn = false ∧ (∀ q : Port, (trackOn.lp q).calWait = []) ∧ (trackOn.track (portTrack trackOn 0)).armed = true := by decide

/-- Trust. -/
theorem meets_Quotes : 2 ≤ live.boot.stage ∧ (live.fnOf 0).enabled = true ∧ (live.fnOf 0).quote.busy = false ∧ ((quoting 8768).fnOf 3).enabled = true ∧
    ((quoting 8768).fnOf 3).quote.busy = true ∧ nextQuote live = none ∧ nextQuote (quoting 8768) = some 3 ∧ quoteDue (quoting 8768) = true ∧
    regGet (quoting 8768) 3 0x40048 = 8768 ∧ (takeLeaf (quoting 8768)).map (·.1) = some 5 ∧ nextQuote (quoting 8767) = some 3 ∧ quoteDue (quoting 8767) = true ∧
    regGet (quoting 8767) 3 0x40048 < 8768 ∧ nextQuote noTree = some 3 ∧ quoteDue noTree = true ∧ regGet noTree 3 0x40048 = 8768 ∧ (takeLeaf noTree).isNone = true := by decide
theorem meets_LeafOnce : (quoting 8768).sec.rebuilt = true ∧ hasCert (quoting 8768) (quoting 8768).sec.tree = true ∧ (quoting 8768).sec.block = some 0 ∧
    256 * 0 ≤ (quoting 8768).sec.leaf ∧ (quoting 8768).sec.leaf < 256 * 0 + 256 ∧ (takeLeaf (quoting 8768)).map (·.1) = some 5 := by decide
theorem meets_AttestationTrees : 4 ≤ (atStage 4).boot.stage ∧ renewalTree (quoting 8768) = none ∧ renewalTree live = some 0 ∧ (idLeaf live).map (·.1) = some 0 := by decide
theorem meets_Updates : updateUsable live = true ∧ live.sec.updBusy = false ∧ (updating false).sec.updBusy = true ∧ (updating false).sec.updBlob = false ∧
    (updating false).boot.recovery = false ∧ 2 ≤ applying.boot.stage ∧ applying.sec.updBusy = false ∧ applying.sec.staged = some image3 ∧ (applying.reg8 0).state ≠ 2 ∧
    (applying.reg8 1).state = 2 ∧ image3.leastChip ≤ applying.sec.version ∧ applying.sec.blob.regionUpdate = true ∧ applying.boot.stage = 6 ∧
    (if applying.boot.slot then applying.sec.flash.slotB else applying.sec.flash.slotA) = some image3 := by decide

/-- Twin. -/
theorem meets_TwinFrameOrder : frameOf 4 (.heartbeat 4 default) ∧ live.twin.linkUp = false ∧ linked.twin.linkUp = true ∧ linked.twin.rxSeq = some 4 ∧ (4 : Half) ≠ 4 + 1 ∧
    (6 : Half) ≠ 4 + 1 := ⟨.inl ⟨_, rfl⟩, by decide⟩
theorem meets_TwinFrames : nextFrame linked 5 = true ∧ isStandby linked = false ∧ (linked.twin.paired && isStandby linked) = false ∧ linked.twin.pairSent = false ∧
    (isStandby linked && linked.twin.paired) = false ∧ linked.twin.xfers = [] ∧ windowOf linked 1 = none ∧ smFind linked.twin.badXfer 2 = none := by decide
theorem meets_TwinRoles : nextFrame pairing 5 = true ∧ twinEnabled pairing = true ∧ pairing.twin.pairSent = true ∧ pairing.trackA.pieces = [] ∧ pairing.trackB.pieces = [] ∧
    nextFrame paired 5 = true ∧ isStandby paired = true ∧ paired.twin.paired = true ∧ paired.trackA.armed = false ∧ paired.trackB.armed = false ∧ paired.sched.jobs = [] ∧
    active.twin.state = .active ∧ active.twin.handoverTo = none ∧ active.twin.linkUp = true ∧ active.twin.paired = true ∧ partnerReady active = true ∧
    active.trackA.pieces = [] ∧ active.trackB.pieces = [] := by decide
theorem meets_TwinSync : nextFrame paired 5 = true ∧ paired.twin.paired = true ∧ isStandby paired = true ∧ (default : SyncP).coefs = [] := by decide
theorem meets_TwinTransfers : windowOf linked 0 = some window0 ∧ bitAt window0.access 0 = true ∧ window0.target = 0 ∧ 8128 + (zeros 64).length ≤ window0.len ∧
    smFind linked.twin.badXfer 2 = none ∧ sending.twin.xfers.find? (fun y => y.id == 2) = some ⟨2, live.ref pair0, hdr0⟩ ∧ Status.ofCode 0 = some .ok ∧
    nextFrame sending 5 = true ∧ ringLive sending (live.ref pair0) = true ∧ cqRoom sending (live.ref pair0) = true ∧ (sending.ring (live.ref pair0)).held = [] := by decide
theorem meets_TwinSending : linked.twin.linkUp = true ∧ linked.twin.resends < 4 ∧ (resending).twin.unacked = (6, [1]) :: [] ∧ (∀ x ∈ resending.twin.unacked, 32768 ≤ ((5 : Half) - x.1).toNat) ∧
    4 ≤ resending.twin.resends ∧ resending.twin.linkUp = true ∧ twinEnabled paired = true ∧ paired.twin.beat.isSome = true ∧ twinEnabled active = true ∧ active.twin.beat.isSome = true ∧
    isStandby active = false := by decide
theorem meets_TwinStates : twinEnabled live = false ∧ linked.twin.linkUp = true ∧ paired.twin.misses = 2 ∧ twinEnabled pairing = true ∧ pairing.trackA.pieces = [] ∧
    fencedOff.twin.fenced = true ∧ fencedOff.twin.fenceIn = false ∧ twinEnabled fencedOff = false ∧ fenceStands.twin.fenceIn = true ∧ unpaired.twin.state = .active ∧
    unpaired.twin.handoverTo = none ∧ unpaired.twin.paired = false ∧ live.twin.state = .solo ∧ live.twin.linkUp = false ∧ live.trackA.pieces = [] ∧ live.trackB.pieces = [] := by decide

/-- Lines, encoders, pieces. -/
theorem meets_EncoderCount : (live.trackA).armed = false ∧ live.trackA.held = false ∧ feedHold releasing .A = false ∧ releasing.trackA.armed = false ∧ releasing.trackA.held = false ∧
    (true == releasing.trackA.chA) ≠ (false == releasing.trackA.chB) := by decide
theorem meets_PieceIn : live.trackA.armed = false ∧ trackOn.trackA.armed = true ∧ trackOn.trackA.disarm = none ∧ receiving.trackA.armed = true ∧ receiving.trackA.disarm = none ∧
    sameEdge receiving .A = false ∧ receiving.trackA.pieces = [] ∧ sameEdge edgeAgain .A = true ∧ edgeAgain.trackA.armed = true ∧ edgeAgain.trackA.disarm = none ∧
    (∀ x ∈ receiving.trackA.sides, (receiving.lp x.2).strip.start = none ∧ (receiving.lp x.2).deadCols = []) := by decide
theorem meets_LinePackets : packetCrc (packet 1 0 0 false) = false ∧ packetCrc (packet 1 0 0 true ++ [1]) = true ∧ packetForm (packet 1 0 0 true ++ [1]) 1 = false ∧
    packetCrc (packet 1 0 0 true) = true ∧ packetForm (packet 1 0 0 true) (receiving.lp 0).cfg.lanes = true ∧ (parsePacket (packet 1 0 0 true)).w = (receiving.lp 0).cfg.width ∧
    (parsePacket (packet 1 0 0 true)).port = 0 ∧ (parsePacket (packet 1 0 1 true)).port ≠ 0 := by decide +kernel
theorem meets_LinePacketTaken : (receiving.lp 0).cal = none ∧ (receiving.lp 0).armed = true ∧ (receiving.lp 0).locked = true ∧
    ((receiving.lp 0).trigs.find? fun r => r.num % 2 ^ 24 == 1) = some { num := 1, line := 1, sub := 0, got := [] } ∧ colourOf (receiving.lp 0).cfg.switched false 0 = some 0 ∧
    (receiving.lp 0).cfg.switched = false ∧ checkLine receiving (receiving.lp 0).cfg.track 1 = true := by decide
theorem meets_LinePacketRead : (parsePacket (packet 1 0 0 true)).num = 1 ∧ (parsePacket (packet 1 0 0 true)).col = 0 := by decide +kernel
theorem meets_OwnTriggers : sublineDue.trackA.subDue = [(6000, 1, 1)] ∧ sublineDue.trackA.front = some 0 ∧ sublineDue.trackA.back = none ∧ (sublineDue.lp 0).cfg.switched = true ∧
    (sublineDue.lp 0).trigs.length ≤ 1 ∧ ((calibrating 127).lp 0).cal.map (fun c => decide (c.issued < calTotal c)) = some true ∧
    ((calibrating 128).lp 0).cal.map (fun c => decide (calTotal c ≤ c.issued)) = some true := by decide
theorem meets_LinesStoredAndCommitted : (live.lp 1).regQ = [] ∧ (live.lp 1).storeQ = [] ∧ (lined.lp 1).regQ = [line3] ∧ lined.trackA.pieces = [] ∧ lined.trackB.pieces = [] ∧
    (lined.lp 1).cfg.side = .back ∧ (lined.lp 1).strip.stop = none ∧ (lined.lp 1).queued = none ∧ needsFree (lined.lp 1) line3 = false ∧ (lined.track (lined.lp 1).cfg.track).firstLight = false ∧
    lined.sched.jobs = [] ∧ lined.twin.state ≠ .takingOver ∧ (lined.lp 0).storeQ = [line3] := by decide
theorem meets_PieceEnds : (noEdge.trackA.pieces.find? fun y => y.line0.isNone && y.live && decide (y.edgeLine + (((noEdge.lp (noEdge.frontPort .A)).cfg.leadWin : Nat) : Int) ≤ noEdge.trackA.frontPos)).isSome = true ∧
    (tooLong.trackA.pieces.find? fun y => y.T.isNone && y.live && (match y.line0 with
        | some l => decide (l + (((tooLong.lp (tooLong.frontPort .A)).cfg.lmax + (tooLong.lp (tooLong.frontPort .A)).cfg.trail : Nat) : Int) ≤ tooLong.trackA.frontPos)
        | none => false)).isSome = true ∧
    (ending.trackA.pieces.find? fun y => y.line0.isSome && y.T.isNone && decide ((ending.lp (ending.frontPort .A)).cfg.trail ≤ y.blank)).isSome = true ∧
    (∀ y ∈ ending.trackA.pieces, y.front.skew = none ∧ y.back.skew = none) ∧ noEdge.sched.jobs = [] ∧ tooLong.sched.jobs = [] ∧ ending.sched.jobs = [] := by decide
theorem meets_GapsAndRestarts : (built.lp 0).strip.stop = none ∧ (built.lp 0).building = some default ∧ deadColours default = [] ∧
    matching.trackA.restart = some { N := 5, released := true, drop := 0 } ∧ (matching.trackA.portsOf.all fun p => sideMatches (matching.lp p) (bestShift (matching.lp p))) = true ∧
    pageBoundary (disarming [] false) .A = false ∧ pageBoundary moving .A = true ∧ moving.trackA.portsOf = [0] ∧ resvDraining moving 0 = true ∧
    (disarming [] false).trackA.disarm = some ([(live.ref pair0, hdr0)], []) ∧ (disarming [0] false).trackA.disarm = some ([(live.ref pair0, hdr0)], [0]) ∧
    ((findPiece (disarming [0] false) .A 0).any fun y => y.T.isNone && y.status == .ok && !y.posted) = true ∧ (disarming [] true).trackA.hold.disarm = true ∧
    (disarming [] true).sched.jobs = [] := by decide

/-- Segments, saves, plans, codec, dictionary. -/
theorem meets_Segments : findJob running 1 = some job1 ∧ pairsOf running 1 0 = some pairs1 ∧ job1.lane 0 = some (lane5 .run) ∧ job1.state = .running ∧ (seg1 true).last = true ∧
    (seg1 true).job = 1 ∧ (seg1 true).stripe = 0 ∧ job1.kind = .test ⟨1, 5, 0, 0, 0⟩ ∧ (runsOn running 1 5).isSome = true ∧ findJob stepping 1 = some stepJob1 ∧
    pairsOf stepping 1 0 = some pairs1 ∧ jobPlan stepping stepJob1 = some plan1 ∧ segRuns stepJob1 plan1 (lane5 .run) pairs1 (seg1 false) = true ∧ stepJob1.kind = .step ∧
    segRuns stepJob1 plan1 (lane5 .run) pairs1 segBad = true ∧ segBad.faults ≠ [] ∧ findJob finished 1 = some { job1 with state := .done } := by decide
theorem meets_TransfersAndSaves : (moved.transfers.find? fun y => y.hem == true && y.id == 1) = some (transfer1 1 true) ∧
    (moved.transfers.find? fun y => y.hem == false && y.id == 2) = some (transfer1 2 false) ∧ (∀ x ∈ moved.transfers, x.id ≠ 3) ∧ (placedLane moved 1 0).isSome = true ∧
    findJob saving 1 = some savingJob ∧ savingJob.state = .running ∧ saveReady savingJob = true ∧ savingJob.victim = true ∧ (pairsOf saving 1 0).isSome = true ∧
    ((findJob restoring 1).map fun j => (j.state, j.lanes.map (·.state))) = some (.running, [.restoring]) ∧ (pairsOf restoring 1 0).isSome = true := by decide
theorem meets_LoaderEvents : live.plans.loadQ = [] ∧ live.plans.loading = none ∧ relowerGone.plans.relowerQ = [1] ∧ live.plans.relowerQ = [] ∧
    findPlan relowerGone 1 = none ∧ relowering.plans.relowerQ = [1] ∧ findPlan relowering 1 = some plan1 ∧ (findPlan unloading 1).map (·.unload) = some (some (live.ref pair0, hdr0)) ∧
    (findPlan unloading 1).map (unloadReady unloading) = some true ∧ (findPlan unloadingUsed 1).map (unloadReady unloadingUsed) = some false ∧
    nextLoad wardrobeLoading = some load1 ∧ loadPlanOf wardrobeLoading load1 = some plan1 ∧ plan1.storeBad = false ∧
    residentModel wardrobeLoading plan1 = none ∧ (findWays wardrobeLoading plan1).map (·.1) = some [] ∧ nextLoad wardrobeLoaded = some load1 ∧
    loadPlanOf wardrobeLoaded load1 = some plan1 ∧ (residentModel wardrobeLoaded plan1).isSome = true := by decide
/-- What a load answers: none, that it waits, or that the plan is loaded. -/
def loadEnds (b : List Byte) : Option Bool :=
  let x := loadLows (readyToLoad b) (loadOp b) b default default
  match loadPlan x.1 0 (loadOp b) b x.2.1 x.2.2 with
  | .ok r => some r.2.plans.loading.isNone
  | .error _ => none
theorem meets_PlanLoaded : loadEnds [] = none ∧ loadEnds alone = some true ∧ loadEnds withComp = some false := by decide +kernel
theorem meets_PlanLoadNext (b : List Byte) : (readyToLoad b).plans.loading = none ∧ (readyToLoad b).plans.loadQ = (live.ref pair0, hdr0, loadOp b) :: [] := ⟨rfl, rfl⟩
theorem meets_Relowering : (relower relowering plan1 plan1.c default default).toBool = false ∧ (relower relowerable plan2 plan2.c default default).toBool = true ∧
    relowerable.plans.relowerQ = [1] ∧ findPlan relowerable 1 = some plan2 ∧ plan2.comp ≠ some 1 := by decide
theorem meets_BatchSteps : findPlan live 1 = none ∧ stepRuns stepping 1 = true ∧ findPlan planned 1 = some plan1 ∧ stepRuns planned 1 = false ∧ planned.pwr.device = false ∧
    seqJobs planned 1 = [] ∧ piecesOn planned .A 1 = [] ∧ piecesOn planned .B 1 = [] := by decide
theorem meets_CodecEvents : live.sched.jobs = [] ∧ (engined (.decode 7 0)).engines[0] = .decode 7 0 ∧ findJob (engined (.decode 7 0)) 7 = none ∧ (engined (.decode 7 0)).sched.jobs = [] ∧
    decoding.engines[0] = .decode 1 0 ∧ (findJob (setEngine decoding 0 .free) 1).map (·.kind) = some (.image default (zeros 64)) ∧ (engined (.encode 7 0)).engines[0] = .encode 7 0 ∧
    (engined (.side 0)).engines[0] = .side 0 ∧ live.engines[7] = .free ∧ findTailor (tailoring false) 1 = some { tailor1 with updated := false } ∧
    findTailor (tailoring true) 1 = some tailor1 ∧ (findJob (tailoring true) 1).map (·.member) = some false ∧ tailor1.prep = none ∧ findPlan (tailoring true) tailor1.plan = some plan1 := by decide
theorem meets_Dictionary : live.dict.busy = false ∧ dictPlan dictUsed = true ∧ dictUsed.dict.busy = false ∧ dictPlan live = false ∧ dictBusy.dict.busy = true := by decide

/-! ### And of the clauses that hold in wider states -/

/-- Power, bring-up, health. -/
def mainOff : State := { live with pwr := { live.pwr with mainOk := false } }
def auxBad : State := { live with pwr := { live.pwr with auxOk := false } }
def badKey : RomFacts := { facts with pufOk := false }
theorem meets_PowerWide : mainOff.pwr.rails = true ∧ mainOff.pwr.mainOk = false ∧ mainOff.pwr.onAux = false ∧ auxBad.pwr.auxOk = false ∧ auxBad.pwr.rails = true := by decide
theorem meets_BringUpWide : (slotOrder (readRecords (atStage 1)).sec.flash).all (fun x => !imageQualifies (readRecords (atStage 1)).sec.floor x.2) = true ∧
    (atStage 1).sec.logCount = 0 ∧ (atStage 1).boot.recovery = false ∧ badKey.pufOk = false ∧
    ((atStage 5).reg8 0).spares < ((List.range 32).eraseDups.filter fun x => x / 32 == (0 : Region).val).length := by decide
theorem meets_DrainWide : ∀ g : Region, bitAt (2 : Byte).toNat g.val = true → (drained.reg8 g).state ≠ 0 := by decide
/-- Bank 0 of tile 0 without a free patch row; row 4 of it due, row 5 at the threshold. -/
def noPatch : State := { marked with store := { marked.store with badPatch := (List.range 32).map (fun p => (bankKey 0 0, p)), recent := [(bankKey 0 0, [(wordKey (tsAddr 0 5 0 0), 1000)])] } }
theorem meets_DarnWide : rowHeld marked 0 0 1536 = none ∧ rowHeld marked 0 0 5 = some 5 ∧ freePatch noPatch (bankKey 0 0) = none ∧ rowDue noPatch 0 0 4 = true ∧
    rowDue noPatch 0 0 5 = false ∧ rowAtThreshold noPatch 0 0 5 = true ∧ (noPatch.tile 0).failed = false := by decide

/-- Reads that fail, moderation, folds. -/
def reading : State := withJob live { job1 with kind := .image default (zeros 64), hdr := hdr0, state := .ready }
def moderated : State := { unsignalled with clk := { unsignalled.clk with running := true, timeBase := 101 } }
theorem meets_ReadWide : (reading.sched.jobs.find? fun j => j.ring == some (reading.ref pair0) && j.hdr.tag == 7 && jobReads j).map (·.id) = some 1 ∧ reading.sched.nextId = 2 ∧
    moderated.clk.running = true ∧ moderated.now ≤ 100 + nsToCycles (irqTimeNs moderated (moderated.ref pair0)) ∧
    100 + nsToCycles (irqTimeNs moderated (moderated.ref pair0)) < 2 ^ 64 := by decide
/-- A verdict fold that can commit, and one whose piece waits for its image. -/
def verdictOf (y : Piece) : State := { (trackWith y) with commitQ := [(1400, .verdict .A 0)] }
def overdue : Piece := { pieceZ with line0 := some 10, T := some 5, status := .late, inFold := true }
theorem meets_VerdictCommit : findPiece (verdictOf overdue) .A 0 = some overdue ∧ ((verdictOf overdue).track .A).firstLight = false ∧
    (commitVerdict { verdictOf overdue with commitQ := [] } .A 0).isSome = true := by decide +kernel
def encoding : State := (verdictOf { pieceZ with line0 := some 10, T := some 5, inFold := true, front := { (default : PieceSide) with pressed := true } }).modPort 0
  fun x => { x with cfg := { cfg2 with imgOut := 2 } }
theorem meets_VerdictWaits : (commitVerdict { encoding with commitQ := [] } .A 0).isNone = true := by decide +kernel

/-- Windows, jobs, tests, plans. -/
theorem meets_DmaWide : mayStart linked pair0 { hdr := hdr0, op := .twinDma ⟨0, 1, 0, 0, 64⟩ [] } = true ∧ dmaCheck linked ⟨0, 1, 0, 0, 64⟩ = none ∧
    (dmaSource linked 0 ⟨0, 1, 0, 0, 64⟩ []).2.1 = some (.dramUncorrectable, []) ∧ mayStart linked pair0 { hdr := hdr0, op := .twinDma ⟨0, 0, 0, 0, 0⟩ [] } = true ∧
    dmaCheck linked ⟨0, 0, 0, 0, 0⟩ = none ∧ (dmaSource linked 0 ⟨0, 0, 0, 0, 0⟩ []).2.1 = none := by decide
def testing : State := withPair drained fun x => { x with enable := true }
theorem meets_TestWide : mayStart testing pair0 { hdr := hdr0, op := .testRun ⟨3, 40, 0, 0, 0⟩ } = true ∧ readyFor testing pair0 = true ∧
    (testing.reg8 (Fin.ofNat 8 (40 / 32))).state = 2 ∧ mayStart testing pair0 { hdr := hdr0, op := .testRun ⟨3, 5, 0, 0, 0⟩ } = true ∧
    (testing.reg8 (Fin.ofNat 8 (5 / 32))).state ≠ 2 ∧ (ensureMasters planned plan1).isSome = true := by decide
theorem meets_HoleTests : inHole (tsAddr 77 1536 0 0) = true ∧ mayStart live pair0 { hdr := hdr0, op := .testRun ⟨5, 0, tsAddr 77 1536 0 0, 0, 0⟩ } = true ∧
    mayStart live pair0 { hdr := hdr0, op := .testRun ⟨4, 0, tsAddr 77 1536 0 0, 640, 128⟩ } = true ∧
    ((List.range (128 / 64)).find? fun i => inHole (tsAddr 77 1536 0 0 + 32 * i)) = some 0 ∧ inHole 64 = false ∧
    mayStart live pair0 { hdr := hdr0, op := .testRun ⟨5, 0, 64, 0, 0⟩ } = true := by decide
/-- A plan with a model of 32 bytes, and a wardrobe with room for it and without. -/
def plan3 : PlanRec := { plan1 with c := { cont1 with weights := zeros 32 } }
def modelled (rows : Nat) : State := { planned with plans := { planned.plans with loaded := [plan3] }, regs := [(regKey 0 0x2200C, rows)] }
theorem meets_PinWide : mayStart (modelled 1024) pair0 { hdr := hdr0, op := .wardrobePin ⟨1, 1⟩ } = true ∧ mayStart (modelled 0) pair0 { hdr := hdr0, op := .wardrobePin ⟨1, 1⟩ } = true ∧
    planOf (modelled 1024) 0 1 = some plan3 ∧ pinFits (modelled 1024) plan3 = true ∧ modelReady (modelled 1024) plan3 = false ∧ pinFits (modelled 0) plan3 = false ∧
    modelReady (modelled 0) plan3 = false ∧ modelReady planned plan1 = true ∧ pinFits planned plan1 = true ∧
    mayStart planned pair0 { hdr := hdr0, op := .wardrobePin ⟨2, 1⟩ } = true ∧ planOf planned 0 2 = none := by decide

/-- Arming and calibrating. -/
def firstLighting : State :=
  { armable.modPort 0 fun x => { x with calKey := some (8192, true) } with
    boot := { armable.boot with stage := 4 }, regs := [(regKey 0 0x10000, 8191 + 65536), (regKey 0 0x10440, 1000)] }
def disarmTwice : State := trackOn.modTrack .A fun x => { x with disarm := some ([(trackOn.ref pair0, hdr0)], [0]) }
def standing : State := { live with twin := { live.twin with state := .standby } }
theorem meets_ArmWide : mayStart live pair0 { hdr := hdr0, op := .scanArm ⟨0, 0, 1⟩ } = true ∧
    mayStart firstLighting pair0 { hdr := hdr0, op := .scanArm ⟨0, 1, 0xFFFFFFFF⟩ } = true ∧ readyFor firstLighting pair0 = true ∧ firstLighting.boot.stage < 5 ∧
    armPorts firstLighting (trackOf 0) 1 = some (0, none) ∧ (firstLighting.track (trackOf 0)).armed = false ∧
    portLimit firstLighting true (rateMax firstLighting .A) 1 0 (portCfg firstLighting 0 .A .front) = none := by decide +kernel
theorem meets_DisarmWide : readyFor disarmTwice pair0 = true ∧ mayStart disarmTwice pair0 { hdr := hdr0, op := .scanDisarm 0 } = true ∧
    (disarmTwice.track (trackOf 0)).armed = true ∧ (disarmTwice.track (trackOf 0)).disarm = some ([(disarmTwice.ref pair0, hdr0)], [0]) ∧ isStandby standing = true ∧
    mayStart standing pair0 { hdr := hdr0, op := .calRun ⟨0, 64, 100000000⟩ } = true ∧ (trackOn.lp (Fin.ofNat 4 0)).armed = true := by decide

/-- The updater in recovery; a window of the tile store; the twin enabled and fenced. -/
def recovering : State := { updating false with boot := { live.boot with recovery := true } }
def windowTs : Window := { target := 1, access := 1, base := 4096, len := 8192 }
def linkedTs : State := { linked with twin := { linked.twin with windows := [(0, windowTs)] } }
theorem meets_TwinWide : recovering.sec.updBusy = true ∧ recovering.sec.updBlob = false ∧ recovering.boot.recovery = true ∧ memoryOk linkedTs ∧
    windowOf linkedTs 0 = some windowTs ∧ bitAt windowTs.access 0 = true ∧ windowTs.target ≠ 0 ∧ 64 + (zeros 64).length ≤ windowTs.len ∧
    ((List.range (ceilDiv (zeros 64).length 32)).any fun k => inHole (windowTs.base + 64 + 32 * k)) = false ∧ linkedTs.store.marks = [] ∧
    nextFrame linkedTs 5 = true ∧ twinEnabled live ≠ true ∧ twinEnabled paired ≠ false := by
  refine ⟨rfl, rfl, rfl, ?_, by decide⟩
  unfold memoryOk; decide

/-- Encoders, edges, packets, lines, gaps. -/
def bothArmed : State := trackOn.modTrack .B fun x => { x with armed := true, front := some 2, plan := 1 }
def packetLanes : List (List Byte) := [[0] ++ packet 1 0 0 true, [], [], [], [], [], [], []]
def gapped : State := live.modPort 0 fun x => { x with inUse := some default, strip := { x.strip with start := some 1, stop := some 5, n := 10, lastPos := 4 } }
theorem meets_EncoderLine : (true == trackOn.trackA.chA) ≠ (false == trackOn.trackA.chB) ∧
    (((quadIndex true false + 4 - quadIndex trackOn.trackA.chA trackOn.trackA.chB) % 4 == 1) != trackOn.trackA.rev) = true ∧ trackOn.trackA.armed = true ∧
    trackOn.trackA.restart = none ∧ trackOn.trackA.highMark < wrap48 (trackOn.trackA.position + 1) ∧ trackOn.trackA.divisor ≤ trackOn.trackA.phase + 65536 ∧
    tooSoon (passTime trackOn 7) trackOn.trackA = false ∧ trackOn.trackA.portsOf.count 0 = 1 ∧ sublineDue.trackA.portsOf.count 0 = 1 := by decide +kernel
theorem meets_EdgesOfBoth (k : Track) : (bothArmed.track k).armed = true ∧ (bothArmed.track k).disarm = none ∧
    ∀ e ∈ (bothArmed.track k).edges, 64 * (bothArmed.track k).divisor < (((bothArmed.track k).position - e).natAbs : Int) * 65536 := by cases k <;> decide
theorem meets_PacketLanes : packetOfLanes (receiving.lp 0).cfg.lanes packetLanes = some (packet 1 0 0 true) ∧ packetOfLanes 1 [[0xB8], [], [], [], [], [], [], []] = none := by decide +kernel
theorem meets_PieceEndsWide : findPiece noEdge .A 0 = some { pieceZ with line0 := none } ∧ findPiece tooLong .A 0 = some { pieceZ with line0 := some 20 } ∧
    findPiece ending .A 0 = some { pieceZ with line0 := some 190, blank := 10, lastPaper := 60 } ∧ pieceZ.posted = false := by decide
theorem meets_GapsWide : (gapped.lp 0).strip.stop = some 5 ∧ (gapped.lp 0).inUse = some default ∧ (gapped.lp 0).cfg.gapLines ≤ (gapped.lp 0).strip.n ∧
    (∀ i ∈ [0, 1, 2], 256 * keptCount (coefCol default i) ≤ (gapped.lp 0).cfg.maxFrac * (coefCol default i).length) ∧
    (matching.trackA.portsOf.all fun p => checkWhole (matching.lp p)) = true ∧ (mismatched.trackA.portsOf.all fun p => checkWhole (mismatched.lp p)) = true ∧
    0 ∈ mismatched.trackA.portsOf ∧ sideMatches (mismatched.lp 0) (bestShift (mismatched.lp 0)) = false := by decide +kernel
theorem meets_ReservationMove : (moveReservation moving 0).isSome = true := by rw [moveReservation_isSome]; decide +kernel

/-- Steps, staging, codec engines, the tailoring commit. -/
def wanting : State := { sequenced with pool := { sequenced.pool with seqs := [{ seq1 with req := some default }] } }
def staged : State :=
  withJob { planned with regs := [(regKey 0 0x22024, 1)] } { job1 with kind := .image image64 block64, state := .ready, lanes := [], ctx := none }
def sideDue : State := (engined (.side 0)).modTrack .A fun x =>
  { x with armed := true, front := some 0, pieces := [{ pieceZ with line0 := some 10, T := some 5, front := { (default : PieceSide) with pressed := true } }] }
def sideDueOut : State := sideDue.modPort 0 fun x => { x with cfg := { cfg2 with imgOut := 2 } }
theorem meets_StepWide : (batchSeqs wanting 1).any (wantsStep wanting) = true ∧ findPlan wanting 1 = some plan1 ∧ stepRuns wanting 1 = false ∧ seqJobs wanting 1 = [] := by decide
theorem meets_CodecWide : (sortBy (fun a b => lexLe (candKey staged a) (candKey staged b)) (staged.sched.jobs.filter wantsStaging)).map (·.id) = [1] ∧
    (staged.sched.jobs.map fun j => decide (stagingUsed staged + stagingNeed staged j ≤ stageBytes staged)) = [true] ∧
    (sideEncode sideDueOut 0).map (fun x => (x.1.num, x.2)) = some (0, 1) ∧ sideDueOut.engines[0] = .side 0 := by decide
def sampled : State :=
  { withJob live { job1 with kind := .tailor default [] } with
    engines := live.engines.set 0 (.decode 1 3), tailor := { live.tailor with steps := [{ tailor1 with samples := [{ (default : SampleSt) with idx := 3, entry := zeros 16 ++ leBytes 4 4 ++ zeros 12 }] }] } }
theorem meets_SampleWide : sampled.engines[0] = .decode 1 3 ∧ (findJob sampled 1).map (·.kind) = some (.tailor default []) ∧
    ((findTailor sampled 1).bind fun t => t.samples.find? fun y => y.idx == 3).map (·.height) = some 4 := by decide
theorem meets_TailorWide : (prepareSwap tailorable tailor1 plan2 default).toBool = true ∧ findTailor tailorable 1 = some tailor1 ∧ findPlan tailorable 1 = some plan2 ∧
    (prepareSwap (tailoring true) tailor1 plan1 default).toBool = false ∧ ((findJob tailorable 1).map (·.member)) = some false := by decide

end Sys2Proof.Tests
end

section
/-! PROOF. A quadrature error (R44): what a count of both channels does to its track, and what it leaves. -/

namespace Sys2Proof.Machine

open Sys2Proof

/-! ### The passage of time -/

/-- An operation that moves at most the clock and the counters. -/
def ticksOnly (s t : State) : Prop := { t with clk := s.clk, cnt := s.cnt } = s

theorem ticksOnly_refl (s : State) : ticksOnly s s := rfl

theorem ticksOnly_trans {s t u : State} (h : ticksOnly s t) (k : ticksOnly t u) : ticksOnly s u := by
  unfold ticksOnly at *
  rw [← h, ← k]

theorem ticksOnly_countN (s : State) (a b c n : Nat) : ticksOnly s (s.countN a b c n) := rfl

theorem ticksOnly_clk (s : State) (c : Clock) : ticksOnly s { s with clk := c } := rfl

theorem ticksOnly_foldl {α : Type} {f : State → α → State} (h : ∀ s a, ticksOnly s (f s a)) (xs : List α) (s : State) : ticksOnly s (xs.foldl f s) :=
  foldl_keeps (ticksOnly s) f (fun t a ht => ticksOnly_trans ht (h t a)) xs s (ticksOnly_refl s)

theorem ticksOnly_countFrames (s : State) (k : Nat) : ticksOnly s (countFrames s k) := by
  unfold countFrames
  split
  · exact ticksOnly_refl s
  · refine ticksOnly_foldl (fun t g => ?_) allRegions s
    split
    · exact ticksOnly_refl t
    · dsimp only
      split
      · exact ticksOnly_countN ..
      · refine ticksOnly_trans (ticksOnly_countN ..) (ticksOnly_foldl (fun u i => ?_) _ _)
        split
        · exact ticksOnly_refl u
        · exact ticksOnly_countN ..

theorem ticksOnly_countHeld (s : State) (n : Nat) : ticksOnly s (countHeld s n) := by
  unfold countHeld
  split
  · exact ticksOnly_countN ..
  · exact ticksOnly_refl s

theorem ticksOnly_passTime (s : State) (n : Nat) : ticksOnly s (passTime s n) := by
  unfold passTime
  split
  · refine ticksOnly_trans (ticksOnly_countHeld s n) ?_
    dsimp only
    generalize countHeld s n = u
    exact ticksOnly_trans (ticksOnly_clk u _) (ticksOnly_countFrames _ _)
  · exact ticksOnly_refl s

@[simp] theorem passTime_track (s : State) (n : Nat) (t : Track) : (passTime s n).track t = s.track t := by
  cases t
  · have k := congrArg State.trackA (ticksOnly_passTime s n); exact k
  · have k := congrArg State.trackB (ticksOnly_passTime s n); exact k

@[simp] theorem passTime_regs (s : State) (n : Nat) : (passTime s n).regs = s.regs := by
  have k := congrArg State.regs (ticksOnly_passTime s n); exact k

/-! ### Updates of one track -/

theorem State.modTrack_modTrack (s : State) (t : Track) (f g : TrackState → TrackState) :
    (s.modTrack t f).modTrack t g = s.modTrack t (g ∘ f) := by cases t <;> rfl

theorem State.portCnt_modTrack (s : State) (t : Track) (g : TrackState → TrackState) (p : Port) (i n : Nat) :
    (s.modTrack t g).portCnt p i n = (s.portCnt p i n).modTrack t g := by cases t <;> rfl

@[simp] theorem State.portCnt_track (s : State) (p : Port) (i n : Nat) (t : Track) : (s.portCnt p i n).track t = s.track t :=
  State.countN_track ..

/-- An update of one track after a lapse of time moves nothing beside the clock, the counters and the tracks. -/
theorem State.modTrack_frame {s u : State} (h : ticksOnly s u) (t : Track) (g : TrackState → TrackState) :
    { u.modTrack t g with clk := s.clk, cnt := s.cnt, trackA := s.trackA, trackB := s.trackB } = s := by
  have k := congrArg (fun v : State => { v with trackA := s.trackA, trackB := s.trackB }) h
  cases t <;> exact k

/-- The front port of a track follows from its `front` and the registers alone. -/
theorem State.frontPort_congr {s s' : State} {t : Track} (hf : (s'.track t).front = (s.track t).front) (hr : s'.regs = s.regs) :
    s'.frontPort t = s.frontPort t := by
  unfold State.frontPort lpMap regGet
  rw [hf, hr]

@[simp] theorem passTime_frontPort (s : State) (n : Nat) (t : Track) : (passTime s n).frontPort t = s.frontPort t :=
  State.frontPort_congr (by rw [passTime_track]) (passTime_regs s n)

theorem State.modTrack_frontPort (s : State) (t : Track) (g : TrackState → TrackState) (h : (g (s.track t)).front = (s.track t).front) :
    (s.modTrack t g).frontPort t = s.frontPort t :=
  State.frontPort_congr (by rw [State.modTrack_same, h]) (State.modTrack_regs s t g)

/-! ### The count of both channels -/

/-- A track whose channels stand at new levels. -/
def atLevels (a b : Bool) (x : TrackState) : TrackState := { x with chA := a, chB := b }

/-- A track with new notes of FEED_HOLD: whether a hold has been seen, whether the encoder has rested in it, and the restart. -/
def feedNoted (held rested : Bool) (restart : Option Restart) (x : TrackState) : TrackState :=
  { x with held := held, rested := rested, restart := restart }

/-- A track's record of a quadrature error (R44): the mark on the line, and a DIAG entry in every piece in flight. -/
def quadMarked (x : TrackState) : TrackState :=
  { x with quad := true,
           pieces := mapWhere inFlight
             (fun p => { p with diag := addDiag p.diag 2 .front (x.encLine - p.line0.getD 0).toNat (toBits x.position 32) }) x.pieces }

/-- Channels that both change are two places apart in the forward order. -/
theorem quadIndex_bothChange (a b : Bool) : (quadIndex (!a) (!b) + 4 - quadIndex a b) % 4 = 2 := by
  cases a <;> cases b <;> rfl

theorem quadError_eq (s : State) (t : Track) : quadError s t = (s.portCnt (s.frontPort t) 6).modTrack t quadMarked := by
  cases t <;> rfl

/-- A count that is not backward begins no restart: it moves at most the track's notes of FEED_HOLD. -/
theorem noteFeed_notBack (s : State) (t : Track) :
    ∃ held rested restart, noteFeed s t false = s.modTrack t (feedNoted held rested restart) := by
  have unchanged : s = s.modTrack t (feedNoted (s.track t).held (s.track t).rested (s.track t).restart) := by cases t <;> rfl
  simp only [noteFeed, Bool.false_and, Bool.false_eq_true, if_false]
  split
  · split
    · exact ⟨_, _, _, unchanged⟩
    · exact ⟨true, (s.track t).rested, (s.track t).restart, by cases t <;> rfl⟩
  · split
    · exact ⟨(s.track t).held, false, (s.track t).restart.map fun r => { r with released := true }, by cases t <;> rfl⟩
    · exact ⟨_, _, _, unchanged⟩

/-- ENCODER_COUNT with the channels two places on: time passes, the front port counts the error, and the track takes the new levels, the notes of FEED_HOLD
and the record of the error. -/
theorem execEncoderCount_twoPlaces (s : State) (t : Track) (a b : Bool) (dt : Nat)
    (two : (quadIndex a b + 4 - quadIndex (s.track t).chA (s.track t).chB) % 4 = 2) :
    ∃ held rested restart, execEncoderCount t a b dt s =
      .next (((passTime s (7 * dt)).portCnt (s.frontPort t) 6).modTrack t (quadMarked ∘ feedNoted held rested restart ∘ atLevels a b)) := by
  obtain ⟨held, rested, restart, hfeed⟩ := noteFeed_notBack ((passTime s (7 * dt)).modTrack t (atLevels a b)) t
  have count : execEncoderCount t a b dt s = .next (quadError (noteFeed ((passTime s (7 * dt)).modTrack t (atLevels a b)) t false) t) := by
    simp only [execEncoderCount, passTime_track, two]
    rfl
  refine ⟨held, rested, restart, ?_⟩
  rw [count, hfeed, quadError_eq, State.modTrack_modTrack, State.modTrack_frontPort, passTime_frontPort, State.portCnt_modTrack, State.modTrack_modTrack]
  rfl

/-- Settles O50: both channels' change is the case of two places, which moves beside the clock and the counters its own track only. -/
theorem quadratureError : Obligations.QuadratureError := by
  intro s k dt
  obtain ⟨held, rested, restart, count⟩ := execEncoderCount_twoPlaces s k _ _ dt (quadIndex_bothChange (s.track k).chA (s.track k).chB)
  refine ⟨_, count, State.modTrack_cnt .., ?position, ?pieces, ?chA, ?chB, ?encLine, ?quad, fun j other => ?others, ?frame⟩
  case others => rw [State.modTrack_other _ other.symm, State.portCnt_track, passTime_track]
  case frame => exact State.modTrack_frame (ticksOnly_trans (ticksOnly_passTime s _) (ticksOnly_countN ..)) k _
  all_goals
    rw [State.modTrack_same, State.portCnt_track, passTime_track]
    rfl

end Sys2Proof.Machine
end

section
/-! PROOF. What follows of a state within one fabric cycle: one lemma for each operation that the pump of the rings can come to says that the time base stands and that what
was sent stays sent. -/

namespace Sys2Proof.Machine

open Sys2Proof

/-! ### The same cycle: the time base stands, and what was sent stays sent -/

/-- A later state of the same fabric cycle: the time base is as it was, and the messages sent before are the first of those sent by now. -/
def sameCycle (s t : State) : Prop := t.clk.timeBase = s.clk.timeBase ∧ s.out <+: t.out

theorem sameCycle_refl (s : State) : sameCycle s s := ⟨rfl, List.prefix_rfl⟩

theorem sameCycle_now {s t : State} (h : sameCycle s t) : t.now = s.now := congrArg BitVec.toNat h.1

theorem sameCycle_sent {s t : State} (h : sameCycle s t) {o : Output} (ho : o ∈ s.out) : o ∈ t.out := h.2.subset ho

section
variable {s₀ s t : State}

/-- An operation that leaves the clock and the messages. -/
theorem sameCycle_of (h : sameCycle s₀ s) (clk : t.clk = s.clk) (out : t.out = s.out) : sameCycle s₀ t := by
  unfold sameCycle
  rwa [clk, out]

theorem sameCycle_ite {c : Prop} [Decidable c] (h : sameCycle s₀ s) (k : sameCycle s₀ t) : sameCycle s₀ (if c then s else t) := by
  split
  · exact h
  · exact k

/-- A step that is left out unless a condition holds. -/
theorem sameCycle_when {c : Prop} [Decidable c] (f : sameCycle s₀ s → sameCycle s₀ t) (h : sameCycle s₀ s) : sameCycle s₀ (if c then t else s) :=
  sameCycle_ite (f h) h

/-- A step that is left out where a condition holds. -/
theorem sameCycle_unless {c : Prop} [Decidable c] (f : sameCycle s₀ s → sameCycle s₀ t) (h : sameCycle s₀ s) : sameCycle s₀ (if c then s else t) :=
  sameCycle_ite h (f h)

theorem sameCycle_foldl {α : Type} {f : State → α → State} {xs : List α} (h : sameCycle s₀ s) (hf : ∀ s a, sameCycle s₀ s → sameCycle s₀ (f s a)) :
    sameCycle s₀ (xs.foldl f s) := foldl_keeps (sameCycle s₀) f hf xs s h

/-! #### Updates of one part of the state, and messages -/

theorem sameCycle_emit {o} (h : sameCycle s₀ s) : sameCycle s₀ (s.emit o) := ⟨h.1, h.2.trans (List.prefix_append ..)⟩
theorem sameCycle_modFn {f g} (h : sameCycle s₀ s) : sameCycle s₀ (s.modFn f g) := h
theorem sameCycle_modRing {r g} (h : sameCycle s₀ s) : sameCycle s₀ (s.modRing r g) := h
theorem sameCycle_modPort {p g} (h : sameCycle s₀ s) : sameCycle s₀ (s.modPort p g) := h
theorem sameCycle_modTrack {t g} (h : sameCycle s₀ s) : sameCycle s₀ (s.modTrack t g) := by cases t <;> exact h
theorem sameCycle_modTile {t g} (h : sameCycle s₀ s) : sameCycle s₀ (s.modTile t g) := h
theorem sameCycle_countN {a b c n} (h : sameCycle s₀ s) : sameCycle s₀ (s.countN a b c n) := h
theorem sameCycle_chipCnt {i n} (h : sameCycle s₀ s) : sameCycle s₀ (s.chipCnt i n) := h
theorem sameCycle_laterPeg {p v} (h : sameCycle s₀ s) : sameCycle s₀ (s.laterPeg p v) := h
theorem sameCycle_setMark {a m} (h : sameCycle s₀ s) : sameCycle s₀ (setMark s a m) := h
theorem sameCycle_noteCorrected {a} (h : sameCycle s₀ s) : sameCycle s₀ (noteCorrected s a) := h
theorem sameCycle_modPlan {n f} (h : sameCycle s₀ s) : sameCycle s₀ (modPlan s n f) := h
theorem sameCycle_modSeq {n f} (h : sameCycle s₀ s) : sameCycle s₀ (modSeq s n f) := h
theorem sameCycle_addRef {p} (h : sameCycle s₀ s) : sameCycle s₀ (addRef s p) := h
theorem sameCycle_startWalk {p} (h : sameCycle s₀ s) : sameCycle s₀ (startWalk s p) := h
theorem sameCycle_endWalk {p} (h : sameCycle s₀ s) : sameCycle s₀ (endWalk s p) := h
theorem sameCycle_raiseVersion (h : sameCycle s₀ s) : sameCycle s₀ (raiseVersion s) := h
theorem sameCycle_modJob {n f} (h : sameCycle s₀ s) : sameCycle s₀ (modJob s n f) := h
theorem sameCycle_addJob {j} (h : sameCycle s₀ s) : sameCycle s₀ (addJob s j).2 := h
theorem sameCycle_modAcct {f g} (h : sameCycle s₀ s) : sameCycle s₀ (modAcct s f g) := h
theorem sameCycle_modLane {j k f} (h : sameCycle s₀ s) : sameCycle s₀ (modLane s j k f) := h
theorem sameCycle_removeJob {n} (h : sameCycle s₀ s) : sameCycle s₀ (removeJob s n) := h
theorem sameCycle_dropOldModels (h : sameCycle s₀ s) : sameCycle s₀ (dropOldModels s) := h
theorem sameCycle_touchModel {j} (h : sameCycle s₀ s) : sameCycle s₀ (touchModel s j) := h
theorem sameCycle_modFold {r n g} (h : sameCycle s₀ s) : sameCycle s₀ (modFold s r n g) := h
theorem sameCycle_modPiece {t n f} (h : sameCycle s₀ s) : sameCycle s₀ (modPiece s t n f) := sameCycle_modTrack h
theorem sameCycle_setFault {j st a b} (h : sameCycle s₀ s) : sameCycle s₀ (setFault s j st a b) := h
theorem sameCycle_modTransfer {x f} (h : sameCycle s₀ s) : sameCycle s₀ (modTransfer s x f) := h
theorem sameCycle_armTrack {t f n} (h : sameCycle s₀ s) : sameCycle s₀ (armTrack s t f n) := sameCycle_modTrack h
theorem sameCycle_modSample {j k f} (h : sameCycle s₀ s) : sameCycle s₀ (modSample s j k f) := h
theorem sameCycle_touchCache {f k} (h : sameCycle s₀ s) : sameCycle s₀ (touchCache s f k) := h
theorem sameCycle_setEngine {k e} (h : sameCycle s₀ s) : sameCycle s₀ (setEngine s k e) := h
theorem sameCycle_setPin {k b} (h : sameCycle s₀ s) : sameCycle s₀ (setPin s k b) := h
theorem sameCycle_setBank {k b} (h : sameCycle s₀ s) : sameCycle s₀ (setBank s k b) := h
theorem sameCycle_addMember {r m b} (h : sameCycle s₀ s) : sameCycle s₀ (addMember s r m b) := h
theorem sameCycle_startFoldOpen {r k} (h : sameCycle s₀ s) : sameCycle s₀ (startFoldOpen s r k) := h
theorem sameCycle_setPeg {p v} (h : sameCycle s₀ s) : sameCycle s₀ (s.setPeg p v) := h
theorem sameCycle_addPeg {p v} (h : sameCycle s₀ s) : sameCycle s₀ (s.addPeg p v) := h
theorem sameCycle_hostWrite {f a b} (h : sameCycle s₀ s) : sameCycle s₀ (s.hostWrite f a b) := sameCycle_chipCnt (sameCycle_emit h)
theorem sameCycle_hostRead {f a n} (h : sameCycle s₀ s) : sameCycle s₀ (s.hostRead f a n) := sameCycle_chipCnt (sameCycle_emit h)
theorem sameCycle_raiseVec {f v} (h : sameCycle s₀ s) : sameCycle s₀ (s.raiseVec f v) := sameCycle_ite (sameCycle_modFn h) (sameCycle_emit h)
theorem sameCycle_raiseEvent {f} (h : sameCycle s₀ s) : sameCycle s₀ (s.raiseEvent f) := sameCycle_raiseVec h

/-! #### Completions, pegs and the health log -/

theorem sameCycle_moderate {r b} (h : sameCycle s₀ s) : sameCycle s₀ (moderate s r b) :=
  sameCycle_ite (sameCycle_raiseVec (sameCycle_modRing h)) (sameCycle_modRing h)

theorem sameCycle_writeCompl {r c} (h : sameCycle s₀ s) : sameCycle s₀ (writeCompl s r c) :=
  sameCycle_moderate (sameCycle_when sameCycle_laterPeg (sameCycle_modRing (sameCycle_hostWrite h)))

theorem sameCycle_postCompl {r c} (h : sameCycle s₀ s) : sameCycle s₀ (postCompl s r c) :=
  sameCycle_ite h (sameCycle_ite (sameCycle_writeCompl h) (sameCycle_modRing h))

theorem sameCycle_complete {r k n st x} (h : sameCycle s₀ s) : sameCycle s₀ (complete s r k n st x) := sameCycle_postCompl h

theorem sameCycle_judgeWait {w} (h : sameCycle s₀ s) : sameCycle s₀ (judgeWait s w) :=
  have k := sameCycle_modRing h
  sameCycle_ite (sameCycle_postCompl k) (sameCycle_ite (sameCycle_postCompl k) h)

theorem sameCycle_pegArbitrate {sets adds} (h : sameCycle s₀ s) : sameCycle s₀ (pegArbitrate s sets adds) :=
  sameCycle_foldl (sameCycle_foldl (sameCycle_foldl (sameCycle_of h rfl rfl) fun _ _ => sameCycle_setPeg) fun _ _ => sameCycle_addPeg) fun _ _ => sameCycle_judgeWait

theorem sameCycle_logHealth {e} (h : sameCycle s₀ s) : sameCycle s₀ (logHealth s e) :=
  sameCycle_ite (sameCycle_raiseEvent (sameCycle_laterPeg (sameCycle_hostWrite (sameCycle_of h rfl rfl)))) (sameCycle_of h rfl rfl)

/-! #### The tile store -/

theorem sameCycle_readWord {a} (h : sameCycle s₀ s) : sameCycle s₀ (readWord s a).2.2 :=
  sameCycle_ite (sameCycle_noteCorrected h) (sameCycle_ite (sameCycle_countN h) h)

theorem sameCycle_readVia {at?} {a n : Nat} (f : Nat) (h : sameCycle s₀ s) : sameCycle s₀ (readVia at? s a n f).2.2 := by
  induction f generalizing s a n with
  | zero => exact h
  | succ f ih =>
    unfold readVia
    split
    · exact h
    · dsimp only
      split
      · exact ih h
      · exact ih (sameCycle_readWord h)

theorem sameCycle_readBytes {a n} (h : sameCycle s₀ s) : sameCycle s₀ (readBytes s a n).2.2 := sameCycle_readVia _ h

theorem sameCycle_writeWord {a bs} (h : sameCycle s₀ s) : sameCycle s₀ (writeWord s a bs).2 := by
  unfold writeWord; dsimp only
  split
  · exact sameCycle_countN h
  · exact sameCycle_when (sameCycle_of · rfl rfl) (sameCycle_unless sameCycle_setMark (sameCycle_of (sameCycle_when sameCycle_noteCorrected h) rfl rfl))

theorem sameCycle_writeVia {at?} {a bs} (f : Nat) (h : sameCycle s₀ s) : sameCycle s₀ (writeVia at? s a bs f).2 := by
  induction f generalizing s a bs with
  | zero => exact h
  | succ f ih =>
    unfold writeVia
    split
    · exact h
    · dsimp only
      split
      · exact ih h
      · exact ih (sameCycle_writeWord h)

theorem sameCycle_writeBytes {a bs} (h : sameCycle s₀ s) : sameCycle s₀ (writeBytes s a bs).2 := sameCycle_writeVia _ h

theorem sameCycle_doDarn {t b r p} (h : sameCycle s₀ s) : sameCycle s₀ (doDarn s t b r p) := sameCycle_logHealth (sameCycle_of h rfl rfl)

theorem sameCycle_logFull {t b} (h : sameCycle s₀ s) : sameCycle s₀ (logFull s t b) := sameCycle_ite h (sameCycle_logHealth (sameCycle_of h rfl rfl))

theorem sameCycle_darnRow {t b r c} (h : sameCycle s₀ s) : sameCycle s₀ (darnRow s t b r c).2 := by
  unfold darnRow
  split
  · exact sameCycle_doDarn h
  · exact sameCycle_logFull h

theorem sameCycle_logWords {f as} (h : sameCycle s₀ s) : sameCycle s₀ (logWords s f as) := sameCycle_foldl h fun _ _ => sameCycle_logHealth

/-! #### The page pool and sequences -/

theorem sameCycle_dropRef {p q} (h : sameCycle s₀ s) : sameCycle s₀ (dropRef s p q) := sameCycle_ite (sameCycle_of h rfl rfl) (sameCycle_of h rfl rfl)

theorem sameCycle_shareOne {q p o l} (h : sameCycle s₀ s) : sameCycle s₀ (shareOne q p o s l) := by
  unfold shareOne
  split
  · exact sameCycle_modSeq (sameCycle_addRef h)
  · exact h

theorem sameCycle_dropOne {p n k} (h : sameCycle s₀ s) : sameCycle s₀ (dropOne p n s k) := by
  unfold dropOne
  split
  · exact sameCycle_modSeq (sameCycle_dropRef h)
  · exact h

theorem sameCycle_editApply {f o} (h : sameCycle s₀ s) : sameCycle s₀ (editApply s f o) := by
  unfold editApply
  split
  · exact h
  · split
    · split
      · exact h
      · exact sameCycle_modSeq (sameCycle_foldl h fun _ _ => sameCycle_shareOne)
    · exact sameCycle_modSeq h
    · exact sameCycle_modSeq h
    · exact sameCycle_modSeq (sameCycle_foldl h fun _ _ => sameCycle_dropOne)
    · exact sameCycle_modSeq h

/-! #### Jobs: their places, their start and their end -/

theorem sameCycle_holdTiles {j ts} (h : sameCycle s₀ s) : sameCycle s₀ (holdTiles s j ts) := sameCycle_foldl h fun _ _ => sameCycle_modTile

theorem sameCycle_freeLane {j l} (h : sameCycle s₀ s) : sameCycle s₀ (freeLane j s l) := by
  have freed : sameCycle s₀ (l.tiles.foldl (fun s t => s.modTile t fun x => { x with job := none, idleSince := s.now }) s) :=
    sameCycle_foldl h fun _ _ => sameCycle_modTile
  refine sameCycle_modLane (sameCycle_of ?_ rfl rfl)
  split
  · exact sameCycle_of freed rfl rfl
  · exact freed

theorem sameCycle_releaseJob {j} (h : sameCycle s₀ s) : sameCycle s₀ (releaseJob s j) :=
  sameCycle_modJob (sameCycle_of (sameCycle_when sameCycle_endWalk (sameCycle_foldl h fun _ _ => sameCycle_freeLane)) rfl rfl)

theorem sameCycle_finishJob {j b} (h : sameCycle s₀ s) : sameCycle s₀ (finishJob s j b) :=
  have released := sameCycle_releaseJob h
  sameCycle_when (fun k => sameCycle_chipCnt (sameCycle_modAcct k))
    (sameCycle_ite (sameCycle_modJob released) (sameCycle_dropOldModels (sameCycle_removeJob released)))

theorem sameCycle_requestLoad {p b} (h : sameCycle s₀ s) : sameCycle s₀ (requestLoad s p b) := sameCycle_ite h (sameCycle_of h rfl rfl)

theorem sameCycle_takePlace {j c e} (h : sameCycle s₀ s) : sameCycle s₀ (takePlace j c s e) :=
  sameCycle_modLane (sameCycle_when sameCycle_countN (sameCycle_holdTiles (sameCycle_of h rfl rfl)))

theorem sameCycle_bindJob {j c ps} (h : sameCycle s₀ s) : sameCycle s₀ (bindJob s j c ps) :=
  sameCycle_touchModel (sameCycle_modAcct (sameCycle_unless sameCycle_chipCnt
    (sameCycle_foldl (sameCycle_of h rfl rfl) fun _ _ => sameCycle_takePlace)))

theorem sameCycle_tryStart {j} (h : sameCycle s₀ s) (started : tryStart s j = some t) : sameCycle s₀ t := by
  unfold tryStart at started
  split at started
  · exact Option.some.inj started ▸ sameCycle_bindJob h
  · cases started

theorem sameCycle_preempt {j} (h : sameCycle s₀ s) : sameCycle s₀ (preempt s j) := sameCycle_ite (sameCycle_foldl h fun _ _ => sameCycle_modJob) h

theorem sameCycle_makeReady {j} (h : sameCycle s₀ s) : sameCycle s₀ (makeReady s j) := sameCycle_modJob h

theorem sameCycle_admitWaiting (h : sameCycle s₀ s) : sameCycle s₀ (admitWaiting s) := by
  refine sameCycle_foldl h fun s j h => ?_
  have readied : sameCycle s₀ (match findPlan s j.plan with
      | some p => if busyJobs s j.plan < p.c.concurrency then makeReady s j else s
      | none => s) := by
    split
    · exact sameCycle_ite (sameCycle_makeReady h) h
    · exact h
  split
  · exact h
  · exact sameCycle_makeReady h
  · exact sameCycle_ite h readied
  · exact readied

theorem sameCycle_startAll (f : Nat) (h : sameCycle s₀ s) : sameCycle s₀ (startAll s f) := by
  induction f generalizing s with
  | zero => exact h
  | succ f ih =>
    unfold startAll
    split
    next found =>
      obtain ⟨j, -, started⟩ := List.exists_of_findSome?_eq_some found
      exact ih (sameCycle_tryStart h started)
    next => exact h

theorem sameCycle_askModels (h : sameCycle s₀ s) : sameCycle s₀ (askModels s) := by
  refine sameCycle_foldl h fun s j h => ?_
  split
  · exact sameCycle_ite (sameCycle_requestLoad h) h
  · exact h

theorem sameCycle_runSched (h : sameCycle s₀ s) : sameCycle s₀ (runSched s) :=
  sameCycle_ite h (sameCycle_foldl (sameCycle_askModels (sameCycle_startAll _ (sameCycle_admitWaiting h))) fun _ _ => sameCycle_preempt)

/-! #### The basket, folds and verdicts -/

theorem sameCycle_setBasketCause {b} (h : sameCycle s₀ s) : sameCycle s₀ (setBasketCause s b) :=
  sameCycle_foldl h fun _ _ h => sameCycle_ite h (sameCycle_modTrack h)

theorem sameCycle_basketMarks (h : sameCycle s₀ s) : sameCycle s₀ (basketMarks s) :=
  sameCycle_ite (sameCycle_setBasketCause (sameCycle_chipCnt (sameCycle_of h rfl rfl))) (sameCycle_ite (sameCycle_setBasketCause (sameCycle_of h rfl rfl)) h)

theorem sameCycle_commitPost {k p} (h : sameCycle s₀ s) : sameCycle s₀ (commitPost s k p) := sameCycle_basketMarks (sameCycle_of h rfl rfl)

theorem sameCycle_discardBuilding {k} (h : sameCycle s₀ s) : sameCycle s₀ (discardBuilding s k) := sameCycle_basketMarks (sameCycle_of h rfl rfl)

theorem sameCycle_reachCommit {k} (h : sameCycle s₀ s) : sameCycle s₀ (reachCommit s k) := sameCycle_ite h (sameCycle_of h rfl rfl)

theorem sameCycle_checkFold {r n} (h : sameCycle s₀ s) : sameCycle s₀ (checkFold s r n) := by
  unfold checkFold
  split
  · exact sameCycle_ite (sameCycle_reachCommit h) h
  · exact h

theorem sameCycle_memberEnded {r j st x p} (h : sameCycle s₀ s) : sameCycle s₀ (memberEnded s r j st x p) := by
  unfold memberEnded
  split
  · exact h
  · exact sameCycle_checkFold (sameCycle_modFold h)

theorem sameCycle_reportJob {j st x p} (h : sameCycle s₀ s) : sameCycle s₀ (reportJob s j st x p) := by
  unfold reportJob
  split
  · exact sameCycle_discardBuilding h
  · refine sameCycle_ite (sameCycle_ite (sameCycle_memberEnded h) (sameCycle_discardBuilding h)) ?_
    dsimp only
    split
    · exact sameCycle_commitPost h
    · exact sameCycle_postCompl (sameCycle_discardBuilding h)

theorem sameCycle_stopPiece {t n} (h : sameCycle s₀ s) : sameCycle s₀ (stopPiece s t n) :=
  sameCycle_of (sameCycle_foldl h fun _ _ => sameCycle_finishJob) rfl rfl

theorem sameCycle_verdictFold {t n} (h : sameCycle s₀ s) : sameCycle s₀ (verdictFold s t n) :=
  sameCycle_ite (sameCycle_reachCommit (sameCycle_modPiece h)) (sameCycle_modPiece h)

theorem sameCycle_discardPiece {t n st} (h : sameCycle s₀ s) : sameCycle s₀ (discardPiece s t n st) := by
  unfold discardPiece
  split
  · exact sameCycle_ite (sameCycle_verdictFold (sameCycle_stopPiece (sameCycle_modPiece h))) h
  · exact h

theorem sameCycle_seqEnded {t n} (h : sameCycle s₀ s) : sameCycle s₀ (seqEnded s t n) := by
  unfold seqEnded
  split
  · exact sameCycle_ite (sameCycle_verdictFold (sameCycle_stopPiece h)) h
  · exact h

/-! #### Steps of sequences and failing jobs -/

theorem sameCycle_failSeqStep {q st} (h : sameCycle s₀ s) : sameCycle s₀ (failSeqStep s q st) := by
  unfold failSeqStep
  split
  · exact sameCycle_modSeq (sameCycle_removeJob (sameCycle_reportJob h))
  · exact sameCycle_modSeq h

theorem sameCycle_endSeq {q st} (h : sameCycle s₀ s) : sameCycle s₀ (endSeq s q st) := by
  unfold endSeq
  dsimp only
  split
  · exact sameCycle_discardPiece (sameCycle_modSeq h)
  · exact sameCycle_failSeqStep (sameCycle_modSeq h)

theorem sameCycle_releaseSeq {q} (h : sameCycle s₀ s) : sameCycle s₀ (releaseSeq s q) := by
  refine sameCycle_ite h ?_
  split
  · exact sameCycle_seqEnded h
  · exact sameCycle_ite (sameCycle_failSeqStep h) h

theorem sameCycle_stepFailOne {p st q} (h : sameCycle s₀ s) : sameCycle s₀ (stepFailOne p st s q) := by
  unfold stepFailOne
  split
  · exact h
  · split
    · exact sameCycle_endSeq h
    · exact sameCycle_failSeqStep (sameCycle_modSeq (sameCycle_foldl h fun _ _ => sameCycle_dropOne))

theorem sameCycle_failStep {j st} (h : sameCycle s₀ s) : sameCycle s₀ (failStep s j st) := by
  unfold failStep
  split
  · exact sameCycle_finishJob h
  · exact sameCycle_foldl (sameCycle_finishJob h) fun _ _ => sameCycle_stepFailOne

theorem sameCycle_failJob {j st x} (h : sameCycle s₀ s) : sameCycle s₀ (failJob s j st x) := by
  unfold failJob
  split
  · exact sameCycle_discardPiece (sameCycle_finishJob h)
  · exact sameCycle_failStep h
  · exact sameCycle_finishJob (sameCycle_of (sameCycle_ite (sameCycle_discardBuilding h) (sameCycle_reportJob h)) rfl rfl)

/-! #### Lanes: their rows, their transfers and their segments -/

theorem sameCycle_feedRow {c u v i bs} (h : sameCycle s₀ s) : sameCycle s₀ (feedRow c u v s i bs) := by
  refine sameCycle_foldl h fun s k h => ?_
  dsimp only
  split
  · exact sameCycle_writeWord h
  · exact h

theorem sameCycle_feedLane {p j l} (h : sameCycle s₀ s) : sameCycle s₀ (feedLane p j s l) := by
  unfold feedLane
  split
  · exact sameCycle_ite h (sameCycle_unless (fun h => sameCycle_modLane (sameCycle_foldl h fun _ _ => sameCycle_feedRow)) h)
  · exact h

theorem sameCycle_feedLanes (h : sameCycle s₀ s) : sameCycle s₀ (feedLanes s) := by
  refine sameCycle_foldl h fun s j h => ?_
  split
  · exact sameCycle_foldl h fun _ _ => sameCycle_feedLane
  · exact h

theorem sameCycle_takeTransfer {x} (h : sameCycle s₀ s) : sameCycle s₀ (takeTransfer s x) := by
  unfold takeTransfer
  split
  · exact h
  next l c _ =>
    have read {at? f as g} : sameCycle s₀ (modTransfer (logWords (readVia at? s x.addr x.len (x.len + 1)).2.2 f as) x g) :=
      sameCycle_modTransfer (sameCycle_logWords (sameCycle_readVia _ h))
    have counted {u} (k : sameCycle s₀ u) : sameCycle s₀ (match lanePhys c l.tiles false (placeOf x.addr) with
        | some a => u.countN famTile (tsTile a) 8 x.len
        | none => u) := by
      split
      · exact sameCycle_countN k
      · exact k
    dsimp only
    split
    · exact sameCycle_setFault (counted read)
    · exact sameCycle_setFault (counted read)
    · exact counted read

theorem sameCycle_takeWaiting {j k} (h : sameCycle s₀ s) : sameCycle s₀ (takeWaiting s j k) := sameCycle_foldl h fun _ _ => sameCycle_takeTransfer

theorem sameCycle_copyPrograms {p l} (h : sameCycle s₀ s) : sameCycle s₀ (copyPrograms s p l) := by
  refine sameCycle_ite h (sameCycle_foldl h fun s g h => ?_)
  split
  · exact sameCycle_writeBytes (sameCycle_logWords (sameCycle_readBytes h))
  · exact h

theorem sameCycle_startLane {j l} (h : sameCycle s₀ s) : sameCycle s₀ (startLane s j l) := by
  refine sameCycle_modJob (sameCycle_when sameCycle_startWalk ?_)
  split
  · exact sameCycle_copyPrograms (sameCycle_countN h)
  · exact sameCycle_countN h

theorem sameCycle_goLane {j k} (h : sameCycle s₀ s) : sameCycle s₀ (goLane j s k) := by
  unfold goLane
  split
  · exact h
  · split
    · exact h
    · exact sameCycle_ite h (sameCycle_ite (sameCycle_modLane h) (sameCycle_when sameCycle_startLane h))

theorem sameCycle_goJob {j} (h : sameCycle s₀ s) : sameCycle s₀ (goJob s j) := by
  unfold goJob
  split
  · exact h
  · refine sameCycle_ite h ?_
    split
    · exact sameCycle_failJob h
    · exact sameCycle_foldl (sameCycle_foldl h fun _ _ => sameCycle_freeLane) fun _ _ => sameCycle_goLane

theorem sameCycle_goLanes (h : sameCycle s₀ s) : sameCycle s₀ (goLanes s) := sameCycle_foldl (sameCycle_feedLanes h) fun _ _ => sameCycle_goJob

theorem sameCycle_placeLane {j l} (h : sameCycle s₀ s) (placed : placeLane s j l = some t) : sameCycle s₀ t := by
  unfold placeLane at placed
  split at placed
  · exact Option.some.inj placed ▸ sameCycle_ite (sameCycle_failJob h) (sameCycle_takeWaiting (sameCycle_takePlace h))
  · cases placed

theorem sameCycle_placeLanes (h : sameCycle s₀ s) : sameCycle s₀ (placeLanes s) := by
  refine sameCycle_ite h (sameCycle_foldl h fun s j h => ?_)
  split
  next l _ =>
    cases placed : placeLane s j l with
    | none => exact h
    | some t => exact sameCycle_placeLane h placed
  next => exact h

theorem sameCycle_schedule (h : sameCycle s₀ s) : sameCycle s₀ (schedule s) := sameCycle_goLanes (sameCycle_runSched (sameCycle_placeLanes h))

/-! #### The twin link and the lamps -/

theorem sameCycle_sendFrame {ty fl w x o p} (h : sameCycle s₀ s) : sameCycle s₀ (sendFrame s ty fl w x o p) :=
  sameCycle_unless (fun h => sameCycle_chipCnt (sameCycle_emit (sameCycle_of h rfl rfl))) h

theorem sameCycle_sendSync (h : sameCycle s₀ s) : sameCycle s₀ (sendSync s) := sameCycle_when (sameCycle_foldl · fun _ _ => sameCycle_sendFrame) h

theorem sameCycle_sendWindowState {w} (h : sameCycle s₀ s) : sameCycle s₀ (sendWindowState s w) := sameCycle_sendFrame h

theorem sameCycle_sendWrites {w x b} (cs : List (List Byte)) {off} (h : sameCycle s₀ s) : sameCycle s₀ (sendWrites w x b s off cs) := by
  induction cs generalizing s off with
  | nil => exact h
  | cons c cs ih => exact ih (sameCycle_sendFrame h)

theorem sameCycle_emitPort {o} (h : sameCycle s₀ s) : sameCycle s₀ (emitPort s o) := sameCycle_when sameCycle_emit h

theorem sameCycle_lampsOff {p} (h : sameCycle s₀ s) : sameCycle s₀ (lampsOff s p) := sameCycle_modPort (sameCycle_foldl h fun _ _ => sameCycle_emitPort)

theorem sameCycle_lampsOn {p} (h : sameCycle s₀ s) : sameCycle s₀ (lampsOn s p) := sameCycle_modPort (sameCycle_foldl h fun _ _ => sameCycle_emitPort)

/-! #### Arming, disarming and CAL_RUN -/

theorem sameCycle_diagDead {t n d cs} (h : sameCycle s₀ s) : sameCycle s₀ (diagDead s t n d cs) := sameCycle_foldl h fun _ _ => sameCycle_modPiece

theorem sameCycle_deadRecovery {p cs} (h : sameCycle s₀ s) : sameCycle s₀ (deadRecovery s p cs) :=
  sameCycle_unless (fun h => sameCycle_unless (fun h => sameCycle_sendSync (sameCycle_modTrack (sameCycle_modPort (sameCycle_lampsOff h))))
    (sameCycle_foldl (sameCycle_modPort h) fun _ _ => sameCycle_diagDead)) h

theorem sameCycle_reserveTiles {p n} (h : sameCycle s₀ s) (reserved : reserveTiles s p n = some t) : sameCycle s₀ t := by
  obtain ⟨ts, -, rfl⟩ := Option.map_eq_some_iff.mp reserved
  refine sameCycle_modPort (sameCycle_foldl h fun s t h => sameCycle_modTile ?_)
  split
  · exact sameCycle_modJob h
  · exact h

theorem sameCycle_reserveAll (cs : List (Port × PortCfg)) (h : sameCycle s₀ s) (reserved : reserveAll s cs = some t) : sameCycle s₀ t := by
  induction cs generalizing s with
  | nil => exact Option.some.inj reserved ▸ h
  | cons c cs ih =>
    obtain ⟨u, first, rest⟩ := Option.bind_eq_some_iff.mp reserved
    exact ih (sameCycle_reserveTiles h first) rest

theorem sameCycle_assignEngines (h : sameCycle s₀ s) : sameCycle s₀ (assignEngines s) := by
  refine sameCycle_foldl h fun s p h => ?_
  dsimp only
  split
  · split
    · exact sameCycle_of h rfl rfl
    · exact h
  · exact h

theorem sameCycle_scanLimit {r k c p n} (h : sameCycle s₀ s) : sameCycle s₀ (scanLimit s r k c p n) := sameCycle_complete h

theorem sameCycle_armPort {p c e} (h : sameCycle s₀ s) : sameCycle s₀ (armPort s p c e) := sameCycle_unless sameCycle_lampsOn (sameCycle_modPort h)

theorem sameCycle_finishArms (h : sameCycle s₀ s) : sameCycle s₀ (finishArms s) := by
  refine sameCycle_foldl h fun s t h => ?_
  split
  · exact sameCycle_ite (sameCycle_complete (sameCycle_modTrack h)) h
  · exact h

theorem sameCycle_armNow {r k o t f cs n} (h : sameCycle s₀ s) : sameCycle s₀ (armNow s r k o t f cs n) := by
  unfold armNow
  split
  · exact sameCycle_scanLimit h
  next reserved =>
    have reserved := sameCycle_reserveAll cs h reserved
    exact sameCycle_finishArms (sameCycle_sendSync (sameCycle_modTrack (sameCycle_foldl
      (sameCycle_assignEngines (sameCycle_armTrack (sameCycle_foldl reserved fun _ _ => sameCycle_armPort))) fun _ _ => sameCycle_unless sameCycle_deadRecovery)))

theorem sameCycle_runScanArm {r k o} (h : sameCycle s₀ s) : sameCycle s₀ (runScanArm s r k o) := by
  have done {st x} : sameCycle s₀ (complete s r k 0x01 st x) := sameCycle_complete h
  refine sameCycle_ite done (sameCycle_ite done (sameCycle_ite done (sameCycle_ite done ?_)))
  split
  · exact sameCycle_scanLimit h
  · dsimp only
    split
    · exact sameCycle_scanLimit h
    · refine sameCycle_ite (sameCycle_armNow h) ?_
      split
      · exact done
      · refine sameCycle_ite (sameCycle_scanLimit h) ?_
        split
        · exact sameCycle_scanLimit h
        · exact sameCycle_ite (sameCycle_scanLimit h) (sameCycle_armNow h)

theorem sameCycle_startCal {r k o} (h : sameCycle s₀ s) : sameCycle s₀ (startCal s r k o) := sameCycle_lampsOff (sameCycle_modPort h)

theorem sameCycle_startCals (h : sameCycle s₀ s) : sameCycle s₀ (startCals s) := by
  refine sameCycle_foldl h fun s p h => ?_
  split
  · exact sameCycle_unless (fun h => sameCycle_startCal (sameCycle_modPort h)) h
  · exact h

theorem sameCycle_runCalRun {r k o} (h : sameCycle s₀ s) : sameCycle s₀ (runCalRun s r k o) :=
  sameCycle_ite (sameCycle_complete h) (sameCycle_startCals (sameCycle_modPort h))

theorem sameCycle_runScanDisarm {r k n} (h : sameCycle s₀ s) : sameCycle s₀ (runScanDisarm s r k n) :=
  sameCycle_ite (sameCycle_complete h) (sameCycle_modTrack h)

/-! #### Images and tailoring -/

theorem sameCycle_takeCached {j} (h : sameCycle s₀ s) : sameCycle s₀ (takeCached s j) := by
  unfold takeCached
  split
  · exact h
  · refine sameCycle_foldl h fun s x h => ?_
    split
    · exact sameCycle_when (fun h => sameCycle_modJob (sameCycle_modSample (sameCycle_touchCache h))) h
    · exact h

theorem sameCycle_grantStaging (h : sameCycle s₀ s) : sameCycle s₀ (grantStaging s) :=
  sameCycle_foldl h fun _ _ => sameCycle_when fun h => sameCycle_takeCached (sameCycle_modJob h)

theorem sameCycle_decodeRead {j i} (h : sameCycle s₀ s) : sameCycle s₀ (decodeRead s j i) := by
  unfold decodeRead
  split
  · exact sameCycle_hostRead h
  · split
    · exact sameCycle_hostRead h
    · exact h
  · exact h

theorem sameCycle_giveEngines (h : sameCycle s₀ s) : sameCycle s₀ (giveEngines s) := by
  refine sameCycle_foldl h fun s w h => ?_
  split
  · exact h
  · dsimp only
    split
    · exact sameCycle_decodeRead (sameCycle_setEngine h)
    · exact sameCycle_setEngine h

theorem sameCycle_serveImages (h : sameCycle s₀ s) : sameCycle s₀ (serveImages s) := sameCycle_schedule (sameCycle_giveEngines (sameCycle_grantStaging h))

theorem sameCycle_endTailor {j st x} (h : sameCycle s₀ s) : sameCycle s₀ (endTailor s j st x) :=
  sameCycle_serveImages (sameCycle_finishJob (sameCycle_of (sameCycle_reportJob h) rfl rfl))

theorem sameCycle_tailorEmpty {j} (h : sameCycle s₀ s) : sameCycle s₀ (tailorEmpty s j) := by
  unfold tailorEmpty
  split
  · exact sameCycle_when sameCycle_endTailor h
  · exact h

theorem sameCycle_ensureMasters {p} (h : sameCycle s₀ s) (made : ensureMasters s p = some t) : sameCycle s₀ t := by
  unfold ensureMasters at made
  split at made
  · exact Option.some.inj made ▸ h
  · dsimp only at made
    split at made
    · cases made
    · exact Option.some.inj made ▸ sameCycle_of h rfl rfl

theorem sameCycle_startTailor {r k o a b j} (h : sameCycle s₀ s) (started : startTailor s r k o a b = .ok (j, t)) : sameCycle s₀ t := by
  unfold startTailor at started
  split at started
  · cases started
  · split at started
    · cases started
    · split at started
      · cases started
      next made =>
        obtain ⟨-, rfl⟩ := Prod.mk.inj (Except.ok.inj started)
        exact sameCycle_tailorEmpty (sameCycle_of (sameCycle_ensureMasters h made) rfl rfl)

/-! #### What each descriptor does -/

theorem sameCycle_runTestRun {r k o} (h : sameCycle s₀ s) : sameCycle s₀ (runTestRun s r k o) := by
  unfold runTestRun
  dsimp only
  split
  · exact sameCycle_schedule (sameCycle_addJob h)
  · exact sameCycle_schedule (sameCycle_addJob h)
  · exact sameCycle_ite (sameCycle_addJob h) (sameCycle_complete h)
  · split
    · exact sameCycle_complete h
    · exact sameCycle_complete (sameCycle_hostWrite h)
  · exact sameCycle_ite (sameCycle_complete h) (sameCycle_complete (sameCycle_darnRow h))
  · exact sameCycle_ite (sameCycle_complete h) (sameCycle_complete (sameCycle_setMark h))

theorem sameCycle_startLoad (h : sameCycle s₀ s) : sameCycle s₀ (startLoad s) := by
  unfold startLoad
  split
  · exact sameCycle_hostRead (sameCycle_of h rfl rfl)
  · exact h

theorem sameCycle_runPlanLoad {r k o} (h : sameCycle s₀ s) : sameCycle s₀ (runPlanLoad s r k o) :=
  sameCycle_ite (sameCycle_complete h) (sameCycle_when sameCycle_startLoad (sameCycle_of h rfl rfl))

theorem sameCycle_runPlanUnload {r k n} (h : sameCycle s₀ s) : sameCycle s₀ (runPlanUnload s r k n) := by
  unfold runPlanUnload
  split
  · exact sameCycle_complete h
  · dsimp only
    split
    · exact sameCycle_modPlan (sameCycle_modPlan h)
    · exact sameCycle_modPlan h

theorem sameCycle_runWardrobePin {r k o} (h : sameCycle s₀ s) : sameCycle s₀ (runWardrobePin s r k o) := by
  unfold runWardrobePin
  dsimp only
  split
  · exact sameCycle_complete h
  · exact sameCycle_ite (sameCycle_complete (sameCycle_setPin h)) (sameCycle_ite (sameCycle_complete (sameCycle_unless (sameCycle_when sameCycle_setPin) h))
      (sameCycle_ite (sameCycle_complete h) (sameCycle_requestLoad h)))

theorem sameCycle_runSnapshot {r k o} (h : sameCycle s₀ s) : sameCycle s₀ (runSnapshot s r k o) := by
  unfold runSnapshot
  split
  · exact sameCycle_complete h
  · split
    · exact h
    · dsimp only
      split
      · exact sameCycle_setBank h
      · exact sameCycle_setBank h

theorem sameCycle_runWindowOpen {r k o} (h : sameCycle s₀ s) : sameCycle s₀ (runWindowOpen s r k o) := by
  unfold runWindowOpen
  split
  · exact sameCycle_complete h
  · exact sameCycle_complete (sameCycle_sendWindowState (sameCycle_of h rfl rfl))

theorem sameCycle_runWindowClose {r k w} (h : sameCycle s₀ s) : sameCycle s₀ (runWindowClose s r k w) := by
  unfold runWindowClose
  split
  · exact sameCycle_complete h
  · exact sameCycle_complete (sameCycle_sendWindowState (sameCycle_of h rfl rfl))

theorem sameCycle_dmaSource {f o x} (h : sameCycle s₀ s) : sameCycle s₀ (dmaSource s f o x).2.2 := by
  unfold dmaSource
  split
  · exact h
  · exact h
  · dsimp only
    split
    · exact sameCycle_readBytes h
    · split
      · exact sameCycle_readBytes h
      · exact sameCycle_logWords (sameCycle_readWord (sameCycle_readBytes h))

theorem sameCycle_runTwinDma {r k o x} (h : sameCycle s₀ s) : sameCycle s₀ (runTwinDma s r k o x) := by
  unfold runTwinDma
  split
  · exact sameCycle_complete h
  · have read : sameCycle s₀ (dmaSource (if o.src = 0 then s.hostRead r.fn o.srcAddr o.len else s) r.fn o x).2.2 :=
      sameCycle_dmaSource (sameCycle_when sameCycle_hostRead h)
    dsimp only
    generalize dmaSource _ r.fn o x = d at read ⊢
    have sent {id b tw off cs} : sameCycle s₀ (sendWrites o.win id b { d.2.2 with twin := tw } off cs) :=
      sameCycle_sendWrites cs (sameCycle_of read rfl rfl)
    split
    · exact sameCycle_complete sent
    · exact sameCycle_ite (sameCycle_complete sent) (sameCycle_of sent rfl rfl)

theorem sameCycle_startImage {r k o x} (h : sameCycle s₀ s) : sameCycle s₀ (startImage s r k o x) := by
  unfold startImage
  split
  · exact sameCycle_complete h
  · exact sameCycle_serveImages (sameCycle_addJob (sameCycle_unless sameCycle_hostRead h))

theorem sameCycle_startSeqStep {r k o x} (h : sameCycle s₀ s) : sameCycle s₀ (startSeqStep s r k o x) := by
  unfold startSeqStep
  split
  · exact sameCycle_complete h
  · exact sameCycle_addJob (sameCycle_hostRead h)

theorem sameCycle_startTailorStep {r k o x} (h : sameCycle s₀ s) : sameCycle s₀ (startTailorStep s r k o x) := by
  unfold startTailorStep
  split
  · exact sameCycle_complete h
  next started => exact sameCycle_serveImages (sameCycle_startTailor (sameCycle_hostRead h) started)

theorem sameCycle_startEdit {r k o} (h : sameCycle s₀ s) : sameCycle s₀ (startEdit s r k o) := by
  unfold startEdit
  split
  · exact sameCycle_ite (sameCycle_complete (sameCycle_chipCnt h)) (sameCycle_complete (sameCycle_chipCnt h))
  · refine sameCycle_when (fun h => ?_) (sameCycle_complete (sameCycle_chipCnt (sameCycle_raiseVersion (sameCycle_editApply h))))
    split
    · exact sameCycle_releaseSeq h
    · exact h

theorem sameCycle_startPegWait {r k o} (h : sameCycle s₀ s) : sameCycle s₀ (startPegWait s r k o) := sameCycle_pegArbitrate (sameCycle_of h rfl rfl)

theorem sameCycle_startPegSignal {r k o} (h : sameCycle s₀ s) : sameCycle s₀ (startPegSignal s r k o) :=
  sameCycle_complete (sameCycle_ite (sameCycle_pegArbitrate h) (sameCycle_pegArbitrate h))

theorem sameCycle_runDesc {r d} (h : sameCycle s₀ s) : sameCycle s₀ (runDesc s r d) := by
  unfold runDesc
  dsimp only
  split
  case h_1 => exact sameCycle_complete h
  case h_2 => exact sameCycle_runScanArm h
  case h_3 => exact sameCycle_runScanDisarm h
  case h_4 => exact sameCycle_runCalRun h
  case h_5 => exact sameCycle_startImage h
  case h_6 => exact sameCycle_startSeqStep h
  case h_7 => exact sameCycle_startTailorStep h
  case h_8 => exact sameCycle_runPlanLoad h
  case h_9 => exact sameCycle_runPlanUnload h
  case h_10 => exact sameCycle_runWardrobePin h
  case h_11 => exact sameCycle_startEdit h
  case h_12 => exact sameCycle_startPegWait h
  case h_13 => exact sameCycle_startPegSignal h
  case h_14 => exact sameCycle_startFoldOpen h
  case h_15 => exact sameCycle_complete h
  case h_16 => exact sameCycle_runSnapshot h
  case h_17 => exact sameCycle_runWindowOpen h
  case h_18 => exact sameCycle_runWindowClose h
  case h_19 => exact sameCycle_runTwinDma h
  case h_20 => exact sameCycle_runTestRun h
  case h_21 => exact sameCycle_complete h

/-! #### Members of a fold, and the pump -/

theorem sameCycle_stageMember {r d} (h : sameCycle s₀ s) : sameCycle s₀ (stageMember s r d).1 := by
  unfold stageMember
  split
  case h_4 =>
    split
    · exact h
    · exact sameCycle_addJob (sameCycle_unless sameCycle_hostRead h)
  case h_5 =>
    split
    · exact h
    · exact sameCycle_addJob (sameCycle_hostRead h)
  case h_6 =>
    split
    · exact h
    next started => exact sameCycle_startTailor (sameCycle_hostRead h) started
  all_goals exact h

theorem sameCycle_startMember {r f d} (h : sameCycle s₀ s) : sameCycle s₀ (startMember s r f d) := by
  refine sameCycle_ite (sameCycle_addMember h) (sameCycle_ite (sameCycle_addMember h) ?_)
  split
  · exact sameCycle_addMember h
  · exact sameCycle_serveImages (sameCycle_addMember (sameCycle_stageMember h))

theorem sameCycle_closeFold {r f d n} (h : sameCycle s₀ s) : sameCycle s₀ (closeFold s r f d n) := sameCycle_checkFold (sameCycle_modRing h)

theorem sameCycle_startDesc {r d} (h : sameCycle s₀ s) : sameCycle s₀ (startDesc s r d) := by
  unfold startDesc
  split
  · dsimp only
    split
    · exact sameCycle_closeFold (sameCycle_modRing h)
    · exact sameCycle_startMember (sameCycle_modRing h)
  · dsimp only
    split
    · exact sameCycle_complete (sameCycle_modRing h)
    · exact sameCycle_runDesc (sameCycle_modRing h)

theorem sameCycle_pumpRing {r} (n : Nat) (h : sameCycle s₀ s) : sameCycle s₀ (pumpRing s r n) := by
  induction n generalizing s with
  | zero => exact h
  | succ n ih =>
    have fetched : sameCycle s₀ (fetchNow s r) := sameCycle_when sameCycle_modRing h
    unfold pumpRing
    dsimp only
    split
    · exact fetched
    · exact sameCycle_when (fun k => ih (sameCycle_startDesc (sameCycle_modRing k))) fetched

theorem sameCycle_pumpAll (h : sameCycle s₀ s) : sameCycle s₀ (pumpAll s) := sameCycle_foldl h fun _ _ => sameCycle_pumpRing _

end

end Sys2Proof.Machine
end

section
/-! PROOF. A descriptor that a command brings to a ready pair starts in that command. -/

namespace Sys2Proof.Machine

open Sys2Proof

/-! ### A descriptor of a ready pair starts in the command that brings it -/

/-- Two updates that agree on the pair as it stands are one. -/
theorem modRing_congr (s : State) (r : RingRef) {g h : RingPair → RingPair} (same : g (s.ring r) = h (s.ring r)) : s.modRing r g = s.modRing r h := by
  have e : g s.fns[r.fn.val].rings[r.pair.val] = h s.fns[r.fn.val].rings[r.pair.val] := same
  simp only [State.modRing, State.modFn, e]

@[simp] theorem modRing_enabled (s : State) (r : RingRef) (g : RingPair → RingPair) (f : Fn) : ((s.modRing r g).fnOf f).enabled = (s.fnOf f).enabled := by
  by_cases h : r.fn = f
  · subst h
    unfold State.modRing
    rw [State.modFn_same]
  · unfold State.modRing
    rw [State.modFn_other _ h]

@[simp] theorem ringN_modRing (s : State) (r q : RingRef) (g : RingPair → RingPair) : ringN (s.modRing r g) q = ringN s q := rfl

/-- What an idle pair is. -/
theorem idlePair_iff (x : RingPair) : idlePair x = true ↔ x.enable = true ∧ x.fault = false ∧ x.fetched = [] ∧ x.unfetched = 0 ∧ x.held = [] ∧ x.running = [] ∧
    x.pegWait = false ∧ x.fold = none ∧ x.sqTail = x.sqHead := by
  simp [idlePair, and_assoc]

@[simp] theorem ref_fn (s : State) (i : RingId) : (s.ref i).fn = i.fn := rfl

/-- A pair under its own reference has not been stopped since. -/
theorem ref_gen (s : State) (i : RingId) : (s.ring (s.ref i)).gen = (s.ref i).gen := rfl

theorem ref_mem_allRings (s : State) (i : RingId) : s.ref i ∈ allRings s :=
  List.mem_flatMap.mpr ⟨i.fn, mem_allFns _, List.mem_map.mpr ⟨i.pair, mem_allPairs _, rfl⟩⟩

/-- Every pair is listed under its reference as it stands. -/
theorem eq_ref_of_mem_allRings {s : State} {q : RingRef} (h : q ∈ allRings s) : q = s.ref { fn := q.fn, pair := q.pair } := by
  obtain ⟨f, -, hf⟩ := List.mem_flatMap.mp h
  obtain ⟨p, -, rfl⟩ := List.mem_map.mp hf
  rfl

/-- Where one pair alone has descriptors waiting and its own pump leaves none, the pump of all is that pair's. -/
theorem pumpAll_one {s t : State} (i : RingId) (others : ∀ q : RingRef, (q.fn, q.pair) ≠ (i.fn, i.pair) → (s.ring q).fetched = [] ∧ (s.ring q).unfetched = 0)
    (own : pumpRing s (s.ref i) ((s.ring (s.ref i)).fetched.length + 1) = t) (done : quiet t = true) : pumpAll s = t := by
  obtain ⟨before, after, split, first⟩ := List.eq_append_cons_of_mem (ref_mem_allRings s i)
  have skip : ∀ qs : List RingRef, (∀ q ∈ qs, (s.ring q).fetched = [] ∧ (s.ring q).unfetched = 0) →
      qs.foldl (fun s r => pumpRing s r ((s.ring r).fetched.length + 1)) s = s := by
    intro qs
    induction qs with
    | nil => exact fun _ => rfl
    | cons q qs ih =>
      intro idle
      rw [List.foldl_cons, pumpRing_idle s q _ (idle q List.mem_cons_self)]
      exact ih fun p hp => idle p (List.mem_cons_of_mem _ hp)
  have idle : ∀ q ∈ before, (s.ring q).fetched = [] ∧ (s.ring q).unfetched = 0 := by
    intro q hq
    refine others q fun same => first ?_
    obtain ⟨sameFn, samePair⟩ := Prod.mk.inj same
    have listed := eq_ref_of_mem_allRings (s := s) (split ▸ List.mem_append_left _ hq)
    rw [sameFn, samePair] at listed
    exact listed ▸ hq
  unfold pumpAll
  rw [split, List.foldl_append, skip before idle, List.foldl_cons, own]
  exact pump_quiet t after done

section
variable {s : State} {i : RingId} {d : Desc}

/-- A ready pair, taken apart. -/
theorem readyFor_iff : readyFor s i = true ↔ (s.fnOf i.fn).enabled = true ∧ fetchStage i.fn ≤ s.boot.stage ∧ s.pwr.device = false ∧
    idlePair (s.ring (s.ref i)) = true ∧ cqRoom s (s.ref i) = true ∧ quiet s = true := by
  simp [readyFor, and_assoc]

/-- The state in which the pump finds a descriptor that a command has brought to a ready pair: announced and listed, not yet fetched. -/
def announcedState (s : State) (i : RingId) (d : Desc) : State :=
  s.modRing (s.ref i) fun x => { x with sqTail := x.sqTail + 1, fetched := [d], unfetched := 1 }

/-- A ready pair has room for a descriptor. -/
theorem submit_announces (ready : readyFor s i = true) : submit s i d = pumpAll (announcedState s i d) := by
  obtain ⟨-, -, -, idle, -, -⟩ := readyFor_iff.mp ready
  obtain ⟨enable, fault, fetched, unfetched, -, -, -, -, tail⟩ := (idlePair_iff _).mp idle
  have live : ringLive s (s.ref i) = true := by simp [ringLive, enable, fault, ref_gen]
  have none : announced (s.ring (s.ref i)) = 0 := by simp [announced, tail]
  have space : ¬ ringN s (s.ref i) ≤ 0 := Nat.not_le.mpr (Nat.two_pow_pos _)
  unfold submit takeDesc
  simp only [live, none, tail, BitVec.sub_self, BitVec.toNat_zero, modRing_modRing]
  simp only [Bool.not_true, Bool.false_eq_true, if_false, Nat.lt_irrefl, space]
  exact congrArg pumpAll (modRing_congr s _ (by simp only [fetched, unfetched, List.nil_append, Nat.zero_add]))

theorem ref_announced : (announcedState s i d).ref i = s.ref i := by
  have gen : ((announcedState s i d).ring (s.ref i)).gen = (s.ring (s.ref i)).gen := by rw [announcedState, State.modRing_same]
  exact congrArg (RingRef.mk i.fn i.pair) gen

/-- The state in which the pump starts it: announced and fetched. -/
def fetchedState (s : State) (i : RingId) (d : Desc) : State :=
  s.modRing (s.ref i) fun x => { x with sqTail := x.sqTail + 1, sqHead := x.sqHead + 1, fetched := [d], unfetched := 0 }

theorem fetchNow_announced (ready : readyFor s i = true) : fetchNow (announcedState s i d) (s.ref i) = fetchedState s i d := by
  obtain ⟨enabled, stage, device, idle, room, -⟩ := readyFor_iff.mp ready
  obtain ⟨enable, fault, -, -, held, -, -, -, -⟩ := (idlePair_iff _).mp idle
  have live : ringLive (announcedState s i d) (s.ref i) = true := by simp [ringLive, announcedState, enable, fault, ref_gen]
  have room : cqRoom (announcedState s i d) (s.ref i) = true := by simpa [cqRoom, announcedState] using room
  have may : canFetch (announcedState s i d) (s.ref i) = true := by
    simp only [canFetch, live, room]
    simp [announcedState, unstarted, held, device, stage, enabled]
  unfold fetchNow
  rw [if_pos may, announcedState, modRing_modRing]
  rfl

theorem canStart_fetched (ready : readyFor s i = true) (may : mayStart s i d = true) : canStart (fetchedState s i d) (s.ref i) d = true := by
  obtain ⟨-, -, device, idle, -, -⟩ := readyFor_iff.mp ready
  obtain ⟨enable, fault, -, -, -, running, pegWait, -, -⟩ := (idlePair_iff _).mp idle
  simp only [mayStart, Bool.and_eq_true, Bool.not_eq_true'] at may
  obtain ⟨⟨limit, bank⟩, -⟩ := may
  have limit' : heldByLimit (fetchedState s i d) d = false := limit
  have bank' : waitsBank (fetchedState s i d) d = false := bank
  simp only [canStart, limit', bank']
  simp [fetchedState, ringLive, fencePassed, enable, fault, ref_gen, running, pegWait, device]

/-- A descriptor among those that run, with the fold that a FOLD_OPEN opens. -/
def runningState (s : State) (r : RingRef) (d : Desc) : State :=
  let own := match d.op with
    | .foldOpen => some (s.ring r).nextFold
    | _ => none
  s.modRing r fun x => { x with running := x.running ++ [(d.hdr.tag, own)] }

theorem startDesc_runs {r : RingRef} (fold : (s.ring r).fold = none) (checks : startCheck (runningState s r d) r d = none) :
    startDesc s r d = runDesc (runningState s r d) r d := by
  unfold startDesc
  rw [fold]
  change (match startCheck (runningState s r d) r d with
    | some (st, x) => complete (runningState s r d) r d.hdr (DescOpcode d.op) st x
    | none => runDesc (runningState s r d) r d) = _
  rw [checks]

theorem startDesc_fetched (ready : readyFor s i = true) (may : mayStart s i d = true) :
    startDesc ((fetchedState s i d).modRing (s.ref i) fun x => { x with fetched := x.fetched.drop 1 }) (s.ref i) d = runDesc (startedState s i d) (s.ref i) d := by
  obtain ⟨-, -, -, idle, -, -⟩ := readyFor_iff.mp ready
  obtain ⟨-, -, fetched, unfetched, -, running, -, fold, -⟩ := (idlePair_iff _).mp idle
  simp only [mayStart, Bool.and_eq_true, Option.isNone_iff_eq_none] at may
  obtain ⟨-, checks⟩ := may
  have taken : ((fetchedState s i d).modRing (s.ref i) fun x => { x with fetched := x.fetched.drop 1 }) =
      s.modRing (s.ref i) fun x => { x with sqTail := x.sqTail + 1, sqHead := x.sqHead + 1 } := by
    rw [fetchedState, modRing_modRing]
    exact modRing_congr s _ (by simp [fetched, unfetched])
  have started : runningState (s.modRing (s.ref i) fun x => { x with sqTail := x.sqTail + 1, sqHead := x.sqHead + 1 }) (s.ref i) d = startedState s i d := by
    unfold runningState startedState
    rw [State.modRing_same, modRing_modRing]
    refine modRing_congr s _ ?_
    rw [running]
    rfl
  rw [taken, startDesc_runs (by rw [State.modRing_same]; exact fold) (by rw [started]; exact checks), started]

/-- The announced descriptor is fetched, and starts. -/
theorem pumpRing_announced (ready : readyFor s i = true) (may : mayStart s i d = true) (n : Nat) :
    pumpRing (announcedState s i d) (s.ref i) (n + 1) = pumpRing (runDesc (startedState s i d) (s.ref i) d) (s.ref i) n := by
  have head : (unstarted ((fetchedState s i d).ring (s.ref i))).head? = some d := by simp [unstarted, fetchedState]
  rw [pumpRing]
  simp only [fetchNow_announced ready, head, canStart_fetched ready may, startDesc_fetched ready may, if_true]

/-- What a command's descriptor does on a ready pair, where it leaves none waiting. -/
theorem submit_ready (ready : readyFor s i = true) (may : mayStart s i d = true) (done : quiet (runDesc (startedState s i d) (s.ref i) d) = true) :
    submit s i d = runDesc (startedState s i d) (s.ref i) d := by
  obtain ⟨-, -, -, -, -, still⟩ := readyFor_iff.mp ready
  rw [submit_announces ready]
  refine pumpAll_one i (fun q other => ?_) ?_ done
  · rw [announcedState, State.modRing_other _ (Ne.symm other)]
    exact quiet_pair still q
  · rw [ref_announced]
    exact (pumpRing_announced ready may _).trans (pumpRing_idle _ _ _ (quiet_pair done _))

end

end Sys2Proof.Machine
end

section
/-! PROOF. What a completion leaves of the ring pairs and the pegs, and how the arbitration of the peg file judges the PEG_WAITs. -/

namespace Sys2Proof.Machine

open Sys2Proof

/-! ### What an answer on a ring pair leaves -/

/-- The entry that a completion writes on a pair as it stands (R288, Table 11-6). -/
def entryOf (s : State) (r : RingRef) (c : Compl) : Output :=
  .hostWrite r.fn (cqBase s r + 32 * ((s.ring r).cqTail.toNat % ringN s r))
    (complBytes c (s.ring r).sqHead (phaseAt (s.ring r).cqTail.toNat (ringN s r)))

/-- A pair whose interrupt moderation alone has moved. -/
def moderated (n : Nat) (first : Option Nat) (x : RingPair) : RingPair := { x with unsignalled := n, firstUnsig := first }

/-- A pair after an entry has been written: the tail moves past it, and its descriptor runs no more. -/
def answered (tag : Word64) (x : RingPair) : RingPair := { x with cqTail := x.cqTail + 1, running := dropTag tag x.running }

/-- A pair that no PEG_WAIT holds, and one that a PEG_WAIT holds. -/
def unheld (x : RingPair) : RingPair := { x with pegWait := false }
def waitHeld (x : RingPair) : RingPair := { x with pegWait := true }

@[simp] theorem State.raiseVec_ring (s : State) (f : Fn) (v : Nat) (r : RingRef) : (s.raiseVec f v).ring r = s.ring r := by
  unfold State.raiseVec
  split
  · by_cases h : f = r.fn
    · subst h
      simp only [State.ring, State.modFn_same]
    · simp only [State.ring, State.modFn_other _ h]
  · rfl

@[simp] theorem State.raiseVec_pegs (s : State) (f : Fn) (v : Nat) : (s.raiseVec f v).pegs = s.pegs := by
  unfold State.raiseVec
  split <;> rfl

theorem moderate_same (s : State) (r : RingRef) (irq : Bool) : ∃ n first, (moderate s r irq).ring r = moderated n first (s.ring r) := by
  unfold moderate
  dsimp only
  split
  · exact ⟨0, none, by rw [State.raiseVec_ring, State.modRing_same]; rfl⟩
  · exact ⟨_, _, State.modRing_same ..⟩

theorem moderate_other (s : State) {r q : RingRef} (other : (r.fn, r.pair) ≠ (q.fn, q.pair)) (irq : Bool) : (moderate s r irq).ring q = s.ring q := by
  unfold moderate
  dsimp only
  split
  · rw [State.raiseVec_ring, State.modRing_other _ other]
  · exact State.modRing_other _ other _

@[simp] theorem moderate_pegs (s : State) (r : RingRef) (irq : Bool) : (moderate s r irq).pegs = s.pegs := by
  unfold moderate
  dsimp only
  split
  · rw [State.raiseVec_pegs]
    rfl
  · rfl

/-- The state of `writeCompl` before it moderates interrupts. -/
def entered (s : State) (r : RingRef) (c : Compl) : State :=
  let s := (s.hostWrite r.fn (cqBase s r + 32 * ((s.ring r).cqTail.toNat % ringN s r))
    (complBytes c (s.ring r).sqHead (phaseAt (s.ring r).cqTail.toNat (ringN s r)))).modRing r (answered c.hdr.tag)
  if c.hdr.peg && inGrant s r.fn c.hdr.complPeg then s.laterPeg c.hdr.complPeg 1 else s

theorem writeCompl_eq (s : State) (r : RingRef) (c : Compl) : writeCompl s r c = moderate (entered s r c) r c.hdr.irq := rfl

theorem entered_ring (s : State) (r q : RingRef) (c : Compl) : (entered s r c).ring q = (s.modRing r (answered c.hdr.tag)).ring q := by
  unfold entered
  dsimp only
  split <;> rfl

theorem writeCompl_sent (s : State) (r : RingRef) (c : Compl) : entryOf s r c ∈ (writeCompl s r c).out := by
  have sent : entryOf s r c ∈ (s.hostWrite r.fn (cqBase s r + 32 * ((s.ring r).cqTail.toNat % ringN s r))
      (complBytes c (s.ring r).sqHead (phaseAt (s.ring r).cqTail.toNat (ringN s r)))).out := List.mem_append_right _ List.mem_cons_self
  exact sameCycle_sent (sameCycle_moderate (sameCycle_when sameCycle_laterPeg (sameCycle_modRing (sameCycle_refl _)))) sent

theorem writeCompl_same (s : State) (r : RingRef) (c : Compl) :
    ∃ n first, (writeCompl s r c).ring r = moderated n first (answered c.hdr.tag (s.ring r)) := by
  obtain ⟨n, first, own⟩ := moderate_same (entered s r c) r c.hdr.irq
  exact ⟨n, first, by rw [writeCompl_eq, own, entered_ring, State.modRing_same]⟩

theorem writeCompl_other (s : State) {r q : RingRef} (other : (r.fn, r.pair) ≠ (q.fn, q.pair)) (c : Compl) : (writeCompl s r c).ring q = s.ring q := by
  rw [writeCompl_eq, moderate_other _ other, entered_ring, State.modRing_other _ other]

theorem writeCompl_pegs (s : State) (r : RingRef) (c : Compl) : ∃ later, (writeCompl s r c).pegs = { s.pegs with later := later } := by
  rw [writeCompl_eq, moderate_pegs]
  unfold entered
  dsimp only
  split
  · exact ⟨_, rfl⟩
  · exact ⟨_, rfl⟩

theorem postCompl_other (s : State) {r q : RingRef} (other : (r.fn, r.pair) ≠ (q.fn, q.pair)) (c : Compl) : (postCompl s r c).ring q = s.ring q := by
  unfold postCompl
  split
  · rfl
  · split
    · exact writeCompl_other s other c
    · exact State.modRing_other _ other _

theorem postCompl_pegs (s : State) (r : RingRef) (c : Compl) : ∃ later, (postCompl s r c).pegs = { s.pegs with later := later } := by
  unfold postCompl
  split
  · exact ⟨_, rfl⟩
  · split
    · exact writeCompl_pegs s r c
    · exact ⟨_, rfl⟩

/-- A live pair with room and nothing held takes a completion at once (R288, R293). -/
theorem postCompl_writes {s : State} {r : RingRef} (live : ringLive s r = true) (room : cqRoom s r = true) (held : (s.ring r).held = []) (c : Compl) :
    postCompl s r c = writeCompl s r c := by
  simp [postCompl, live, room, held]

/-! ### PEG_WAITs are judged (R305 to R307) -/

/-- A wait that has come to its end: its peg has reached the target, or its time has run out. -/
def waitOver (s : State) (w : PegWaitSt) : Bool := pegReached (s.peg w.peg) w.target || waitExpired s w

/-- The completion of a wait that is ended. -/
def overCompl (s : State) (w : PegWaitSt) : Compl := waitCompl w (s.peg w.peg) (pegReached (s.peg w.peg) w.target)

/-- A wait that is over frees its pair and completes, with the arrival flag where its peg has reached the target. -/
theorem judgeWait_over {s : State} {w : PegWaitSt} (ended : waitOver s w = true) : judgeWait s w = postCompl (s.modRing w.r unheld) w.r (overCompl s w) := by
  unfold judgeWait overCompl
  cases reached : pegReached (s.peg w.peg) w.target with
  | true => rfl
  | false =>
    have expired : waitExpired s w = true := by simpa [waitOver, reached] using ended
    rw [if_neg Bool.false_ne_true, if_pos expired]
    rfl

theorem judgeWait_stands {s : State} {w : PegWaitSt} (stands : waitOver s w = false) :
    judgeWait s w = { s with pegs := { s.pegs with waits := s.pegs.waits ++ [w] } } := by
  obtain ⟨reached, expired⟩ := Bool.or_eq_false_iff.mp stands
  simp [judgeWait, reached, expired]

/-- Two states that judge and answer a pair's waits alike: the pair, the registers, the clock and the pegs' values are one. -/
structure sameFor (r : RingRef) (s t : State) : Prop where
  ring : t.ring r = s.ring r
  regs : t.regs = s.regs
  clk : t.clk = s.clk
  val : t.pegs.val = s.pegs.val

theorem regGet_congr {s t : State} (h : t.regs = s.regs) (f o : Nat) : regGet t f o = regGet s f o := by
  unfold regGet
  rw [h]

namespace sameFor

variable {r : RingRef} {s t u : State}

theorem refl : sameFor r s s := ⟨rfl, rfl, rfl, rfl⟩

theorem trans (h : sameFor r s t) (k : sameFor r t u) : sameFor r s u :=
  ⟨k.ring.trans h.ring, k.regs.trans h.regs, k.clk.trans h.clk, k.val.trans h.val⟩

theorem size (h : sameFor r s t) : ringN t r = ringN s r := congrArg (2 ^ ·) (regGet_congr h.regs ..)

theorem live (h : sameFor r s t) : ringLive t r = ringLive s r := by
  unfold ringLive
  rw [h.ring]

theorem room (h : sameFor r s t) : cqRoom t r = cqRoom s r := by
  unfold cqRoom
  rw [h.ring, h.size]

theorem entry (h : sameFor r s t) (c : Compl) : entryOf t r c = entryOf s r c := by
  have base : cqBase t r = cqBase s r := regGet_congr h.regs ..
  unfold entryOf
  rw [h.ring, h.size, base]

theorem peg (h : sameFor r s t) (p : Nat) : t.peg p = s.peg p := by
  unfold State.peg
  rw [h.val]

theorem expired (h : sameFor r s t) (w : PegWaitSt) : waitExpired t w = waitExpired s w := by
  unfold waitExpired State.now
  rw [h.clk]

theorem ended (h : sameFor r s t) (w : PegWaitSt) : waitOver t w = waitOver s w := by
  unfold waitOver
  rw [h.peg, h.expired]

theorem compl (h : sameFor r s t) (w : PegWaitSt) : overCompl t w = overCompl s w := by
  unfold overCompl
  rw [h.peg]

end sameFor

theorem sameFor_judgeWait {r : RingRef} (s : State) {w : PegWaitSt} (other : (w.r.fn, w.r.pair) ≠ (r.fn, r.pair)) : sameFor r s (judgeWait s w) := by
  cases ended : waitOver s w with
  | false =>
    rw [judgeWait_stands ended]
    exact ⟨rfl, rfl, rfl, rfl⟩
  | true =>
    rw [judgeWait_over ended]
    obtain ⟨later, pegs⟩ := postCompl_pegs (s.modRing w.r unheld) w.r (overCompl s w)
    refine ⟨?_, ?_, ?_, ?_⟩
    · rw [postCompl_other _ other, State.modRing_other _ other]
    · rw [postCompl_regs, State.modRing_regs]
    · rw [postCompl_clk, State.modRing_clk]
    · rw [pegs, State.modRing_pegs]

/-- The waits of other pairs leave a pair as it is. -/
theorem sameFor_judgeAll {r : RingRef} (ws : List PegWaitSt) (s : State) (others : ∀ w ∈ ws, (w.r.fn, w.r.pair) ≠ (r.fn, r.pair)) :
    sameFor r s (ws.foldl judgeWait s) := by
  induction ws generalizing s with
  | nil => exact sameFor.refl
  | cons w ws ih =>
    exact (sameFor_judgeWait s (others w List.mem_cons_self)).trans (ih _ fun x hx => others x (List.mem_cons_of_mem _ hx))

/-- A state whose PEG_WAITs, and the adds asked for, an arbitration has taken up. -/
def noWaits (s : State) : State := { s with pegs := { s.pegs with later := [], waits := [] } }

/-- With no update of a peg, an arbitration judges the waits in their order. -/
theorem pegArbitrate_judges {s : State} (later : s.pegs.later = []) : pegArbitrate s [] [] = s.pegs.waits.foldl judgeWait (noWaits s) := by
  unfold pegArbitrate noWaits
  rw [later]
  rfl

/-- What a wait that is over leaves of its pair, where the pair takes its completion at once. -/
theorem judgeWait_answers {s : State} {w : PegWaitSt} (ended : waitOver s w = true) (live : ringLive s w.r = true) (room : cqRoom s w.r = true)
    (held : (s.ring w.r).held = []) :
    entryOf s w.r (overCompl s w) ∈ (judgeWait s w).out ∧ ((judgeWait s w).ring w.r).pegWait = false ∧
    ((judgeWait s w).ring w.r).cqTail = (s.ring w.r).cqTail + 1 ∧ (∃ later, (judgeWait s w).pegs = { s.pegs with later := later }) ∧
    answersOnly s (judgeWait s w) := by
  have live' : ringLive (s.modRing w.r unheld) w.r = true := by
    unfold ringLive
    rw [State.modRing_same]
    exact live
  have room' : cqRoom (s.modRing w.r unheld) w.r = true := by
    unfold cqRoom
    rw [State.modRing_same]
    exact room
  have held' : ((s.modRing w.r unheld).ring w.r).held = [] := by
    rw [State.modRing_same]
    exact held
  have entry : entryOf (s.modRing w.r unheld) w.r (overCompl s w) = entryOf s w.r (overCompl s w) := by
    unfold entryOf
    rw [State.modRing_same]
    rfl
  obtain ⟨n, first, own⟩ := writeCompl_same (s.modRing w.r unheld) w.r (overCompl s w)
  rw [State.modRing_same] at own
  rw [judgeWait_over ended, postCompl_writes live' room' held', own]
  exact ⟨entry ▸ writeCompl_sent .., rfl, rfl, writeCompl_pegs .., answersOnly_trans (answersOnly_modRing ..) (answersOnly_writeCompl ..)⟩

end Sys2Proof.Machine
end

section
/-! PROOF. PEG_WAIT and PEG_WAIT_TIMEOUT (R305 to R307). -/

namespace Sys2Proof.Machine

open Sys2Proof

/-! ### Time passes up to a deadline -/

theorem countFrames_clk (s : State) (k : Nat) : (countFrames s k).clk = s.clk := by
  unfold countFrames
  split
  · rfl
  · refine foldl_keeps (fun t : State => t.clk = s.clk) _ (fun t g ht => ?_) _ _ rfl
    split
    · exact ht
    · dsimp only
      split
      · exact ht
      · refine foldl_keeps (fun u : State => u.clk = s.clk) _ (fun u i hu => ?_) _ _ ht
        split
        · exact hu
        · exact hu

theorem countHeld_clk (s : State) (n : Nat) : (countHeld s n).clk = s.clk := by
  unfold countHeld
  split <;> rfl

/-- Time moves the time base alone of the clock, and only while it runs. -/
theorem passTime_clk (s : State) (n : Nat) :
    (passTime s n).clk = if s.clk.running then { s.clk with timeBase := s.clk.timeBase + BitVec.ofNat 64 n } else s.clk := by
  unfold passTime
  split
  · dsimp only
    rw [countFrames_clk, countHeld_clk]
  · rfl

/-- A running time base reaches a deadline that it can hold. -/
theorem passUntil_now {s : State} {d : Nat} (running : s.clk.running = true) (ahead : s.now ≤ d) (fits : d < 2 ^ 64) : (passUntil s d).now = d := by
  unfold State.now at *
  unfold passUntil
  rw [passTime_clk, if_pos running]
  simp only [BitVec.toNat_add, BitVec.toNat_ofNat, State.now]
  omega

/-- A deadline that is now takes no time. -/
theorem passUntil_self (s : State) : (passUntil s s.now).now = s.now := by
  have still : (passUntil s s.now).clk.timeBase = s.clk.timeBase := by
    unfold passUntil
    rw [Nat.sub_self, passTime_clk]
    split
    · exact BitVec.add_zero _
    · rfl
  exact congrArg BitVec.toNat still

theorem passUntil_pegs (s : State) (d : Nat) : (passUntil s d).pegs = s.pegs := by
  have k := congrArg State.pegs (ticksOnly_passTime s (d - s.now)); exact k

theorem passUntil_ring (s : State) (d : Nat) (r : RingRef) : (passUntil s d).ring r = s.ring r := by
  have k := congrArg (fun t : State => t.ring r) (ticksOnly_passTime s (d - s.now)); exact k

/-! ### PEG_WAIT (R306, R307) -/

/-- The wait that a PEG_WAIT of a pair asks for. -/
def askedWait (s : State) (i : RingId) (h : Hdr) (o : PegWaitOp) : PegWaitSt :=
  { r := s.ref i, hdr := h, peg := o.peg, target := o.target, deadline := waitDeadline s o.timeout }

/-- The state in which a PEG_WAIT that starts is judged: its pair is held, and the arbitration has taken up the waits that stood. -/
def judgedState (s : State) (i : RingId) (h : Hdr) (o : PegWaitOp) : State :=
  noWaits ((startedState s i { hdr := h, op := .pegWait o }).modRing (s.ref i) waitHeld)

/-- The deadline has come in the cycle of the start for a timeout of 0 alone (log 51). -/
theorem askedWait_expired (s : State) (i : RingId) (h : Hdr) (o : PegWaitOp) : waitExpired s (askedWait s i h o) = decide (o.timeout = 0) := by
  unfold waitExpired askedWait waitDeadline
  by_cases never : o.timeout = 0xFFFFFFFF
  · simp [never]
  · simp only [if_neg never, controlEdge, controlCycle, nsToCycles, ceilDiv]
    exact decide_eq_decide.mpr (by omega)

theorem startPegWait_judges {s : State} (later : s.pegs.later = []) (r : RingRef) (h : Hdr) (o : PegWaitOp) :
    startPegWait s r h o = judgeWait (s.pegs.waits.foldl judgeWait (noWaits (s.modRing r waitHeld)))
      { r := r, hdr := h, peg := o.peg, target := o.target, deadline := waitDeadline s o.timeout } := by
  unfold startPegWait
  rw [pegArbitrate_judges (by exact later), List.foldl_append]
  rfl

section
variable {s : State} {i : RingId} {h : Hdr} {o : PegWaitOp}

/-- A PEG_WAIT of a ready pair is judged after those that stood. -/
theorem exec_pegWait (ready : readyFor s i = true) (may : mayStart s i { hdr := h, op := .pegWait o } = true) (later : s.pegs.later = []) :
    exec (.pegWait i h o) s = .next (judgeWait (s.pegs.waits.foldl judgeWait (judgedState s i h o)) (askedWait s i h o)) := by
  obtain ⟨-, -, -, -, -, still⟩ := readyFor_iff.mp ready
  have started : (startedState s i { hdr := h, op := .pegWait o }).queues = s.queues := queues_modRing s fun _ => ⟨rfl, rfl⟩
  have done : quiet (startPegWait (startedState s i { hdr := h, op := .pegWait o }) (s.ref i) h o) = true :=
    quiet_of_queues ((queues_startPegWait _).trans started) still
  change Host.Outcome.next (submit s i { hdr := h, op := .pegWait o }) = _
  rw [submit_ready ready may done]
  exact congrArg _ (startPegWait_judges (s := startedState s i _) later (s.ref i) h o)

theorem judgedState_ring : (judgedState s i h o).ring (s.ref i) =
    { s.ring (s.ref i) with sqTail := (s.ring (s.ref i)).sqTail + 1, sqHead := (s.ring (s.ref i)).sqHead + 1, running := [(h.tag, none)], pegWait := true } := by
  change (((s.modRing (s.ref i) _).modRing (s.ref i) waitHeld).ring (s.ref i)) = _
  rw [State.modRing_same, State.modRing_same]
  rfl

/-- The ready pair takes the wait's completion at once. -/
theorem judgedState_takes (ready : readyFor s i = true) : ringLive (judgedState s i h o) (s.ref i) = true ∧ cqRoom (judgedState s i h o) (s.ref i) = true ∧
    ((judgedState s i h o).ring (s.ref i)).held = [] := by
  obtain ⟨-, -, -, idle, room, -⟩ := readyFor_iff.mp ready
  obtain ⟨enable, fault, -, -, held, -, -, -, -⟩ := (idlePair_iff _).mp idle
  unfold ringLive cqRoom
  rw [judgedState_ring]
  exact ⟨by simp [enable, fault, ref_gen], room, held⟩

theorem judgedState_entry (c : Compl) : entryOf (judgedState s i h o) (s.ref i) c =
    .hostWrite i.fn (cqBase s (s.ref i) + 32 * ((s.ring (s.ref i)).cqTail.toNat % ringN s (s.ref i)))
      (complBytes c ((s.ring (s.ref i)).sqHead + 1) (phaseAt (s.ring (s.ref i)).cqTail.toNat (ringN s (s.ref i)))) := by
  unfold entryOf
  rw [judgedState_ring]
  rfl

theorem judgedState_over : waitOver (judgedState s i h o) (askedWait s i h o) = (pegReached (s.peg o.peg) o.target || decide (o.timeout = 0)) := by
  have sameTime : waitExpired (judgedState s i h o) (askedWait s i h o) = waitExpired s (askedWait s i h o) := rfl
  unfold waitOver
  rw [sameTime, askedWait_expired]
  rfl

theorem answersOnly_judgedState : answersOnly s (judgedState s i h o) := rfl

/-- A PEG_WAIT, with none standing, whose peg has reached the target or whose timeout is 0 completes at once. -/
theorem pegWait_completes (ready : readyFor s i = true) (may : mayStart s i { hdr := h, op := .pegWait o } = true) (later : s.pegs.later = [])
    (waits : s.pegs.waits = []) (reached : Bool) (judged : pegReached (s.peg o.peg) o.target = reached) (ended : (reached || decide (o.timeout = 0)) = true) :
    ∃ t, exec (.pegWait i h o) s = .next t ∧
      Output.hostWrite i.fn (cqBase s (s.ref i) + 32 * ((s.ring (s.ref i)).cqTail.toNat % ringN s (s.ref i)))
        (complBytes (waitCompl { r := s.ref i, hdr := h, peg := o.peg, target := o.target, deadline := none } (s.peg o.peg) reached)
        ((s.ring (s.ref i)).sqHead + 1) (phaseAt (s.ring (s.ref i)).cqTail.toNat (ringN s (s.ref i)))) ∈ t.out ∧
      (t.ring (s.ref i)).pegWait = false ∧ t.pegs.waits = [] ∧ t.pegs.val = s.pegs.val ∧ { t with fns := s.fns, out := s.out, cnt := s.cnt, pegs := s.pegs } = s := by
  subst judged
  obtain ⟨live, room, held⟩ := judgedState_takes (h := h) (o := o) ready
  obtain ⟨entry, freed, -, ⟨left, pegs⟩, only⟩ := judgeWait_answers (w := askedWait s i h o) (judgedState_over.trans ended) live room held
  refine ⟨_, exec_pegWait ready may later, ?_⟩
  rw [waits, List.foldl_nil, pegs]
  exact ⟨judgedState_entry (overCompl (judgedState s i h o) (askedWait s i h o)) ▸ entry, freed, rfl, rfl, answersOnly_trans answersOnly_judgedState only⟩

/-- A PEG_WAIT, with none standing, whose peg has not reached the target stands for as long as its timeout runs. -/
theorem pegWait_stands (ready : readyFor s i = true) (may : mayStart s i { hdr := h, op := .pegWait o } = true) (later : s.pegs.later = [])
    (waits : s.pegs.waits = []) (notReached : pegReached (s.peg o.peg) o.target = false) (timed : o.timeout ≠ 0) :
    ∃ t, exec (.pegWait i h o) s = .next t ∧ (t.ring (s.ref i)).pegWait = true ∧ (t.ring (s.ref i)).cqTail = (s.ring (s.ref i)).cqTail ∧
      t.pegs.waits = [askedWait s i h o] ∧ t.pegs.val = s.pegs.val ∧
      { t with fns := s.fns, pegs := s.pegs } = s := by
  have stands : waitOver (judgedState s i h o) (askedWait s i h o) = false := by rw [judgedState_over, notReached, decide_eq_false timed]; rfl
  refine ⟨_, exec_pegWait ready may later, ?_⟩
  rw [waits, List.foldl_nil, judgeWait_stands stands]
  have ring := judgedState_ring (s := s) (i := i) (h := h) (o := o)
  exact ⟨congrArg RingPair.pegWait ring, (congrArg RingPair.cqTail ring :), rfl, rfl, rfl⟩

/-- A PEG_WAIT beside the standing waits of other pairs. -/
theorem pegWait_beside (ready : readyFor s i = true) (may : mayStart s i { hdr := h, op := .pegWait o } = true) (later : s.pegs.later = [])
    (others : ∀ w ∈ s.pegs.waits, (w.r.fn, w.r.pair) ≠ (i.fn, i.pair)) :
    ∃ t, exec (.pegWait i h o) s = .next t ∧ t.pegs.val = s.pegs.val ∧
      if pegReached (s.peg o.peg) o.target ∨ waitExpired s (askedWait s i h o) then
        (t.ring (s.ref i)).pegWait = false ∧ (t.ring (s.ref i)).cqTail = (s.ring (s.ref i)).cqTail + 1
      else (t.ring (s.ref i)).pegWait = true ∧ (t.ring (s.ref i)).cqTail = (s.ring (s.ref i)).cqTail ∧
        askedWait s i h o ∈ t.pegs.waits := by
  have same : sameFor (s.ref i) (judgedState s i h o) (s.pegs.waits.foldl judgeWait (judgedState s i h o)) := sameFor_judgeAll _ _ others
  refine ⟨_, exec_pegWait ready may later, ?_⟩
  generalize s.pegs.waits.foldl judgeWait (judgedState s i h o) = u at same ⊢
  have ring := same.ring.trans judgedState_ring
  have judged : waitOver u (askedWait s i h o) = (pegReached (s.peg o.peg) o.target || waitExpired s (askedWait s i h o)) := same.ended _
  cases ended : waitOver u (askedWait s i h o) with
  | true =>
    obtain ⟨live, room, held⟩ := judgedState_takes (h := h) (o := o) ready
    obtain ⟨-, freed, tail, ⟨left, pegs⟩, -⟩ := judgeWait_answers ended (same.live.trans live) (same.room.trans room) ((congrArg RingPair.held same.ring).trans held)
    rw [if_pos (Bool.or_eq_true_iff.mp (judged.symm.trans ended)), pegs]
    exact ⟨same.val, freed, tail.trans (congrArg (·.cqTail + 1) ring)⟩
  | false =>
    rw [if_neg (fun p => Bool.false_ne_true ((judged.symm.trans ended).symm.trans (Bool.or_eq_true_iff.mpr p))), judgeWait_stands ended]
    exact ⟨same.val, congrArg RingPair.pegWait ring, (congrArg RingPair.cqTail ring :), List.mem_append_right _ List.mem_cons_self⟩

end

/-! ### PEG_WAIT_TIMEOUT (R305, R307) -/

section
variable {s : State} {i : RingId} {w : PegWaitSt} {d : Nat}

/-- At its deadline a wait is over. -/
theorem passUntil_over (deadline : w.deadline = some d) (reaches : (passUntil s d).now = d) : waitOver (noWaits (passUntil s d)) w = true := by
  have expired : waitExpired (noWaits (passUntil s d)) w = true := by
    unfold waitExpired
    rw [deadline]
    exact decide_eq_true reaches.ge
  exact Bool.or_eq_true_iff.mpr (.inr expired)

/-- But for the time, a state at a deadline is as it was for every pair. -/
theorem sameFor_passUntil (s : State) (d : Nat) (r : RingRef) : sameFor r { s with clk := (passUntil s d).clk } (noWaits (passUntil s d)) :=
  ⟨passUntil_ring s d r, passTime_regs s _, rfl, (congrArg Pegs.val (passUntil_pegs s d) :)⟩

theorem exec_pegWaitTimeout (found : (s.pegs.waits.find? fun w => w.r == s.ref i) = some w) (deadline : w.deadline = some d) :
    exec (.pegWaitTimeout i) s = .next (pumpAll (pegArbitrate (passUntil s d) [] [])) := by
  change execPegWaitTimeout i s = _
  unfold execPegWaitTimeout
  rw [found, Option.bind_some, deadline]

theorem passUntil_judges (later : s.pegs.later = []) : pegArbitrate (passUntil s d) [] [] = s.pegs.waits.foldl judgeWait (noWaits (passUntil s d)) := by
  have pegs := passUntil_pegs s d
  rw [pegArbitrate_judges (pegs ▸ later), pegs]

/-- The wait whose deadline comes answers with its entry, whatever the waits of other pairs do, and whatever the pump then starts. -/
theorem pegWaitTimeout_answers (found : (s.pegs.waits.find? fun w => w.r == s.ref i) = some w) (deadline : w.deadline = some d) (later : s.pegs.later = [])
    (reaches : (passUntil s d).now = d) (live : ringLive s (s.ref i) = true) (room : cqRoom s (s.ref i) = true) (held : (s.ring (s.ref i)).held = [])
    (alone : ∀ x ∈ s.pegs.waits, (x.r.fn, x.r.pair) = (i.fn, i.pair) → x = w) :
    entryOf s (s.ref i) (overCompl s w) ∈ (pumpAll (pegArbitrate (passUntil s d) [] [])).out := by
  have own : w.r = s.ref i := beq_iff_eq.mp (List.find?_some (p := fun w : PegWaitSt => w.r == s.ref i) found)
  obtain ⟨before, after, split, first⟩ := List.eq_append_cons_of_mem (List.mem_of_find?_eq_some found)
  have others : ∀ x ∈ before, (x.r.fn, x.r.pair) ≠ (i.fn, i.pair) := fun x hx pair =>
    first (alone x (split ▸ List.mem_append_left _ hx) pair ▸ hx)
  have turn : sameFor (s.ref i) (noWaits (passUntil s d)) (before.foldl judgeWait (noWaits (passUntil s d))) := sameFor_judgeAll _ _ others
  rw [passUntil_judges later, split, List.foldl_append, List.foldl_cons]
  refine sameCycle_sent (sameCycle_pumpAll (sameCycle_foldl (sameCycle_refl _) fun _ _ => sameCycle_judgeWait)) ?_
  generalize before.foldl judgeWait (noWaits (passUntil s d)) = u at turn ⊢
  have same := (sameFor_passUntil s d (s.ref i)).trans turn
  have ended : waitOver u w = true := (turn.ended w).trans (passUntil_over deadline reaches)
  obtain ⟨entry, -⟩ := judgeWait_answers ended (own ▸ same.live.trans live) (own ▸ same.room.trans room) (own ▸ (congrArg RingPair.held same.ring).trans held)
  rw [own, same.entry, same.compl] at entry
  exact entry

/-- A wait that stands alone frees its pair at its deadline, and completes as its peg then stands. -/
theorem pegWaitTimeout_frees (waits : s.pegs.waits = [w]) (own : w.r = s.ref i) (deadline : w.deadline = some s.now) (later : s.pegs.later = [])
    (live : ringLive s (s.ref i) = true) (room : cqRoom s (s.ref i) = true) (held : (s.ring (s.ref i)).held = []) (still : quiet s = true) :
    ∃ t, exec (.pegWaitTimeout i) s = .next t ∧ t.pegs.waits = [] ∧ t.pegs.val = s.pegs.val ∧ (t.ring (s.ref i)).pegWait = false ∧
      entryOf s (s.ref i) (overCompl s w) ∈ t.out := by
  have found : (s.pegs.waits.find? fun w => w.r == s.ref i) = some w := by
    rw [waits]
    exact List.find?_cons_of_pos (p := fun w : PegWaitSt => w.r == s.ref i) (beq_iff_eq.mpr own)
  have quietLeft : quiet (pegArbitrate (passUntil s s.now) [] []) = true := quiet_of_queues ((queues_pegArbitrate _).trans (queues_passUntil s)) still
  have same := sameFor_passUntil s s.now (s.ref i)
  obtain ⟨entry, freed, -, ⟨left, pegs⟩, -⟩ := judgeWait_answers (passUntil_over deadline (passUntil_self s)) (own ▸ same.live.trans live)
    (own ▸ same.room.trans room) (own ▸ (congrArg RingPair.held same.ring).trans held)
  refine ⟨_, exec_pegWaitTimeout found deadline, ?_⟩
  rw [pumpAll_quiet _ quietLeft, passUntil_judges later, waits, List.foldl_cons, List.foldl_nil, pegs]
  rw [own, same.entry, same.compl] at entry
  exact ⟨rfl, same.val, own ▸ freed, entry⟩

end

/-- A peg has reached a target when their difference modulo 2^32 is below 2^31 (R306). -/
theorem pegReached_eq (p v : Word32) : pegReached p v = decide ((p.toNat + 2 ^ 32 - v.toNat) % 2 ^ 32 < 2 ^ 31) := by
  have value : (p - v).toNat = (p.toNat + 2 ^ 32 - v.toNat) % 2 ^ 32 := by
    rw [BitVec.toNat_sub]
    congr 1
    omega
  unfold pegReached
  rw [value]

/-- Settles O33: a ready pair's PEG_WAIT is judged after the waits that stood, and the time base's arrival at a deadline judges them again. -/
theorem pegWaits : Obligations.PegWaits := by
  refine ⟨⟨pegReached_eq, fun s i h o ready may later waits => ⟨?reached, ?zero, ?stands⟩⟩, ?beside, ?timeout, ?alone⟩
  case reached => exact fun reached => pegWait_completes ready may later waits true reached rfl
  case zero => exact fun notReached zero => pegWait_completes ready may later waits false notReached (decide_eq_true zero)
  case stands => exact fun notReached timed => pegWait_stands ready may later waits notReached timed
  case beside => exact fun s i h o ready may later others => pegWait_beside ready may later others
  case timeout =>
    intro s i w d found deadline later running ahead fits
    have reaches := passUntil_now running ahead fits
    have after : sameCycle (passUntil s d) (pumpAll (pegArbitrate (passUntil s d) [] [])) := sameCycle_pumpAll (sameCycle_pegArbitrate (sameCycle_refl _))
    exact ⟨_, exec_pegWaitTimeout found deadline, (sameCycle_now after).trans reaches,
      fun live room held alone _ => pegWaitTimeout_answers found deadline later reaches live room held alone⟩
  case alone =>
    rintro s i w d waits own deadline later rfl notReached live room held still
    obtain ⟨t, ran, none, val, freed, entry⟩ := pegWaitTimeout_frees waits own deadline later live room held still
    unfold overCompl at entry
    rw [notReached] at entry
    exact ⟨t, ran, none, val, freed, entry⟩

end Sys2Proof.Machine
end

section
/-! PROOF. Reads and writes of port space (R365): what a READ answers at each address, and what a WRITE leaves that reaches no control word. -/

namespace Sys2Proof.Machine

open Sys2Proof

/-- The byte of the verdict table at an address inside it is byte `a % 16` of entry `a / 16`; a standby has nothing there to show (Table 15-5). -/
theorem portByte_verdictTable (s : State) {a : Nat} (inside : a < 4096) :
    portByte s a = if s.twin.state = .standby then 0 else (s.port.table.toList.getD (a / 16) []).getD (a % 16) 0 := by
  have entry : a / 16 < 256 := by omega
  have found : s.port.table.toList.getD (a / 16) [] = s.port.table[a / 16 % 256] := by
    simp [Nat.mod_eq_of_lt entry, entry]
  rw [found]
  exact if_pos inside

/-- Port space as Table 14-2 lays it out for a READ: the verdict table, the status block after it, and 0 at every other address. -/
theorem portByte_eq (s : State) (a : Nat) :
    portByte s a = if a < 4096 then (if s.twin.state = .standby then 0 else (s.port.table.toList.getD (a / 16) []).getD (a % 16) 0)
      else if a < 4160 then (statusBlock s).getD (a - 4096) 0 else 0 := by
  split
  next inside => exact portByte_verdictTable s inside
  next beyond => exact if_neg beyond

theorem portRead_length (s : State) (a n : Nat) : (portRead s a n).length = n := by
  simp [portRead]

/-- Byte `i` of a READ stands `i` addresses on, modulo 2^32. -/
theorem portRead_getD (s : State) (a : Nat) {i n : Nat} (within : i < n) : (portRead s a n).getD i 0 = portByte s ((a + i) % 2 ^ 32) := by
  simp [portRead, within]

/-- A READ of a port that answers counts the transaction and sends its bytes. -/
theorem exec_read_answered {s : State} (answers : portAnswers s = true) (a : Word32) (n : Nat) :
    exec (.read a n) s = .next ((s.chipCnt 48).emit (.portData (portRead s a.toNat n))) :=
  congrArg Host.Outcome.next (if_pos answers)

/-- A WRITE to a port that answers is ignored when no control word has its address and length. -/
theorem exec_write_ignored {s : State} (answers : portAnswers s = true) {a : Word32} {d : List Byte}
    (noRate : ¬ (a = 0x2000 ∧ d.length = 1)) (noConfig : ¬ (a = 0x2004 ∧ d.length = 4)) : exec (.write a d) s = .next (portIgnore s) := by
  change execWrite a d s = _
  unfold execWrite
  rw [answers, if_neg noRate, if_neg noConfig]
  rfl

theorem portIgnore_errors (s : State) : (portIgnore s).port.errors = s.port.errors + 1 := rfl

/-- What R362 counts is all that an ignored transaction moves. -/
theorem portIgnore_frame (s : State) :
    { portIgnore s with port := { (portIgnore s).port with errors := s.port.errors }, cnt := s.cnt } = s := rfl

/-- Settles O9: the bytes of a READ follow port space from its address on, and a WRITE that names no control word is an ignored transaction. -/
theorem portSpace : Obligations.PortSpace := by
  refine fun s answers => ⟨fun a n => ?read, fun a d noRate noConfig => ?write⟩
  case read =>
    refine ⟨portRead s a.toNat n, _, exec_read_answered answers a n, rfl, rfl, portRead_length s a.toNat n, fun i within => ?_⟩
    exact (portRead_getD s a.toNat within).trans (portByte_eq s _)
  case write => exact ⟨_, exec_write_ignored answers noRate noConfig, portIgnore_errors s, portIgnore_frame s⟩

end Sys2Proof.Machine
end

section
/-! PROOF. Alert cause 5 (R424): what raises it, what host software's write of 1 leaves of it, and what each reset does to it. -/

namespace Sys2Proof.Machine

open Sys2Proof

theorem b2n_le_one (b : Bool) : b2n b ≤ 1 := by cases b <;> decide

/-- Bit 5 of the alert causes (Table 14-7): the alert bit of a REGION error or a DEVICE error that stands. The causes below it are bits of lesser weight, and
those above are whole multiples of twice its own. -/
theorem alertCauses_bit5 (s : State) : alertCauses s / 32 % 2 = b2n (s.health.alert || s.pwr.device) := by
  have lesser : ∀ c₀ c₁ c₂ c₃ c₄ c₅ c₆ c₇ : Bool,
      (b2n c₀ + 2 * b2n c₁ + 4 * b2n c₂ + 8 * b2n c₃ + 16 * b2n c₄ + 32 * b2n c₅ + 64 * b2n c₆ + 128 * b2n c₇) / 32 % 2 = b2n c₅ := by
    grind [b2n_le_one]
  exact lesser ..

/-- With no alert bit the cause is that of a DEVICE error alone. -/
theorem alertCauses_bit5_noAlert {s : State} (alert : s.health.alert = false) : alertCauses s / 32 % 2 = b2n s.pwr.device := by
  rw [alertCauses_bit5, alert, Bool.false_or]

/-- With neither the alert bit nor a DEVICE error the cause is gone. -/
theorem alertCauses_bit5_ended {s : State} (alert : s.health.alert = false) (device : s.pwr.device = false) : alertCauses s / 32 % 2 = 0 := by
  rw [alertCauses_bit5_noAlert alert, device]
  rfl

theorem exec_healthAlertClear (s : State) : exec .healthAlertClear s = .next { s with health := { s.health with alert := false } } := rfl

/-! ### Resets of a module with rails -/

theorem alertCauses_powerState (s : State) (rails : Bool) : alertCauses (powerState s rails) / 32 % 2 = 0 := alertCauses_bit5_ended rfl rfl

theorem alertCauses_moduleState (s : State) (cause : Nat) (held : Held) : alertCauses (moduleState s cause held) / 32 % 2 = 0 :=
  alertCauses_bit5_ended rfl rfl

theorem moduleReset_ofRails {s : State} (rails : s.pwr.rails = true) (cause : Nat) : moduleReset s cause = moduleState s cause s.pwr.held := if_pos rails

theorem alertCauses_moduleReset {s : State} (rails : s.pwr.rails = true) (cause : Nat) : alertCauses (moduleReset s cause) / 32 % 2 = 0 := by
  rw [moduleReset_ofRails rails]
  exact alertCauses_moduleState ..

theorem exec_resetN (s : State) : exec .resetN s = .next (moduleReset s 1) := rfl

theorem exec_perst (s : State) : exec .perst s = .next (moduleReset s 2) := rfl

/-- PWR_CTRL.reset resets once registers are usable. -/
theorem exec_pwrCtrlReset {s : State} (usable : 2 ≤ s.boot.stage) : exec .pwrCtrlReset s = .next (moduleReset s 3) :=
  congrArg Host.Outcome.next (if_neg (Nat.not_lt.mpr usable))

/-- The loss of REFCLK is a module reset that stays held (R443). -/
theorem exec_refclkLoss {s : State} (rails : s.pwr.rails = true) : ∃ held,
    exec .refclkLoss s = .next (moduleState { s with clk := { s.clk with refclkOk := false } } 5 held) :=
  ⟨_, congrArg Host.Outcome.next (if_pos rails)⟩

/-- A power-on reset takes an input that has returned (R434). -/
theorem exec_powerOnReset (s : State) {mainOk auxOk : Bool} (returned : (mainOk || auxOk) = true) :
    exec (.powerOnReset mainOk auxOk) s = .next (powerState { s with pwr := { s.pwr with mainOk := mainOk, auxOk := auxOk } } true) :=
  congrArg Host.Outcome.next (if_pos returned)

/-- Settles O19: cause 5 is the OR of the alert bit, which the write of 1 clears alone, and the DEVICE error, which every reset ends with it. -/
theorem alertCause : Obligations.AlertCause := by
  refine fun s => ⟨exec_healthAlertClear s, fun t ran => ?clear, fun rails c reset => ?reset⟩
  case clear =>
    obtain rfl : _ = t := Host.Outcome.next.inj ((exec_healthAlertClear s).symm.trans ran)
    exact alertCauses_bit5_noAlert rfl
  case reset =>
    rcases reset with rfl | rfl | rfl | ⟨rfl, usable⟩ | ⟨m, a, returned, rfl⟩
    · exact ⟨_, exec_resetN s, alertCauses_moduleReset rails 1⟩
    · exact ⟨_, exec_perst s, alertCauses_moduleReset rails 2⟩
    · obtain ⟨held, ran⟩ := exec_refclkLoss rails
      exact ⟨_, ran, alertCauses_moduleState ..⟩
    · exact ⟨_, exec_pwrCtrlReset usable, alertCauses_moduleReset rails 3⟩
    · exact ⟨_, exec_powerOnReset s returned, alertCauses_powerState ..⟩

end Sys2Proof.Machine
end

section
/-! PROOF. The module reset (R444, R445, Table 18-6): what a power-on reset and a module reset leave, and what a module reset keeps beside that (O12). -/

namespace Sys2Proof.Machine

open Sys2Proof

/-! ### What a reset leaves -/

theorem track_powerState (s : State) (rails : Bool) (k : Track) : (powerState s rails).track k = resetTrack (s.track k) := by
  cases k <;> rfl

theorem wasReset_powerState (s : State) (rails : Bool) : wasReset s (powerState s rails) := by
  refine ⟨⟨rfl, rfl, rfl, rfl, rfl, rfl, rfl, rfl, rfl, rfl, rfl, rfl, rfl, rfl, rfl, rfl, rfl, rfl⟩, fun k => ?tracks, rfl, rfl, rfl, rfl, rfl⟩
  rw [track_powerState]
  exact ⟨rfl, rfl, rfl, rfl⟩

/-- Table 18-6 on a module reset: all that a power-on reset clears, but for the RWS fields, HEALTH_LAST, the darn tables, the error counts and accounting;
the source is named and the module is held as given. -/
def moduleWasReset (s t : State) (cause : Nat) (held : Held) : Prop :=
  wasReset s t ∧ t.boot.resetCause = cause ∧ t.pwr.held = held ∧
    t.sched.acct = s.sched.acct ∧ t.store.darn = s.store.darn ∧ t.store.badPatch = s.store.badPatch ∧ t.store.recent = s.store.recent ∧
    t.health.last = s.health.last ∧ t.pwr.tripSensor = s.pwr.tripSensor ∧ t.pwr.tripIndex = s.pwr.tripIndex

/-- What a module reset keeps lies outside what `wasReset` speaks of, so there it leaves what a power-on reset leaves. -/
theorem moduleWasReset_moduleState (s : State) (cause : Nat) (held : Held) : moduleWasReset s (moduleState s cause held) cause held :=
  ⟨wasReset_powerState s s.pwr.rails, rfl, rfl, rfl, rfl, rfl, rfl, rfl, rfl, rfl⟩

theorem moduleWasReset_moduleReset {s : State} (rails : s.pwr.rails = true) (cause : Nat) :
    moduleWasReset s (moduleReset s cause) cause s.pwr.held := by
  rw [moduleReset_ofRails rails]
  exact moduleWasReset_moduleState ..

/-! ### The loss and the return of REFCLK (R443) -/

/-- A thermal trip that holds the module outlasts the loss of REFCLK. -/
theorem exec_refclkLoss_held {s : State} (rails : s.pwr.rails = true) :
    exec .refclkLoss s = .next (moduleState { s with clk := { s.clk with refclkOk := false } } 5 (if s.pwr.held = .thermal then .thermal else .clockLoss)) :=
  congrArg Host.Outcome.next (if_pos rails)

/-- Nothing that a reset clears or keeps is judged against the clock before it. -/
theorem moduleWasReset_ofClk {s t : State} {clk : Clock} {cause : Nat} {held : Held} (reset : moduleWasReset { s with clk := clk } t cause held) :
    moduleWasReset s t cause held := reset

theorem exec_refclkRestored_clockLoss {s : State} (lost : s.pwr.held = .clockLoss) :
    exec .refclkRestored s = .next { s with clk := { s.clk with refclkOk := true }, pwr := { s.pwr with held := .no } } := by
  change execRefclkRestored s = _
  rw [execRefclkRestored, if_pos lost]

/-- Settles O12: each source runs the one module reset under its own cause, and REFCLK's return lifts the hold that its loss left. -/
theorem moduleResets : Obligations.ModuleResets := by
  refine fun s => ⟨fun rails c cause held source => ?reset, fun lost => ?release⟩
  case reset =>
    rcases source with ⟨rfl, rfl, rfl⟩ | ⟨rfl, rfl, rfl⟩ | ⟨rfl, usable, rfl, rfl⟩ | ⟨rfl, rfl, rfl⟩
    · exact ⟨_, exec_resetN s, moduleWasReset_moduleReset rails 1⟩
    · exact ⟨_, exec_perst s, moduleWasReset_moduleReset rails 2⟩
    · exact ⟨_, exec_pwrCtrlReset usable, moduleWasReset_moduleReset rails 3⟩
    · exact ⟨_, exec_refclkLoss_held rails, moduleWasReset_ofClk (moduleWasReset_moduleState ..)⟩
  case release => exact ⟨_, exec_refclkRestored_clockLoss lost, rfl, rfl, rfl⟩

end Sys2Proof.Machine
end

section
/-! PROOF. What a step and a command may do to the queue, the bring-up stage and the verdict table, and that every command but one of the TAP completes. -/

namespace Sys2Proof.Machine

open Sys2Proof

theorem step_cons {c : Instr} {cs : List Instr} {s : State} (front : s.pending = c :: cs) : step s = exec c { s with pending := cs } := by
  unfold step
  rw [front]

/-- Settles O1: it is what a step is on a queue that is not empty. -/
theorem stepTakesFront : Obligations.StepTakesFront := fun _ _ _ front => step_cons front

/-- A command that completes moves the queue, the stage and the verdict table only as `moves` says. -/
theorem moves_of_exec {c : Instr} {s t : State} (ran : exec c s = .next t) : moves s t := by
  rcases exec_moves c s with ⟨u, next, moved⟩ | ⟨refused, -⟩
  · rwa [Host.Outcome.next.inj (ran.symm.trans next)]
  · exact nomatch ran.symm.trans refused

/-- Settles O4: the queue is one of the three things that `moves` speaks of. -/
theorem queueUntouched : Obligations.QueueUntouched := fun _ _ _ ran => (moves_of_exec ran).1

/-- The passing of a cycle leaves what is fixed. -/
theorem fixed_tick (s : State) : (tick s).fixed = s.fixed := by
  unfold tick
  split
  · rfl
  · rw [fixed_schedule, fixed_retryPosts, fixed_pumpAll, fixed_noteHold, fixed_noteHold, fixed_pegArbitrate, fixed_passTime]

/-- Beside the queue a step moves no more than a command may. -/
theorem moves_of_step {s t : State} (ran : step s = .next t) : ∃ q, moves { s with pending := q } t := by
  unfold step at ran
  split at ran
  next =>
    obtain rfl := Host.Outcome.next.inj ran
    exact ⟨s.pending, moves_of_fixed (fixed_tick s)⟩
  next cs _ => exact ⟨cs, moves_of_exec ran⟩

/-- Settles O5: the stage rises only from S0 to S5, so it stays one of S0 to S6. -/
theorem bringUpStageMoves : Obligations.StageMoves := by
  intro s t sound ran
  obtain ⟨_, -, stage, -⟩ := moves_of_step ran
  unfold stageOk stageMoves at *
  rcases stage with same | ⟨rises, below⟩ | reset
  · exact ⟨same ▸ sound, .inl same⟩
  · exact ⟨rises ▸ Nat.succ_le_succ below, .inr (.inl rises)⟩
  · exact ⟨reset ▸ Nat.zero_le 6, .inr (.inr reset)⟩

theorem tableOk_reset : tableOk State.reset := by
  intro i
  left
  simp [State.reset, MachPort.reset]

/-- Settles O6: a table that is not left as it was is the cleared one, or takes one entry with its check byte. -/
theorem verdictTableSound : Obligations.VerdictTableSound := by
  intro s t sound ran
  obtain ⟨_, -, -, table⟩ := moves_of_step ran
  intro i
  rcases table with same | cleared | ⟨k, hk, e, closed, set⟩
  · exact same ▸ sound i
  · exact cleared ▸ tableOk_reset i
  · rw [set, Vector.getElem_set]
    split
    · exact closed
    · exact sound i

/-- The TAP (R488): what each instruction answers. -/
theorem exec_tap_bypass (s : State) (b : Bool) : exec (.testAccessPort (.bypass b)) s = .next (s.emit (.tap (if b then 1 else 0))) := by cases b <;> rfl

theorem exec_tap_idcode (s : State) : exec (.testAccessPort .idcode) s = .next (s.emit (.tap idcode)) := rfl

theorem exec_tap_closed {s : State} (closed : s.sec.blob.debugOpen = false) (v : Nat) : exec (.testAccessPort (.other v)) s = .next s := by
  change execTestAccessPort (.other v) s = _
  simp [execTestAccessPort, closed]

theorem exec_tap_open {s : State} (isOpen : s.sec.blob.debugOpen = true) (v : Nat) : exec (.testAccessPort (.other v)) s = .refused .debugPortOpen := by
  change execTestAccessPort (.other v) s = _
  simp [execTestAccessPort, isOpen]

/-- Settles O7: `exec_moves` knows two outcomes alone, and the TAP's open debug port is the one that is no next state. -/
theorem noStop : Obligations.NoStop := by
  refine ⟨fun c s => ⟨fun tapClosed => ?completes, fun f fault => ?noFault, fun r => ⟨fun refused => ?whence, ?whither⟩⟩, fun s =>
    ⟨exec_tap_bypass s, exec_tap_idcode s, fun v closed => exec_tap_closed closed v⟩⟩
  case completes =>
    rcases exec_moves c s with ⟨t, next, queue, -⟩ | ⟨-, ⟨v, tap⟩, isOpen⟩
    · exact ⟨t, next, queue⟩
    · exact absurd isOpen (by simp [tapClosed v tap])
  case noFault =>
    rcases exec_moves c s with ⟨t, next, -⟩ | ⟨refused, -⟩
    · exact nomatch fault.symm.trans next
    · exact nomatch fault.symm.trans refused
  case whence =>
    rcases exec_moves c s with ⟨t, next, -⟩ | ⟨outcome, tap, isOpen⟩
    · exact nomatch refused.symm.trans next
    · exact ⟨Host.Outcome.refused.inj (refused.symm.trans outcome), tap, isOpen⟩
  case whither =>
    rintro ⟨rfl, ⟨v, rfl⟩, isOpen⟩
    exact exec_tap_open isOpen v

/-- Settles O3: each field as the reset state writes it out. -/
theorem resetSound : Obligations.ResetSound := by
  refine ⟨⟨rfl, rfl, rfl, fun n => rfl, rfl, rfl, rfl, rfl, ?functions, ?rings, ?table, rfl, rfl, rfl, rfl, rfl⟩, tableOk_reset, Nat.zero_le 6, reset_memory_wf⟩
  case functions =>
    intro f
    simp only [State.reset, State.fnOf, FnState.reset, Vector.getElem_ofFn]
    exact beq_eq_decide ..
  case rings => simp [State.reset, State.fnOf, FnState.reset, RingPair.reset]
  case table => simp [State.reset, MachPort.reset]

end Sys2Proof.Machine
end

section
/-! PROOF. A descriptor's 64 bytes (Tables 11-3 to 11-5): each field is read back from the place where it is written. -/

namespace Sys2Proof.Machine

open Sys2Proof

/-! ### Fields in a run of bytes -/

/-- A field of a width that its value fits is read back. -/
theorem fieldAt_fits {n v : Nat} (fit : fits n v = true) (r : List Byte) : fieldAt (leBytes n v ++ r) 0 n = v := by
  have small : v < 256 ^ n := by simpa [fits, pow_mul] using fit
  rw [fieldAt_here, Nat.mod_eq_of_lt small]

/-- A 32-bit and a 64-bit word, read back. -/
theorem ofNat_fieldAt_word32 (w : Word32) (r : List Byte) : BitVec.ofNat 32 (fieldAt (leBytes 4 w.toNat ++ r) 0 4) = w := by
  rw [fieldAt_fits (by simp [fits, w.isLt])]
  simp

theorem ofNat_fieldAt_word64 (w : Word64) (r : List Byte) : BitVec.ofNat 64 (fieldAt (leBytes 8 w.toNat ++ r) 0 8) = w := by
  rw [fieldAt_fits (by simp [fits, w.isLt])]
  simp

/-- A field lies behind the bytes of a field before it, and behind reserved bytes. -/
theorem fieldAt_pastField {n off : Nat} (past : n ≤ off) (v k : Nat) (r : List Byte) : fieldAt (leBytes n v ++ r) off k = fieldAt r (off - n) k := by
  rw [fieldAt_skip _ _ _ _ (by rwa [leBytes_length]), leBytes_length]

theorem fieldAt_pastZeros {n off : Nat} (past : n ≤ off) (k : Nat) (r : List Byte) : fieldAt (zeros n ++ r) off k = fieldAt r (off - n) k := by
  rw [fieldAt_skip _ _ _ _ (by rwa [zeros_length]), zeros_length]

/-! ### The header (Table 11-3) -/

theorem encodeHdr_length (h : Hdr) (n : Nat) : (encodeHdr h n).length = 16 := by simp [encodeHdr, leBytes_length, zeros_length]

/-- The flag byte holds its three flags. -/
theorem bitAt_flags (x y z : Bool) : fits 1 (b2n x + 2 * b2n y + 4 * b2n z) = true ∧ bitAt (b2n x + 2 * b2n y + 4 * b2n z) 0 = x ∧
    bitAt (b2n x + 2 * b2n y + 4 * b2n z) 1 = y ∧ bitAt (b2n x + 2 * b2n y + 4 * b2n z) 2 = z := by
  revert x y z
  decide

theorem parseHdr_encodeHdr {h : Hdr} (wf : h.wf = true) (n : Nat) (r : List Byte) : parseHdr (encodeHdr h n ++ r) = h := by
  obtain ⟨fit, irq, fence, peg⟩ := bitAt_flags h.irq h.fence h.peg
  simp [parseHdr, encodeHdr, fieldAt_pastField, fieldAt_pastZeros, fieldAt_fits fit, fieldAt_fits (wf : fits 2 h.complPeg = true), ofNat_fieldAt_word64, irq, fence, peg]

theorem opcode_encodeHdr {n : Nat} (fit : fits 1 n = true) (h : Hdr) (r : List Byte) : fieldAt (encodeHdr h n ++ r) 0 1 = n := by
  simp only [encodeHdr, List.append_assoc, fieldAt_fits fit]

theorem fieldAt_pastHdr {off : Nat} (past : 16 ≤ off) (h : Hdr) (n k : Nat) (r : List Byte) : fieldAt (encodeHdr h n ++ r) off k = fieldAt r (off - 16) k := by
  rw [fieldAt_skip _ _ _ _ (by rwa [encodeHdr_length]), encodeHdr_length]

/-! ### The operands (Table 11-5) -/

theorem encodeOp_length (o : DescOp) : (encodeOp o).length ≤ 48 := by
  cases o <;> simp [encodeOp, leBytes_length, zeros_length]

theorem opcode_fits {o : DescOp} (wf : o.wf = true) : fits 1 (DescOpcode o) = true := by
  cases o
  case unknown n => exact (Bool.and_eq_true_iff.mp wf).1
  all_goals rfl

/-- A code outside Table 11-4 is read as an unknown opcode. -/
theorem parseOp_unlisted {b aux : List Byte} {n : Nat} (code : fieldAt b 0 1 = n) (unlisted : listedOpcode n = false) : parseOp b aux = .unknown n := by
  unfold parseOp
  rw [code]
  split
  all_goals first | rfl | exact nomatch unlisted

theorem parseOp_encodeOp {o : DescOp} (wf : o.wf = true) (h : Hdr) (r : List Byte) :
    parseOp (encodeHdr h (DescOpcode o) ++ (encodeOp o ++ r)) (auxOf o) = o := by
  have code := opcode_encodeHdr (opcode_fits wf) h (encodeOp o ++ r)
  cases o
  case unknown n => exact parseOp_unlisted code (by simpa using (Bool.and_eq_true_iff.mp wf).2)
  all_goals
    simp only [DescOp.wf, ScanArmOp.wf, CalRunOp.wf, ImageReadOp.wf, SeqStepOp.wf, TailorStepOp.wf, PlanLoadOp.wf, WardrobePinOp.wf, PtEditOp.wf, PegWaitOp.wf,
      PegSignalOp.wf, SnapshotOp.wf, WindowOpenOp.wf, TwinDmaOp.wf, TestRunOp.wf, Bool.and_eq_true] at wf
    unfold parseOp
    rw [code]
    simp [DescOpcode, auxOf, encodeOp, parseImageRead, parseSeqStep, parseTailorStep, parsePlanLoad, parsePtEdit, parseSnapshot, parseWindowOpen, parseTwinDma,
      parseTestRun, fieldAt_pastHdr, fieldAt_pastField, fieldAt_pastZeros, fieldAt_fits, ofNat_fieldAt_word32, wf]

/-- Settles O8: the header stands in the first 16 bytes and the operands behind it, both read back field by field. -/
theorem descriptorRoundTrip : Obligations.DescriptorRoundTrip := by
  intro d wf
  obtain ⟨hdr, op⟩ := Bool.and_eq_true_iff.mp wf
  have layout : encodeDesc d = encodeHdr d.hdr (DescOpcode d.op) ++ (encodeOp d.op ++ zeros (64 - (encodeHdr d.hdr (DescOpcode d.op) ++ encodeOp d.op).length)) :=
    List.append_assoc ..
  refine ⟨?length, ?back⟩
  case length =>
    have := encodeOp_length d.op
    simp only [layout, List.length_append, encodeHdr_length, zeros_length]
    omega
  case back =>
    rw [layout]
    unfold parseDesc
    rw [parseHdr_encodeHdr hdr, parseOp_encodeOp op]

end Sys2Proof.Machine
end

section
/-! PROOF. Descriptors that a command or the submission ring brings: their start, their completion on a ready pair, and the two that do no more (NOP, PEG_SIGNAL). -/

namespace Sys2Proof.Machine

open Sys2Proof

/-! ### The command of a descriptor -/

/-- The command of a descriptor submits it. -/
theorem exec_descCmd {i : RingId} {d : Desc} {c : Instr} (cmd : descCmd i d = some c) (s : State) : exec c s = .next (submit s i d) := by
  obtain ⟨h, o⟩ := d
  cases o
  case unknown n => exact nomatch cmd
  all_goals
    obtain rfl := Option.some.inj cmd
    rfl

/-- Settles O29: what a descriptor does leaves none waiting on any pair, so its start is all that the pump brings about. -/
theorem descriptorStarts : Obligations.DescriptorStarts := by
  intro s i d c cmd ready may
  obtain ⟨-, -, -, -, -, still⟩ := readyFor_iff.mp ready
  have started : (startedState s i d).queues = s.queues := queues_modRing s fun _ => ⟨rfl, rfl⟩
  rw [exec_descCmd cmd, submit_ready ready may (quiet_of_queues ((queues_runDesc _).trans started) still)]

/-- A pair with a descriptor announced takes the one that its command brings. -/
theorem submit_announced {s : State} {i : RingId} (live : ringLive s (s.ref i) = true) (some : 0 < announced (s.ring (s.ref i))) (d : Desc) :
    submit s i d = takeDesc s (s.ref i) d := by
  unfold submit
  simp only [live, some, Bool.not_true, Bool.false_eq_true, if_false, if_true]

/-- Settles O31: the bytes spell the descriptor, and both its command and its fetch hand it to the pair. -/
theorem descriptorFetched : Obligations.DescriptorFetched := by
  intro s i d c wf cmd
  refine ⟨fun live some => ⟨takeDesc s (s.ref i) d, ?fetched, ?sent⟩, fun none => ?empty⟩
  case fetched =>
    change execDescriptorFetched i (encodeDesc d) (auxOf d.op) s = _
    simp [execDescriptorFetched, live, some, (descriptorRoundTrip d wf).2]
  case sent => rw [exec_descCmd cmd, submit_announced live some]
  case empty =>
    change execDescriptorFetched i (encodeDesc d) (auxOf d.op) s = _
    simp [execDescriptorFetched, none]

/-! ### A completion on a ready pair -/

/-- An operation that moves of the functions at most their pairs and their pending interrupts. -/
def pairsOnly (s t : State) : Prop := ∀ f, { t.fnOf f with rings := (s.fnOf f).rings, pendingBits := (s.fnOf f).pendingBits } = s.fnOf f

theorem pairsOnly_of_fns {s t : State} (h : t.fns = s.fns) : pairsOnly s t := by
  intro f
  unfold State.fnOf
  rw [h]

theorem pairsOnly_trans {s t u : State} (h : pairsOnly s t) (k : pairsOnly t u) : pairsOnly s u := by
  intro f
  rw [← h f, ← k f]

theorem pairsOnly_modRing (s : State) (r : RingRef) (g : RingPair → RingPair) : pairsOnly s (s.modRing r g) := by
  intro f
  unfold State.modRing
  by_cases own : r.fn = f
  · subst own
    rw [State.modFn_same]
  · rw [State.modFn_other _ own]

theorem pairsOnly_raiseVec (s : State) (f : Fn) (v : Nat) : pairsOnly s (s.raiseVec f v) := by
  intro k
  unfold State.raiseVec
  split
  · by_cases own : f = k
    · subst own
      rw [State.modFn_same]
    · rw [State.modFn_other _ own]
  · rfl

theorem pairsOnly_moderate (s : State) (r : RingRef) (irq : Bool) : pairsOnly s (moderate s r irq) := by
  unfold moderate
  dsimp only
  split
  · exact pairsOnly_trans (pairsOnly_modRing _ _ _) (pairsOnly_raiseVec _ _ _)
  · exact pairsOnly_modRing _ _ _

theorem pairsOnly_entered (s : State) (r : RingRef) (c : Compl) : pairsOnly s (entered s r c) := by
  have moved : pairsOnly s ((s.hostWrite r.fn (cqBase s r + 32 * ((s.ring r).cqTail.toNat % ringN s r))
      (complBytes c (s.ring r).sqHead (phaseAt (s.ring r).cqTail.toNat (ringN s r)))).modRing r (answered c.hdr.tag)) :=
    pairsOnly_trans (pairsOnly_of_fns rfl) (pairsOnly_modRing _ _ _)
  unfold entered
  dsimp only
  split
  · exact pairsOnly_trans moved (pairsOnly_of_fns rfl)
  · exact moved

theorem pairsOnly_writeCompl (s : State) (r : RingRef) (c : Compl) : pairsOnly s (writeCompl s r c) :=
  writeCompl_eq s r c ▸ pairsOnly_trans (pairsOnly_entered s r c) (pairsOnly_moderate _ _ _)

/-- The pegs that a completion asks to be raised in the next control cycle (R307). -/
theorem writeCompl_pegs_eq (s : State) (r : RingRef) (c : Compl) : (writeCompl s r c).pegs =
    { s.pegs with later := if c.hdr.peg && inGrant s r.fn c.hdr.complPeg then s.pegs.later ++ [(c.hdr.complPeg, 1)] else s.pegs.later } := by
  have grant : inGrant ((s.hostWrite r.fn (cqBase s r + 32 * ((s.ring r).cqTail.toNat % ringN s r))
      (complBytes c (s.ring r).sqHead (phaseAt (s.ring r).cqTail.toNat (ringN s r)))).modRing r (answered c.hdr.tag)) r.fn c.hdr.complPeg = inGrant s r.fn c.hdr.complPeg := by
    simp [inGrant, State.modRing, State.hostWrite, State.chipCnt]
  rw [writeCompl_eq, moderate_pegs]
  unfold entered
  dsimp only
  rw [grant]
  split <;> rfl

section
variable {s u : State} {i : RingId} {d : Desc}

/-- A ready pair in the state in which its descriptor starts: announced, fetched, and alone among those that run. -/
theorem startedState_ring (s : State) (i : RingId) (d : Desc) : ∃ own, (startedState s i d).ring (s.ref i) =
    { s.ring (s.ref i) with sqTail := (s.ring (s.ref i)).sqTail + 1, sqHead := (s.ring (s.ref i)).sqHead + 1, running := [(d.hdr.tag, own)] } :=
  ⟨_, State.modRing_same ..⟩

theorem startedState_other (s : State) (i : RingId) (d : Desc) {q : RingRef} (other : (q.fn, q.pair) ≠ (i.fn, i.pair)) :
    (startedState s i d).ring q = s.ring q := State.modRing_other _ (Ne.symm other) _

theorem answersOnly_startedState (s : State) (i : RingId) (d : Desc) : answersOnly s (startedState s i d) := rfl

theorem pairsOnly_startedState (s : State) (i : RingId) (d : Desc) : pairsOnly s (startedState s i d) := pairsOnly_modRing _ _ _

/-- A state whose functions stand as they do when a ready pair's descriptor starts takes that descriptor's completion at once. -/
theorem complete_writes (ready : readyFor s i = true) (ring : u.ring (s.ref i) = (startedState s i d).ring (s.ref i)) (regs : u.regs = s.regs) (n : Nat) (st : Status)
    (x : List Byte) : complete u (s.ref i) d.hdr n st x =
      writeCompl u (s.ref i) { hdr := d.hdr, opcode := n, status := st, member := false, arrived := false, detail := x } := by
  obtain ⟨-, -, -, idle, room, -⟩ := readyFor_iff.mp ready
  obtain ⟨enable, fault, -, -, held, -, -, -, -⟩ := (idlePair_iff _).mp idle
  obtain ⟨own, started⟩ := startedState_ring s i d
  have live : ringLive u (s.ref i) = true := by
    unfold ringLive
    rw [ring, started]
    simp [enable, fault, ref_gen]
  have room : cqRoom u (s.ref i) = true := by
    have size : ringN u (s.ref i) = ringN s (s.ref i) := congrArg (2 ^ ·) (regGet_congr regs ..)
    unfold cqRoom
    rw [ring, started, size]
    exact room
  exact postCompl_writes live room (by rw [ring, started]; exact held) _

theorem entryOf_started (ring : u.ring (s.ref i) = (startedState s i d).ring (s.ref i)) (regs : u.regs = s.regs) (n : Nat) (st : Status) (x : List Byte) :
    entryOf u (s.ref i) { hdr := d.hdr, opcode := n, status := st, member := false, arrived := false, detail := x } = okEntry s i d.hdr n st x := by
  obtain ⟨own, started⟩ := startedState_ring s i d
  have size : ringN u (s.ref i) = ringN s (s.ref i) := congrArg (2 ^ ·) (regGet_congr regs ..)
  have base : cqBase u (s.ref i) = cqBase s (s.ref i) := regGet_congr regs ..
  unfold entryOf
  rw [ring, started, size, base]
  rfl

/-- Of the pair: its entry stands in host memory and its counters have moved past it. -/
theorem complete_answers (ready : readyFor s i = true) (ring : u.ring (s.ref i) = (startedState s i d).ring (s.ref i)) (regs : u.regs = s.regs) (n : Nat) (st : Status)
    (x : List Byte) : okEntry s i d.hdr n st x ∈ (complete u (s.ref i) d.hdr n st x).out ∧
      ∃ unsig first, (complete u (s.ref i) d.hdr n st x).ring (s.ref i) = moderated unsig first
        { s.ring (s.ref i) with sqTail := (s.ring (s.ref i)).sqTail + 1, sqHead := (s.ring (s.ref i)).sqHead + 1, cqTail := (s.ring (s.ref i)).cqTail + 1, running := [] } := by
  obtain ⟨own, started⟩ := startedState_ring s i d
  rw [complete_writes ready ring regs]
  refine ⟨entryOf_started ring regs n st x ▸ writeCompl_sent .., ?_⟩
  obtain ⟨unsig, first, after⟩ := writeCompl_same u (s.ref i) { hdr := d.hdr, opcode := n, status := st, member := false, arrived := false, detail := x }
  refine ⟨unsig, first, ?_⟩
  rw [after, ring, started]
  simp [answered, dropTag]

theorem completedIn_complete (ready : readyFor s i = true) (fns : u.fns = (startedState s i d).fns) (regs : u.regs = s.regs) (n : Nat) (st : Status) (x : List Byte) :
    completedIn s (complete u (s.ref i) d.hdr n st x) i d.hdr n st x := by
  have ring : ∀ q, u.ring q = (startedState s i d).ring q := fun q => by
    unfold State.ring State.fnOf
    rw [fns]
  obtain ⟨entry, unsig, first, after⟩ := complete_answers ready (ring _) regs n st x
  refine ⟨entry, by rw [after]; rfl, by rw [after]; rfl, by rw [after]; rfl, by rw [after]; rfl, fun q other => ?_, ?_⟩
  · rw [complete_writes ready (ring _) regs, writeCompl_other u (Ne.symm other), ring, startedState_other s i d other]
  · rw [complete_writes ready (ring _) regs]
    exact pairsOnly_trans (pairsOnly_trans (pairsOnly_startedState s i d) (pairsOnly_of_fns fns)) (pairsOnly_writeCompl _ _ _)

/-- A descriptor that does no more than complete. -/
theorem exec_completes {c : Instr} (cmd : descCmd i d = some c) (ready : readyFor s i = true) (may : mayStart s i d = true) {n : Nat} {st : Status} {x : List Byte}
    (run : runDesc (startedState s i d) (s.ref i) d = complete (startedState s i d) (s.ref i) d.hdr n st x) :
    ∃ t, exec c s = .next t ∧ completedIn s t i d.hdr n st x ∧ answersOnly s t :=
  ⟨_, descriptorStarts s i d c cmd ready may, run ▸ completedIn_complete ready rfl rfl n st x,
    run ▸ answersOnly_trans (answersOnly_startedState s i d) (answersOnly_complete ..)⟩

/-- The start checks of a descriptor that may start have found its completion peg in its function's grant (R304). -/
theorem inGrant_of_mayStart (may : mayStart s i d = true) (peg : d.hdr.peg = true) : inGrant s i.fn d.hdr.complPeg = true := by
  simp only [mayStart, Bool.and_eq_true, Option.isNone_iff_eq_none] at may
  obtain ⟨-, checks⟩ := may
  have grant : inGrant (startedState s i d) i.fn d.hdr.complPeg = inGrant s i.fn d.hdr.complPeg := by
    simp [inGrant, startedState, State.modRing]
  by_contra outside
  unfold startCheck at checks
  rw [peg, ref_fn, grant, Bool.eq_false_iff.mpr outside, Bool.not_false, Bool.and_self, if_pos rfl] at checks
  split_ifs at checks

end

/-! ### PEG_SIGNAL (R303, R305) -/

/-- What a PEG_SIGNAL makes of its peg: SET stores the value, ADD adds it. -/
def signalled (s : State) (o : PegSignalOp) : Word32 := if o.op = 1 then o.value else s.peg o.peg + o.value

theorem State.peg_setPeg (s : State) (p : Nat) (v : Word32) (n : Nat) : (s.setPeg p v).peg n = if p = n then v else s.peg n := smGet_set ..

/-- With nothing else due in the cycle a PEG_SIGNAL updates its peg, and the waits are judged at its new value. -/
theorem startPegSignal_eq {s : State} (later : s.pegs.later = []) (r : RingRef) (h : Hdr) (o : PegSignalOp) :
    startPegSignal s r h o = complete (s.pegs.waits.foldl judgeWait ((noWaits s).setPeg o.peg (signalled s o))) r h 0x41 .ok [] := by
  unfold startPegSignal signalled
  dsimp only
  split
  · unfold pegArbitrate noWaits
    rw [later]
    rfl
  · unfold pegArbitrate noWaits
    rw [later]
    rfl

section
variable {s : State} {i : RingId} {h : Hdr} {o : PegSignalOp}

/-- The state in which the waits are judged for a PEG_SIGNAL of a pair. -/
def signalState (s : State) (i : RingId) (h : Hdr) (o : PegSignalOp) : State :=
  (noWaits (startedState s i { hdr := h, op := .pegSignal o })).setPeg o.peg (signalled s o)

theorem signalState_peg (n : Nat) : (signalState s i h o).peg n = if o.peg = n then signalled s o else s.peg n := State.peg_setPeg ..

theorem answersOnly_signalState : answersOnly s (signalState s i h o) := rfl

theorem exec_pegSignal (ready : readyFor s i = true) (may : mayStart s i { hdr := h, op := .pegSignal o } = true) (later : s.pegs.later = []) :
    exec (.pegSignal i h o) s = .next (complete (s.pegs.waits.foldl judgeWait (signalState s i h o)) (s.ref i) h 0x41 .ok []) :=
  (descriptorStarts s i { hdr := h, op := .pegSignal o } _ rfl ready may).trans
    (congrArg Host.Outcome.next (startPegSignal_eq (s := startedState s i { hdr := h, op := .pegSignal o }) later (s.ref i) h o))

/-- A completion moves no peg's value. -/
theorem complete_peg (s : State) (r : RingRef) (h : Hdr) (n : Nat) (st : Status) (x : List Byte) (p : Nat) : (complete s r h n st x).peg p = s.peg p := by
  obtain ⟨later, pegs⟩ := postCompl_pegs s r { hdr := h, opcode := n, status := st, member := false, arrived := false, detail := x }
  unfold complete State.peg
  rw [pegs]

/-- The value of a peg after a PEG_SIGNAL whose waits are judged by `u`. -/
theorem pegSignal_pegs {u : State} (val : u.pegs.val = (signalState s i h o).pegs.val) :
    (complete u (s.ref i) h 0x41 .ok []).peg o.peg = (if o.op = 1 then o.value else s.peg o.peg + o.value) ∧
      ∀ n, n ≠ o.peg → (complete u (s.ref i) h 0x41 .ok []).peg n = s.peg n := by
  have peg : ∀ n, (complete u (s.ref i) h 0x41 .ok []).peg n = if o.peg = n then signalled s o else s.peg n := fun n => by
    rw [complete_peg, ← signalState_peg (h := h) (i := i)]
    unfold State.peg
    rw [val]
  exact ⟨(peg _).trans (if_pos rfl), fun n other => (peg n).trans (if_neg (Ne.symm other))⟩

end

/-- NOP on a ready pair. -/
theorem nop_completes {s : State} {i : RingId} {h : Hdr} (ready : readyFor s i = true) (may : mayStart s i { hdr := h, op := .nop } = true) :
    ∃ t, exec (.nop i h) s = .next t ∧ completedIn s t i h 0x00 .ok [] ∧
      t.pegs = { s.pegs with later := if h.peg then s.pegs.later ++ [(h.complPeg, 1)] else s.pegs.later } ∧ answersOnly s t := by
  refine ⟨_, descriptorStarts s i _ _ rfl ready may, completedIn_complete (d := { hdr := h, op := .nop }) ready rfl rfl 0x00 .ok [], ?_,
    answersOnly_trans (answersOnly_startedState ..) (answersOnly_complete ..)⟩
  have grant : inGrant (startedState s i { hdr := h, op := .nop }) (s.ref i).fn h.complPeg = inGrant s i.fn h.complPeg := by
    simp [inGrant, startedState, State.modRing]
  change (complete (startedState s i { hdr := h, op := .nop }) (s.ref i) h 0x00 .ok []).pegs = _
  rw [complete_writes (d := { hdr := h, op := .nop }) ready rfl rfl, writeCompl_pegs_eq, grant]
  cases peg : h.peg with
  | false => rfl
  | true =>
    rw [inGrant_of_mayStart may peg]
    rfl

/-- Settles O32: NOP is a completion alone; a PEG_SIGNAL updates its peg, has the waits judged and completes. -/
theorem nopAndSignal : Obligations.NopAndSignal := by
  refine ⟨fun s i h ready may => nop_completes ready may, fun s i h o ready may later others => ?beside, fun s i h o ready may later waits => ?alone⟩
  case beside =>
    have same : sameFor (s.ref i) (signalState s i h o) (s.pegs.waits.foldl judgeWait (signalState s i h o)) := sameFor_judgeAll _ _ others
    obtain ⟨entry, unsig, first, after⟩ := complete_answers (d := { hdr := h, op := .pegSignal o }) ready same.ring same.regs 0x41 .ok []
    exact ⟨_, exec_pegSignal ready may later, entry, (congrArg RingPair.cqTail after :), pegSignal_pegs same.val⟩
  case alone =>
    have ran := exec_pegSignal ready may later
    rw [waits, List.foldl_nil] at ran
    obtain ⟨own, rest⟩ := pegSignal_pegs (s := s) (i := i) (h := h) (o := o) (u := signalState s i h o) rfl
    have completed := completedIn_complete (u := signalState s i h o) (d := { hdr := h, op := .pegSignal o }) ready rfl rfl 0x41 .ok []
    exact ⟨_, ran, completed, own, rest, answersOnly_trans answersOnly_signalState (answersOnly_complete ..)⟩

end Sys2Proof.Machine
end

section
/-! PROOF. The control words of the machine port (R42, R373, Table 14-4). -/

namespace Sys2Proof.Machine

open Sys2Proof

/-! ### The rate acknowledgement -/

/-- A track whose rate request has been taken back, and with it the rate cause of its hold. -/
def rateTaken (x : TrackState) : TrackState := { x with rateReq := false, hold := { x.hold with rate := false } }

/-- What a set bit of the acknowledgement does to its track, and that it leaves the other. -/
theorem ackRate_same {v : Byte} {s : State} {t : Track} (asked : bitAt v.toNat (trackNum t) = true ∧ (s.track t).rateReq = true) :
    (ackRate v s t).track t = rateTaken (s.track t) := by
  obtain ⟨bit, request⟩ := asked
  unfold ackRate
  rw [bit, request]
  exact State.modTrack_same ..

theorem ackRate_none {v : Byte} {s : State} {t : Track} (none : ¬ (bitAt v.toNat (trackNum t) = true ∧ (s.track t).rateReq = true)) (u : Track) :
    (ackRate v s t).track u = s.track u := by
  unfold ackRate
  split
  · rfl
  next bit =>
    rw [if_neg fun request => none ⟨by simpa using bit, request⟩]
    cases u <;> rfl

theorem ackRate_other {v : Byte} {s : State} {t u : Track} (other : t ≠ u) : (ackRate v s t).track u = s.track u := by
  by_cases asked : bitAt v.toNat (trackNum t) = true ∧ (s.track t).rateReq = true
  · unfold ackRate
    rw [asked.1, asked.2]
    exact State.modTrack_other s other _
  · exact ackRate_none asked u

/-- A set bit of a track without a request is counted. -/
theorem ackRate_errors (v : Byte) (s : State) (t : Track) :
    (ackRate v s t).port.errors = s.port.errors + BitVec.ofNat 32 (b2n (bitAt v.toNat (trackNum t) && !(s.track t).rateReq)) := by
  unfold ackRate
  cases bit : bitAt v.toNat (trackNum t) with
  | false => simp [b2n]
  | true => cases request : (s.track t).rateReq with
    | false => rfl
    | true => simp [b2n]

/-- An operation that moves at most the tracks, the port and the counters. -/
def portMoves (s t : State) : Prop := { t with trackA := s.trackA, trackB := s.trackB, port := s.port, cnt := s.cnt } = s

theorem portMoves_trans {s t u : State} (h : portMoves s t) (k : portMoves t u) : portMoves s u := by
  unfold portMoves at *
  rw [← h, ← k]

theorem portMoves_ackRate (v : Byte) (s : State) (t : Track) : portMoves s (ackRate v s t) := by
  unfold ackRate
  split
  · rfl
  · split
    · cases t <;> rfl
    · rfl

theorem exec_rateAcknowledge {s : State} (answers : portAnswers s = true) (v : Byte) :
    exec (.rateAcknowledge v) s = .next (ackRate v (ackRate v (s.chipCnt 48) .A) .B) := congrArg Host.Outcome.next (if_pos answers)

/-- The acknowledgement goes over both tracks, and neither's part touches the other. -/
theorem rateAcknowledged (s : State) (v : Byte) : let u := ackRate v (ackRate v (s.chipCnt 48) .A) .B
    (∀ t : Track, bitAt v.toNat (trackNum t) = true ∧ (s.track t).rateReq = true → u.track t = rateTaken (s.track t)) ∧
    (∀ t : Track, ¬ (bitAt v.toNat (trackNum t) = true ∧ (s.track t).rateReq = true) → u.track t = s.track t) ∧
    u.port.errors = s.port.errors + BitVec.ofNat 32 (b2n (bitAt v.toNat 0 && !s.trackA.rateReq) + b2n (bitAt v.toNat 1 && !s.trackB.rateReq)) ∧ portMoves s u := by
  have trackB : (ackRate v (s.chipCnt 48) .A).track .B = s.track .B := ackRate_other (by decide)
  have trackA : (ackRate v (ackRate v (s.chipCnt 48) .A) .B).track .A = (ackRate v (s.chipCnt 48) .A).track .A := ackRate_other (by decide)
  refine ⟨fun t asked => ?taken, fun t none => ?left, ?errors, portMoves_trans (portMoves_trans (t := s.chipCnt 48) rfl (portMoves_ackRate ..)) (portMoves_ackRate ..)⟩
  case taken =>
    cases t with
    | A => exact trackA.trans (ackRate_same asked)
    | B => exact (ackRate_same (by rwa [trackB])).trans (congrArg rateTaken trackB)
  case left =>
    cases t with
    | A => exact trackA.trans (ackRate_none (s := s.chipCnt 48) none .A)
    | B => exact (ackRate_none (by rwa [trackB]) .B).trans trackB
  case errors =>
    rw [ackRate_errors, ackRate_errors, trackB, BitVec.add_assoc, ← BitVec.ofNat_add]
    rfl

/-! ### The configuration word -/

/-- The configuration word is in range when its dummy cycles are 8 to 20 and its reserved bits are 0; then bit 8 is the mode. -/
theorem configWord_inRange (v : Word32) : (8 ≤ bitsOf v.toNat 4 0 ∧ bitsOf v.toNat 4 0 ≤ 20 ∧ bitsOf v.toNat 7 5 = 0 ∧ bitsOf v.toNat 31 9 = 0) ↔
    (8 ≤ v.toNat % 32 ∧ v.toNat % 32 ≤ 20 ∧ v.toNat / 32 % 8 = 0 ∧ v.toNat < 512) := by
  have := v.isLt
  simp only [bitsOf]
  omega

theorem configWord_mode {v : Nat} (small : v < 512) : bitAt v 8 = decide (256 ≤ v) := by
  rw [bitAt, beq_eq_decide]
  exact decide_eq_decide.mpr (by omega)

theorem exec_configurationWord {s : State} (answers : portAnswers s = true) (v : Word32) : exec (.configurationWord v) s = .next (writeConfig s v.toNat) :=
  congrArg Host.Outcome.next (if_pos answers)

theorem writeConfig_inRange {s : State} {v : Word32} (ok : 8 ≤ v.toNat % 32 ∧ v.toNat % 32 ≤ 20 ∧ v.toNat / 32 % 8 = 0 ∧ v.toNat < 512) :
    writeConfig s v.toNat = { s with port := { s.port with dummies := v.toNat % 32, octal := decide (256 ≤ v.toNat) } }.chipCnt 48 := by
  have field : bitsOf v.toNat 4 0 = v.toNat % 32 := by simp [bitsOf]
  rw [writeConfig, if_pos ((configWord_inRange v).mpr ok), configWord_mode ok.2.2.2, field]

theorem writeConfig_ignored {s : State} {v : Word32} (bad : ¬ (8 ≤ v.toNat % 32 ∧ v.toNat % 32 ≤ 20 ∧ v.toNat / 32 % 8 = 0 ∧ v.toNat < 512)) :
    writeConfig s v.toNat = portIgnore s := if_neg (mt (configWord_inRange v).mp bad)

/-! ### The words written as port space -/

theorem exec_write_rate {s : State} (answers : portAnswers s = true) (v : Byte) : exec (.write 0x2000 [v]) s = exec (.rateAcknowledge v) s := by
  change execWrite 0x2000 [v] s = .next (if portAnswers s then writeRate s v else s)
  simp [execWrite, answers]

theorem exec_write_config {s : State} (answers : portAnswers s = true) {d : List Byte} (four : d.length = 4) :
    exec (.write 0x2004 d) s = exec (.configurationWord (BitVec.ofNat 32 (leNat d))) s := by
  have word : (BitVec.ofNat 32 (leNat d)).toNat = leNat d := by
    have := leNat_lt d
    rw [four] at this
    exact Nat.mod_eq_of_lt this
  rw [exec_configurationWord answers, word]
  change execWrite 0x2004 d s = _
  simp [execWrite, answers, four]

/-- Settles O10: the acknowledgement goes track by track, and the configuration word is taken as a whole or not at all. -/
theorem portControlWords : Obligations.PortControlWords := by
  refine fun s answers => ⟨fun v => ⟨exec_write_rate answers v, _, exec_rateAcknowledge answers v, rateAcknowledged s v⟩,
    fun d four => exec_write_config answers four, fun v low high reserved mode => ?taken, fun v bad => ?ignored⟩
  case taken => exact ⟨_, exec_configurationWord answers v, by rw [writeConfig_inRange ⟨low, high, reserved, mode⟩]; exact ⟨rfl, rfl⟩⟩
  case ignored => exact ⟨_, exec_configurationWord answers v, by rw [writeConfig_ignored bad]; exact ⟨rfl, rfl⟩⟩

end Sys2Proof.Machine
end

section
/-! PROOF. What the machine port answers (R362, R364, Table 14-1), when it does not, and where the status block shows its fields (R372, Table 14-3). -/

namespace Sys2Proof.Machine

open Sys2Proof

/-! ### A port that answers -/

section
variable {s : State} (answers : portAnswers s = true)
include answers

theorem exec_readId : exec .readId s = .next ((s.chipCnt 48).emit (.portData idBytes)) := congrArg Host.Outcome.next (if_pos answers)

theorem exec_portReset : exec .portReset s = .next ({ s with port := { s.port with octal := s.boot.mpOctal, dummies := 20 } }.chipCnt 48) :=
  congrArg Host.Outcome.next (if_pos answers)

theorem exec_badCommand {op inv : Byte} (wrong : inv ≠ op ^^^ 0xFF ∨ op ∉ [0xB1, 0xC6, 0x9F, 0x99]) : exec (.badCommandInverse op inv) s = .next (portIgnore s) := by
  refine congrArg Host.Outcome.next (if_pos ?_)
  have known : portOpcodes.contains op.toNat = true → op ∈ [0xB1, 0xC6, 0x9F, 0x99] := by
    simp [portOpcodes, ← BitVec.toNat_inj]
  rw [answers, Bool.true_and, Bool.not_eq_true', Bool.and_eq_false_iff]
  rcases wrong with inverse | unknown
  · exact .inl (by simpa using inverse)
  · exact .inr (Bool.eq_false_iff.mpr (mt known unknown))

end

/-- A command that Table 14-1 names, with its inverse, is no wrong command word. -/
theorem exec_goodCommand {op : Byte} (known : op ∈ [0xB1, 0xC6, 0x9F, 0x99]) (s : State) : exec (.badCommandInverse op (op ^^^ 0xFF)) s = .next s := by
  have listed : portOpcodes.contains op.toNat = true := by
    revert op
    decide
  refine congrArg Host.Outcome.next (if_neg ?_)
  simp only [listed, BEq.rfl, Bool.and_self, Bool.not_true, Bool.and_false]
  exact Bool.false_ne_true

/-! ### A port that does not answer -/

theorem portAnswers_false {s : State} (silent : s.boot.stage < 2 ∨ s.pwr.held ≠ .no ∨ s.pwr.rails = false ∨ s.twin.fenced = true) : portAnswers s = false := by
  have read : portAnswers s = true → 2 ≤ s.boot.stage ∧ s.pwr.held = .no ∧ s.pwr.rails = true ∧ s.twin.fenced = false := by
    simp [portAnswers, and_assoc]
  refine Bool.eq_false_iff.mpr fun answers => ?_
  obtain ⟨stage, held, rails, fenced⟩ := read answers
  rcases silent with early | reset | none | out
  · exact absurd stage (Nat.not_le.mpr early)
  · exact reset held
  · exact Bool.false_ne_true (none.symm.trans rails)
  · exact Bool.false_ne_true (fenced.symm.trans out)

/-- Whatever the command, a port that does not answer leaves the module as it is. -/
theorem exec_portSilent {s : State} (silent : portAnswers s = false) {c : Instr}
    (port : (∃ a n, c = .read a n) ∨ (∃ a d, c = .write a d) ∨ (∃ v, c = .rateAcknowledge v) ∨ (∃ v, c = .configurationWord v) ∨ c = .readId ∨ c = .portReset ∨
      (∃ a b, c = .badCommandInverse a b)) : exec c s = .next s := by
  have no : ¬ portAnswers s = true := Bool.eq_false_iff.mp silent
  rcases port with ⟨a, n, rfl⟩ | ⟨a, d, rfl⟩ | ⟨v, rfl⟩ | ⟨v, rfl⟩ | rfl | rfl | ⟨a, b, rfl⟩
  case inr.inl =>
    change execWrite a d s = _
    simp [execWrite, silent]
  case inr.inr.inr.inr.inr.inr => exact congrArg Host.Outcome.next (if_neg (by simp [silent]))
  all_goals exact congrArg Host.Outcome.next (if_neg no)

/-! ### The status block -/

theorem slice_pastField {n off : Nat} (past : n ≤ off) (v k : Nat) (r : List Byte) : slice (leBytes n v ++ r) off k = slice r (off - n) k := by
  rw [slice_skip _ _ _ _ (by rwa [leBytes_length]), leBytes_length]

theorem statusBlock_length (s : State) : (statusBlock s).length = 64 := by
  simp [statusBlock, leBytes_length, zeros_length]

/-- Each field of the status block stands behind those before it. -/
theorem statusBlock_fields (s : State) :
    slice (statusBlock s) 0 4 = leBytes 4 s.nextPiece.toNat ∧
    slice (statusBlock s) 4 4 = leBytes 4 s.trackA.lastPiece.toNat ∧ slice (statusBlock s) 8 4 = leBytes 4 s.trackB.lastPiece.toNat ∧
    slice (statusBlock s) 12 4 = leBytes 4 s.trackA.commits.toNat ∧ slice (statusBlock s) 16 4 = leBytes 4 s.trackB.commits.toNat ∧
    slice (statusBlock s) 20 1 = leBytes 1 (holdByte s .A) ∧ slice (statusBlock s) 21 1 = leBytes 1 (holdByte s .B) ∧
    slice (statusBlock s) 24 4 = leBytes 4 s.trackA.armedMax ∧ slice (statusBlock s) 28 4 = leBytes 4 s.trackB.armedMax ∧
    slice (statusBlock s) 32 2 = leBytes 2 (alertCauses s) ∧ slice (statusBlock s) 35 1 = leBytes 1 s.boot.stage ∧
    slice (statusBlock s) 36 4 = leBytes 4 (toBits s.trackA.position 32) ∧ slice (statusBlock s) 40 4 = leBytes 4 (toBits s.trackB.position 32) ∧
    slice (statusBlock s) 44 4 = leBytes 4 s.port.errors.toNat := by
  simp [statusBlock, slice_pastField, slice_here]

/-- Settles O11: an answer by command, no answer to any, and the fields of the status block one behind the other. -/
theorem portAnswersAll : Obligations.PortAnswers := by
  refine ⟨fun s answers => ⟨⟨_, exec_readId answers, rfl, rfl⟩, ⟨_, exec_portReset answers, rfl, rfl⟩, fun op inv wrong => ⟨_, exec_badCommand answers wrong, rfl, rfl⟩,
    fun op known => exec_goodCommand known s⟩, fun s silent c port => exec_portSilent (portAnswers_false silent) port,
    fun s _ => ⟨statusBlock_length s, statusBlock_fields s⟩⟩

end Sys2Proof.Machine
end

section
/-! PROOF. What a DEVICE error leaves (R423), and the supply inputs with the power-on reset (R434, R435, R444). -/

namespace Sys2Proof.Machine

open Sys2Proof

/-- What leaves the queue, the stage and the verdict table keeps them. -/
theorem keeps_of_fixed {s t : State} (h : t.fixed = s.fixed) : keeps s t := by
  simp only [State.fixed, Prod.mk.injEq] at h
  exact h

/-! ### Folds that a ring gives up -/

/-- An operation that moves at most the functions' state, the commit queue, jobs' models, tailoring steps, the basket with its hold of the tracks, and counters. -/
def givesUp (s t : State) : Prop :=
  { t with fns := s.fns, commitQ := s.commitQ, sched := s.sched, tailor := s.tailor, basket := s.basket, trackA := s.trackA, trackB := s.trackB, cnt := s.cnt } = s

theorem givesUp_refl (s : State) : givesUp s s := rfl

theorem givesUp_trans {s t u : State} (h : givesUp s t) (k : givesUp t u) : givesUp s u := by
  unfold givesUp at *
  rw [← h, ← k]

theorem givesUp_pwr {s t : State} (h : givesUp s t) : t.pwr = s.pwr := by
  have k := congrArg State.pwr h
  exact k

theorem givesUp_foldl {α : Type} {f : State → α → State} (h : ∀ s a, givesUp s (f s a)) (xs : List α) (s : State) : givesUp s (xs.foldl f s) :=
  foldl_keeps (givesUp s) f (fun t a ht => givesUp_trans ht (h t a)) xs s (givesUp_refl s)

theorem givesUp_modTrack (s : State) (t : Track) (g : TrackState → TrackState) : givesUp s (s.modTrack t g) := by
  cases t <;> rfl

theorem givesUp_basket (s : State) (b : Basket) : givesUp s { s with basket := b } := rfl

theorem givesUp_chipCnt (s : State) (i n : Nat) : givesUp s (s.chipCnt i n) := rfl

theorem givesUp_setBasketCause (s : State) (b : Bool) : givesUp s (setBasketCause s b) := by
  refine givesUp_foldl (fun u t => ?_) allTracks s
  split
  · exact givesUp_refl u
  · exact givesUp_modTrack u t _

theorem givesUp_basketMarks (s : State) : givesUp s (basketMarks s) := by
  unfold basketMarks
  dsimp only
  split
  · exact givesUp_trans (givesUp_trans (givesUp_basket s _) (givesUp_chipCnt _ _ _)) (givesUp_setBasketCause _ _)
  · split
    · exact givesUp_trans (givesUp_basket s _) (givesUp_setBasketCause _ _)
    · exact givesUp_refl s

theorem givesUp_discardBuilding (s : State) (k : Nat) : givesUp s (discardBuilding s k) :=
  givesUp_trans (givesUp_basket s _) (givesUp_basketMarks _)

theorem givesUp_discardMembers (s : State) (f : FoldSt) : givesUp s (discardMembers s f) := by
  refine givesUp_foldl (fun u m => ?_) f.members s
  split
  · exact givesUp_discardBuilding u _
  · exact givesUp_refl u

theorem givesUp_dropSwaps (s : State) (f : FoldSt) : givesUp s (dropSwaps s f) := by
  refine givesUp_foldl (fun u m => ?_) f.members s
  split <;> rfl

theorem givesUp_dropFold (s : State) (r : RingRef) (id : Nat) : givesUp s (dropFold s r id) := rfl

theorem givesUp_abandonFolds (s : State) (r : RingRef) (all : Bool) : givesUp s (abandonFolds s r all) := by
  refine givesUp_foldl (fun u f => ?_) _ s
  exact givesUp_trans (givesUp_dropSwaps u f) (givesUp_trans (givesUp_discardMembers _ f) (givesUp_dropFold _ _ _))

/-! ### A DEVICE error -/

/-- A track under a DEVICE error: held by the SCAN_DISARM cause, with no piece in a verdict fold. -/
def deviceTrack (x : TrackState) : TrackState :=
  { x with hold := { x.hold with disarm := true }, held := true, pieces := x.pieces.map fun p => { p with inFold := false } }

/-- Every ring gives up its folds. -/
def abandonAll (s : State) : State := (allRings s).foldl (fun s r => abandonFolds s r true) s

theorem givesUp_abandonAll (s : State) : givesUp s (abandonAll s) := givesUp_foldl (fun u r => givesUp_abandonFolds u r true) (allRings s) s

/-- What a DEVICE error finds once the partner has been told and every ring has given up its folds. -/
def deviceAbandoned (s : State) (cause : Nat) : State := abandonAll (healthTake s (if cause = 1 then 3 else 1))

/-- The error stands, no fold waits for its commit, and both tracks are held. -/
def deviceHeld (s : State) : State :=
  ({ s with commitQ := [], pwr := { s.pwr with device := true } }.modTrack .A deviceTrack).modTrack .B deviceTrack

theorem deviceError_eq {s : State} (first : s.pwr.device = false) (cause : Nat) : deviceError s cause =
    logHealth (if healthRoom (deviceHeld (deviceAbandoned s cause)) then deviceHeld (deviceAbandoned s cause)
      else (deviceHeld (deviceAbandoned s cause)).raiseEvent 0) (HealthEntry.of 24 cause) := by
  simp only [deviceError, first, Bool.false_eq_true, if_false, allTracks, List.foldl_cons, List.foldl_nil]
  unfold deviceAbandoned abandonAll
  generalize (allRings (healthTake s (if cause = 1 then 3 else 1))).foldl (fun s r => abandonFolds s r true) (healthTake s (if cause = 1 then 3 else 1)) = u
  rfl

theorem sendHealth_pwr (s : State) (c : Nat) (a b : Word32) : (sendHealth s c a b).pwr = s.pwr := by
  unfold sendHealth
  split
  · unfold sendFrame
    split <;> rfl
  · rfl

theorem healthTake_pwr (s : State) (c : Nat) : (healthTake s c).pwr = s.pwr := by
  unfold healthTake
  split
  · exact sendHealth_pwr ..
  · rfl

theorem deviceAbandoned_pwr (s : State) (cause : Nat) : (deviceAbandoned s cause).pwr = s.pwr := by
  rw [deviceAbandoned, givesUp_pwr (givesUp_abandonAll _), healthTake_pwr]

theorem deviceHeld_track (s : State) (k : Track) : (deviceHeld s).track k = deviceTrack (s.track k) := by
  cases k <;> rfl

section
variable {s : State} (first : s.pwr.device = false) (cause : Nat)
include first

theorem deviceError_pwr : (deviceError s cause).pwr = { s.pwr with device := true } := by
  rw [deviceError_eq first, logHealth_pwr, apply_ite State.pwr, State.raiseEvent_pwr, ite_self, ← deviceAbandoned_pwr s cause]
  rfl

theorem deviceError_commitQ : (deviceError s cause).commitQ = [] := by
  rw [deviceError_eq first, logHealth_commitQ, apply_ite State.commitQ, State.raiseEvent_commitQ, ite_self]
  rfl

theorem deviceError_track (k : Track) : (deviceError s cause).track k = deviceTrack ((deviceAbandoned s cause).track k) := by
  have logged : (deviceError s cause).track k = (deviceHeld (deviceAbandoned s cause)).track k := by
    rw [deviceError_eq first]
    cases k
    · exact (logHealth_trackA ..).trans (by rw [apply_ite State.trackA, State.raiseEvent_trackA, ite_self]; rfl)
    · exact (logHealth_trackB ..).trans (by rw [apply_ite State.trackB, State.raiseEvent_trackB, ite_self]; rfl)
  exact logged.trans (deviceHeld_track ..)

end

/-- An entry of a class that HEALTH_LAST keeps is the newest of those kept. -/
theorem logHealth_newest (s : State) {e : HealthEntry} (kept : 2 ≤ healthClass e.kind) :
    (logHealth s e).health.last.getLast? = some { e with cls := healthClass e.kind, seq := s.health.seq, tb := s.now } := by
  rw [logHealth_last, if_pos kept, List.drop_append_of_le_length (by omega), List.getLast?_concat]

/-- R423, of a DEVICE error in a module in which none stands. -/
theorem deviceStands_deviceError {s : State} (first : s.pwr.device = false) (cause : Nat) : deviceStands s (deviceError s cause) cause := by
  have device : (deviceError s cause).pwr.device = true := congrArg Power.device (deviceError_pwr first cause)
  refine ⟨device, deviceError_commitQ first cause, fun k => ⟨?_, fun p listed => ?_⟩, ?_, ?_, keeps_of_fixed (fixed_deviceError s)⟩
  · rw [deviceError_track first]
    rfl
  · rw [deviceError_track first] at listed
    obtain ⟨y, -, rfl⟩ := List.mem_map.mp listed
    rfl
  · rw [alertCauses_bit5, device, Bool.or_true]
    rfl
  · rw [deviceError_eq first]
    exact ⟨_, logHealth_newest _ (by change 2 ≤ healthClass 24; decide), rfl, rfl⟩

/-! ### The supply inputs -/

theorem State.raiseEvent_cnt (s : State) (f : Fn) : (s.raiseEvent f).cnt = s.cnt := by
  unfold State.raiseEvent State.raiseVec
  split <;> rfl

theorem State.count_countN (s : State) (a b c n a' b' c' : Nat) :
    (s.countN a b c n).count a' b' c' = if cntKey a b c = cntKey a' b' c' then s.count a b c + BitVec.ofNat 64 n else s.count a' b' c' := smGet_set ..

/-- Logging counts no more than the bytes that it writes to the host. -/
theorem logHealth_count (s : State) (e : HealthEntry) {a b c : Nat} (other : cntKey famChip 0 40 ≠ cntKey a b c) : (logHealth s e).count a b c = s.count a b c := by
  unfold logHealth
  dsimp only
  split
  · simp only [State.count, State.raiseEvent_cnt, State.laterPeg_cnt, State.hostWrite, State.chipCnt, State.countN, State.emit_cnt]
    exact smGet_set_ne 0 s.cnt other _
  · rfl

/-- A move of the load to the other input (R434). -/
theorem switchover_moves {s : State} {aux : Bool} (rails : s.pwr.rails = true) (other : s.pwr.onAux ≠ aux) :
    let t := switchover s aux
    t.pwr = { s.pwr with onAux := aux } ∧ t.boot = s.boot ∧ t.sched = s.sched ∧ t.plans = s.plans ∧ t.health.seq = s.health.seq + 1 ∧
      t.count famChip 0 53 = s.count famChip 0 53 + 1 := by
  have moved : switchover s aux = (logHealth { s with pwr := { s.pwr with onAux := aux } } (HealthEntry.of 17 (b2n aux))).chipCnt 53 :=
    if_neg (by simp [rails, other])
  rw [moved]
  refine ⟨logHealth_pwr .., logHealth_boot .., logHealth_sched .., logHealth_plans .., logHealth_seq .., ?_⟩
  refine (State.count_countN ..).trans ((if_pos rfl).trans ?_)
  rw [logHealth_count _ _ (by decide)]
  rfl

theorem switchover_stays {s : State} {aux : Bool} (same : s.pwr.onAux = aux) : switchover s aux = s := if_pos (.inl same)

theorem exec_pwrMainLow (s : State) : exec .pwrMainLow s =
    .next (if s.pwr.auxOk then switchover { s with pwr := { s.pwr with mainOk := false } } true else { s with pwr := { s.pwr with mainOk := false } }) := rfl

theorem exec_pwrMainReturn (s : State) : exec .pwrMainReturn s = .next (switchover { s with pwr := { s.pwr with mainOk := true } } false) := rfl

theorem exec_pwrAuxReturn (s : State) : exec .pwrAuxReturn s =
    .next (if s.pwr.mainOk then { s with pwr := { s.pwr with auxOk := true } } else switchover { s with pwr := { s.pwr with auxOk := true } } true) := rfl

/-- A module with neither input low, of which both fall. -/
def inputsLost (s : State) : State := { s with pwr := { s.pwr with mainOk := false, auxOk := false, holdUp := true } }

theorem exec_bothInputsLow {s : State} (rails : s.pwr.rails = true) (first : s.pwr.holdUp = false) (held : s.pwr.held = .no) (running : 1 ≤ s.boot.stage) :
    exec .bothInputsLow s = .next (deviceError (inputsLost s) 1) := by
  change execBothInputsLow s = _
  simp [execBothInputsLow, inputsLost, rails, first, held, Nat.one_le_iff_ne_zero.mp running]

theorem exec_holdUpEnd {s : State} (runs : s.pwr.holdUp = true) : exec .holdUpEnd s =
    .next (if s.pwr.mainOk || s.pwr.auxOk then { s with pwr := { s.pwr with holdUp := false } } else powerState s false) := by
  change execHoldUpEnd s = _
  simp [execHoldUpEnd, runs]

/-- Settles O13: a falling or returning input either moves the load or leaves it, and the power-on reset is the one of R444. -/
theorem powerAndSupplies : Obligations.PowerAndSupplies := by
  refine ⟨fun s rails => ⟨fun aux main => ?mainLow, fun aux => ?mainReturn, fun main => ?mainReturns, fun aux => ?mainLost, fun main other => ?auxReturn, rfl,
    fun main => ?auxReturns, fun first held none running => ?bothLow⟩, fun s => ⟨fun m a returned => ?powerOn, fun runs main aux => ?ends, fun runs input => ?saved⟩⟩
  case mainLow =>
    have moved := switchover_moves (s := { s with pwr := { s.pwr with mainOk := false } }) (aux := true) rails (by simp [main])
    rw [exec_pwrMainLow, if_pos aux]
    exact ⟨_, rfl, moved⟩
  case mainReturn =>
    obtain ⟨pwr, boot, sched, plans, seq, -⟩ := switchover_moves (s := { s with pwr := { s.pwr with mainOk := true } }) (aux := false) rails (by simp [aux])
    exact ⟨_, exec_pwrMainReturn s, pwr, boot, sched, plans, seq⟩
  case mainReturns => exact (exec_pwrMainReturn s).trans (congrArg _ (switchover_stays (by exact main)))
  case mainLost => rw [exec_pwrMainLow, if_neg (Bool.eq_false_iff.mp aux)]
  case auxReturn =>
    obtain ⟨pwr, boot, sched, plans, seq, -⟩ := switchover_moves (s := { s with pwr := { s.pwr with auxOk := true } }) (aux := true) rails (by simp [other])
    rw [exec_pwrAuxReturn, if_neg (Bool.eq_false_iff.mp main)]
    exact ⟨_, rfl, pwr, boot, sched, plans, seq⟩
  case auxReturns => rw [exec_pwrAuxReturn, if_pos main]
  case bothLow =>
    have pwr := deviceError_pwr (s := inputsLost s) none 1
    exact ⟨_, exec_bothInputsLow rails first held running, congrArg Power.mainOk pwr, congrArg Power.auxOk pwr, congrArg Power.holdUp pwr,
      deviceStands_deviceError (s := inputsLost s) none 1⟩
  case powerOn => exact ⟨_, exec_powerOnReset s returned, wasReset_powerState .., rfl, rfl, rfl, rfl, rfl, rfl, rfl, rfl⟩
  case ends =>
    rw [exec_holdUpEnd runs, main, aux]
    exact ⟨_, rfl, wasReset_powerState .., rfl, rfl, rfl⟩
  case saved => rw [exec_holdUpEnd runs, if_pos input]

end Sys2Proof.Machine
end

section
/-! PROOF. The clock (R439, R441, R443) and the temperature samples (R109, R437, R438). -/

namespace Sys2Proof.Machine

open Sys2Proof

/-! ### Updates of regions one by one -/

theorem mem_allRegions (g : Region) : g ∈ allRegions := by
  revert g
  decide

/-- An operation that moves at most the regions. -/
def regionsOnly (s t : State) : Prop := { t with regions := s.regions } = s

theorem regionsOnly_trans {s t u : State} (h : regionsOnly s t) (k : regionsOnly t u) : regionsOnly s u := by
  unfold regionsOnly at *
  rw [← h, ← k]

theorem regionsOnly_modRegion (s : State) (g : Region) (f : RegionSt → RegionSt) : regionsOnly s (s.modRegion g f) := rfl

theorem regionsOnly_foldl {α : Type} {f : State → α → State} (h : ∀ s a, regionsOnly s (f s a)) (xs : List α) (s : State) : regionsOnly s (xs.foldl f s) :=
  foldl_keeps (regionsOnly s) f (fun t a ht => regionsOnly_trans ht (h t a)) xs s rfl

/-- An update of each region in turn, none of them twice. -/
theorem foldl_modRegion_reg8 (f : Region → RegionSt → RegionSt) {gs : List Region} (once : gs.Nodup) (s : State) (k : Region) :
    (gs.foldl (fun s g => s.modRegion g (f g)) s).reg8 k = if k ∈ gs then f k (s.reg8 k) else s.reg8 k := by
  induction gs generalizing s with
  | nil => rfl
  | cons g gs ih =>
    obtain ⟨fresh, once⟩ := List.nodup_cons.mp once
    rw [List.foldl_cons, ih once]
    by_cases own : g = k
    · subst own
      rw [if_neg fresh, if_pos List.mem_cons_self, State.modRegion_same]
    · rw [State.modRegion_other _ own]
      simp [Ne.symm own]

theorem allRegions_modRegion_reg8 (f : Region → RegionSt → RegionSt) (s : State) (k : Region) :
    (allRegions.foldl (fun s g => s.modRegion g (f g)) s).reg8 k = f k (s.reg8 k) :=
  (foldl_modRegion_reg8 f (by decide) s k).trans (if_pos (mem_allRegions k))

/-! ### Samples at the limit -/

theorem tripCounts_getD (old : List Nat) (hot : List Bool) (i : Nat) : (tripCounts old hot).getD i 0 = if hot.getD i false then old.getD i 0 + 1 else 0 := by
  unfold tripCounts
  cases h : hot[i]? with
  | none => simp [h]
  | some b => simp [h]

/-- The reading of a region stands at the region's place in the order of the trip counts. -/
theorem tripInputs_region {rs : List (List Int)} {g : Nat} (within : g < rs.length) (chip : Int) (dram : List Int) :
    (tripInputs rs chip dram).getD g false = decide (120 ≤ regionTemp (rs.getD g [])) := by
  simp [tripInputs, within, List.getElem?_append_left]

theorem exec_thermalSample {s : State} (rails : s.pwr.rails = true) (held : s.pwr.held = .no) (running : s.clk.running = true) (rs : List (List Int)) (chip : Int)
    (dram : List Int) : exec (.thermalSample rs chip dram) s = .next (takeTemps s rs chip dram) := by
  change execThermalSample rs chip dram s = _
  simp [execThermalSample, rails, held, running]

/-- The first region in a second sample at its limit trips the module. -/
theorem takeTemps_trips {s : State} {rs : List (List Int)} (eight : rs.length = 8) (chip : Int) (dram : List Int) (g : Fin 8)
    (hot : 120 ≤ regionTemp (rs.getD g.val [])) (before : 1 ≤ s.pwr.tripRun.getD g.val 0) (first : ∀ k, k < g.val → regionTemp (rs.getD k []) < 120) :
    takeTemps s rs chip dram = thermalTrip s g.val := by
  have counts : ∀ k, k < 8 → (tripCounts s.pwr.tripRun (tripInputs rs chip dram)).getD k 0 = if 120 ≤ regionTemp (rs.getD k []) then s.pwr.tripRun.getD k 0 + 1 else 0 :=
    fun k small => by simp only [tripCounts_getD, tripInputs_region (eight ▸ small), decide_eq_true_eq]
  have found : ((List.range 13).find? fun i => decide (2 ≤ (tripCounts s.pwr.tripRun (tripInputs rs chip dram)).getD i 0)) = some g.val := by
    rw [List.find?_range_eq_some]
    refine ⟨?_, List.mem_range.mpr (by omega), fun j below => ?_⟩
    · rw [counts g.val g.isLt, if_pos hot]
      exact decide_eq_true (by omega)
    · rw [counts j (by omega), if_neg (not_le.mpr (first j below))]
      rfl
  unfold takeTemps
  dsimp only
  rw [found]

/-- A trip enters the held reset and records the region. -/
theorem thermalTrip_region (s : State) (g : Fin 8) : let t := thermalTrip s g.val
    wasReset s t ∧ t.boot.resetCause = 4 ∧ t.pwr.held = .thermal ∧ t.pwr.tripSensor = 1 ∧ t.pwr.tripIndex = g.val := by
  have tripped : thermalTrip s g.val = moduleState { s with pwr := { s.pwr with tripSensor := 1, tripIndex := g.val } } 4 .thermal := by
    unfold thermalTrip
    rw [if_pos g.isLt]
  obtain ⟨reset, cause, held, -⟩ := moduleWasReset_moduleState { s with pwr := { s.pwr with tripSensor := 1, tripIndex := g.val } } 4 .thermal
  simp only [tripped]
  exact ⟨reset, cause, held, rfl, rfl⟩

/-! ### Samples below the limits -/

/-- With no sensor at its limit every count is back at 0. -/
theorem tripCounts_cool {rs : List (List Int)} {chip : Int} {dram : List Int} (eight : rs.length = 8) (four : dram.length = 4)
    (regions : ∀ r ∈ rs, regionTemp r < 120) (chipCool : chip < 120) (dramCool : ∀ d ∈ dram, d < 95) (old : List Nat) :
    tripCounts old (tripInputs rs chip dram) = List.replicate 13 0 := by
  have cool : tripInputs rs chip dram = List.replicate 13 false := by
    refine List.eq_replicate_iff.mpr ⟨by simp [tripInputs, eight, four], fun b listed => ?_⟩
    simp only [tripInputs, List.mem_append, List.mem_map, List.mem_singleton] at listed
    rcases listed with (⟨r, hr, rfl⟩ | rfl) | ⟨d, hd, rfl⟩
    · exact decide_eq_false (not_le.mpr (regions r hr))
    · exact decide_eq_false (not_le.mpr chipCool)
    · exact decide_eq_false (not_le.mpr (dramCool d hd))
  rw [cool]
  rfl

/-- The regions with their throttle levels after a sample. -/
def throttled (s : State) (rs : List (List Int)) : State :=
  allRegions.foldl (fun s g => s.modRegion g fun x => { x with thermal := throttleStep x.thermal (regionTemp (rs.getD g.val [])) }) s

/-- The supplies' state after a sample below the limits. -/
def cooledPwr (p : Power) (dram : List Int) : Power :=
  { p with tripRun := List.replicate 13 0, refresh2x := p.refresh2x.zipIdx.map fun e => refreshStep e.1 (dram.getD e.2 0) }

theorem takeTemps_cool {s : State} {rs : List (List Int)} {chip : Int} {dram : List Int} (none : tripCounts s.pwr.tripRun (tripInputs rs chip dram) = List.replicate 13 0) :
    takeTemps s rs chip dram = { throttled s rs with pwr := cooledPwr (throttled s rs).pwr dram } := by
  have found : ((List.range 13).find? fun i => decide (2 ≤ (List.replicate 13 0).getD i 0)) = Option.none := by decide
  unfold takeTemps
  dsimp only
  rw [none, found]
  rfl

theorem regionsOnly_throttled (s : State) (rs : List (List Int)) : regionsOnly s (throttled s rs) := regionsOnly_foldl (fun _ _ => regionsOnly_modRegion _ _ _) _ s

theorem regionsOnly_pwr {s t : State} (h : regionsOnly s t) : t.pwr = s.pwr := by
  have k := congrArg State.pwr h
  exact k

theorem cooledPwr_refresh (p : Power) (dram : List Int) {k : Nat} (within : k < p.refresh2x.length) :
    (cooledPwr p dram).refresh2x.getD k false = refreshStep (p.refresh2x.getD k false) (dram.getD k 0) := by
  simp [cooledPwr, within]

/-- Settles O14: a sample trips the module at the first sensor whose count reaches two, and otherwise moves throttle levels and refresh rates alone. -/
theorem clockAndTemperatures : Obligations.ClockAndTemperatures := by
  refine ⟨fun s => ⟨fun stage stopped rails held refclk => ?lock, ⟨_, rfl, rfl, rfl, rfl⟩⟩, fun s rs chip dram rails eight four =>
    ⟨fun held running => ⟨fun g hot before first => ?trip, fun regions chipCool dramCool => ?cool⟩, fun held regions chipCool dramCool => ?release⟩⟩
  case lock =>
    change ∃ t, execPllLock s = .next t ∧ _
    simp only [execPllLock, stage, stopped, rails, held, refclk, Bool.false_eq_true, not_false_iff, and_self, if_true]
    exact ⟨_, rfl, rfl, rfl, rfl⟩
  case trip =>
    refine ⟨_, exec_thermalSample rails held running rs chip dram, ?_⟩
    rw [takeTemps_trips eight chip dram g hot before first]
    exact thermalTrip_region s g
  case cool =>
    refine ⟨_, exec_thermalSample rails held running rs chip dram, ?_⟩
    have only := regionsOnly_throttled s rs
    rw [takeTemps_cool (tripCounts_cool eight four regions chipCool dramCool _), regionsOnly_pwr only]
    exact ⟨fun g => allRegions_modRegion_reg8 (fun g x => { x with thermal := throttleStep x.thermal (regionTemp (rs.getD g.val [])) }) s g, rfl,
      fun k within => cooledPwr_refresh _ dram within, congrArg (fun t : State => { t with pwr := s.pwr }) only⟩
  case release =>
    have cool : coolEnough rs chip dram = true := by
      simp only [coolEnough, Bool.and_eq_true, List.all_eq_true, decide_eq_true_eq]
      exact ⟨⟨regions, chipCool⟩, dramCool⟩
    change execThermalSample rs chip dram s = _
    simp [execThermalSample, rails, held, cool]

end Sys2Proof.Machine
end

section
/-! PROOF. The tokeniser dictionary (R349, R350): a load counts the bytes that it reads from the host. -/

namespace Sys2Proof.Machine

open Sys2Proof

/-- A load that no plan's digest forbids reads the file. -/
theorem dictLoad_reads {s : State} (idle : s.dict.busy = false) (free : dictPlan s = false) :
    exec .dictLoad s = .next (({ s with dict := { s.dict with busy := true } }).hostRead 0 (dictBase s) (dictLen s)) := by
  change Host.Outcome.next (dictStart s) = _
  simp [dictStart, idle, free]

/-- A read of host memory counts the bytes asked for (Table 19-4). -/
theorem State.hostRead_count (s : State) (fn : Fn) (a n : Nat) : (s.hostRead fn a n).count famChip 0 39 = s.count famChip 0 39 + BitVec.ofNat 64 n :=
  (State.count_countN ..).trans (if_pos rfl)

/-- A module without plans whose dictionary register names 64 bytes of host memory. -/
def dictNamed : State := { State.reset with regs := [(regKey 0 0x23018, 64)] }

theorem dictNamed_len : dictLen dictNamed = 64 := by decide

end Sys2Proof.Machine

open Sys2Proof Sys2Proof.Machine

/-- Refutes O60: the load of a module without plans reads the file that SEQ_DICT_LEN names, and the host read counts its bytes, so that the counters do not stay
as they were: with 64 bytes named, chip counter 39 rises by 64. -/
theorem not_dictionary : ¬ Obligations.Dictionary := by
  unfold Obligations.Dictionary
  intro h
  obtain ⟨-, reads, -⟩ := h dictNamed
  obtain ⟨t, run, -, -, frame⟩ := reads rfl rfl
  rw [dictLoad_reads rfl rfl, dictNamed_len, Host.Outcome.next.injEq] at run
  have counters := congrArg State.cnt frame
  dsimp only at counters
  have counted : t.count famChip 0 39 = 64 := by
    rw [← run, State.hostRead_count]
    decide
  rw [State.count, counters] at counted
  exact absurd counted (by decide)
end

section
/-! PROOF. Registers with a plain behaviour of their own (R39, R82, R283, R466, R474, R489). -/

namespace Sys2Proof.Machine

open Sys2Proof

/-- What a command that changes one port's state leaves. -/
theorem modPort_only {s : State} {p : Port} {g : PortState → PortState} :
    (s.modPort p g).lp p = g (s.lp p) ∧ (∀ q, q ≠ p → (s.modPort p g).lp q = s.lp q) ∧ { s.modPort p g with ports := s.ports } = s :=
  ⟨State.modPort_same .., fun _ other => State.modPort_other s other.symm g, rfl⟩

/-- A go on an idle set-up bus sends the bytes named with their divisor. -/
theorem exec_setupBusGo {s : State} {p : Port} (up : 2 ≤ s.boot.stage) (idle : (s.lp p).suBusy = false) :
    exec (.setupBusGo p) s = .next ((s.modPort p fun x => { x with suBusy := true }).emit
      (.setupBus p (leBytes (bitsOf (lpReg s p 0x20) 3 0) (lpReg s p 0x28)) (bitsOf (lpReg s p 0x20) 15 8))) := by
  change execSetupBusGo p s = _
  simp [execSetupBusGo, setupGo, Nat.not_lt.mpr up, idle]

/-- The vector's mask and pending bits cleared. -/
def vecFreed (v : Nat) (f : FnState) : FnState := { f with masked := f.masked.filter fun x => x != v, pendingBits := f.pendingBits.filter fun x => x != v }

theorem vecFreed_masked (v : Nat) (f : FnState) : v ∉ (vecFreed v f).masked := by simp [vecFreed]
theorem vecFreed_pending (v : Nat) (f : FnState) : v ∉ (vecFreed v f).pendingBits := by simp [vecFreed]

/-- Unmasking clears both bits and sends the message that was pending. -/
theorem unmaskVec_eq (s : State) (fn : Fn) (v : Nat) :
    unmaskVec s fn v = { (regSet s fn.val (maskOff v) 0).modFn fn (vecFreed v) with
      out := if v ∈ (s.fnOf fn).pendingBits then s.out ++ [.msix fn v] else s.out } := by
  have same : ((regSet s fn.val (maskOff v) 0).fnOf fn).pendingBits = (s.fnOf fn).pendingBits := rfl
  unfold unmaskVec
  simp only [same, List.contains_eq_mem, decide_eq_true_eq]
  split <;> rfl

end Sys2Proof.Machine

open Sys2Proof Sys2Proof.Machine

/-- Settles O23: each command writes its own port, function or latch. -/
theorem plainRegisters : Obligations.PlainRegisters := by
  unfold Obligations.PlainRegisters
  refine ⟨fun s p => ⟨⟨_, rfl, modPort_only⟩, ⟨_, rfl, modPort_only⟩, ?go, ?done⟩, fun s => ⟨fun l => rfl, ?low, ?unmask⟩⟩
  case go =>
    intro up idle
    obtain ⟨same, other, -⟩ := modPort_only (s := s) (p := p) (g := fun x => { x with suBusy := true })
    exact ⟨_, exec_setupBusGo up idle, same, other, by simp [State.emit, State.modPort, bitsOf], rfl⟩
  case done =>
    intro rx busy
    exact ⟨_, congrArg Host.Outcome.next (if_pos busy), modPort_only⟩
  case low =>
    intro fn usable
    exact ⟨_, congrArg Host.Outcome.next (if_pos usable), rfl, rfl, rfl⟩
  case unmask =>
    intro fn v usable
    refine ⟨_, congrArg Host.Outcome.next (if_pos usable), ?_⟩
    rw [unmaskVec_eq]
    have freed := State.modFn_same (regSet s fn.val (maskOff v.val) 0) fn (vecFreed v.val)
    refine ⟨?_, ?_, rfl, fun f other => State.modFn_other (regSet s fn.val (maskOff v.val) 0) other.symm (vecFreed v.val), rfl⟩
    · exact fun still => vecFreed_masked v.val _ (freed ▸ still)
    · exact fun still => vecFreed_pending v.val _ (freed ▸ still)
end

section
/-! PROOF. Writes of plain registers (R11, R12, R467, R468). -/

namespace Sys2Proof.Machine

open Sys2Proof

/-- A register that was set holds the value, and every other register what it held. -/
theorem regGet_regSet_same (s : State) (f o : Nat) {v : Nat} (fits : v < 2 ^ 64) : regGet (regSet s f o v) f o = v := by
  unfold regGet regSet
  by_cases reset : v = regReset o
  · simp [reset, smFind_erase]
  · simpa [reset, smFind_insert] using fits

theorem regGet_regSet_other (s : State) {f o g p : Nat} (v : Nat) (other : regKey g p ≠ regKey f o) : regGet (regSet s f o v) g p = regGet s g p := by
  unfold regGet regSet
  by_cases reset : v = regReset o
  · simp [reset, smFind_erase, other.symm]
  · simp [reset, smFind_insert, other.symm]

/-- A 4-byte write of a plain 32-bit register of the function. -/
theorem exec_writePlain {s : State} {fn : Fn} {off : Nat} {v : Word64} {r : RegSpec} (usable : regsUsable s fn = true) (aligned : off % 4 = 0)
    (spec : regSpec off = some r) (bytes : r.bytes = 4) (plain : r.act = .plain) :
    exec (.registerWrite fn off 4 v) s =
      .next (if r.pf && fn.val != 0 then s else writePlain s fn off r (v.toNat % 4294967296 &&& r.mask)) := by
  change execRegisterWrite fn off 4 v s = _
  simp only [execRegisterWrite, usable, Bool.true_or, ↓reduceIte, writeAccess, aligned, and_self, write4, spec, bytes, Nat.reducePow, Nat.reduceEqDiff,
    writeReg, writeAct, plain]

/-- A write that is ignored as a whole sets the function's bad_write and nothing else. -/
theorem badWrite_only (s : State) (fn : Fn) : (badWrite s fn).fnOf fn = { s.fnOf fn with badWrite := true } ∧
    (∀ f, f ≠ fn → (badWrite s fn).fnOf f = s.fnOf f) ∧ { badWrite s fn with fns := s.fns } = s :=
  ⟨State.modFn_same .., fun _ other => State.modFn_other s other.symm _, rfl⟩

/-- A value with its reserved bits 0 fits the register file. -/
theorem plainValue_lt (v m : Nat) : v % 4294967296 &&& m < 2 ^ 64 := lt_of_le_of_lt Nat.and_le_left (by omega)

end Sys2Proof.Machine

open Sys2Proof Sys2Proof.Machine

/-- Settles O24: the write sets the register, or sets bad_write, or is not the function's to make. -/
theorem registerWrite : Obligations.RegisterWrite := by
  unfold Obligations.RegisterWrite
  intro s fn off v usable aligned marks r spec bytes plain
  have run := exec_writePlain (v := v) usable aligned spec bytes plain
  refine ⟨fun pf ok time => ?taken, fun pf bad => ?ignored, fun pf other => ?absent⟩
  case taken =>
    have mine : (r.pf && fn.val != 0) = false := by simpa using pf
    refine ⟨regSet s fn.val off (v.toNat % 4294967296 &&& r.mask), run.trans ?_, regGet_regSet_same _ _ _ (plainValue_lt ..),
      fun f o other => regGet_regSet_other _ _ other, rfl⟩
    simp [mine, writePlain, ok, time, marks]
  case ignored =>
    have mine : (r.pf && fn.val != 0) = false := by simpa using pf
    refine ⟨badWrite s fn, run.trans ?_, badWrite_only s fn⟩
    simp [mine, writePlain, bad]
  case absent =>
    rw [run, if_pos (by simp [pf, other])]
end

section
/-! PROOF. Attestation trees (R405, R406), and the frames of the twin link in their order (R379). -/

namespace Sys2Proof.Machine

open Sys2Proof

/-! ### Attestation trees -/

/-- Taking an identity leaf moves nothing but the security state. -/
theorem idLeaf_frame {s u : State} {n : Nat} (taken : idLeaf s = some (n, u)) : { u with sec := s.sec } = s := by
  unfold idLeaf at taken
  split at taken
  · split at taken
    · cases taken
      rfl
    · split at taken
      · cases taken
        rfl
      · cases taken
  · dsimp only at taken
    split at taken
    · cases taken
      rfl
    · cases taken

/-- A renewal with a leaf to sign with adds the certificate. -/
theorem exec_attestationRenewal {s u : State} {k n : Nat} (up : 4 ≤ s.boot.stage) (tree : renewalTree s = some k) (leaf : idLeaf s = some (n, u)) :
    exec .attestationRenewal s = .next { u with sec := { u.sec with flash := { u.sec.flash with
      certs := (u.sec.flash.certs.filter fun c => decide (u.sec.tree ≤ c.1)) ++ [(k, n)] } } } := by
  change execAttestationRenewal s = _
  simp [execAttestationRenewal, Nat.not_lt.mpr up, tree, leaf]

/-! ### Frames in and out of order -/

/-- Every frame command takes its frame by `receiveFrame`. -/
theorem exec_frame {seq : Half} {c : Instr} (frame : frameOf seq c) (s : State) : ∃ act, exec c s = .next (receiveFrame s seq act) := by
  rcases frame with ⟨p, rfl⟩ | ⟨k, a, b, rfl⟩ | ⟨p, rfl⟩ | ⟨w, a, n, rfl⟩ | ⟨u, r, n, rfl⟩ | ⟨f, rfl⟩ | ⟨x, st, rfl⟩ <;> exact ⟨_, rfl⟩

theorem receiveFrame_down {s : State} (down : s.twin.linkUp = false) (seq : Half) (act : State → State) : receiveFrame s seq act = s := by
  simp [receiveFrame, down]

/-- A frame that is not the next is dropped: a repeat is acknowledged, one beyond a gap refused. -/
theorem receiveFrame_outOfOrder {s : State} {q seq : Half} (up : s.twin.linkUp = true) (last : s.twin.rxSeq = some q) (order : seq ≠ q + 1)
    (act : State → State) : receiveFrame s seq act = sendAck (s.chipCnt 45) (decide (¬ (q - seq).toNat < 32768)) q := by
  have counted : (s.chipCnt 45).twin.rxSeq = some q := last
  unfold receiveFrame
  simp only [up, Bool.not_true, Bool.false_eq_true, ↓reduceIte, counted, order, Nat.reducePow]
  by_cases repeated : (q - seq).toNat < 32768 <;> simp [repeated, -BitVec.toNat_sub]

/-- The next frame, or the first, is taken. -/
theorem receiveFrame_next {s : State} {seq : Half} (next : nextFrame s seq = true) (act : State → State) : receiveFrame s seq act = act (frameTaken s seq) := by
  unfold nextFrame at next
  obtain ⟨up, order⟩ := Bool.and_eq_true_iff.mp next
  unfold receiveFrame
  have counted : (s.chipCnt 45).twin.rxSeq = s.twin.rxSeq := rfl
  simp only [up, Bool.not_true, Bool.false_eq_true, ↓reduceIte, counted]
  cases last : s.twin.rxSeq with
  | none => rfl
  | some q =>
    simp only [last, beq_iff_eq] at order
    simp only [order, ↓reduceIte]
    rfl

/-- ACK and NAK are sent and counted, and nothing else changes. -/
theorem sendAck_out {s : State} (up : s.twin.linkUp = true) (nak : Bool) (q : Half) :
    (sendAck s nak q).out = s.out ++ [.twinFrame (twinFrame (if nak then 0x21 else 0x20) 0 0 0 0 q.toNat [])] := by
  unfold sendAck
  cases nak <;> simp [up, State.emit]

theorem sendAck_frame (s : State) (nak : Bool) (q : Half) : { sendAck s nak q with out := s.out, cnt := s.cnt } = s := by
  unfold sendAck
  cases nak <;> cases s.twin.linkUp <;> rfl

end Sys2Proof.Machine

open Sys2Proof Sys2Proof.Machine

/-- Settles O43: a renewal signs the tree that lacks its certificate with the identity leaf it takes. -/
theorem attestationTrees : Obligations.AttestationTrees := by
  unfold Obligations.AttestationTrees
  intro s up
  refine ⟨congrArg Host.Outcome.next (if_neg (Nat.not_lt.mpr up)), ?none, ?some⟩
  case none =>
    intro none
    change execAttestationRenewal s = _
    simp [execAttestationRenewal, none]
  case some =>
    intro k n u tree leaf
    refine ⟨_, exec_attestationRenewal up tree leaf, by simp, ?_⟩
    exact congrArg (fun v : State => { v with sec := s.sec }) (idLeaf_frame leaf)

/-- Settles O45: a frame out of order is answered by `sendAck` alone. -/
theorem twinFrameOrder : Obligations.TwinFrameOrder := by
  unfold Obligations.TwinFrameOrder
  intro s seq c frame
  obtain ⟨act, run⟩ := exec_frame frame s
  refine ⟨fun down => run.trans (congrArg _ (receiveFrame_down down seq act)), fun q up last order => ⟨_, run, ?_⟩⟩
  rw [receiveFrame_outOfOrder up last order]
  refine ⟨?_, congrArg (fun u : State => { u with cnt := s.cnt }) (sendAck_frame (s.chipCnt 45) _ q)⟩
  rw [sendAck_out (s := s.chipCnt 45) up]
  by_cases repeated : (q - seq).toNat < 32768 <;> simp [repeated, -BitVec.toNat_sub]
end

section
/-! PROOF. Frames of the twin link that are taken in order (R379 to R384, R386, R388, R389). -/

namespace Sys2Proof.Machine

open Sys2Proof

/-! ### A frame that is taken -/

theorem frameTaken_linkUp {s : State} {seq : Half} (next : nextFrame s seq = true) : s.twin.linkUp = true := (Bool.and_eq_true_iff.mp next).1

theorem frameTaken_frame (s : State) (seq : Half) : { frameTaken s seq with twin := s.twin, out := s.out, cnt := s.cnt } = s :=
  congrArg (fun u : State => { u with twin := s.twin, cnt := s.cnt }) (sendAck_frame { s.chipCnt 45 with twin := { s.twin with rxSeq := some seq } } false seq)

theorem frameTaken_twin (s : State) (seq : Half) : (frameTaken s seq).twin = { s.twin with rxSeq := some seq } :=
  congrArg State.twin (Eq.trans rfl (sendAck_frame { s.chipCnt 45 with twin := { s.twin with rxSeq := some seq } } false seq))

theorem frameTaken_track (s : State) (seq : Half) (k : Track) : (frameTaken s seq).track k = s.track k := by
  have frame := frameTaken_frame s seq
  cases k with
  | A => exact (congrArg State.trackA frame :)
  | B => exact (congrArg State.trackB frame :)

/-- Sending a frame moves nothing but the twin's state, the frames sent and the counters. -/
theorem sendFrame_frame (s : State) (ty flags win xfer off : Nat) (payload : List Byte) :
    { sendFrame s ty flags win xfer off payload with twin := s.twin, out := s.out, cnt := s.cnt } = s := by
  unfold sendFrame
  cases s.twin.linkUp <;> rfl

theorem sendFrame_out {s : State} (up : s.twin.linkUp = true) (ty flags win xfer off : Nat) (payload : List Byte) :
    (sendFrame s ty flags win xfer off payload).out = s.out ++ [.twinFrame (twinFrame ty flags s.twin.txSeq win xfer off payload)] := by
  simp [sendFrame, up, State.emit]

theorem sendFrame_txSeq {s : State} (up : s.twin.linkUp = true) (ty flags win xfer off : Nat) (payload : List Byte) :
    (sendFrame s ty flags win xfer off payload).twin.txSeq = s.twin.txSeq + 1 := by
  simp [sendFrame, up, State.emit]

/-! ### Writes by the partner -/

/-- An operation that moves at most the tile store and the counters. -/
def storesOnly (s t : State) : Prop := { t with store := s.store, cnt := s.cnt } = s

theorem storesOnly_trans {s t u : State} (h : storesOnly s t) (k : storesOnly t u) : storesOnly s u := by
  unfold storesOnly at *
  rw [← h, ← k]

theorem storesOnly_twin {s t : State} (h : storesOnly s t) : t.twin = s.twin := (congrArg State.twin h :)

theorem storesOnly_countN (s : State) (f e i n : Nat) : storesOnly s (s.countN f e i n) := rfl
theorem storesOnly_setMark (s : State) (a m : Nat) : storesOnly s (setMark s a m) := rfl
theorem storesOnly_noteCorrected (s : State) (a : Nat) : storesOnly s (noteCorrected s a) := rfl
theorem storesOnly_store (s : State) (x : TileStore) : storesOnly s { s with store := x } := rfl

theorem storesOnly_ite {c : Prop} [Decidable c] {s t u : State} (h : storesOnly s t) (k : storesOnly s u) : storesOnly s (if c then t else u) := by
  split
  · exact h
  · exact k

theorem storesOnly_writeWord (s : State) (a : Nat) (bs : List Byte) : storesOnly s (writeWord s a bs).2 := by
  unfold writeWord
  dsimp only
  split
  · exact storesOnly_countN ..
  · have corrected : storesOnly s (if markOf s a = 1 ∧ bs.length < 32 then noteCorrected s a else s) := storesOnly_ite (storesOnly_noteCorrected s a) rfl
    have written := storesOnly_trans corrected (storesOnly_store _ { (if markOf s a = 1 ∧ bs.length < 32 then noteCorrected s a else s).store with
      mem := memWrite (if markOf s a = 1 ∧ bs.length < 32 then noteCorrected s a else s).store.mem a bs })
    have marked := storesOnly_ite (c := markOf s a = 0) written (storesOnly_trans written (storesOnly_setMark _ a 0))
    exact storesOnly_ite (storesOnly_trans marked (storesOnly_store ..)) marked

theorem storesOnly_writeVia (at? : Nat → Option Nat) (s : State) (a : Nat) (bs : List Byte) (n : Nat) : storesOnly s (writeVia at? s a bs n).2 := by
  induction n generalizing s a bs with
  | zero => rfl
  | succ n ih =>
    unfold writeVia
    split
    · rfl
    · dsimp only
      split
      · exact ih ..
      · exact storesOnly_trans (storesOnly_writeWord ..) (ih ..)

theorem logWords_twin (fn : Option Nat) (as : List Nat) (s : State) : (logWords s fn as).twin = s.twin := by
  unfold logWords
  induction as generalizing s with
  | nil => rfl
  | cons a as ih => exact (ih _).trans (logHealth_twin ..)

/-- The twin's state but for what the partner has written into DRAM. -/
def Twin.besideDram (x : Twin) : Twin := { x with dram := [] }

/-- A WRITE that lands changes of the twin's state at most its DRAM. -/
theorem landWrite_twin (s : State) (f : TwinWriteP) : (landWrite s f).2.twin.besideDram = s.twin.besideDram := by
  unfold landWrite
  split
  · rfl
  next w _ =>
    dsimp only
    have write := storesOnly_twin (storesOnly_writeVia some s (w.base + f.off) f.data (f.data.length + 1))
    repeat' split
    all_goals first | rfl | exact congrArg Twin.besideDram ((logWords_twin ..).trans write)

/-! ### What a standby takes from the active (R386) -/

theorem foldl_modPort_track {α : Type} (port : α → Port) (g : α → PortState → PortState) (l : List α) (s : State) (k : Track) :
    (l.foldl (fun s x => s.modPort (port x) (g x)) s).track k = s.track k :=
  foldl_keeps (fun u : State => u.track k = s.track k) _ (fun _ _ h => (State.modPort_track ..).trans h) l s rfl

/-- A run of changes to ports moves nothing but ports. -/
theorem foldl_modPort_frame {α : Type} (port : α → Port) (g : α → PortState → PortState) (l : List α) (s : State) :
    { l.foldl (fun s x => s.modPort (port x) (g x)) s with ports := s.ports } = s :=
  foldl_keeps (fun u : State => { u with ports := s.ports } = s) (fun s x => s.modPort (port x) (g x)) (fun _ _ h => h) l s rfl

theorem adoptTrack_same (s : State) (k : Track) (y : SyncTrack) : (adoptTrack s k y).track k =
    { s.track k with divN := y.divN, divF := y.divF, phase := y.phase, highMark := y.highMark, position := y.position, edges := y.edges } :=
  (foldl_modPort_track (fun p => p) (fun _ x => { x with trigCount := y.trig }) _ _ k).trans (State.modTrack_same ..)

theorem adoptTrack_other (s : State) {k j : Track} (other : k ≠ j) (y : SyncTrack) : (adoptTrack s k y).track j = s.track j :=
  (foldl_modPort_track (fun p => p) (fun _ x => { x with trigCount := y.trig }) _ _ j).trans (State.modTrack_other s other _)

theorem adoptTrack_frame (s : State) (k : Track) (y : SyncTrack) : { adoptTrack s k y with trackA := s.trackA, trackB := s.trackB, ports := s.ports } = s := by
  have ports := foldl_modPort_frame (fun p => p) (fun _ x => { x with trigCount := y.trig })
  cases k <;> exact (congrArg (fun u : State => { u with trackA := s.trackA, trackB := s.trackB, ports := s.ports }) (ports _ _) :)

/-- A state with what a SYNC may move as in `s`. -/
def syncTaken (s u : State) : State :=
  { u with nextPiece := s.nextPiece, trackA := s.trackA, trackB := s.trackB, ports := s.ports, twin := s.twin, out := s.out, cnt := s.cnt }

/-- The tracks' encoder state and the piece counter that a SYNC brings. -/
def syncCounted (s : State) (p : SyncP) : State := { adoptTrack (adoptTrack s .A p.a) .B p.b with nextPiece := p.nextPiece }

/-- A coefficient set that a SYNC brings for a port. -/
def takeCoefs (s : State) (c : Nat × CoefSet) : State := s.modPort (Fin.ofNat 4 c.1) fun x => { x with inUse := some c.2 }

theorem syncCounted_trackA (s : State) (p : SyncP) : (syncCounted s p).track .A = (adoptTrack s .A p.a).track .A :=
  adoptTrack_other (adoptTrack s .A p.a) (by decide : Track.B ≠ Track.A) p.b

theorem syncCounted_trackB (s : State) (p : SyncP) : (syncCounted s p).track .B = (adoptTrack (adoptTrack s .A p.a) .B p.b).track .B := rfl

theorem syncTaken_counted (s u : State) (p : SyncP) : syncTaken s (syncCounted u p) = syncTaken s u :=
  (congrArg (syncTaken s) (adoptTrack_frame (adoptTrack u .A p.a) .B p.b) :).trans (congrArg (syncTaken s) (adoptTrack_frame u .A p.a) :)

theorem foldl_takeCoefs_track (l : List (Nat × CoefSet)) (s : State) (k : Track) : (l.foldl takeCoefs s).track k = s.track k :=
  foldl_modPort_track (fun c : Nat × CoefSet => Fin.ofNat 4 c.1) (fun c x => { x with inUse := some c.2 }) l s k

theorem foldl_takeCoefs_frame (l : List (Nat × CoefSet)) (s : State) : { l.foldl takeCoefs s with ports := s.ports } = s :=
  foldl_modPort_frame (fun c : Nat × CoefSet => Fin.ofNat 4 c.1) (fun c x => { x with inUse := some c.2 }) l s

/-- The coefficients a port takes: those of the list's entries for it, when they are all one. -/
theorem foldl_takeCoefs_inUse (c : Nat × CoefSet) (l : List (Nat × CoefSet)) (s : State)
    (one : ∀ e ∈ l, (Fin.ofNat 4 e.1 : Port) = Fin.ofNat 4 c.1 → e = c) (has : c ∈ l ∨ (s.lp (Fin.ofNat 4 c.1)).inUse = some c.2) :
    ((l.foldl takeCoefs s).lp (Fin.ofNat 4 c.1)).inUse = some c.2 := by
  induction l generalizing s with
  | nil => simpa using has
  | cons e l ih =>
    refine ih _ (fun x hx => one x (List.mem_cons_of_mem _ hx)) ?_
    unfold takeCoefs
    by_cases port : (Fin.ofNat 4 e.1 : Port) = Fin.ofNat 4 c.1
    · obtain rfl := one e List.mem_cons_self port
      exact .inr (by rw [State.modPort_same])
    · have other : c ≠ e := fun same => port (by rw [same])
      rw [State.modPort_other s port]
      simpa [other] using has

theorem noteCommitted_twin (s : State) (k : Track) (n : Word32) : (noteCommitted s k n).twin = s.twin := by
  unfold noteCommitted prunePieces
  split
  · rfl
  · cases k <;> rfl

theorem noteCommitted_lastCommit (s : State) (k : Track) {n : Word32} (some : n ≠ 0xFFFFFFFF) : ((noteCommitted s k n).track k).lastCommit = n := by
  unfold noteCommitted prunePieces
  rw [if_neg some, State.modTrack_same, State.modTrack_same]

theorem noteCommitted_other (s : State) {k j : Track} (other : k ≠ j) (n : Word32) : (noteCommitted s k n).track j = s.track j := by
  unfold noteCommitted prunePieces
  split
  · rfl
  · rw [State.modTrack_other _ other, State.modTrack_other _ other]

theorem setReady_track (s : State) (k : Track) (r : Bool) (g : Option Int) (j : Track) : (setReady s k r g).track j = s.track j := by
  cases k <;> cases j <;> rfl

/-- The twin's state but for the readiness of the tracks. -/
def Twin.beside (x : Twin) : Twin := { x with readyA := false, readyB := false, goodA := none, goodB := none }

theorem setReady_beside (s : State) (k : Track) (r : Bool) (g : Option Int) : (setReady s k r g).twin.beside = s.twin.beside := by
  cases k <;> rfl

theorem judgeReady_cases (s : State) (h : HeartbeatP) (k : Track) : ∃ r g, judgeReady s h k = setReady s k r g := by
  unfold judgeReady
  dsimp only
  split
  · exact ⟨_, _, rfl⟩
  · split <;> exact ⟨_, _, rfl⟩

theorem judgeReady_track (s : State) (h : HeartbeatP) (k j : Track) : (judgeReady s h k).track j = s.track j := by
  obtain ⟨r, g, judged⟩ := judgeReady_cases s h k
  rw [judged, setReady_track]

theorem judgeReady_beside (s : State) (h : HeartbeatP) (k : Track) : (judgeReady s h k).twin.beside = s.twin.beside := by
  obtain ⟨r, g, judged⟩ := judgeReady_cases s h k
  rw [judged, setReady_beside]

theorem judgeWindow_twin (s : State) (k : Track) : (judgeWindow s k).twin = s.twin := by
  unfold judgeWindow
  dsimp only
  repeat' split
  all_goals cases k <;> rfl

theorem judgeWindow_lastCommit (s : State) (k j : Track) : ((judgeWindow s k).track j).lastCommit = (s.track j).lastCommit := by
  unfold judgeWindow
  dsimp only
  repeat' split
  all_goals cases k <;> cases j <;> rfl

/-- What a HEARTBEAT leaves of the twin's state, and of the commits that a standby notes. -/
def beatNoted (s : State) (p : HeartbeatP) : State :=
  judgeWindows (judgeReady (judgeReady (noteCommitted (noteCommitted s .A p.commA) .B p.commB) p .A) p .B)

theorem beatNoted_beside (s : State) (p : HeartbeatP) : (beatNoted s p).twin.beside = s.twin.beside := by
  simp only [beatNoted, judgeWindows, judgeWindow_twin, judgeReady_beside, noteCommitted_twin]

theorem beatNoted_lastCommit (s : State) (p : HeartbeatP) :
    (p.commA ≠ 0xFFFFFFFF → (beatNoted s p).trackA.lastCommit = p.commA) ∧ (p.commB ≠ 0xFFFFFFFF → (beatNoted s p).trackB.lastCommit = p.commB) := by
  have kept (k : Track) : ((beatNoted s p).track k).lastCommit = ((noteCommitted (noteCommitted s .A p.commA) .B p.commB).track k).lastCommit := by
    simp only [beatNoted, judgeWindows, judgeWindow_lastCommit, judgeReady_track]
  refine ⟨fun named => (kept .A).trans ?_, fun named => (kept .B).trans (noteCommitted_lastCommit _ _ named)⟩
  rw [noteCommitted_other _ (by decide), noteCommitted_lastCommit _ _ named]

/-- What a WRITE frame that closes its transfer is answered with: the first status that was not OK. -/
def firstStatus (s : State) (seq : Half) (f : TwinWriteP) : Nat := match smFind s.twin.badXfer f.xfer with
  | some c => c
  | none => (landWrite (frameTaken s seq) f).1.code

theorem exec_twinWrite_last {s : State} {seq : Half} (next : nextFrame s seq = true) {f : TwinWriteP} (last : f.last = true) :
    ∃ u : State, u.twin.linkUp = true ∧ u.twin.txSeq = s.twin.txSeq ∧
      exec (.twinWrite seq f) s = .next (sendFrame u 0x11 0 f.win f.xfer 0 (leBytes 2 (firstStatus s seq f))) := by
  have twin := landWrite_twin (frameTaken s seq) f
  rw [frameTaken_twin] at twin
  have noted : (frameTaken s seq).twin.badXfer = s.twin.badXfer := by rw [frameTaken_twin]
  have bad : (landWrite (frameTaken s seq) f).2.twin.badXfer = s.twin.badXfer := (congrArg Twin.badXfer twin :)
  refine ⟨{ (landWrite (frameTaken s seq) f).2 with twin := { (landWrite (frameTaken s seq) f).2.twin with
    badXfer := smErase (landWrite (frameTaken s seq) f).2.twin.badXfer f.xfer } }, ?_, (congrArg Twin.txSeq twin :), ?_⟩
  · exact (congrArg Twin.linkUp twin).trans (frameTaken_linkUp next)
  · refine (congrArg Host.Outcome.next (receiveFrame_next next _)).trans ?_
    simp only [last, ↓reduceIte, bad]
    rfl

end Sys2Proof.Machine

open Sys2Proof Sys2Proof.Machine

/-- Settles O46: each frame's effect is on the state that the frame taken in order leaves. -/
theorem twinFramesTaken : Obligations.TwinFramesTaken := by
  unfold Obligations.TwinFramesTaken
  refine ⟨fun s seq next => ?_, fun s seq p next paired standby => ?sync⟩
  · have taken (act : State → State) : (Host.Outcome.next (receiveFrame s seq act) : Host.Outcome State Fault Refusal) = .next (act (frameTaken s seq)) :=
      congrArg Host.Outcome.next (receiveFrame_next next act)
    have twin := frameTaken_twin s seq
    have same : isStandby (frameTaken s seq) = isStandby s := by
      unfold isStandby
      rw [twin]
    have enabled : twinEnabled (frameTaken s seq) = twinEnabled s := by
      have frame := frameTaken_frame s seq
      exact (congrArg twinEnabled frame :)
    refine ⟨?window, ?beat, ?beatAny, ?sync0, ?pair, ?health, ?done, ?closed, ?last⟩
    case window =>
      intro w a n
      refine (taken _).trans ?_
      by_cases closed : a = 0 ∧ n = 0 <;> simp [closed, twin]
    case beat =>
      intro p alone
      refine (taken _).trans (congrArg Host.Outcome.next (if_neg ?_))
      exact fun standby => absurd (same.symm.trans standby) (by simp [alone])
    case beatAny =>
      intro p
      refine ⟨_, taken _, ?_⟩
      dsimp only
      generalize heard : ({ frameTaken s seq with twin := { (frameTaken s seq).twin with beat := some p, misses := 0, partnerCount := p.windows } } : State) = u
      have standing : isStandby u = isStandby s := by rw [← heard, ← same]; rfl
      have hears : u.twin.beat = some p ∧ u.twin.misses = 0 ∧ u.twin.partnerCount = p.windows ∧ u.twin.rxSeq = some seq := by
        rw [← heard]
        refine ⟨rfl, rfl, rfl, ?_⟩
        change (frameTaken s seq).twin.rxSeq = some seq
        rw [twin]
      rw [standing]
      cases standby : isStandby s with
      | false => exact ⟨hears.1, hears.2.1, hears.2.2.1, hears.2.2.2, fun h => absurd h (by simp)⟩
      | true =>
        have beside := beatNoted_beside u p
        change (beatNoted u p).twin.beat = some p ∧ (beatNoted u p).twin.misses = 0 ∧ (beatNoted u p).twin.partnerCount = p.windows ∧
          (beatNoted u p).twin.rxSeq = some seq ∧ (true = true → _)
        exact ⟨(congrArg Twin.beat beside).trans hears.1, (congrArg Twin.misses beside).trans hears.2.1, (congrArg Twin.partnerCount beside).trans hears.2.2.1,
          (congrArg Twin.rxSeq beside).trans hears.2.2.2, fun _ => beatNoted_lastCommit u p⟩
    case sync0 =>
      intro p alone
      exact (taken _).trans (congrArg Host.Outcome.next (if_neg (by rw [same, twin, alone]; simp)))
    case pair =>
      intro u r n unsent
      exact (taken _).trans (congrArg Host.Outcome.next (if_neg (by rw [twin, unsent]; simp)))
    case health =>
      intro c a b alone
      exact (taken _).trans (congrArg Host.Outcome.next (if_neg (by rw [same, twin, alone]; simp)))
    case done =>
      intro x st none
      refine (taken _).trans (congrArg Host.Outcome.next ?_)
      have gone : (frameTaken s seq).twin.xfers = [] := by
        rw [twin]
        exact none
      simp [gone]
    case closed =>
      intro f closed open_ good
      have window : windowOf (frameTaken s seq) f.win = none := by
        unfold windowOf
        rw [twin]
        exact closed
      have noted : smFind (frameTaken s seq).twin.badXfer f.xfer = none := by
        rw [twin]
        exact good
      have landed : landWrite (frameTaken s seq) f = (.windowClosed, frameTaken s seq) := by simp [landWrite, window]
      refine ⟨_, taken _, ?_⟩
      simp only [landed, noted, open_]
      refine ⟨by simp [Status.code, smFind_insert], ?_, ?_⟩
      · exact (congrArg State.store (frameTaken_frame s seq) :)
      · change (frameTaken s seq).twin.dram = s.twin.dram
        rw [twin]
    case last =>
      intro f last
      obtain ⟨u, up, number, run⟩ := exec_twinWrite_last next last
      refine ⟨_, run, (sendFrame_txSeq up ..).trans (by rw [number]), ?_⟩
      rw [sendFrame_out up, number]
      exact List.mem_append_right _ (List.mem_singleton.mpr rfl)
  case sync =>
    have twin := frameTaken_twin s seq
    have same : isStandby (frameTaken s seq) = true := by
      unfold isStandby
      rw [twin]
      exact standby
    have both : ((frameTaken s seq).twin.paired && isStandby (frameTaken s seq)) = true := by rw [same, twin, paired]; rfl
    refine ⟨p.coefs.foldl takeCoefs (syncCounted (frameTaken s seq) p), congrArg Host.Outcome.next ((receiveFrame_next next _).trans (if_pos both)),
      (congrArg State.nextPiece (foldl_takeCoefs_frame ..) :), fun k => ?_, fun c has one => foldl_takeCoefs_inUse c p.coefs _ one (.inl has), ?_⟩
    · rw [foldl_takeCoefs_track]
      cases k with
      | A =>
        rw [syncCounted_trackA, adoptTrack_same, frameTaken_track]
        exact ⟨rfl, rfl, rfl, rfl, rfl, rfl, rfl, rfl⟩
      | B =>
        rw [syncCounted_trackB, adoptTrack_same, adoptTrack_other (frameTaken s seq) (by decide : Track.A ≠ Track.B), frameTaken_track]
        exact ⟨rfl, rfl, rfl, rfl, rfl, rfl, rfl, rfl⟩
    · refine (congrArg (syncTaken s) (foldl_takeCoefs_frame p.coefs (syncCounted (frameTaken s seq) p)) :).trans ?_
      exact (syncTaken_counted s _ p).trans (congrArg (syncTaken s) (frameTaken_frame s seq) :)
end

section
/-! PROOF. The sending side of the twin link (R379, R384). -/

namespace Sys2Proof.Machine

open Sys2Proof

/-- The frames that an acknowledgement up to `q` leaves waiting. -/
theorem keptAfter_eq (q : Half) (u : List (Half × List Byte)) : keptAfter q u = u.filter fun e => decide (32768 ≤ (q - e.1).toNat) := by
  simp [keptAfter]

/-- The frames of a NAK are sent again in their order, and counted. -/
def resend (s : State) (e : Half × List Byte) : State := (s.emit (.twinFrame e.2)).chipCnt 44

theorem foldl_resend_out (u : List (Half × List Byte)) (s : State) : (u.foldl resend s).out = s.out ++ u.map fun e => .twinFrame e.2 := by
  induction u generalizing s with
  | nil => simp
  | cons e u ih => simp [ih, resend, State.emit]

theorem foldl_resend_frame (u : List (Half × List Byte)) (s : State) : { u.foldl resend s with out := s.out, cnt := s.cnt } = s :=
  foldl_keeps (fun t : State => { t with out := s.out, cnt := s.cnt } = s) resend (fun _ _ h => h) u s rfl

/-- The state after a NAK has been counted and the frames it covers dropped: `n` tells how often it has come. -/
def nakTaken (s : State) (q : Half) (n : Nat) : State := { s with twin := { s.twin with unacked := keptAfter q s.twin.unacked, resends := n } }.chipCnt 45

/-- How often a NAK has come without progress, before this one. -/
def resendsOf (s : State) (q : Half) : Nat := if (keptAfter q s.twin.unacked).length < s.twin.unacked.length then 0 else s.twin.resends

theorem exec_nak {s : State} (up : s.twin.linkUp = true) (q : Half) : exec (.nak q) s = .next (if (keptAfter q s.twin.unacked).isEmpty then nakTaken s q (resendsOf s q)
    else if 4 ≤ resendsOf s q then linkDown (nakTaken s q (resendsOf s q))
    else (keptAfter q s.twin.unacked).foldl resend
      { nakTaken s q (resendsOf s q) with twin := { (nakTaken s q (resendsOf s q)).twin with resends := resendsOf s q + 1 } }) := by
  change execNak q s = _
  unfold execNak
  rw [if_neg (by simp [up]), apply_ite Host.Outcome.next, apply_ite Host.Outcome.next]
  rfl

theorem resendsOf_lt {s : State} {q : Half} (h : s.twin.resends < 4 ∨ (keptAfter q s.twin.unacked).length < s.twin.unacked.length) : ¬ 4 ≤ resendsOf s q := by
  unfold resendsOf
  split <;> omega

theorem exec_ack {s : State} (up : s.twin.linkUp = true) (q : Half) : exec (.ack q) s = .next (nakTaken s q (resendsOf s q)) := by
  change execAck q s = _
  unfold execAck
  rw [if_neg (by simp [up])]
  rfl

/-- A heartbeat that did not come has been counted. -/
def missCounted (s : State) : State := { s with twin := { s.twin with misses := s.twin.misses + 1 } }.chipCnt 47

theorem exec_heartbeatMissed {s : State} (enabled : twinEnabled s = true) (heard : s.twin.beat.isSome = true) : exec .heartbeatMissed s =
    .next (if s.twin.misses + 1 = 3 ∧ isStandby s = true ∧ s.twin.paired = true then takeOver (missCounted s) (lostFrom (missCounted s)) true else missCounted s) := by
  change execHeartbeatMissed s = _
  unfold execHeartbeatMissed
  rw [if_neg (by cases beat : s.twin.beat <;> simp_all)]
  rfl

/-- A link that has gone down is down, its transfers ended and its readiness lost; the windows and the twin's state stay. -/
theorem linkDown_twin (s : State) : (linkDown s).twin = { s.twin with
    linkUp := false, xfers := [], partner := [], partnerCount := 0, unacked := [], resends := 0, rxSeq := none, badXfer := [], pairSent := false,
    readyA := false, goodA := none, readyB := false, goodB := none } := by
  have ended (xs : List TwinXfer) (u : State) : (xs.foldl (fun s x => complete s x.r x.hdr 0x62 .twinLinkDown []) u).twin = u.twin :=
    foldl_keeps (fun v : State => v.twin = u.twin) _ (fun v x h => (complete_twin v ..).trans h) xs u rfl
  exact (ended ..).trans (logHealth_twin ..)

end Sys2Proof.Machine

open Sys2Proof Sys2Proof.Machine

/-- Settles O48: each command is the acknowledgement, the resending or the frame it sends. -/
theorem twinSending : Obligations.TwinSending := by
  unfold Obligations.TwinSending
  intro s
  refine ⟨fun q up => ?ack, fun q up progress => ?nak, fun q e u up all covered often => ?fifth, fun up => ?crc, fun up enabled => ?beat, fun enabled heard few => ?missed⟩
  case ack => exact ⟨_, exec_ack up q, keptAfter_eq .., rfl⟩
  case nak =>
    rw [← keptAfter_eq] at progress
    refine ⟨_, exec_nak up q, ?_⟩
    rw [← keptAfter_eq, if_neg (resendsOf_lt progress)]
    split
    next none =>
      have empty : keptAfter q s.twin.unacked = [] := List.isEmpty_iff.mp none
      exact ⟨rfl, by simp [nakTaken, empty], rfl⟩
    next =>
      have frame := foldl_resend_frame (keptAfter q s.twin.unacked)
      have kept (u : State) : ((keptAfter q s.twin.unacked).foldl resend u).twin = u.twin := (congrArg State.twin (frame u) :)
      refine ⟨?_, ?_, (congrArg (fun u : State => { u with twin := s.twin, out := s.out, cnt := s.cnt }) (frame _) :)⟩
      · rw [kept]
        rfl
      · rw [foldl_resend_out, kept]
        rfl
  case fifth =>
    have kept : keptAfter q s.twin.unacked = s.twin.unacked := by
      rw [keptAfter_eq, List.filter_eq_self]
      exact fun x hx => decide_eq_true (covered x hx)
    have count : resendsOf s q = s.twin.resends := by simp [resendsOf, kept]
    refine ⟨_, exec_nak up q, ?_⟩
    rw [if_neg (by rw [kept, all]; simp), if_pos (count ▸ often), linkDown_twin]
  case crc => exact ⟨_, rfl, sendAck_out up true _, sendAck_frame ..⟩
  case beat =>
    refine ⟨_, congrArg Host.Outcome.next (if_pos (by simp [up, enabled])), sendFrame_out up .., sendFrame_txSeq up .., sendFrame_frame ..⟩
  case missed =>
    have alone : ¬ (s.twin.misses + 1 = 3 ∧ isStandby s = true ∧ s.twin.paired = true) := by
      rintro ⟨third, standby, paired⟩
      rcases few with h | h | h
      · omega
      · simp [standby] at h
      · simp [paired] at h
    exact ⟨missCounted s, (exec_heartbeatMissed enabled heard).trans (congrArg Host.Outcome.next (if_neg alone)), rfl, rfl⟩
end

section
/-! PROOF. Tests on the tile store by descriptor (R430). -/

namespace Sys2Proof.Machine

open Sys2Proof

section
variable {s u : State} {i : RingId} {d : Desc}

/-- A descriptor whose start comes to its completion in a state that has moved nothing of the functions. -/
theorem exec_ends {c : Instr} (cmd : descCmd i d = some c) (ready : readyFor s i = true) (may : mayStart s i d = true) {n : Nat} {st : Status} {x : List Byte}
    (run : runDesc (startedState s i d) (s.ref i) d = complete u (s.ref i) d.hdr n st x) (fns : u.fns = (startedState s i d).fns) (regs : u.regs = s.regs) :
    exec c s = .next (complete u (s.ref i) d.hdr n st x) ∧ completedIn s (complete u (s.ref i) d.hdr n st x) i d.hdr n st x :=
  ⟨run ▸ descriptorStarts s i d c cmd ready may, completedIn_complete ready fns regs n st x⟩

end

/-- A completion leaves the tile store. -/
theorem complete_keeps_store (s : State) (r : RingRef) (h : Hdr) (n : Nat) (st : Status) (x : List Byte) : (complete s r h n st x).store = s.store :=
  (congrArg State.store (answersOnly_complete s r h n st x) :)

/-! ### What each test does -/

section
variable {s : State} {r : RingRef} {h : Hdr} {o : TestRunOp}

theorem runTestRun_flip (test : o.test = 6 ∨ o.test = 7) (whole : inHole o.addr = false) :
    runTestRun s r h o = complete (setMark s o.addr (flipMark o.test (markOf s o.addr))) r h 0x70 .ok [] := by
  obtain test | test := test <;>
  · unfold runTestRun
    rw [test]
    simp only [whole, Bool.false_eq_true, if_false]

theorem runTestRun_rawRead (test : o.test = 4) (whole : ∀ k, k < o.len / 64 → inHole (o.addr + 32 * k) = false) : runTestRun s r h o =
    complete (s.hostWrite r.fn o.host ((List.range (o.len / 64)).flatMap fun k => rawWord s (o.addr + 32 * k))) r h 0x70 .ok [] := by
  have none : ((List.range (o.len / 64)).find? fun k => inHole (o.addr + 32 * k)) = none := by
    rw [List.find?_eq_none]
    intro k below
    rw [whole k (List.mem_range.mp below)]
    exact Bool.false_ne_true
  unfold runTestRun
  rw [test]
  simp only [none]

theorem runTestRun_rawHole (test : o.test = 4) {k : Nat} (hole : ((List.range (o.len / 64)).find? fun k => inHole (o.addr + 32 * k)) = some k) :
    runTestRun s r h o = complete s r h 0x70 .tsHole (leBytes 4 (o.addr + 32 * k)) := by
  unfold runTestRun
  rw [test]
  simp only [hole]

theorem runTestRun_hole (test : o.test = 5 ∨ o.test = 6 ∨ o.test = 7) (hole : inHole o.addr = true) :
    runTestRun s r h o = complete s r h 0x70 .tsHole (leBytes 4 o.addr) := by
  obtain test | test | test := test <;>
  · unfold runTestRun
    rw [test]
    simp only [hole, if_true]

theorem runTestRun_darn (test : o.test = 5) (whole : inHole o.addr = false) : runTestRun s r h o =
    complete (darnRow s (tsTile o.addr) (tsBank o.addr) (tsRow o.addr) .corrected).2 r h 0x70
      (if (freePatch s (bankKey (tsTile o.addr) (tsBank o.addr))).isNone then .testFail else .ok) [] := by
  unfold runTestRun
  rw [test]
  simp only [whole, Bool.false_eq_true, if_false]

end

/-! ### Darning moves of the tile store its bookkeeping alone -/

theorem logHealth_ring (s : State) (e : HealthEntry) (r : RingRef) : (logHealth s e).ring r = s.ring r := by
  unfold logHealth
  dsimp only
  split
  · exact State.raiseVec_ring ..
  · rfl

section
variable (s : State) (tile bank row : Nat)

theorem doDarn_ring (p : Nat) (r : RingRef) : (doDarn s tile bank row p).ring r = s.ring r := logHealth_ring ..

theorem logFull_ring (r : RingRef) : (logFull s tile bank).ring r = s.ring r := by
  unfold logFull
  dsimp only
  split
  · rfl
  · exact logHealth_ring ..

theorem darnRow_ring (c : DarnCause) (r : RingRef) : (darnRow s tile bank row c).2.ring r = s.ring r := by
  unfold darnRow
  split
  · exact doDarn_ring ..
  · exact logFull_ring ..

theorem darnRow_regs (c : DarnCause) : (darnRow s tile bank row c).2.regs = s.regs := by
  unfold darnRow doDarn logFull
  split <;> simp [apply_ite State.regs]

theorem darnRow_mem (c : DarnCause) : (darnRow s tile bank row c).2.store.mem = s.store.mem := by
  unfold darnRow doDarn logFull
  split
  · simp
  · dsimp only
    split <;> simp

/-- A bank with a free patch row has the row darned onto it. -/
theorem darnRow_darns (c : DarnCause) {p : Nat} (free : freePatch s (bankKey tile bank) = some p) :
    (bankKey tile bank, row, p) ∈ (darnRow s tile bank row c).2.store.darn := by
  unfold darnRow doDarn
  simp [free]

end

/-- Settles O38: each test of the tile store completes in the state that it leaves, in which at most check bits, patch rows and the host's memory have moved. -/
theorem tileStoreTests : Obligations.TileStoreTests := by
  intro s i h o ready may
  have holds {n : Nat} {st : Status} {x : List Byte}
      (run : runDesc (startedState s i { hdr := h, op := .testRun o }) (s.ref i) { hdr := h, op := .testRun o } =
        complete (startedState s i { hdr := h, op := .testRun o }) (s.ref i) h n st x) :
      ∃ t, exec (.testRun i h o) s = .next t ∧ completedIn s t i h n st x ∧ answersOnly s t := exec_completes (d := { hdr := h, op := .testRun o }) rfl ready may run
  refine ⟨fun test whole => ?flip, fun test whole => ?read, fun k test hole => holds (runTestRun_rawHole test hole),
    fun test hole => holds (runTestRun_hole test hole), fun test whole => ?darn⟩
  case flip =>
    let u := setMark (startedState s i { hdr := h, op := .testRun o }) o.addr (flipMark o.test (markOf s o.addr))
    obtain ⟨ran, completed⟩ := exec_ends (d := { hdr := h, op := .testRun o }) (u := u) rfl ready may (runTestRun_flip test whole) rfl rfl
    have store : (complete u (s.ref i) h 0x70 .ok []).store = u.store := complete_keeps_store ..
    have mark : ∀ a, markOf (complete u (s.ref i) h 0x70 .ok []) a = if wordKey o.addr = wordKey a then flipMark o.test (markOf s o.addr) else markOf s a := fun a => by
      unfold markOf
      rw [store]
      exact smGet_set ..
    exact ⟨_, ran, completed, (mark _).trans (if_pos rfl), fun a other => (mark a).trans (if_neg (Ne.symm other)), congrArg (·.mem) store,
      (congrArg (fun v : State => { v with store := s.store, fns := s.fns, out := s.out, cnt := s.cnt, pegs := s.pegs })
        (answersOnly_complete u (s.ref i) h 0x70 .ok []) :)⟩
  case read =>
    obtain ⟨ran, completed⟩ := exec_ends (d := { hdr := h, op := .testRun o }) rfl ready may (runTestRun_rawRead test whole) rfl rfl
    exact ⟨_, ran, completed, sameCycle_sent (sameCycle_complete (sameCycle_refl _)) (List.mem_append_right _ (List.mem_singleton.mpr rfl)),
      answersOnly_trans (answersOnly_trans (answersOnly_startedState ..) (answersOnly_hostWrite ..)) (answersOnly_complete ..)⟩
  case darn =>
    obtain ⟨entry, -⟩ := complete_answers (d := { hdr := h, op := .testRun o }) ready
      (darnRow_ring (startedState s i { hdr := h, op := .testRun o }) (tsTile o.addr) (tsBank o.addr) (tsRow o.addr) .corrected _) (darnRow_regs ..) 0x70
      (if (freePatch s (bankKey (tsTile o.addr) (tsBank o.addr))).isNone then .testFail else .ok) []
    have ran := descriptorStarts s i { hdr := h, op := .testRun o } _ rfl ready may
    refine ⟨_, ran.trans (congrArg Host.Outcome.next (runTestRun_darn test whole)), entry, fun p free => ?_, ?_⟩
    · rw [complete_keeps_store]
      exact darnRow_darns (startedState s i { hdr := h, op := .testRun o }) _ _ _ .corrected free
    · rw [complete_keeps_store, darnRow_mem]
      rfl

end Sys2Proof.Machine
end

section
/-! PROOF. Loading, unloading and pinning plans by descriptor (R229, R253, R271). -/

namespace Sys2Proof.Machine

open Sys2Proof

section
variable {α : Type} {p : α → Bool} {f : α → α} {xs : List α} {x : α}

theorem mem_mapWhere_hit (mem : x ∈ xs) (hit : p x = true) : f x ∈ mapWhere p f xs := List.mem_map.mpr ⟨x, mem, if_pos hit⟩

theorem mem_mapWhere_pass (mem : x ∈ xs) (pass : p x = false) : x ∈ mapWhere p f xs := List.mem_map.mpr ⟨x, mem, by rw [pass]; rfl⟩

theorem exists_of_mem_mapWhere (mem : x ∈ mapWhere p f xs) : ∃ y ∈ xs, x = if p y then f y else y := by
  obtain ⟨y, old, rfl⟩ := List.mem_map.mp mem
  exact ⟨y, old, rfl⟩

end

section
variable {s : State} {fn : Fn} {n : Nat} {p : PlanRec} {r : RingRef} {h : Hdr}

/-- A plan that a function may name is one loaded under that handle. -/
theorem mem_of_planOf (found : planOf s fn n = some p) : p ∈ s.plans.loaded ∧ p.handle = n := by
  unfold planOf findPlan at found
  split at found
  case h_1 q search =>
    split at found
    · obtain rfl := Option.some.inj found
      exact ⟨List.mem_of_find?_eq_some search, by simpa using List.find?_some search⟩
    · exact nomatch found
  case h_2 => exact nomatch found

/-! ### PLAN_LOAD and PLAN_UNLOAD -/

/-- A load that begins moves the grant that the loader works in, and reads its container. -/
theorem startLoad_frame (s : State) : { (startLoad s).plans with grant := s.plans.grant } = s.plans ∧ (startLoad s).fns = s.fns ∧
    { startLoad s with plans := s.plans, out := s.out, cnt := s.cnt } = s := by
  unfold startLoad
  split
  · exact ⟨rfl, rfl, rfl⟩
  · exact ⟨rfl, rfl, rfl⟩

/-- The state with a load at the end of the loader's queue. -/
def loadQueued (s : State) (r : RingRef) (h : Hdr) (o : PlanLoadOp) : State := { s with plans := { s.plans with loadQ := s.plans.loadQ ++ [(r, h, o)] } }

theorem runPlanLoad_frame (s : State) (r : RingRef) (h : Hdr) {o : PlanLoadOp} (room : 128 ≤ o.repLen) :
    { (runPlanLoad s r h o).plans with grant := s.plans.grant } = { s.plans with loadQ := s.plans.loadQ ++ [(r, h, o)] } ∧ (runPlanLoad s r h o).fns = s.fns ∧
      { runPlanLoad s r h o with plans := s.plans, out := s.out, cnt := s.cnt } = s := by
  obtain ⟨plans, fns, rest⟩ := startLoad_frame (loadQueued s r h o)
  unfold runPlanLoad
  rw [if_neg (by omega)]
  dsimp only
  split
  · exact ⟨plans, fns, (congrArg (fun u : State => { u with plans := s.plans }) rest :)⟩
  · exact ⟨rfl, rfl, rfl⟩

/-- Mark a plan, and its companion where it has one, as being unloaded for a descriptor. -/
theorem runPlanUnload_marks (found : planOf s r.fn n = some p) : (∃ q ∈ (runPlanUnload s r h n).plans.loaded, q.handle = n ∧ q.unload = some (r, h)) ∧
    { runPlanUnload s r h n with plans := s.plans } = s := by
  obtain ⟨mem, rfl⟩ := mem_of_planOf found
  have marked : { p with unload := some (r, h) } ∈ (modPlan s p.handle fun x => { x with unload := some (r, h) }).plans.loaded := mem_mapWhere_hit mem (beq_self_eq_true _)
  unfold runPlanUnload
  rw [found]
  dsimp only
  split
  case h_1 q comp =>
    refine ⟨?_, rfl⟩
    by_cases same : p.handle = q
    · exact ⟨_, mem_mapWhere_hit marked (beq_iff_eq.mpr same), rfl, rfl⟩
    · exact ⟨_, mem_mapWhere_pass marked (beq_eq_false_iff_ne.mpr same), rfl, rfl⟩
  case h_2 => exact ⟨⟨_, marked, rfl, rfl⟩, rfl⟩

/-! ### WARDROBE_PIN -/

theorem setPin_pins (s : State) (n : Nat) (b : Bool) {m : ModelSt} (mem : m ∈ (setPin s n b).sched.models) (own : m.plan = n) : m.pinned = b := by
  obtain ⟨y, -, rfl⟩ := exists_of_mem_mapWhere mem
  split at own <;> simp_all

theorem setPin_keeps (s : State) (n : Nat) (b : Bool) {m : ModelSt} (mem : m ∈ s.sched.models) (other : m.plan ≠ n) : m ∈ (setPin s n b).sched.models :=
  mem_mapWhere_pass mem (beq_eq_false_iff_ne.mpr other)

variable {o : WardrobePinOp}

theorem runWardrobePin_unknown (none : planOf s r.fn o.plan = none) : runWardrobePin s r h o = complete s r h 0x22 .planUnknown [] := by
  unfold runWardrobePin
  rw [none]

theorem runWardrobePin_unpin (found : planOf s r.fn o.plan = some p) (op : o.op = 0) :
    runWardrobePin s r h o = complete (setPin s p.handle false) r h 0x22 .ok [] := by
  unfold runWardrobePin
  rw [found]
  simp only [op, if_true]

/-- The state with a resident model pinned, where the operation asks for it. -/
def pinnedBy (s : State) (p : PlanRec) (o : WardrobePinOp) : State := if o.op = 1 then setPin s p.handle true else s

theorem runWardrobePin_resident (found : planOf s r.fn o.plan = some p) (op : o.op ≠ 0) (have' : modelReady s p = true)
    (fits : o.op = 1 → (residentModel s p).isSome = true → pinFits s p = true) :
    runWardrobePin s r h o = complete (pinnedBy s p o) r h 0x22 .ok [] := by
  have may : ¬(o.op = 1 ∧ (residentModel s p).isSome = true ∧ ¬pinFits s p = true) := fun ⟨one, isSome, no⟩ => no (fits one isSome)
  unfold runWardrobePin pinnedBy
  rw [found]
  simp only [op, have', may, if_true, if_false]

theorem runWardrobePin_full (found : planOf s r.fn o.plan = some p) (op : o.op ≠ 0) (full : pinFits s p = false)
    (why : modelReady s p = true → o.op = 1 ∧ (residentModel s p).isSome = true) : runWardrobePin s r h o = complete s r h 0x22 .wardrobeFull [] := by
  unfold runWardrobePin
  rw [found]
  cases ready : modelReady s p with
  | false => simp [op, ready, full]
  | true =>
    obtain ⟨one, isSome⟩ := why ready
    simp [ready, full, one, isSome]

theorem runWardrobePin_loads (found : planOf s r.fn o.plan = some p) (op : o.op ≠ 0) (fits : pinFits s p = true) (absent : modelReady s p = false) :
    runWardrobePin s r h o = requestLoad s p (some (r, h, o.op)) := by
  unfold runWardrobePin
  rw [found]
  simp [op, absent, fits]

end

section
variable {s : State} {i : RingId} {h : Hdr} {o : WardrobePinOp}

/-- A WARDROBE_PIN that completes after moving the pins alone. -/
theorem exec_pin (ready : readyFor s i = true) (may : mayStart s i { hdr := h, op := .wardrobePin o } = true) {u : State} {st : Status}
    (run : runWardrobePin (startedState s i { hdr := h, op := .wardrobePin o }) (s.ref i) h o = complete u (s.ref i) h 0x22 st [])
    (only : { u with sched := s.sched } = startedState s i { hdr := h, op := .wardrobePin o }) :
    ∃ t, exec (.wardrobePin i h o) s = .next t ∧ completedIn s t i h 0x22 st [] ∧ t.sched = u.sched ∧
      { t with sched := s.sched, fns := s.fns, out := s.out, cnt := s.cnt, pegs := s.pegs } = s := by
  obtain ⟨ran, completed⟩ := exec_ends (d := { hdr := h, op := .wardrobePin o }) rfl ready may run (congrArg State.fns only :) (congrArg State.regs only :)
  have kept := answersOnly_complete u (s.ref i) h 0x22 st []
  exact ⟨_, ran, completed, (congrArg State.sched kept :),
    (congrArg (fun v : State => { v with sched := s.sched, fns := s.fns, out := s.out, cnt := s.cnt, pegs := s.pegs }) kept :).trans
      (congrArg (fun v : State => { v with fns := s.fns, out := s.out, cnt := s.cnt, pegs := s.pegs }) only :)⟩

end

/-- Settles O39: each plan descriptor changes the loader's queue, the plan's mark, the pins or the loads, or completes with nothing of these changed. -/
theorem planDescriptors : Obligations.PlanDescriptors := by
  intro s i h
  refine ⟨fun o ready may room => ?load, fun o ready may small => ?small, fun n ready may none => ?unknown, fun n p ready may found => ?unload,
    fun o p ready may found op => ?unpin, fun o ready may none => ?unknownPin, fun o p ready may found op resident fits => ?pin,
    fun o p ready may found op full why => ?full, fun o p ready may found op fits absent => ?loads⟩
  case load =>
    obtain ⟨plans, fns, rest⟩ := runPlanLoad_frame (startedState s i { hdr := h, op := .planLoad o }) (s.ref i) h room
    obtain ⟨own, ring⟩ := startedState_ring s i { hdr := h, op := .planLoad o }
    refine ⟨_, descriptorStarts s i { hdr := h, op := .planLoad o } _ rfl ready may, plans, ?_,
      (congrArg (fun u : State => { u with fns := s.fns, out := s.out, cnt := s.cnt }) rest :)⟩
    change ((runPlanLoad (startedState s i { hdr := h, op := .planLoad o }) (s.ref i) h o).ring (s.ref i)).cqTail = _
    unfold State.ring State.fnOf at ring ⊢
    rw [fns, ring]
  case small => exact exec_completes (d := { hdr := h, op := .planLoad o }) rfl ready may (if_pos small)
  case unknown =>
    refine exec_completes (d := { hdr := h, op := .planUnload n }) rfl ready may ?_
    change runPlanUnload (startedState s i { hdr := h, op := .planUnload n }) (s.ref i) h n = _
    unfold runPlanUnload
    rw [show planOf (startedState s i { hdr := h, op := .planUnload n }) (s.ref i).fn n = Option.none from none]
  case unload =>
    obtain ⟨marked, rest⟩ := runPlanUnload_marks (s := startedState s i { hdr := h, op := .planUnload n }) (r := s.ref i) (h := h) found
    obtain ⟨own, ring⟩ := startedState_ring s i { hdr := h, op := .planUnload n }
    have fns : (runPlanUnload (startedState s i { hdr := h, op := .planUnload n }) (s.ref i) h n).fns = _ := (congrArg State.fns rest :)
    refine ⟨_, descriptorStarts s i { hdr := h, op := .planUnload n } _ rfl ready may, marked, ?_, (congrArg (fun u : State => { u with fns := s.fns }) rest :)⟩
    change ((runPlanUnload (startedState s i { hdr := h, op := .planUnload n }) (s.ref i) h n).ring (s.ref i)).cqTail = _
    unfold State.ring State.fnOf at ring ⊢
    rw [fns, ring]
  case unpin =>
    obtain ⟨t, ran, completed, sched, rest⟩ := exec_pin ready may (runWardrobePin_unpin (s := startedState s i { hdr := h, op := .wardrobePin o }) found op) rfl
    exact ⟨t, ran, completed, sched ▸ fun m => setPin_pins _ _ _,
      sched ▸ fun m mem other => setPin_keeps (startedState s i { hdr := h, op := .wardrobePin o }) _ _ mem other, rest⟩
  case unknownPin =>
    exact exec_completes (d := { hdr := h, op := .wardrobePin o }) rfl ready may (runWardrobePin_unknown (s := startedState s i { hdr := h, op := .wardrobePin o }) none)
  case pin =>
    obtain ⟨t, ran, completed, sched, rest⟩ :=
      exec_pin ready may (runWardrobePin_resident (s := startedState s i { hdr := h, op := .wardrobePin o }) found op resident fits) (by unfold pinnedBy; split <;> rfl)
    refine ⟨t, ran, completed, fun one m => ?_, fun m mem other => ?_, rest⟩
    · rw [sched, pinnedBy, if_pos one]
      exact setPin_pins _ _ _
    · rw [sched, pinnedBy]
      split
      · exact setPin_keeps (startedState s i { hdr := h, op := .wardrobePin o }) _ _ mem other
      · exact mem
  case full =>
    exact exec_completes (d := { hdr := h, op := .wardrobePin o }) rfl ready may
      (runWardrobePin_full (s := startedState s i { hdr := h, op := .wardrobePin o }) found op full why)
  case loads =>
    have ran := (descriptorStarts s i { hdr := h, op := .wardrobePin o } _ rfl ready may).trans (congrArg Host.Outcome.next
      (runWardrobePin_loads (s := startedState s i { hdr := h, op := .wardrobePin o }) (r := s.ref i) (h := h) found op fits absent))
    obtain ⟨own, ring⟩ := startedState_ring s i { hdr := h, op := .wardrobePin o }
    exact ⟨_, ran, ⟨_, rfl, rfl, rfl⟩, (congrArg RingPair.cqTail ring :), rfl⟩

end Sys2Proof.Machine
end

section
/-! PROOF. SNAPSHOT, its capture and its gather (R458 to R461). -/

namespace Sys2Proof.Machine

open Sys2Proof

section
variable (s : State) (k : Fin 2) (b : Option Bank)

theorem bankOf_setBank_same : bankOf (setBank s k b) k = b := Vector.getElem_set_self _

theorem bankOf_setBank_other {k' : Fin 2} (other : k' ≠ k) : bankOf (setBank s k b) k' = bankOf s k' :=
  Vector.getElem_set_ne k.isLt k'.isLt fun same => other (Fin.ext same.symm)

/-- What a bank holds is of the banks alone. -/
theorem bankOf_congr {s t : State} (h : t.banks = s.banks) (k : Fin 2) : bankOf t k = bankOf s k := by
  unfold bankOf
  rw [h]

end

/-- The bank that a SNAPSHOT takes is free, or waits for the same tick and is not yet captured. -/
theorem snapshotBank_takes {s : State} {T : Nat} {k : Fin 2} (found : snapshotBank s T = some k) :
    bankOf s k = none ∨ ∃ b, bankOf s k = some b ∧ b.T = T ∧ b.taken = false := by
  unfold snapshotBank at found
  split at found
  case h_1 q search =>
    obtain rfl := Option.some.inj found
    have holds := List.find?_some search
    split at holds
    case h_1 b bank => exact .inr ⟨b, bank, by simpa using holds⟩
    case h_2 => exact nomatch holds
  case h_2 => exact .inl (by simpa using List.find?_some found)

/-- A SNAPSHOT that passes its checks joins the bank that it takes. -/
theorem runSnapshot_joins {s : State} {r : RingRef} {h : Hdr} {o : SnapshotOp} {k : Fin 2} (passes : snapshotCheck s r.fn o = none)
    (found : snapshotBank s o.T = some k) : ∃ b, runSnapshot s r h o = setBank s k (some b) ∧ b.T = o.T ∧ b.taken = false ∧
      b.joins.getLast? = some { r := r, hdr := h, op := o } := by
  unfold runSnapshot
  rw [passes]
  dsimp only
  rw [found]
  dsimp only
  obtain free | ⟨b, bank, time, taken⟩ := snapshotBank_takes found
  · rw [free]
    exact ⟨_, rfl, rfl, rfl, rfl⟩
  · rw [bank]
    exact ⟨_, rfl, time, taken, List.getLast?_concat⟩

/-! ### The gather -/

/-- One request of a bank is answered: its buffer is written, then its completion. -/
def gatherOne (b : Bank) (s : State) (j : SnapJoin) : State :=
  complete (s.hostWrite j.r.fn j.op.addr (snapshotBytes b j.r.fn j.op.mask)) j.r j.hdr 0x50 .ok (leBytes 8 b.T ++ leBytes 4 (snapshotSize j.r.fn j.op.mask))

section
variable (b : Bank) (s : State) (j : SnapJoin)

theorem gatherOne_writes : Output.hostWrite j.r.fn j.op.addr (snapshotBytes b j.r.fn j.op.mask) ∈ (gatherOne b s j).out :=
  sameCycle_sent (sameCycle_complete (sameCycle_refl _)) (List.mem_append_right _ (List.mem_singleton.mpr rfl))

theorem answersOnly_gatherOne : answersOnly s (gatherOne b s j) := answersOnly_trans (answersOnly_hostWrite ..) (answersOnly_complete ..)

theorem sameCycle_gatherOne {s₀ : State} (h : sameCycle s₀ s) : sameCycle s₀ (gatherOne b s j) := sameCycle_complete (sameCycle_emit h)

variable (js : List SnapJoin)

theorem answersOnly_gather : answersOnly s (js.foldl (gatherOne b) s) :=
  foldl_keeps (answersOnly s) _ (fun t j h => answersOnly_trans h (answersOnly_gatherOne b t j)) js s (answersOnly_refl s)

theorem gather_writes {j : SnapJoin} (mem : j ∈ js) : Output.hostWrite j.r.fn j.op.addr (snapshotBytes b j.r.fn j.op.mask) ∈ (js.foldl (gatherOne b) s).out := by
  obtain ⟨before, after, rfl⟩ := List.append_of_mem mem
  rw [List.foldl_append, List.foldl_cons]
  exact sameCycle_sent (foldl_keeps (sameCycle _) _ (fun t x => sameCycle_gatherOne b t x) after _ (sameCycle_refl _)) (gatherOne_writes ..)

end

theorem exec_gatherDone {s : State} {k : Fin 2} {b : Bank} (bank : bankOf s k = some b) (taken : b.taken = true) :
    exec (.snapshotGatherDone k) s = .next (b.joins.foldl (gatherOne b) (setBank s k none)) := by
  change execSnapshotGatherDone k s = _
  unfold execSnapshotGatherDone
  rw [bank]
  dsimp only
  rw [taken]
  rfl

theorem exec_capture {s : State} {k : Fin 2} {b : Bank} (bank : bankOf s k = some b) (untaken : b.taken = false) :
    exec (.snapshotCapture k) s = .next (setBank (passUntil s b.T) k
      (some { b with taken := true, shadow := (passUntil s b.T).cnt, acct := (passUntil s b.T).sched.acct.toList })) := by
  change execSnapshotCapture k s = _
  unfold execSnapshotCapture
  rw [bank]
  dsimp only
  rw [untaken]
  rfl

/-- Settles O35: the request joins its bank, the capture copies the counters as the tick finds them, and the gather answers each request and frees the bank. -/
theorem snapshots : Obligations.Snapshots := by
  intro s
  refine ⟨fun i h o k ready may passes found => ?request, fun k b bank untaken => ?capture, fun k b bank taken => ?gather⟩
  case request =>
    obtain ⟨b, run, time, taken, last⟩ := runSnapshot_joins (s := startedState s i { hdr := h, op := .snapshot o }) (r := s.ref i) (h := h) passes found
    exact ⟨_, (descriptorStarts s i { hdr := h, op := .snapshot o } _ rfl ready may).trans (congrArg Host.Outcome.next run),
      ⟨b, bankOf_setBank_same .., time, taken, last⟩, fun k' other => bankOf_setBank_other _ _ _ other, rfl⟩
  case capture =>
    have ticks : ticksOnly s (passUntil s b.T) := ticksOnly_passTime ..
    refine ⟨_, exec_capture bank untaken, ?_, fun k' other => ?_, fun running ahead fits => passUntil_now running ahead fits, ?_⟩
    · rw [bankOf_setBank_same, show (passUntil s b.T).sched = s.sched from (congrArg State.sched ticks :)]
      rfl
    · rw [bankOf_setBank_other _ _ _ other]
      exact bankOf_congr (congrArg State.banks ticks :) k'
    · exact (congrArg (fun u : State => { u with banks := s.banks }) ticks :)
  case gather =>
    have kept := answersOnly_gather b (setBank s k none) b.joins
    have banks : ∀ k', bankOf (b.joins.foldl (gatherOne b) (setBank s k none)) k' = bankOf (setBank s k none) k' := bankOf_congr (congrArg State.banks kept :)
    exact ⟨_, exec_gatherDone bank taken, (banks k).trans (bankOf_setBank_same ..), fun k' other => (banks k').trans (bankOf_setBank_other _ _ _ other),
      fun j mem => gather_writes b _ _ mem, (congrArg (fun u : State => { u with banks := s.banks }) kept :)⟩

end Sys2Proof.Machine
end

section
/-! PROOF. Jobs by descriptor (R254, R298, R353, R354, R498). -/

namespace Sys2Proof.Machine

open Sys2Proof

/-- A job under the next number. -/
def numbered (s : State) (j : Job) : Job := { j with id := s.sched.nextId }

section
variable {s : State} {r : RingRef} {h : Hdr}

/-- The state in which an image job is queued: its parameter block, where it has one, has been read. -/
def imageReads (s : State) (r : RingRef) (o : ImageReadOp) : State := if o.pbAddr = 0 then s else s.hostRead r.fn o.pbAddr o.pbLen

theorem startImage_queues {o : ImageReadOp} {aux : List Byte} (passes : imageStartCheck s r o aux = none) :
    startImage s r h o aux = serveImages (addJob (imageReads s r o) (imageJob (imageReads s r o) r h o aux false)).2 := by
  unfold startImage
  rw [passes]
  rfl

theorem imageReads_frame (s : State) (r : RingRef) (o : ImageReadOp) :
    (imageReads s r o).sched = s.sched ∧ { imageReads s r o with out := s.out, cnt := s.cnt } = s := by
  unfold imageReads
  split <;> exact ⟨rfl, rfl⟩

theorem startSeqStep_queues {o : SeqStepOp} {aux : List Byte} (passes : seqStartCheck s r o = none) :
    startSeqStep s r h o aux = (addJob (s.hostRead r.fn o.tokAddr (16 * o.tokCount)) (seqStepJob (s.hostRead r.fn o.tokAddr (16 * o.tokCount)) r h o aux false)).2 := by
  unfold startSeqStep
  rw [passes]
  rfl

variable {o : TestRunOp}

theorem runTestRun_idleWork (test : o.test = 1 ∨ o.test = 2) : runTestRun s r h o = schedule (addJob s (testJob s r h o .queued)).2 := by
  obtain test | test := test <;>
  · unfold runTestRun
    rw [test]
    rfl

theorem runTestRun_region (test : o.test = 3) : runTestRun s r h o =
    if (s.reg8 (Fin.ofNat 8 (o.tile / 32))).state = 2 then (addJob s (testJob s r h o .running)).2 else complete s r h 0x70 .badState [] := by
  unfold runTestRun
  rw [test]
  rfl

end

/-! ### TAILOR_STEP -/

section
variable {s t : State} {p : PlanRec}

/-- A plan's masters can be had: it has them, or the model store has the room. -/
theorem ensureMasters_isSome (s : State) (p : PlanRec) : (ensureMasters s p).isSome =
    ((mastersOf s p.handle).isSome || !decide (storeSize s < storeUsed s + 4 * (makeMasters p.c).length)) := by
  unfold ensureMasters
  cases mastersOf s p.handle with
  | some m => rfl
  | none =>
    dsimp only
    split <;> simp_all

/-- Making masters adds to them alone. -/
theorem ensureMasters_frame (made : ensureMasters s p = some t) : t.tailor.steps = s.tailor.steps ∧ t.sched = s.sched := by
  unfold ensureMasters at made
  split at made
  · obtain rfl := Option.some.inj made
    exact ⟨rfl, rfl⟩
  · dsimp only at made
    split at made
    · exact nomatch made
    · obtain rfl := Option.some.inj made
      exact ⟨rfl, rfl⟩

/-- A TAILOR_STEP that passes its checks adds its job and its running step. -/
theorem startTailor_queues {r : RingRef} {h : Hdr} {o : TailorStepOp} {aux : List Byte} {member : Bool} (found : planOf s r.fn o.plan = some p)
    (passes : tailorCheck p = none) (masters : (ensureMasters s p).isSome = true) : ∃ u j x,
      startTailor s r h o aux member = .ok (s.sched.nextId, tailorEmpty u s.sched.nextId) ∧ u.sched = { s.sched with jobs := s.sched.jobs ++ [j], nextId := s.sched.nextId + 1 } ∧
        j.id = s.sched.nextId ∧ j.hdr = h ∧ u.tailor.steps = s.tailor.steps ++ [x] ∧ x.job = s.sched.nextId ∧ x.plan = p.handle := by
  obtain ⟨v, made⟩ := Option.isSome_iff_exists.mp masters
  obtain ⟨steps, sched⟩ := ensureMasters_frame made
  unfold startTailor
  rw [found]
  dsimp only
  rw [passes]
  dsimp only
  rw [made]
  have id : v.sched.nextId = s.sched.nextId := congrArg (·.nextId) sched
  dsimp only [addJob]
  rw [id]
  exact ⟨_, _, _, rfl, by rw [sched], rfl, rfl, by rw [steps], rfl, rfl⟩

end

theorem exec_tailorStep_unknown {s : State} {i : RingId} {h : Hdr} {o : TailorStepOp} {aux : List Byte} (ready : readyFor s i = true)
    (may : mayStart s i { hdr := h, op := .tailorStep o aux } = true) (unknown : planOf s i.fn o.plan = none) :
    ∃ t, exec (.tailorStep i h o aux) s = .next t ∧ completedIn s t i h 0x12 .planUnknown [] ∧ answersOnly s t := by
  refine exec_completes (d := { hdr := h, op := .tailorStep o aux }) rfl ready may ?_
  change startTailorStep (startedState s i { hdr := h, op := .tailorStep o aux }) (s.ref i) h o aux = _
  unfold startTailorStep startTailor
  rw [show planOf ((startedState s i { hdr := h, op := .tailorStep o aux }).hostRead (s.ref i).fn o.listAddr o.listLen) (s.ref i).fn o.plan = none from unknown]

theorem exec_tailorStep_queues {s : State} {i : RingId} {h : Hdr} {o : TailorStepOp} {aux : List Byte} (ready : readyFor s i = true)
    (may : mayStart s i { hdr := h, op := .tailorStep o aux } = true) {p : PlanRec} (found : planOf s i.fn o.plan = some p) (passes : tailorCheck p = none)
    (masters : (ensureMasters s p).isSome = true) : ∃ u j x, exec (.tailorStep i h o aux) s = .next (serveImages (tailorEmpty u s.sched.nextId)) ∧
      u.sched = { s.sched with jobs := s.sched.jobs ++ [j], nextId := s.sched.nextId + 1 } ∧ j.id = s.sched.nextId ∧ j.hdr = h ∧
        u.tailor.steps = s.tailor.steps ++ [x] ∧ x.job = s.sched.nextId ∧ x.plan = p.handle := by
  let v := (startedState s i { hdr := h, op := .tailorStep o aux }).hostRead (s.ref i).fn o.listAddr o.listLen
  have room : (ensureMasters v p).isSome = true := by
    rw [ensureMasters_isSome] at masters ⊢
    exact masters
  obtain ⟨u, j, x, start, added⟩ := startTailor_queues (s := v) (r := s.ref i) (h := h) (aux := aux) (member := false) found passes room
  have run : startTailorStep (startedState s i { hdr := h, op := .tailorStep o aux }) (s.ref i) h o aux = serveImages (tailorEmpty u s.sched.nextId) := by
    unfold startTailorStep
    rw [show startTailor ((startedState s i { hdr := h, op := .tailorStep o aux }).hostRead (s.ref i).fn o.listAddr o.listLen) (s.ref i) h o aux false = _ from start]
    rfl
  exact ⟨u, j, x, (descriptorStarts s i { hdr := h, op := .tailorStep o aux } _ rfl ready may).trans (congrArg Host.Outcome.next run), added⟩

/-- Settles O37: a job's descriptor adds the job under the next number; a test or a TAILOR_STEP that cannot run completes with nothing added. -/
theorem jobs : Obligations.Jobs := by
  refine ⟨fun s i h => ⟨fun o aux ready may passes => ?image, fun o aux ready may passes => ?seq, fun o ready may test => ?idle, fun o ready may test drained => ?region,
    fun o ready may test serving => ?refused⟩, fun s i h o aux ready may =>
      ⟨fun unknown => exec_tailorStep_unknown ready may unknown, fun p found passes masters => exec_tailorStep_queues ready may found passes masters⟩⟩
  case image =>
    let v := startedState s i { hdr := h, op := .imageRead o aux }
    obtain ⟨sched, rest⟩ := imageReads_frame v (s.ref i) o
    refine ⟨(addJob (imageReads v (s.ref i) o) (imageJob (imageReads v (s.ref i) o) (s.ref i) h o aux false)).2,
      numbered s (imageJob (imageReads v (s.ref i) o) (s.ref i) h o aux false),
      (descriptorStarts s i { hdr := h, op := .imageRead o aux } _ rfl ready may).trans (congrArg Host.Outcome.next (startImage_queues passes)),
      ?_, rfl, rfl, rfl, rfl, rfl, rfl, rfl, (congrArg (fun u : State => { u with sched := s.sched, fns := s.fns, out := s.out, cnt := s.cnt }) rest :)⟩
    unfold addJob
    dsimp only
    rw [sched]
    rfl
  case seq =>
    exact ⟨_, numbered s _, (descriptorStarts s i { hdr := h, op := .seqStep o aux } _ rfl ready may).trans (congrArg Host.Outcome.next (startSeqStep_queues passes)),
      rfl, rfl, rfl, rfl, rfl, rfl, rfl, rfl, rfl⟩
  case idle =>
    exact ⟨_, numbered s _, (descriptorStarts s i { hdr := h, op := .testRun o } _ rfl ready may).trans (congrArg Host.Outcome.next (runTestRun_idleWork test)),
      rfl, rfl, rfl, rfl, rfl, rfl⟩
  case region =>
    exact ⟨_, numbered s _, (descriptorStarts s i { hdr := h, op := .testRun o } _ rfl ready may).trans
      (congrArg Host.Outcome.next ((runTestRun_region test).trans (if_pos drained))), rfl, rfl, rfl, rfl, rfl, rfl⟩
  case refused =>
    exact exec_completes (d := { hdr := h, op := .testRun o }) rfl ready may ((runTestRun_region test).trans (if_neg serving))

end Sys2Proof.Machine
end

section
/-! PROOF. CAL_RUN (R62): a request that another port's queue holds for this port starts in place of the one just made. -/

namespace Sys2Proof.Machine

open Sys2Proof Sys2Proof.Tests

/-- The header of the request that stands in another port's queue. -/
def hdrOther : Hdr := { hdr0 with tag := 5 }

/-- A module in which port 1's queue of calibrations holds a request that names port 0. -/
def calAstray : State := live.modPort 1 fun x => { x with calWait := [(live.ref pair0, hdrOther, ⟨0, 64, 0⟩)] }

/-- A CAL_RUN of port 0. -/
def calOp : CalRunOp := ⟨0, 64, 100000000⟩

theorem calAstray_ready : readyFor calAstray pair0 = true ∧ mayStart calAstray pair0 { hdr := hdr0, op := .calRun calOp } = true ∧ isStandby calAstray = false ∧
    (calAstray.lp (Fin.ofNat 4 calOp.port)).calWait = [] ∧ (calAstray.lp (Fin.ofNat 4 calOp.port)).armed = false ∧
    (calAstray.lp (Fin.ofNat 4 calOp.port)).cal = none ∧ (calAstray.track (portTrack calAstray (Fin.ofNat 4 calOp.port))).armed = false := by decide

/-- Port 0's own request starts first, and port 1's takes its place. -/
theorem calAstray_starts : ((runCalRun (startedState calAstray pair0 { hdr := hdr0, op := .calRun calOp }) (calAstray.ref pair0) hdr0 calOp).lp 0).cal.map (·.hdr) =
    some hdrOther := by decide

end Sys2Proof.Machine

open Sys2Proof Sys2Proof.Machine Sys2Proof.Tests

/-- Refutes O41: CAL_RUN of a free port starts its calibration, but the module then starts what waits on the other ports too, each on the port that its own request
names; where port 1's queue holds a request that names port 0, that request's calibration replaces the one just started. -/
theorem not_armAndCalibrate : ¬ Obligations.ArmAndCalibrate := by
  unfold Obligations.ArmAndCalibrate
  intro h
  obtain ⟨-, -, -, -, -, -, -, -, starts, -⟩ := h calAstray pair0 hdr0
  obtain ⟨ready, may, active, waits, armed, cal, track⟩ := calAstray_ready
  obtain ⟨t, run, ⟨c, found, -, own, -⟩, -⟩ := starts calOp ready may active waits armed cal track
  rw [descriptorStarts calAstray pair0 _ _ rfl ready may, Host.Outcome.next.injEq] at run
  have stands : (t.lp 0).cal.map (·.hdr) = some hdrOther := run ▸ calAstray_starts
  rw [show (t.lp 0).cal = some c from found] at stands
  exact absurd (own.symm.trans (Option.some.inj stands)) (by decide)
end

section
/-! PROOF. What the module's own work on jobs, pieces, posts and completions can change. One elementary change at a time (`Work`), with a place for further
changes; one lemma for each operation that schedules, ends or reports a job says that it makes only such changes. -/

namespace Sys2Proof.Machine

open Sys2Proof

/-! ### The elementary changes -/

/-- A job of this number has not ended. -/
def openJob (s : State) (n : Nat) : Prop := ∃ k ∈ s.sched.jobs, k.id = n ∧ k.state ≠ .done

/-- What a job keeps from its admission on: its number, its staging, what was noted on it and its images; and once its image is decoded, it is. -/
structure JobKept (j k : Job) : Prop where
  id : k.id = j.id
  staging : k.staging = j.staging
  note : k.note = j.note
  images : k.images = j.images
  decoded : j.decoded = true → k.decoded = true

/-- A completion changes of a pair only its tail, what runs on it, what is held and the count of its moderation. -/
def RingKept (g : RingPair → RingPair) : Prop :=
  ∀ x, { g x with cqTail := x.cqTail, running := x.running, held := x.held, unsignalled := x.unsignalled, firstUnsig := x.firstUnsig } = x

/-- One elementary change of the module's work; `extra` are the further changes that the case at hand allows. -/
inductive Work (extra : State → State → Prop) (s : State) : State → Prop
  | aside (out : List Output) (cnt : List (Nat × Word64)) (acc : List (Nat × Word32)) (transfers : List Transfer) (store : TileStore) (later : List (Nat × Word32))
      (waits : List PegWaitSt) (commitQ : List (Nat × FoldKey)) (pool : Pool) (engines : Vector Engine 8) (told : ∀ o ∈ s.out, o ∈ out) :
      Work extra s { s with out := out, cnt := cnt, acc := acc, transfers := transfers, store := store, pegs := { s.pegs with later := later, waits := waits },
                            commitQ := commitQ, pool := pool, engines := engines }
  | books (contexts : List (Nat × CtxPairs)) (models : List ModelSt) (loads : List LoadReq) (acct : Vector Acct 16) (rr laterFails : Nat)
      (ward : ∀ f : Fn, acct[f.val].wardBytes = s.sched.acct[f.val].wardBytes) :
      Work extra s { s with sched := { s.sched with contexts := contexts, models := models, loads := loads, acct := acct, rr := rr, laterFails := laterFails } }
  | jobs (g : Job → Job) (kept : ∀ j ∈ s.sched.jobs, JobKept j (g j) ∧ (j.state = .done → (g j).state = .done ∨ openJob s j.id)) :
      Work extra s { s with sched := { s.sched with jobs := s.sched.jobs.map g } }
  | unlist (n : Nat) : Work extra s (removeJob s n)
  | vector (f : Fn) (bits : List Nat) : Work extra s (s.modFn f fun x => { x with pendingBits := bits })
  | ring (r : RingRef) (g : RingPair → RingPair) (live : ringLive s r = true) (kept : RingKept g) : Work extra s (s.modRing r g)
  | waited (r : RingRef) : Work extra s (s.modRing r fun x => { x with pegWait := false })
  | fold (r : RingRef) (n : Nat) (g : FoldSt → FoldSt) (kept : ∀ f, { g f with members := f.members } = f) : Work extra s (modFold s r n g)
  | hold (t : Track) (g : TrackState → TrackState)
      (kept : ∀ x, { g x with hold := { (g x).hold with basket := x.hold.basket }, held := x.held } = x) : Work extra s (s.modTrack t g)
  | piece (t : Track) (n : Nat) (f : Piece → Piece) (kept : ∀ p, { f p with status := p.status, inFold := p.inFold } = p)
      (folded : ∀ p : Piece, p.inFold = true → (f p).inFold = true)
      (judged : (∀ p, (f p).status = p.status) ∨ ∃ p, findPiece s t n = some p ∧ p.live = true) : Work extra s (modPiece s t n f)
  | basket (building : List (Nat × Nat)) (more : List Post) (hold : Bool) :
      Work extra s { s with basket := { building := building, committed := s.basket.committed ++ more, hold := hold } }
  | health (count : Nat) (lost : Word32) (lostFlag : Bool) (seq : Nat) (last : List HealthEntry) (rising : s.health.seq ≤ seq) :
      Work extra s { s with health := { s.health with count := count, lost := lost, lostFlag := lostFlag, seq := seq, last := last } }
  | tile (t : Nat) (f : TileSt → TileSt) (kept : ∀ x, { f x with job := x.job, idleSince := x.idleSince } = x) : Work extra s (s.modTile t f)
  | olds (g : PlanRec → List OldLow) :
      Work extra s { s with plans := { s.plans with loaded := s.plans.loaded.map fun p => { p with olds := g p } } }
  | tailor (cache : List (Nat × Nat × Nat)) (steps : List TailorSt) (old : ∀ x ∈ steps, ∃ y ∈ s.tailor.steps, y.job = x.job) :
      Work extra s { s with tailor := { s.tailor with cache := cache, steps := steps } }
  | extra {t : State} (more : extra s t) : Work extra s t

/-- Any number of elementary changes. -/
def Works (extra : State → State → Prop) : State → State → Prop := Relation.ReflTransGen (Work extra)

section
variable {E : State → State → Prop} {s₀ s t : State}

theorem works_refl (s : State) : Works E s s := .refl

theorem works_trans {u : State} (h : Works E s t) (k : Works E t u) : Works E s u := Relation.ReflTransGen.trans h k

/-- A property that every elementary change keeps is kept. -/
theorem works_keep {P : State → Prop} (each : ∀ s t, Work E s t → P s → P t) (h : Works E s t) (start : P s) : P t := by
  induction h with
  | refl => exact start
  | tail _ last ih => exact each _ _ last ih

/-- What every elementary change leaves is left. -/
theorem works_same {α : Sort*} {f : State → α} (each : ∀ s t, Work E s t → f t = f s) (h : Works E s t) : f t = f s :=
  works_keep (P := fun u => f u = f s) (fun _ _ w k => (each _ _ w).trans k) h rfl

theorem works_ite {c : Prop} [Decidable c] (h : Works E s₀ s) (k : Works E s₀ t) : Works E s₀ (if c then s else t) := by
  split
  · exact h
  · exact k

theorem works_when {c : Prop} [Decidable c] (f : Works E s₀ s → Works E s₀ t) (h : Works E s₀ s) : Works E s₀ (if c then t else s) := works_ite (f h) h

theorem works_unless {c : Prop} [Decidable c] (f : Works E s₀ s → Works E s₀ t) (h : Works E s₀ s) : Works E s₀ (if c then s else t) := works_ite h (f h)

theorem works_foldl {α : Type} {f : State → α → State} {xs : List α} (h : Works E s₀ s) (hf : ∀ s a, Works E s₀ s → Works E s₀ (f s a)) :
    Works E s₀ (xs.foldl f s) := foldl_keeps (Works E s₀) f hf xs s h

/-! ### Updates of one part of the state -/

theorem works_emit {o} (h : Works E s₀ s) : Works E s₀ (s.emit o) := h.tail (.aside _ _ _ _ _ _ _ _ _ _ fun _ kept => List.mem_append_left _ kept)
theorem works_countN {a b c n} (h : Works E s₀ s) : Works E s₀ (s.countN a b c n) := h.tail (.aside _ _ _ _ _ _ _ _ _ _ fun _ kept => kept)
theorem works_chipCnt {i n} (h : Works E s₀ s) : Works E s₀ (s.chipCnt i n) := works_countN h
theorem works_laterPeg {p v} (h : Works E s₀ s) : Works E s₀ (s.laterPeg p v) := h.tail (.aside _ _ _ _ _ _ _ _ _ _ fun _ kept => kept)
theorem works_setMark {a m} (h : Works E s₀ s) : Works E s₀ (setMark s a m) := h.tail (.aside _ _ _ _ _ _ _ _ _ _ fun _ kept => kept)
theorem works_store {v} (h : Works E s₀ s) : Works E s₀ { s with store := v } := h.tail (.aside _ _ _ _ _ _ _ _ _ _ fun _ kept => kept)
theorem works_noteCorrected {a} (h : Works E s₀ s) : Works E s₀ (noteCorrected s a) := works_store (works_countN h)
theorem works_pool {v} (h : Works E s₀ s) : Works E s₀ { s with pool := v } := h.tail (.aside _ _ _ _ _ _ _ _ _ _ fun _ kept => kept)
theorem works_modSeq {n f} (h : Works E s₀ s) : Works E s₀ (modSeq s n f) := works_pool h
theorem works_startWalk {p} (h : Works E s₀ s) : Works E s₀ (startWalk s p) := works_pool h
theorem works_endWalk {p} (h : Works E s₀ s) : Works E s₀ (endWalk s p) := works_pool h
theorem works_modTransfer {x f} (h : Works E s₀ s) : Works E s₀ (modTransfer s x f) := h.tail (.aside _ _ _ _ _ _ _ _ _ _ fun _ kept => kept)
theorem works_setEngine {k e} (h : Works E s₀ s) : Works E s₀ (setEngine s k e) := h.tail (.aside _ _ _ _ _ _ _ _ _ _ fun _ kept => kept)
theorem works_hostWrite {f a b} (h : Works E s₀ s) : Works E s₀ (s.hostWrite f a b) := works_chipCnt (works_emit h)
theorem works_hostRead {f a n} (h : Works E s₀ s) : Works E s₀ (s.hostRead f a n) := works_chipCnt (works_emit h)

theorem works_modTile {n f} (kept : ∀ x : TileSt, { f x with job := x.job, idleSince := x.idleSince } = x) (h : Works E s₀ s) : Works E s₀ (s.modTile n f) :=
  h.tail (.tile _ _ kept)

theorem works_raiseVec {f v} (h : Works E s₀ s) : Works E s₀ (s.raiseVec f v) := works_ite (h.tail (.vector _ _)) (works_emit h)
theorem works_raiseEvent {f} (h : Works E s₀ s) : Works E s₀ (s.raiseEvent f) := works_raiseVec h

/-- Jobs that stay what they were, but for their state, which may leave DONE only beside one that has not ended. -/
theorem works_modJob {n f} (kept : ∀ j, JobKept j (f j)) (ended : ∀ j : Job, j.state = .done → (f j).state = .done) (h : Works E s₀ s) : Works E s₀ (modJob s n f) := by
  refine h.tail (.jobs _ fun j _ => ?_)
  split
  · exact ⟨kept j, fun k => .inl (ended j k)⟩
  · exact ⟨⟨rfl, rfl, rfl, rfl, id⟩, .inl⟩

theorem works_modOpenJob {n f} (kept : ∀ j, JobKept j (f j)) (running : openJob s n) (h : Works E s₀ s) : Works E s₀ (modJob s n f) := by
  refine h.tail (.jobs _ fun j _ => ?_)
  split
  · next hit => exact ⟨kept j, fun _ => .inr (by rwa [beq_iff_eq.mp hit])⟩
  · exact ⟨⟨rfl, rfl, rfl, rfl, id⟩, .inl⟩

theorem works_modLane {n k f} (h : Works E s₀ s) : Works E s₀ (modLane s n k f) := works_modJob (fun _ => ⟨rfl, rfl, rfl, rfl, id⟩) (fun _ => id) h

theorem works_setFault {n st a b} (h : Works E s₀ s) : Works E s₀ (setFault s n st a b) := works_modJob (fun _ => ⟨rfl, rfl, rfl, rfl, id⟩) (fun _ => id) h

theorem works_removeJob {n} (h : Works E s₀ s) : Works E s₀ (removeJob s n) := h.tail (.unlist n)

theorem works_modAcct {f g} (ward : ∀ a : Acct, (g a).wardBytes = a.wardBytes) (h : Works E s₀ s) : Works E s₀ (modAcct s f g) := by
  refine h.tail (.books _ _ _ _ _ _ fun k => ?_)
  by_cases same : f.val = k.val
  · simp [same, ward]
  · rw [Vector.getElem_set_ne f.isLt k.isLt same]

theorem works_contexts {v} (h : Works E s₀ s) : Works E s₀ { s with sched := { s.sched with contexts := v } } := h.tail (.books _ _ _ _ _ _ fun _ => rfl)
theorem works_placeLeft {v a} (h : Works E s₀ s) : Works E s₀ { s with sched := { s.sched with contexts := v }, acc := a } :=
  (works_contexts (v := v) h).tail (.aside _ _ _ _ _ _ _ _ _ _ fun _ kept => kept)

theorem works_touchModel {j} (h : Works E s₀ s) : Works E s₀ (touchModel s j) := h.tail (.books _ _ _ _ _ _ fun _ => rfl)

theorem works_dropOldModels (h : Works E s₀ s) : Works E s₀ (dropOldModels s) := by
  refine (h.tail (.olds fun p => p.olds.filter fun o => s.sched.jobs.any fun j => j.started && j.plan == p.handle && j.revision == o.revision)).tail ?_
  exact .books s.sched.contexts (dropOldModels s).sched.models s.sched.loads s.sched.acct s.sched.rr s.sched.laterFails fun _ => rfl

theorem works_requestLoad {p b} (h : Works E s₀ s) : Works E s₀ (requestLoad s p b) := works_ite h (h.tail (.books _ _ _ _ _ _ fun _ => rfl))

/-! ### Completions and the health log -/

theorem ringLive_modRing (r : RingRef) (g : RingPair → RingPair) (kept : RingKept g) : ringLive (s.modRing r g) r = ringLive s r := by
  have sound := kept (s.ring r)
  have enable := congrArg RingPair.enable sound
  have fault := congrArg RingPair.fault sound
  have gen := congrArg RingPair.gen sound
  unfold ringLive
  rw [State.modRing_same]
  exact congrArg₂ _ (congrArg₂ _ enable (congrArg _ fault)) (congrArg (· == r.gen) gen)

theorem works_moderate {r b} (live : ringLive s r = true) (h : Works E s₀ s) : Works E s₀ (moderate s r b) :=
  works_ite (works_raiseVec (h.tail (.ring _ _ live fun _ => rfl))) (h.tail (.ring _ _ live fun _ => rfl))

theorem works_writeCompl {r c} (live : ringLive s r = true) (h : Works E s₀ s) : Works E s₀ (writeCompl s r c) := by
  have taken : RingKept fun x => { x with cqTail := x.cqTail + 1, running := dropTag c.hdr.tag x.running } := fun _ => rfl
  refine works_moderate ?_ (works_when works_laterPeg ((works_hostWrite h).tail (.ring _ _ live taken)))
  refine Eq.trans ?_ ((ringLive_modRing r _ taken).trans live)
  split <;> rfl

theorem works_postCompl {r c} (h : Works E s₀ s) : Works E s₀ (postCompl s r c) := by
  unfold postCompl
  split
  · exact h
  next dead =>
    have live : ringLive s r = true := by simpa using dead
    exact works_ite (works_writeCompl live h) (h.tail (.ring _ _ live fun _ => rfl))

theorem works_complete {r k n st x} (h : Works E s₀ s) : Works E s₀ (complete s r k n st x) := works_postCompl h

theorem works_logHealth {e} (h : Works E s₀ s) : Works E s₀ (logHealth s e) := by
  unfold logHealth
  dsimp only
  split
  · refine works_raiseEvent (works_laterPeg (works_hostWrite ?_))
    split
    · exact h.tail (.health _ _ _ _ _ (Nat.le_succ _))
    · exact h.tail (.health _ _ _ _ _ (Nat.le_succ _))
  · split
    · exact h.tail (.health _ _ _ _ _ (Nat.le_succ _))
    · exact h.tail (.health _ _ _ _ _ (Nat.le_succ _))

/-! ### The tile store -/

theorem works_readWord {a} (h : Works E s₀ s) : Works E s₀ (readWord s a).2.2 := works_ite (works_noteCorrected h) (works_ite (works_countN h) h)

theorem works_readVia {at?} {a n : Nat} (f : Nat) (h : Works E s₀ s) : Works E s₀ (readVia at? s a n f).2.2 := by
  induction f generalizing s a n with
  | zero => exact h
  | succ f ih =>
    unfold readVia
    split
    · exact h
    · dsimp only
      split
      · exact ih h
      · exact ih (works_readWord h)

theorem works_readBytes {a n} (h : Works E s₀ s) : Works E s₀ (readBytes s a n).2.2 := works_readVia _ h

theorem works_writeWord {a bs} (h : Works E s₀ s) : Works E s₀ (writeWord s a bs).2 := by
  unfold writeWord
  dsimp only
  split
  · exact works_countN h
  · exact works_when works_store (works_unless works_setMark (works_store (works_when works_noteCorrected h)))

theorem works_writeVia {at?} {a bs} (f : Nat) (h : Works E s₀ s) : Works E s₀ (writeVia at? s a bs f).2 := by
  induction f generalizing s a bs with
  | zero => exact h
  | succ f ih =>
    unfold writeVia
    split
    · exact h
    · dsimp only
      split
      · exact ih h
      · exact ih (works_writeWord h)

theorem works_writeBytes {a bs} (h : Works E s₀ s) : Works E s₀ (writeBytes s a bs).2 := works_writeVia _ h

theorem works_logWords {f as} (h : Works E s₀ s) : Works E s₀ (logWords s f as) := works_foldl h fun _ _ => works_logHealth

theorem works_dropRef {p q} (h : Works E s₀ s) : Works E s₀ (dropRef s p q) := works_ite (works_pool (works_pool h)) (works_pool h)

theorem works_dropOne {p n k} (h : Works E s₀ s) : Works E s₀ (dropOne p n s k) := by
  unfold dropOne
  split
  · exact works_modSeq (works_dropRef h)
  · exact h

/-! ### Jobs: their places and their end -/

theorem works_holdTiles {j ts} (h : Works E s₀ s) : Works E s₀ (holdTiles s j ts) := works_foldl h fun _ _ => works_modTile fun _ => rfl

theorem works_freeLane {j l} (h : Works E s₀ s) : Works E s₀ (freeLane j s l) := by
  have freed : Works E s₀ (l.tiles.foldl (fun s t => s.modTile t fun x => { x with job := none, idleSince := s.now }) s) :=
    works_foldl h fun _ _ => works_modTile fun _ => rfl
  unfold freeLane
  dsimp only
  generalize l.tiles.foldl (fun s t => s.modTile t fun x => { x with job := none, idleSince := s.now }) s = u at freed
  refine works_modLane ?_
  split
  · exact works_placeLeft (works_store freed)
  · exact works_placeLeft freed

theorem works_releaseJob {j} (h : Works E s₀ s) : Works E s₀ (releaseJob s j) :=
  works_modJob (fun _ => ⟨rfl, rfl, rfl, rfl, id⟩) (fun _ => id)
    ((works_when works_endWalk (works_foldl h fun _ _ => works_freeLane)).tail (.aside _ _ _ _ _ _ _ _ _ _ fun _ kept => kept))

theorem works_finishJob {j b} (h : Works E s₀ s) : Works E s₀ (finishJob s j b) :=
  have released := works_releaseJob h
  works_when (fun k => works_chipCnt (works_modAcct (fun _ => rfl) k))
    (works_ite (works_modJob (fun _ => ⟨rfl, rfl, rfl, rfl, id⟩) (fun _ _ => rfl) released) (works_dropOldModels (works_removeJob released)))

/-! ### The basket, folds and verdicts -/

theorem works_setBasketCause {b} (h : Works E s₀ s) : Works E s₀ (setBasketCause s b) :=
  works_foldl h fun _ _ h => works_ite h (h.tail (.hold _ _ fun _ => rfl))

theorem works_basket {b m e} (h : Works E s₀ s) : Works E s₀ { s with basket := { building := b, committed := s.basket.committed ++ m, hold := e } } :=
  h.tail (.basket _ _ _)

theorem works_basketKept {b e} (h : Works E s₀ s) : Works E s₀ { s with basket := { building := b, committed := s.basket.committed, hold := e } } := by
  simpa using works_basket (b := b) (m := []) (e := e) h

theorem works_basketMarks (h : Works E s₀ s) : Works E s₀ (basketMarks s) :=
  works_ite (works_setBasketCause (works_chipCnt (works_basketKept h))) (works_ite (works_setBasketCause (works_basketKept h)) h)

theorem works_commitPost {k p} (h : Works E s₀ s) : Works E s₀ (commitPost s k p) := works_basketMarks (works_basket h)

theorem works_discardBuilding {k} (h : Works E s₀ s) : Works E s₀ (discardBuilding s k) := works_basketMarks (works_basketKept h)

theorem works_reachCommit {k} (h : Works E s₀ s) : Works E s₀ (reachCommit s k) := works_ite h (h.tail (.aside _ _ _ _ _ _ _ _ _ _ fun _ kept => kept))

theorem works_checkFold {r n} (h : Works E s₀ s) : Works E s₀ (checkFold s r n) := by
  unfold checkFold
  split
  · exact works_ite (works_reachCommit h) h
  · exact h

theorem works_memberEnded {r j st x p} (h : Works E s₀ s) : Works E s₀ (memberEnded s r j st x p) := by
  unfold memberEnded
  split
  · exact h
  · exact works_checkFold (h.tail (.fold _ _ _ fun _ => rfl))

theorem works_reportJob {j st x p} (h : Works E s₀ s) : Works E s₀ (reportJob s j st x p) := by
  unfold reportJob
  split
  · exact works_discardBuilding h
  · refine works_ite (works_ite (works_memberEnded h) (works_discardBuilding h)) ?_
    dsimp only
    split
    · exact works_commitPost h
    · exact works_postCompl (works_discardBuilding h)

theorem works_stopPiece {t n} (h : Works E s₀ s) : Works E s₀ (stopPiece s t n) := works_pool (works_foldl h fun _ _ => works_finishJob)

theorem works_verdictFold {t n} (h : Works E s₀ s) : Works E s₀ (verdictFold s t n) :=
  have folded : Works E s₀ (modPiece s t n fun p => { p with inFold := true }) := h.tail (.piece _ _ _ (fun _ => rfl) (fun _ _ => rfl) (.inl fun _ => rfl))
  works_ite (works_reachCommit folded) folded

theorem works_discardPiece {t n st} (h : Works E s₀ s) : Works E s₀ (discardPiece s t n st) := by
  unfold discardPiece
  split
  next p found =>
    split
    next live => exact works_verdictFold (works_stopPiece (h.tail (.piece _ _ _ (fun _ => rfl) (fun _ => id) (.inr ⟨p, found, live⟩))))
    next => exact h
  · exact h

theorem works_seqEnded {t n} (h : Works E s₀ s) : Works E s₀ (seqEnded s t n) := by
  unfold seqEnded
  split
  · exact works_ite (works_verdictFold (works_stopPiece h)) h
  · exact h

/-! ### Steps of sequences and failing jobs -/

theorem works_failSeqStep {q st} (h : Works E s₀ s) : Works E s₀ (failSeqStep s q st) := by
  unfold failSeqStep
  split
  · exact works_modSeq (works_removeJob (works_reportJob h))
  · exact works_modSeq h

theorem works_endSeq {q st} (h : Works E s₀ s) : Works E s₀ (endSeq s q st) := by
  unfold endSeq
  dsimp only
  split
  · exact works_discardPiece (works_modSeq h)
  · exact works_failSeqStep (works_modSeq h)

theorem works_releaseSeq {q} (h : Works E s₀ s) : Works E s₀ (releaseSeq s q) := by
  refine works_ite h ?_
  split
  · exact works_seqEnded h
  · exact works_ite (works_failSeqStep h) h

theorem works_stepFailOne {p st q} (h : Works E s₀ s) : Works E s₀ (stepFailOne p st s q) := by
  unfold stepFailOne
  split
  · exact h
  · split
    · exact works_endSeq h
    · exact works_failSeqStep (works_modSeq (works_foldl h fun _ _ => works_dropOne))

theorem works_failStep {j st} (h : Works E s₀ s) : Works E s₀ (failStep s j st) := by
  unfold failStep
  split
  · exact works_finishJob h
  · exact works_foldl (works_finishJob h) fun _ _ => works_stepFailOne

theorem works_dropTailor {n : Nat} (h : Works E s₀ s) :
    Works E s₀ { s with tailor := { s.tailor with steps := s.tailor.steps.filter fun x => x.job != n } } :=
  h.tail (.tailor _ _ fun x mem => ⟨x, (List.mem_filter.mp mem).1, rfl⟩)

theorem works_failJob {j st x} (h : Works E s₀ s) : Works E s₀ (failJob s j st x) := by
  unfold failJob
  split
  · exact works_discardPiece (works_finishJob h)
  · exact works_failStep h
  · exact works_finishJob (works_dropTailor (works_ite (works_discardBuilding h) (works_reportJob h)))

end

end Sys2Proof.Machine
end

section
/-! PROOF. The scheduler, the codec engines and the staging make only the elementary changes of the module's work. -/

namespace Sys2Proof.Machine

open Sys2Proof

/-! ### Sorting keeps the elements -/

section
variable {α : Type} {le : α → α → Bool}

theorem mem_insertBy {x y : α} {ys : List α} : y ∈ insertBy le x ys ↔ y = x ∨ y ∈ ys := by
  induction ys with
  | nil => simp [insertBy]
  | cons z zs ih =>
    unfold insertBy
    split
    · rw [List.mem_cons, ih, List.mem_cons]
      tauto
    · simp

theorem mem_sortBy {y : α} {xs : List α} : y ∈ sortBy le xs ↔ y ∈ xs := by
  suffices general : ∀ acc : List α, y ∈ xs.foldl (fun acc x => insertBy le x acc) acc ↔ y ∈ acc ∨ y ∈ xs by simpa [sortBy] using general []
  induction xs with
  | nil => simp
  | cons x xs ih =>
    intro acc
    rw [List.foldl_cons, ih, mem_insertBy, List.mem_cons]
    tauto

end

section
variable {E : State → State → Prop} {s₀ s t : State}

/-! ### Starting jobs -/

theorem openJob_of_mem {j : Job} (mem : j ∈ s.sched.jobs) (running : j.state ≠ .done) : openJob s j.id := ⟨j, mem, rfl, running⟩

/-- Making a job READY ends none. -/
theorem openJob_makeReady {n : Nat} (j : Job) (h : openJob s n) : openJob (makeReady s j) n := by
  obtain ⟨k, mem, num, running⟩ := h
  cases same : k.id == j.id with
  | true => exact ⟨_, mem_mapWhere_hit mem same, num, nofun⟩
  | false => exact ⟨k, mem_mapWhere_pass mem same, num, running⟩

theorem works_makeReady {j : Job} (running : openJob s j.id) (h : Works E s₀ s) : Works E s₀ (makeReady s j) :=
  works_modOpenJob (fun _ => ⟨rfl, rfl, rfl, rfl, id⟩) running h

/-- A fold that makes some of the jobs it goes over READY. -/
theorem works_readying {f : State → Job → State} (each : ∀ s j, f s j = s ∨ f s j = makeReady s j) (js : List Job) (running : ∀ j ∈ js, openJob s j.id)
    (h : Works E s₀ s) : Works E s₀ (js.foldl f s) := by
  induction js generalizing s with
  | nil => exact h
  | cons j js ih =>
    have rest : ∀ k ∈ js, openJob s k.id := fun k mem => running k (List.mem_cons_of_mem _ mem)
    rw [List.foldl_cons]
    rcases each s j with same | ready
    · rw [same]
      exact ih rest h
    · rw [ready]
      exact ih (fun k mem => openJob_makeReady j (rest k mem)) (works_makeReady (running j List.mem_cons_self) h)

theorem works_admitWaiting (h : Works E s₀ s) : Works E s₀ (admitWaiting s) := by
  refine works_readying (fun s j => ?_) _ (fun j mem => ?_) h
  · have readied : (match findPlan s j.plan with
        | some p => if busyJobs s j.plan < p.c.concurrency then makeReady s j else s
        | none => s) = s ∨ (match findPlan s j.plan with
        | some p => if busyJobs s j.plan < p.c.concurrency then makeReady s j else s
        | none => s) = makeReady s j := by
      split
      · split
        · exact .inr rfl
        · exact .inl rfl
      · exact .inl rfl
    split
    · exact .inl rfl
    · exact .inr rfl
    · split
      · exact .inl rfl
      · exact readied
    · exact readied
  · obtain ⟨listed, queued⟩ := List.mem_filter.mp (mem_sortBy.mp mem)
    obtain ⟨queued, -⟩ : j.state = .queued ∧ j.inputReady = true := by simpa using queued
    exact openJob_of_mem listed (by rw [queued]; nofun)

theorem works_takePlace {j c e} (h : Works E s₀ s) : Works E s₀ (takePlace j c s e) :=
  works_modLane (works_when works_countN (works_holdTiles (works_contexts h)))

theorem works_jobsKept {g : Job → Job} (kept : ∀ j, JobKept j (g j)) (ended : ∀ j, j.state = .done → (g j).state = .done) {v : Nat} (h : Works E s₀ s) :
    Works E s₀ { s with sched := { s.sched with rr := v, jobs := s.sched.jobs.map g } } :=
  (h.tail (.jobs g fun j _ => ⟨kept j, fun k => .inl (ended j k)⟩)).tail
    (.books s.sched.contexts s.sched.models s.sched.loads s.sched.acct v s.sched.laterFails fun _ => rfl)

theorem works_bindJob {j : Job} {c ps} (running : openJob s j.id) (h : Works E s₀ s) : Works E s₀ (bindJob s j c ps) := by
  unfold bindJob
  dsimp only
  refine works_touchModel (works_modAcct (fun _ => rfl) (works_unless works_chipCnt (works_foldl (works_jobsKept (fun x => ?_) (fun x => ?_) ?_) fun _ _ => works_takePlace)))
  · split <;> exact ⟨rfl, rfl, rfl, rfl, id⟩
  · split <;> exact id
  · exact works_modOpenJob (fun _ => ⟨rfl, rfl, rfl, rfl, id⟩) running h

theorem works_startAll (f : Nat) (h : Works E s₀ s) : Works E s₀ (startAll s f) := by
  induction f generalizing s with
  | zero => exact h
  | succ f ih =>
    unfold startAll
    split
    next found =>
      obtain ⟨j, mem, started⟩ := List.exists_of_findSome?_eq_some found
      obtain ⟨listed, startable⟩ := List.mem_filter.mp (mem_sortBy.mp mem)
      have running : j.state ≠ .done := by
        intro ended
        simp [ended] at startable
      unfold tryStart at started
      split at started
      · exact ih (Option.some.inj started ▸ works_bindJob (openJob_of_mem listed running) h)
      · cases started
    next => exact h

theorem works_askModels (h : Works E s₀ s) : Works E s₀ (askModels s) := by
  refine works_foldl h fun s j h => ?_
  split
  · exact works_ite (works_requestLoad h) h
  · exact h

theorem works_preempt {j} (h : Works E s₀ s) : Works E s₀ (preempt s j) :=
  works_ite (works_foldl h fun _ _ => works_modJob (fun _ => ⟨rfl, rfl, rfl, rfl, id⟩) fun _ => id) h

theorem works_runSched (h : Works E s₀ s) : Works E s₀ (runSched s) :=
  works_ite h (works_foldl (works_askModels (works_startAll _ (works_admitWaiting h))) fun _ _ => works_preempt)

/-! ### Lanes: their rows, their transfers and their segments -/

theorem works_feedRow {c u v i bs} (h : Works E s₀ s) : Works E s₀ (feedRow c u v s i bs) := by
  refine works_foldl h fun s k h => ?_
  dsimp only
  split
  · exact works_writeWord h
  · exact h

theorem works_feedLane {p j l} (h : Works E s₀ s) : Works E s₀ (feedLane p j s l) := by
  unfold feedLane
  split
  · exact works_ite h (works_unless (fun h => works_modLane (works_foldl h fun _ _ => works_feedRow)) h)
  · exact h

theorem works_feedLanes (h : Works E s₀ s) : Works E s₀ (feedLanes s) := by
  refine works_foldl h fun s j h => ?_
  split
  · exact works_foldl h fun _ _ => works_feedLane
  · exact h

theorem works_takeTransfer {x} (h : Works E s₀ s) : Works E s₀ (takeTransfer s x) := by
  unfold takeTransfer
  split
  · exact h
  next l c _ =>
    have read {at? f as g} : Works E s₀ (modTransfer (logWords (readVia at? s x.addr x.len (x.len + 1)).2.2 f as) x g) :=
      works_modTransfer (works_logWords (works_readVia _ h))
    have counted {u} (k : Works E s₀ u) : Works E s₀ (match lanePhys c l.tiles false (placeOf x.addr) with
        | some a => u.countN famTile (tsTile a) 8 x.len
        | none => u) := by
      split
      · exact works_countN k
      · exact k
    dsimp only
    split
    · exact works_setFault (counted read)
    · exact works_setFault (counted read)
    · exact counted read

theorem works_takeWaiting {j k} (h : Works E s₀ s) : Works E s₀ (takeWaiting s j k) := works_foldl h fun _ _ => works_takeTransfer

theorem works_copyPrograms {p l} (h : Works E s₀ s) : Works E s₀ (copyPrograms s p l) := by
  refine works_ite h (works_foldl h fun s g h => ?_)
  split
  · exact works_writeBytes (works_logWords (works_readBytes h))
  · exact h

theorem works_startLane {j l} (h : Works E s₀ s) : Works E s₀ (startLane s j l) := by
  refine works_modJob (fun _ => ⟨rfl, rfl, rfl, rfl, id⟩) (fun _ => id) (works_when works_startWalk ?_)
  split
  · exact works_copyPrograms (works_countN h)
  · exact works_countN h

theorem works_goLane {j k} (h : Works E s₀ s) : Works E s₀ (goLane j s k) := by
  unfold goLane
  split
  · exact h
  · split
    · exact h
    · exact works_ite h (works_ite (works_modLane h) (works_when works_startLane h))

theorem works_goJob {j} (h : Works E s₀ s) : Works E s₀ (goJob s j) := by
  unfold goJob
  split
  · exact h
  · refine works_ite h ?_
    split
    · exact works_failJob h
    · exact works_foldl (works_foldl h fun _ _ => works_freeLane) fun _ _ => works_goLane

theorem works_goLanes (h : Works E s₀ s) : Works E s₀ (goLanes s) := works_foldl (works_feedLanes h) fun _ _ => works_goJob

theorem works_placeLane {j l} (h : Works E s₀ s) (placed : placeLane s j l = some t) : Works E s₀ t := by
  unfold placeLane at placed
  split at placed
  · exact Option.some.inj placed ▸ works_ite (works_failJob h) (works_takeWaiting (works_takePlace h))
  · cases placed

theorem works_placeLanes (h : Works E s₀ s) : Works E s₀ (placeLanes s) := by
  refine works_ite h (works_foldl h fun s j h => ?_)
  split
  next l _ =>
    cases placed : placeLane s j l with
    | none => exact h
    | some t => exact works_placeLane h placed
  next => exact h

theorem works_schedule (h : Works E s₀ s) : Works E s₀ (schedule s) := works_goLanes (works_runSched (works_placeLanes h))

/-! ### Images and tailoring -/

/-- A job gets staging. -/
def Granted (s t : State) : Prop := ∃ n k, t = modJob s n fun x => { x with staging := k }

theorem works_touchCache {f k} (h : Works E s₀ s) : Works E s₀ (touchCache s f k) := h.tail (.tailor _ _ fun x mem => ⟨x, mem, rfl⟩)

theorem works_modSample {j k f} (h : Works E s₀ s) : Works E s₀ (modSample s j k f) := by
  refine h.tail (.tailor s.tailor.cache _ fun x mem => ?_)
  obtain ⟨y, old, rfl⟩ := exists_of_mem_mapWhere mem
  refine ⟨y, old, ?_⟩
  split <;> rfl

theorem works_takeCached {j} (h : Works E s₀ s) : Works E s₀ (takeCached s j) := by
  unfold takeCached
  split
  · exact h
  · refine works_foldl h fun s x h => ?_
    split
    · exact works_when (fun h => works_modJob (fun _ => ⟨rfl, rfl, rfl, rfl, fun _ => rfl⟩) (fun _ => id) (works_modSample (works_touchCache h))) h
    · exact h

theorem works_decodeRead {j i} (h : Works E s₀ s) : Works E s₀ (decodeRead s j i) := by
  unfold decodeRead
  split
  · exact works_hostRead h
  · split
    · exact works_hostRead h
    · exact h
  · exact h

theorem works_giveEngines (h : Works E s₀ s) : Works E s₀ (giveEngines s) := by
  refine works_foldl h fun s w h => ?_
  split
  · exact h
  · dsimp only
    split
    · exact works_decodeRead (works_setEngine h)
    · exact works_setEngine h

section
variable (grant : ∀ s t, Granted s t → E s t)
include grant

theorem works_grantStaging (h : Works E s₀ s) : Works E s₀ (grantStaging s) :=
  works_foldl h fun _ _ => works_when fun h => works_takeCached (h.tail (.extra (grant _ _ ⟨_, _, rfl⟩)))

theorem works_serveImages (h : Works E s₀ s) : Works E s₀ (serveImages s) := works_schedule (works_giveEngines (works_grantStaging grant h))

theorem works_endTailor {j st x} (h : Works E s₀ s) : Works E s₀ (endTailor s j st x) :=
  works_serveImages grant (works_finishJob (works_dropTailor (works_reportJob h)))

end

end

end Sys2Proof.Machine
end

section
/-! PROOF. What the module's work leaves: a state bare of everything that the work may change is as it was. -/

namespace Sys2Proof.Machine

open Sys2Proof

/-! ### A state bare of what the work changes -/

def bareFold (f : FoldSt) : FoldSt := { f with members := [] }

def bareRing (x : RingPair) : RingPair :=
  { x with cqTail := 0, running := [], held := [], unsignalled := 0, firstUnsig := none, pegWait := false, fold := x.fold.map bareFold,
           closed := x.closed.map bareFold }

def bareFn (x : FnState) : FnState := { x with pendingBits := [], rings := x.rings.map bareRing }

def barePiece (p : Piece) : Piece := { p with status := .ok, inFold := false }

def bareTrack (x : TrackState) : TrackState := { x with hold := { x.hold with basket := false }, held := false, pieces := x.pieces.map barePiece }

def bareTile (x : TileSt) : TileSt := { x with job := none, idleSince := 0 }

def bareRegion (g : RegionSt) : RegionSt := { g with tiles := g.tiles.map bareTile }

def barePlan (p : PlanRec) : PlanRec := { p with olds := [] }

def bareAcct (a : Acct) : Acct := { (default : Acct) with wardBytes := a.wardBytes }

/-- The state without what a `Work` may change. -/
def bare (s : State) : State :=
  { s with out := [], cnt := [], acc := [], transfers := [], store := TileStore.reset, pegs := { s.pegs with later := [], waits := [] }, commitQ := [],
           pool := Pool.reset, engines := Vector.replicate 8 .free,
           sched := { Sched.reset with nextId := s.sched.nextId, acct := s.sched.acct.map bareAcct },
           fns := s.fns.map bareFn, trackA := bareTrack s.trackA, trackB := bareTrack s.trackB,
           basket := { building := [], committed := [], hold := false },
           health := { s.health with count := 0, lost := 0, lostFlag := false, seq := 0, last := [] },
           regions := s.regions.map bareRegion, plans := { s.plans with loaded := s.plans.loaded.map barePlan },
           tailor := { s.tailor with cache := [], steps := [] } }

/-- Setting an element to one that a map does not tell from it leaves the mapped vector. -/
theorem Vector.map_set_same {α β : Type} {n : Nat} (v : Vector α n) (i : Nat) (h : i < n) (x : α) (f : α → β) (same : f x = f v[i]) :
    (v.set i x h).map f = v.map f := by
  ext k hk
  rw [Vector.getElem_map, Vector.getElem_map]
  by_cases hit : i = k
  · subst hit
    rw [Vector.getElem_set_self, same]
  · rw [Vector.getElem_set_ne h hk hit]

theorem Vector.map_eq_getElem {α β : Type} {n : Nat} {v w : Vector α n} {f : α → β} (same : v.map f = w.map f) (i : Nat) (h : i < n) : f v[i] = f w[i] := by
  have here := congrArg (fun u : Vector β n => u[i]) same
  simpa only [Vector.getElem_map] using here

theorem bare_modFn (s : State) (f : Fn) (g : FnState → FnState) (same : bareFn (g (s.fnOf f)) = bareFn (s.fnOf f)) : bare (s.modFn f g) = bare s := by
  have fns : (s.modFn f g).fns.map bareFn = s.fns.map bareFn := Vector.map_set_same s.fns f.val f.isLt _ bareFn same
  unfold bare
  rw [fns]
  rfl

theorem bare_modRing (s : State) (r : RingRef) (g : RingPair → RingPair) (same : bareRing (g (s.ring r)) = bareRing (s.ring r)) : bare (s.modRing r g) = bare s := by
  refine bare_modFn s r.fn _ ?_
  have rings := Vector.map_set_same (s.fnOf r.fn).rings r.pair.val r.pair.isLt _ bareRing same
  exact congrArg (fun v => ({ s.fnOf r.fn with pendingBits := [], rings := v } : FnState)) rings

theorem bare_modTrack (s : State) (t : Track) (g : TrackState → TrackState) (same : bareTrack (g (s.track t)) = bareTrack (s.track t)) : bare (s.modTrack t g) = bare s := by
  cases t with
  | A => exact congrArg (fun x => { bare s with trackA := x }) same
  | B => exact congrArg (fun x => { bare s with trackB := x }) same

theorem bare_modTile (s : State) (t : Nat) (f : TileSt → TileSt) (same : ∀ x, bareTile (f x) = bareTile x) : bare (s.modTile t f) = bare s := by
  have tiles (g : RegionSt) := Vector.map_set_same g.tiles (t % 32) (Nat.mod_lt _ (by decide)) (f g.tiles[t % 32]) bareTile (same _)
  have regions : (s.modTile t f).regions.map bareRegion = s.regions.map bareRegion :=
    Vector.map_set_same s.regions _ (Fin.ofNat 8 (t / 32)).isLt _ bareRegion (congrArg (fun v => ({ s.regions[(Fin.ofNat 8 (t / 32)).val] with tiles := v } : RegionSt)) (tiles _))
  unfold bare
  rw [regions]
  rfl

theorem bareFold_kept {g : FoldSt → FoldSt} (kept : ∀ f, { g f with members := f.members } = f) (f : FoldSt) : bareFold (g f) = bareFold f :=
  (congrArg bareFold (kept f) :)

theorem bareRing_modFold (x : RingPair) (n : Nat) (g : FoldSt → FoldSt) (kept : ∀ f, { g f with members := f.members } = f) :
    bareRing { x with fold := x.fold.map fun f => if f.id = n then g f else f, closed := mapWhere (fun f => f.id == n) g x.closed } = bareRing x := by
  have same (f : FoldSt) := bareFold_kept kept f
  have fold : (x.fold.map fun f => if f.id = n then g f else f).map bareFold = x.fold.map bareFold := by
    rw [Option.map_map]
    congr 1
    funext f
    simp only [Function.comp]
    split
    · exact same f
    · rfl
  have closed : (mapWhere (fun f => f.id == n) g x.closed).map bareFold = x.closed.map bareFold := by
    unfold mapWhere
    rw [List.map_map]
    congr 1
    funext f
    simp only [Function.comp]
    split
    · exact same f
    · rfl
  exact congrArg₂ (fun a b => ({ bareRing x with fold := a, closed := b } : RingPair)) fold closed

theorem bareTrack_modPiece (x : TrackState) (n : Nat) (f : Piece → Piece) (kept : ∀ p, { f p with status := p.status, inFold := p.inFold } = p) :
    bareTrack { x with pieces := mapWhere (fun p => p.num == n) f x.pieces } = bareTrack x := by
  have pieces : (mapWhere (fun p => p.num == n) f x.pieces).map barePiece = x.pieces.map barePiece := by
    unfold mapWhere
    rw [List.map_map]
    congr 1
    funext p
    simp only [Function.comp]
    split
    · exact (congrArg barePiece (kept p) :)
    · rfl
  exact congrArg (fun v => ({ bareTrack x with pieces := v } : TrackState)) pieces

section
variable {E : State → State → Prop} {s t : State}

theorem work_bare (extra : ∀ s t, E s t → bare t = bare s) (h : Work E s t) : bare t = bare s := by
  cases h with
  | aside => rfl
  | books contexts models loads acct rr laterFails ward =>
    have same : acct.map bareAcct = s.sched.acct.map bareAcct := by
      ext k hk
      rw [Vector.getElem_map, Vector.getElem_map]
      exact congrArg (fun w => ({ (default : Acct) with wardBytes := w } : Acct)) (ward ⟨k, hk⟩)
    exact congrArg (fun v => { bare s with sched := { (bare s).sched with acct := v } }) same
  | jobs => rfl
  | unlist => rfl
  | vector => exact bare_modFn s _ _ rfl
  | ring r g _ kept => exact bare_modRing s r g (congrArg bareRing (kept (s.ring r)) :)
  | waited r => exact bare_modRing s r _ rfl
  | fold r n g kept => exact bare_modRing s r _ (bareRing_modFold _ n g kept)
  | hold k g kept => exact bare_modTrack s k g (congrArg bareTrack (kept (s.track k)) :)
  | piece k n f kept => exact bare_modTrack s k _ (bareTrack_modPiece _ n f kept)
  | basket => rfl
  | health => rfl
  | tile n f kept => exact bare_modTile s n f fun x => (congrArg bareTile (kept x) :)
  | olds g =>
    refine congrArg (fun v => { bare s with plans := { (bare s).plans with loaded := v } }) ?_
    rw [List.map_map]
    rfl
  | tailor => rfl
  | extra more => exact extra _ _ more

/-- An elementary change is one of the module's work, or one of the further ones. -/
theorem work_cases (h : Work E s t) : Work (fun _ _ => False) s t ∨ E s t := by
  cases h with
  | aside _ _ _ _ _ _ _ _ _ _ kept => exact .inl (.aside _ _ _ _ _ _ _ _ _ _ kept)
  | books _ _ _ _ _ _ ward => exact .inl (.books _ _ _ _ _ _ ward)
  | jobs g kept => exact .inl (.jobs g kept)
  | unlist n => exact .inl (.unlist n)
  | vector f bits => exact .inl (.vector f bits)
  | ring r g live kept => exact .inl (.ring r g live kept)
  | waited r => exact .inl (.waited r)
  | fold r n g kept => exact .inl (.fold r n g kept)
  | hold k g kept => exact .inl (.hold k g kept)
  | piece k n f kept folded judged => exact .inl (.piece k n f kept folded judged)
  | basket => exact .inl (.basket _ _ _)
  | health _ _ _ _ _ rising => exact .inl (.health _ _ _ _ _ rising)
  | tile n f kept => exact .inl (.tile n f kept)
  | olds g => exact .inl (.olds g)
  | tailor _ _ old => exact .inl (.tailor _ _ old)
  | extra more => exact .inr more

theorem work_bare_plain (h : Work (fun _ _ => False) s t) : bare t = bare s := work_bare (fun _ _ no => no.elim) h

theorem works_bare (extra : ∀ s t, E s t → bare t = bare s) (h : Works E s t) : bare t = bare s := works_same (fun _ _ => work_bare extra) h

theorem granted_bare (s t : State) (h : Granted s t) : bare t = bare s := by
  obtain ⟨n, k, rfl⟩ := h
  rfl

end

/-! ### What bare states share -/

section
variable {s t : State} (same : bare t = bare s)
include same

theorem bare_ports : t.ports = s.ports := (congrArg State.ports same :)
theorem bare_twin : t.twin = s.twin := (congrArg State.twin same :)
theorem bare_regs : t.regs = s.regs := (congrArg State.regs same :)
theorem bare_boot : t.boot = s.boot := (congrArg State.boot same :)

theorem bare_track (k : Track) : bareTrack (t.track k) = bareTrack (s.track k) := by
  cases k with
  | A => exact (congrArg State.trackA same :)
  | B => exact (congrArg State.trackB same :)

theorem bare_fnOf (f : Fn) : bareFn (t.fnOf f) = bareFn (s.fnOf f) :=
  Vector.map_eq_getElem (congrArg State.fns same : t.fns.map bareFn = s.fns.map bareFn) f.val f.isLt

theorem bare_ring (r : RingRef) : bareRing (t.ring r) = bareRing (s.ring r) :=
  Vector.map_eq_getElem (congrArg FnState.rings (bare_fnOf same r.fn) : (t.fnOf r.fn).rings.map bareRing = (s.fnOf r.fn).rings.map bareRing) r.pair.val r.pair.isLt

theorem bare_region (g : Region) : bareRegion (t.reg8 g) = bareRegion (s.reg8 g) :=
  Vector.map_eq_getElem (congrArg State.regions same : t.regions.map bareRegion = s.regions.map bareRegion) g.val g.isLt

theorem bare_tile (n : Nat) : bareTile (t.tile n) = bareTile (s.tile n) :=
  Vector.map_eq_getElem (congrArg RegionSt.tiles (bare_region same (Fin.ofNat 8 (n / 32))) :
    (t.reg8 (Fin.ofNat 8 (n / 32))).tiles.map bareTile = (s.reg8 (Fin.ofNat 8 (n / 32))).tiles.map bareTile) (n % 32) (Nat.mod_lt _ (by decide))

/-- A loaded plan is found as it was, but for the lowerings it keeps for older jobs. -/
theorem bare_findPlan (n : Nat) : (findPlan t n).map barePlan = (findPlan s n).map barePlan := by
  have loaded : t.plans.loaded.map barePlan = s.plans.loaded.map barePlan := (congrArg (fun u : State => u.plans.loaded) same :)
  have pick (ps : List PlanRec) : (ps.find? fun p => p.handle == n).map barePlan = (ps.map barePlan).find? fun p => p.handle == n :=
    (List.find?_map (p := fun p : PlanRec => p.handle == n) (f := barePlan) (l := ps)).symm
  unfold findPlan
  rw [pick, pick, loaded]

theorem bare_wardBytes (f : Fn) : t.sched.acct[f.val].wardBytes = s.sched.acct[f.val].wardBytes :=
  have books : bareAcct t.sched.acct[f.val] = bareAcct s.sched.acct[f.val] :=
    Vector.map_eq_getElem (congrArg (fun u : State => u.sched.acct) same : t.sched.acct.map bareAcct = s.sched.acct.map bareAcct) f.val f.isLt
  (congrArg Acct.wardBytes books :)

end

/-! ### Regions beside their tiles -/

/-- A region beside its tiles. -/
def coreRegion (g : RegionSt) : RegionSt := { g with tiles := Vector.replicate 32 default }

theorem coreRegion_modRegion (s : State) (r g : Region) (f : RegionSt → RegionSt) (kept : coreRegion (f (s.reg8 r)) = coreRegion (s.reg8 r)) :
    coreRegion ((s.modRegion r f).reg8 g) = coreRegion (s.reg8 g) := by
  by_cases same : r = g
  · subst same
    rw [State.modRegion_same, kept]
  · rw [State.modRegion_other s same]

theorem coreRegion_modTile (s : State) (n : Nat) (f : TileSt → TileSt) (g : Region) : coreRegion ((s.modTile n f).reg8 g) = coreRegion (s.reg8 g) :=
  coreRegion_modRegion s _ g _ rfl

theorem bare_core {s t : State} (same : bare t = bare s) (g : Region) : coreRegion (t.reg8 g) = coreRegion (s.reg8 g) :=
  (congrArg coreRegion (bare_region same g) :)

end Sys2Proof.Machine
end

section
/-! PROOF. The module's work beside its jobs: changes of ports, tracks, the twin link, plans and tiles, each with the work that goes with it. -/

namespace Sys2Proof.Machine

open Sys2Proof

/-- A change of the ports, tracks, engines, plans, banks and the twin link, or of a tile. -/
inductive Outer (s : State) : State → Prop
  | apart {t : State} (same : { t with ports := s.ports, trackA := s.trackA, trackB := s.trackB, plans := s.plans, banks := s.banks, twin := s.twin } = s) : Outer s t
  | tile (n : Nat) (f : TileSt → TileSt) : Outer s (s.modTile n f)

/-- A change that moves a region from DRAINING to DRAINED. -/
inductive Drained (s : State) : State → Prop
  | region (g : Region) (draining : (s.reg8 g).state = 1) : Drained s (s.modRegion g fun x => { x with state := 2 })

section
variable {E : State → State → Prop} {s₀ s t : State} (outer : ∀ s t, Outer s t → E s t)
include outer

theorem works_apart (h : Works E s₀ s) (same : { t with ports := s.ports, trackA := s.trackA, trackB := s.trackB, plans := s.plans, banks := s.banks, twin := s.twin } = s) :
    Works E s₀ t := h.tail (.extra (outer _ _ (.apart same)))

theorem works_modPort {p g} (h : Works E s₀ s) : Works E s₀ (s.modPort p g) := works_apart outer h rfl
theorem works_anyTrack {k g} (h : Works E s₀ s) : Works E s₀ (s.modTrack k g) := by cases k <;> exact works_apart outer h rfl
theorem works_anyTile {n f} (h : Works E s₀ s) : Works E s₀ (s.modTile n f) := h.tail (.extra (outer _ _ (.tile n f)))

/-! ### The twin link and the lamps -/

theorem works_sendFrame {ty fl w x o p} (h : Works E s₀ s) : Works E s₀ (sendFrame s ty fl w x o p) := by
  unfold sendFrame
  dsimp only
  split
  · exact h
  · exact works_chipCnt (works_emit (works_apart outer h rfl))

theorem works_sendSync (h : Works E s₀ s) : Works E s₀ (sendSync s) := works_when (fun h => works_foldl h fun _ _ => works_sendFrame outer) h

theorem works_sendHealth {c a b} (h : Works E s₀ s) : Works E s₀ (sendHealth s c a b) := works_when (works_sendFrame outer) h

theorem works_healthTake {c} (h : Works E s₀ s) : Works E s₀ (healthTake s c) := works_when (works_sendHealth outer) h

omit outer in
theorem works_emitPort {o} (h : Works E s₀ s) : Works E s₀ (emitPort s o) := works_when works_emit h

theorem works_lampsOff {p} (h : Works E s₀ s) : Works E s₀ (lampsOff s p) := works_modPort outer (works_foldl h fun _ _ => works_emitPort)

theorem works_lampsOn {p} (h : Works E s₀ s) : Works E s₀ (lampsOn s p) := works_modPort outer (works_foldl h fun _ _ => works_emitPort)

/-! ### Tiles, engines and calibrations -/

theorem works_reserveTiles {p n} (h : Works E s₀ s) (reserved : reserveTiles s p n = some t) : Works E s₀ t := by
  obtain ⟨ts, -, rfl⟩ := Option.map_eq_some_iff.mp reserved
  refine works_modPort outer (works_foldl h fun s t h => works_anyTile outer ?_)
  split
  · exact works_modJob (fun _ => ⟨rfl, rfl, rfl, rfl, id⟩) (fun _ => id) h
  · exact h

theorem works_releaseTiles {p} (h : Works E s₀ s) : Works E s₀ (releaseTiles s p) := by
  unfold releaseTiles
  exact works_modPort outer (works_foldl h fun _ _ => works_anyTile outer)

theorem works_moveReservation {p} (h : Works E s₀ s) (moved : moveReservation s p = some t) : Works E s₀ t :=
  works_reserveTiles outer (works_releaseTiles outer h) moved

theorem works_assignEngines (h : Works E s₀ s) : Works E s₀ (assignEngines s) := by
  refine works_foldl h fun s p h => ?_
  dsimp only
  split
  · split
    · exact (works_modPort outer h).tail (.aside _ _ _ _ _ _ _ _ _ _ fun _ kept => kept)
    · exact h
  · exact h

theorem works_freeEngine {p} (h : Works E s₀ s) : Works E s₀ (freeEngine s p) :=
  (works_modPort outer h).tail (.aside _ _ _ _ _ _ _ _ _ _ fun _ kept => kept)

theorem works_startCals (h : Works E s₀ s) : Works E s₀ (startCals s) := by
  refine works_foldl h fun s p h => ?_
  split
  · exact works_unless (fun h => works_lampsOff outer (works_modPort outer (works_modPort outer h))) h
  · exact h

theorem works_finishArms (h : Works E s₀ s) : Works E s₀ (finishArms s) := by
  refine works_foldl h fun s t h => ?_
  split
  · exact works_ite (works_complete (works_anyTrack outer h)) h
  · exact h

/-! ### Plans -/

theorem works_plans {v} (h : Works E s₀ s) : Works E s₀ { s with plans := v } := works_apart outer h rfl

theorem works_invalidate (h : Works E s₀ s) : Works E s₀ (invalidate s) := works_plans outer h

theorem works_relowerAll (h : Works E s₀ s) : Works E s₀ (relowerAll s) := works_plans outer h

/-! ### Draining and disarming -/

theorem works_disarmPorts {k} (h : Works E s₀ s) : Works E s₀ (disarmPorts s k) := by
  unfold disarmPorts
  exact works_anyTrack outer (works_foldl h fun _ _ h => works_modPort outer (works_lampsOff outer (works_freeEngine outer (works_releaseTiles outer h))))

section
variable (drained : ∀ s t, Drained s t → E s t)
include drained

theorem works_settleDrains (h : Works E s₀ s) : Works E s₀ (settleDrains s) := by
  refine works_foldl h fun s g h => ?_
  dsimp only
  split
  next drains => exact works_invalidate outer (h.tail (.extra (drained _ _ (.region _ drains.1))))
  · exact h

theorem works_disarmTrack {k ds} (h : Works E s₀ s) : Works E s₀ (disarmTrack s k ds) := by
  have off := works_disarmPorts outer (k := k) h
  unfold disarmTrack
  dsimp only
  refine works_schedule (works_startCals outer (works_settleDrains outer drained (works_assignEngines outer (works_foldl ?_ fun _ _ => works_complete))))
  refine works_anyTrack outer ?_
  split
  · exact works_complete off
  · exact off

theorem works_forceDisarm {k} (h : Works E s₀ s) : Works E s₀ (forceDisarm s k) := works_when (works_disarmTrack outer drained) h

end

end

end Sys2Proof.Machine
end

section
/-! PROOF. What a sensor trigger does to the ports (R35, R41, R46, R68). -/

namespace Sys2Proof.Machine

open Sys2Proof

/-! ### Lost and registered colours -/

/-- Of the module only a port's colour lines and registered lines, and counters, have moved. -/
def gathers (p : Port) (s t : State) : Prop :=
  { t with ports := s.ports, cnt := s.cnt } = s ∧ (∀ q, q ≠ p → t.lp q = s.lp q) ∧
    { t.lp p with regQ := (s.lp p).regQ, colLines := (s.lp p).colLines, nextPos := (s.lp p).nextPos } = s.lp p

theorem gathers_refl (p : Port) (s : State) : gathers p s s := ⟨rfl, fun _ _ => rfl, rfl⟩

theorem gathers_trans {p : Port} {s t u : State} (h : gathers p s t) (k : gathers p t u) : gathers p s u := by
  obtain ⟨hs, hq, hp⟩ := h
  obtain ⟨ks, kq, kp⟩ := k
  refine ⟨by rw [← hs, ← ks], fun q other => (kq q other).trans (hq q other), ?_⟩
  have both := (congrArg (fun x : PortState => { x with regQ := (s.lp p).regQ, colLines := (s.lp p).colLines, nextPos := (s.lp p).nextPos }) kp :)
  exact both.trans hp

theorem gathers_cnt (p q : Port) (s : State) (i : Nat) : gathers p s (s.portCnt q i) := ⟨rfl, fun _ _ => rfl, rfl⟩

theorem gathers_foldl {α : Type} {p : Port} {f : State → α → State} (each : ∀ s a, gathers p s (f s a)) (xs : List α) (s : State) : gathers p s (xs.foldl f s) :=
  foldl_keeps (gathers p s) f (fun t a h => gathers_trans h (each t a)) xs s (gathers_refl p s)

/-- Registering lines moves the colour lines and the registered lines alone. -/
theorem emitReg_kept (quad : Bool) (f : Nat) (x : PortState) :
    { emitReg quad x f with regQ := x.regQ, colLines := x.colLines, nextPos := x.nextPos } = x := by
  induction f generalizing x with
  | zero => rfl
  | succ f ih =>
    unfold emitReg
    dsimp only
    split
    · exact (congrArg (fun y : PortState => { y with regQ := x.regQ, colLines := x.colLines, nextPos := x.nextPos }) (ih _) :)
    · rfl

theorem takeColour_kept (x : PortState) (l : ColLine) : { takeColour x l with colLines := x.colLines } = x := by
  unfold takeColour
  split <;> rfl

theorem gathers_pushColour (s : State) (p : Port) (l : ColLine) : gathers p s (pushColour s p l) := by
  unfold pushColour
  obtain ⟨here, others, frame⟩ := modPort_only (s := s) (p := p)
    (g := fun x => emitReg (s.track (s.lp p).cfg.track).quad (takeColour x l) ((takeColour x l).colLines.length + 1))
  refine ⟨(congrArg (fun u : State => { u with cnt := s.cnt }) frame :), others, ?_⟩
  rw [here]
  have emitted := emitReg_kept (s.track (s.lp p).cfg.track).quad ((takeColour (s.lp p) l).colLines.length + 1) (takeColour (s.lp p) l)
  have both := (congrArg (fun y : PortState => { y with regQ := (s.lp p).regQ, colLines := (s.lp p).colLines, nextPos := (s.lp p).nextPos }) emitted :)
  exact both.trans (congrArg (fun y : PortState => { y with regQ := (s.lp p).regQ, nextPos := (s.lp p).nextPos }) (takeColour_kept (s.lp p) l) :)

theorem gathers_loseColours (s : State) (p : Port) (e : Int) (cs : List Nat) : gathers p s (loseColours s p e cs) := by
  refine gathers_foldl (fun u c => gathers_trans (gathers_cnt p p u 3) ?_) cs s
  dsimp only
  split
  · exact gathers_refl p _
  · exact gathers_pushColour ..

/-! ### Lamps -/

/-- Of the module only ports, counters and what was sent have moved. -/
def triggersOnly (s t : State) : Prop := { t with ports := s.ports, cnt := s.cnt, out := s.out } = s

theorem triggersOnly_refl (s : State) : triggersOnly s s := rfl

theorem triggersOnly_trans {s t u : State} (h : triggersOnly s t) (k : triggersOnly t u) : triggersOnly s u := by
  unfold triggersOnly at *
  rw [← h, ← k]

theorem triggersOnly_track {s t : State} (h : triggersOnly s t) (k : Track) : t.track k = s.track k := by
  cases k with
  | A => exact (congrArg State.trackA h :)
  | B => exact (congrArg State.trackB h :)

theorem triggersOnly_gathers {p : Port} {s t : State} (h : gathers p s t) : triggersOnly s t := (congrArg (fun u : State => { u with out := s.out }) h.1 :)

theorem triggersOnly_modPort (s : State) (p : Port) (g : PortState → PortState) : triggersOnly s (s.modPort p g) := rfl

theorem emitPort_frame (s : State) (o : Output) : { emitPort s o with out := s.out } = s := by
  unfold emitPort
  split <;> rfl

theorem emitPort_lp (s : State) (o : Output) (q : Port) : (emitPort s o).lp q = s.lp q := (congrArg (fun u : State => u.lp q) (emitPort_frame s o) :)

theorem triggersOnly_emitPort (s : State) (o : Output) : triggersOnly s (emitPort s o) :=
  (congrArg (fun u : State => { u with ports := s.ports, cnt := s.cnt }) (emitPort_frame s o) :)

theorem foldl_emitPort_frame {α : Type} (f : α → Output) (xs : List α) (s : State) : { xs.foldl (fun s x => emitPort s (f x)) s with out := s.out } = s := by
  induction xs generalizing s with
  | nil => rfl
  | cons x xs ih =>
    rw [List.foldl_cons]
    have later := (congrArg (fun u : State => { u with out := s.out }) (ih (emitPort s (f x))) :)
    exact later.trans (emitPort_frame s (f x))

/-- Of the ports only one has moved, and of it only its lamps. -/
def lightsOnly (p : Port) (s t : State) : Prop :=
  { t with ports := s.ports, out := s.out } = s ∧ (∀ q, q ≠ p → t.lp q = s.lp q) ∧ { t.lp p with lamps := (s.lp p).lamps } = s.lp p

theorem lightsOnly_set {s u : State} (p : Port) (ls : List Nat) (sent : { u with out := s.out } = s) :
    lightsOnly p s (u.modPort p fun x => { x with lamps := ls }) ∧ ((u.modPort p fun x => { x with lamps := ls }).lp p).lamps = ls := by
  have lp (q : Port) : u.lp q = s.lp q := (congrArg (fun v : State => v.lp q) sent :)
  obtain ⟨here, others, frame⟩ := modPort_only (s := u) (p := p) (g := fun x => { x with lamps := ls })
  refine ⟨⟨?_, fun q other => (others q other).trans (lp q), ?_⟩, ?_⟩
  · exact (congrArg (fun v : State => { v with ports := s.ports, out := s.out }) frame :).trans (congrArg (fun v : State => { v with ports := s.ports }) sent :)
  · rw [here, lp p]
  · rw [here]

theorem lightsOnly_lampsOff (s : State) (p : Port) : lightsOnly p s (lampsOff s p) ∧ ((lampsOff s p).lp p).lamps = [] :=
  lightsOnly_set p [] (foldl_emitPort_frame _ _ s)

theorem lightsOnly_lampsOn (s : State) (p : Port) : lightsOnly p s (lampsOn s p) ∧ ((lampsOn s p).lp p).lamps = [0, 1, 2] :=
  lightsOnly_set p [0, 1, 2] (foldl_emitPort_frame _ _ s)

theorem lightsOnly_trans {p : Port} {s t u : State} (h : lightsOnly p s t) (k : lightsOnly p t u) : lightsOnly p s u := by
  obtain ⟨hs, hq, hp⟩ := h
  obtain ⟨ks, kq, kp⟩ := k
  refine ⟨by rw [← hs, ← ks], fun q other => (kq q other).trans (hq q other), ?_⟩
  exact (congrArg (fun x : PortState => { x with lamps := (s.lp p).lamps }) kp :).trans hp

theorem lightsOnly_switchLamp (s : State) (p : Port) (c : Nat) : lightsOnly p s (switchLamp s p c) ∧ ((switchLamp s p c).lp p).lamps = [c] := by
  obtain ⟨off, -⟩ := lightsOnly_lampsOff s p
  obtain ⟨on, lit⟩ := lightsOnly_set p [c] (emitPort_frame (lampsOff s p) (.lamp p c true))
  exact ⟨lightsOnly_trans off on, lit⟩

theorem triggersOnly_lights {p : Port} {s t : State} (h : lightsOnly p s t) : triggersOnly s t := (congrArg (fun u : State => { u with cnt := s.cnt }) h.1 :)

/-! ### A trigger -/

/-- A trigger of sub-line `sub` of an encoder line has been issued on a port. -/
structure Triggered (p : Port) (e : Int) (sub : Nat) (s t : State) : Prop where
  frame : triggersOnly s t
  others : ∀ q, q ≠ p → t.lp q = s.lp q
  cfg : (t.lp p).cfg = (s.lp p).cfg
  count : (t.lp p).trigCount = (s.lp p).trigCount + 1
  last : ∃ x, (t.lp p).trigs.getLast? = some x ∧ x.line = e ∧ x.sub = sub
  lamps : (s.lp p).cfg.switched = true → (t.lp p).lamps = [sub]

/-- A port with one more trigger on its record. -/
def filed (older : List TrigRec) (r : TrigRec) (y : PortState) : PortState := { y with trigCount := y.trigCount + 1, trigs := older ++ [r] }

theorem triggered_issueTrigger (s : State) (p : Port) (e : Int) (sub : Nat) : Triggered p e sub s (issueTrigger s p e sub) := by
  unfold issueTrigger
  dsimp only
  obtain ⟨u, expired⟩ : ∃ u, ((s.lp p).trigs.take ((s.lp p).trigs.length - 1)).foldl (fun s r => expireTrig s p r) s = u := ⟨_, rfl⟩
  have gathered : gathers p s u := expired ▸ gathers_foldl (fun v (r : TrigRec) => gathers_loseColours v p r.line _) _ s
  rw [expired]
  have ⟨_, before, kept⟩ := gathered
  have cfg : (u.lp p).cfg = (s.lp p).cfg := (congrArg PortState.cfg kept :)
  have count : (u.lp p).trigCount = (s.lp p).trigCount := (congrArg PortState.trigCount kept :)
  obtain ⟨r, record⟩ : ∃ r : TrigRec, ({ num := (s.lp p).trigCount + 1, line := e, sub := sub, got := [] } : TrigRec) = r := ⟨_, rfl⟩
  have named : r.line = e ∧ r.sub = sub := by rw [← record]; exact ⟨rfl, rfl⟩
  rw [record]
  generalize (s.lp p).trigs.drop ((s.lp p).trigs.length - 1) = older
  obtain ⟨v, sent⟩ : ∃ v, emitPort ((u.modPort p (filed older r)).portCnt p 4)
      (.trigger p ((s.lp p).trigCount + 1)) = v := ⟨_, rfl⟩
  have fired : triggersOnly s v := sent ▸ triggersOnly_trans (triggersOnly_gathers gathered)
    (triggersOnly_trans (triggersOnly_trans (triggersOnly_modPort u p _) (triggersOnly_gathers (gathers_cnt p p _ 4))) (triggersOnly_emitPort _ _))
  have others (q : Port) (other : q ≠ p) : v.lp q = s.lp q := by
    rw [← sent, emitPort_lp]
    exact (State.modPort_other u other.symm (filed older r)).trans (before q other)
  have here : v.lp p = { u.lp p with trigCount := (u.lp p).trigCount + 1, trigs := older ++ [r] } := by
    rw [← sent, emitPort_lp]
    exact State.modPort_same u p (filed older r)
  have issued : (v.lp p).trigCount = (s.lp p).trigCount + 1 := by rw [here]; exact congrArg (· + 1) count
  have same : (v.lp p).cfg = (s.lp p).cfg := by rw [here]; exact cfg
  have newest : (v.lp p).trigs.getLast? = some r := by rw [here]; exact List.getLast?_concat
  change Triggered p e sub s (if (s.lp p).cfg.switched then switchLamp (emitPort ((u.modPort p (filed older r)).portCnt p 4) _) p sub else emitPort ((u.modPort p (filed older r)).portCnt p 4) _)
  rw [sent]
  split
  · obtain ⟨lights, lit⟩ := lightsOnly_switchLamp v p sub
    have ⟨_, rest, port⟩ := lights
    exact { frame := triggersOnly_trans fired (triggersOnly_lights lights)
            others := fun q other => (rest q other).trans (others q other)
            cfg := (congrArg PortState.cfg port :).trans same
            count := (congrArg PortState.trigCount port :).trans issued
            last := ⟨r, (congrArg (fun x : PortState => x.trigs.getLast?) port :).trans newest, named⟩
            lamps := fun _ => lit }
  next three => exact { frame := fired, others := others, cfg := same, count := issued, last := ⟨r, newest, named⟩, lamps := fun switched => absurd switched three }

/-! ### Triggers over the ports of a track -/

section
variable {f : State → Port → State} (each : ∀ s p, triggersOnly s (f s p) ∧ ∀ q, q ≠ p → (f s p).lp q = s.lp q)
include each

theorem triggersOnly_foldl (ps : List Port) (s : State) : triggersOnly s (ps.foldl f s) :=
  foldl_keeps (triggersOnly s) f (fun t p h => triggersOnly_trans h (each t p).1) ps s (triggersOnly_refl s)

theorem foldl_lp_out {ps : List Port} {p : Port} (out : p ∉ ps) (s : State) : (ps.foldl f s).lp p = s.lp p := by
  induction ps generalizing s with
  | nil => rfl
  | cons q qs ih =>
    rw [List.foldl_cons, ih (fun mem => out (List.mem_cons_of_mem _ mem))]
    exact (each s q).2 p fun same => out (same ▸ List.mem_cons_self)

/-- A port that stands in the list once is visited once. -/
theorem foldl_lp_once {ps : List Port} {p : Port} (once : ps.count p = 1) (s : State) : ∃ u, triggersOnly s u ∧ u.lp p = s.lp p ∧ (ps.foldl f s).lp p = (f u p).lp p := by
  obtain ⟨a, b, cut⟩ := List.append_of_mem (List.count_pos_iff.mp (once ▸ Nat.one_pos))
  have outA : p ∉ a := fun mem => by
    have pos := List.count_pos_iff.mpr mem
    rw [cut, List.count_append, List.count_cons_self] at once
    omega
  have outB : p ∉ b := fun mem => by
    have pos := List.count_pos_iff.mpr mem
    rw [cut, List.count_append, List.count_cons_self] at once
    omega
  refine ⟨a.foldl f s, triggersOnly_foldl each a s, foldl_lp_out each outA s, ?_⟩
  rw [cut, List.foldl_append, List.foldl_cons, foldl_lp_out each outB]

end

end Sys2Proof.Machine
end

section
/-! PROOF. Encoder counts and the module's own triggers (R43 to R46, R62). -/

namespace Sys2Proof.Machine

open Sys2Proof

/-! ### The quadrature of the encoder (R43) -/

/-- How far the channels have moved on in the forward order. -/
def quadTurn (a b c d : Bool) : Nat := (quadIndex a b + 4 - quadIndex c d) % 4

theorem quadTurn_still {a b c d : Bool} : (a == c) = (b == d) → quadTurn a b c d = 0 ∨ quadTurn a b c d = 2 := by
  revert a b c d
  decide

theorem quadTurn_moved {a b c d : Bool} : (a == c) ≠ (b == d) → quadTurn a b c d = 1 ∨ quadTurn a b c d = 3 := by
  revert a b c d
  decide

theorem quadTurn_same (a b : Bool) : quadTurn a b a b = 0 := by
  revert a b
  decide

/-! ### What a count leaves of a track -/

/-- The position and the channel levels of a track. -/
def encoderAt (k : Track) (s : State) : Int × Bool × Bool := ((s.track k).position, (s.track k).chA, (s.track k).chB)

/-- No encoder position and no level moves. -/
def encoderStays (k : Track) (s t : State) : Prop := encoderAt k t = encoderAt k s

section
variable {k : Track} {s₀ s t : State}

theorem encoderStays_of_track (same : t.track k = s.track k) (h : encoderStays k s₀ s) : encoderStays k s₀ t := by
  unfold encoderStays encoderAt at *
  rw [same, h]

theorem encoderStays_ite {c : Prop} [Decidable c] (h : encoderStays k s₀ s) (l : encoderStays k s₀ t) : encoderStays k s₀ (if c then s else t) := by
  split
  · exact h
  · exact l

theorem encoderStays_modTrack {j : Track} {g : TrackState → TrackState}
    (kept : ∀ x, (g x).position = x.position ∧ (g x).chA = x.chA ∧ (g x).chB = x.chB) (h : encoderStays k s₀ s) : encoderStays k s₀ (s.modTrack j g) := by
  by_cases same : j = k
  · subst same
    obtain ⟨position, chA, chB⟩ := kept (s.track j)
    unfold encoderStays encoderAt at *
    rw [State.modTrack_same, position, chA, chB, h]
  · exact encoderStays_of_track (State.modTrack_other s same g) h

theorem encoderStays_modPort {p g} (h : encoderStays k s₀ s) : encoderStays k s₀ (s.modPort p g) := encoderStays_of_track (State.modPort_track ..) h
theorem encoderStays_portCnt {p i n} (h : encoderStays k s₀ s) : encoderStays k s₀ (s.portCnt p i n) := encoderStays_of_track (State.portCnt_track ..) h

theorem encoderStays_foldl {α : Type} {f : State → α → State} {xs : List α} (h : encoderStays k s₀ s) (each : ∀ s a, encoderStays k s₀ s → encoderStays k s₀ (f s a)) :
    encoderStays k s₀ (xs.foldl f s) := foldl_keeps (encoderStays k s₀) f each xs s h

theorem encoderStays_discardPiece {j n st} (h : encoderStays k s₀ s) : encoderStays k s₀ (discardPiece s j n st) := by
  have bares : bare (discardPiece s j n st) = bare s := works_bare (E := fun _ _ => False) (fun _ _ no => no.elim) (works_discardPiece (works_refl s))
  exact (congrArg (fun x : TrackState => (x.position, x.chA, x.chB)) (bare_track bares k) :).trans h

theorem encoderStays_beginRestart {j} (h : encoderStays k s₀ s) : encoderStays k s₀ (beginRestart s j) := by
  have rested {g : TrackState → TrackState} (kept : ∀ x, (g x).position = x.position ∧ (g x).chA = x.chA ∧ (g x).chB = x.chB) :=
    encoderStays_modTrack (j := j) kept h
  unfold beginRestart
  refine encoderStays_ite (rested fun _ => ⟨rfl, rfl, rfl⟩) (encoderStays_ite ?_ ?_)
  · exact encoderStays_foldl (rested fun _ => ⟨rfl, rfl, rfl⟩) fun _ _ => encoderStays_discardPiece
  · exact encoderStays_modTrack (fun _ => ⟨rfl, rfl, rfl⟩)
      (encoderStays_portCnt (encoderStays_foldl (rested fun _ => ⟨rfl, rfl, rfl⟩) fun _ _ => encoderStays_modPort))

theorem encoderStays_noteFeed {j b} (h : encoderStays k s₀ s) : encoderStays k s₀ (noteFeed s j b) := by
  have fed : encoderStays k s₀ (if feedHold s j then (if (s.track j).rested then s else s.modTrack j fun x => { x with held := true })
      else if (s.track j).rested then releaseRestart s j else s) :=
    encoderStays_ite (encoderStays_ite h (encoderStays_modTrack (fun _ => ⟨rfl, rfl, rfl⟩) h))
      (encoderStays_ite (encoderStays_modTrack (fun _ => ⟨rfl, rfl, rfl⟩) h) h)
  exact encoderStays_ite (encoderStays_beginRestart fed) fed

/-! ### The triggers of a line -/

theorem issueTrigger_only (s : State) (p : Port) (e : Int) (sub : Nat) :
    triggersOnly s (issueTrigger s p e sub) ∧ ∀ q, q ≠ p → (issueTrigger s p e sub).lp q = s.lp q :=
  ⟨(triggered_issueTrigger s p e sub).frame, (triggered_issueTrigger s p e sub).others⟩

theorem encoderStays_issueTrigger {p e sub} (h : encoderStays k s₀ s) : encoderStays k s₀ (issueTrigger s p e sub) :=
  encoderStays_of_track (triggersOnly_track (issueTrigger_only s p e sub).1 k) h

theorem encoderStays_fireLine {j e} (h : encoderStays k s₀ s) : encoderStays k s₀ (fireLine s j e) :=
  encoderStays_foldl (encoderStays_modTrack (fun _ => ⟨rfl, rfl, rfl⟩) h) fun _ _ => encoderStays_issueTrigger

theorem encoderStays_overrateLine {j e} (h : encoderStays k s₀ s) : encoderStays k s₀ (overrateLine s j e) :=
  encoderStays_foldl (encoderStays_modTrack (fun _ => ⟨rfl, rfl, rfl⟩) (encoderStays_modPort h)) fun u p =>
    encoderStays_of_track (triggersOnly_track (triggersOnly_gathers (gathers_trans (gathers_cnt p p u 5) (gathers_loseColours _ p e [0, 1, 2]))) k)

theorem encoderStays_encoderLine {j} (h : encoderStays k s₀ s) : encoderStays k s₀ (encoderLine s j) :=
  encoderStays_ite (encoderStays_overrateLine (encoderStays_modTrack (fun _ => ⟨rfl, rfl, rfl⟩) h))
    (encoderStays_fireLine (encoderStays_modTrack (fun _ => ⟨rfl, rfl, rfl⟩) h))

/-! ### Restarts -/

theorem encoderStays_failRestart {j st} (h : encoderStays k s₀ s) : encoderStays k s₀ (failRestart s j st) := by
  have resumed {f : State → Port → State} {g : TrackState → TrackState} (each : ∀ s a, encoderStays k s₀ s → encoderStays k s₀ (f s a))
      (kept : ∀ x, (g x).position = x.position ∧ (g x).chA = x.chA ∧ (g x).chB = x.chB) :=
    encoderStays_modTrack (j := j) kept (encoderStays_foldl (xs := (s.track j).portsOf) h each)
  unfold failRestart
  refine encoderStays_foldl (encoderStays_ite (encoderStays_portCnt ?_) ?_) fun _ _ => encoderStays_discardPiece
  · exact resumed (fun _ _ => encoderStays_modPort) fun _ => ⟨rfl, rfl, rfl⟩
  · exact resumed (fun _ _ => encoderStays_modPort) fun _ => ⟨rfl, rfl, rfl⟩

theorem encoderStays_restartForward {j r u v} (h : encoderStays k s₀ s) : encoderStays k s₀ (restartForward s j r u v) :=
  encoderStays_ite (encoderStays_failRestart h) (encoderStays_ite h (encoderStays_foldl h fun _ _ h =>
    encoderStays_ite h (encoderStays_ite (encoderStays_overrateLine h) (encoderStays_modTrack (fun _ => ⟨rfl, rfl, rfl⟩) (encoderStays_fireLine h)))))

/-! ### One count -/

/-- The track's next position, forward or back. -/
def nextPosition (x : TrackState) (fwd : Bool) : Int := wrap48 (if fwd then x.position + 1 else x.position - 1)

/-- The track as one count moves it: its position and its divider. -/
def stepped (fwd : Bool) (x : TrackState) : TrackState :=
  { x with position := nextPosition x fwd, phase := if fwd then x.phase + 65536 else x.phase - 65536 }

theorem encoderStays_countStep (s : State) (j : Track) (fwd : Bool) : encoderStays k (s.modTrack j (stepped fwd)) (countStep s j fwd) := by
  have counted : encoderStays k (s.modTrack j (stepped fwd)) (s.modTrack j (stepped fwd)) := rfl
  have restarted : encoderStays k (s.modTrack j (stepped fwd)) (match (s.track j).restart with
      | some r => restartForward (s.modTrack j (stepped fwd)) j r (s.track j).unwrapped ((s.track j).unwrapped + 65536)
      | none => s.modTrack j (stepped fwd)) := by
    split
    · exact encoderStays_restartForward counted
    · exact counted
  refine encoderStays_ite counted (encoderStays_ite (encoderStays_ite ?_ ?_) restarted)
  · exact encoderStays_encoderLine (encoderStays_modTrack (fun _ => ⟨rfl, rfl, rfl⟩) (encoderStays_modTrack (fun _ => ⟨rfl, rfl, rfl⟩) restarted))
  · exact encoderStays_modTrack (fun _ => ⟨rfl, rfl, rfl⟩) restarted

theorem encoderStays_quadError {j} (h : encoderStays k s₀ s) : encoderStays k s₀ (quadError s j) :=
  encoderStays_modTrack (fun _ => ⟨rfl, rfl, rfl⟩) (encoderStays_modTrack (fun _ => ⟨rfl, rfl, rfl⟩) (encoderStays_portCnt h))

end

end Sys2Proof.Machine
end

section
/-! PROOF. Encoder counts, the lines they issue, sub-line triggers and CAL_RUN's triggers settled (R39, R41, R43 to R46, R62). -/

namespace Sys2Proof.Machine

open Sys2Proof

theorem keeps_of_staysNext {s t : State} {o : Host.Outcome State Fault Refusal} (stays : staysNext s o) (ran : o = .next t) : keeps s t := by
  obtain ⟨u, next, fixed⟩ := stays
  obtain rfl := Host.Outcome.next.inj (next.symm.trans ran)
  exact keeps_of_fixed fixed

/-- Of the module only the clock, counters and the tracks have moved. -/
def countsOnly (s t : State) : Prop := { t with clk := s.clk, cnt := s.cnt, trackA := s.trackA, trackB := s.trackB } = s

theorem countsOnly_trans {s t u : State} (h : countsOnly s t) (k : countsOnly t u) : countsOnly s u := by
  unfold countsOnly at *
  rw [← h, ← k]

theorem countsOnly_modTrack (s : State) (k : Track) (g : TrackState → TrackState) : countsOnly s (s.modTrack k g) := State.modTrack_frame (ticksOnly_refl s) k g

/-! ### What a count finds -/

/-- The track with its channels at new levels. -/
def levels (a b : Bool) (x : TrackState) : TrackState := { x with chA := a, chB := b }

/-- The state in which a count is judged: time has passed and the channels stand at their new levels. -/
def sampled (s : State) (k : Track) (a b : Bool) (dt : Nat) : State := (passTime s (7 * dt)).modTrack k (levels a b)

/-- Does a count go back? -/
def goesBack (x : TrackState) (a b : Bool) : Bool :=
  (quadTurn a b x.chA x.chB == 1 || quadTurn a b x.chA x.chB == 3) && ((quadTurn a b x.chA x.chB == 1) == x.rev)

section
variable {s : State} {k : Track} {a b : Bool} {dt : Nat}

theorem sampled_track (s : State) (k : Track) (a b : Bool) (dt : Nat) : (sampled s k a b dt).track k = levels a b (s.track k) := by
  unfold sampled
  rw [State.modTrack_same, passTime_track]

theorem sampled_lp (s : State) (k : Track) (a b : Bool) (dt : Nat) (p : Port) : (sampled s k a b dt).lp p = s.lp p := by
  unfold sampled
  rw [State.modTrack_lp]
  exact (congrArg (fun u : State => u.lp p) (ticksOnly_passTime s (7 * dt)) :)

theorem sampled_only (s : State) (k : Track) (a b : Bool) (dt : Nat) : countsOnly s (sampled s k a b dt) := State.modTrack_frame (ticksOnly_passTime s (7 * dt)) k _

theorem exec_encoderCount (s : State) (k : Track) (a b : Bool) (dt : Nat) :
    exec (.encoderCount k a b dt) s = .next
      (if quadTurn a b (s.track k).chA (s.track k).chB = 0 then noteFeed (sampled s k a b dt) k (goesBack (s.track k) a b)
      else if quadTurn a b (s.track k).chA (s.track k).chB = 2 then quadError (noteFeed (sampled s k a b dt) k (goesBack (s.track k) a b)) k
      else countStep (noteFeed (sampled s k a b dt) k (goesBack (s.track k) a b)) k ((quadTurn a b (s.track k).chA (s.track k).chB == 1) != (s.track k).rev)) := by
  change execEncoderCount k a b dt s = _
  unfold execEncoderCount
  simp only [passTime_track]
  rfl

theorem exec_still (still : (a == (s.track k).chA) = (b == (s.track k).chB)) (P : State → Prop)
    (feed : P (noteFeed (sampled s k a b dt) k (goesBack (s.track k) a b))) (error : P (quadError (noteFeed (sampled s k a b dt) k (goesBack (s.track k) a b)) k)) :
    ∃ t, exec (.encoderCount k a b dt) s = .next t ∧ P t := by
  refine ⟨_, exec_encoderCount s k a b dt, ?_⟩
  rcases quadTurn_still still with none | both
  · rw [if_pos none]
    exact feed
  · rw [both, if_neg (by decide), if_pos rfl]
    exact error

theorem exec_moved (moved : (a == (s.track k).chA) ≠ (b == (s.track k).chB)) :
    exec (.encoderCount k a b dt) s = .next (countStep (noteFeed (sampled s k a b dt) k (goesBack (s.track k) a b)) k
      ((quadTurn a b (s.track k).chA (s.track k).chB == 1) != (s.track k).rev)) := by
  rw [exec_encoderCount]
  rcases quadTurn_moved moved with one | three
  · rw [if_neg (by rw [one]; decide), if_neg (by rw [one]; decide)]
  · rw [if_neg (by rw [three]; decide), if_neg (by rw [three]; decide)]

/-! ### The encoder after a count -/

/-- The channels stand at the new levels and the position where it is said. -/
def encoderReads (k : Track) (t : State) (pos : Int) (a b : Bool) : Prop := encoderAt k t = (pos, a, b)

theorem encoderReads.parts {t : State} {pos : Int} (h : encoderReads k t pos a b) : (t.track k).chA = a ∧ (t.track k).chB = b ∧ (t.track k).position = pos := by
  obtain ⟨position, rest⟩ := Prod.mk.inj h
  obtain ⟨chA, chB⟩ := Prod.mk.inj rest
  exact ⟨chA, chB, position⟩

theorem noted_reads (s : State) (k : Track) (a b : Bool) (dt : Nat) (back : Bool) :
    encoderReads k (noteFeed (sampled s k a b dt) k back) (s.track k).position a b := by
  have stays : encoderStays k (sampled s k a b dt) (noteFeed (sampled s k a b dt) k back) := encoderStays_noteFeed rfl
  refine stays.trans ?_
  unfold encoderAt
  rw [sampled_track]
  rfl

theorem still_reads (still : (a == (s.track k).chA) = (b == (s.track k).chB)) :
    ∃ t, exec (.encoderCount k a b dt) s = .next t ∧ encoderReads k t (s.track k).position a b :=
  exec_still still _ (noted_reads ..) (Eq.trans (encoderStays_quadError rfl) (noted_reads ..))

theorem countStep_reads {u : State} {pos : Int} (reads : encoderReads k u pos a b) (fwd : Bool) :
    encoderReads k (countStep u k fwd) (wrap48 (if fwd then pos + 1 else pos - 1)) a b := by
  obtain ⟨chA, chB, position⟩ := reads.parts
  refine (encoderStays_countStep u k fwd).trans ?_
  unfold encoderAt
  rw [State.modTrack_same]
  unfold stepped nextPosition
  rw [← chA, ← chB, ← position]

theorem moved_reads (moved : (a == (s.track k).chA) ≠ (b == (s.track k).chB)) :
    ∃ t, exec (.encoderCount k a b dt) s = .next t ∧
      encoderReads k t (wrap48 (if ((quadTurn a b (s.track k).chA (s.track k).chB) == 1) != (s.track k).rev then (s.track k).position + 1 else (s.track k).position - 1)) a b :=
  ⟨_, exec_moved moved, countStep_reads (noted_reads ..) _⟩

theorem count_moves (s : State) (k : Track) (a b : Bool) (dt : Nat) : ∃ t, exec (.encoderCount k a b dt) s = .next t ∧ (t.track k).chA = a ∧ (t.track k).chB = b ∧
    ((a == (s.track k).chA) = (b == (s.track k).chB) → (t.track k).position = (s.track k).position) ∧
    ((a == (s.track k).chA) ≠ (b == (s.track k).chB) →
      (t.track k).position = wrap48 (if ((quadIndex a b + 4 - quadIndex (s.track k).chA (s.track k).chB) % 4 == 1) != (s.track k).rev
        then (s.track k).position + 1 else (s.track k).position - 1)) ∧ keeps s t := by
  have kept {t} (ran : exec (.encoderCount k a b dt) s = .next t) := keeps_of_staysNext (cmd_encoderCount k a b dt s) ran
  by_cases still : (a == (s.track k).chA) = (b == (s.track k).chB)
  · obtain ⟨t, ran, reads⟩ := still_reads (dt := dt) still
    obtain ⟨chA, chB, position⟩ := reads.parts
    exact ⟨t, ran, chA, chB, fun _ => position, fun moved => absurd still moved, kept ran⟩
  · obtain ⟨t, ran, reads⟩ := moved_reads (dt := dt) still
    obtain ⟨chA, chB, position⟩ := reads.parts
    exact ⟨t, ran, chA, chB, fun same => absurd same still, fun _ => position, kept ran⟩

/-! ### A count that nothing holds -/

/-- The feed's cause and the release of a restart are all that a count without a rest notes. -/
structure FedOnly (g : TrackState → TrackState) : Prop where
  kept : ∀ x, { g x with held := x.held, rested := x.rested, restart := x.restart } = x
  restart : ∀ x : TrackState, x.restart = none → (g x).restart = none

theorem modTrack_id (s : State) (k : Track) : s.modTrack k id = s := by cases k <;> rfl

theorem fedOnly_id : FedOnly id := ⟨fun _ => rfl, fun _ => id⟩

theorem fedOnly_release : FedOnly fun x => { x with rested := false, restart := x.restart.map fun r => { r with released := true } } :=
  ⟨fun _ => rfl, fun x none => by rw [none]; rfl⟩

theorem noteFeed_running (forward : b = false ∨ (s.track k).held = false ∧ feedHold s k = false) : ∃ g, noteFeed s k b = s.modTrack k g ∧ FedOnly g := by
  have fed : ∃ g, (if feedHold s k then (if (s.track k).rested then s else s.modTrack k fun x => { x with held := true })
      else if (s.track k).rested then releaseRestart s k else s) = s.modTrack k g ∧ FedOnly g ∧
      ((s.track k).held = false ∧ feedHold s k = false → (g (s.track k)).held = false) := by
    split
    next holds =>
      split
      · exact ⟨id, (modTrack_id s k).symm, fedOnly_id, And.left⟩
      · exact ⟨_, rfl, ⟨fun _ => rfl, fun _ => id⟩, fun none => nomatch none.2.symm.trans holds⟩
    next =>
      split
      · exact ⟨_, rfl, fedOnly_release, And.left⟩
      · exact ⟨id, (modTrack_id s k).symm, fedOnly_id, And.left⟩
  obtain ⟨g, same, only, free⟩ := fed
  refine ⟨g, ?_, only⟩
  unfold noteFeed
  dsimp only
  rw [same, State.modTrack_same, if_neg]
  rcases forward with rfl | none
  · nofun
  · rw [free none, Bool.and_false]
    nofun

theorem feedHold_sampled (s : State) (k : Track) (a b : Bool) (dt : Nat) : feedHold (sampled s k a b dt) k = feedHold s k := by
  have twin : (sampled s k a b dt).twin = s.twin := (congrArg State.twin (sampled_only s k a b dt) :)
  unfold feedHold
  rw [twin, sampled_track]
  rfl

/-! ### A line that the divider issues (R45, R46) -/

/-- The track as the trigger of a line marks it. -/
def lineSent (now P : Nat) (later : List (Nat × Int × Nat)) (x : TrackState) : TrackState :=
  { x with lastTrig := some now, lastLine := some now, period := P, subDue := later.foldl (fun q d => insertDue d q) x.subDue, trigPos := x.position }

/-- The sub-line triggers of a line that are to follow (R41). -/
def sublines (s : State) (k : Track) (e : Int) : List (Nat × Int × Nat) :=
  if (s.track k).portsOf.any (fun p => (s.lp p).cfg.switched) then
    [(s.now + 7 * (linePeriod s (s.track k) / 3), e, 1), (s.now + 7 * (2 * linePeriod s (s.track k) / 3), e, 2)] else []

theorem fireLine_eq (s : State) (k : Track) (e : Int) : fireLine s k e =
    (s.track k).portsOf.foldl (fun s p => issueTrigger s p e 0) (s.modTrack k (lineSent s.now (linePeriod s (s.track k)) (sublines s k e))) := rfl

/-- The triggers of a line leave the track's count of lines, and each port that stands on the track once has one more. -/
theorem fireLine_triggers (s : State) (k : Track) (e : Int) :
    ((fireLine s k e).track k).encLine = (s.track k).encLine ∧ ((fireLine s k e).track k).highMark = (s.track k).highMark ∧
      ((fireLine s k e).track k).phase = (s.track k).phase ∧
      ∀ p, (s.track k).portsOf.count p = 1 → ((fireLine s k e).lp p).trigCount = (s.lp p).trigCount + 1 := by
  rw [fireLine_eq]
  obtain ⟨u, marked⟩ : ∃ u, s.modTrack k (lineSent s.now (linePeriod s (s.track k)) (sublines s k e)) = u := ⟨_, rfl⟩
  have track := triggersOnly_track (triggersOnly_foldl (fun s p => issueTrigger_only s p e 0) (s.track k).portsOf u) k
  have here : u.track k = lineSent s.now (linePeriod s (s.track k)) (sublines s k e) (s.track k) := by rw [← marked, State.modTrack_same]
  rw [marked, track, here]
  refine ⟨rfl, rfl, rfl, fun p once => ?_⟩
  obtain ⟨v, -, before, after⟩ := foldl_lp_once (fun s p => issueTrigger_only s p e 0) once u
  rw [after, (triggered_issueTrigger v p e 0).count, before, ← marked, State.modTrack_lp]

theorem encoderLine_inTime (intime : tooSoon s (s.track k) = false) :
    ((encoderLine s k).track k).encLine = (s.track k).encLine + 1 ∧ ((encoderLine s k).track k).highMark = (s.track k).highMark ∧
      ((encoderLine s k).track k).phase = (s.track k).phase ∧
      ∀ p, (s.track k).portsOf.count p = 1 → ((encoderLine s k).lp p).trigCount = (s.lp p).trigCount + 1 := by
  unfold encoderLine
  dsimp only
  rw [if_neg (by rw [intime]; nofun)]
  obtain ⟨encLine, highMark, phase, fired⟩ := fireLine_triggers (s.modTrack k fun x => { x with encLine := (s.track k).encLine + 1 }) k ((s.track k).encLine + 1)
  rw [encLine, highMark, phase, State.modTrack_same]
  rw [State.modTrack_same] at fired
  exact ⟨rfl, rfl, rfl, fun p once => (fired p once).trans (by rw [State.modTrack_lp])⟩

/-- The highest position is the track's own. -/
def passed (x : TrackState) : TrackState := { x with highMark := x.position }

/-- The divider gives up what a line takes. -/
def spent (x : TrackState) : TrackState := { x with phase := x.phase - x.divisor }

theorem countStep_forward (armed : (s.track k).armed = true) (plain : (s.track k).restart = none) : countStep s k true =
    if ((s.modTrack k (stepped true)).track k).highMark < ((s.modTrack k (stepped true)).track k).position then
      if ((s.modTrack k (stepped true)).track k).divisor ≤ ((s.modTrack k (stepped true)).track k).phase ∧ ((s.modTrack k (stepped true)).track k).restart.isNone
      then encoderLine (((s.modTrack k (stepped true)).modTrack k passed).modTrack k spent) k
      else (s.modTrack k (stepped true)).modTrack k passed
    else s.modTrack k (stepped true) := by
  unfold countStep
  dsimp only
  rw [armed, plain]
  rfl

/-- A forward count that passes the highest position and fills the divider issues a line. -/
theorem countStep_line (armed : (s.track k).armed = true) (plain : (s.track k).restart = none) (past : (s.track k).highMark < nextPosition (s.track k) true)
    (full : (s.track k).divisor ≤ (s.track k).phase + 65536) :
    countStep s k true = encoderLine (((s.modTrack k (stepped true)).modTrack k passed).modTrack k spent) k := by
  have none : (stepped true (s.track k)).restart.isNone = true := by
    rw [show (stepped true (s.track k)).restart = (s.track k).restart from rfl, plain]
    rfl
  rw [countStep_forward armed plain, State.modTrack_same]
  exact (if_pos past).trans (if_pos ⟨full, none⟩)

theorem count_issues (turn : (a == (s.track k).chA) ≠ (b == (s.track k).chB))
    (forward : ((quadTurn a b (s.track k).chA (s.track k).chB == 1) != (s.track k).rev) = true) (armed : (s.track k).armed = true)
    (plain : (s.track k).restart = none) (past : (s.track k).highMark < wrap48 ((s.track k).position + 1))
    (full : (s.track k).divisor ≤ (s.track k).phase + 65536) (intime : tooSoon (passTime s (7 * dt)) (s.track k) = false) :
    ∃ t, exec (.encoderCount k a b dt) s = .next t ∧ (t.track k).encLine = (s.track k).encLine + 1 ∧
      (t.track k).highMark = wrap48 ((s.track k).position + 1) ∧ (t.track k).phase = (s.track k).phase + 65536 - (s.track k).divisor ∧
      (∀ p, (s.track k).portsOf.count p = 1 → (t.lp p).trigCount = (s.lp p).trigCount + 1) := by
  have ahead : goesBack (s.track k) a b = false := by
    unfold goesBack
    generalize (quadTurn a b (s.track k).chA (s.track k).chB == 1) = one at forward ⊢
    generalize (s.track k).rev = rev at forward ⊢
    revert one rev
    generalize (quadTurn a b (s.track k).chA (s.track k).chB == 3) = three
    revert three
    decide
  obtain ⟨g, noted, only⟩ := noteFeed_running (s := sampled s k a b dt) (k := k) (.inl ahead)
  rw [exec_moved turn, forward, noted]
  obtain ⟨u, fed⟩ : ∃ u, (sampled s k a b dt).modTrack k g = u := ⟨_, rfl⟩
  have here : u.track k = g (levels a b (s.track k)) := by rw [← fed, State.modTrack_same, sampled_track]
  have kept := only.kept (levels a b (s.track k))
  rw [← here] at kept
  have position : nextPosition (u.track k) true = wrap48 ((s.track k).position + 1) := (congrArg (fun x => nextPosition x true) kept :)
  have highMark : (u.track k).highMark = (s.track k).highMark := (congrArg TrackState.highMark kept :)
  have phase : (u.track k).phase = (s.track k).phase := (congrArg TrackState.phase kept :)
  have divisor : (u.track k).divisor = (s.track k).divisor := (congrArg TrackState.divisor kept :)
  have ports : (u.track k).portsOf = (s.track k).portsOf := (congrArg TrackState.portsOf kept :)
  have encLine : (u.track k).encLine = (s.track k).encLine := (congrArg TrackState.encLine kept :)
  have lp (p : Port) : u.lp p = s.lp p := by rw [← fed, State.modTrack_lp, sampled_lp]
  have clock : u.clk = (passTime s (7 * dt)).clk := by
    rw [← fed, State.modTrack_clk]
    exact State.modTrack_clk ..
  rw [fed, countStep_line ((congrArg TrackState.armed kept :).trans armed) (by rw [here]; exact only.restart _ plain) (by rw [position, highMark]; exact past)
    (by rw [divisor, phase]; exact full)]
  obtain ⟨v, due⟩ : ∃ v, ((u.modTrack k (stepped true)).modTrack k passed).modTrack k spent = v := ⟨_, rfl⟩
  have there : v.track k = spent (passed (stepped true (u.track k))) := by rw [← due, State.modTrack_same, State.modTrack_same, State.modTrack_same]
  have soon : tooSoon v (v.track k) = tooSoon (passTime s (7 * dt)) (s.track k) := by
    have now : v.now = (passTime s (7 * dt)).now := by
      unfold State.now
      rw [← due, State.modTrack_clk, State.modTrack_clk, State.modTrack_clk, clock]
    unfold tooSoon
    rw [now, there, show (spent (passed (stepped true (u.track k)))).lastTrig = (s.track k).lastTrig from (congrArg TrackState.lastTrig kept :),
      show (spent (passed (stepped true (u.track k)))).armedMax = (s.track k).armedMax from (congrArg TrackState.armedMax kept :)]
  rw [due]
  obtain ⟨line, mark, left, fired⟩ := encoderLine_inTime (soon.trans intime)
  refine ⟨_, rfl, ?_, ?_, ?_, fun p once => ?_⟩
  · rw [line, there]
    exact congrArg (· + 1) encLine
  · rw [mark, there]
    exact position
  · rw [left, there]
    exact congrArg₂ (fun x y : Int => x + 65536 - y) phase divisor
  · rw [fired p (by rw [there]; exact (congrArg (List.count p) ports).trans once), ← due, State.modTrack_lp, State.modTrack_lp, State.modTrack_lp, lp]

/-! ### A count on a track that is not armed -/

theorem countStep_unarmed (armed : (s.track k).armed = false) (fwd : Bool) : countStep s k fwd = s.modTrack k (stepped fwd) := by
  unfold countStep
  dsimp only
  rw [if_pos (by rw [armed, Bool.not_false, Bool.or_true])]
  rfl

theorem quadError_leaves (s : State) (k : Track) : ((quadError s k).track k).encLine = (s.track k).encLine ∧ countsOnly s (quadError s k) := by
  unfold quadError diagTrack
  dsimp only
  refine ⟨?_, countsOnly_trans (countsOnly_trans ?_ (countsOnly_modTrack _ k _)) (countsOnly_modTrack _ k _)⟩
  · rw [State.modTrack_same, State.modTrack_same, State.portCnt_track]
  · rfl

theorem count_unarmed (armed : (s.track k).armed = false) (held : (s.track k).held = false) (free : feedHold s k = false) {t : State}
    (ran : exec (.encoderCount k a b dt) s = .next t) : (t.track k).encLine = (s.track k).encLine ∧ countsOnly s t := by
  have here := sampled_track s k a b dt
  obtain ⟨g, noted, only⟩ := noteFeed_running (s := sampled s k a b dt) (b := goesBack (s.track k) a b)
    (.inr ⟨(congrArg TrackState.held here :).trans held, (feedHold_sampled ..).trans free⟩)
  rw [exec_encoderCount, noted] at ran
  obtain ⟨u, fed⟩ : ∃ u, (sampled s k a b dt).modTrack k g = u := ⟨_, rfl⟩
  have kept : _ = _ := only.kept (levels a b (s.track k))
  rw [show g (levels a b (s.track k)) = u.track k by rw [← fed, State.modTrack_same, here]] at kept
  have encLine : (u.track k).encLine = (s.track k).encLine := (congrArg TrackState.encLine kept :)
  have leaves : countsOnly s u := fed ▸ countsOnly_trans (sampled_only s k a b dt) (countsOnly_modTrack _ k g)
  rw [fed] at ran
  obtain rfl := Host.Outcome.next.inj ran
  split
  · exact ⟨encLine, leaves⟩
  · split
    · obtain ⟨same, more⟩ := quadError_leaves u k
      exact ⟨same.trans encLine, countsOnly_trans leaves more⟩
    · rw [countStep_unarmed ((congrArg TrackState.armed kept :).trans armed)]
      refine ⟨?_, countsOnly_trans leaves (countsOnly_modTrack _ k _)⟩
      rw [State.modTrack_same]
      exact encLine

/-! ### SUBLINE_TRIGGER (R41) -/

/-- The sub-line's trigger reaches a port in switched-lamp mode. -/
def sublineOn (d : Nat × Int × Nat) (s : State) (p : Port) : State := if (s.lp p).cfg.switched then issueTrigger s p d.2.1 d.2.2 else s

theorem sublineOn_only (d : Nat × Int × Nat) (s : State) (p : Port) :
    triggersOnly s (sublineOn d s p) ∧ ∀ q, q ≠ p → (sublineOn d s p).lp q = s.lp q := by
  unfold sublineOn
  split
  · exact issueTrigger_only s p d.2.1 d.2.2
  · exact ⟨triggersOnly_refl s, fun _ _ => rfl⟩

/-- The state in which a sub-line's trigger falls due. -/
def sublineDue (s : State) (k : Track) (d : Nat × Int × Nat) (rest : List (Nat × Int × Nat)) : State :=
  (passUntil s d.1).modTrack k fun x => { x with subDue := rest }

section
variable {d : Nat × Int × Nat} {rest : List (Nat × Int × Nat)}

theorem sublineDue_track (s : State) (k : Track) (d : Nat × Int × Nat) (rest : List (Nat × Int × Nat)) :
    (sublineDue s k d rest).track k = { s.track k with subDue := rest } := by
  unfold sublineDue passUntil
  rw [State.modTrack_same, passTime_track]

theorem sublineDue_lp (s : State) (k : Track) (d : Nat × Int × Nat) (rest : List (Nat × Int × Nat)) (p : Port) : (sublineDue s k d rest).lp p = s.lp p := by
  unfold sublineDue
  rw [State.modTrack_lp]
  exact (congrArg (fun u : State => u.lp p) (ticksOnly_passTime s (d.1 - s.now)) :)

theorem exec_sublineTrigger (first : (s.track k).subDue = d :: rest) :
    exec (.sublineTrigger k) s = .next ((s.track k).portsOf.foldl (sublineOn d) (sublineDue s k d rest)) := by
  have ports : ((sublineDue s k d rest).track k).portsOf = (s.track k).portsOf := by rw [sublineDue_track]; rfl
  rw [← ports]
  change execSublineTrigger k s = _
  unfold execSublineTrigger
  rw [first]
  rfl

theorem subline_fires (first : (s.track k).subDue = d :: rest) : ∃ t, exec (.sublineTrigger k) s = .next t ∧ (t.track k).subDue = rest ∧
    (∀ p, (s.track k).portsOf.count p = 1 → (s.lp p).cfg.switched = true →
      (t.lp p).trigCount = (s.lp p).trigCount + 1 ∧ (t.lp p).lamps = [d.2.2] ∧ (∃ x, (t.lp p).trigs.getLast? = some x ∧ x.line = d.2.1 ∧ x.sub = d.2.2)) ∧
    (∀ p, ((s.track k).portsOf.count p = 0 ∨ (s.lp p).cfg.switched = false) → (t.lp p).trigCount = (s.lp p).trigCount) ∧ keeps s t := by
  have only := sublineOn_only d
  refine ⟨_, exec_sublineTrigger first, ?_, fun p once switched => ?_, fun p out => ?_, keeps_of_staysNext (cmd_sublineTrigger k s) (exec_sublineTrigger first)⟩
  · rw [triggersOnly_track (triggersOnly_foldl only _ _) k, sublineDue_track]
  · obtain ⟨v, -, before, after⟩ := foldl_lp_once only once (sublineDue s k d rest)
    rw [sublineDue_lp] at before
    have fires : sublineOn d v p = issueTrigger v p d.2.1 d.2.2 := if_pos (by rw [before]; exact switched)
    have sent := triggered_issueTrigger v p d.2.1 d.2.2
    rw [after, fires]
    exact ⟨sent.count.trans (by rw [before]), sent.lamps (by rw [before]; exact switched), sent.last⟩
  · rw [← sublineDue_lp s k d rest p] at out ⊢
    rcases out with none | three
    · rw [foldl_lp_out only (List.count_eq_zero.mp none)]
    · refine congrArg PortState.trigCount (foldl_keeps (fun u : State => u.lp p = (sublineDue s k d rest).lp p) (sublineOn d) (fun u q same => ?_) _ _ rfl)
      by_cases here : p = q
      · subst here
        rw [show sublineOn d u p = u from if_neg (by rw [same, three]; nofun), same]
      · rw [(only u q).2 p here, same]

theorem subline_alone {p : Port} (first : (s.track k).subDue = d :: rest) (front : (s.track k).front = some p) (back : (s.track k).back = none)
    (switched : (s.lp p).cfg.switched = true) : ∃ t, exec (.sublineTrigger k) s = .next t ∧ (t.track k).subDue = rest ∧
      (t.lp p).trigCount = (s.lp p).trigCount + 1 ∧ (t.lp p).lamps = [d.2.2] ∧
      (∀ q, q ≠ p → t.lp q = s.lp q) ∧ { t with clk := s.clk, cnt := s.cnt, out := s.out, ports := s.ports, trackA := s.trackA, trackB := s.trackB } = s := by
  have alone : (s.track k).portsOf = [p] := by
    unfold TrackState.portsOf TrackState.sides
    rw [front, back]
    rfl
  have sent := triggered_issueTrigger (sublineDue s k d rest) p d.2.1 d.2.2
  have lp := sublineDue_lp s k d rest
  have fires : [p].foldl (sublineOn d) (sublineDue s k d rest) = issueTrigger (sublineDue s k d rest) p d.2.1 d.2.2 := if_pos (by rw [lp]; exact switched)
  refine ⟨_, exec_sublineTrigger first, ?_⟩
  rw [alone, fires]
  refine ⟨?_, sent.count.trans (by rw [lp]), sent.lamps (by rw [lp]; exact switched), fun q other => (sent.others q other).trans (lp q), ?_⟩
  · rw [triggersOnly_track sent.frame k, sublineDue_track]
  · have due : countsOnly s (sublineDue s k d rest) := State.modTrack_frame (ticksOnly_passTime s (d.1 - s.now)) k _
    have both := (congrArg (fun u : State => { u with clk := s.clk, ports := s.ports, cnt := s.cnt, out := s.out, trackA := s.trackA, trackB := s.trackB }) sent.frame :)
    exact both.trans (congrArg (fun u : State => { u with ports := s.ports, out := s.out }) due :)

end

/-! ### CAL_TRIGGER (R62) -/

/-- The port with one more trigger of its CAL_RUN on record. -/
def calIssued (c : CalSt) (older : List TrigRec) (r : TrigRec) (y : PortState) : PortState :=
  { y with cal := some { c with issued := c.issued + 1 }, trigCount := y.trigCount + 1, trigs := older ++ [r] }

section
variable {p : Port} {c : CalSt}

theorem passTime_lp (s : State) (n : Nat) (p : Port) : (passTime s n).lp p = s.lp p := (congrArg (fun u : State => u.lp p) (ticksOnly_passTime s n) :)

theorem calTrigger_issues (running : (s.lp p).cal = some c) (more : c.issued < calTotal c) : ∃ t, exec (.calTrigger p) s = .next t ∧
    (t.lp p).cal = some { c with issued := c.issued + 1 } ∧ (t.lp p).trigCount = (s.lp p).trigCount + 1 ∧ (∀ q, q ≠ p → t.lp q = s.lp q) ∧
    { t with clk := s.clk, cnt := s.cnt, out := s.out, ports := s.ports } = s := by
  obtain ⟨u, passedOn⟩ : ∃ u, passTime s 140000 = u := ⟨_, rfl⟩
  have lp (q : Port) : u.lp q = s.lp q := passedOn ▸ passTime_lp s 140000 q
  have ticks : ticksOnly s u := passedOn ▸ ticksOnly_passTime s 140000
  obtain ⟨r, record⟩ : ∃ r : TrigRec, { num := (u.lp p).trigCount + 1, line := 0, sub := if c.issued < 64 then 8 else if c.switched then (c.issued - 64) % 3 else 0, got := [] } = r := ⟨_, rfl⟩
  obtain ⟨v, issued⟩ : ∃ v, u.modPort p (calIssued c ((u.lp p).trigs.drop ((u.lp p).trigs.length - 1)) r) = v := ⟨_, rfl⟩
  obtain ⟨w, lit, lights⟩ : ∃ w, (if c.issued < 64 then v else if c.switched then switchLamp v p (if c.issued < 64 then 8 else if c.switched then (c.issued - 64) % 3 else 0)
      else if c.issued = 64 then lampsOn v p else v) = w ∧ lightsOnly p v w := by
    refine ⟨_, rfl, ?_⟩
    have still : lightsOnly p v v := ⟨rfl, fun _ _ => rfl, rfl⟩
    split
    · exact still
    · split
      · exact (lightsOnly_switchLamp ..).1
      · split
        · exact (lightsOnly_lampsOn ..).1
        · exact still
  have ran : exec (.calTrigger p) s = .next (emitPort (w.portCnt p 4) (.trigger p ((u.lp p).trigCount + 1))) := by
    change execCalTrigger p s = _
    unfold execCalTrigger
    rw [running]
    dsimp only
    rw [if_neg (by omega), passedOn]
    simp only [record]
    rw [← lit, ← issued]
    rfl
  have here : v.lp p = calIssued c ((u.lp p).trigs.drop ((u.lp p).trigs.length - 1)) r (u.lp p) := by rw [← issued, State.modPort_same]
  obtain ⟨rest, others, kept⟩ := lights
  refine ⟨_, ran, ?_, ?_, fun q other => ?_, ?_⟩
  · rw [emitPort_lp]
    refine (congrArg PortState.cal kept :).trans ?_
    rw [here]
    rfl
  · rw [emitPort_lp]
    refine (congrArg PortState.trigCount kept :).trans ?_
    rw [here]
    exact congrArg (fun x : PortState => x.trigCount + 1) (lp p)
  · rw [emitPort_lp]
    refine (others q other).trans ?_
    rw [← issued, State.modPort_other u other.symm]
    exact lp q
  · have sent := (congrArg (fun x : State => { x with clk := s.clk, cnt := s.cnt, ports := s.ports, out := s.out }) (emitPort_frame (w.portCnt p 4) (.trigger p ((u.lp p).trigCount + 1))) :)
    have lamps := (congrArg (fun x : State => { x with clk := s.clk, cnt := s.cnt, ports := s.ports, out := s.out }) rest :)
    have filedOn : { v with clk := s.clk, cnt := s.cnt, ports := s.ports, out := s.out } = s := by
      rw [← issued]
      exact (congrArg (fun x : State => { x with ports := s.ports, out := s.out }) ticks :)
    exact sent.trans (lamps.trans filedOn)

theorem sendSync_lp (s : State) (q : Port) : (sendSync s).lp q = s.lp q := by
  unfold sendSync
  split
  · refine foldl_keeps (fun u : State => u.lp q = s.lp q) _ (fun u _ same => ?_) _ _ rfl
    exact (congrArg (fun x : State => x.lp q) (sendFrame_frame u _ _ _ _ _ _) :).trans same
  · rfl

theorem finishCal_port (s : State) (p : Port) (c : CalSt) : ((finishCal s p c).lp p).cal = none ∧ ((finishCal s p c).lp p).inUse = some (calResult s p c) := by
  unfold finishCal
  dsimp only
  rw [sendSync_lp]
  obtain ⟨u, set⟩ : ∃ u, ((s.hostWrite c.r.fn c.op.addr (coefSetBytes (calResult s p c))).modPort p fun x =>
    { x with inUse := some (calResult s p c), calKey := some (((s.hostWrite c.r.fn c.op.addr (coefSetBytes (calResult s p c))).lp p).cfg.width, c.switched), cal := none, trigs := [],
             deadCols := if c.switched then [] else deadColours (calResult s p c) }) = u := ⟨_, rfl⟩
  rw [set]
  have lp (v : State) (h : Hdr) (x : List Byte) : (complete v c.r h 0x03 .ok x).lp p = v.lp p := (congrArg (fun y : State => y.lp p) (answersOnly_complete v c.r h 0x03 .ok x) :)
  rw [lp]
  have ⟨⟨_, _, kept⟩, _⟩ := lightsOnly_lampsOff u p
  refine ⟨(congrArg PortState.cal kept :).trans ?_, (congrArg PortState.inUse kept :).trans ?_⟩
  · rw [← set, State.modPort_same]
  · rw [← set, State.modPort_same]

theorem calTrigger_ends (running : (s.lp p).cal = some c) (last : calTotal c ≤ c.issued) : ∃ t, exec (.calTrigger p) s = .next t ∧
    (t.lp p).cal = none ∧ (t.lp p).inUse = some (calResult (passTime s 140000) p c) ∧ keeps s t := by
  have ran : exec (.calTrigger p) s = .next (finishCal (passTime s 140000) p c) := by
    change execCalTrigger p s = _
    unfold execCalTrigger
    rw [running]
    exact if_pos last
  obtain ⟨cal, inUse⟩ := finishCal_port (passTime s 140000) p c
  exact ⟨_, ran, cal, inUse, keeps_of_staysNext (cmd_calTrigger p s) ran⟩

end

end

end Sys2Proof.Machine

open Sys2Proof Sys2Proof.Machine

/-- Settles O51: each accepted count moves the encoder whatever its line then brings (`encoderStays`), and a trigger on a port touches that port alone. -/
theorem countsAndTriggers : Obligations.CountsAndTriggers := by
  refine ⟨count_moves, fun s k a b dt turn forward armed plain past full intime => count_issues turn forward armed plain past full intime,
    fun s k d rest first => subline_fires first, fun s k a b dt armed held free => ?_, fun s => ⟨fun k p d rest first front back switched _ => subline_alone first front back switched,
      fun p c running more => calTrigger_issues running more, fun p c running last => calTrigger_ends running last⟩⟩
  obtain ⟨t, ran, chA, chB, still, moved, -⟩ := count_moves s k a b dt
  obtain ⟨encLine, leaves⟩ := count_unarmed armed held free ran
  exact ⟨t, ran, chA, chB, fun sameA sameB => still (by rw [sameA, sameB, beq_self_eq_true, beq_self_eq_true]), moved, encLine, leaves⟩

end

section
/-! PROOF. Setting up a function's rings, record ring and peg grant (R286, R287, R294, R304, R316, R473). -/

namespace Sys2Proof.Machine

open Sys2Proof

/-! ### The functions' state -/

section
variable {s t : State} (same : t.fns = s.fns)
include same

theorem fnOf_of_fns (f : Fn) : t.fnOf f = s.fnOf f := by
  unfold State.fnOf
  rw [same]

theorem ring_of_fns (r : RingRef) : t.ring r = s.ring r := by
  unfold State.ring
  rw [fnOf_of_fns same]

theorem modRing_fns (r : RingRef) (g : RingPair → RingPair) : (t.modRing r g).fns = (s.modRing r g).fns := by
  unfold State.modRing State.modFn
  rw [same]

end

/-! ### The folds that a pair gives up -/

theorem setBasketCause_fns (s : State) (b : Bool) : (setBasketCause s b).fns = s.fns :=
  foldl_keeps (fun u : State => u.fns = s.fns) _ (fun u k same => by
    split
    · exact same
    · exact (State.modTrack_fns ..).trans same) _ _ rfl

theorem basketMarks_fns (s : State) : (basketMarks s).fns = s.fns := by
  unfold basketMarks
  dsimp only
  split
  · exact setBasketCause_fns ..
  · split
    · exact setBasketCause_fns ..
    · rfl

theorem discardMembers_fns (s : State) (f : FoldSt) : (discardMembers s f).fns = s.fns :=
  foldl_keeps (fun u : State => u.fns = s.fns) _ (fun u m same => by
    split
    · exact (basketMarks_fns _).trans same
    · exact same) _ _ rfl

theorem dropSwaps_fns (s : State) (f : FoldSt) : (dropSwaps s f).fns = s.fns :=
  foldl_keeps (fun u : State => u.fns = s.fns) _ (fun u m same => by
    split
    · exact same
    · exact same) _ _ rfl

/-- The pair without a fold of this number. -/
def without (id : Nat) (x : RingPair) : RingPair :=
  { x with fold := x.fold.bind fun f => if f.id = id then none else some f, closed := x.closed.filter fun f => f.id != id }

/-- Giving up one fold takes it from its pair, and the functions' state is else as it was. -/
theorem giveUp_fns (s : State) (r : RingRef) (f : FoldSt) : (dropFold (discardMembers (dropSwaps s f) f) r f.id).fns = (s.modRing r (without f.id)).fns :=
  modRing_fns ((discardMembers_fns _ f).trans (dropSwaps_fns s f)) r (without f.id)

/-- A pair gives up its open fold, and no more is open on it. -/
theorem abandonOwn_fns (s : State) (r : RingRef) :
    ∃ c, (abandonFolds s r false).fns = (s.modRing r fun x => { x with fold := none, closed := c }).fns ∧ ((s.ring r).fold = none → c = (s.ring r).closed) := by
  unfold abandonFolds
  cases fold : (s.ring r).fold with
  | none =>
    refine ⟨(s.ring r).closed, ?_, fun _ => rfl⟩
    rw [modRing_id s r _ (by rw [← fold])]
    rfl
  | some f =>
    refine ⟨(s.ring r).closed.filter fun g => g.id != f.id, ?_, nofun⟩
    refine (giveUp_fns s r f).trans (congrArg State.fns (modRing_congr s r ?_))
    unfold without
    rw [fold]
    exact congrArg (fun v => ({ s.ring r with fold := v, closed := (s.ring r).closed.filter fun g => g.id != f.id } : RingPair)) (if_pos rfl)

theorem abandonOwn_none {s : State} {r : RingRef} (none : (s.ring r).fold = none) : abandonFolds s r false = s := by
  unfold abandonFolds
  rw [none]
  rfl

/-! ### Stopping a pair -/

/-- The pair as a stop leaves it. -/
def stopped (c : List FoldSt) (x : RingPair) : RingPair :=
  { x with fetched := [], unfetched := 0, held := [], running := [], pegWait := false, unsignalled := 0, firstUnsig := none, gen := x.gen + 1, fold := none,
           closed := c }

/-- The pair as its stop leaves it, but for its folds. -/
def halted (x : RingPair) : RingPair :=
  { x with fetched := [], unfetched := 0, held := [], running := [], pegWait := false, unsignalled := 0, firstUnsig := none, gen := x.gen + 1 }

theorem stopPair_fns (s : State) (r : RingRef) :
    ∃ c, (stopPair s r).fns = (s.modRing r (stopped c)).fns ∧ ((s.ring r).fold = none → c = (s.ring r).closed) := by
  obtain ⟨c, gone, kept⟩ := abandonOwn_fns s r
  refine ⟨c, ?_, kept⟩
  have halts : (stopPair s r).fns = ((abandonFolds s r false).modRing r halted).fns := rfl
  rw [halts, modRing_fns gone, modRing_modRing]
  rfl

theorem stopPair_waits (s : State) (r : RingRef) : ∀ w ∈ (stopPair s r).pegs.waits, (w.r.fn, w.r.pair) ≠ (r.fn, r.pair) := by
  intro w mem same
  obtain ⟨fn, pair⟩ := Prod.mk.inj same
  have other := (List.mem_filter.mp mem).2
  rw [fn, pair, beq_self_eq_true, beq_self_eq_true] at other
  exact nomatch other

theorem stopPair_frame {s : State} {r : RingRef} (none : (s.ring r).fold = none) : { stopPair s r with fns := s.fns, pegs := s.pegs } = s := by
  unfold stopPair
  rw [abandonOwn_none none]
  rfl

/-! ### Disabling a pair -/

/-- The pair as it is before it is disabled: stopped, unless a fault has stopped it already. -/
def beforeDisable (s : State) (r : RingRef) : State := if (s.ring r).fault then s else stopPair s r

section
variable {s : State} {i : RingId}

theorem exec_ringDisable (on : (s.ring (s.ref i)).enable = true) :
    exec (.ringDisable i) s = .next ((beforeDisable s (s.ref i)).modRing (s.ref i) fun x => { x with enable := false }) := by
  change Host.Outcome.next (disableRing s i) = _
  unfold disableRing
  dsimp only
  rw [on]
  rfl

/-- What a stop ends of a pair, and the waits for its pegs. -/
theorem beforeDisable_ends (sound : (s.ring (s.ref i)).fault = false) :
    let x := (beforeDisable s (s.ref i)).ring (s.ref i)
    x.fold = none ∧ x.fetched = [] ∧ x.held = [] ∧ x.running = [] ∧ x.pegWait = false ∧
      ∀ w ∈ (beforeDisable s (s.ref i)).pegs.waits, (w.r.fn, w.r.pair) ≠ (i.fn, i.pair) := by
  have stops : beforeDisable s (s.ref i) = stopPair s (s.ref i) := if_neg (by rw [sound]; nofun)
  obtain ⟨c, fns, -⟩ := stopPair_fns s (s.ref i)
  rw [stops, ring_of_fns fns, State.modRing_same]
  exact ⟨rfl, rfl, rfl, rfl, rfl, stopPair_waits s (s.ref i)⟩

theorem ringDisable_ends (on : (s.ring (s.ref i)).enable = true) : ∃ t, exec (.ringDisable i) s = .next t ∧ (t.ring (s.ref i)).enable = false ∧
    ((s.ring (s.ref i)).fault = false → (t.ring (s.ref i)).fold = none ∧ (t.ring (s.ref i)).fetched = [] ∧ (t.ring (s.ref i)).held = [] ∧
      (t.ring (s.ref i)).running = [] ∧ (t.ring (s.ref i)).pegWait = false ∧ ∀ w ∈ t.pegs.waits, (w.r.fn, w.r.pair) ≠ (i.fn, i.pair)) := by
  refine ⟨_, exec_ringDisable on, ?_, fun sound => ?_⟩
  · rw [State.modRing_same]
  · rw [State.modRing_same]
    exact beforeDisable_ends sound

theorem ringDisable_alone (on : (s.ring (s.ref i)).enable = true) (none : (s.ring (s.ref i)).fold = none) : ∃ t, exec (.ringDisable i) s = .next t ∧
    (t.ring (s.ref i)).enable = false ∧ ((s.ring (s.ref i)).fault = false → (t.ring (s.ref i)).fetched = [] ∧ (t.ring (s.ref i)).held = [] ∧
      (t.ring (s.ref i)).running = [] ∧ (t.ring (s.ref i)).pegWait = false ∧ ∀ w ∈ t.pegs.waits, (w.r.fn, w.r.pair) ≠ (i.fn, i.pair)) ∧
    (∀ q : RingRef, (q.fn, q.pair) ≠ (i.fn, i.pair) → t.ring q = s.ring q) ∧ { t with fns := s.fns, pegs := s.pegs } = s := by
  obtain ⟨t, ran, off, ends⟩ := ringDisable_ends on
  refine ⟨t, ran, off, fun sound => (ends sound).2, ?_⟩
  obtain rfl := Host.Outcome.next.inj ((exec_ringDisable on).symm.trans ran)
  refine ⟨fun q other => ?_, ?_⟩
  · rw [State.modRing_other _ other.symm]
    unfold beforeDisable
    split
    · rfl
    · obtain ⟨c, fns, -⟩ := stopPair_fns s (s.ref i)
      rw [ring_of_fns fns, State.modRing_other _ other.symm]
  · unfold beforeDisable
    split
    · rfl
    · exact stopPair_frame none

/-! ### Peg grants -/

theorem exec_pegGrant {fn : Fn} {n : Nat} (stage : 2 ≤ s.boot.stage) (size : n ≤ 7680) (range : regGet s 0 (0x3000 + 4 * fn.val) + n ≤ 8192)
    (first : 0 < n → 512 ≤ regGet s 0 (0x3000 + 4 * fn.val)) (apart : grantOverlaps s fn (regGet s 0 (0x3000 + 4 * fn.val)) n = false)
    (off : ∀ p : Fin 8, ((s.fnOf fn).rings[p.val]).enable = false) :
    exec (.pegGrant fn n) s = .next ((regSet s 0 (0x3040 + 4 * fn.val) n).modFn fn
      fun f => { f with pegBase := regGet s 0 (0x3000 + 4 * fn.val), pegCount := n }) := by
  have idle : ((fnRings s fn).any fun r => (s.ring r).enable) = false := by
    refine List.any_eq_false.mpr fun r mem => ?_
    obtain ⟨p, -, rfl⟩ := List.mem_map.mp mem
    exact Bool.eq_false_iff.mp (off p)
  change Host.Outcome.next (if s.boot.stage < 2 then s else pegGrant s fn n) = _
  rw [if_neg (by omega)]
  unfold pegGrant
  dsimp only
  rw [if_neg (by omega), if_neg (by rw [apart]; nofun), if_neg (by rw [idle]; nofun)]

end

end Sys2Proof.Machine

open Sys2Proof Sys2Proof.Machine

/-- Settles O25: each set-up command changes its own pair or function alone; a stop empties its pair and gives up its open fold. -/
theorem ringSetup : Obligations.RingSetup := by
  intro s i
  refine ⟨fun usable off => ?_, ringDisable_ends, ringDisable_alone, fun fn usable off => ?_, fun fn n stage size range first apart off => ?_⟩
  · have ran : exec (.ringEnable i) s = .next (s.modRing (s.ref i) fun x =>
        { x with enable := true, fault := false, cause := 0, sqTail := 0, sqHead := 0, cqTail := 0, cqHead := 0 }) := by
      change Host.Outcome.next (enableRing s i) = _
      unfold enableRing
      dsimp only
      rw [usable, off]
      rfl
    exact ⟨_, ran, State.modRing_same .., fun q other => State.modRing_other s other.symm _, rfl⟩
  · have ran : exec (.recRingEnable fn) s = .next (s.modFn fn fun f => { f with recEnable := true, recTail := 0, recHead := 0 }) := by
      change Host.Outcome.next (enableRec s fn) = _
      unfold enableRec
      rw [usable, off]
      rfl
    exact ⟨_, ran, State.modFn_same .., fun f other => State.modFn_other s other.symm _, rfl⟩
  · exact ⟨_, exec_pegGrant stage size range first apart off, State.modFn_same .., fun f other => State.modFn_other _ other.symm _,
      regGet_regSet_same s 0 _ (by omega), rfl⟩

end

section
/-! PROOF. What the pump of the rings, and every descriptor that it starts, can change: the functions' state beside their pairs, the registers and the
head of the health log stand, and a job that has ended stays so. -/

namespace Sys2Proof.Machine

open Sys2Proof

/-! ### The further changes of the pump -/

/-- A function beside its pairs and its pending vectors. -/
def bareHost (f : FnState) : FnState := { f with rings := Vector.replicate 8 RingPair.reset, pendingBits := [] }

/-- The functions beside their pairs, the registers, the head of the health log and the regions beside their tiles. -/
def hostPart (s : State) : (Fn → FnState) × List (Nat × Word64) × Word32 × (Region → RegionSt) :=
  (fun f => bareHost (s.fnOf f), s.regs, s.health.head, fun g => coreRegion (s.reg8 g))

/-- The further changes that a descriptor can make. -/
inductive Pumped (s : State) : State → Prop
  | apart {t : State} (host : hostPart t = hostPart s) (jobs : t.sched.jobs = s.sched.jobs) (next : t.sched.nextId = s.sched.nextId) : Pumped s t
  | pair (r : RingRef) (g : RingPair → RingPair) : Pumped s (s.modRing r g)
  | enlist (j : Job) : Pumped s (addJob s j).2
  | granted {t : State} (more : Granted s t) : Pumped s t

abbrev Pumps : State → State → Prop := Works Pumped

section
variable {s₀ s t : State}

theorem pumps_apart (h : Pumps s₀ s) (host : hostPart t = hostPart s) (jobs : t.sched.jobs = s.sched.jobs) (next : t.sched.nextId = s.sched.nextId) : Pumps s₀ t :=
  h.tail (.extra (.apart host jobs next))

theorem pumped_outer (s t : State) (h : Outer s t) : Pumped s t := by
  cases h with
  | apart same =>
    have part : hostPart t = hostPart s := (congrArg hostPart same :)
    have sched : t.sched = s.sched := (congrArg State.sched same :)
    exact .apart part (congrArg Sched.jobs sched) (congrArg Sched.nextId sched)
  | tile n f =>
    refine .apart ?_ rfl rfl
    unfold hostPart
    rw [show (fun g => coreRegion ((s.modTile n f).reg8 g)) = fun g => coreRegion (s.reg8 g) from funext (coreRegion_modTile s n f)]
    rfl

theorem pumps_modPort {p g} (h : Pumps s₀ s) : Pumps s₀ (s.modPort p g) := works_modPort pumped_outer h
theorem pumps_modTrack {k g} (h : Pumps s₀ s) : Pumps s₀ (s.modTrack k g) := works_anyTrack pumped_outer h
theorem pumps_modPlan {n f} (h : Pumps s₀ s) : Pumps s₀ (modPlan s n f) := pumps_apart h rfl rfl rfl
theorem pumps_setPin {k b} (h : Pumps s₀ s) : Pumps s₀ (setPin s k b) := pumps_apart h rfl rfl rfl
theorem pumps_setBank {k b} (h : Pumps s₀ s) : Pumps s₀ (setBank s k b) := pumps_apart h rfl rfl rfl
theorem pumps_setPeg {p v} (h : Pumps s₀ s) : Pumps s₀ (s.setPeg p v) := pumps_apart h rfl rfl rfl
theorem pumps_modRing {r g} (h : Pumps s₀ s) : Pumps s₀ (s.modRing r g) := h.tail (.extra (.pair r g))
theorem pumps_addJob {j} (h : Pumps s₀ s) : Pumps s₀ (addJob s j).2 := h.tail (.extra (.enlist j))
theorem pumps_addMember {r m b} (h : Pumps s₀ s) : Pumps s₀ (addMember s r m b) := pumps_modRing h

theorem pumps_serveImages (h : Pumps s₀ s) : Pumps s₀ (serveImages s) := works_serveImages (fun _ _ => .granted) h

/-! ### Pegs -/

theorem pumps_judgeWait {w} (h : Pumps s₀ s) : Pumps s₀ (judgeWait s w) :=
  have k := h.tail (.waited w.r)
  works_ite (works_postCompl k) (works_ite (works_postCompl k) (h.tail (.aside _ _ _ _ _ _ _ _ _ _ fun _ kept => kept)))

theorem pumps_pegArbitrate {sets adds} (h : Pumps s₀ s) : Pumps s₀ (pegArbitrate s sets adds) :=
  works_foldl (works_foldl (works_foldl (h.tail (.aside _ _ _ _ _ _ _ _ _ _ fun _ kept => kept)) fun _ _ => pumps_setPeg) fun _ _ => pumps_setPeg) fun _ _ => pumps_judgeWait

/-! ### The twin link and the lamps -/

theorem pumps_sendFrame {ty fl w x o p} (h : Pumps s₀ s) : Pumps s₀ (sendFrame s ty fl w x o p) := works_sendFrame pumped_outer h

theorem pumps_sendWrites {w x b} (cs : List (List Byte)) {off} (h : Pumps s₀ s) : Pumps s₀ (sendWrites w x b s off cs) := by
  induction cs generalizing s off with
  | nil => exact h
  | cons c cs ih => exact ih (pumps_sendFrame h)

/-! ### Arming, disarming and CAL_RUN -/

theorem pumps_diagPiece {k n i sd c v} (h : Pumps s₀ s) : Pumps s₀ (diagPiece s k n i sd c v) := by
  unfold diagPiece
  exact pumps_modTrack h

theorem pumps_armTrack {k f n} (h : Pumps s₀ s) : Pumps s₀ (armTrack s k f n) := by
  unfold armTrack
  exact pumps_modTrack h

theorem pumps_deadRecovery {p cs} (h : Pumps s₀ s) : Pumps s₀ (deadRecovery s p cs) :=
  works_unless (fun h => works_unless (fun h => works_sendSync pumped_outer (pumps_modTrack (pumps_modPort (works_lampsOff pumped_outer h))))
    (works_foldl (pumps_modPort h) fun _ _ h => works_foldl h fun _ _ => pumps_diagPiece)) h

theorem pumps_reserveAll (cs : List (Port × PortCfg)) (h : Pumps s₀ s) (reserved : reserveAll s cs = some t) : Pumps s₀ t := by
  induction cs generalizing s with
  | nil => exact Option.some.inj reserved ▸ h
  | cons c cs ih =>
    obtain ⟨u, first, rest⟩ := Option.bind_eq_some_iff.mp reserved
    exact ih (works_reserveTiles pumped_outer h first) rest

theorem pumps_armPort {p c e} (h : Pumps s₀ s) : Pumps s₀ (armPort s p c e) := works_unless (works_lampsOn pumped_outer) (pumps_modPort h)

theorem pumps_armNow {r k o t f cs n} (h : Pumps s₀ s) : Pumps s₀ (armNow s r k o t f cs n) := by
  unfold armNow
  split
  · exact works_complete h
  next reserved =>
    have reserved := pumps_reserveAll cs h reserved
    exact works_finishArms pumped_outer (works_sendSync pumped_outer (pumps_modTrack (works_foldl
      (works_assignEngines pumped_outer (pumps_armTrack (works_foldl reserved fun _ _ => pumps_armPort))) fun _ _ => works_unless pumps_deadRecovery)))

theorem pumps_runScanArm {r k o} (h : Pumps s₀ s) : Pumps s₀ (runScanArm s r k o) := by
  have done {st x} : Pumps s₀ (complete s r k 0x01 st x) := works_complete h
  refine works_ite done (works_ite done (works_ite done (works_ite done ?_)))
  split
  · exact done
  · dsimp only
    split
    · exact done
    · refine works_ite (pumps_armNow h) ?_
      split
      · exact done
      · refine works_ite done ?_
        split
        · exact done
        · exact works_ite done (pumps_armNow h)

theorem pumps_runCalRun {r k o} (h : Pumps s₀ s) : Pumps s₀ (runCalRun s r k o) := works_ite (works_complete h) (works_startCals pumped_outer (pumps_modPort h))

theorem pumps_runScanDisarm {r k n} (h : Pumps s₀ s) : Pumps s₀ (runScanDisarm s r k n) := works_ite (works_complete h) (pumps_modTrack h)

/-! ### Page-table edits, tests, plans and windows -/

theorem works_shareOne {E : State → State → Prop} {q p o l} (h : Works E s₀ s) : Works E s₀ (shareOne q p o s l) := by
  unfold shareOne
  split
  · exact works_modSeq (works_pool h)
  · exact h

theorem works_editApply {E : State → State → Prop} {f o} (h : Works E s₀ s) : Works E s₀ (editApply s f o) := by
  unfold editApply
  split
  · exact h
  · split
    · split
      · exact h
      · exact works_modSeq (works_foldl h fun _ _ => works_shareOne)
    · exact works_modSeq h
    · exact works_modSeq h
    · exact works_modSeq (works_foldl h fun _ _ => works_dropOne)
    · exact works_modSeq h

theorem works_doDarn {E : State → State → Prop} {t b r p} (h : Works E s₀ s) : Works E s₀ (doDarn s t b r p) := works_logHealth (works_store h)

theorem works_logFull {E : State → State → Prop} {t b} (h : Works E s₀ s) : Works E s₀ (logFull s t b) := works_ite h (works_logHealth (works_store h))

theorem works_darnRow {E : State → State → Prop} {t b r c} (h : Works E s₀ s) : Works E s₀ (darnRow s t b r c).2 := by
  unfold darnRow
  split
  · exact works_doDarn h
  · exact works_logFull h

theorem pumps_runTestRun {r k o} (h : Pumps s₀ s) : Pumps s₀ (runTestRun s r k o) := by
  unfold runTestRun
  dsimp only
  split
  · exact works_schedule (pumps_addJob h)
  · exact works_schedule (pumps_addJob h)
  · exact works_ite (pumps_addJob h) (works_complete h)
  · split
    · exact works_complete h
    · exact works_complete (works_hostWrite h)
  · exact works_ite (works_complete h) (works_complete (works_darnRow h))
  · exact works_ite (works_complete h) (works_complete (works_setMark h))

theorem pumps_startLoad (h : Pumps s₀ s) : Pumps s₀ (startLoad s) := by
  unfold startLoad
  split
  · exact works_hostRead (pumps_apart h rfl rfl rfl)
  · exact h

theorem pumps_runPlanLoad {r k o} (h : Pumps s₀ s) : Pumps s₀ (runPlanLoad s r k o) :=
  works_ite (works_complete h) (works_when pumps_startLoad (pumps_apart h rfl rfl rfl))

theorem pumps_runPlanUnload {r k n} (h : Pumps s₀ s) : Pumps s₀ (runPlanUnload s r k n) := by
  unfold runPlanUnload
  split
  · exact works_complete h
  · dsimp only
    split
    · exact pumps_modPlan (pumps_modPlan h)
    · exact pumps_modPlan h

theorem pumps_runWardrobePin {r k o} (h : Pumps s₀ s) : Pumps s₀ (runWardrobePin s r k o) := by
  unfold runWardrobePin
  dsimp only
  split
  · exact works_complete h
  · exact works_ite (works_complete (pumps_setPin h)) (works_ite (works_complete (works_unless (works_when pumps_setPin) h))
      (works_ite (works_complete h) (works_requestLoad h)))

theorem pumps_runSnapshot {r k o} (h : Pumps s₀ s) : Pumps s₀ (runSnapshot s r k o) := by
  unfold runSnapshot
  split
  · exact works_complete h
  · split
    · exact h
    · dsimp only
      split
      · exact pumps_setBank h
      · exact pumps_setBank h

theorem pumps_runWindowOpen {r k o} (h : Pumps s₀ s) : Pumps s₀ (runWindowOpen s r k o) := by
  unfold runWindowOpen
  split
  · exact works_complete h
  · exact works_complete (pumps_sendFrame (pumps_apart h rfl rfl rfl))

theorem pumps_runWindowClose {r k w} (h : Pumps s₀ s) : Pumps s₀ (runWindowClose s r k w) := by
  unfold runWindowClose
  split
  · exact works_complete h
  · exact works_complete (pumps_sendFrame (pumps_apart h rfl rfl rfl))

theorem works_dmaSource {E : State → State → Prop} {f o x} (h : Works E s₀ s) : Works E s₀ (dmaSource s f o x).2.2 := by
  unfold dmaSource
  split
  · exact h
  · exact h
  · dsimp only
    split
    · exact works_readBytes h
    · split
      · exact works_readBytes h
      · exact works_logWords (works_readWord (works_readBytes h))

theorem pumps_runTwinDma {r k o x} (h : Pumps s₀ s) : Pumps s₀ (runTwinDma s r k o x) := by
  unfold runTwinDma
  split
  · exact works_complete h
  · have read : Pumps s₀ (dmaSource (if o.src = 0 then s.hostRead r.fn o.srcAddr o.len else s) r.fn o x).2.2 :=
      works_dmaSource (works_when works_hostRead h)
    dsimp only
    generalize dmaSource _ r.fn o x = d at read ⊢
    have sent {id b tw off cs} : Pumps s₀ (sendWrites o.win id b { d.2.2 with twin := tw } off cs) :=
      pumps_sendWrites cs (pumps_apart read rfl rfl rfl)
    split
    · exact works_complete sent
    · exact works_ite (works_complete sent) (pumps_apart sent rfl rfl rfl)

/-! ### Images, SEQ_STEPs and tailoring -/

theorem pumps_startImage {r k o x} (h : Pumps s₀ s) : Pumps s₀ (startImage s r k o x) := by
  unfold startImage
  split
  · exact works_complete h
  · exact pumps_serveImages (pumps_addJob (works_unless works_hostRead h))

theorem pumps_startSeqStep {r k o x} (h : Pumps s₀ s) : Pumps s₀ (startSeqStep s r k o x) := by
  unfold startSeqStep
  split
  · exact works_complete h
  · exact pumps_addJob (works_hostRead h)

theorem pumps_tailorEmpty {j} (h : Pumps s₀ s) : Pumps s₀ (tailorEmpty s j) := by
  unfold tailorEmpty
  split
  · exact works_when (works_endTailor fun _ _ => .granted) h
  · exact h

theorem pumps_ensureMasters {p} (h : Pumps s₀ s) (made : ensureMasters s p = some t) : Pumps s₀ t := by
  unfold ensureMasters at made
  split at made
  · exact Option.some.inj made ▸ h
  · dsimp only at made
    split at made
    · cases made
    · exact Option.some.inj made ▸ pumps_apart h rfl rfl rfl

theorem pumps_startTailor {r k o a b j} (h : Pumps s₀ s) (started : startTailor s r k o a b = .ok (j, t)) : Pumps s₀ t := by
  unfold startTailor at started
  split at started
  · cases started
  · split at started
    · cases started
    · split at started
      · cases started
      next made =>
        obtain ⟨-, rfl⟩ := Prod.mk.inj (Except.ok.inj started)
        exact pumps_tailorEmpty (pumps_apart (pumps_addJob (pumps_ensureMasters h made)) rfl rfl rfl)

theorem pumps_startTailorStep {r k o x} (h : Pumps s₀ s) : Pumps s₀ (startTailorStep s r k o x) := by
  unfold startTailorStep
  split
  · exact works_complete h
  next started => exact pumps_serveImages (pumps_startTailor (works_hostRead h) started)

theorem pumps_startEdit {r k o} (h : Pumps s₀ s) : Pumps s₀ (startEdit s r k o) := by
  unfold startEdit
  split
  · exact works_ite (works_complete (works_chipCnt h)) (works_complete (works_chipCnt h))
  · refine works_when (fun h => ?_) (works_complete (works_chipCnt (works_pool (works_editApply h))))
    split
    · exact works_releaseSeq h
    · exact h

theorem pumps_startPegWait {r k o} (h : Pumps s₀ s) : Pumps s₀ (startPegWait s r k o) :=
  pumps_pegArbitrate (pumps_apart (pumps_modRing (r := r) (g := fun x => { x with pegWait := true }) h) rfl rfl rfl)

theorem pumps_startPegSignal {r k o} (h : Pumps s₀ s) : Pumps s₀ (startPegSignal s r k o) :=
  works_complete (works_ite (pumps_pegArbitrate h) (pumps_pegArbitrate h))

theorem pumps_runDesc {r d} (h : Pumps s₀ s) : Pumps s₀ (runDesc s r d) := by
  unfold runDesc
  dsimp only
  split
  case h_1 => exact works_complete h
  case h_2 => exact pumps_runScanArm h
  case h_3 => exact pumps_runScanDisarm h
  case h_4 => exact pumps_runCalRun h
  case h_5 => exact pumps_startImage h
  case h_6 => exact pumps_startSeqStep h
  case h_7 => exact pumps_startTailorStep h
  case h_8 => exact pumps_runPlanLoad h
  case h_9 => exact pumps_runPlanUnload h
  case h_10 => exact pumps_runWardrobePin h
  case h_11 => exact pumps_startEdit h
  case h_12 => exact pumps_startPegWait h
  case h_13 => exact pumps_startPegSignal h
  case h_14 => exact pumps_modRing h
  case h_15 => exact works_complete h
  case h_16 => exact pumps_runSnapshot h
  case h_17 => exact pumps_runWindowOpen h
  case h_18 => exact pumps_runWindowClose h
  case h_19 => exact pumps_runTwinDma h
  case h_20 => exact pumps_runTestRun h
  case h_21 => exact works_complete h

/-! ### Members of a fold, and the pump -/

theorem pumps_stageMember {r d} (h : Pumps s₀ s) : Pumps s₀ (stageMember s r d).1 := by
  unfold stageMember
  split
  case h_4 =>
    split
    · exact h
    · exact pumps_addJob (works_unless works_hostRead h)
  case h_5 =>
    split
    · exact h
    · exact pumps_addJob (works_hostRead h)
  case h_6 =>
    split
    · exact h
    next started => exact pumps_startTailor (works_hostRead h) started
  all_goals exact h

theorem pumps_startMember {r f d} (h : Pumps s₀ s) : Pumps s₀ (startMember s r f d) := by
  refine works_ite (pumps_addMember h) (works_ite (pumps_addMember h) ?_)
  split
  · exact pumps_addMember h
  · exact pumps_serveImages (pumps_addMember (pumps_stageMember h))

theorem pumps_closeFold {r f d n} (h : Pumps s₀ s) : Pumps s₀ (closeFold s r f d n) := works_checkFold (pumps_modRing h)

theorem pumps_startDesc {r d} (h : Pumps s₀ s) : Pumps s₀ (startDesc s r d) := by
  unfold startDesc
  split
  · dsimp only
    split
    · exact pumps_closeFold (pumps_modRing h)
    · exact pumps_startMember (pumps_modRing h)
  · dsimp only
    split
    · exact works_complete (pumps_modRing h)
    · exact pumps_runDesc (pumps_modRing h)

theorem pumps_pumpRing {r} (n : Nat) (h : Pumps s₀ s) : Pumps s₀ (pumpRing s r n) := by
  induction n generalizing s with
  | zero => exact h
  | succ n ih =>
    have fetched : Pumps s₀ (fetchNow s r) := works_when pumps_modRing h
    unfold pumpRing
    dsimp only
    split
    · exact fetched
    · exact works_when (fun k => ih (pumps_startDesc (pumps_modRing k))) fetched

theorem pumps_pumpAll (h : Pumps s₀ s) : Pumps s₀ (pumpAll s) := works_foldl h fun _ _ => pumps_pumpRing _

/-! ### What the pump keeps -/

theorem hostPart_modFn (s : State) (f : Fn) (g : FnState → FnState) (same : bareHost (g (s.fnOf f)) = bareHost (s.fnOf f)) : hostPart (s.modFn f g) = hostPart s := by
  refine congrArg (fun fns => (fns, s.regs, s.health.head, fun g => coreRegion (s.reg8 g))) (funext fun q => ?_)
  by_cases here : q = f
  · subst here
    rw [State.modFn_same, same]
  · rw [State.modFn_other s (Ne.symm here)]

theorem hostPart_of_bare (same : bare t = bare s) : hostPart t = hostPart s := by
  have fns : (fun f => bareHost (t.fnOf f)) = fun f => bareHost (s.fnOf f) := funext fun f => (congrArg bareHost (bare_fnOf same f) :)
  unfold hostPart
  rw [fns, bare_regs same, funext (bare_core same), show t.health.head = s.health.head from (congrArg (fun u : State => u.health.head) same :)]

theorem work_hostPart {E : State → State → Prop} (extra : ∀ s t, E s t → hostPart t = hostPart s) (h : Work E s t) : hostPart t = hostPart s := by
  rcases work_cases h with plain | more
  · exact hostPart_of_bare (work_bare_plain plain)
  · exact extra _ _ more

theorem pumped_hostPart (s t : State) (h : Pumped s t) : hostPart t = hostPart s := by
  cases h with
  | apart host => exact host
  | pair r g => exact hostPart_modFn s r.fn _ rfl
  | enlist => rfl
  | granted more =>
    obtain ⟨n, k, rfl⟩ := more
    rfl

theorem pumps_hostPart (h : Pumps s t) : hostPart t = hostPart s := works_same (f := hostPart) (fun _ _ => work_hostPart pumped_hostPart) h

end

/-- Every job of this number has ended, and no job will take the number. -/
def jobOver (n : Nat) (s : State) : Prop := (∀ x ∈ s.sched.jobs, x.id = n → x.state = .done) ∧ n < s.sched.nextId

section
variable {E : State → State → Prop} {s t : State} {n : Nat}

theorem jobOver_map {f : Job → Job} (kept : ∀ j ∈ s.sched.jobs, (f j).id = j.id ∧ (j.state = .done → j.id = n → (f j).state = .done)) (past : jobOver n s) :
    jobOver n { s with sched := { s.sched with jobs := s.sched.jobs.map f } } := by
  refine ⟨fun x mem same => ?_, past.2⟩
  obtain ⟨j, old, rfl⟩ := List.mem_map.mp mem
  obtain ⟨id, done⟩ := kept j old
  rw [id] at same
  exact done (past.1 j old same) same

theorem work_jobOver (extra : ∀ s t, E s t → jobOver n s → jobOver n t) (h : Work E s t) (past : jobOver n s) : jobOver n t := by
  cases h with
  | jobs g kept =>
    refine jobOver_map (fun j mem => ⟨(kept j mem).1.id, fun done same => ?_⟩) past
    rcases (kept j mem).2 done with still | ⟨k, listed, num, running⟩
    · exact still
    · exact absurd (past.1 k listed (num.trans same)) running
  | unlist m => exact ⟨fun x mem => past.1 x (List.mem_filter.mp mem).1, past.2⟩
  | hold k => cases k <;> exact past
  | piece k => cases k <;> exact past
  | extra more => exact extra _ _ more past
  | aside | books | vector | ring | waited | fold | basket | health | tile | olds | tailor => exact past

theorem granted_jobOver (s t : State) (h : Granted s t) (past : jobOver n s) : jobOver n t := by
  obtain ⟨m, k, rfl⟩ := h
  refine jobOver_map (fun j _ => ?_) past
  split
  · exact ⟨rfl, fun done _ => done⟩
  · exact ⟨rfl, fun done _ => done⟩

theorem pumped_jobOver (s t : State) (h : Pumped s t) (past : jobOver n s) : jobOver n t := by
  cases h with
  | apart _ jobs next =>
    unfold jobOver
    rw [jobs, next]
    exact past
  | pair r g => exact past
  | enlist j =>
    refine ⟨fun x mem same => ?_, Nat.lt_succ_of_lt past.2⟩
    rcases List.mem_append.mp mem with old | new
    · exact past.1 x old same
    · obtain rfl := List.mem_singleton.mp new
      exact absurd same (Nat.ne_of_gt past.2)
  | granted more => exact granted_jobOver s t more past

theorem pumps_jobOver (h : Pumps s t) (past : jobOver n s) : jobOver n t := works_keep (fun _ _ => work_jobOver pumped_jobOver) h past

end

end Sys2Proof.Machine
end

section
/-! PROOF. Doorbell lines and their counters, ring faults and failed host reads, and interrupt moderation (R283, R285, R287, R290, R291, R294). -/

namespace Sys2Proof.Machine

open Sys2Proof

/-! ### Ring faults -/

/-- The pair as a fault marks it. -/
def faulted (cause : Nat) (x : RingPair) : RingPair := { x with fault := true, cause := cause }

/-- The state in which a faulty pair has told the host, where its ring has room. -/
def faultTold (s : State) (r : RingRef) (cause : Nat) : State := if cqRoom s r then writeCompl s r (faultCompl cause) else s

theorem ringFault_eq (s : State) (r : RingRef) (cause : Nat) :
    ringFault s r cause = ((stopPair (faultTold s r cause) r).modRing r (faulted cause)).raiseEvent r.fn := rfl

section
variable {s : State} {r : RingRef} {cause : Nat}

theorem faultTold_enable (s : State) (r : RingRef) (cause : Nat) : ((faultTold s r cause).ring r).enable = (s.ring r).enable := by
  unfold faultTold
  split
  · obtain ⟨n, first, own⟩ := writeCompl_same s r (faultCompl cause)
    rw [own]
    rfl
  · rfl

/-- A fault stops its pair. -/
theorem ringFault_same (s : State) (r : RingRef) (cause : Nat) : ((ringFault s r cause).ring r).fault = true ∧ ((ringFault s r cause).ring r).cause = cause ∧
    ((ringFault s r cause).ring r).fetched = [] ∧ ((ringFault s r cause).ring r).enable = (s.ring r).enable := by
  obtain ⟨c, fns, -⟩ := stopPair_fns (faultTold s r cause) r
  have own : (ringFault s r cause).ring r = faulted cause (stopped c ((faultTold s r cause).ring r)) := by
    rw [ringFault_eq]
    unfold State.raiseEvent
    rw [State.raiseVec_ring, State.modRing_same, ring_of_fns fns, State.modRing_same]
  rw [own]
  exact ⟨rfl, rfl, rfl, faultTold_enable s r cause⟩

theorem ringFault_other {q : RingRef} (other : (r.fn, r.pair) ≠ (q.fn, q.pair)) : (ringFault s r cause).ring q = s.ring q := by
  obtain ⟨c, fns, -⟩ := stopPair_fns (faultTold s r cause) r
  rw [ringFault_eq]
  unfold State.raiseEvent
  rw [State.raiseVec_ring, State.modRing_other _ other, ring_of_fns fns, State.modRing_other _ other]
  unfold faultTold
  split
  · exact writeCompl_other s other _
  · rfl

theorem ringLive_of_ring {u : State} {q : RingRef} (same : u.ring q = s.ring q) : ringLive u q = ringLive s q := by
  unfold ringLive
  rw [same]

/-- Pairs of one place are one pair. -/
theorem ring_of_place {p q : RingRef} (s : State) (same : (p.fn, p.pair) = (q.fn, q.pair)) : s.ring p = s.ring q := by
  obtain ⟨f, k, m⟩ := p
  obtain ⟨g, l, n⟩ := q
  obtain ⟨rfl, rfl⟩ := Prod.mk.inj same
  rfl

end

/-! ### What the counters of a line and a fault leave of the host's side -/

section
variable {s₀ s : State}

theorem pumps_raiseEvent {f} (h : Pumps s₀ s) : Pumps s₀ (s.raiseEvent f) := works_raiseEvent h

theorem pumps_writeCompl {r c} (h : Pumps s₀ s) : Pumps s₀ (writeCompl s r c) :=
  works_ite (works_raiseVec (pumps_modRing (works_when works_laterPeg (pumps_modRing (works_hostWrite h)))))
    (pumps_modRing (works_when works_laterPeg (pumps_modRing (works_hostWrite h))))

theorem pumps_dropSwaps {f} (h : Pumps s₀ s) : Pumps s₀ (dropSwaps s f) := by
  refine works_foldl h fun u m h => ?_
  split
  · exact pumps_apart h rfl rfl rfl
  · exact h

theorem pumps_discardMembers {f} (h : Pumps s₀ s) : Pumps s₀ (discardMembers s f) := by
  refine works_foldl h fun u m h => ?_
  split
  · exact works_discardBuilding h
  · exact h

theorem pumps_dropFold {r n} (h : Pumps s₀ s) : Pumps s₀ (dropFold s r n) := (pumps_modRing h).tail (.aside _ _ _ _ _ _ _ _ _ _ fun _ kept => kept)

theorem pumps_stopPair {r} (h : Pumps s₀ s) : Pumps s₀ (stopPair s r) := by
  have given : Pumps s₀ (abandonFolds s r false) := works_foldl h fun _ _ h => pumps_dropFold (pumps_discardMembers (pumps_dropSwaps h))
  have waits : Pumps s₀ { abandonFolds s r false with pegs := { (abandonFolds s r false).pegs with waits := (stopPair s r).pegs.waits } } :=
    given.tail (.aside _ _ _ _ _ _ _ _ _ _ fun _ kept => kept)
  exact pumps_modRing (g := halted) waits

theorem pumps_ringFault {r c} (h : Pumps s₀ s) : Pumps s₀ (ringFault s r c) :=
  pumps_raiseEvent (pumps_modRing (pumps_stopPair (works_when pumps_writeCompl h)))

theorem pumps_flushHeld {r} (n : Nat) (h : Pumps s₀ s) : Pumps s₀ (flushHeld s r n) := by
  induction n generalizing s with
  | zero => exact h
  | succ n ih =>
    unfold flushHeld
    split
    · exact h
    · exact works_when (fun h => ih (pumps_writeCompl (pumps_modRing h))) h

theorem pumps_fetchReads {r a n} (h : Pumps s₀ s) : Pumps s₀ (fetchReads s r a n) :=
  have first := works_unless works_hostRead h
  works_unless works_hostRead first

theorem pumps_takeCounters {line r} (h : Pumps s₀ s) : Pumps s₀ (takeCounters line s r) := by
  unfold takeCounters
  dsimp only
  have headed {c : Prop} [Decidable c] {g : RingPair → RingPair} : Pumps s₀ (if c then s else s.modRing r g) := works_unless pumps_modRing h
  exact works_ite h (works_ite (pumps_ringFault headed) (works_ite (pumps_ringFault headed) (pumps_modRing (works_when pumps_fetchReads (pumps_flushHeld _ headed)))))

end

/-! ### Reading a doorbell line (R290, R291) -/

/-- A read of a doorbell line: what it sends, and that of the functions it marks its own alone. -/
structure LineRead (fn : Fn) (s t : State) : Prop where
  own : t.fnOf fn = { s.fnOf fn with lineRead := true }
  others : ∀ f, f ≠ fn → t.fnOf f = s.fnOf f
  frame : { t with fns := s.fns, out := s.out, cnt := s.cnt } = s
  read : Output.hostRead fn (doorbellAddr s fn.val) 64 ∈ t.out
  sent : s.out ⊆ t.out

/-- The reads that go with a doorbell line. -/
def lineReads (s : State) (fn : Fn) : State :=
  let s := (s.hostRead fn (doorbellAddr s fn.val) 64).chipCnt 41
  let s := if (s.fnOf fn).recEnable then s.hostRead fn (recHeadAddr s fn.val) 8 else s
  if fn.val = 0 ∧ s.health.logEnable then s.hostRead 0 (regGet s 0 0x50030) 4 else s

theorem lineReads_sends (s : State) (fn : Fn) : { lineReads s fn with out := s.out, cnt := s.cnt } = s ∧
    Output.hostRead fn (doorbellAddr s fn.val) 64 ∈ (lineReads s fn).out ∧ s.out ⊆ (lineReads s fn).out := by
  unfold lineReads
  dsimp only
  obtain ⟨u, first⟩ : ∃ u, (s.hostRead fn (doorbellAddr s fn.val) 64).chipCnt 41 = u := ⟨_, rfl⟩
  have start : { u with out := s.out, cnt := s.cnt } = s ∧ Output.hostRead fn (doorbellAddr s fn.val) 64 ∈ u.out ∧ s.out ⊆ u.out := by
    rw [← first]
    exact ⟨rfl, List.mem_append_right _ List.mem_cons_self, List.subset_append_left ..⟩
  have more (v : State) (h : { v with out := s.out, cnt := s.cnt } = s ∧ Output.hostRead fn (doorbellAddr s fn.val) 64 ∈ v.out ∧ s.out ⊆ v.out) (f : Fn) (a n : Nat) :
      { v.hostRead f a n with out := s.out, cnt := s.cnt } = s ∧ Output.hostRead fn (doorbellAddr s fn.val) 64 ∈ (v.hostRead f a n).out ∧
        s.out ⊆ (v.hostRead f a n).out :=
    ⟨h.1, List.mem_append_left _ h.2.1, fun _ mem => List.mem_append_left _ (h.2.2 mem)⟩
  rw [first]
  have second : let v := if (u.fnOf fn).recEnable then u.hostRead fn (recHeadAddr u fn.val) 8 else u
      { v with out := s.out, cnt := s.cnt } = s ∧ Output.hostRead fn (doorbellAddr s fn.val) 64 ∈ v.out ∧ s.out ⊆ v.out := by
    dsimp only
    split
    · exact more u start _ _ _
    · exact start
  generalize (if (u.fnOf fn).recEnable then u.hostRead fn (recHeadAddr u fn.val) 8 else u) = v at second ⊢
  split
  · exact more v second _ _ _
  · exact second

theorem lineRead_readLine (s : State) (fn : Fn) : LineRead fn s (readLine s fn) := by
  obtain ⟨frame, read, sent⟩ := lineReads_sends s fn
  have fns : (lineReads s fn).fns = s.fns := (congrArg State.fns frame :)
  have eq : readLine s fn = (lineReads s fn).modFn fn fun f => { f with lineRead := true } := rfl
  rw [eq]
  refine { own := ?_, others := fun f other => ?_, frame := (congrArg (fun u : State => { u with fns := s.fns }) frame :), read := read, sent := sent }
  · rw [State.modFn_same, fnOf_of_fns fns]
  · rw [State.modFn_other _ other.symm, fnOf_of_fns fns]

theorem ringsUsable_congr {s t : State} {f : Fn} (enabled : (t.fnOf f).enabled = (s.fnOf f).enabled) (stage : t.boot.stage = s.boot.stage) :
    ringsUsable t f = ringsUsable s f := by
  unfold ringsUsable
  rw [enabled, stage]

/-- The poll of one function. -/
def pollOne (s : State) (fn : Fn) : State := if ringsUsable s fn then readLine s fn else s

/-- What polling some functions reads. -/
structure Polled (fs : List Fn) (s t : State) : Prop where
  fns : ∀ f, t.fnOf f = { s.fnOf f with lineRead := (s.fnOf f).lineRead || (decide (f ∈ fs) && ringsUsable s f) }
  frame : { t with fns := s.fns, out := s.out, cnt := s.cnt } = s
  read : ∀ f ∈ fs, ringsUsable s f = true → Output.hostRead f (doorbellAddr s f.val) 64 ∈ t.out
  sent : s.out ⊆ t.out

theorem pollOne_polled (s : State) (fn : Fn) : Polled [fn] s (pollOne s fn) := by
  unfold pollOne
  split
  next usable =>
    have line := lineRead_readLine s fn
    refine { fns := fun f => ?_, frame := line.frame, read := fun f mem _ => ?_, sent := line.sent }
    · by_cases here : f = fn
      · subst here
        rw [line.own, usable, decide_eq_true List.mem_cons_self, Bool.and_true, Bool.or_true]
      · rw [line.others f here, decide_eq_false (by simpa using here), Bool.false_and, Bool.or_false]
    · obtain rfl := List.mem_singleton.mp mem
      exact line.read
  next unusable =>
    refine { fns := fun f => ?_, frame := rfl, read := fun f mem usable => ?_, sent := fun _ => id }
    · by_cases here : f = fn
      · subst here
        rw [Bool.eq_false_iff.mpr unusable, Bool.and_false, Bool.or_false]
      · rw [decide_eq_false (by simpa using here), Bool.false_and, Bool.or_false]
    · obtain rfl := List.mem_singleton.mp mem
      exact absurd usable unusable

theorem Polled.trans {fs gs : List Fn} {s t u : State} (h : Polled fs s t) (k : Polled gs t u) : Polled (fs ++ gs) s u := by
  have boot : t.boot.stage = s.boot.stage := (congrArg (fun v : State => v.boot.stage) h.frame :)
  have regs : t.regs = s.regs := (congrArg State.regs h.frame :)
  have usable (f : Fn) : ringsUsable t f = ringsUsable s f := ringsUsable_congr (by rw [h.fns f]) boot
  have addr (f : Fn) : doorbellAddr t f.val = doorbellAddr s f.val := by
    unfold doorbellAddr regGet
    rw [regs]
  refine { fns := fun f => ?_, frame := ?_, read := fun f mem on => ?_, sent := fun _ mem => k.sent (h.sent mem) }
  · rw [k.fns f, h.fns f, usable f]
    refine congrArg (fun b => ({ s.fnOf f with lineRead := b } : FnState)) ?_
    rw [show decide (f ∈ fs ++ gs) = (decide (f ∈ fs) || decide (f ∈ gs)) by rw [decide_eq_decide.mpr List.mem_append, Bool.decide_or], Bool.and_or_distrib_right, Bool.or_assoc]
  · have both := (congrArg (fun v : State => { v with fns := s.fns, out := s.out, cnt := s.cnt }) k.frame :)
    exact both.trans h.frame
  · rcases List.mem_append.mp mem with first | second
    · exact k.sent (h.read f first on)
    · rw [← addr f]
      exact k.read f second ((usable f).trans on)

theorem polled_foldl (fs : List Fn) (s : State) : Polled fs s (fs.foldl pollOne s) := by
  induction fs generalizing s with
  | nil => exact { fns := fun f => by simp, frame := rfl, read := nofun, sent := fun _ => id }
  | cons f fs ih => exact (pollOne_polled s f).trans (ih (pollOne s f))

/-! ### The counters of a line (R287, R294) -/

section
variable {s : State} {r : RingRef} {line : List Byte}

/-- The tail and the head that a doorbell line brings for a pair. -/
def lineTail (line : List Byte) (r : RingRef) : Half := BitVec.ofNat 16 (fieldAt line (2 * r.pair.val) 2)
def lineHead (line : List Byte) (r : RingRef) : Half := BitVec.ofNat 16 (fieldAt line (16 + 2 * r.pair.val) 2)

theorem fetchReads_fns (s : State) (r : RingRef) (a n : Nat) : (fetchReads s r a n).fns = s.fns ∧ { fetchReads s r a n with out := s.out, cnt := s.cnt } = s := by
  have read (u : State) (c : Prop) [Decidable c] (f : Fn) (x y : Nat) : { (if c then u else u.hostRead f x y) with out := u.out, cnt := u.cnt } = u := by
    split <;> rfl
  have frame : { fetchReads s r a n with out := s.out, cnt := s.cnt } = s := by
    unfold fetchReads
    dsimp only
    have second := (congrArg (fun u : State => { u with out := s.out, cnt := s.cnt }) (read
      (if min n (ringN s r - a % ringN s r) = 0 then s else s.hostRead r.fn (sqBase s r + 64 * (a % ringN s r)) (64 * min n (ringN s r - a % ringN s r)))
      (n - min n (ringN s r - a % ringN s r) = 0) r.fn (sqBase (if min n (ringN s r - a % ringN s r) = 0 then s
        else s.hostRead r.fn (sqBase s r + 64 * (a % ringN s r)) (64 * min n (ringN s r - a % ringN s r))) r) (64 * (n - min n (ringN s r - a % ringN s r)))) :)
    exact second.trans (read s _ _ _ _)
  exact ⟨(congrArg State.fns frame :), frame⟩

/-- The head that the line brings is taken, unless it is beyond what the module has written. -/
def headTaken (line : List Byte) (s : State) (r : RingRef) : State :=
  if ringN s r < ((s.ring r).cqTail - lineHead line r).toNat then s else s.modRing r fun x => { x with cqHead := lineHead line r }

/-- Held completions go, and the descriptors that the new tail announces are read. -/
def announcedRead (line : List Byte) (n : Nat) (tail : Half) (s : State) (r : RingRef) : State :=
  if canFetch (flushHeld s r n) r then fetchReads (flushHeld s r n) r tail.toNat (lineTail line r - tail).toNat else flushHeld s r n

theorem takeCounters_eq (live : ringLive s r = true) : takeCounters line s r =
    if ringN s r < (lineTail line r - (s.ring r).sqHead).toNat then ringFault (headTaken line s r) r 1
    else if ringN s r < ((s.ring r).cqTail - lineHead line r).toNat then ringFault (headTaken line s r) r 2
    else (announcedRead line ((s.ring r).held.length + 1) (s.ring r).sqTail (headTaken line s r) r).modRing r fun x => { x with sqTail := lineTail line r } := by
  have size : ringN (headTaken line s r) r = ringN s r := by
    unfold headTaken
    split <;> rfl
  have eq : takeCounters line s r =
      if ringN (headTaken line s r) r < (lineTail line r - (s.ring r).sqHead).toNat then ringFault (headTaken line s r) r 1
      else if ringN (headTaken line s r) r < ((s.ring r).cqTail - lineHead line r).toNat then ringFault (headTaken line s r) r 2
      else (announcedRead line ((s.ring r).held.length + 1) (s.ring r).sqTail (headTaken line s r) r).modRing r fun x => { x with sqTail := lineTail line r } := by
    unfold takeCounters
    rw [live]
    rfl
  rw [eq, size]

/-- With nothing held only reads are sent. -/
theorem announcedRead_sends {n : Nat} {tail : Half} (held : (s.ring r).held = []) :
    (announcedRead line (n + 1) tail s r).ring r = s.ring r ∧ { announcedRead line (n + 1) tail s r with out := s.out, cnt := s.cnt } = s := by
  have none : flushHeld s r (n + 1) = s := by
    unfold flushHeld
    rw [held]
  unfold announcedRead
  rw [none]
  split
  · obtain ⟨fns, frame⟩ := fetchReads_fns s r tail.toNat (lineTail line r - tail).toNat
    exact ⟨ring_of_fns fns r, frame⟩
  · exact ⟨rfl, rfl⟩

theorem takeCounters_within (live : ringLive s r = true) (held : (s.ring r).held = [])
    (tail : (lineTail line r - (s.ring r).sqHead).toNat ≤ ringN s r) (head : ((s.ring r).cqTail - lineHead line r).toNat ≤ ringN s r) :
    (takeCounters line s r).ring r = { s.ring r with sqTail := lineTail line r, cqHead := lineHead line r } ∧
      { takeCounters line s r with fns := s.fns, out := s.out, cnt := s.cnt } = s := by
  have taken : headTaken line s r = s.modRing r fun x => { x with cqHead := lineHead line r } := if_neg (Nat.not_lt.mpr head)
  have here : (headTaken line s r).ring r = { s.ring r with cqHead := lineHead line r } := by rw [taken, State.modRing_same]
  obtain ⟨own, frame⟩ := announcedRead_sends (s := headTaken line s r) (r := r) (line := line) (n := (s.ring r).held.length) (tail := (s.ring r).sqTail)
    (by rw [here]; exact held)
  rw [takeCounters_eq live, if_neg (Nat.not_lt.mpr tail), if_neg (Nat.not_lt.mpr head)]
  refine ⟨by rw [State.modRing_same, own, here], ?_⟩
  have left : { headTaken line s r with fns := s.fns, out := s.out, cnt := s.cnt } = s := by rw [taken]; rfl
  exact (congrArg (fun w : State => { w with fns := s.fns, out := s.out, cnt := s.cnt }) frame :).trans left

theorem takeCounters_tail (live : ringLive s r = true) (tail : ringN s r < (lineTail line r - (s.ring r).sqHead).toNat) :
    ((takeCounters line s r).ring r).fault = true ∧ ((takeCounters line s r).ring r).cause = 1 := by
  rw [takeCounters_eq live, if_pos tail]
  obtain ⟨fault, cause, -⟩ := ringFault_same (headTaken line s r) r 1
  exact ⟨fault, cause⟩

theorem takeCounters_head (live : ringLive s r = true) (tail : (lineTail line r - (s.ring r).sqHead).toNat ≤ ringN s r)
    (head : ringN s r < ((s.ring r).cqTail - lineHead line r).toNat) :
    ((takeCounters line s r).ring r).fault = true ∧ ((takeCounters line s r).ring r).cause = 2 := by
  rw [takeCounters_eq live, if_neg (Nat.not_lt.mpr tail), if_pos head]
  obtain ⟨fault, cause, -⟩ := ringFault_same (headTaken line s r) r 2
  exact ⟨fault, cause⟩

end

end Sys2Proof.Machine
end

section
/-! PROOF. Doorbells and failed host reads settled (R283, R285, R287, R290, R291, R294). -/

namespace Sys2Proof.Machine

open Sys2Proof

/-! ### A doorbell line arrives -/

/-- The function as its line leaves it: the read has ended and the record head is the host's. -/
def lineEnded (rh : Word64) (f : FnState) : FnState := { f with lineRead := false, recHead := if f.recEnable then rh else f.recHead }

/-- The state with a line's heads taken. -/
def headsTaken (s : State) (fn : Fn) (rh : Word64) (hh : Word32) : State :=
  if fn.val = 0 ∧ s.health.logEnable then { s.modFn fn (lineEnded rh) with health := { s.health with head := hh } } else s.modFn fn (lineEnded rh)

/-- The line's counters are taken by the function's pairs. -/
def countersTaken (s : State) (fn : Fn) (line : List Byte) : State := if ringsUsable s fn then (fnRings s fn).foldl (takeCounters line) s else s

/-- A kick that was remembered starts the next read. -/
def kickedAgain (s : State) (fn : Fn) : State :=
  if (s.fnOf fn).kickWaiting then readLine (s.modFn fn fun f => { f with kickWaiting := false }) fn else s

section
variable {s : State} {fn : Fn} {line : List Byte} {rh : Word64} {hh : Word32}

theorem exec_doorbellLineArrived (reading : (s.fnOf fn).lineRead = true) :
    exec (.doorbellLineArrived fn line rh hh) s = .next (kickedAgain (pumpAll (countersTaken (headsTaken s fn rh hh) fn line)) fn) := by
  change execDoorbellLineArrived fn line rh hh s = _
  unfold execDoorbellLineArrived
  rw [reading]
  rfl

theorem headsTaken_parts (s : State) (fn : Fn) (rh : Word64) (hh : Word32) : (headsTaken s fn rh hh).fnOf fn = lineEnded rh (s.fnOf fn) ∧
    (∀ f, f ≠ fn → (headsTaken s fn rh hh).fnOf f = s.fnOf f) ∧
    (headsTaken s fn rh hh).health = { s.health with head := if fn.val = 0 ∧ s.health.logEnable = true then hh else s.health.head } ∧
    { headsTaken s fn rh hh with fns := s.fns, health := s.health } = s := by
  unfold headsTaken
  split
  · exact ⟨State.modFn_same .., fun f other => State.modFn_other s other.symm _, rfl, rfl⟩
  · exact ⟨State.modFn_same .., fun f other => State.modFn_other s other.symm _, rfl, rfl⟩

theorem countersTaken_host (s : State) (fn : Fn) (line : List Byte) : hostPart (pumpAll (countersTaken s fn line)) = hostPart s :=
  pumps_hostPart (pumps_pumpAll (works_when (fun h => works_foldl h fun _ _ => pumps_takeCounters) (works_refl s)))

theorem doorbell_arrives (reading : (s.fnOf fn).lineRead = true) : ∃ t, exec (.doorbellLineArrived fn line rh hh) s = .next t ∧
    (t.fnOf fn).recHead = (if (s.fnOf fn).recEnable then rh else (s.fnOf fn).recHead) ∧ (t.fnOf fn).lineRead = (s.fnOf fn).kickWaiting ∧
    (t.fnOf fn).kickWaiting = false ∧ t.health.head = (if fn.val = 0 ∧ s.health.logEnable = true then hh else s.health.head) ∧
    ((s.fnOf fn).kickWaiting = true → Output.hostRead fn (doorbellAddr t fn.val) 64 ∈ t.out) := by
  refine ⟨_, exec_doorbellLineArrived reading, ?_⟩
  obtain ⟨own, -, health, -⟩ := headsTaken_parts s fn rh hh
  have host := countersTaken_host (headsTaken s fn rh hh) fn line
  generalize pumpAll (countersTaken (headsTaken s fn rh hh) fn line) = u at host ⊢
  have part : bareHost (u.fnOf fn) = bareHost (lineEnded rh (s.fnOf fn)) := (congrFun (congrArg Prod.fst host) fn).trans (congrArg bareHost own)
  have head : u.health.head = (if fn.val = 0 ∧ s.health.logEnable = true then hh else s.health.head) :=
    (congrArg (fun x => x.2.2.1) host).trans (congrArg Health.head health)
  have recHead : (u.fnOf fn).recHead = (if (s.fnOf fn).recEnable then rh else (s.fnOf fn).recHead) := (congrArg FnState.recHead part :)
  have lineRead : (u.fnOf fn).lineRead = false := (congrArg FnState.lineRead part :)
  have kick : (u.fnOf fn).kickWaiting = (s.fnOf fn).kickWaiting := (congrArg FnState.kickWaiting part :)
  unfold kickedAgain
  rw [kick]
  cases waiting : (s.fnOf fn).kickWaiting with
  | false =>
    rw [if_neg nofun]
    exact ⟨recHead, lineRead, kick.trans waiting, head, nofun⟩
  | true =>
    rw [if_pos rfl]
    have next := lineRead_readLine (u.modFn fn fun f => { f with kickWaiting := false }) fn
    have regs : (readLine (u.modFn fn fun f => { f with kickWaiting := false }) fn).regs = u.regs := (congrArg State.regs next.frame :)
    have addr : doorbellAddr (readLine (u.modFn fn fun f => { f with kickWaiting := false }) fn) fn.val = doorbellAddr (u.modFn fn fun f => { f with kickWaiting := false }) fn.val := by
      unfold doorbellAddr regGet
      rw [regs]
      rfl
    have here := next.own
    rw [State.modFn_same] at here
    refine ⟨by rw [here]; exact recHead, by rw [here], by rw [here], (congrArg (fun v : State => v.health.head) next.frame :).trans head, fun _ => ?_⟩
    rw [addr]
    exact next.read

/-- A pair that is not enabled takes no counters. -/
theorem takeCounters_dead {r : RingRef} (off : (s.ring r).enable = false) : takeCounters line s r = s := by
  unfold takeCounters ringLive
  rw [off]
  rfl

theorem foldl_fixed {α : Type} {f : State → α → State} (xs : List α) (each : ∀ x ∈ xs, f s x = s) : xs.foldl f s = s := by
  induction xs with
  | nil => rfl
  | cons x xs ih =>
    rw [List.foldl_cons, each x List.mem_cons_self]
    exact ih fun y mem => each y (List.mem_cons_of_mem _ mem)

theorem mem_fnRings {r : RingRef} (mem : r ∈ fnRings s fn) : ∃ p : Fin 8, r = s.ref ⟨fn, p⟩ := by
  obtain ⟨p, -, rfl⟩ := List.mem_map.mp mem
  exact ⟨p, rfl⟩

theorem doorbell_idle (reading : (s.fnOf fn).lineRead = true) (unkicked : (s.fnOf fn).kickWaiting = false)
    (off : ∀ p : Fin 8, ((s.fnOf fn).rings[p.val]).enable = false) (still : quiet s = true) : ∃ t, exec (.doorbellLineArrived fn line rh hh) s = .next t ∧
      t.fnOf fn = { s.fnOf fn with lineRead := false, recHead := if (s.fnOf fn).recEnable then rh else (s.fnOf fn).recHead } ∧
      (∀ f, f ≠ fn → t.fnOf f = s.fnOf f) ∧ t.health = { s.health with head := if fn.val = 0 ∧ s.health.logEnable = true then hh else s.health.head } ∧
      { t with fns := s.fns, health := s.health } = s := by
  obtain ⟨own, others, health, frame⟩ := headsTaken_parts s fn rh hh
  have eq := exec_doorbellLineArrived (line := line) (rh := rh) (hh := hh) reading
  generalize headsTaken s fn rh hh = u at own others health frame eq
  have rings (r : RingRef) : u.ring r = s.ring r := by
    unfold State.ring
    by_cases here : r.fn = fn
    · rw [here, own]
      rfl
    · rw [others r.fn here]
  have counters : countersTaken u fn line = u := by
    unfold countersTaken
    split
    · refine foldl_fixed _ fun r mem => takeCounters_dead ?_
      obtain ⟨p, rfl⟩ := mem_fnRings mem
      rw [rings]
      exact off p
    · rfl
  have pumped : pumpAll u = u := pumpAll_quiet u (quiet_of_pairs fun r => by rw [rings]; exact quiet_pair still r)
  have kicked : kickedAgain u fn = u := if_neg (by rw [own]; rw [show (lineEnded rh (s.fnOf fn)).kickWaiting = (s.fnOf fn).kickWaiting from rfl, unkicked]; nofun)
  rw [counters, pumped, kicked] at eq
  exact ⟨u, eq, own, others, health, frame⟩

/-! ### Failed reads (R285) -/

/-- A failed read of a doorbell line faults a pair that is live. -/
def faultLive (s : State) (r : RingRef) : State := if ringLive s r then ringFault s r 3 else s

theorem pumps_faultLive {s₀ : State} {r : RingRef} (h : Pumps s₀ s) : Pumps s₀ (faultLive s r) := works_when pumps_ringFault h

/-- The pair stands faulted by a failed read. -/
def readFaulted (s : State) (r : RingRef) : Prop := (s.ring r).fault = true ∧ (s.ring r).cause = 3

theorem faultLive_faulted {r q : RingRef} (h : readFaulted s r) : readFaulted (faultLive s q) r := by
  unfold faultLive
  split
  next live =>
    by_cases here : (q.fn, q.pair) = (r.fn, r.pair)
    · obtain ⟨fault, cause, -⟩ := ringFault_same s q 3
      unfold readFaulted
      rw [← ring_of_place _ here]
      exact ⟨fault, cause⟩
    · unfold readFaulted
      rw [ringFault_other here]
      exact h
  next => exact h

theorem faultLive_kept {r q : RingRef} (live : ringLive s r = true) : readFaulted (faultLive s q) r ∨ ringLive (faultLive s q) r = true := by
  unfold faultLive
  split
  next =>
    by_cases here : (q.fn, q.pair) = (r.fn, r.pair)
    · obtain ⟨fault, cause, -⟩ := ringFault_same s q 3
      refine .inl ?_
      unfold readFaulted
      rw [← ring_of_place _ here]
      exact ⟨fault, cause⟩
    · exact .inr ((ringLive_of_ring (ringFault_other here)).trans live)
  next => exact .inr live

theorem faultLive_foldl {r : RingRef} {rs : List RingRef} (mem : r ∈ rs) (live : ringLive s r = true) : readFaulted (rs.foldl faultLive s) r := by
  have stays (qs : List RingRef) (u : State) (h : readFaulted u r) : readFaulted (qs.foldl faultLive u) r :=
    foldl_keeps (fun v => readFaulted v r) faultLive (fun v q k => faultLive_faulted k) qs u h
  induction rs generalizing s with
  | nil => exact nomatch mem
  | cons q qs ih =>
    rw [List.foldl_cons]
    rcases List.mem_cons.mp mem with rfl | later
    · refine stays qs _ ?_
      have faults : faultLive s r = ringFault s r 3 := if_pos live
      obtain ⟨fault, cause, -⟩ := ringFault_same s r 3
      rw [faults]
      exact ⟨fault, cause⟩
    · rcases faultLive_kept (q := q) live with faulted | live
      · exact stays qs _ faulted
      · exact ih later live

/-- The function without a read of its doorbell line. -/
def unread (f : FnState) : FnState := { f with lineRead := false, kickWaiting := false }

theorem hostReadFails_gather (reading : (s.fnOf fn).lineRead = true) (a : Word64) (kind : Nat) :
    hostReadFails s (.gather fn) a kind = (fnRings (s.modFn fn unread) fn).foldl faultLive (s.modFn fn unread) := by
  unfold hostReadFails
  dsimp only
  rw [if_neg (by rw [reading]; nofun)]
  rfl

theorem unread_ring (s : State) (fn : Fn) (r : RingRef) : (s.modFn fn unread).ring r = s.ring r := by
  unfold State.ring
  by_cases here : fn = r.fn
  · subst here
    rw [State.modFn_same]
    rfl
  · rw [State.modFn_other s here]

theorem unread_part {u : State} (host : hostPart u = hostPart (s.modFn fn unread)) : bareHost (u.fnOf fn) = bareHost (unread (s.fnOf fn)) :=
  (congrFun (congrArg Prod.fst host) fn).trans (congrArg bareHost (State.modFn_same ..))

theorem readEnded {u : State} (host : hostPart u = hostPart (s.modFn fn unread)) : (u.fnOf fn).lineRead = false :=
  (congrArg FnState.lineRead (unread_part host) :)

theorem kickEnded {u : State} (host : hostPart u = hostPart (s.modFn fn unread)) : (u.fnOf fn).kickWaiting = false :=
  (congrArg FnState.kickWaiting (unread_part host) :)

theorem gather_fails (reading : (s.fnOf fn).lineRead = true) (a : Word64) (kind : Nat) :
    ((hostReadFails s (.gather fn) a kind).fnOf fn).lineRead = false ∧ ((hostReadFails s (.gather fn) a kind).fnOf fn).kickWaiting = false ∧
      ∀ p : Fin 8, ringLive s (s.ref ⟨fn, p⟩) = true → readFaulted (hostReadFails s (.gather fn) a kind) (s.ref ⟨fn, p⟩) := by
  rw [hostReadFails_gather reading]
  have host : hostPart ((fnRings (s.modFn fn unread) fn).foldl faultLive (s.modFn fn unread)) = hostPart (s.modFn fn unread) :=
    pumps_hostPart (works_foldl (works_refl _) fun _ _ => pumps_faultLive)
  refine ⟨?_, ?_, fun p live => ?_⟩
  · exact readEnded host
  · exact kickEnded host
  · have ref : (s.modFn fn unread).ref ⟨fn, p⟩ = s.ref ⟨fn, p⟩ := by
      unfold State.ref
      rw [State.modFn_same]
      rfl
    refine faultLive_foldl ?_ ((ringLive_of_ring (unread_ring ..)).trans live)
    rw [← ref]
    exact List.mem_map.mpr ⟨p, mem_allPairs p, rfl⟩

theorem gather_fails_idle (reading : (s.fnOf fn).lineRead = true) (off : ∀ p : Fin 8, ((s.fnOf fn).rings[p.val]).enable = false) (a : Word64) (kind : Nat) :
    hostReadFails s (.gather fn) a kind = s.modFn fn unread := by
  rw [hostReadFails_gather reading]
  refine foldl_fixed _ fun r mem => if_neg ?_
  obtain ⟨p, rfl⟩ := mem_fnRings mem
  unfold ringLive
  rw [unread_ring, show (s.ring ((s.modFn fn unread).ref ⟨fn, p⟩)).enable = false from off p]
  nofun

/-! #### A read of a job's operand -/

section
variable {j : Job}

theorem findJob_id {n : Nat} (found : findJob s n = some j) : j.id = n := by
  have hit := List.find?_some found
  simpa using hit

/-- Ending a job leaves no job of its number that has not ended. -/
theorem finishJob_ended (s : State) (j : Job) (b : Bool) : ∀ x ∈ (finishJob s j b).sched.jobs, x.id = j.id → x.state = .done := by
  obtain ⟨k, current⟩ : ∃ k, (findJob s j.id).getD j = k := ⟨_, rfl⟩
  have same : k.id = j.id := by
    rw [← current]
    cases found : findJob s j.id with
    | none => rfl
    | some i => exact findJob_id found
  obtain ⟨u, released⟩ : ∃ u, releaseJob s k = u := ⟨_, rfl⟩
  have ended : ∀ x ∈ (if k.inSegment then modJob u k.id fun x => { x with state := .done } else dropOldModels (removeJob u k.id)).sched.jobs,
      x.id = j.id → x.state = .done := by
    intro x mem here
    split at mem
    · obtain ⟨y, -, rfl⟩ := exists_of_mem_mapWhere mem
      by_cases hit : y.id = k.id
      · rw [if_pos (beq_iff_eq.mpr hit)]
      · rw [if_neg (by simpa using hit)] at here
        exact absurd (here.trans same.symm) hit
    · have other := (List.mem_filter.mp mem).2
      rw [here, same, bne_self_eq_false] at other
      exact nomatch other
  unfold finishJob
  dsimp only
  rw [current, released]
  split
  · exact ended
  · exact ended

theorem works_fresh {t : State} {n : Nat} (h : Works (fun _ _ => False) s t) (fresh : n < s.sched.nextId) : n < t.sched.nextId := by
  have next : t.sched.nextId = s.sched.nextId := (congrArg (fun v : State => v.sched.nextId) (works_bare (fun _ _ no => no.elim) h) :)
  omega

theorem finishJob_over (fresh : j.id < s.sched.nextId) (b : Bool) : jobOver j.id (finishJob s j b) :=
  ⟨finishJob_ended s j b, works_fresh (works_finishJob (works_refl s)) fresh⟩

/-- A job that fails has ended. -/
theorem failJob_over (fresh : j.id < s.sched.nextId) (st : Status) (x : List Byte) : jobOver j.id (failJob s j st x) := by
  have none (s t : State) (no : False) (_ : jobOver j.id s) : jobOver j.id t := no.elim
  have keep {u v : State} (h : Works (fun _ _ => False) u v) (past : jobOver j.id u) : jobOver j.id v := works_keep (fun _ _ => work_jobOver none) h past
  unfold failJob
  split
  · exact keep (works_discardPiece (works_refl _)) (finishJob_over fresh false)
  · unfold failStep
    split
    · exact finishJob_over fresh false
    · exact keep (works_foldl (works_refl _) fun _ _ => works_stepFailOne) (finishJob_over fresh false)
  · refine finishJob_over ?_ _
    exact works_fresh (works_dropTailor (works_ite (works_discardBuilding (works_refl s)) (works_reportJob (works_refl s)))) fresh

theorem job_read_fails {tag : Word64} {i : RingId} (found : (s.sched.jobs.find? fun j => j.ring == some (s.ref i) && j.hdr.tag == tag && jobReads j) = some j)
    (fresh : j.id < s.sched.nextId) (a : Word64) (kind : Nat) : jobOver j.id (hostReadFails s (.job tag i) a kind) := by
  have fails : failRead s tag (s.ref i) (leBytes 8 a.toNat ++ leBytes 1 kind) = serveImages (failJob s j .hostDmaError (leBytes 8 a.toNat ++ leBytes 1 kind)) := by
    unfold failRead
    rw [found]
  have eq : hostReadFails s (.job tag i) a kind = pumpAll (failRead s tag (s.ref i) (leBytes 8 a.toNat ++ leBytes 1 kind)) := rfl
  rw [eq, fails]
  exact pumps_jobOver (pumps_pumpAll (pumps_serveImages (works_refl _))) (failJob_over fresh _ _)

end

/-! ### Interrupt moderation (R283) -/

theorem raiseVec_parts (s : State) (f : Fn) (v : Nat) :
    (v ∉ (s.fnOf f).masked → (s.raiseVec f v).out = s.out ++ [.msix f v]) ∧
    (v ∈ (s.fnOf f).masked → (s.raiseVec f v).out = s.out ∧ v ∈ ((s.raiseVec f v).fnOf f).pendingBits) ∧
    { s.raiseVec f v with fns := s.fns, out := s.out } = s := by
  unfold State.raiseVec
  split
  next masked =>
    refine ⟨fun open' => absurd masked open', fun _ => ⟨rfl, ?_⟩, rfl⟩
    rw [State.modFn_same]
    dsimp only
    split
    · assumption
    · exact List.mem_append_right _ List.mem_cons_self
  next unmasked => exact ⟨fun _ => rfl, fun masked => absurd masked unmasked, rfl⟩

end

theorem moderation_signals {s : State} {i : RingId} {t0 : Nat} (first : (s.ring (s.ref i)).firstUnsig = some t0) (timed : irqTimeNs s (s.ref i) ≠ 0) :
    ∃ t, exec (.irqModerationTimer i) s = .next t ∧ t.ring (s.ref i) = { s.ring (s.ref i) with unsignalled := 0, firstUnsig := none } ∧
      (∀ q : RingRef, (q.fn, q.pair) ≠ (i.fn, i.pair) → t.ring q = s.ring q) ∧
      (ringVector s (s.ref i) ∉ (s.fnOf i.fn).masked → t.out = s.out ++ [.msix i.fn (ringVector s (s.ref i))]) ∧
      (ringVector s (s.ref i) ∈ (s.fnOf i.fn).masked → t.out = s.out ∧ ringVector s (s.ref i) ∈ (t.fnOf i.fn).pendingBits) ∧
      (s.clk.running = true → s.now ≤ t0 + nsToCycles (irqTimeNs s (s.ref i)) → t0 + nsToCycles (irqTimeNs s (s.ref i)) < 2 ^ 64 →
        t.now = t0 + nsToCycles (irqTimeNs s (s.ref i))) ∧
      { t with fns := s.fns, out := s.out, clk := s.clk, cnt := s.cnt } = s := by
  obtain ⟨u, time⟩ : ∃ u, passUntil s (t0 + nsToCycles (irqTimeNs s (s.ref i))) = u := ⟨_, rfl⟩
  have ticks : ticksOnly s u := time ▸ ticksOnly_passTime s _
  have vector : ringVector u (s.ref i) = ringVector s (s.ref i) := (congrArg (fun v : State => ringVector v (s.ref i)) ticks :)
  have ring (q : RingRef) : u.ring q = s.ring q := (congrArg (fun v : State => v.ring q) ticks :)
  have out : u.out = s.out := (congrArg State.out ticks :)
  obtain ⟨v, cleared⟩ : ∃ v, u.modRing (s.ref i) (fun x => { x with unsignalled := 0, firstUnsig := none }) = v := ⟨_, rfl⟩
  have ran : exec (.irqModerationTimer i) s = .next (v.raiseVec i.fn (ringVector s (s.ref i))) := by
    change execIrqModerationTimer i s = _
    unfold execIrqModerationTimer
    dsimp only
    rw [first]
    dsimp only
    rw [if_neg timed, time, vector, cleared]
    rfl
  have masked : (v.fnOf i.fn).masked = (s.fnOf i.fn).masked := by
    rw [← cleared]
    unfold State.modRing
    rw [show (s.ref i).fn = i.fn from rfl, State.modFn_same]
    exact (congrArg (fun w : State => (w.fnOf i.fn).masked) ticks :)
  have sent : v.out = s.out := by rw [← cleared]; exact out
  obtain ⟨open', shut, frame⟩ := raiseVec_parts v i.fn (ringVector s (s.ref i))
  rw [masked] at open' shut
  refine ⟨_, ran, ?_, fun q other => ?_, fun free => (open' free).trans (by rw [sent]), fun held => ⟨(shut held).1.trans sent, (shut held).2⟩, fun running ahead fits => ?_, ?_⟩
  · rw [State.raiseVec_ring, ← cleared, State.modRing_same, ring]
  · rw [State.raiseVec_ring, ← cleared, State.modRing_other _ other.symm, ring]
  · have clock : (v.raiseVec i.fn (ringVector s (s.ref i))).clk = u.clk := by
      rw [State.raiseVec_clk, ← cleared]
      rfl
    have now := passUntil_now running ahead fits
    rw [time] at now
    exact (congrArg (fun c : Clock => c.timeBase.toNat) clock).trans now
  · have left := (congrArg (fun w : State => { w with fns := s.fns, out := s.out, clk := s.clk, cnt := s.cnt }) frame :)
    refine left.trans ?_
    rw [← cleared]
    exact (congrArg (fun w : State => { w with fns := s.fns, out := s.out }) ticks :)

end Sys2Proof.Machine

open Sys2Proof Sys2Proof.Machine

/-- Settles O26: reads of a line touch their function alone (`LineRead`), and the counters it brings and the pump leave the functions beside their pairs. -/
theorem doorbellsAndCounters : Obligations.DoorbellsAndCounters := by
  refine ⟨fun s => ⟨fun fn usable idle => ?_, fun fn usable reading => ?_, ?_, fun fn line rh hh => doorbell_arrives,
    fun fn line rh hh => doorbell_idle⟩, fun s line r live held => ⟨takeCounters_within live held, takeCounters_tail live, takeCounters_head live⟩⟩
  · have line := lineRead_readLine (s.chipCnt 42) fn
    have ran : exec (.ringKick fn) s = .next (readLine (s.chipCnt 42) fn) := by
      change Host.Outcome.next (kick s fn) = _
      unfold kick
      rw [if_neg (by rw [usable]; nofun)]
      exact congrArg Host.Outcome.next (if_neg (by rw [State.chipCnt, State.countN_fnOf, idle]; nofun))
    exact ⟨_, ran, line.own, line.others, line.read, (congrArg (fun u : State => { u with cnt := s.cnt }) line.frame :)⟩
  · have ran : exec (.ringKick fn) s = .next ((s.chipCnt 42).modFn fn fun f => { f with kickWaiting := true }) := by
      change Host.Outcome.next (kick s fn) = _
      unfold kick
      rw [if_neg (by rw [usable]; nofun)]
      exact congrArg Host.Outcome.next (if_pos reading)
    exact ⟨_, ran, State.modFn_same .., fun f other => State.modFn_other _ other.symm _, rfl⟩
  · have polled := polled_foldl allFns s
    refine ⟨_, rfl, fun fn => (polled.fns fn).trans ?_, fun fn usable => polled.read fn (mem_allFns fn) usable, polled.frame⟩
    rw [decide_eq_true (mem_allFns fn), Bool.true_and]

/-- Settles O27: a fault stops its own pair (`ringFault_same`, `ringFault_other`), and a job whose read failed stays ended under the scheduler and the pump
(`jobOver`). -/
theorem readErrorsAndModeration : Obligations.ReadErrorsAndModeration := by
  refine ⟨fun s a kind => ⟨fun i live more c listed => ?_, fun fn reading c listed => ?_, fun tag i j found fresh c listed => ?_, fun fn reading off c listed => ?_⟩,
    fun s i t0 => moderation_signals⟩
  · have on : (s.ring (s.ref i)).enable = true := by
      unfold ringLive at live
      simp only [Bool.and_eq_true] at live
      exact live.1.1
    have fails (k : Nat) : hostReadFails s (.fetch i) a k = ringFault s (s.ref i) 3 := if_pos (by rw [live, decide_eq_true more]; rfl)
    have ran : exec c s = .next (ringFault s (s.ref i) 3) := by
      simp only [List.mem_cons, List.not_mem_nil, or_false] at listed
      rcases listed with rfl | rfl
      · exact congrArg Host.Outcome.next (fails kind)
      · exact congrArg Host.Outcome.next (fails 2)
    obtain ⟨fault, cause, fetched, enable⟩ := ringFault_same s (s.ref i) 3
    obtain ⟨pending, stage, -⟩ := keeps_of_fixed (fixed_ringFault s (x1 := s.ref i) (x2 := 3))
    exact ⟨_, ran, fault, cause, fetched, enable.trans on, pending, stage⟩
  · simp only [List.mem_cons, List.not_mem_nil, or_false] at listed
    rcases listed with rfl | rfl
    · exact ⟨_, rfl, gather_fails reading a kind⟩
    · exact ⟨_, rfl, gather_fails reading a 2⟩
  · simp only [List.mem_cons, List.not_mem_nil, or_false] at listed
    rcases listed with rfl | rfl
    · exact ⟨_, rfl, (job_read_fails found fresh a kind).1⟩
    · exact ⟨_, rfl, (job_read_fails found fresh a 2).1⟩
  · have done : ∃ t, exec c s = .next t ∧ t = s.modFn fn unread := by
      simp only [List.mem_cons, List.not_mem_nil, or_false] at listed
      rcases listed with rfl | rfl
      · exact ⟨_, rfl, gather_fails_idle reading off a kind⟩
      · exact ⟨_, rfl, gather_fails_idle reading off a 2⟩
    obtain ⟨t, ran, rfl⟩ := done
    exact ⟨_, ran, State.modFn_same .., fun f other => State.modFn_other s other.symm _, rfl⟩

end

section
/-! PROOF. What a reset of a function does (R315, R446): it clears the function's pairs and leaves those of every other. -/

namespace Sys2Proof.Machine

open Sys2Proof

/-! ### The further changes of a reset -/

/-- The further changes that the reset of a function makes: to the function itself, to pegs, which it zeroes, and to what is no function's. -/
inductive Resets (g : Fn) (s : State) : State → Prop
  | apart {t : State} (fns : t.fns = s.fns) (pegs : t.pegs.val = s.pegs.val) (seq : s.health.seq ≤ t.health.seq) : Resets g s t
  | own (h : FnState → FnState) : Resets g s (s.modFn g h)
  | zero (p : Nat) : Resets g s (s.setPeg p 0)

abbrev Resetting (g : Fn) : State → State → Prop := Works (Resets g)

section
variable {g : Fn} {s₀ s t : State}

theorem resets_apart (h : Resetting g s₀ s) (fns : t.fns = s.fns) (pegs : t.pegs.val = s.pegs.val) (seq : s.health.seq ≤ t.health.seq) : Resetting g s₀ t :=
  h.tail (.extra (.apart fns pegs seq))

theorem resets_modFn {f} (h : Resetting g s₀ s) : Resetting g s₀ (s.modFn g f) := h.tail (.extra (.own f))

theorem resets_modRing {r : RingRef} {f} (own : r.fn = g) (h : Resetting g s₀ s) : Resetting g s₀ (s.modRing r f) := by
  unfold State.modRing
  rw [own]
  exact resets_modFn h

theorem resets_serveImages (h : Resetting g s₀ s) : Resetting g s₀ (serveImages s) :=
  works_serveImages (fun _ _ ⟨_, _, eq⟩ => .apart (by rw [eq]; rfl) (by rw [eq]; rfl) (by rw [eq]; rfl)) h

/-! ### Its pairs -/

theorem resets_dropSwaps {f} (h : Resetting g s₀ s) : Resetting g s₀ (dropSwaps s f) := by
  refine works_foldl h fun u m h => ?_
  split
  · exact resets_apart h rfl rfl le_rfl
  · exact h

theorem works_discardMembers {E : State → State → Prop} {f} (h : Works E s₀ s) : Works E s₀ (discardMembers s f) := by
  refine works_foldl h fun u m h => ?_
  split
  · exact works_discardBuilding h
  · exact h

theorem resets_dropFold {r n} (own : r.fn = g) (h : Resetting g s₀ s) : Resetting g s₀ (dropFold s r n) :=
  (resets_modRing own h).tail (.aside _ _ _ _ _ _ _ _ _ _ fun _ kept => kept)

theorem resets_abandonFolds {r all} (own : r.fn = g) (h : Resetting g s₀ s) : Resetting g s₀ (abandonFolds s r all) :=
  works_foldl h fun _ _ h => resets_dropFold own (works_discardMembers (resets_dropSwaps h))

theorem resets_stopPair {r} (own : r.fn = g) (h : Resetting g s₀ s) : Resetting g s₀ (stopPair s r) := by
  have waits : Resetting g s₀ { abandonFolds s r false with pegs := { (abandonFolds s r false).pegs with waits := (stopPair s r).pegs.waits } } :=
    (resets_abandonFolds own h).tail (.aside _ _ _ _ _ _ _ _ _ _ fun _ kept => kept)
  exact resets_modRing (f := halted) own waits

/-- The pair as its reset leaves it, once it is stopped. -/
def resetPair (x : RingPair) : RingPair := { x with enable := false, fault := false, cause := 0, closed := [] }

/-- The reset of one pair of the function. -/
def pairReset (s : State) (r : RingRef) : State := (stopPair (abandonFolds s r true) r).modRing r resetPair

theorem resets_pairReset {r} (own : r.fn = g) (h : Resetting g s₀ s) : Resetting g s₀ (pairReset s r) :=
  resets_modRing own (resets_stopPair own (resets_abandonFolds own h))

theorem foldl_mem_keeps {α β : Type} {P : β → Prop} {f : β → α → β} {xs : List α} {b : β} (start : P b) (each : ∀ b, ∀ a ∈ xs, P b → P (f b a)) : P (xs.foldl f b) := by
  induction xs generalizing b with
  | nil => exact start
  | cons x xs ih => exact ih (each b x List.mem_cons_self start) fun c a mem => each c a (List.mem_cons_of_mem _ mem)

/-- The pairs of the function are reset. -/
def pairsReset (s : State) (g : Fn) : State := (fnRings s g).foldl pairReset (dropHostPosts s g)

theorem resets_pairsReset (h : Resetting g s₀ s) : Resetting g s₀ (pairsReset s g) := by
  refine foldl_mem_keeps ?_ fun u r mem h => ?_
  · refine works_basketMarks (resets_apart h rfl rfl le_rfl)
  · obtain ⟨p, -, rfl⟩ := List.mem_map.mp mem
    exact resets_pairReset rfl h

/-! ### Its jobs, plans and pegs -/

theorem resets_resetJob {n} (h : Resetting g s₀ s) : Resetting g s₀ (resetJob s n) := by
  unfold resetJob
  split
  · exact h
  · exact works_ite (works_modJob (fun _ => ⟨rfl, rfl, rfl, rfl, id⟩) (fun _ => id) h) (works_failJob h)

theorem works_zeroRows {E : State → State → Prop} {a b c} (h : Works E s₀ s) : Works E s₀ (zeroRows s a b c) := works_store h

theorem works_scrubModels {E : State → State → Prop} {p} (h : Works E s₀ s) : Works E s₀ (scrubModels s p) :=
  works_when (fun h => works_foldl h fun _ _ => works_zeroRows) h

theorem works_closeBatch {E : State → State → Prop} {n} (h : Works E s₀ s) : Works E s₀ (closeBatch s n) := by
  refine works_pool (works_endWalk (works_foldl h fun u q h => ?_))
  refine works_foldl ?_ fun v e h => ?_
  · split
    · exact works_failSeqStep h
    · exact h
  · split
    · exact works_dropRef h
    · exact h

theorem works_models {E : State → State → Prop} {v} (h : Works E s₀ s) : Works E s₀ { s with sched := { s.sched with models := v } } :=
  h.tail (.books _ _ _ _ _ _ fun _ => rfl)

theorem works_dropModel {E : State → State → Prop} {n} (h : Works E s₀ s) : Works E s₀ (dropModel s n) := works_models h

theorem resets_dropPlan {p} (h : Resetting g s₀ s) : Resetting g s₀ (dropPlan s p) := by
  unfold dropPlan
  exact resets_apart (works_dropModel (n := p.handle) (works_closeBatch (works_scrubModels h))) rfl rfl le_rfl

theorem resets_abandonLoad (h : Resetting g s₀ s) : Resetting g s₀ (abandonLoad s) := by
  unfold abandonLoad
  split
  · exact works_foldl h fun _ _ => resets_dropPlan
  · exact h

theorem resets_startLoad (h : Resetting g s₀ s) : Resetting g s₀ (startLoad s) := by
  unfold startLoad
  split
  · exact works_hostRead (resets_apart h rfl rfl le_rfl)
  · exact h

theorem resets_setBank {k b} (h : Resetting g s₀ s) : Resetting g s₀ (setBank s k b) := resets_apart h rfl rfl le_rfl

theorem resets_dropSnapshots {gone} (h : Resetting g s₀ s) : Resetting g s₀ (dropSnapshots s gone) := by
  refine works_foldl h fun u k h => ?_
  split
  · exact resets_setBank h
  · exact h

/-! ### The parts of a reset -/

/-- The function's jobs end, or are marked to end at their next boundary. -/
def jobsReset (s : State) (g : Fn) : State := ((s.sched.jobs.filter (fnJob s g)).map (·.id)).foldl resetJob s

/-- The function's sequences leave. -/
def seqsReset (s : State) (g : Fn) : State :=
  { s with pool := { s.pool with seqs := mapWhere (fun q => q.fn == g && q.piece.isNone) (fun q => { q with state := .leaving, req := none }) s.pool.seqs } }

/-- Does a plan stay, or the plan whose companion it is? -/
def staysLoaded (s : State) (g : Fn) (p : PlanRec) : Bool := match findPlan s p.main with
  | some m => !resetPlan g m
  | none => !resetPlan g p

/-- The function's plans are to be unloaded, and its loads are gone. -/
def plansReset (s : State) (g : Fn) : State :=
  { s with plans := { s.plans with
      loadQ := s.plans.loadQ.filter fun e => e.1.fn != g,
      loaded := mapWhere (fun p => p.fn == g && !staysLoaded s g p) (fun p => { p with unload := some (deadRing s g, default) }) s.plans.loaded } }

/-- A load of the function that was under way gives way to the next one. -/
def loadReset (s : State) (gone : Bool) : State :=
  if gone then startLoad { abandonLoad s with plans := { (abandonLoad s).plans with loading := none } } else s

/-- The pegs of the function's grant are zeroed. -/
def pegsReset (s : State) (g : Fn) : State := (List.range (s.fnOf g).pegCount).foldl (fun u i => u.setPeg ((u.fnOf g).pegBase + i) 0) s

/-- The function as its reset leaves it, beside its pairs. -/
def fnEnded (f : FnState) : FnState := { f with lineRead := false, kickWaiting := false, recEnable := false }

/-- The function's jobs, sequences, plans and loads are reset. -/
def workReset (s : State) (g : Fn) : State :=
  let u := seqsReset (jobsReset s g) g
  loadReset (plansReset u g) (u.plans.loadQ.head?.any fun e => e.1.fn == g)

theorem resetFunction_eq (s : State) (g : Fn) : resetFunction s g =
    serveImages ((dropSnapshots (pegsReset (workReset (pairsReset s g) g) g) fun f => f == g).modFn g fnEnded) := by
  unfold resetFunction
  extract_lets pairs jobs pool seqs gone keep plan plans drop dropped load pegs snaps
  have first : pairs = pairsReset s g := rfl
  clear_value pairs
  have worked : jobs = jobsReset pairs g := rfl
  clear_value jobs
  have second : seqs = seqsReset jobs g := rfl
  clear_value seqs
  have third : load = loadReset (plansReset seqs g) (seqs.plans.loadQ.head?.any fun e => e.1.fn == g) := rfl
  clear_value load
  have fourth : snaps = dropSnapshots (pegsReset load g) fun f => f == g := rfl
  clear_value snaps
  rw [fourth, third, second, worked, first]
  rfl

theorem resets_workReset {q} (h : Resetting g s₀ s) : Resetting g s₀ (workReset s q) := by
  have seqs : Resetting g s₀ (seqsReset (jobsReset s q) q) := works_pool (works_foldl h fun _ _ => resets_resetJob)
  have plans : Resetting g s₀ (plansReset (seqsReset (jobsReset s q) q) q) := resets_apart seqs rfl rfl le_rfl
  exact works_when (fun h => resets_startLoad (resets_apart (resets_abandonLoad h) rfl rfl le_rfl)) plans

theorem resets_pegsReset {q} (h : Resetting g s₀ s) : Resetting g s₀ (pegsReset s q) := works_foldl h fun _ _ h => h.tail (.extra (.zero _))

theorem resets_resetFunction (h : Resetting g s₀ s) : Resetting g s₀ (resetFunction s g) := by
  rw [resetFunction_eq]
  exact resets_serveImages (resets_modFn (resets_dropSnapshots (resets_pegsReset (resets_workReset (resets_pairsReset h)))))

/-! ### What a reset keeps -/

/-- A function other than the one that is reset keeps what is not its pairs' work. -/
theorem resets_bareFn {f : Fn} (other : f ≠ g) (h : Resetting g s t) : bareFn (t.fnOf f) = bareFn (s.fnOf f) := by
  refine works_same (f := fun u => bareFn (u.fnOf f)) (fun u v w => ?_) h
  rcases work_cases w with plain | more
  · exact bare_fnOf (work_bare_plain plain) f
  · cases more with
    | apart fns => rw [fnOf_of_fns fns]
    | own k => rw [State.modFn_other _ other.symm]
    | zero => rfl

theorem work_seq {E : State → State → Prop} (extra : ∀ s t, E s t → s.health.seq ≤ t.health.seq) (h : Work E s t) : s.health.seq ≤ t.health.seq := by
  cases h with
  | health _ _ _ _ _ rising => exact rising
  | hold k => cases k <;> exact le_rfl
  | piece k => cases k <;> exact le_rfl
  | extra more => exact extra _ _ more
  | aside | books | jobs | unlist | vector | ring | waited | fold | basket | tile | olds | tailor => exact le_rfl

theorem works_seq {E : State → State → Prop} (extra : ∀ s t, E s t → s.health.seq ≤ t.health.seq) (h : Works E s t) : s.health.seq ≤ t.health.seq :=
  works_keep (P := fun u => s.health.seq ≤ u.health.seq) (fun _ _ w k => k.trans (work_seq extra w)) h le_rfl

theorem resets_seq (h : Resetting g s t) : s.health.seq ≤ t.health.seq := by
  refine works_seq (fun u v more => ?_) h
  cases more with
  | apart _ _ seq => exact seq
  | own | zero => exact le_rfl

/-! #### Cleared functions stay cleared -/

/-- A pair with nothing under way, and disabled. -/
def pairCleared (x : RingPair) : Prop :=
  x.enable = false ∧ x.fault = false ∧ x.fetched = [] ∧ x.unfetched = 0 ∧ x.held = [] ∧ x.running = [] ∧ x.pegWait = false

/-- All pairs of a function are cleared. -/
def pairsCleared (f : Fn) (s : State) : Prop := ∀ p : Fin 8, pairCleared ((s.fnOf f).rings[p.val])

/-- The pegs of a function's grant are zero. -/
def pegsCleared (f : Fn) (s : State) : Prop := ∀ n, (s.fnOf f).pegBase ≤ n → n < (s.fnOf f).pegBase + (s.fnOf f).pegCount → s.peg n = 0

theorem pairsCleared_modRing {f : Fn} {r : RingRef} {k : RingPair → RingPair} (kept : r.fn = f → pairCleared (s.ring r) → pairCleared (k (s.ring r)))
    (h : pairsCleared f s) : pairsCleared f (s.modRing r k) := by
  intro p
  have here : ((s.modRing r k).fnOf f).rings[p.val] = (s.modRing r k).ring ⟨f, p, 0⟩ := rfl
  rw [here]
  by_cases same : (r.fn, r.pair) = (f, p)
  · rw [← ring_of_place (p := r) (q := ⟨f, p, 0⟩) _ same, State.modRing_same]
    obtain ⟨fn, -⟩ := Prod.mk.inj same
    refine kept fn ?_
    rw [ring_of_place (q := ⟨f, p, 0⟩) s same]
    exact h p
  · rw [State.modRing_other s (q := ⟨f, p, 0⟩) same]
    exact h p

theorem pairsCleared_modFn {f q : Fn} {k : FnState → FnState} (kept : (k (s.fnOf q)).rings = (s.fnOf q).rings) (h : pairsCleared f s) : pairsCleared f (s.modFn q k) := by
  intro p
  by_cases same : q = f
  · subst same
    simp only [State.modFn_same, kept]
    exact h p
  · rw [State.modFn_other s same]
    exact h p

theorem pairsCleared_of_fns {f : Fn} (fns : t.fns = s.fns) (h : pairsCleared f s) : pairsCleared f t := by
  intro p
  rw [fnOf_of_fns fns]
  exact h p

theorem work_pairsCleared {E : State → State → Prop} {f : Fn} (extra : ∀ s t, E s t → pairsCleared f s → pairsCleared f t) (h : Work E s t)
    (clear : pairsCleared f s) : pairsCleared f t := by
  cases h with
  | vector q bits => exact pairsCleared_modFn rfl clear
  | ring r k live kept =>
    refine pairsCleared_modRing (fun own off => ?_) clear
    unfold ringLive at live
    rw [off.1] at live
    exact nomatch live
  | waited r =>
    refine pairsCleared_modRing (fun own off => ?_) clear
    obtain ⟨enable, fault, fetched, unfetched, held, running, -⟩ := off
    exact ⟨enable, fault, fetched, unfetched, held, running, rfl⟩
  | fold r n k kept => exact pairsCleared_modRing (fun own off => off) clear
  | hold k => cases k <;> exact clear
  | piece k => cases k <;> exact clear
  | extra more => exact extra _ _ more clear
  | aside | books | jobs | unlist | basket | health | tile | olds | tailor => exact clear

theorem peg_setPeg_zero {p n : Nat} (h : s.peg n = 0) : (s.setPeg p 0).peg n = 0 := by
  unfold State.peg State.setPeg at *
  rw [smGet_set]
  split
  · rfl
  · exact h

theorem work_peg {E : State → State → Prop} {n : Nat} (extra : ∀ s t, E s t → s.peg n = 0 → t.peg n = 0) (h : Work E s t) (zero : s.peg n = 0) : t.peg n = 0 := by
  rcases work_cases h with plain | more
  · have val : t.pegs.val = s.pegs.val := (congrArg (fun u : State => u.pegs.val) (work_bare_plain plain) :)
    unfold State.peg at *
    rw [val]
    exact zero
  · exact extra _ _ more zero

theorem resets_peg {n : Nat} (h : Resetting g s t) (zero : s.peg n = 0) : t.peg n = 0 := by
  refine works_keep (P := fun u => u.peg n = 0) (fun _ _ => work_peg fun u v more zero => ?_) h zero
  cases more with
  | apart _ val =>
    unfold State.peg at *
    rw [val]
    exact zero
  | own => exact zero
  | zero p => exact peg_setPeg_zero zero

theorem fnEnded_iff {x : FnState} : fnEnded x = x ↔ x.recEnable = false ∧ x.lineRead = false ∧ x.kickWaiting = false := by
  constructor
  · exact fun same => ⟨(congrArg FnState.recEnable same).symm, (congrArg FnState.lineRead same).symm, (congrArg FnState.kickWaiting same).symm⟩
  · obtain ⟨⟩ := x
    rintro ⟨rfl, rfl, rfl⟩
    rfl

theorem fnCleared_iff {f : Fn} : fnCleared s f ↔ pairsCleared f s ∧ fnEnded (s.fnOf f) = s.fnOf f ∧ pegsCleared f s := by
  rw [fnEnded_iff]
  exact ⟨fun ⟨pairs, recs, line, kick, pegs⟩ => ⟨pairs, ⟨recs, line, kick⟩, pegs⟩, fun ⟨pairs, ⟨recs, line, kick⟩, pegs⟩ => ⟨pairs, recs, line, kick, pegs⟩⟩

theorem fnEnded_of_bare {x y : FnState} (same : bareFn y = bareFn x) (h : fnEnded x = x) : fnEnded y = y := by
  obtain ⟨recs, line, kick⟩ := fnEnded_iff.mp h
  exact fnEnded_iff.mpr ⟨(congrArg FnState.recEnable same :).trans recs, (congrArg FnState.lineRead same :).trans line, (congrArg FnState.kickWaiting same :).trans kick⟩

theorem pegsCleared_of_bare {f : Fn} (same : bareFn (t.fnOf f) = bareFn (s.fnOf f)) (zero : ∀ n, s.peg n = 0 → t.peg n = 0) (h : pegsCleared f s) : pegsCleared f t := by
  have base : (t.fnOf f).pegBase = (s.fnOf f).pegBase := (congrArg FnState.pegBase same :)
  have count : (t.fnOf f).pegCount = (s.fnOf f).pegCount := (congrArg FnState.pegCount same :)
  intro n from' to'
  rw [base] at from' to'
  rw [count] at to'
  exact zero n (h n from' to')

theorem resets_pairsCleared {f : Fn} (other : f ≠ g) (h : Resetting g s t) (clear : pairsCleared f s) : pairsCleared f t := by
  refine works_keep (fun _ _ => work_pairsCleared fun u v more clear => ?_) h clear
  cases more with
  | apart fns => exact pairsCleared_of_fns fns clear
  | own k =>
    intro p
    rw [State.modFn_other _ other.symm]
    exact clear p
  | zero => exact clear

/-- A function that is cleared stays so through the reset of another. -/
theorem resets_fnCleared {f : Fn} (other : f ≠ g) (h : Resetting g s t) (clear : fnCleared s f) : fnCleared t f := by
  obtain ⟨pairs, ended, pegs⟩ := fnCleared_iff.mp clear
  have same := resets_bareFn other h
  exact fnCleared_iff.mpr ⟨resets_pairsCleared other h pairs, fnEnded_of_bare same ended, pegsCleared_of_bare same (fun n => resets_peg h) pegs⟩

end

end Sys2Proof.Machine
end

section
/-! PROOF. Enabling and resetting functions (R281, R315, R446, R463). -/

namespace Sys2Proof.Machine

open Sys2Proof

/-! ### The pairs of the function that is reset -/

/-- A pair as a reset of its function leaves it: cleared, and without a fold. -/
def pairEnded (x : RingPair) : Prop := pairCleared x ∧ x.fold = none ∧ x.closed = []

theorem abandonFolds_fns (s : State) (r : RingRef) (all : Bool) : ∃ k, (abandonFolds s r all).fns = (s.modRing r k).fns :=
  foldl_keeps (fun u : State => ∃ k, u.fns = (s.modRing r k).fns) _ (fun u f ⟨k, same⟩ =>
    ⟨fun x => without f.id (k x), by rw [giveUp_fns, modRing_fns same, modRing_modRing]⟩) _ _ ⟨id, by rw [modRing_id s r id rfl]⟩

/-- The reset of a pair ends what it had, and touches no other pair and no function. -/
theorem pairReset_fns (s : State) (r : RingRef) : ∃ x, (pairReset s r).fns = (s.modRing r fun _ => x).fns ∧ pairEnded x := by
  obtain ⟨k, all⟩ := abandonFolds_fns s r true
  obtain ⟨c, stops, -⟩ := stopPair_fns (abandonFolds s r true) r
  refine ⟨resetPair (stopped c (k (s.ring r))), ?_, ⟨rfl, rfl, rfl, rfl, rfl, rfl, rfl⟩, rfl, rfl⟩
  unfold pairReset
  rw [modRing_fns stops, modRing_modRing, modRing_fns all, modRing_modRing]
  exact congrArg State.fns (modRing_congr s r rfl)

/-- Of the functions' state only pairs of `g` differ, and those named have ended. -/
def pairsEnded (g : Fn) (ps : List (Fin 8)) (s t : State) : Prop :=
  (∀ f, f ≠ g → t.fnOf f = s.fnOf f) ∧ { t.fnOf g with rings := (s.fnOf g).rings } = s.fnOf g ∧ ∀ p ∈ ps, pairEnded ((t.fnOf g).rings[p.val])

section
variable {g : Fn} {ps : List (Fin 8)} {s t : State}

theorem pairsEnded_pairReset (p : Fin 8) (gen : Nat) (h : pairsEnded g ps s t) : pairsEnded g (p :: ps) s (pairReset t ⟨g, p, gen⟩) := by
  obtain ⟨others, own, done⟩ := h
  obtain ⟨x, fns, ended⟩ := pairReset_fns t ⟨g, p, gen⟩
  refine ⟨fun f other => ?_, ?_, fun q mem => ?_⟩
  · rw [fnOf_of_fns fns]
    exact (State.modFn_other t other.symm _).trans (others f other)
  · rw [fnOf_of_fns fns]
    unfold State.modRing
    rw [State.modFn_same]
    exact own
  · have here : ((pairReset t ⟨g, p, gen⟩).fnOf g).rings[q.val] = (t.modRing ⟨g, p, gen⟩ fun _ => x).ring ⟨g, q, 0⟩ := ring_of_fns fns ⟨g, q, 0⟩
    rw [here]
    by_cases same : p = q
    · subst same
      rw [← ring_of_place (p := ⟨g, p, gen⟩) (q := ⟨g, p, 0⟩) _ rfl, State.modRing_same]
      exact ended
    · rw [State.modRing_other t (q := ⟨g, q, 0⟩) fun eq => same (Prod.mk.inj eq).2]
      exact done q ((List.mem_cons.mp mem).resolve_left (Ne.symm same))

theorem pairsEnded_fold (refs : List RingRef) (own : ∀ r ∈ refs, r.fn = g) (h : pairsEnded g ps s t) :
    pairsEnded g ((refs.map (·.pair)).reverse ++ ps) s (refs.foldl pairReset t) := by
  induction refs generalizing ps t with
  | nil => exact h
  | cons r refs ih =>
    obtain ⟨fn, p, gen⟩ := r
    obtain rfl : fn = g := own _ List.mem_cons_self
    have rest := ih (fun q mem => own q (List.mem_cons_of_mem _ mem)) (pairsEnded_pairReset p gen h)
    rw [List.map_cons, List.reverse_cons, List.append_assoc]
    exact rest

theorem pairsEnded_pairsReset (s : State) (g : Fn) : pairsEnded g allPairs s (pairsReset s g) := by
  have start : pairsEnded g [] s (dropHostPosts s g) := by
    have fns : (dropHostPosts s g).fns = s.fns := basketMarks_fns _
    refine ⟨fun f _ => fnOf_of_fns fns f, ?_, nofun⟩
    rw [fnOf_of_fns fns]
  obtain ⟨others, own, done⟩ := pairsEnded_fold (fnRings s g) (fun r mem => by
    obtain ⟨p, -, rfl⟩ := List.mem_map.mp mem
    rfl) start
  refine ⟨others, own, fun p mem => done p (List.mem_append_left _ (List.mem_reverse.mpr ?_))⟩
  unfold fnRings
  rw [List.map_map]
  exact List.mem_map.mpr ⟨p, mem, rfl⟩

end

/-! ### The function that is reset -/

theorem setPegs_zero (g : Fn) (n : Nat) (s : State) :
    let t := (List.range n).foldl (fun u i => u.setPeg ((u.fnOf g).pegBase + i) 0) s
    t.fns = s.fns ∧ ∀ k, (s.fnOf g).pegBase ≤ k → k < (s.fnOf g).pegBase + n → t.peg k = 0 := by
  induction n with
  | zero => exact ⟨rfl, fun k low high => absurd high (by omega)⟩
  | succ n ih =>
    rw [List.range_succ, List.foldl_append]
    obtain ⟨fns, zero⟩ := ih
    refine ⟨fns, fun k low high => ?_⟩
    rw [List.foldl_cons, List.foldl_nil, State.peg_setPeg, fnOf_of_fns fns]
    split
    · rfl
    · exact zero k low (by omega)

theorem pegsReset_fns (s : State) (g : Fn) : (pegsReset s g).fns = s.fns := (setPegs_zero g _ s).1

theorem pegsReset_cleared (s : State) (g : Fn) : pegsCleared g (pegsReset s g) := by
  obtain ⟨fns, zero⟩ := setPegs_zero g (s.fnOf g).pegCount s
  intro k low high
  rw [fnOf_of_fns (pegsReset_fns s g)] at low high
  exact zero k low high

theorem exists_otherFn (g : Fn) : ∃ q : Fn, g ≠ q := by
  revert g
  decide

theorem dropSnapshots_fns (s : State) (gone : Fn → Bool) : (dropSnapshots s gone).fns = s.fns :=
  foldl_keeps (fun u : State => u.fns = s.fns) _ (fun u k same => by
    split
    · exact same
    · exact same) _ _ rfl

theorem fnEnded_rings (x : FnState) : (fnEnded x).rings = x.rings := rfl

theorem fnEnded_enabled (x : FnState) : (fnEnded x).enabled = x.enabled := rfl

theorem fnEnded_fnEnded (x : FnState) : fnEnded (fnEnded x) = fnEnded x := rfl

/-- The state of the function before its reset's last step. -/
def nearlyReset (s : State) (g : Fn) : State := dropSnapshots (pegsReset (workReset (pairsReset s g) g) g) fun f => f == g

theorem nearlyReset_cleared (s : State) (g : Fn) : pairsCleared g (nearlyReset s g) ∧ pegsCleared g (nearlyReset s g) := by
  obtain ⟨q, other⟩ := exists_otherFn g
  have pairs : pairsCleared g (pairsReset s g) := fun p => ((pairsEnded_pairsReset s g).2.2 p (mem_allPairs p)).1
  have worked := resets_pairsCleared other (resets_workReset (q := g) (works_refl _)) pairs
  have fns := (dropSnapshots_fns _ fun f => f == g).trans (pegsReset_fns (workReset (pairsReset s g) g) g)
  refine ⟨pairsCleared_of_fns fns worked, ?_⟩
  have zero := pegsReset_cleared (workReset (pairsReset s g) g) g
  refine pegsCleared_of_bare (congrArg bareFn (fnOf_of_fns (dropSnapshots_fns _ _) g)) (fun n => resets_peg (g := q) ?_) zero
  exact resets_dropSnapshots (works_refl _)

theorem fnEnded_cleared {g : Fn} {u : State} (pairs : pairsCleared g u) (pegs : pegsCleared g u) : fnCleared (u.modFn g fnEnded) g := by
  refine fnCleared_iff.mpr ⟨pairsCleared_modFn (fnEnded_rings _) pairs, ?_, fun n low high => ?_⟩
  · rw [State.modFn_same, fnEnded_fnEnded]
  · rw [State.modFn_same] at low high
    exact pegs n low high

theorem resetFunction_cleared (s : State) (g : Fn) : fnCleared (resetFunction s g) g := by
  obtain ⟨q, other⟩ := exists_otherFn g
  obtain ⟨pairs, pegs⟩ := nearlyReset_cleared s g
  rw [resetFunction_eq]
  exact resets_fnCleared other (resets_serveImages (works_refl _)) (fnEnded_cleared pairs pegs)

section
variable {x y : FnState}

theorem bareFn_enabled (same : bareFn y = bareFn x) : y.enabled = x.enabled := (congrArg FnState.enabled same :)

theorem bareFn_recEnable (same : bareFn y = bareFn x) : y.recEnable = x.recEnable := (congrArg FnState.recEnable same :)

theorem bareFn_ringEnable (same : bareFn y = bareFn x) (p : Fin 8) : (y.rings[p.val]).enable = (x.rings[p.val]).enable := by
  have rings : y.rings.map bareRing = x.rings.map bareRing := (congrArg FnState.rings same :)
  have pair : bareRing y.rings[p.val] = bareRing x.rings[p.val] := by rw [← Vector.getElem_map bareRing p.isLt, rings, Vector.getElem_map]
  exact (congrArg RingPair.enable pair :)

theorem rings_enabled {v} (same : { y with rings := v } = x) : y.enabled = x.enabled := (congrArg FnState.enabled same :)

end

theorem serveImages_enabled (s : State) (g : Fn) : ((serveImages s).fnOf g).enabled = (s.fnOf g).enabled := by
  obtain ⟨q, other⟩ := exists_otherFn g
  exact bareFn_enabled (resets_bareFn other (resets_serveImages (works_refl s)))

theorem fnEnded_modFn_enabled (s : State) (g : Fn) : ((s.modFn g fnEnded).fnOf g).enabled = (s.fnOf g).enabled := by
  rw [State.modFn_same, fnEnded_enabled]

theorem nearlyReset_enabled (s : State) (g : Fn) : ((nearlyReset s g).fnOf g).enabled = (s.fnOf g).enabled := by
  obtain ⟨q, other⟩ := exists_otherFn g
  have pairs := (pairsEnded_pairsReset s g).2.1
  have worked := resets_bareFn other (resets_dropSnapshots (gone := fun f => f == g) (resets_pegsReset (q := g) (resets_workReset (q := g) (works_refl (pairsReset s g)))))
  exact (bareFn_enabled worked).trans (rings_enabled pairs)

theorem resetFunction_enabled (s : State) (g : Fn) : ((resetFunction s g).fnOf g).enabled = (s.fnOf g).enabled := by
  rw [resetFunction_eq]
  exact (serveImages_enabled _ g).trans ((fnEnded_modFn_enabled _ g).trans (nearlyReset_enabled s g))

end Sys2Proof.Machine
end
section
/-! PROOF. The resets of a module with no work, and of several functions at once (R315, R446). -/

namespace Sys2Proof.Machine

open Sys2Proof

/-! ### A module with no work -/

/-- The two states differ in nothing but their functions, pegs and sequences. -/
def likeButFns (s t : State) : Prop := { t with fns := s.fns, pegs := s.pegs, pool := s.pool } = s

/-- No fold is open or closed on any pair. -/
def noFolds (s : State) : Prop := ∀ (f : Fn) (p : Fin 8), ((s.fnOf f).rings[p.val]).fold = none ∧ ((s.fnOf f).rings[p.val]).closed = []

/-- A module with no job, plan, load, SNAPSHOT or post. -/
structure Workless (s : State) : Prop where
  jobs : s.sched.jobs = []
  plans : s.plans.loaded = []
  loads : s.plans.loadQ = []
  banks : ∀ k, bankOf s k = none
  posts : s.basket.committed = []
  low : s.basket.hold = false
  room : basketUsed s ≤ mib * basketHigh s

section
variable {s t u : State} {g : Fn}

theorem likeButFns_refl : likeButFns s s := rfl

theorem likeButFns_trans (h : likeButFns s t) (k : likeButFns t u) : likeButFns s u := by
  have both : { { u with fns := t.fns, pegs := t.pegs, pool := t.pool } with fns := s.fns, pegs := s.pegs, pool := s.pool } = s := by
    rw [show { u with fns := t.fns, pegs := t.pegs, pool := t.pool } = t from k]
    exact h
  exact both

theorem Workless.of_like (like : likeButFns s t) (h : Workless s) : Workless t where
  jobs := (congrArg (fun u : State => u.sched.jobs) like :).trans h.jobs
  plans := (congrArg (fun u : State => u.plans.loaded) like :).trans h.plans
  loads := (congrArg (fun u : State => u.plans.loadQ) like :).trans h.loads
  banks k := (congrArg (fun u : State => bankOf u k) like :).trans (h.banks k)
  posts := (congrArg (fun u : State => u.basket.committed) like :).trans h.posts
  low := (congrArg (fun u : State => u.basket.hold) like :).trans h.low
  room := by
    have used : basketUsed t = basketUsed s := (congrArg basketUsed like :)
    have high : basketHigh t = basketHigh s := (congrArg basketHigh like :)
    rw [used, high]
    exact h.room

theorem dropHostPosts_workless (h : Workless s) : dropHostPosts s g = s := by
  have same : { s with basket := { s.basket with committed := s.basket.committed.filter fun p => p.fn != g || p.feed } } = s := by
    rw [h.posts, List.filter_nil, ← h.posts]
  unfold dropHostPosts
  rw [same]
  unfold basketMarks
  have room := h.room
  dsimp only
  rw [if_neg (by omega), if_neg (by simp [h.low])]

theorem abandonFolds_none {r : RingRef} (open_ : (s.ring r).fold = none) (closed : (s.ring r).closed = []) (all : Bool) : abandonFolds s r all = s := by
  unfold abandonFolds
  rw [open_, closed]
  cases all <;> rfl

theorem pairReset_frame {r : RingRef} (opened : (s.ring r).fold = none) (closed : (s.ring r).closed = []) : likeButFns s (pairReset s r) := by
  unfold pairReset stopPair
  rw [abandonFolds_none opened closed, abandonFolds_none opened closed]
  rfl

/-- No fold is open or closed on any pair of the function. -/
def foldless (g : Fn) (s : State) : Prop := ∀ p : Fin 8, ((s.fnOf g).rings[p.val]).fold = none ∧ ((s.fnOf g).rings[p.val]).closed = []

theorem foldless_pairReset {p : Fin 8} {gen : Nat} (folds : foldless g s) : foldless g (pairReset s ⟨g, p, gen⟩) := by
  intro q
  obtain ⟨x, fns, -, ended⟩ := pairReset_fns s ⟨g, p, gen⟩
  have here : ((pairReset s ⟨g, p, gen⟩).fnOf g).rings[q.val] = (s.modRing ⟨g, p, gen⟩ fun _ => x).ring ⟨g, q, gen⟩ := ring_of_fns fns ⟨g, q, gen⟩
  rw [here]
  by_cases same : p = q
  · subst same
    rw [State.modRing_same]
    exact ended
  · rw [State.modRing_other s (q := ⟨g, q, gen⟩) fun eq => same (Prod.mk.inj eq).2]
    exact folds q

theorem pairsReset_frame (h : Workless s) (folds : noFolds s) : likeButFns s (pairsReset s g) := by
  unfold pairsReset
  rw [dropHostPosts_workless h]
  refine (foldl_mem_keeps (P := fun u => likeButFns s u ∧ foldless g u) ⟨likeButFns_refl, folds g⟩ fun u r mem ⟨like, folds⟩ => ?_).1
  obtain ⟨p, -, rfl⟩ := List.mem_map.mp mem
  exact ⟨likeButFns_trans like (pairReset_frame (folds p).1 (folds p).2), foldless_pairReset folds⟩

theorem workReset_workless (h : Workless s) : workReset s g = seqsReset s g := by
  have jobs : jobsReset s g = s := by
    unfold jobsReset
    rw [h.jobs]
    rfl
  have plans : plansReset (seqsReset s g) g = seqsReset s g := by
    unfold plansReset seqsReset mapWhere
    dsimp only
    rw [h.plans, h.loads, List.filter_nil, List.map_nil, ← h.loads, ← h.plans]
  have none : (seqsReset s g).plans.loadQ = [] := h.loads
  unfold workReset
  dsimp only
  rw [jobs, plans, none]
  rfl

theorem dropSnapshots_none {gone : Fn → Bool} (none : ∀ k, bankOf s k = none) : dropSnapshots s gone = s :=
  foldl_keeps (fun u : State => u = s) _ (fun u k same => by
    subst same
    rw [none k]) _ _ rfl

theorem pegsReset_like : likeButFns s (pegsReset s g) := by
  unfold pegsReset
  refine foldl_keeps (likeButFns s) _ (fun u i like => ?_) _ _ likeButFns_refl
  exact like

theorem seqsReset_like : likeButFns s (seqsReset s g) := rfl

theorem seqsReset_fns : (seqsReset s g).fns = s.fns := rfl

theorem modFn_like {k : FnState → FnState} : likeButFns s (s.modFn g k) := rfl

theorem resetFunction_workless (h : Workless s) (folds : noFolds s) :
    resetFunction s g = (pegsReset (seqsReset (pairsReset s g) g) g).modFn g fnEnded := by
  have none := h.of_like (pairsReset_frame (g := g) h folds)
  have seqs : Workless (seqsReset (pairsReset s g) g) := none.of_like seqsReset_like
  have pegs := seqs.of_like (pegsReset_like (g := g))
  have last : Workless ((pegsReset (seqsReset (pairsReset s g) g) g).modFn g fnEnded) := pegs.of_like modFn_like
  rw [resetFunction_eq, workReset_workless none, dropSnapshots_none pegs.banks, serveImages_idle _ last.jobs]

theorem resetFunction_like (h : Workless s) (folds : noFolds s) : likeButFns s (resetFunction s g) := by
  have pairs := pairsReset_frame (g := g) h folds
  rw [resetFunction_workless h folds]
  generalize pairsReset s g = a at *
  have seqs : likeButFns s (seqsReset a g) := pairs
  generalize seqsReset a g = b at *
  have pegs := likeButFns_trans seqs (pegsReset_like (g := g))
  exact pegs

theorem resetFunction_fnOf (h : Workless s) (folds : noFolds s) {f : Fn} (other : f ≠ g) : (resetFunction s g).fnOf f = s.fnOf f := by
  rw [resetFunction_workless h folds, State.modFn_other _ other.symm, fnOf_of_fns (pegsReset_fns _ g), fnOf_of_fns seqsReset_fns]
  exact (pairsEnded_pairsReset s g).1 f other

theorem resetFunction_noFolds (h : Workless s) (folds : noFolds s) : noFolds (resetFunction s g) := by
  intro f p
  by_cases other : f = g
  · subst other
    rw [resetFunction_workless h folds, State.modFn_same, fnEnded_rings, fnOf_of_fns (pegsReset_fns _ f), fnOf_of_fns seqsReset_fns]
    exact ((pairsEnded_pairsReset s f).2.2 p (mem_allPairs p)).2
  · rw [resetFunction_fnOf h folds other]
    exact folds f p

end

end Sys2Proof.Machine
end

section
/-! PROOF. The VFs' enables and the reset of the host interface (R281, R315, R446, R463). -/

namespace Sys2Proof.Machine

open Sys2Proof

section
variable {s t u : State} {f g : Fn} {on : Fn → Bool}

/-! ### A function apart from what is reset -/

/-- A change leaves a function its own state, and cleared where it was so. -/
def leavesFn (f : Fn) (s t : State) : Prop := bareFn (t.fnOf f) = bareFn (s.fnOf f) ∧ (fnCleared s f → fnCleared t f)

theorem leavesFn_refl : leavesFn f s s := ⟨rfl, id⟩

theorem leavesFn_trans (h : leavesFn f s t) (k : leavesFn f t u) : leavesFn f s u := ⟨k.1.trans h.1, fun clear => k.2 (h.2 clear)⟩

theorem leavesFn_resetFunction (other : f ≠ g) : leavesFn f s (resetFunction s g) :=
  have resets := resets_resetFunction (works_refl s)
  ⟨resets_bareFn other resets, resets_fnCleared other resets⟩

theorem leavesFn_modFn {k : FnState → FnState} (other : f ≠ g) : leavesFn f s (s.modFn g k) := by
  have resets : Resetting g s (s.modFn g k) := resets_modFn (works_refl s)
  exact ⟨resets_bareFn other resets, resets_fnCleared other resets⟩

theorem fnCleared_modFn (h : fnCleared s g) (b : Bool) : fnCleared (s.modFn g fun f => { f with enabled := b }) g := by
  unfold fnCleared at *
  rw [State.modFn_same]
  exact h

theorem disableVf_cleared : fnCleared (disableVf s g) g := fnCleared_modFn (resetFunction_cleared s g) false

theorem disableVf_enabled : ((disableVf s g).fnOf g).enabled = false := by
  unfold disableVf
  rw [State.modFn_same]

theorem leavesFn_disableVf (other : f ≠ g) : leavesFn f s (disableVf s g) := leavesFn_trans (leavesFn_resetFunction other) (leavesFn_modFn other)

/-! ### The enables of all VFs -/

/-- One VF is enabled or disabled as asked. -/
def vfStep (on : Fn → Bool) (s : State) (f : Fn) : State :=
  if (s.fnOf f).enabled && !on f then disableVf s f
  else if !(s.fnOf f).enabled && on f then s.modFn f fun x => { x with enabled := true }
  else s

theorem leavesFn_vfStep (other : f ≠ g) : leavesFn f s (vfStep on s g) := by
  unfold vfStep
  split
  · exact leavesFn_disableVf other
  · split
    · exact leavesFn_modFn other
    · exact leavesFn_refl

theorem enableVf_enabled : ((s.modFn f fun x => { x with enabled := true }).fnOf f).enabled = true := by rw [State.modFn_same]

/-- The VF stands as asked, and is cleared where that disables it. -/
theorem vfStep_stands : ((vfStep on s f).fnOf f).enabled = on f ∧ ((s.fnOf f).enabled = true → on f = false → fnCleared (vfStep on s f) f) := by
  unfold vfStep
  cases was : (s.fnOf f).enabled <;> cases will : on f
  · exact ⟨was, nofun⟩
  · exact ⟨enableVf_enabled, nofun⟩
  · exact ⟨disableVf_enabled, fun _ _ => disableVf_cleared⟩
  · exact ⟨was, nofun⟩

theorem leavesFn_vfSteps (fs : List Fn) (apart : f ∉ fs) : leavesFn f s (fs.foldl (vfStep on) s) :=
  foldl_mem_keeps leavesFn_refl fun _ _ mem left => leavesFn_trans left (leavesFn_vfStep fun same => apart (same ▸ mem))

theorem mem_allVfs (vf : f.val ≠ 0) : f ∈ allVfs := List.mem_filter.mpr ⟨mem_allFns f, bne_iff_ne.mpr vf⟩

theorem zero_notMem_allVfs : (0 : Fn) ∉ allVfs := by decide

theorem nodup_allVfs : allVfs.Nodup := by decide

/-- Each VF stands as asked. -/
theorem vfSteps_stand (vf : f.val ≠ 0) :
    ((allVfs.foldl (vfStep on) s).fnOf f).enabled = on f ∧ ((s.fnOf f).enabled = true → on f = false → fnCleared (allVfs.foldl (vfStep on) s) f) := by
  obtain ⟨before, after, split⟩ := List.append_of_mem (mem_allVfs vf)
  have apart := nodup_allVfs
  rw [split, List.nodup_append, List.nodup_cons] at apart
  obtain ⟨-, ⟨later, -⟩, disjoint⟩ := apart
  have first : leavesFn f s (before.foldl (vfStep on) s) := leavesFn_vfSteps before fun mem => disjoint f mem f List.mem_cons_self rfl
  rw [split, List.foldl_append, List.foldl_cons]
  generalize before.foldl (vfStep on) s = a at *
  obtain ⟨stands, clears⟩ := vfStep_stands (s := a) (on := on) (f := f)
  obtain ⟨same, kept⟩ := leavesFn_vfSteps (s := vfStep on a f) (on := on) after later
  refine ⟨(bareFn_enabled same).trans stands, fun was off => kept (clears ?_ off)⟩
  rw [bareFn_enabled first.1, was]

theorem resetHostInterface_eq (s : State) :
    resetHostInterface s = regSet (resetFunction (allVfs.foldl (vfStep fun _ => false) s) 0) 0 0x1044 0 := by
  have step : (fun (s : State) (f : Fn) => if (s.fnOf f).enabled then disableVf s f else s) = vfStep fun _ => false := by
    funext s f
    unfold vfStep
    cases (s.fnOf f).enabled <;> rfl
  unfold resetHostInterface
  rw [step]

theorem fnCleared_regSet {q o v : Nat} (h : fnCleared s f) : fnCleared (regSet s q o v) f := h

theorem leavesFn_regSet {q o v : Nat} : leavesFn f s (regSet s q o v) := ⟨rfl, id⟩

theorem resetHostInterface_clears (s : State) : fnCleared (resetHostInterface s) 0 ∧
    (∀ f : Fn, f.val ≠ 0 → ((resetHostInterface s).fnOf f).enabled = false ∧ ((s.fnOf f).enabled = true → fnCleared (resetHostInterface s) f)) ∧
    regGet (resetHostInterface s) 0 0x1044 = 0 := by
  rw [resetHostInterface_eq]
  refine ⟨fnCleared_regSet (resetFunction_cleared _ 0), fun f vf => ?_, regGet_regSet_same _ 0 _ (by omega)⟩
  obtain ⟨off, clears⟩ := vfSteps_stand (s := s) (on := fun _ => false) vf
  have other : f ≠ 0 := fun same => vf (congrArg Fin.val same)
  obtain ⟨same, kept⟩ := leavesFn_trans (leavesFn_resetFunction (s := allVfs.foldl (vfStep fun _ => false) s) other) (leavesFn_regSet (q := 0) (o := 0x1044) (v := 0))
  exact ⟨(bareFn_enabled same).trans off, fun was => kept (clears was rfl)⟩

/-! ### In a module with no work -/

theorem noFolds_modFn {b : Bool} (folds : noFolds s) : noFolds (s.modFn g fun f => { f with enabled := b }) := by
  intro f p
  by_cases same : g = f
  · subst same
    rw [State.modFn_same]
    exact folds g p
  · rw [State.modFn_other _ same]
    exact folds f p

theorem disableVf_still (none : Workless s) (folds : noFolds s) : likeButFns s (disableVf s g) ∧ noFolds (disableVf s g) := by
  have like := resetFunction_like (g := g) none folds
  have still := resetFunction_noFolds (g := g) none folds
  unfold disableVf
  generalize resetFunction s g = a at *
  exact ⟨like, noFolds_modFn still⟩

theorem resetHostInterface_like (none : Workless s) (folds : noFolds s) :
    { resetHostInterface s with fns := s.fns, pegs := s.pegs, pool := s.pool, regs := s.regs } = s := by
  have vfs : likeButFns s (allVfs.foldl (vfStep fun _ => false) s) ∧ noFolds (allVfs.foldl (vfStep fun _ => false) s) := by
    refine foldl_keeps (fun u => likeButFns s u ∧ noFolds u) _ (fun u f ⟨like, folds⟩ => ?_) _ _ ⟨likeButFns_refl, folds⟩
    unfold vfStep
    cases on : (u.fnOf f).enabled
    · exact ⟨like, folds⟩
    · obtain ⟨more, folds⟩ := disableVf_still (g := f) (none.of_like like) folds
      exact ⟨likeButFns_trans like more, folds⟩
  obtain ⟨like, folds⟩ := vfs
  have reset := likeButFns_trans like (resetFunction_like (g := 0) (none.of_like like) folds)
  rw [resetHostInterface_eq]
  generalize resetFunction (allVfs.foldl (vfStep fun _ => false) s) 0 = a at *
  exact (congrArg (fun u : State => { u with regs := s.regs }) reset :)

/-! ### When no VF is disabled -/

theorem vfStep_kept (same : (s.fnOf f).enabled = on f) : vfStep on s f = s := by
  unfold vfStep
  rw [same]
  cases on f <;> rfl

theorem vfStep_enable (was : (s.fnOf f).enabled = false) (will : on f = true) : vfStep on s f = s.modFn f fun x => { x with enabled := true } := by
  unfold vfStep
  rw [was, will]
  rfl

theorem enabled_kept {x : FnState} {b : Bool} (same : x.enabled = b) : { x with enabled := b } = x := by
  subst same
  rfl

theorem vfStep_enables (wanted : (s.fnOf f).enabled = true → on f = true) :
    (vfStep on s f).fnOf f = { s.fnOf f with enabled := on f } ∧ (∀ q, q ≠ f → (vfStep on s f).fnOf q = s.fnOf q) ∧ { vfStep on s f with fns := s.fns } = s := by
  cases was : (s.fnOf f).enabled with
  | true =>
    rw [vfStep_kept (was.trans (wanted was).symm)]
    exact ⟨(enabled_kept (was.trans (wanted was).symm)).symm, fun _ _ => rfl, rfl⟩
  | false =>
    cases will : on f with
    | true =>
      rw [vfStep_enable was will]
      exact ⟨State.modFn_same .., fun q other => State.modFn_other s other.symm _, rfl⟩
    | false =>
      rw [vfStep_kept (was.trans will.symm)]
      exact ⟨(enabled_kept was).symm, fun _ _ => rfl, rfl⟩

theorem vfSteps_enable (fs : List Fn) (wanted : ∀ f ∈ fs, (s.fnOf f).enabled = true → on f = true) :
    (∀ f ∈ fs, (fs.foldl (vfStep on) s).fnOf f = { s.fnOf f with enabled := on f }) ∧ (∀ f, f ∉ fs → (fs.foldl (vfStep on) s).fnOf f = s.fnOf f) ∧
      { fs.foldl (vfStep on) s with fns := s.fns } = s := by
  induction fs generalizing s with
  | nil => exact ⟨nofun, fun _ _ => rfl, rfl⟩
  | cons g fs ih =>
    obtain ⟨own, others, frame⟩ := vfStep_enables (wanted g List.mem_cons_self)
    rw [List.foldl_cons]
    generalize vfStep on s g = u at *
    have here : ∀ f, { u.fnOf f with enabled := on f } = { s.fnOf f with enabled := on f } := by
      intro f
      by_cases same : f = g
      · subst same
        rw [own]
      · rw [others f same]
    obtain ⟨inside, outside, rest⟩ := ih (s := u) fun f mem was => by
      by_cases same : f = g
      · subst same
        rw [own] at was
        exact was
      · rw [others f same] at was
        exact wanted f (List.mem_cons_of_mem _ mem) was
    refine ⟨fun f mem => ?_, fun f apart => ?_, ?_⟩
    · by_cases later : f ∈ fs
      · exact (inside f later).trans (here f)
      · obtain rfl := (List.mem_cons.mp mem).resolve_right later
        exact (outside f later).trans own
    · obtain ⟨other, apart⟩ := not_or.mp (List.mem_cons.not.mp apart)
      exact (outside f apart).trans (others f other)
    · calc { fs.foldl (vfStep on) u with fns := s.fns }
        _ = { { fs.foldl (vfStep on) u with fns := u.fns } with fns := s.fns } := rfl
        _ = { u with fns := s.fns } := by rw [rest]
        _ = s := frame

/-! ### The commands -/

/-- The VFs that a write of the enables leaves enabled. -/
def vfWanted (s : State) (m : Half) (f : Fn) : Bool := bitAt m.toNat f.val && decide (f.val ≤ s.sec.blob.vfs)

theorem exec_vfEnable {m : Half} (stage : 2 ≤ s.boot.stage) : ∃ v, exec (.vfEnable m) s = .next (regSet (allVfs.foldl (vfStep (vfWanted s m)) s) 0 0x1044 v) := by
  refine ⟨sumNat (allVfs.map fun f => b2n (vfWanted s m f) * 2 ^ f.val), ?_⟩
  change Host.Outcome.next (if s.boot.stage < 2 then s else writeVfEnable s m.toNat) = _
  rw [if_neg (by omega)]
  rfl

theorem vfEnable_enables {m : Half} (stage : 2 ≤ s.boot.stage) (wanted : ∀ f : Fn, f.val ≠ 0 → (s.fnOf f).enabled = true → bitAt m.toNat f.val = true ∧ f.val ≤ s.sec.blob.vfs) :
    ∃ t, exec (.vfEnable m) s = .next t ∧ (∀ f : Fn, f.val ≠ 0 → t.fnOf f = { s.fnOf f with enabled := vfWanted s m f }) ∧ t.fnOf 0 = s.fnOf 0 ∧
      { t with fns := s.fns, regs := s.regs } = s := by
  obtain ⟨v, ran⟩ := exec_vfEnable (m := m) stage
  obtain ⟨inside, outside, frame⟩ := vfSteps_enable (on := vfWanted s m) (s := s) allVfs fun f mem was => by
    obtain ⟨asked, within⟩ := wanted f (bne_iff_ne.mp (List.mem_filter.mp mem).2) was
    unfold vfWanted
    rw [asked, decide_eq_true within]
    rfl
  generalize allVfs.foldl (vfStep (vfWanted s m)) s = u at *
  exact ⟨_, ran, fun f vf => inside f (mem_allVfs vf), outside 0 zero_notMem_allVfs, (congrArg (fun u : State => { u with regs := s.regs }) frame :)⟩

theorem vfEnable_stands {m : Half} (stage : 2 ≤ s.boot.stage) : ∃ t, exec (.vfEnable m) s = .next t ∧
    (∀ f : Fn, f.val ≠ 0 → (t.fnOf f).enabled = vfWanted s m f ∧ ((s.fnOf f).enabled = true → (t.fnOf f).enabled = false → fnCleared t f)) := by
  obtain ⟨v, ran⟩ := exec_vfEnable (m := m) stage
  refine ⟨_, ran, fun f vf => ?_⟩
  obtain ⟨stands, clears⟩ := vfSteps_stand (s := s) (on := vfWanted s m) vf
  generalize allVfs.foldl (vfStep (vfWanted s m)) s = u at *
  exact ⟨stands, fun was off => clears was (stands.symm.trans off)⟩

theorem exec_functionLevelReset (vf : g.val ≠ 0) (enabled : (s.fnOf g).enabled = true) : exec (.functionLevelReset g) s = .next (resetFunction s g) := by
  change Host.Outcome.next (if g.val = 0 then resetHostInterface s else if (s.fnOf g).enabled then resetFunction s g else s) = _
  rw [if_neg vf, if_pos enabled]

theorem functionLevelReset_clears (enabled : (s.fnOf g).enabled = true) : fnCleared (resetFunction s g) g ∧ ((resetFunction s g).fnOf g).enabled = true ∧
    ∀ f, f ≠ g → ((resetFunction s g).fnOf f).enabled = (s.fnOf f).enabled ∧ ((resetFunction s g).fnOf f).recEnable = (s.fnOf f).recEnable ∧
      ∀ p : Fin 8, (((resetFunction s g).fnOf f).rings[p.val]).enable = ((s.fnOf f).rings[p.val]).enable := by
  refine ⟨resetFunction_cleared s g, (resetFunction_enabled s g).trans enabled, fun f other => ?_⟩
  have same := (leavesFn_resetFunction (s := s) other).1
  exact ⟨bareFn_enabled same, bareFn_recEnable same, bareFn_ringEnable same⟩

theorem leavesFn_logHealth {e : HealthEntry} : bareFn ((logHealth s e).fnOf f) = bareFn (s.fnOf f) :=
  bare_fnOf (works_bare (fun _ _ no => no.elim) (works_logHealth (E := fun _ _ => False) (works_refl s))) f

theorem resetFunction_seq (s : State) (g : Fn) : s.health.seq ≤ (resetFunction s g).health.seq := resets_seq (resets_resetFunction (g := g) (works_refl s))

theorem disableVf_seq (s : State) (g : Fn) : s.health.seq ≤ (disableVf s g).health.seq := by
  have low := resetFunction_seq s g
  unfold disableVf
  generalize resetFunction s g = a at *
  exact low

theorem vfStep_seq (s : State) (f : Fn) : s.health.seq ≤ (vfStep on s f).health.seq := by
  unfold vfStep
  split
  · exact disableVf_seq s f
  · split <;> exact le_rfl

theorem resetHostInterface_seq (s : State) : s.health.seq ≤ (resetHostInterface s).health.seq := by
  have vfs := foldl_keeps (fun u : State => s.health.seq ≤ u.health.seq) (vfStep fun _ => false) (fun u f low => Nat.le_trans low (vfStep_seq u f)) allVfs s
    (Nat.le_refl _)
  have own := Nat.le_trans vfs (resetFunction_seq _ 0)
  rw [resetHostInterface_eq]
  generalize resetFunction (allVfs.foldl (vfStep fun _ => false) s) 0 = a at *
  exact own

theorem hostInterfaceReset_clears (b : Bool) : ∃ t, exec (.hostInterfaceReset b) s = .next t ∧ fnCleared t 0 ∧
    (∀ f : Fn, f.val ≠ 0 → (t.fnOf f).enabled = false ∧ ((s.fnOf f).enabled = true → fnCleared t f)) ∧ regGet t 0 0x1044 = 0 ∧
    (b = true → s.health.seq < t.health.seq) := by
  cases b with
  | false =>
    obtain ⟨own, vfs, reg⟩ := resetHostInterface_clears s
    exact ⟨resetHostInterface s, rfl, own, vfs, reg, nofun⟩
  | true =>
    obtain ⟨own, vfs, reg⟩ := resetHostInterface_clears (logHealth s (HealthEntry.of 15 0))
    refine ⟨resetHostInterface (logHealth s (HealthEntry.of 15 0)), rfl, own, fun f vf => ⟨(vfs f vf).1, fun was => (vfs f vf).2 ?_⟩, reg, fun _ => ?_⟩
    · rw [bareFn_enabled leavesFn_logHealth, was]
    · exact lt_of_lt_of_le (by rw [logHealth_seq]; omega) (resetHostInterface_seq _)

end

end Sys2Proof.Machine

open Sys2Proof Sys2Proof.Machine

/-- Settles O16: the reset of a function ends its pairs and zeroes its pegs, all else it does is the module's work, which leaves every other function, and what
is cleared, as it was. -/
theorem functionResets : Obligations.FunctionResets := by
  refine ⟨fun s m => vfEnable_enables, fun s m => vfEnable_stands, fun s => ⟨fun fn vf enabled => ?_, hostInterfaceReset_clears, ?_⟩,
    fun s jobs plans loads banks folds posts low room => ?_⟩
  · exact ⟨_, exec_functionLevelReset vf enabled, functionLevelReset_clears enabled⟩
  · exact ⟨resetHostInterface s, rfl, rfl, (resetHostInterface_clears s).1⟩
  · have none : Workless s := ⟨jobs, plans, loads, banks, posts, low, room⟩
    obtain ⟨own, vfs, reg⟩ := resetHostInterface_clears s
    refine ⟨fun fn vf enabled => ?_, resetHostInterface s, rfl, rfl, own, vfs, reg, resetHostInterface_like none folds⟩
    obtain ⟨clears, stays, -⟩ := functionLevelReset_clears enabled
    exact ⟨_, exec_functionLevelReset vf enabled, clears, stays, fun f => resetFunction_fnOf none folds, resetFunction_like none folds⟩

end

section
/-! PROOF. Copying record posts to the host (R317, R318, R333 to R336). -/

namespace Sys2Proof.Machine

open Sys2Proof

/-! ### What the module's work leaves of posts, outputs and health entries -/

section
variable {E : State → State → Prop} {s t : State}

theorem work_out (extra : ∀ s t, E s t → ∀ o ∈ s.out, o ∈ t.out) (h : Work E s t) : ∀ o ∈ s.out, o ∈ t.out := by
  cases h with
  | aside _ _ _ _ _ _ _ _ _ _ told => exact told
  | hold k => cases k <;> exact fun _ => id
  | piece k => cases k <;> exact fun _ => id
  | extra more => exact extra _ _ more
  | health | books | jobs | unlist | vector | ring | waited | fold | basket | tile | olds | tailor => exact fun _ => id

theorem works_out (extra : ∀ s t, E s t → ∀ o ∈ s.out, o ∈ t.out) (h : Works E s t) : ∀ o ∈ s.out, o ∈ t.out :=
  works_keep (P := fun u => ∀ o ∈ s.out, o ∈ u.out) (fun _ _ w k o mem => work_out extra w o (k o mem)) h fun _ => id

theorem work_posts (extra : ∀ s t, E s t → t.basket.committed = s.basket.committed) (h : Work E s t) : ∃ x, t.basket.committed = s.basket.committed ++ x := by
  cases h with
  | basket _ more => exact ⟨more, rfl⟩
  | hold k => cases k <;> exact ⟨[], (List.append_nil _).symm⟩
  | piece k => cases k <;> exact ⟨[], (List.append_nil _).symm⟩
  | extra more => exact ⟨[], (extra _ _ more).trans (List.append_nil _).symm⟩
  | aside | health | books | jobs | unlist | vector | ring | waited | fold | tile | olds | tailor => exact ⟨[], (List.append_nil _).symm⟩

/-- The committed posts stay; more may join them. -/
theorem works_posts (extra : ∀ s t, E s t → t.basket.committed = s.basket.committed) (h : Works E s t) : ∃ x, t.basket.committed = s.basket.committed ++ x :=
  works_keep (P := fun u => ∃ x, u.basket.committed = s.basket.committed ++ x) (fun _ _ w ⟨x, eq⟩ => by
    obtain ⟨y, more⟩ := work_posts extra w
    exact ⟨x ++ y, by rw [more, eq, List.append_assoc]⟩) h ⟨[], (List.append_nil _).symm⟩

end

/-! ### The copy's own changes -/

/-- What a copied post brings beside the module's work: changes of pairs, and changes that leave functions, posts, outputs and health entries. -/
inductive Copied (s : State) : State → Prop
  | apart {t : State} (fns : t.fns = s.fns) (posts : t.basket.committed = s.basket.committed) (out : t.out = s.out) (seq : t.health.seq = s.health.seq) : Copied s t
  | pair (r : RingRef) (g : RingPair → RingPair) : Copied s (s.modRing r g)

abbrev Copies : State → State → Prop := Works Copied

section
variable {s₀ s t : State}

theorem copies_apart (h : Copies s₀ s) (fns : t.fns = s.fns) (posts : t.basket.committed = s.basket.committed) (out : t.out = s.out)
    (seq : t.health.seq = s.health.seq) : Copies s₀ t := h.tail (.extra (.apart fns posts out seq))

theorem copies_serveImages (h : Copies s₀ s) : Copies s₀ (serveImages s) :=
  works_serveImages (fun _ _ ⟨_, _, eq⟩ => .apart (by rw [eq]; rfl) (by rw [eq]; rfl) (by rw [eq]; rfl) (by rw [eq]; rfl)) h

theorem works_judgeCapture {E : State → State → Prop} (h : Works E s₀ s) : Works E s₀ (judgeCapture s) := by
  have set : ∀ b, Works E s₀ ((firstLightTracks s).foldl (fun s t => s.modTrack t fun x => { x with hold := { x.hold with basket := b }, held := x.held || b }) s) :=
    fun b => works_foldl h fun _ _ h => h.tail (.hold _ _ fun _ => rfl)
  exact works_ite h (works_ite (set true) (works_ite (set false) h))

theorem works_setBuilding {E : State → State → Prop} {k n} (h : Works E s₀ s) : Works E s₀ (setBuilding s k n) := works_basketMarks (works_basketKept h)

theorem copies_reportPost {j st x p} (h : Copies s₀ s) : Copies s₀ (reportPost s j st x p) :=
  works_ite (works_removeJob (works_reportJob (works_setBuilding h))) (copies_apart h rfl rfl rfl rfl)

theorem copies_retryPosts (h : Copies s₀ s) : Copies s₀ (retryPosts s) := by
  refine works_foldl h fun u j h => ?_
  split
  · split <;> exact copies_reportPost h
  · exact h

theorem copies_basketFreed (h : Copies s₀ s) : Copies s₀ (basketFreed s) := copies_serveImages (copies_retryPosts (works_judgeCapture (works_basketMarks h)))

theorem works_foldCompls {E : State → State → Prop} {r f st g x} (h : Works E s₀ s) : Works E s₀ (foldCompls s r f st g x) := by
  unfold foldCompls
  dsimp only
  split
  · exact works_postCompl (works_foldl (works_postCompl h) fun _ _ => works_postCompl)
  · exact works_foldl (works_postCompl h) fun _ _ => works_postCompl

theorem copies_dropFold {r n} (h : Copies s₀ s) : Copies s₀ (dropFold s r n) :=
  (h.tail (.extra (.pair r (without n)))).tail (.aside _ _ _ _ _ _ _ _ _ _ fun _ kept => kept)

theorem copies_finishFold {r n} (h : Copies s₀ s) : Copies s₀ (finishFold s r n) := by
  unfold finishFold
  split
  · exact works_when (fun h => copies_dropFold (works_foldCompls h)) h
  · exact h

/-- The post's own completion, where it brings one. -/
def postAnswered (s : State) (p : Post) (off len : Nat) (bad : Bool) : State := match p.done with
  | some (r, c) => postCompl s r { c with status := if bad then .dramUncorrectable else c.status, detail := postDetail c.opcode off len c.detail }
  | none => s

theorem copies_postAnswered {p a b c} (h : Copies s₀ s) : Copies s₀ (postAnswered s p a b c) := by
  unfold postAnswered
  split
  · exact works_postCompl h
  · exact h

theorem reportPostCopy_eq (s : State) (p : Post) (a b : Nat) (c : Bool) : reportPostCopy s p a b c = match p.fold with
    | some (r, id, idx) => finishFold (memberPost r id idx a b c (postAnswered s p a b c)) r id
    | none => postAnswered s p a b c := rfl

theorem copies_reportPostCopy {p a b c} (h : Copies s₀ s) : Copies s₀ (reportPostCopy s p a b c) := by
  have answered := copies_postAnswered (p := p) (a := a) (b := b) (c := c) h
  rw [reportPostCopy_eq]
  split
  · exact copies_finishFold (answered.tail (.fold _ _ _ fun _ => rfl))
  · exact answered

/-! ### The facts about a copy -/

theorem copied_out (h : Copies s t) : ∀ o ∈ s.out, o ∈ t.out :=
  works_out (fun u v more => by
    cases more with
    | apart _ _ out => exact fun o mem => out ▸ mem
    | pair => exact fun _ => id) h

theorem copied_posts (h : Copies s t) : ∃ x, t.basket.committed = s.basket.committed ++ x :=
  works_posts (fun u v more => by
    cases more with
    | apart _ posts => exact posts
    | pair => rfl) h

theorem copied_recTail (f : Fn) (h : Copies s t) : (t.fnOf f).recTail = (s.fnOf f).recTail := by
  refine works_same (f := fun u : State => (u.fnOf f).recTail) (fun u v w => ?_) h
  rcases work_cases w with plain | more
  · exact (congrArg FnState.recTail (bare_fnOf (work_bare_plain plain) f) :)
  · cases more with
    | apart fns => rw [fnOf_of_fns fns]
    | pair r g =>
      unfold State.modRing
      by_cases same : r.fn = f
      · rw [same, State.modFn_same]
      · rw [State.modFn_other u same]

theorem copied_seq (h : Copies s t) : s.health.seq ≤ t.health.seq :=
  works_seq (fun u v more => by
    cases more with
    | apart _ _ _ seq => exact seq.ge
    | pair => exact le_rfl) h

/-! ### The bytes of a post in its ring -/

/-- The bytes of the post are in the record ring, and its tail has moved. -/
def postCopied (s : State) (fn : Fn) (p : Post) : State :=
  let b := postBytes p
  let at0 := (s.fnOf fn).recTail.toNat % recSize s fn.val
  let fit := min b.length (recSize s fn.val - at0)
  let s := s.hostWrite fn (recBase s fn.val + at0) (b.take fit)
  let s := if fit < b.length then s.hostWrite fn (recBase s fn.val) (b.drop fit) else s
  let s := s.modFn fn fun f => { f with recTail := f.recTail + BitVec.ofNat 64 b.length }
  s.hostWrite fn (recTailAddr s fn.val) (leBytes 8 (s.fnOf fn).recTail.toNat)

theorem copyPost_eq (s : State) (fn : Fn) (p : Post) : copyPost s fn p =
    let t := reportPostCopy (dropPost (postCopied s fn p) p) p (s.fnOf fn).recTail.toNat (postBytes p).length false
    if recIrq t fn.val then t.raiseVec fn (recVector t fn.val) else t := rfl

section
variable (fn : Fn) (p : Post)

theorem postCopied_frame : { postCopied s fn p with fns := s.fns, out := s.out, cnt := s.cnt } = s := by
  unfold postCopied
  dsimp only
  split <;> rfl

theorem postCopied_recTail : ((postCopied s fn p).fnOf fn).recTail = (s.fnOf fn).recTail + BitVec.ofNat 64 (postBytes p).length := by
  have moved : ∀ u : State, u.fns = s.fns → ((u.modFn fn fun f => { f with recTail := f.recTail + BitVec.ofNat 64 (postBytes p).length }).fnOf fn).recTail =
      (s.fnOf fn).recTail + BitVec.ofNat 64 (postBytes p).length := by
    intro u same
    rw [State.modFn_same, fnOf_of_fns same]
  refine moved _ ?_
  split <;> rfl

theorem postCopied_other {f : Fn} (other : f ≠ fn) : (postCopied s fn p).fnOf f = s.fnOf f := by
  have kept : ∀ u : State, u.fns = s.fns → (u.modFn fn fun f => { f with recTail := f.recTail + BitVec.ofNat 64 (postBytes p).length }).fnOf f = s.fnOf f := by
    intro u same
    rw [State.modFn_other u other.symm, fnOf_of_fns same]
  refine kept _ ?_
  split <;> rfl

theorem postCopied_out : Output.hostWrite fn (recBase s fn.val + (s.fnOf fn).recTail.toNat % recSize s fn.val)
    ((postBytes p).take (min (postBytes p).length (recSize s fn.val - (s.fnOf fn).recTail.toNat % recSize s fn.val))) ∈ (postCopied s fn p).out := by
  unfold postCopied
  dsimp only
  refine List.mem_append_left _ ?_
  split
  · exact List.mem_append_left _ (List.mem_append_right _ List.mem_cons_self)
  · exact List.mem_append_right _ List.mem_cons_self

end

theorem copies_copyPost (s : State) (fn : Fn) (p : Post) : Copies (dropPost (postCopied s fn p) p) (copyPost s fn p) := by
  have reported := copies_reportPostCopy (p := p) (a := (s.fnOf fn).recTail.toNat) (b := (postBytes p).length) (c := false) (works_refl (dropPost (postCopied s fn p) p))
  rw [copyPost_eq]
  generalize reportPostCopy (dropPost (postCopied s fn p) p) p (s.fnOf fn).recTail.toNat (postBytes p).length false = t at *
  exact works_when works_raiseVec reported

/-! ### The command -/

section
variable {fn : Fn} {p : Post} {b : Bool}

theorem exec_recordCopy (next : nextPost s fn = some p) : exec (.recordCopy fn b) s = .next
    (if !(s.fnOf fn).recEnable || !(s.fnOf fn).enabled then s else if b then basketFreed (loseBadPost s p)
     else if postLen p ≤ recFree s fn then basketFreed (copyPost s fn p) else s) := by
  change execRecordCopy fn b s = _
  unfold execRecordCopy
  rw [next]
  simp only [apply_ite Host.Outcome.next]

theorem copy_copies (s : State) (fn : Fn) (p : Post) : Copies (dropPost (postCopied s fn p) p) (basketFreed (copyPost s fn p)) :=
  copies_basketFreed (copies_copyPost s fn p)

/-- The copied post leaves the basket, and its bytes stand in the ring. -/
theorem copy_shows (s : State) (fn : Fn) (p : Post) :
    let t := basketFreed (copyPost s fn p)
    (∃ x, t.basket.committed = s.basket.committed.erase p ++ x) ∧ (t.fnOf fn).recTail = (s.fnOf fn).recTail + BitVec.ofNat 64 (postBytes p).length ∧
    Output.hostWrite fn (recBase s fn.val + (s.fnOf fn).recTail.toNat % recSize s fn.val)
      ((postBytes p).take (min (postBytes p).length (recSize s fn.val - (s.fnOf fn).recTail.toNat % recSize s fn.val))) ∈ t.out ∧
    ∀ f, f ≠ fn → (t.fnOf f).recTail = (s.fnOf f).recTail := by
  have copies := copy_copies s fn p
  have posts : (postCopied s fn p).basket.committed = s.basket.committed := (congrArg (fun u : State => u.basket.committed) (postCopied_frame (s := s) fn p) :)
  refine ⟨?_, (copied_recTail fn copies).trans (postCopied_recTail fn p), copied_out copies _ (postCopied_out fn p), fun f other => ?_⟩
  · obtain ⟨x, more⟩ := copied_posts copies
    exact ⟨x, by rw [more, ← posts]; rfl⟩
  · exact (copied_recTail f copies).trans (congrArg FnState.recTail (postCopied_other fn p other))

theorem nextPost_mem (next : nextPost s fn = some p) : p ∈ s.basket.committed := List.mem_of_find?_eq_some next

/-- The health entry of a post that could not be read. -/
def postLost (p : Post) : HealthEntry :=
  { HealthEntry.of 14 (if p.feed then p.piece else 0xFFFFFFFF) with status := some .dramUncorrectable, fn := some p.fn.val }

/-- A lost post leaves the basket, and is logged. -/
theorem lose_shows (s : State) (fn : Fn) (p : Post) :
    let t := basketFreed (loseBadPost s p)
    (∃ x, t.basket.committed = s.basket.committed.erase p ++ x) ∧ s.health.seq < t.health.seq ∧ (t.fnOf fn).recTail = (s.fnOf fn).recTail := by
  have copies : Copies (dropPost (logHealth s (postLost p)) p) (basketFreed (loseBadPost s p)) := copies_basketFreed (copies_reportPostCopy (works_refl _))
  refine ⟨?_, lt_of_lt_of_le ?_ (copied_seq copies), (copied_recTail fn copies).trans ?_⟩
  · obtain ⟨x, more⟩ := copied_posts copies
    exact ⟨x, more.trans (by unfold dropPost; rw [logHealth_basket])⟩
  · unfold dropPost
    rw [logHealth_seq]
    omega
  · exact (congrArg FnState.recTail leavesFn_logHealth :)

end

/-! ### With no job waiting -/

/-- The two states differ in nothing but the basket, the functions, the outputs, the counters and the tracks. -/
def likeButBasket (s t : State) : Prop :=
  { t with basket := s.basket, fns := s.fns, out := s.out, cnt := s.cnt, trackA := s.trackA, trackB := s.trackB } = s

theorem likeButBasket_trans {u : State} (h : likeButBasket s t) (k : likeButBasket t u) : likeButBasket s u :=
  (congrArg (fun v : State => { v with basket := s.basket, fns := s.fns, out := s.out, cnt := s.cnt, trackA := s.trackA, trackB := s.trackB }) k :).trans h

theorem likeButBasket_modTrack (s : State) (k : Track) (g : TrackState → TrackState) : likeButBasket s (s.modTrack k g) := by cases k <;> rfl

/-- A change of the marks: the posts and the functions stay. -/
def marksOnly (s t : State) : Prop := likeButBasket s t ∧ t.basket.committed = s.basket.committed ∧ t.fns = s.fns

theorem marksOnly_trans {u : State} (h : marksOnly s t) (k : marksOnly t u) : marksOnly s u :=
  ⟨likeButBasket_trans h.1 k.1, k.2.1.trans h.2.1, k.2.2.trans h.2.2⟩

theorem marksOnly_modTrack (k : Track) (g : TrackState → TrackState) (h : marksOnly s t) : marksOnly s (t.modTrack k g) :=
  marksOnly_trans h ⟨likeButBasket_modTrack t k g, by cases k <;> rfl, State.modTrack_fns ..⟩

theorem marksOnly_setBasketCause (b : Bool) (h : marksOnly s t) : marksOnly s (setBasketCause t b) :=
  foldl_keeps (marksOnly s) _ (fun u k h => by
    split
    · exact h
    · exact marksOnly_modTrack k _ h) _ _ h

theorem marksOnly_basketMarks : marksOnly s (basketMarks s) := by
  unfold basketMarks
  dsimp only
  split
  · exact marksOnly_setBasketCause true ⟨rfl, rfl, rfl⟩
  · split
    · exact marksOnly_setBasketCause false ⟨rfl, rfl, rfl⟩
    · exact ⟨rfl, rfl, rfl⟩

theorem marksOnly_judgeCapture : marksOnly s (judgeCapture s) := by
  have set : ∀ b, marksOnly s ((firstLightTracks s).foldl (fun s t => s.modTrack t fun x => { x with hold := { x.hold with basket := b }, held := x.held || b }) s) :=
    fun b => foldl_keeps (marksOnly s) _ (fun u k h => marksOnly_modTrack k _ h) _ _ ⟨rfl, rfl, rfl⟩
  unfold judgeCapture
  dsimp only
  split
  · exact ⟨rfl, rfl, rfl⟩
  · split
    · exact set true
    · split
      · exact set false
      · exact ⟨rfl, rfl, rfl⟩

theorem basketFreed_idle (idle : s.sched.jobs = []) : marksOnly s (basketFreed s) := by
  have marks : marksOnly s (judgeCapture (basketMarks s)) := marksOnly_trans marksOnly_basketMarks marksOnly_judgeCapture
  have jobs : (judgeCapture (basketMarks s)).sched.jobs = [] := (congrArg (fun u : State => u.sched.jobs) marks.1 :).trans idle
  unfold basketFreed
  generalize judgeCapture (basketMarks s) = u at *
  have none : retryPosts u = u := by
    unfold retryPosts
    rw [jobs]
    rfl
  rw [none, serveImages_idle u jobs]
  exact marks

theorem likeButBasket_raiseVec (s : State) (f : Fn) (v : Nat) : likeButBasket s (s.raiseVec f v) := by
  unfold State.raiseVec
  split <;> rfl

theorem raiseVec_fnOf (s : State) {f q : Fn} (v : Nat) (other : q ≠ f) : (s.raiseVec f v).fnOf q = s.fnOf q := by
  unfold State.raiseVec
  split
  · exact State.modFn_other s other.symm _
  · rfl

theorem raiseVec_basket (s : State) (f : Fn) (v : Nat) : (s.raiseVec f v).basket = s.basket := by
  unfold State.raiseVec
  split <;> rfl

theorem raiseVec_recTail (s : State) (f : Fn) (v : Nat) : ((s.raiseVec f v).fnOf f).recTail = (s.fnOf f).recTail := by
  unfold State.raiseVec
  split
  · rw [State.modFn_same]
  · rfl

/-- A post that brings no completion and no fold leaves nothing but its bytes. -/
theorem copyPost_plain {fn : Fn} {p : Post} (alone : p.done = none) (free : p.fold = none) :
    likeButBasket s (copyPost s fn p) ∧ (copyPost s fn p).basket.committed = s.basket.committed.erase p ∧
    ((copyPost s fn p).fnOf fn).recTail = (s.fnOf fn).recTail + BitVec.ofNat 64 (postBytes p).length ∧ ∀ f, f ≠ fn → (copyPost s fn p).fnOf f = s.fnOf f := by
  have quiet : ∀ u a b c, reportPostCopy u p a b c = u := by
    intro u a b c
    rw [reportPostCopy_eq, free]
    unfold postAnswered
    rw [alone]
  have frame := postCopied_frame (s := s) fn p
  have tail := postCopied_recTail (s := s) fn p
  have others := fun f => postCopied_other (s := s) fn p (f := f)
  rw [copyPost_eq, quiet]
  generalize postCopied s fn p = v at *
  have posts : v.basket.committed = s.basket.committed := (congrArg (fun u : State => u.basket.committed) frame :)
  have like : likeButBasket s (dropPost v p) :=
    (congrArg (fun u : State => { u with basket := s.basket, trackA := s.trackA, trackB := s.trackB }) frame :)
  have left : (dropPost v p).basket.committed = s.basket.committed.erase p := by
    unfold dropPost
    rw [posts]
  dsimp only
  split
  · exact ⟨likeButBasket_trans like (likeButBasket_raiseVec _ _ _), (congrArg Basket.committed (raiseVec_basket ..)).trans left, (raiseVec_recTail ..).trans tail,
      fun f other => (raiseVec_fnOf _ _ other).trans (others f other)⟩
  · exact ⟨like, left, tail, others⟩

end

end Sys2Proof.Machine

open Sys2Proof Sys2Proof.Machine

/-- Settles O28: the copy's own bytes, and what the module's work leaves of posts, outputs and tails. -/
theorem recordCopy : Obligations.RecordCopy := by
  intro s fn p next enabled
  refine ⟨fun off b => ?_, fun on full => ?_, fun on fits => ⟨_, ?_, copy_shows s fn p⟩, fun on => ⟨_, ?_, lose_shows s fn p⟩, fun on fits idle alone free => ?_⟩
  · rw [exec_recordCopy next, off]
    rfl
  · rw [exec_recordCopy next, on, enabled, if_neg (by nofun), if_neg (by nofun), if_neg (by omega)]
  · rw [exec_recordCopy next, on, enabled, if_neg (by nofun), if_neg (by nofun), if_pos fits]
  · rw [exec_recordCopy next, on, enabled, if_neg (by nofun), if_pos rfl]
  · refine ⟨basketFreed (copyPost s fn p), by rw [exec_recordCopy next, on, enabled, if_neg (by nofun), if_neg (by nofun), if_pos fits], ?_⟩
    obtain ⟨like, posts, tail, others⟩ := copyPost_plain (s := s) (fn := fn) alone free
    obtain ⟨marks, kept, fns⟩ := basketFreed_idle (s := copyPost s fn p) ((congrArg (fun u : State => u.sched.jobs) like :).trans idle)
    refine ⟨kept.trans posts, ?_, fun f other => (fnOf_of_fns fns f).trans (others f other), likeButBasket_trans like marks⟩
    rw [fnOf_of_fns fns, tail]

end

section
/-! PROOF. What the failure of tiles and regions can change of the regions and of the health log (R107, R418, R419, R421). -/

namespace Sys2Proof.Machine

open Sys2Proof

/-! ### The further changes of a failure -/

/-- The further changes that failures make: of tiles, of spares, of regions that drain, of those in `G`, which may be lost, and of what is no region's. -/
inductive Upset (G : Region → Prop) (s : State) : State → Prop
  | apart {t : State} (regions : t.regions = s.regions) (health : t.health = s.health) : Upset G s t
  | tile (n : Nat) (f : TileSt → TileSt) : Upset G s (s.modTile n f)
  | drained (g : Region) (draining : (s.reg8 g).state = 1) : Upset G s (s.modRegion g fun x => { x with state := 2 })
  | spared (g : Region) (n : Nat) (fewer : n ≤ (s.reg8 g).spares) : Upset G s (s.modRegion g fun x => { x with spares := n })
  | lost (g : Region) (may : G g) : Upset G s (s.modRegion g fun x => { x with failed := true, state := 2, test3 := false })
  | alert : Upset G s { s with health := { s.health with alert := true } }

abbrev Upsets (G : Region → Prop) : State → State → Prop := Works (Upset G)

section
variable {G : Region → Prop} {s₀ s t : State}

theorem upset_outer (s t : State) (h : Outer s t) : Upset G s t := by
  cases h with
  | apart same => exact .apart (congrArg State.regions same :) (congrArg State.health same :)
  | tile n f => exact .tile n f

theorem upset_drained (s t : State) (h : Drained s t) : Upset G s t := by
  obtain ⟨g, draining⟩ := h
  exact .drained g draining

theorem upset_granted (s t : State) (h : Granted s t) : Upset G s t := by
  obtain ⟨_, _, rfl⟩ := h
  exact .apart rfl rfl

/-! ### Tiles that fail -/

theorem works_readScratch {E : State → State → Prop} {f n} (h : Works E s₀ s) : Works E s₀ (readScratch s f n) :=
  works_logWords (works_foldl h fun _ _ => works_readWord)

theorem upsets_forceDisarm {k} (h : Upsets G s₀ s) : Upsets G s₀ (forceDisarm s k) := works_forceDisarm upset_outer upset_drained h

theorem upsets_moveOffTile {n} (h : Upsets G s₀ s) : Upsets G s₀ (moveOffTile s n) := by
  unfold moveOffTile
  split
  · exact h
  · split
    next moved => exact works_moveReservation upset_outer h moved
    · exact upsets_forceDisarm h

/-- A tile without a spare is gone. -/
def tileGone (s : State) (t : Nat) : State :=
  let s := s.modTile t fun x => { x with gone := true, failed := false, strikes := [] }
  let s := logHealth s { HealthEntry.of 9 0 with tile := some t, region := some (t / 32) }
  match (s.tile t).job with
  | some j => modJob s j fun x => { x with victim := true }
  | none => s

/-- A spare takes the place of a tile. -/
def tileSpared (s : State) (t : Nat) (fn : Option Nat) (n : Nat) : State :=
  let s := readScratch s fn t
  let s := { s with store := spareStore s t (movedRows s t) }
  let s := s.modTile t fun x => { x with failed := false, onSpare := true, strikes := [], reload := true, lintUnits := 0, sweepAt := s.now, overdue := false }
  let s := s.modRegion (Fin.ofNat 8 (t / 32)) fun x => { x with spares := n - 1 }
  logHealth s { HealthEntry.of 8 (n - 1) with tile := some t, region := some (t / 32) }

theorem substitute_eq (s : State) (t : Nat) : substitute s t =
    let n := (s.reg8 (Fin.ofNat 8 (t / 32))).spares
    if n = 0 then relowerAll (moveOffTile (tileGone s t) t)
    else
      let hold := (tileHolder s t).map (·.1)
      match hold.filter fun _ => scratchBad s t with
      | some j => failJob (tileSpared s t (hold.map fun j => j.fn.val) n) j .tsUncorrectable []
      | none => tileSpared s t (hold.map fun j => j.fn.val) n := rfl

theorem upsets_tileGone {n} (h : Upsets G s₀ s) : Upsets G s₀ (tileGone s n) := by
  have gone := works_logHealth (e := { HealthEntry.of 9 0 with tile := some n, region := some (n / 32) })
    (works_anyTile upset_outer (n := n) (f := fun x => { x with gone := true, failed := false, strikes := [] }) h)
  unfold tileGone
  dsimp only
  split
  · exact works_modJob (fun _ => ⟨rfl, rfl, rfl, rfl, id⟩) (fun _ => id) gone
  · exact gone

theorem coreRegion_spares {x y : RegionSt} (same : coreRegion x = coreRegion y) : x.spares = y.spares := (congrArg RegionSt.spares same :)

theorem upsets_spare {g : Region} {n} (h : Upsets G s₀ s) (fewer : n ≤ (s.reg8 g).spares) : Upsets G s₀ (s.modRegion g fun x => { x with spares := n }) :=
  h.tail (.extra (.spared g n fewer))

theorem spares_modTile (s : State) (n : Nat) (f : TileSt → TileSt) (g : Region) : ((s.modTile n f).reg8 g).spares = (s.reg8 g).spares :=
  coreRegion_spares (coreRegion_modTile s n f g)

theorem readScratch_core (s : State) (fn : Option Nat) (n : Nat) (g : Region) : coreRegion ((readScratch s fn n).reg8 g) = coreRegion (s.reg8 g) :=
  bare_core (works_bare (fun _ _ no => no.elim) (works_readScratch (E := fun _ _ => False) (works_refl s))) g

theorem upsets_tileSpared {n fn} (h : Upsets G s₀ s) : Upsets G s₀ (tileSpared s n fn (s.reg8 (Fin.ofNat 8 (n / 32))).spares) := by
  refine works_logHealth (upsets_spare (works_anyTile upset_outer (works_store (works_readScratch h))) ?_)
  rw [spares_modTile]
  exact Nat.le_trans (Nat.pred_le _) (Nat.le_of_eq (coreRegion_spares (readScratch_core s fn n _)).symm)

theorem upsets_substitute {n} (h : Upsets G s₀ s) : Upsets G s₀ (substitute s n) := by
  rw [substitute_eq]
  dsimp only
  split
  · exact works_relowerAll upset_outer (upsets_moveOffTile (upsets_tileGone h))
  · split
    · exact works_failJob (upsets_tileSpared h)
    · exact upsets_tileSpared h

theorem upsets_failTile {n} (h : Upsets G s₀ s) : Upsets G s₀ (failTile s n) :=
  works_ite h (works_unless upsets_substitute (works_anyTile upset_outer h))

theorem upsets_strike {n} (h : Upsets G s₀ s) : Upsets G s₀ (strike s n) := works_when upsets_failTile (works_anyTile upset_outer (works_countN h))

theorem upsets_marchFail {n b r} (h : Upsets G s₀ s) : Upsets G s₀ (marchFail s n b r) := by
  have darned := works_darnRow (t := n) (b := b) (r := r) (c := .march) h
  unfold marchFail
  dsimp only
  split
  · exact works_store h
  · split
    · exact upsets_failTile darned
    · exact darned

/-- The entry of a lint unit that fails again. -/
def lintEntry (n : Nat) (k : LintKind) : HealthEntry := { HealthEntry.of 22 (lintNum k) with tile := some n, region := some (n / 32) }

/-- A recurring lint fault is logged; what follows it are failures. -/
theorem upsets_lintFault (s : State) (n : Nat) (k : LintKind) : Upsets G (logHealth s (lintEntry n k)) (lintFault s n k) := by
  have logged : Upsets G (logHealth s (lintEntry n k)) (logHealth s (lintEntry n k)) := works_refl _
  cases k with
  | spare => exact logged
  | rowMarch b r => exact works_unless (fun h => upsets_strike (upsets_marchFail h)) logged
  | cellSignature => exact upsets_strike logged
  | accMarch => exact upsets_strike logged

/-! ### Regions that are lost -/

theorem upsets_lastRites {j l} (h : Upsets G s₀ s) : Upsets G s₀ (lastRites s j l) := by
  have freed : Upsets G s₀ (modJob (freeLane j s l) j.id fun x => { x with lanes := x.lanes.filter fun y => y.stripe != l.stripe }) :=
    works_modJob (fun _ => ⟨rfl, rfl, rfl, rfl, id⟩) (fun _ => id) (works_freeLane h)
  unfold lastRites
  dsimp only
  split
  · exact works_when (fun h => works_dropOldModels (works_removeJob h)) freed
  · exact freed

theorem upsets_endInRegion {g j} (h : Upsets G s₀ s) : Upsets G s₀ (endInRegion g s j) := by
  have waits : Upsets G s₀ (modJob s j.id fun x => { x with lanes := mapWhere (fun l => l.region == g) (fun l => { l with state := .wait }) x.lanes }) :=
    works_modJob (fun _ => ⟨rfl, rfl, rfl, rfl, id⟩) (fun _ => id) h
  unfold endInRegion
  dsimp only
  split
  · exact waits
  · exact works_ite (works_foldl waits fun _ _ => upsets_lastRites) (works_failJob waits)

theorem upsets_evictSide {g p} (h : Upsets G s₀ s) : Upsets G s₀ (evictSide s g p) := by
  have gone : Upsets G s₀ ((unpressed s p).foldl (fun u n => discardPiece u (s.lp p).cfg.track n .regionLost) s) := works_foldl h fun _ _ => works_discardPiece
  unfold evictSide
  dsimp only
  refine works_ite h ?_
  split
  next moved => exact works_moveReservation upset_outer gone moved
  · exact works_ite (works_healthTake upset_outer gone) (upsets_forceDisarm gone)

/-- A region as its loss leaves it. -/
def lostRegion (x : RegionSt) : RegionSt := { x with failed := true, state := 2, test3 := false }

/-- The module at the moment a region is lost, its jobs ended. -/
def regionLost (s : State) (g : Region) : State := ((s.sched.jobs.filter fun j => !(j.tilesIn g.val).isEmpty).foldl (endInRegion g.val) s).modRegion g lostRegion

/-- The sides leave a lost region's tiles, and the plans are lowered again. -/
def regionLeft (s : State) (g : Region) : State := invalidate (relowerAll (allPorts.foldl (fun s p => evictSide s g.val p) s))

/-- The alert stands. -/
def alerted (s : State) : State := { s with health := { s.health with alert := true } }

/-- A region before its failure is logged. -/
def regionGone (s : State) (g : Region) : State := alerted (regionLeft (regionLost s g) g)

/-- The entry of a region's failure. -/
def regionEntry (g : Region) (kind : Nat) : HealthEntry := { HealthEntry.of kind 0 with region := some g.val, status := some .regionLost }

theorem regionError_eq (s : State) (g : Region) (kind : Nat) : regionError s g kind =
    serveImages (logHealth (if healthRoom (regionGone s g) then regionGone s g else (regionGone s g).raiseEvent 0) (regionEntry g kind)) := by
  unfold regionError
  extract_lets js ended lost evicted left health alert told
  have first : lost = regionLost s g := rfl
  clear_value lost
  have second : left = regionLeft lost g := rfl
  clear_value left
  have third : alert = alerted left := rfl
  clear_value alert
  unfold regionGone
  rw [← first, ← second, ← third]
  rfl

theorem upsets_regionLost {g} (may : G g) (h : Upsets G s₀ s) : Upsets G s₀ (regionLost s g) :=
  (works_foldl h fun _ _ => upsets_endInRegion).tail (.extra (.lost g may))

theorem upsets_regionLeft {g : Region} (h : Upsets G s₀ s) : Upsets G s₀ (regionLeft s g) :=
  works_invalidate upset_outer (works_relowerAll upset_outer (works_foldl h fun _ _ => upsets_evictSide))

theorem upsets_alerted (h : Upsets G s₀ s) : Upsets G s₀ (alerted s) := h.tail (.extra .alert)

theorem upsets_regionGone {g} (may : G g) (h : Upsets G s₀ s) : Upsets G s₀ (regionGone s g) := upsets_alerted (upsets_regionLeft (upsets_regionLost may h))

theorem upsets_regionLogged {g kind} (h : Upsets G s₀ s) : Upsets G s₀ (serveImages (logHealth (if healthRoom s then s else s.raiseEvent 0) (regionEntry g kind))) :=
  works_serveImages upset_granted (works_logHealth (works_unless works_raiseEvent h))

theorem upsets_regionError {g kind} (may : G g) (h : Upsets G s₀ s) : Upsets G s₀ (regionError s g kind) := by
  rw [regionError_eq]
  exact upsets_regionLogged (upsets_regionGone may h)

/-! ### What a failure leaves -/

/-- A region sinks: it loses spares, and what has failed, is DRAINED or has not passed test 3 stays so; one that may not be lost fails no more. -/
structure Sinks (may : Prop) (x y : RegionSt) : Prop where
  spares : y.spares ≤ x.spares
  failed : x.failed = true → y.failed = true
  drained : x.state = 2 → y.state = 2
  untested : x.test3 = false → y.test3 = false
  sound : ¬ may → y.failed = x.failed

theorem Sinks.refl {may : Prop} (x : RegionSt) : Sinks may x x := ⟨Nat.le_refl _, id, id, id, fun _ => rfl⟩

theorem Sinks.trans {may : Prop} {x y z : RegionSt} (h : Sinks may x y) (k : Sinks may y z) : Sinks may x z :=
  ⟨Nat.le_trans k.spares h.spares, k.failed ∘ h.failed, k.drained ∘ h.drained, k.untested ∘ h.untested, fun no => (k.sound no).trans (h.sound no)⟩

theorem sinks_of_core {may : Prop} {x y : RegionSt} (same : coreRegion y = coreRegion x) : Sinks may x y where
  spares := Nat.le_of_eq (congrArg RegionSt.spares same :)
  failed := fun k => (congrArg RegionSt.failed same :).trans k
  drained := fun k => (congrArg RegionSt.state same :).trans k
  untested := fun k => (congrArg RegionSt.test3 same :).trans k
  sound := fun _ => (congrArg RegionSt.failed same :)

theorem sinks_modRegion {may : Prop} {k r : Region} {f : RegionSt → RegionSt} (own : k = r → Sinks may (s.reg8 r) (f (s.reg8 r))) :
    Sinks may (s.reg8 k) ((s.modRegion r f).reg8 k) := by
  by_cases same : r = k
  · subst same
    rw [State.modRegion_same]
    exact own rfl
  · rw [State.modRegion_other s same]
    exact Sinks.refl _

theorem upset_sinks (k : Region) (h : Upset G s t) : Sinks (G k) (s.reg8 k) (t.reg8 k) := by
  cases h with
  | apart regions =>
    unfold State.reg8
    rw [regions]
    exact Sinks.refl _
  | tile n f => exact sinks_of_core (coreRegion_modTile s n f k)
  | drained g draining => exact sinks_modRegion fun _ => ⟨Nat.le_refl _, id, fun _ => rfl, id, fun _ => rfl⟩
  | spared g n fewer => exact sinks_modRegion fun _ => ⟨fewer, id, id, id, fun _ => rfl⟩
  | lost g may => exact sinks_modRegion fun own => ⟨Nat.le_refl _, fun _ => rfl, fun _ => rfl, fun _ => rfl, fun no => absurd (own ▸ may) no⟩
  | alert => exact Sinks.refl _

theorem upsets_sinks (k : Region) (h : Upsets G s t) : Sinks (G k) (s.reg8 k) (t.reg8 k) :=
  works_keep (P := fun u => Sinks (G k) (s.reg8 k) (u.reg8 k)) (fun u v w sunk => sunk.trans (by
    rcases work_cases w with plain | more
    · exact sinks_of_core (bare_core (work_bare_plain plain) k)
    · exact upset_sinks k more)) h (Sinks.refl _)

theorem upset_seq (s t : State) (h : Upset G s t) : s.health.seq ≤ t.health.seq := by
  cases h with
  | apart _ health => rw [health]
  | tile | drained | spared | lost | alert => exact Nat.le_refl _

theorem upsets_seq (h : Upsets G s t) : s.health.seq ≤ t.health.seq := works_seq upset_seq h

/-- The alert, once it stands, stays. -/
theorem upsets_alertStays (h : Upsets G s t) (stands : s.health.alert = true) : t.health.alert = true :=
  works_keep (P := fun u => u.health.alert = true) (fun u v w stands => by
    rcases work_cases w with plain | more
    · exact (congrArg (fun x : State => x.health.alert) (work_bare_plain plain) :).trans stands
    · cases more with
      | apart _ health => rwa [health]
      | tile | drained | spared | lost => exact stands
      | alert => rfl) h stands

end

end Sys2Proof.Machine
end

section
/-! PROOF. The lint sweep, the health log and a spare's reload (R422, R428, R429, R431). -/

namespace Sys2Proof.Machine

open Sys2Proof

/-! ### One tile among the others -/

section
variable {s t : State}

theorem tile_modTile_same (s : State) (n : Nat) (f : TileSt → TileSt) : (s.modTile n f).tile n = f (s.tile n) := by
  unfold State.modTile State.tile
  rw [State.modRegion_same]
  exact Vector.getElem_set_self _

theorem tile_modTile_other (s : State) {n x : Nat} (f : TileSt → TileSt) (low : n < 256) (small : x < 256) (other : x ≠ n) : (s.modTile n f).tile x = s.tile x := by
  unfold State.modTile State.tile
  by_cases same : Fin.ofNat 8 (n / 32) = Fin.ofNat 8 (x / 32)
  · have region : n / 32 % 8 = x / 32 % 8 := congrArg Fin.val same
    rw [same, State.modRegion_same]
    exact Vector.getElem_set_ne (Nat.mod_lt n (by decide)) (Nat.mod_lt x (by decide)) (by omega)
  · rw [State.modRegion_other _ same]

/-! ### Bytes that are zeroed -/

theorem smFind_filter {α : Type} (m : List (Nat × α)) (p : Nat → Bool) (x : Nat) : smFind (m.filter fun c => p c.1) x = if p x then smFind m x else none := by
  induction m with
  | nil => exact (ite_self _).symm
  | cons c m ih =>
    obtain ⟨k, v⟩ := c
    by_cases same : k = x
    · subst same
      cases hit : p k with
      | true => rw [List.filter_cons_of_pos (by exact hit)]; unfold smFind; rw [if_pos rfl, if_pos rfl, if_pos rfl]
      | false => rw [List.filter_cons_of_neg (by rw [hit]; nofun), ih, hit]; rfl
    · have skip : smFind ((k, v) :: m) x = smFind m x := if_neg same
      rw [skip, ← ih]
      cases hit : p k with
      | true => rw [List.filter_cons_of_pos (by exact hit)]; exact if_neg same
      | false => rw [List.filter_cons_of_neg (by rw [hit]; nofun)]

theorem memByte_filter (m : List Host.Cell) (p : Nat → Bool) (a : Nat) : memByte (m.filter fun c => p c.1) a = if p a then memByte m a else 0 := by
  unfold memByte smGet
  rw [smFind_filter]
  split <;> rfl

theorem zeroBank_byte (s : State) (tile bank row a : Nat) : memByte (zeroBank s tile bank row).store.mem a =
    if tsTile a = tile ∧ tsBank a = bank ∧ tsRow a = row then 0 else memByte s.store.mem a := by
  refine (memByte_filter s.store.mem (fun x => !(tsTile x == tile && tsBank x == bank && tsRow x == row)) a).trans ?_
  by_cases hit : tsTile a = tile ∧ tsBank a = bank ∧ tsRow a = row
  · rw [if_pos hit]
    obtain ⟨rfl, rfl, rfl⟩ := hit
    exact if_neg (by simp)
  · rw [if_neg hit]
    refine if_pos ?_
    simp only [Bool.not_eq_true', Bool.and_eq_false_iff, beq_eq_false_iff_ne]
    tauto

end

/-! ### A lint unit -/

/-- The tile as a unit leaves it. -/
def linted (now : Nat) (x : TileSt) : TileSt :=
  if sweepUnits ≤ x.lintUnits + 1 then { x with lintUnits := 0, sweepAt := now, overdue := false } else { x with lintUnits := x.lintUnits + 1 }

/-- The row that a unit marches is zero. -/
def rowZeroed (s : State) (tile : Nat) (k : LintKind) : State := match k with
  | .rowMarch bank row => if row < tsRows then zeroBank s tile bank row else s
  | _ => s

/-- The module once a unit has run on a tile. -/
def lintRun (s : State) (tile : Nat) (k : LintKind) : State := rowZeroed ((s.countN famTile tile 14 1).modTile tile (linted s.now)) tile k

section
variable {s : State} {tile : Nat} {k : LintKind} {faulty recurs : Bool}

theorem exec_lintUnit_waits (waits : lintMayRun s tile k = false) : exec (.lintUnit tile k faulty recurs) s = .next s := by
  change (if !lintMayRun s tile k then Host.Outcome.next s else _) = _
  rw [waits]
  rfl

theorem exec_lintUnit (may : lintMayRun s tile k = true) :
    exec (.lintUnit tile k faulty recurs) s = .next (if faulty && recurs then lintFault (lintRun s tile k) tile k else lintRun s tile k) := by
  change (if !lintMayRun s tile k then Host.Outcome.next s else _) = _
  rw [may]
  rfl

theorem rowZeroed_frame (s : State) (tile : Nat) (k : LintKind) :
    { (rowZeroed s tile k).store with mem := s.store.mem, marks := s.store.marks } = s.store ∧ { rowZeroed s tile k with store := s.store } = s := by
  unfold rowZeroed
  split
  · split <;> exact ⟨rfl, rfl⟩
  · exact ⟨rfl, rfl⟩

theorem rowZeroed_byte (s : State) (tile : Nat) (k : LintKind) (a : Nat) : memByte (rowZeroed s tile k).store.mem a = match k with
    | .rowMarch bank row => if row < tsRows ∧ tsTile a = tile ∧ tsBank a = bank ∧ tsRow a = row then 0 else memByte s.store.mem a
    | _ => memByte s.store.mem a := by
  cases k with
  | rowMarch bank row =>
    unfold rowZeroed
    dsimp only
    by_cases inside : row < tsRows
    · rw [if_pos inside, zeroBank_byte]
      simp only [inside, true_and]
    · rw [if_neg inside, if_neg fun hit => inside hit.1]
  | spare | cellSignature | accMarch => rfl

theorem lintRun_frame (s : State) (tile : Nat) (k : LintKind) : { lintRun s tile k with regions := s.regions, store := s.store, cnt := s.cnt } = s :=
  (congrArg (fun u : State => { u with regions := s.regions, cnt := s.cnt }) (rowZeroed_frame ((s.countN famTile tile 14 1).modTile tile (linted s.now)) tile k).2 :)

theorem lintRun_regions (s : State) (tile : Nat) (k : LintKind) : (lintRun s tile k).regions = (s.modTile tile (linted s.now)).regions :=
  (congrArg State.regions (rowZeroed_frame ((s.countN famTile tile 14 1).modTile tile (linted s.now)) tile k).2 :)

theorem lintRun_store (s : State) (tile : Nat) (k : LintKind) : { (lintRun s tile k).store with mem := s.store.mem, marks := s.store.marks } = s.store :=
  have same : ((s.countN famTile tile 14 1).modTile tile (linted s.now)).store = s.store := rfl
  have run := (rowZeroed_frame ((s.countN famTile tile 14 1).modTile tile (linted s.now)) tile k).1
  by rwa [same] at run

theorem lintRun_byte (s : State) (tile : Nat) (k : LintKind) (a : Nat) : memByte (lintRun s tile k).store.mem a = match k with
    | .rowMarch bank row => if row < tsRows ∧ tsTile a = tile ∧ tsBank a = bank ∧ tsRow a = row then 0 else memByte s.store.mem a
    | _ => memByte s.store.mem a := by
  have same : ((s.countN famTile tile 14 1).modTile tile (linted s.now)).store = s.store := rfl
  have run := rowZeroed_byte ((s.countN famTile tile 14 1).modTile tile (linted s.now)) tile k a
  rwa [same] at run

theorem lintRun_seq (s : State) (tile : Nat) (k : LintKind) : (lintRun s tile k).health.seq = s.health.seq :=
  (congrArg (fun u : State => u.health.seq) (lintRun_frame s tile k) :)

theorem tile_of_regions {s t : State} (same : t.regions = s.regions) (x : Nat) : t.tile x = s.tile x := by
  unfold State.tile State.reg8
  rw [same]

end

end Sys2Proof.Machine

open Sys2Proof Sys2Proof.Machine

/-- Settles O20: a unit counts on its tile and zeroes the row it marches; a fault that recurs is logged before what follows it. -/
theorem lintSweep : Obligations.LintSweep := by
  refine ⟨fun s tile k _ may => ?_, fun s tile k faulty recurs low sound => ⟨exec_lintUnit_waits, fun may => ?_⟩⟩
  · have ran := exec_lintUnit (faulty := true) (recurs := true) may
    refine ⟨_, ran, ?_, (keeps_of_staysNext (cmd_lintUnit tile k true true s) ran).1⟩
    have logged : (lintRun s tile k).health.seq < (logHealth (lintRun s tile k) (lintEntry tile k)).health.seq := by
      rw [logHealth_seq]
      omega
    rw [lintRun_seq] at logged
    exact lt_of_lt_of_le logged (upsets_seq (G := fun _ => False) (upsets_lintFault _ tile k))
  · refine ⟨lintRun s tile k, ?_, ?_, fun x small other => ?_, lintRun_byte s tile k, lintRun_store s tile k, lintRun_frame s tile k⟩
    · rw [exec_lintUnit may, sound]
      rfl
    · rw [tile_of_regions (lintRun_regions s tile k), tile_modTile_same]
      rfl
    · rw [tile_of_regions (lintRun_regions s tile k), tile_modTile_other s _ low small other]
  
end

section
/-! PROOF. A spare's reload writes where the resident model's ways point (R422), which is not always the tile that reloads. -/

namespace Sys2Proof.Machine

open Sys2Proof

/-- A plan whose model is one byte of 1, at the first address of tile 0. -/
def strayPlan : PlanRec := { (default : PlanRec) with handle := 5, low := { (default : Lowering) with image := [(0, [1])] } }

/-- A reset module whose tile 0 waits for its reload, with a resident model that names way 64. -/
def straying : State :=
  let s := State.reset.modTile 0 fun x => { x with reload := true }
  { s with plans := { s.plans with loaded := [strayPlan] }, sched := { s.sched with models := [{ (default : ModelSt) with plan := 5, ways := [64] }] } }

theorem straying_waits : (straying.tile 0).reload = true := by decide

/-- Row 0 of way 64 lies 4,096 rows up, in tile 2. -/
theorem straying_strays : tsTile (2 ^ 22) ≠ 0 ∧ memByte straying.store.mem (2 ^ 22) = 0 ∧ memByte (reloadTile straying 0).store.mem (2 ^ 22) = 1 := by decide

theorem exec_spareReloadDone {s : State} {tile : Nat} (waits : (s.tile tile).reload = true) (idle : (reloadTile s tile).sched.jobs = []) :
    exec (.spareReloadDone tile) s = .next ((reloadTile s tile).modTile tile fun x => { x with reload := false }) := by
  change (if !(s.tile tile).reload then Host.Outcome.next s else _) = _
  rw [waits]
  exact congrArg Host.Outcome.next (serveImages_idle _ idle)

theorem straying_idle : (reloadTile straying 0).sched.jobs = [] := by decide

end Sys2Proof.Machine

open Sys2Proof Sys2Proof.Machine

/-- Refutes O21: the reload of a tile writes a resident model's rows where the model's ways lie, and nothing bounds them; a model of way 64 has rows beyond the
2,048 of a tile, so that the reload of tile 0 writes a byte of tile 2. -/
theorem not_healthUpkeep : ¬ Obligations.HealthUpkeep := by
  unfold Obligations.HealthUpkeep
  rintro ⟨-, -, -, reloads⟩
  obtain ⟨t, ran, -, -, bytes, -⟩ := reloads straying 0 (by decide) straying_waits rfl
  obtain rfl := Host.Outcome.next.inj ((exec_spareReloadDone straying_waits straying_idle).symm.trans ran)
  obtain ⟨other, before, after⟩ := straying_strays
  exact absurd (after.symm.trans ((bytes (2 ^ 22) other).trans before)) (by decide)

end

section
/-! PROOF. DEVICE and REGION errors (R421, R423, R435). -/

namespace Sys2Proof.Machine

open Sys2Proof

section
variable {s : State} {g : Region} {kind : Nat}

theorem upsets_afterLoss_error (s : State) (g : Region) (kind : Nat) : Upsets (· = g) (regionLost s g) (regionError s g kind) :=
  upsets_regionLogged (upsets_alerted (upsets_regionLeft (works_refl (regionLost s g))))

theorem raiseEvent_seq (s : State) (f : Fn) : (s.raiseEvent f).health.seq = s.health.seq := by
  unfold State.raiseEvent State.raiseVec
  split <;> rfl

/-- The alert stands, and the error is logged, once a region is lost. -/
theorem regionError_logs (s : State) (g : Region) (kind : Nat) : (regionError s g kind).health.alert = true ∧ s.health.seq < (regionError s g kind).health.seq := by
  have gone : Upsets (· = g) s (regionGone s g) := upsets_regionGone rfl (works_refl s)
  have low := upsets_seq gone
  have alert : (regionGone s g).health.alert = true := rfl
  rw [regionError_eq]
  generalize regionGone s g = u at *
  have told : (if healthRoom u then u else u.raiseEvent 0).health.seq = u.health.seq := by
    split
    · rfl
    · exact raiseEvent_seq u 0
  have rest : Upsets (· = g) u (serveImages (logHealth (if healthRoom u then u else u.raiseEvent 0) (regionEntry g kind))) := upsets_regionLogged (works_refl u)
  have served : Upsets (· = g) (logHealth (if healthRoom u then u else u.raiseEvent 0) (regionEntry g kind))
      (serveImages (logHealth (if healthRoom u then u else u.raiseEvent 0) (regionEntry g kind))) := works_serveImages upset_granted (works_refl _)
  have logged := logHealth_seq (if healthRoom u then u else u.raiseEvent 0) (regionEntry g kind)
  have high := upsets_seq served
  exact ⟨upsets_alertStays rest alert, by omega⟩

theorem regionError_region (s : State) (g : Region) (kind : Nat) : ((regionError s g kind).reg8 g).failed = true ∧ ((regionError s g kind).reg8 g).state = 2 ∧
    ((regionError s g kind).reg8 g).test3 = false ∧ ∀ k, k ≠ g → ((regionError s g kind).reg8 k).failed = (s.reg8 k).failed := by
  have sunk := upsets_sinks g (upsets_afterLoss_error s g kind)
  have lost : (regionLost s g).reg8 g = lostRegion (((s.sched.jobs.filter fun j => !(j.tilesIn g.val).isEmpty).foldl (endInRegion g.val) s).reg8 g) := State.modRegion_same ..
  rw [lost] at sunk
  refine ⟨sunk.failed rfl, sunk.drained rfl, sunk.untested rfl, fun k other => ?_⟩
  exact (upsets_sinks k (upsets_regionError (G := (· = g)) (kind := kind) rfl (works_refl s))).sound other

theorem alert_shows (alert : s.health.alert = true) : alertCauses s / 32 % 2 = 1 := by
  rw [alertCauses_bit5, alert]
  rfl

/-! ### In a module with nothing to do -/

section
variable (idle : idleModule s)
include idle

theorem invalidate_idle : invalidate s = s := by
  unfold invalidate mapWhere
  rw [idle.2.1, List.map_nil, ← idle.2.1]

theorem relowerAll_idle : relowerAll s = s := by
  unfold relowerAll
  dsimp only
  rw [idle.2.1, idle.2.2]
  unfold sortBy
  rw [List.filter_nil, List.map_nil, List.filter_nil, List.append_nil, List.foldl_nil, ← idle.2.2, ← idle.2.1]

end

theorem evictSide_none {n : Nat} {p : Port} (none : ∀ x ∈ (s.lp p).reserved, x.1 / 32 ≠ n) : evictSide s n p = s := by
  have empty : ((s.lp p).reserved.any fun t => t.1 / 32 == n) = false := List.any_eq_false.mpr fun x mem => by simpa using none x mem
  unfold evictSide
  rw [empty]
  rfl

theorem regionLost_idle (idle : idleModule s) : regionLost s g = s.modRegion g lostRegion := by
  unfold regionLost
  rw [idle.1]
  rfl

/-- With nothing to do, a region's loss is the region's alone. -/
theorem regionGone_idle (idle : idleModule s) (free : ∀ p : Port, ∀ x ∈ (s.lp p).reserved, x.1 / 32 ≠ g.val) : regionGone s g = alerted (s.modRegion g lostRegion) := by
  have evicted : allPorts.foldl (fun s p => evictSide s g.val p) (s.modRegion g lostRegion) = s.modRegion g lostRegion := foldl_fixed _ fun p _ => evictSide_none (free p)
  have still : idleModule (s.modRegion g lostRegion) := idle
  unfold regionGone regionLeft
  rw [regionLost_idle idle, evicted, relowerAll_idle still, invalidate_idle still]

theorem raiseEvent_answers (s : State) (f : Fn) : { s.raiseEvent f with fns := s.fns, out := s.out } = s := (raiseVec_parts s f _).2.2

/-- A REGION error of a module with nothing to do. -/
theorem regionError_idle (idle : idleModule s) (free : ∀ p : Port, ∀ x ∈ (s.lp p).reserved, x.1 / 32 ≠ g.val) (kept : 2 ≤ healthClass kind) :
    let t := regionError s g kind
    t.reg8 g = lostRegion (s.reg8 g) ∧ (∀ k : Region, k ≠ g → t.reg8 k = s.reg8 k) ∧ (∃ e ∈ t.health.last, e.kind = kind ∧ e.region = some g.val ∧ e.status = some .regionLost) ∧
      { t with regions := s.regions, health := s.health, out := s.out, cnt := s.cnt, pegs := s.pegs, fns := s.fns } = s := by
  have told : ∀ u : State, { (if healthRoom u then u else u.raiseEvent 0) with fns := u.fns, out := u.out } = u := by
    intro u
    split
    · rfl
    · exact raiseEvent_answers u 0
  have gone := told (alerted (s.modRegion g lostRegion))
  rw [regionError_eq, regionGone_idle idle free]
  generalize (if healthRoom (alerted (s.modRegion g lostRegion)) then alerted (s.modRegion g lostRegion) else (alerted (s.modRegion g lostRegion)).raiseEvent 0) = u at *
  have frame := logHealth_frame u (regionEntry g kind)
  have newest := logHealth_newest u (e := regionEntry g kind) kept
  have none : (logHealth u (regionEntry g kind)).sched.jobs = [] :=
    (congrArg (fun v : State => v.sched.jobs) frame :).trans ((congrArg (fun v : State => v.sched.jobs) gone :).trans idle.1)
  rw [serveImages_idle _ none]
  generalize logHealth u (regionEntry g kind) = t at *
  have regions : t.regions = (s.modRegion g lostRegion).regions := (congrArg State.regions frame :).trans (congrArg State.regions gone :)
  refine ⟨?_, fun k other => ?_, ⟨_, List.mem_of_getLast? newest, rfl, rfl, rfl⟩, ?_⟩
  · exact (congrArg (fun v => v[g.val]) regions).trans (State.modRegion_same ..)
  · exact (congrArg (fun v => v[k.val]) regions).trans (State.modRegion_other s other.symm _)
  · have outer := (congrArg (fun v : State => { v with regions := s.regions, health := s.health, out := s.out, cnt := s.cnt, pegs := s.pegs, fns := s.fns }) frame :)
    have inner := (congrArg (fun v : State => { v with regions := s.regions, health := s.health, out := s.out, cnt := s.cnt, pegs := s.pegs, fns := s.fns }) gone :)
    exact outer.trans inner

end

end Sys2Proof.Machine

open Sys2Proof Sys2Proof.Machine

/-- Settles O17: what follows the moment of the loss never restores a region, and the alert and the entry come after it. -/
theorem hardErrors : Obligations.HardErrors := by
  refine ⟨fun s => ⟨fun first u => ⟨_, rfl, deviceStands_deviceError first _⟩, fun first rails calm held running => ?_, fun stands u => ?_⟩, fun s g c which => ?_,
    fun s g idle free c kind which => ?_⟩
  · exact ⟨_, exec_bothInputsLow rails calm held running, deviceStands_deviceError (s := inputsLost s) first 1⟩
  · exact congrArg Host.Outcome.next (if_pos stands)
  · obtain ⟨kind, ran⟩ : ∃ kind, exec c s = .next (regionError s g kind) := by
      rcases which with rfl | rfl
      · exact ⟨10, rfl⟩
      · exact ⟨12, rfl⟩
    obtain ⟨failed, state, test3, others⟩ := regionError_region s g kind
    obtain ⟨alert, seq⟩ := regionError_logs s g kind
    exact ⟨_, ran, failed, state, test3, others, alert, alert_shows alert, seq⟩
  · obtain ⟨ran, kept⟩ : exec c s = .next (regionError s g kind) ∧ 2 ≤ healthClass kind := by
      rcases which with ⟨rfl, rfl⟩ | ⟨rfl, rfl⟩
      · exact ⟨rfl, by decide⟩
      · exact ⟨rfl, by decide⟩
    obtain ⟨own, others, entry, frame⟩ := regionError_idle idle free kept
    have alert := (regionError_logs s g kind).1
    exact ⟨_, ran, own, others, alert, alert_shows alert, entry, frame⟩

end

section
/-! PROOF. Draining and serving regions (R108, R419). -/

namespace Sys2Proof.Machine

open Sys2Proof

/-! ### One region after the other -/

/-- Steps that each settle their own region settle those named, and leave the others. -/
theorem foldl_eachRegion {β : Type} {F : State → Nat → State} {val : State → Region → β} {next : Region → β → β} {Inv : State → Prop}
    (step : ∀ v g, g < 8 → Inv v → Inv (F v g) ∧ ∀ k : Region, val (F v g) k = if k.val = g then next k (val v k) else val v k)
    (gs : List Nat) (nodup : gs.Nodup) (low : ∀ g ∈ gs, g < 8) {v : State} (start : Inv v) :
    Inv (gs.foldl F v) ∧ ∀ k : Region, val (gs.foldl F v) k = if k.val ∈ gs then next k (val v k) else val v k := by
  induction gs generalizing v with
  | nil => exact ⟨start, fun k => (if_neg List.not_mem_nil).symm⟩
  | cons g gs ih =>
    obtain ⟨here, rest⟩ := List.nodup_cons.mp nodup
    obtain ⟨inv, own⟩ := step v g (low g List.mem_cons_self) start
    obtain ⟨all, each⟩ := ih rest (fun x mem => low x (List.mem_cons_of_mem _ mem)) inv
    refine ⟨all, fun k => (each k).trans ?_⟩
    rw [own k]
    by_cases same : k.val = g
    · rw [if_pos same, if_neg (same ▸ here), if_pos (List.mem_cons.mpr (.inl same))]
    · rw [if_neg same]
      exact if_congr (by rw [List.mem_cons, or_iff_right same]) rfl rfl

section
variable {s t : State}

theorem reg8_modRegion (s : State) {g : Nat} (low : g < 8) (f : RegionSt → RegionSt) (k : Region) :
    (s.modRegion (Fin.ofNat 8 g) f).reg8 k = if k.val = g then f (s.reg8 k) else s.reg8 k := by
  have val : (Fin.ofNat 8 g).val = g := Nat.mod_eq_of_lt low
  by_cases same : k.val = g
  · obtain rfl : k = Fin.ofNat 8 g := Fin.ext (same.trans val.symm)
    rw [if_pos same, State.modRegion_same]
  · rw [if_neg same, State.modRegion_other s fun eq => same ((congrArg Fin.val eq).symm.trans val)]

theorem mem_range_region (k : Region) : k.val ∈ List.range 8 := List.mem_range.mpr k.isLt

theorem range_low : ∀ g ∈ List.range 8, g < 8 := fun _ => List.mem_range.mp

/-! ### Draining -/

/-- A region beside its drain state. -/
def stateless (x : RegionSt) : RegionSt := { x with state := 0 }

theorem stateless_restored {x y : RegionSt} (same : stateless y = stateless x) : { y with state := x.state } = x := (congrArg (fun z : RegionSt => { z with state := x.state }) same :)

theorem regionHeld_same (regions : ∀ k, stateless (t.reg8 k) = stateless (s.reg8 k)) (jobs : t.sched.jobs = s.sched.jobs) (g : Nat) : regionHeld t g = regionHeld s g := by
  have tile (n : Nat) : t.tile n = s.tile n := (congrArg (fun x : RegionSt => x.tiles[n % 32]) (regions (Fin.ofNat 8 (n / 32))) :)
  unfold regionHeld findJob
  simp only [tile, jobs]

theorem invalidate_reg8 (s : State) (k : Region) : (invalidate s).reg8 k = s.reg8 k := rfl

/-- What a settled drain makes of a region. -/
def settled (u : State) (k : Region) (x : RegionSt) : RegionSt := if x.state = 1 ∧ ¬ regionHeld u k.val then { x with state := 2 } else x

theorem stateless_settled (u : State) (k : Region) (x : RegionSt) : stateless (settled u k x) = stateless x := by
  unfold settled
  split <;> rfl

/-- The regions, but for their states, and all but the plans stay. -/
def drainKept (u v : State) : Prop := { v with regions := u.regions, plans := u.plans } = u ∧ ∀ k, stateless (v.reg8 k) = stateless (u.reg8 k)

theorem settleDrains_region (u : State) : drainKept u (settleDrains u) ∧ ∀ k, (settleDrains u).reg8 k = settled u k (u.reg8 k) := by
  have all := foldl_eachRegion (F := fun s g => if (s.reg8 (Fin.ofNat 8 g)).state = 1 ∧ ¬ regionHeld s g then invalidate (s.modRegion (Fin.ofNat 8 g) fun x => { x with state := 2 }) else s)
    (val := State.reg8) (next := settled u) (Inv := drainKept u) (fun v g low ⟨frame, kept⟩ => ?_) (List.range 8) List.nodup_range range_low (v := u) ⟨rfl, fun _ => rfl⟩
  · refine ⟨all.1, fun k => ?_⟩
    exact (all.2 k).trans (if_pos (mem_range_region k))
  · have jobs : v.sched.jobs = u.sched.jobs := (congrArg (fun w : State => w.sched.jobs) frame :)
    have each : ∀ k : Region, (if (v.reg8 (Fin.ofNat 8 g)).state = 1 ∧ ¬ regionHeld v g then invalidate (v.modRegion (Fin.ofNat 8 g) fun x => { x with state := 2 }) else v).reg8 k =
        if k.val = g then settled u k (v.reg8 k) else v.reg8 k := by
      intro k
      by_cases same : k.val = g
      · obtain rfl : k = Fin.ofNat 8 g := Fin.ext (same.trans (Nat.mod_eq_of_lt low).symm)
        rw [if_pos same]
        unfold settled
        rw [same, regionHeld_same kept jobs]
        split
        · rw [invalidate_reg8, State.modRegion_same]
        · rfl
      · rw [if_neg same]
        split
        · rw [invalidate_reg8, reg8_modRegion v low, if_neg same]
        · rfl
    refine ⟨⟨?_, fun k => ?_⟩, each⟩
    · split
      · exact frame
      · exact frame
    · rw [each k]
      split
      · rw [stateless_settled, kept k]
      · exact kept k

/-- The regions that a drain names. -/
def drainNamed (s : State) (mask : Nat) : List Nat := (List.range 8).filter fun g => bitAt mask g && (s.reg8 (Fin.ofNat 8 g)).state == 0

/-- The regions named are DRAINING. -/
def drainMarked (s : State) (mask : Nat) : State := (drainNamed s mask).foldl (fun s g => s.modRegion (Fin.ofNat 8 g) fun x => { x with state := 1 }) s

theorem drainRegions_eq (s : State) (mask : Nat) : drainRegions s mask = if (drainNamed s mask).isEmpty then s else settleDrains (relowerAll (drainMarked s mask)) := rfl

theorem mem_drainNamed {mask : Nat} (g : Region) : g.val ∈ drainNamed s mask ↔ bitAt mask g.val = true ∧ (s.reg8 g).state = 0 := by
  have val : Fin.ofNat 8 g.val = g := Fin.ext (Nat.mod_eq_of_lt g.isLt)
  unfold drainNamed
  rw [List.mem_filter, val]
  simp [g.isLt]

theorem drainMarked_region (s : State) (mask : Nat) : { drainMarked s mask with regions := s.regions } = s ∧
    ∀ k : Region, (drainMarked s mask).reg8 k = if bitAt mask k.val = true ∧ (s.reg8 k).state = 0 then { s.reg8 k with state := 1 } else s.reg8 k := by
  obtain ⟨frame, each⟩ := foldl_eachRegion (F := fun s g => s.modRegion (Fin.ofNat 8 g) fun x => { x with state := 1 }) (val := State.reg8)
    (next := fun _ x => { x with state := 1 }) (Inv := fun v => { v with regions := s.regions } = s)
    (fun v g low frame => ⟨frame, fun k => reg8_modRegion v low _ k⟩) (drainNamed s mask) (List.nodup_range.filter _)
    (fun g mem => List.mem_range.mp (List.mem_filter.mp mem).1) (v := s) rfl
  exact ⟨frame, fun k => (each k).trans (if_congr (mem_drainNamed k) rfl rfl)⟩

/-- The DRAINING regions of a marked module settle. -/
theorem settleDrains_marked {mask : Nat} {m : State} (frame : { m with regions := s.regions, plans := s.plans } = s)
    (marks : ∀ k, m.reg8 k = if bitAt mask k.val = true ∧ (s.reg8 k).state = 0 then { s.reg8 k with state := 1 } else s.reg8 k) :
    drainKept s (settleDrains m) ∧ ∀ k : Region, ((settleDrains m).reg8 k).state =
      if (bitAt mask k.val = true ∧ (s.reg8 k).state = 0) ∨ (s.reg8 k).state = 1 then (if regionHeld s k.val then 1 else 2) else (s.reg8 k).state := by
  have plain : ∀ k, stateless (m.reg8 k) = stateless (s.reg8 k) := by
    intro k
    rw [marks k]
    split <;> rfl
  have jobs : m.sched.jobs = s.sched.jobs := (congrArg (fun v : State => v.sched.jobs) frame :)
  obtain ⟨⟨rest, kept⟩, each⟩ := settleDrains_region m
  generalize settleDrains m = t at *
  refine ⟨⟨?_, fun k => (kept k).trans (plain k)⟩, fun k => ?_⟩
  · exact (congrArg (fun v : State => { v with regions := s.regions, plans := s.plans }) rest :).trans frame
  · rw [each k]
    unfold settled
    rw [regionHeld_same plain jobs, marks k]
    cases held : regionHeld s k.val <;> by_cases want : bitAt mask k.val = true ∧ (s.reg8 k).state = 0 <;> by_cases draining : (s.reg8 k).state = 1 <;>
      simp [want, draining]

/-- The module with the drain's marks, its plans to be lowered again. -/
def drainReady (s : State) (mask : Nat) : State := relowerAll (drainMarked s mask)

theorem drainReady_frame (s : State) (mask : Nat) : { drainReady s mask with regions := s.regions, plans := s.plans } = s := by
  have frame := (drainMarked_region s mask).1
  unfold drainReady
  generalize drainMarked s mask = m at *
  exact (congrArg (fun v : State => { v with plans := s.plans }) frame :)

theorem drainReady_region (s : State) (mask : Nat) (k : Region) :
    (drainReady s mask).reg8 k = if bitAt mask k.val = true ∧ (s.reg8 k).state = 0 then { s.reg8 k with state := 1 } else s.reg8 k :=
  (drainMarked_region s mask).2 k

theorem drainRegions_some {mask : Nat} (named : ∃ g : Region, bitAt mask g.val = true ∧ (s.reg8 g).state = 0) :
    drainRegions s mask = settleDrains (drainReady s mask) := by
  obtain ⟨g, named⟩ := named
  have listed : (drainNamed s mask).isEmpty = false := List.isEmpty_eq_false_iff_exists_mem.mpr ⟨g.val, (mem_drainNamed g).mpr named⟩
  rw [drainRegions_eq, listed]
  rfl

theorem drainRegions_none {mask : Nat} (none : ∀ g : Region, bitAt mask g.val = true → (s.reg8 g).state ≠ 0) : drainRegions s mask = s := by
  have empty : drainNamed s mask = [] := List.filter_eq_nil_iff.mpr fun g mem hit => by
    obtain ⟨asked, serving⟩ := (mem_drainNamed ⟨g, List.mem_range.mp mem⟩).mp (List.mem_filter.mpr ⟨mem, hit⟩)
    exact none _ asked serving
  rw [drainRegions_eq, empty]
  rfl

theorem idleModule_of_regions (same : { t with regions := s.regions } = s) (idle : idleModule s) : idleModule t :=
  ⟨(congrArg (fun v : State => v.sched.jobs) same :).trans idle.1, (congrArg (fun v : State => v.plans.loaded) same :).trans idle.2.1,
    (congrArg (fun v : State => v.plans.relowerQ) same :).trans idle.2.2⟩

theorem settleDrains_idle (idle : idleModule s) : { settleDrains s with regions := s.regions } = s := by
  refine (foldl_keeps (fun u : State => { u with regions := s.regions } = s) _ (fun u g same => ?_) _ _ rfl)
  dsimp only
  split
  · rw [invalidate_idle (idleModule_of_regions (s := s) (t := u.modRegion (Fin.ofNat 8 g) fun x => { x with state := 2 }) same idle)]
    exact same
  · exact same

theorem drainRegions_idle (idle : idleModule s) {mask : Nat} : { settleDrains (drainReady s mask) with regions := s.regions } = s := by
  have frame := (drainMarked_region s mask).1
  have still := idleModule_of_regions frame idle
  unfold drainReady
  rw [relowerAll_idle still]
  have settled := settleDrains_idle still
  generalize drainMarked s mask = m at *
  generalize settleDrains m = t at *
  exact (congrArg (fun v : State => { v with regions := s.regions }) settled :).trans frame

/-! ### Serving -/

/-- A region that serves again. -/
def serving (x : RegionSt) : RegionSt := { x with state := 0, failed := false }

/-- One region named serves again, where it may. -/
def serveOne (mask : Nat) (s : State) (g : Nat) : State :=
  let r : Region := Fin.ofNat 8 g
  let x := s.reg8 r
  if bitAt mask g && x.state == 2 && (!x.failed || x.test3) then
    let s := logHealth (s.modRegion r serving) { HealthEntry.of 23 g with region := some g }
    s.plans.loaded.foldl (fun s p => writePrograms s p.low fun t => t / 32 == g) s
  else s

theorem serveRegions_eq (s : State) (mask : Nat) : serveRegions s mask = serveImages ((List.range 8).foldl (serveOne mask) s) := rfl

theorem works_writePrograms {E : State → State → Prop} {s₀ low on} (h : Works E s₀ s) : Works E s₀ (writePrograms s low on) :=
  works_foldl h fun _ _ h => works_foldl h fun _ _ => works_writeVia _

/-- What a region that is asked to serve becomes. -/
def servedRegion (mask : Nat) (k : Region) (x : RegionSt) : RegionSt :=
  if bitAt mask k.val = true ∧ x.state = 2 ∧ (x.failed = false ∨ x.test3 = true) then serving x else x

theorem servedRegion_core (mask : Nat) (k : Region) (x : RegionSt) : servedRegion mask k (coreRegion x) = coreRegion (servedRegion mask k x) := by
  unfold servedRegion
  rw [apply_ite coreRegion]
  rfl

theorem coreRegion_state {x y : RegionSt} (same : coreRegion x = coreRegion y) : x.state = y.state := (congrArg RegionSt.state same :)

theorem coreRegion_failed {x y : RegionSt} (same : coreRegion x = coreRegion y) : x.failed = y.failed := (congrArg RegionSt.failed same :)

/-- The entry of a region that serves again. -/
def serveEntry (g : Nat) : HealthEntry := { HealthEntry.of 23 g with region := some g }

/-- The programs of a region are written again. -/
def reprogrammed (s : State) (g : Nat) : State := s.plans.loaded.foldl (fun s p => writePrograms s p.low fun t => t / 32 == g) s

theorem serveOne_eq (mask : Nat) (s : State) (g : Nat) : serveOne mask s g =
    if bitAt mask g = true ∧ (s.reg8 (Fin.ofNat 8 g)).state = 2 ∧ ((s.reg8 (Fin.ofNat 8 g)).failed = false ∨ (s.reg8 (Fin.ofNat 8 g)).test3 = true)
    then reprogrammed (logHealth (s.modRegion (Fin.ofNat 8 g) serving) (serveEntry g)) g else s := by
  unfold serveOne
  refine if_congr ?_ rfl rfl
  simp [and_assoc]

theorem serveOne_core (mask : Nat) (s : State) {g : Nat} (low : g < 8) (k : Region) :
    coreRegion ((serveOne mask s g).reg8 k) = if k.val = g then servedRegion mask k (coreRegion (s.reg8 k)) else coreRegion (s.reg8 k) := by
  have work : Works (fun _ _ => False) (s.modRegion (Fin.ofNat 8 g) serving) (reprogrammed (logHealth (s.modRegion (Fin.ofNat 8 g) serving) (serveEntry g)) g) :=
    works_foldl (works_logHealth (works_refl _)) fun _ _ => works_writePrograms
  have core := bare_core (works_bare (fun _ _ no => no.elim) work) k
  rw [serveOne_eq, servedRegion_core]
  generalize reprogrammed (logHealth (s.modRegion (Fin.ofNat 8 g) serving) (serveEntry g)) g = u at *
  rw [reg8_modRegion s low] at core
  by_cases same : k.val = g
  · obtain rfl : k = Fin.ofNat 8 g := Fin.ext (same.trans (Nat.mod_eq_of_lt low).symm)
    rw [if_pos same] at core ⊢
    unfold servedRegion
    rw [same]
    split
    · exact core
    · rfl
  · rw [if_neg same] at core ⊢
    split
    · exact core
    · rfl

/-- Every region named that may serve does; the rest of each region stays. -/
theorem serveRegions_core (s : State) (mask : Nat) (k : Region) : coreRegion ((serveRegions s mask).reg8 k) = coreRegion (servedRegion mask k (s.reg8 k)) := by
  have all := (foldl_eachRegion (F := serveOne mask) (val := fun v k => coreRegion (v.reg8 k)) (next := servedRegion mask) (Inv := fun _ => True)
    (fun v g low _ => ⟨trivial, serveOne_core mask v low⟩) (List.range 8) List.nodup_range range_low (v := s) trivial).2 k
  have last := bare_core (works_bare granted_bare (works_serveImages (E := Granted) (fun _ _ => id) (works_refl ((List.range 8).foldl (serveOne mask) s)))) k
  rw [serveRegions_eq]
  exact last.trans (all.trans ((if_pos (mem_range_region k)).trans (servedRegion_core mask k _)))

/-- Serving logs and changes regions, where no plan is loaded. -/
theorem serveRegions_idle (idle : idleModule s) (mask : Nat) : (∀ k, (serveRegions s mask).reg8 k = servedRegion mask k (s.reg8 k)) ∧
    { serveRegions s mask with regions := s.regions, health := s.health, out := s.out, cnt := s.cnt, pegs := s.pegs, fns := s.fns } = s := by
  have all := foldl_eachRegion (F := serveOne mask) (val := State.reg8) (next := servedRegion mask)
    (Inv := fun v => { v with regions := s.regions, health := s.health, out := s.out, cnt := s.cnt, pegs := s.pegs, fns := s.fns } = s)
    (fun v g low frame => ?_) (List.range 8) List.nodup_range range_low (v := s) rfl
  · obtain ⟨frame, each⟩ := all
    rw [serveRegions_eq]
    generalize (List.range 8).foldl (serveOne mask) s = u at *
    rw [serveImages_idle u ((congrArg (fun v : State => v.sched.jobs) frame :).trans idle.1)]
    exact ⟨fun k => (each k).trans (if_pos (mem_range_region k)), frame⟩
  · have none : ∀ e, reprogrammed (logHealth (v.modRegion (Fin.ofNat 8 g) serving) e) g = logHealth (v.modRegion (Fin.ofNat 8 g) serving) e := by
      intro e
      have plans : (logHealth (v.modRegion (Fin.ofNat 8 g) serving) e).plans.loaded = [] := by
        rw [logHealth_plans]
        exact (congrArg (fun v : State => v.plans.loaded) frame :).trans idle.2.1
      unfold reprogrammed
      rw [plans]
      rfl
    have logged := logHealth_frame (v.modRegion (Fin.ofNat 8 g) serving) (serveEntry g)
    have regions := logHealth_regions (v.modRegion (Fin.ofNat 8 g) serving) (serveEntry g)
    rw [serveOne_eq, none]
    generalize logHealth (v.modRegion (Fin.ofNat 8 g) serving) (serveEntry g) = u at *
    have outer : { u with regions := s.regions, health := s.health, out := s.out, cnt := s.cnt, pegs := s.pegs, fns := s.fns } = s :=
      (congrArg (fun v : State => { v with regions := s.regions, health := s.health, out := s.out, cnt := s.cnt, pegs := s.pegs, fns := s.fns }) logged :).trans frame
    have own : ∀ k, u.reg8 k = if k.val = g then serving (v.reg8 k) else v.reg8 k := fun k =>
      (congrArg (fun w => w[k.val]) regions).trans (reg8_modRegion v low serving k)
    refine ⟨?_, fun k => ?_⟩
    · split
      · exact outer
      · exact frame
    · by_cases same : k.val = g
      · obtain rfl : k = Fin.ofNat 8 g := Fin.ext (same.trans (Nat.mod_eq_of_lt low).symm)
        rw [if_pos same]
        unfold servedRegion
        rw [same]
        split
        · exact (own _).trans (if_pos same)
        · rfl
      · rw [if_neg same]
        split
        · exact (own k).trans (if_neg same)
        · rfl

end

end Sys2Proof.Machine

open Sys2Proof Sys2Proof.Machine

/-- Settles O18: each region settles by itself; serving logs, writes programs and lets the scheduler run, none of which touches a region beside its tiles. -/
theorem drainAndServe : Obligations.DrainAndServe := by
  refine ⟨fun s m => ⟨⟨drainRegions s m.toNat, rfl, fun named => ?_, drainRegions_none, ?_⟩, serveRegions s m.toNat, rfl, fun g => ⟨fun asked drained may => ?_, fun unasked => ?_⟩⟩,
    fun s m idle => ⟨fun named => ?_, serveRegions s m.toNat, rfl, serveRegions_idle idle m.toNat⟩⟩
  · rw [drainRegions_some named]
    exact (settleDrains_marked (drainReady_frame s m.toNat) (drainReady_region s m.toNat)).2
  · by_cases named : ∃ g : Region, bitAt m.toNat g.val = true ∧ (s.reg8 g).state = 0
    · rw [drainRegions_some named]
      exact (settleDrains_marked (drainReady_frame s m.toNat) (drainReady_region s m.toNat)).1.1
    · rw [drainRegions_none fun g asked serving => named ⟨g, asked, serving⟩]
  · have core := serveRegions_core s m.toNat g
    unfold servedRegion at core
    rw [if_pos ⟨asked, drained, may⟩] at core
    exact ⟨coreRegion_state core, coreRegion_failed core⟩
  · have core := serveRegions_core s m.toNat g
    unfold servedRegion at core
    rw [if_neg unasked] at core
    exact ⟨coreRegion_state core, coreRegion_failed core⟩
  · obtain ⟨⟨-, kept⟩, states⟩ := settleDrains_marked (drainReady_frame s m.toNat) (drainReady_region s m.toNat)
    refine ⟨settleDrains (drainReady s m.toNat), congrArg Host.Outcome.next (drainRegions_some named), states, fun g => ?_, drainRegions_idle idle⟩
    exact stateless_restored (kept g)

end

section
/-! PROOF. Bring-up from S0 to S6 and the regions' firmware (R398, R399, R413, R448). -/

namespace Sys2Proof.Machine

open Sys2Proof

section
variable {s : State}

/-! ### The ROM -/

/-- The module as the ROM finds it: its straps read, the machine port in its mode. -/
def strapsRead (s : State) (f : RomFacts) : State :=
  { s with boot := { s.boot with mpOctal := f.mpOctal, recoveryStrap := f.recoveryStrap, flashSingle := f.flashSingle },
           port := { s.port with octal := f.mpOctal, dummies := 20 } }

section
variable {f : RomFacts} (stage : s.boot.stage = 1) (first : s.sec.logCount = 0) (normal : s.boot.recovery = false)
include stage first normal

theorem exec_romBoot : exec (.romBoot f) s = if !f.pufOk then .next { strapsRead s f with boot := { (strapsRead s f).boot with pufFail := true } }
    else match if f.recoveryStrap then none else (slotOrder s.sec.flash).find? fun x => imageQualifies (readRecords s).sec.floor x.2 with
      | some (slot, i) => .next (bootImage (readRecords (strapsRead s f)) slot i)
      | none => .next { readRecords (strapsRead s f) with boot := { (strapsRead s f).boot with recovery := true } } := by
  change execRomBoot f s = _
  unfold execRomBoot
  rw [if_neg (by simp [stage, first, normal])]
  rfl

theorem romBoot_recovers (puf : f.pufOk = true) (none : (if f.recoveryStrap then none else (slotOrder s.sec.flash).find? fun x => imageQualifies (readRecords s).sec.floor x.2) = none) :
    ∃ t, exec (.romBoot f) s = .next t ∧ t.boot.recovery = true ∧ t.boot.stage = 1 ∧ t.sec.logCount = 0 ∧ { t with boot := s.boot, sec := s.sec, port := s.port } = s := by
  refine ⟨{ readRecords (strapsRead s f) with boot := { (strapsRead s f).boot with recovery := true } }, ?_, rfl, stage, first, rfl⟩
  rw [exec_romBoot stage first normal, none, puf]
  rfl

theorem romBoot_boots {slot : Bool} {i : FlashImage} (puf : f.pufOk = true) (strap : f.recoveryStrap = false)
    (found : ((slotOrder s.sec.flash).find? fun x => imageQualifies (readRecords s).sec.floor x.2) = some (slot, i)) :
    ∃ t, exec (.romBoot f) s = .next t ∧ t.boot.slot = slot ∧ t.boot.recovery = false ∧ t.boot.stage = 1 ∧ t.sec.version = i.version ∧ t.sec.logCount = 3 ∧
      t.boot.mpOctal = f.mpOctal ∧ t.port.octal = f.mpOctal ∧ { t with boot := s.boot, sec := s.sec, port := s.port } = s := by
  refine ⟨bootImage (readRecords (strapsRead s f)) slot i, ?_, rfl, rfl, stage, rfl, ?_, rfl, rfl, rfl⟩
  · rw [exec_romBoot stage first normal]
    simp only [puf, strap, Bool.not_true, Bool.false_eq_true, if_false, found]
  · exact congrArg (· + 3) first

end

/-- The newer slot that qualifies is found first. -/
theorem slotOrder_find {fl : Flash} {q : FlashImage → Bool} {slot : Bool} {i : FlashImage} (here : (if slot then fl.slotB else fl.slotA) = some i) (good : q i = true)
    (newest : ∀ k, (if slot then fl.slotA else fl.slotB) = some k → q k = false ∨ k.version < i.version) :
    ((slotOrder fl).find? fun x => q x.2) = some (slot, i) := by
  cases slot with
  | true =>
    have b : fl.slotB = some i := here
    cases a : fl.slotA with
    | none => simp [slotOrder, a, b, good]
    | some k =>
      rcases newest k a with bad | older
      · by_cases older : k.version < i.version <;> simp [slotOrder, a, b, good, bad, older]
      · simp [slotOrder, a, b, good, older]
  | false =>
    have a : fl.slotA = some i := here
    cases b : fl.slotB with
    | none => simp [slotOrder, a, b, good]
    | some k =>
      rcases newest k b with bad | older
      · by_cases newer : i.version < k.version <;> simp [slotOrder, a, b, good, bad, newer]
      · simp [slotOrder, a, b, good, Nat.lt_asymm older]

/-! ### The regions' firmware -/

theorem loadRegion_reg8 (s : State) (r g : Region) : (loadRegion s r).reg8 g = if g = r then { s.reg8 g with fw := some s.sec.regionImage } else s.reg8 g := by
  have regions : (loadRegion s r).reg8 g = (s.modRegion r fun x => { x with fw := some s.sec.regionImage }).reg8 g := rfl
  rw [regions]
  split
  · next own => rw [own, State.modRegion_same]
  · next other => exact State.modRegion_other s (Ne.symm other) _

theorem loadRegions (gs : List Region) (s : State) : let v := gs.foldl loadRegion s
    { v with sec := s.sec, regions := s.regions } = s ∧ v.sec.regionImage = s.sec.regionImage ∧ v.sec.logCount = s.sec.logCount + gs.length ∧
    ∀ g, (v.reg8 g).fw = if g ∈ gs then some s.sec.regionImage else (s.reg8 g).fw := by
  induction gs generalizing s with
  | nil => exact ⟨rfl, rfl, rfl, fun g => (if_neg List.not_mem_nil).symm⟩
  | cons r gs ih =>
    obtain ⟨frame, image, count, each⟩ := ih (loadRegion s r)
    rw [List.foldl_cons]
    generalize gs.foldl loadRegion (loadRegion s r) = v at *
    refine ⟨(congrArg (fun w : State => { w with sec := s.sec, regions := s.regions }) frame :), image, count.trans ?_, fun g => (each g).trans ?_⟩
    · rw [List.length_cons]
      exact Nat.add_right_comm ..
    · by_cases later : g ∈ gs
      · rw [if_pos later, if_pos (List.mem_cons_of_mem _ later)]
        rfl
      · rw [if_neg later]
        by_cases own : g = r
        · subst own
          rw [if_pos List.mem_cons_self]
          rw [loadRegion_reg8, if_pos rfl]
        · rw [if_neg fun mem => later ((List.mem_cons.mp mem).resolve_left own)]
          rw [loadRegion_reg8, if_neg own]

/-- The module with its regions' firmware running. -/
def regionsLoaded (s : State) : State := { allRegions.foldl loadRegion s with boot := { (allRegions.foldl loadRegion s).boot with stage := 3 } }

theorem exec_regionFirmwareLoaded (stage : s.boot.stage = 2) : exec .regionFirmwareLoaded s = .next (pumpAll (regionsLoaded s)) := by
  change Host.Outcome.next (if s.boot.stage = 2 then _ else s) = _
  rw [if_pos stage]
  rfl

theorem regionsLoaded_fixed : (regionsLoaded s).fixed = (s.pending, 3, s.port.table) := by
  have frame := (loadRegions allRegions s).1
  unfold regionsLoaded
  generalize allRegions.foldl loadRegion s = v at *
  exact (congrArg (fun w : State => (w.pending, 3, w.port.table)) frame :)

theorem regionFirmware_stage (stage : s.boot.stage = 2) :
    ∃ t, exec .regionFirmwareLoaded s = .next t ∧ t.boot.stage = 3 ∧ t.pending = s.pending ∧ t.port.table = s.port.table := by
  have fixed : (pumpAll (regionsLoaded s)).fixed = (s.pending, 3, s.port.table) := (fixed_pumpAll _).trans regionsLoaded_fixed
  refine ⟨_, exec_regionFirmwareLoaded stage, ?_⟩
  generalize pumpAll (regionsLoaded s) = t at *
  exact ⟨congrArg (·.2.1) fixed, congrArg (·.1) fixed, congrArg (·.2.2) fixed⟩

theorem regionFirmware_quiet (stage : s.boot.stage = 2) (still : quiet s = true) :
    ∃ t, exec .regionFirmwareLoaded s = .next t ∧ t.boot = { s.boot with stage := 3 } ∧ (∀ g : Region, (t.reg8 g).fw = some s.sec.regionImage) ∧
      t.sec.logCount = s.sec.logCount + 8 ∧ { t with boot := s.boot, sec := s.sec, regions := s.regions } = s := by
  obtain ⟨frame, -, count, each⟩ := loadRegions allRegions s
  have ran := exec_regionFirmwareLoaded stage
  unfold regionsLoaded at ran
  generalize allRegions.foldl loadRegion s = v at *
  have calm : quiet { v with boot := { v.boot with stage := 3 } } = true := (congrArg quiet frame :).trans still
  rw [pumpAll_quiet _ calm] at ran
  have boot : v.boot = s.boot := (congrArg State.boot frame :)
  refine ⟨_, ran, by rw [boot], fun g => (each g).trans (if_pos (mem_allRegions g)), count, ?_⟩
  exact (congrArg (fun w : State => { w with boot := s.boot }) frame :)

/-! ### The later stages -/

theorem endFirstLights_frame (s : State) : { allTracks.foldl endFirstLight s with trackA := s.trackA, trackB := s.trackB } = s :=
  foldl_keeps (fun u : State => { u with trackA := s.trackA, trackB := s.trackB } = s) _ (fun u k same => by
    unfold endFirstLight
    split
    · cases k <;> exact same
    · exact same) _ _ rfl

theorem dramTrained_stage (stage : s.boot.stage = 3) : ∃ t, exec (.dramTrained true) s = .next t ∧ t.boot = { s.boot with stage := 4 } ∧
    { t with boot := s.boot, trackA := s.trackA, trackB := s.trackB } = s := by
  have frame := endFirstLights_frame { s with boot := { s.boot with stage := 4 } }
  have ran : exec (.dramTrained true) s = .next (allTracks.foldl endFirstLight { s with boot := { s.boot with stage := 4 } }) := by
    change Host.Outcome.next (if s.boot.stage = 3 then _ else s) = _
    rw [if_pos stage]
    rfl
  refine ⟨_, ran, ?_⟩
  generalize allTracks.foldl endFirstLight { s with boot := { s.boot with stage := 4 } } = t at *
  exact ⟨(congrArg State.boot frame :), (congrArg (fun w : State => { w with boot := s.boot }) frame :)⟩

theorem bringupS5_stage (stage : s.boot.stage = 4) (over' : firstLightOver s = true) : ∃ t, exec .bringupS5Start s = .next t ∧ t.boot = { s.boot with stage := 5 } ∧
    (∀ a, memByte t.store.mem a = 0) ∧ { t with boot := s.boot, store := s.store } = s := by
  refine ⟨{ s with boot := { s.boot with stage := 5 }, store := { s.store with mem := [], marks := [], due := [] } }, ?_, rfl, fun _ => rfl, rfl⟩
  exact congrArg Host.Outcome.next (if_pos ⟨stage, over'⟩)

/-! ### The fabric's tests -/

/-- The fabric once its bad rows and tiles are dealt with. -/
def fabricTested (s : State) (rows : List (Nat × Nat × Nat)) (tiles : List Nat) : State := allRegions.foldl (s5Region tiles) (rows.foldl s5Row s)

theorem exec_fabricTestsDone (stage : s.boot.stage = 5) (rows : List (Nat × Nat × Nat)) (tiles : List Nat) : exec (.fabricTestsDone rows tiles) s = .next
    (if allRegions.all fun g => ((fabricTested s rows tiles).reg8 g).failed
     then { fabricTested s rows tiles with boot := { (fabricTested s rows tiles).boot with fabricFail := true } }
     else pumpAll { fabricTested s rows tiles with boot := { (fabricTested s rows tiles).boot with stage := 6 } }) := by
  change Host.Outcome.next (if s.boot.stage = 5 then _ else s) = _
  rw [if_pos stage]
  rfl

theorem fixed_fabricTested (s : State) (rows : List (Nat × Nat × Nat)) (tiles : List Nat) : (fabricTested s rows tiles).fixed = s.fixed :=
  foldl_keeps (fun u : State => u.fixed = s.fixed) _ (fun u _ same => (fixed_s5Region u).trans same) _ _
    (foldl_keeps (fun u : State => u.fixed = s.fixed) _ (fun u _ same => (fixed_s5Row u).trans same) _ _ rfl)

theorem upsets_s5Region {s₀ : State} {tiles : List Nat} {g : Region} (h : Upsets (fun _ => True) s₀ s) : Upsets (fun _ => True) s₀ (s5Region tiles s g) := by
  unfold s5Region
  dsimp only
  split
  · exact upsets_regionError trivial h
  · exact works_foldl h fun _ _ => upsets_failTile

/-- A region with more bad tiles than spares is lost. -/
theorem fabricTested_lost {tiles : List Nat} {g : Region} (short : (s.reg8 g).spares < (tiles.eraseDups.filter fun x => x / 32 == g.val).length) :
    ((fabricTested s [] tiles).reg8 g).failed = true := by
  obtain ⟨before, after, split⟩ := List.append_of_mem (mem_allRegions g)
  unfold fabricTested
  rw [split, List.foldl_append, List.foldl_cons, List.foldl_nil]
  have first : Upsets (fun _ => True) s (before.foldl (s5Region tiles) s) := works_foldl (works_refl s) fun _ _ => upsets_s5Region
  have few := (upsets_sinks g first).spares
  generalize before.foldl (s5Region tiles) s = u at *
  have lost : s5Region tiles u g = regionError u g 12 := if_pos (by omega)
  have rest : Upsets (fun _ => True) (regionError u g 12) (after.foldl (s5Region tiles) (regionError u g 12)) := works_foldl (works_refl _) fun _ _ => upsets_s5Region
  rw [lost]
  exact (upsets_sinks g rest).failed (regionError_region u g 12).1

theorem coreRegion_of_host {s t : State} (host : hostPart t = hostPart s) (g : Region) : coreRegion (t.reg8 g) = coreRegion (s.reg8 g) :=
  congrFun (congrArg (·.2.2.2) host) g

theorem pumpAll_failed (s : State) (g : Region) : ((pumpAll s).reg8 g).failed = (s.reg8 g).failed :=
  coreRegion_failed (coreRegion_of_host (pumps_hostPart (pumps_pumpAll (works_refl s))) g)

theorem fabricTestsDone_ends (stage : s.boot.stage = 5) (rows : List (Nat × Nat × Nat)) (tiles : List Nat) : ∃ t, exec (.fabricTestsDone rows tiles) s = .next t ∧
    (t.boot.stage = 6 ∨ t.boot.stage = 5 ∧ t.boot.fabricFail = true ∧ ∀ g : Region, (t.reg8 g).failed = true) ∧
    ∀ g : Region, rows = [] → (s.reg8 g).spares < (tiles.eraseDups.filter fun x => x / 32 == g.val).length → (t.reg8 g).failed = true := by
  have ran := exec_fabricTestsDone stage rows tiles
  have fixed := fixed_fabricTested s rows tiles
  have lost : ∀ g : Region, rows = [] → (s.reg8 g).spares < (tiles.eraseDups.filter fun x => x / 32 == g.val).length → ((fabricTested s rows tiles).reg8 g).failed = true := by
    rintro g rfl short
    exact fabricTested_lost short
  generalize fabricTested s rows tiles = u at *
  by_cases all : (allRegions.all fun g => (u.reg8 g).failed) = true
  · rw [if_pos all] at ran
    refine ⟨_, ran, .inr ⟨(congrArg (·.2.1) fixed).trans stage, rfl, fun g => ?_⟩, lost⟩
    exact List.all_eq_true.mp all g (mem_allRegions g)
  · rw [if_neg all] at ran
    have stages := congrArg (·.2.1) (fixed_pumpAll { u with boot := { u.boot with stage := 6 } })
    have fails := pumpAll_failed { u with boot := { u.boot with stage := 6 } }
    refine ⟨_, ran, ?_⟩
    generalize pumpAll { u with boot := { u.boot with stage := 6 } } = t at *
    exact ⟨.inl stages, fun g none short => (fails g).trans (lost g none short)⟩

theorem fabricTested_none (s : State) : fabricTested s [] [] = s := by
  refine foldl_fixed allRegions fun g _ => ?_
  unfold s5Region
  exact if_neg (Nat.not_lt_zero _)

theorem fabricTestsDone_clean (stage : s.boot.stage = 5) (sound : ∃ g : Region, (s.reg8 g).failed = false) :
    ∃ t, exec (.fabricTestsDone [] []) s = .next t ∧ t.boot.stage = 6 ∧ t.pending = s.pending ∧ t.port.table = s.port.table := by
  obtain ⟨g, works⟩ := sound
  have ran := exec_fabricTestsDone stage [] []
  rw [fabricTested_none, if_neg fun all => by
    have failed := List.all_eq_true.mp all g (mem_allRegions g)
    rw [works] at failed
    exact nomatch failed] at ran
  have fixed := fixed_pumpAll { s with boot := { s.boot with stage := 6 } }
  refine ⟨_, ran, ?_⟩
  generalize pumpAll { s with boot := { s.boot with stage := 6 } } = t at *
  exact ⟨congrArg (·.2.1) fixed, congrArg (·.1) fixed, congrArg (·.2.2) fixed⟩

end

end Sys2Proof.Machine

open Sys2Proof Sys2Proof.Machine

/-- Settles O15: each event is the stage's own command, and no region that its tests lost comes back before the pump runs. -/
theorem bringUp : Obligations.BringUp := by
  refine ⟨fun s => ⟨fun f stage first normal puf => ⟨fun slot i strap here good newest => ?_, fun unfit => ?_, fun strap => ?_⟩, fun f stage first normal puf => ?_, fun stage first => ?_,
    regionFirmware_stage, dramTrained_stage, fun stage => ?_, bringupS5_stage, fun rows tiles stage => fabricTestsDone_ends stage rows tiles, fabricTestsDone_clean,
    fun stage lost => ?_⟩, fun s => regionFirmware_quiet⟩
  · exact romBoot_boots stage first normal puf strap (slotOrder_find here good newest)
  · refine romBoot_recovers stage first normal puf ?_
    have missing : ((slotOrder s.sec.flash).find? fun x => imageQualifies (readRecords s).sec.floor x.2) = none := by
      refine List.find?_eq_none.mpr fun x mem => ?_
      have bad := List.all_eq_true.mp unfit x mem
      simpa using bad
    rw [missing, ite_self]
  · exact romBoot_recovers stage first normal puf (if_pos strap)
  · refine ⟨{ strapsRead s f with boot := { (strapsRead s f).boot with pufFail := true } }, ?_, rfl, stage, rfl, rfl⟩
    rw [exec_romBoot stage first normal, puf]
    rfl
  · exact congrArg Host.Outcome.next (if_pos ⟨stage, first⟩)
  · exact congrArg Host.Outcome.next (if_pos stage)
  · have ran := exec_fabricTestsDone stage [] []
    rw [fabricTested_none, if_pos (List.all_eq_true.mpr fun g _ => lost g)] at ran
    exact ran

end

section
/-! PROOF. The pieces of a track: what a change of one leaves of it, and what a discard makes of it (R23, R83, R84). -/

namespace Sys2Proof.Machine

open Sys2Proof

section
variable {s t : State} {k : Track} {n : Nat}

/-! ### Finding a piece -/

theorem find_num_map {xs : List Piece} {g : Piece → Piece} (num : ∀ p, (g p).num = p.num) :
    (xs.map g).find? (fun p => p.num == n) = (xs.find? fun p => p.num == n).map g := by
  rw [List.find?_map]
  congr 2
  funext p
  exact congrArg (· == n) (num p)

theorem modPiece_pieces (s : State) (k : Track) (n : Nat) (f : Piece → Piece) : ((modPiece s k n f).track k).pieces = mapWhere (fun p => p.num == n) f (s.track k).pieces :=
  congrArg TrackState.pieces (State.modTrack_same ..)

theorem modPiece_other (s : State) {k q : Track} (n : Nat) (f : Piece → Piece) (other : k ≠ q) : (modPiece s k n f).track q = s.track q := State.modTrack_other s other _

theorem findPiece_modPiece_same {f : Piece → Piece} (num : ∀ p, (f p).num = p.num) : findPiece (modPiece s k n f) k n = (findPiece s k n).map f := by
  unfold findPiece
  rw [modPiece_pieces]
  unfold mapWhere
  rw [find_num_map fun p => by split <;> simp [num]]
  cases found : (s.track k).pieces.find? fun p => p.num == n with
  | none => rfl
  | some p => rw [Option.map_some, Option.map_some, if_pos (List.find?_some (p := fun p : Piece => p.num == n) found)]

theorem findPiece_modPiece_other {q : Track} {m : Nat} {f : Piece → Piece} (num : ∀ p, (f p).num = p.num) (other : (k, n) ≠ (q, m)) :
    findPiece (modPiece s k n f) q m = findPiece s q m := by
  unfold findPiece
  by_cases same : k = q
  · subst same
    rw [modPiece_pieces]
    unfold mapWhere
    rw [find_num_map fun p => by split <;> simp [num]]
    cases found : (s.track k).pieces.find? fun p => p.num == m with
    | none => rfl
    | some p =>
      have hit := beq_iff_eq.mp (List.find?_some (p := fun p : Piece => p.num == m) found)
      rw [Option.map_some, if_neg fun here => other (congrArg (k, ·) ((beq_iff_eq.mp here).symm.trans hit))]
  · rw [modPiece_other s n f same]

theorem findPiece_of_track (same : t.track k = s.track k) : findPiece t k n = findPiece s k n := by
  unfold findPiece
  rw [same]

theorem pieces_of_tracks (same : (t.trackA, t.trackB) = (s.trackA, s.trackB)) (q : Track) : t.track q = s.track q := by
  obtain ⟨a, b⟩ := Prod.mk.inj same
  cases q
  · exact a
  · exact b

/-! ### Ending a job leaves the tracks -/

/-- Both tracks. -/
def tracksOf (s : State) : TrackState × TrackState := (s.trackA, s.trackB)

theorem modTile_tracks (s : State) (n : Nat) (f : TileSt → TileSt) : tracksOf (s.modTile n f) = tracksOf s := rfl

theorem freeLane_tracks (j : Job) (s : State) (l : Lane) : tracksOf (freeLane j s l) = tracksOf s := by
  have freed : tracksOf (l.tiles.foldl (fun s t => s.modTile t fun x => { x with job := none, idleSince := s.now }) s) = tracksOf s :=
    foldl_keeps (fun u : State => tracksOf u = tracksOf s) _ (fun u n same => (modTile_tracks u n _).trans same) _ _ rfl
  unfold freeLane
  dsimp only
  generalize l.tiles.foldl (fun s t => s.modTile t fun x => { x with job := none, idleSince := s.now }) s = u at *
  split <;> exact freed

theorem releaseJob_tracks (s : State) (j : Job) : tracksOf (releaseJob s j) = tracksOf s := by
  have freed : tracksOf ((j.lanes.filter fun l => l.state != .run).foldl (freeLane j) s) = tracksOf s :=
    foldl_keeps (fun u : State => tracksOf u = tracksOf s) _ (fun u l same => (freeLane_tracks j u l).trans same) _ _ rfl
  unfold releaseJob
  dsimp only
  generalize (j.lanes.filter fun l => l.state != .run).foldl (freeLane j) s = u at *
  split <;> exact freed

theorem finishJob_tracks (s : State) (j : Job) (b : Bool) : tracksOf (finishJob s j b) = tracksOf s := by
  have released := releaseJob_tracks s ((findJob s j.id).getD j)
  unfold finishJob
  dsimp only
  generalize releaseJob s ((findJob s j.id).getD j) = u at *
  split <;> split <;> exact released

theorem stopPiece_track (s : State) (k : Track) (n : Nat) (q : Track) : (stopPiece s k n).track q = s.track q := by
  refine pieces_of_tracks (t := stopPiece s k n) ?_ q
  exact foldl_keeps (fun u : State => tracksOf u = tracksOf s) _ (fun u j same => (finishJob_tracks u j false).trans same) _ _ rfl

/-! ### A piece that is discarded -/

/-- A piece that is discarded: it has a status, and is in its fold. -/
def discarded (st : Status) (p : Piece) : Piece := { p with status := st, inFold := true }

theorem reachCommit_track (s : State) (key : FoldKey) (q : Track) : (reachCommit s key).track q = s.track q := by
  unfold reachCommit
  dsimp only
  split
  · rfl
  · cases q <;> rfl

theorem verdictFold_pieces (s : State) (k : Track) (n : Nat) :
    ((verdictFold s k n).track k).pieces = mapWhere (fun p => p.num == n) (fun p => { p with inFold := true }) (s.track k).pieces := by
  have marked := modPiece_pieces s k n fun p => { p with inFold := true }
  unfold verdictFold
  dsimp only
  split
  · rw [reachCommit_track, marked]
  · exact marked

/-- A discard gives every piece of the number, where the first is live, its status and its fold. -/
theorem discardPiece_pieces {y : Piece} (st : Status) (found : findPiece s k n = some y) : ((discardPiece s k n st).track k).pieces =
    if y.live then mapWhere (fun p => p.num == n) (discarded st) (s.track k).pieces else (s.track k).pieces := by
  unfold discardPiece
  rw [found]
  dsimp only
  split
  · rw [verdictFold_pieces, stopPiece_track, modPiece_pieces]
    unfold mapWhere
    rw [List.map_map]
    refine List.map_congr_left fun p _ => ?_
    simp only [Function.comp]
    by_cases hit : p.num == n
    · rw [if_pos hit, if_pos hit, if_pos hit]
      rfl
    · rw [if_neg hit, if_neg hit, if_neg hit]
  · rfl

theorem discardPiece_found {st : Status} {y : Piece} (found : findPiece s k n = some y) (live : y.live = true) :
    findPiece (discardPiece s k n st) k n = some (discarded st y) := by
  have marked := findPiece_modPiece_same (s := s) (k := k) (n := n) (f := discarded st) fun _ => rfl
  have same : findPiece (discardPiece s k n st) k n = findPiece (modPiece s k n (discarded st)) k n := by
    unfold findPiece
    rw [discardPiece_pieces st found, if_pos live, modPiece_pieces]
  rw [same, marked, found]
  rfl

theorem findPiece_mem {y : Piece} (found : findPiece s k n = some y) : y ∈ (s.track k).pieces ∧ y.num = n :=
  ⟨List.mem_of_find?_eq_some found, beq_iff_eq.mp (List.find?_some (p := fun p : Piece => p.num == n) found)⟩

end

end Sys2Proof.Machine
end

section
/-! PROOF. The ends of a piece (R14, R23, R81, R83, R84). -/

namespace Sys2Proof.Machine

open Sys2Proof

section
variable {s t u s₀ : State} {k : Track} {y : Piece} {n cause : Nat}

/-! ### Discards for geometry -/

theorem live_unposted (live : y.live = true) : y.posted = false := by
  unfold Piece.live at live
  simp only [Bool.and_eq_true, Bool.not_eq_true'] at live
  exact live.2

theorem exists_diagged (found : findPiece s k n = some y) {kind : Nat} {sd : Side} {line value : Nat} :
    findPiece (diagPiece s k n kind sd line value) k n = some { y with diag := addDiag y.diag kind sd line value } := by
  unfold diagPiece
  rw [findPiece_modPiece_same (by exact fun _ => rfl), found]
  rfl

theorem geomDiscard_foldedAs (found : findPiece s k n = some y) (live : y.live = true) :
    ∃ z ∈ ((geomDiscard s k n cause).track k).pieces, z.num = n ∧ z.status = .pageGeometry ∧ z.inFold = true ∧ z.posted = false := by
  have done : geomDiscard s k n cause = (discardPiece (diagPiece s k n 6 .front (pieceLine s k y) cause) k n .pageGeometry).portCnt (s.frontPort k) 14 := by
    unfold geomDiscard discardGeometry
    simp only [found, live, if_true]
  have there := discardPiece_found (st := .pageGeometry) (exists_diagged found (kind := 6) (sd := .front) (line := pieceLine s k y) (value := cause)) live
  rw [done]
  generalize discardPiece (diagPiece s k n 6 .front (pieceLine s k y) cause) k n .pageGeometry = v at *
  obtain ⟨mem, num⟩ := findPiece_mem there
  have unposted := live_unposted live
  rw [State.portCnt_track]
  exact ⟨_, mem, num, rfl, rfl, unposted⟩

theorem prunePieces_pieces (s : State) (k : Track) : ((prunePieces s k).track k).pieces =
    (s.track k).pieces.filter fun p => !(p.posted && (p.T.isSome || p.line0.isNone) && linesCommitted s k p) := congrArg TrackState.pieces (State.modTrack_same ..)

theorem prunePieces_keeps {z : Piece} (mem : z ∈ (s.track k).pieces) (unposted : z.posted = false) : z ∈ ((prunePieces s k).track k).pieces := by
  rw [prunePieces_pieces]
  exact List.mem_filter.mpr ⟨mem, by rw [unposted]; rfl⟩

theorem prunePieces_sub {z : Piece} (mem : z ∈ ((prunePieces s k).track k).pieces) : z ∈ (s.track k).pieces := by
  rw [prunePieces_pieces] at mem
  exact (List.mem_filter.mp mem).1

/-- The piece that has not seen its first line in time. -/
def lateLead (s : State) (k : Track) : Option Piece :=
  (s.track k).pieces.find? fun y => y.line0.isNone && y.live && decide (y.edgeLine + (((s.lp (s.frontPort k)).cfg.leadWin : Nat) : Int) ≤ (s.track k).frontPos)

/-- The piece that is too long. -/
def lateTrail (s : State) (k : Track) : Option Piece :=
  (s.track k).pieces.find? fun y => y.T.isNone && y.live && (match y.line0 with
    | some l => decide (l + (((s.lp (s.frontPort k)).cfg.lmax + (s.lp (s.frontPort k)).cfg.trail : Nat) : Int) ≤ (s.track k).frontPos)
    | none => false)

theorem leadingEdge_discards (found : findPiece s k y.num = some y) (late : lateLead s k = some y) : ∃ t, exec (.leadingEdgeTimeout k) s = .next t ∧
    (∃ z ∈ (t.track k).pieces, z.num = y.num ∧ z.status = .pageGeometry ∧ z.inFold = true) ∧ keeps s t := by
  have live : y.live = true := by
    have hit := List.find?_some late
    simp only [Bool.and_eq_true] at hit
    exact hit.1.2
  have ran : exec (.leadingEdgeTimeout k) s = .next (prunePieces (geomDiscard s k y.num 1) k) := by
    change (match lateLead s k with | some y => _ | none => _) = _
    rw [late]
  refine ⟨_, ran, ?_, keeps_of_staysNext (cmd_leadingEdgeTimeout k s) ran⟩
  obtain ⟨z, mem, num, status, inFold, posted⟩ := geomDiscard_foldedAs (cause := 1) found live
  exact ⟨z, prunePieces_keeps mem posted, num, status, inFold⟩

theorem overlength_discards (found : findPiece s k y.num = some y) (late : lateTrail s k = some y) : ∃ t, exec (.overlength k) s = .next t ∧
    (∃ z ∈ (t.track k).pieces, z.num = y.num ∧ z.status = .pageGeometry ∧ z.inFold = true) ∧ keeps s t := by
  have live : y.live = true := by
    have hit := List.find?_some late
    simp only [Bool.and_eq_true] at hit
    exact hit.1.2
  have ran : exec (.overlength k) s = .next (geomDiscard s k y.num 2) := by
    change (match lateTrail s k with | some y => _ | none => _) = _
    rw [late]
  refine ⟨_, ran, ?_, keeps_of_staysNext (cmd_overlength k s) ran⟩
  obtain ⟨z, mem, num, status, inFold, -⟩ := geomDiscard_foldedAs (cause := 2) found live
  exact ⟨z, mem, num, status, inFold⟩

/-! ### What the end of a gap writes -/

/-- A piece beside its notes. -/
def undiag (p : Piece) : Piece := { p with diag := [] }

/-- Only ports, counters and the notes on pieces differ. -/
def gapOnly (s t : State) : Prop :=
  { t with ports := s.ports, cnt := s.cnt, trackA := s.trackA, trackB := s.trackB } = s ∧ ∀ q, (t.track q).pieces.map undiag = (s.track q).pieces.map undiag

theorem gapOnly_refl : gapOnly s s := ⟨rfl, fun _ => rfl⟩

theorem gapOnly_trans (h : gapOnly s t) (k : gapOnly t u) : gapOnly s u :=
  ⟨(congrArg (fun v : State => { v with ports := s.ports, cnt := s.cnt, trackA := s.trackA, trackB := s.trackB }) k.1 :).trans h.1, fun q => (k.2 q).trans (h.2 q)⟩

theorem gapOnly_modPort (s : State) (p : Port) (g : PortState → PortState) : gapOnly s (s.modPort p g) := ⟨rfl, fun q => by cases q <;> rfl⟩

theorem gapOnly_portCnt (s : State) (p : Port) (i m : Nat) : gapOnly s (s.portCnt p i m) := ⟨rfl, fun q => by cases q <;> rfl⟩

theorem map_modPiece {β : Type} {f : Piece → Piece} {g : Piece → β} (same : ∀ p, g (f p) = g p) (q : Track) : ((modPiece s k n f).track q).pieces.map g = (s.track q).pieces.map g := by
  by_cases own : k = q
  · subst own
    rw [modPiece_pieces]
    unfold mapWhere
    rw [List.map_map]
    refine List.map_congr_left fun p _ => ?_
    simp only [Function.comp]
    split
    · exact same p
    · rfl
  · rw [modPiece_other s n f own]

theorem gapOnly_diagPiece (s : State) (k : Track) (n kind : Nat) (sd : Side) (line value : Nat) : gapOnly s (diagPiece s k n kind sd line value) :=
  ⟨by cases k <;> rfl, map_modPiece fun _ => rfl⟩

theorem gapOnly_gapUpdate (s : State) (p : Port) : gapOnly s (gapUpdate s p) := by
  unfold gapUpdate
  dsimp only
  split
  · exact gapOnly_modPort ..
  · split
    · exact gapOnly_trans (gapOnly_modPort ..) (gapOnly_portCnt ..)
    · split
      · have counted : ∀ f, gapOnly s ((s.modPort p f).portCnt p 9) := fun f => gapOnly_trans (gapOnly_modPort ..) (gapOnly_portCnt ..)
        split
        · exact gapOnly_trans (counted _) (gapOnly_diagPiece ..)
        · exact counted _
      · exact gapOnly_trans (gapOnly_modPort ..) (gapOnly_portCnt ..)

theorem gapOnly_closeGap (s : State) (p : Port) : gapOnly s (closeGap s p) := by
  unfold closeGap
  split
  · exact gapOnly_gapUpdate s p
  · exact gapOnly_refl

theorem gapOnly_openGap (s : State) (k : Track) (n : Nat) (e : Int) : gapOnly s (openGap s k n e) :=
  foldl_keeps (gapOnly s) _ (fun u _ h => gapOnly_trans h (gapOnly_trans (gapOnly_modPort u _ _) (gapOnly_closeGap _ _))) _ _ gapOnly_refl

theorem gapOnly_findPiece (h : gapOnly s t) : (findPiece t k n).map undiag = (findPiece s k n).map undiag := by
  have pick (xs : List Piece) : (xs.find? fun p => p.num == n).map undiag = (xs.map undiag).find? fun p => p.num == n := (find_num_map (g := undiag) fun _ => rfl).symm
  unfold findPiece
  rw [pick, pick, h.2 k]

/-! ### What pressing a side leaves of the pieces -/

/-- What of a piece stands once its trailing edge is known. -/
structure Outline where
  num : Nat
  T : Option Nat
  due : Nat
  line0 : Option Int
  posted : Bool

def Piece.outline (p : Piece) : Outline := ⟨p.num, p.T, p.due, p.line0, p.posted⟩

/-- The further changes of pressing a side: the gap's, and those of a piece that leave its outline. -/
inductive Pressed (s : State) : State → Prop
  | gap {t : State} (h : gapOnly s t) : Pressed s t
  | piece (k : Track) (n : Nat) (f : Piece → Piece) (kept : ∀ p, (f p).outline = p.outline) : Pressed s (modPiece s k n f)

abbrev Presses : State → State → Prop := Works Pressed

theorem presses_modPiece {f : Piece → Piece} (kept : ∀ p, (f p).outline = p.outline) (h : Presses s₀ s) : Presses s₀ (modPiece s k n f) := h.tail (.extra (.piece k n f kept))

theorem works_feedInput {E : State → State → Prop} {sd} (h : Works E s₀ s) : Works E s₀ (feedInput s k n sd) := by
  unfold feedInput
  split
  · exact h
  · split
    · exact works_when (works_modJob (fun _ => ⟨rfl, rfl, rfl, rfl, id⟩) fun _ => id) h
    · exact h

theorem presses_buildPiece (h : Presses s₀ s) : Presses s₀ (buildPiece s k n) := by
  unfold buildPiece
  split
  · exact h
  · exact works_unless (fun h => works_setBuilding (presses_modPiece (fun _ => rfl) h)) h

/-- A side's image joins its piece. -/
def imageJoined (s : State) (k : Track) (n : Nat) (i : Image) (fl : Bool) : State :=
  let s := modPiece s k n fun y => { y with images := y.images ++ [i] }
  if fl then setBuilding s (pieceKey n) (buildingOf s (pieceKey n) + align32 i.len) else buildPiece s k n

/-- At first light a piece with every side pressed goes to its fold. -/
def firstLightFold (s : State) (k : Track) (n : Nat) : State := match findPiece s k n with
  | some y => if (s.track k).sides.all fun z => (y.side z.1).pressed then verdictFold s k n else s
  | none => s

/-- One side pressed of a piece whose lines are all there. -/
def sidePressed (s : State) (k : Track) (n : Nat) (p : Port) (pc : Piece) (w : SkewSt) (T : Nat) : State :=
  let cfg := (s.lp p).cfg
  let s := feedInput (modPiece s k n fun y => y.modSide cfg.side fun z => { z with pressed := true }) k n cfg.side
  let fl := (s.track k).firstLight
  let s := if fl || bitAt cfg.imgOut 0 then imageJoined s k n (sideRaw s k pc p w T) fl else s
  if fl then firstLightFold s k n else s

theorem pressSideDone_eq (s : State) (k : Track) (n : Nat) (p : Port) : pressSideDone s k n p = match findPiece s k n with
    | none => s
    | some pc => match (pc.side (s.lp p).cfg.side).skew, pc.T with
      | some w, some T => if (pc.side (s.lp p).cfg.side).pressed || !pc.live || (smFind (pc.side (s.lp p).cfg.side).lines T).isNone then s else sidePressed s k n p pc w T
      | _, _ => s := rfl

theorem presses_imageJoined {i fl} (h : Presses s₀ s) : Presses s₀ (imageJoined s k n i fl) := by
  have joined : Presses s₀ (modPiece s k n fun y => { y with images := y.images ++ [i] }) := presses_modPiece (fun _ => rfl) h
  exact works_ite (works_setBuilding joined) (presses_buildPiece joined)

theorem works_firstLightFold {E : State → State → Prop} (h : Works E s₀ s) : Works E s₀ (firstLightFold s k n) := by
  unfold firstLightFold
  split
  · exact works_when works_verdictFold h
  · exact h

theorem modSide_outline (p : Piece) (sd : Side) (f : PieceSide → PieceSide) : (p.modSide sd f).outline = p.outline := by cases sd <;> rfl

theorem presses_sidePressed {p pc w T} (h : Presses s₀ s) : Presses s₀ (sidePressed s k n p pc w T) := by
  have fed := works_feedInput (k := k) (n := n) (sd := (s.lp p).cfg.side)
    (presses_modPiece (k := k) (n := n) (f := fun y => y.modSide (s.lp p).cfg.side fun z => { z with pressed := true }) (fun y => modSide_outline y _ _) h)
  unfold sidePressed
  dsimp only
  generalize feedInput (modPiece s k n fun y => y.modSide (s.lp p).cfg.side fun z => { z with pressed := true }) k n (s.lp p).cfg.side = u at *
  exact works_when works_firstLightFold (works_when presses_imageJoined fed)

theorem presses_pressSideDone {p} (h : Presses s₀ s) : Presses s₀ (pressSideDone s k n p) := by
  rw [pressSideDone_eq]
  split
  · exact h
  · split
    · exact works_unless presses_sidePressed h
    · exact h

theorem map_undiag_outline {xs zs : List Piece} (same : xs.map undiag = zs.map undiag) : xs.map Piece.outline = zs.map Piece.outline := by
  have each (ps : List Piece) : ps.map Piece.outline = (ps.map undiag).map Piece.outline := by
    rw [List.map_map]
    rfl
  rw [each, same, ← each]

theorem map_bare_outline {xs zs : List Piece} (same : xs.map barePiece = zs.map barePiece) : xs.map Piece.outline = zs.map Piece.outline := by
  have each (ps : List Piece) : ps.map Piece.outline = (ps.map barePiece).map Piece.outline := by
    rw [List.map_map]
    rfl
  rw [each, same, ← each]

theorem bare_pieces (same : bare t = bare s) (q : Track) : (t.track q).pieces.map barePiece = (s.track q).pieces.map barePiece :=
  (congrArg TrackState.pieces (bare_track same q) :)

/-- Pressing leaves the outlines of the pieces. -/
theorem presses_outlines (h : Presses s t) (q : Track) : (t.track q).pieces.map Piece.outline = (s.track q).pieces.map Piece.outline := by
  refine works_same (f := fun u : State => (u.track q).pieces.map Piece.outline) (fun u v w => ?_) h
  rcases work_cases w with plain | more
  · exact map_bare_outline (bare_pieces (work_bare_plain plain) q)
  · cases more with
    | gap h => exact map_undiag_outline (h.2 q)
    | piece k n f kept => exact map_modPiece (g := Piece.outline) kept q

/-! ### The trailing edge -/

/-- The piece whose paper has ended. -/
def pieceEnded (s : State) (k : Track) : Option Piece :=
  (s.track k).pieces.find? fun y => y.line0.isSome && y.T.isNone && decide ((s.lp (s.frontPort k)).cfg.trail ≤ y.blank)

/-- A piece with its trailing edge. -/
def edged (T : Nat) (y : Piece) : Piece := { y with T := some T, due := T + y.due }

/-- The module with the piece's trailing edge known, and the gap after it open. -/
def edgeFound (s : State) (k : Track) (y : Piece) : State :=
  openGap (modPiece s k y.num (edged y.lastPaper)) k y.num (y.line0.getD 0 + ((y.lastPaper : Nat) : Int))

/-- The sides of the piece are pressed where their lines are there. -/
def sidesPressed (s : State) (k : Track) (n : Nat) : State := (s.track k).portsOf.foldl (fun s p => pressSideDone s k n p) s

theorem exec_trailingEdgeFound (ended : pieceEnded s k = some y) :
    exec (.trailingEdgeFound k) s = .next (schedule (prunePieces (sidesPressed (edgeFound s k y) k y.num) k)) := by
  change (match pieceEnded s k with | none => _ | some y => _) = _
  rw [ended]
  rfl

theorem edgeFound_pressed (s : State) (k : Track) (y : Piece) : Presses (modPiece s k y.num (edged y.lastPaper)) (sidesPressed (edgeFound s k y) k y.num) :=
  works_foldl ((works_refl _).tail (.extra (.gap (gapOnly_openGap ..)))) fun _ _ => presses_pressSideDone

/-- The outlines after the edge are those of the pieces, the one named with its edge. -/
theorem edgeFound_outlines (s : State) (k : Track) (y : Piece) : ((sidesPressed (edgeFound s k y) k y.num).track k).pieces.map Piece.outline =
    (mapWhere (fun p => p.num == y.num) (edged y.lastPaper) (s.track k).pieces).map Piece.outline := by
  rw [presses_outlines (edgeFound_pressed s k y) k, modPiece_pieces]

theorem schedule_outlines (s : State) (k : Track) : ((schedule s).track k).pieces.map Piece.outline = (s.track k).pieces.map Piece.outline :=
  map_bare_outline (bare_pieces (works_bare (fun _ _ no => no.elim) (works_schedule (E := fun _ _ => False) (works_refl s))) k)

theorem trailingEdge_found (found : findPiece s k y.num = some y) (ended : pieceEnded s k = some y) : ∃ t, exec (.trailingEdgeFound k) s = .next t ∧
    (∀ z ∈ (t.track k).pieces, z.num = y.num → z.T = some y.lastPaper) ∧ keeps s t ∧
    (y.posted = false → ∃ z ∈ (t.track k).pieces, z.num = y.num ∧ z.T = some y.lastPaper ∧ z.due = y.lastPaper + y.due ∧ z.line0 = y.line0) := by
  have ran := exec_trailingEdgeFound ended
  have pressed := edgeFound_outlines s k y
  have stays := keeps_of_staysNext (cmd_trailingEdgeFound k s) ran
  generalize sidesPressed (edgeFound s k y) k y.num = u at *
  have last := schedule_outlines (prunePieces u k) k
  generalize schedule (prunePieces u k) = t at *
  refine ⟨t, ran, fun z mem num => ?_, stays, fun unposted => ?_⟩
  · have listed : z.outline ∈ ((prunePieces u k).track k).pieces.map Piece.outline := last ▸ List.mem_map_of_mem mem
    obtain ⟨w, kept, same⟩ := List.mem_map.mp listed
    have edge : w.outline ∈ (mapWhere (fun p => p.num == y.num) (edged y.lastPaper) (s.track k).pieces).map Piece.outline :=
      pressed ▸ List.mem_map_of_mem (prunePieces_sub kept)
    obtain ⟨v, wide, same'⟩ := List.mem_map.mp edge
    obtain ⟨x, -, made⟩ := List.mem_map.mp wide
    have own : z.outline = v.outline := same.symm.trans same'.symm
    have vnum : v.num = y.num := (congrArg Outline.num own :).symm.trans num
    have vT : v.T = some y.lastPaper := by
      by_cases hit : x.num == y.num
      · rw [← made, if_pos hit]
        rfl
      · rw [if_neg hit] at made
        subst made
        exact absurd (beq_iff_eq.mpr vnum) hit
    exact (congrArg Outline.T own :).trans vT
  · have here : (edged y.lastPaper y).outline ∈ (u.track k).pieces.map Piece.outline := by
      rw [pressed]
      exact List.mem_map_of_mem (mem_mapWhere_hit (List.mem_of_find?_eq_some found) (beq_self_eq_true _))
    obtain ⟨w, mem, same⟩ := List.mem_map.mp here
    have kept : w ∈ ((prunePieces u k).track k).pieces := prunePieces_keeps mem ((congrArg Outline.posted same :).trans unposted)
    have there : w.outline ∈ (t.track k).pieces.map Piece.outline := last ▸ List.mem_map_of_mem kept
    obtain ⟨z, listed, same'⟩ := List.mem_map.mp there
    have own : z.outline = (edged y.lastPaper y).outline := same'.trans same
    exact ⟨z, listed, (congrArg Outline.num own :), (congrArg Outline.T own :), (congrArg Outline.due own :), (congrArg Outline.line0 own :)⟩

/-! ### With no side to press -/

theorem pressSideDone_unpressed {p : Port} (found : findPiece s k n = some y) (front : y.front.skew = none) (back : y.back.skew = none) : pressSideDone s k n p = s := by
  have none : (y.side (s.lp p).cfg.side).skew = none := by cases (s.lp p).cfg.side <;> assumption
  rw [pressSideDone_eq, found]
  dsimp only
  rw [none]

theorem trailingEdge_alone (found : findPiece s k y.num = some y) (ended : pieceEnded s k = some y) (front : y.front.skew = none) (back : y.back.skew = none)
    (unposted : y.posted = false) (idle : s.sched.jobs = []) : ∃ t, exec (.trailingEdgeFound k) s = .next t ∧
    (∃ z ∈ (t.track k).pieces, z.num = y.num ∧ z.T = some y.lastPaper ∧ z.due = y.lastPaper + y.due ∧ z.status = y.status) ∧
    { t with ports := s.ports, cnt := s.cnt, trackA := s.trackA, trackB := s.trackB } = s := by
  have ran := exec_trailingEdgeFound ended
  have gap : gapOnly (modPiece s k y.num (edged y.lastPaper)) (edgeFound s k y) := gapOnly_openGap ..
  have marked : findPiece (modPiece s k y.num (edged y.lastPaper)) k y.num = some (edged y.lastPaper y) := by
    rw [findPiece_modPiece_same (by exact fun _ => rfl), found]
    rfl
  have frame : { modPiece s k y.num (edged y.lastPaper) with ports := s.ports, cnt := s.cnt, trackA := s.trackA, trackB := s.trackB } = s := by cases k <;> rfl
  generalize modPiece s k y.num (edged y.lastPaper) = m at *
  generalize edgeFound s k y = u at *
  have there := gapOnly_findPiece (k := k) (n := y.num) gap
  rw [marked] at there
  obtain ⟨w, here, same⟩ := Option.map_eq_some_iff.mp there
  have still : sidesPressed u k y.num = u := foldl_fixed _ fun p _ =>
    pressSideDone_unpressed here ((congrArg (fun p : Piece => p.front.skew) same :).trans front) ((congrArg (fun p : Piece => p.back.skew) same :).trans back)
  have like : { u with ports := s.ports, cnt := s.cnt, trackA := s.trackA, trackB := s.trackB } = s :=
    (congrArg (fun v : State => { v with ports := s.ports, cnt := s.cnt, trackA := s.trackA, trackB := s.trackB }) gap.1 :).trans frame
  have pruned : { prunePieces u k with ports := s.ports, cnt := s.cnt, trackA := s.trackA, trackB := s.trackB } = s := by cases k <;> exact like
  have none : (prunePieces u k).sched.jobs = [] := (congrArg (fun v : State => v.sched.jobs) pruned :).trans idle
  rw [still, schedule_idle _ none] at ran
  refine ⟨_, ran, ⟨w, prunePieces_keeps (List.mem_of_find?_eq_some here) ((congrArg Piece.posted same :).trans unposted), ?_⟩, pruned⟩
  exact ⟨(congrArg Piece.num same :), (congrArg Piece.T same :), (congrArg Piece.due same :), (congrArg Piece.status same :)⟩

end

end Sys2Proof.Machine

open Sys2Proof Sys2Proof.Machine

/-- Settles O55: a discard's status and fold stand through the work that follows it, and the edge that is found stands in the piece's outline. -/
theorem pieceEnds : Obligations.PieceEnds :=
  fun _ _ _ found => ⟨leadingEdge_discards found, overlength_discards found, trailingEdge_found found, trailingEdge_alone found⟩

end

section
/-! PROOF. Gap updates and restarts (R54 to R57, R67). -/

namespace Sys2Proof.Machine

open Sys2Proof

section
variable {s t u : State} {p q : Port} {k : Track} {n : Nat}

/-! ### Gap updates -/

/-- What a gap update settles of a port. -/
structure GapPart where
  building : Option CoefSet
  queued : Option (CoefSet × Int)
  inUse : Option CoefSet
  deadCols : List Nat
  gapDiscards : Nat
  strip : StripSt

def gapPart (x : PortState) : GapPart := ⟨x.building, x.queued, x.inUse, x.deadCols, x.gapDiscards, x.strip⟩

theorem diagDead_ports (s : State) (k : Track) (n : Nat) (sd : Side) (dead : List Nat) : (diagDead s k n sd dead).ports = s.ports :=
  foldl_keeps (fun u : State => u.ports = s.ports) _ (fun u c same => by
    refine Eq.trans ?_ same
    cases k <;> rfl) _ _ rfl

theorem lampsOff_gapPart (s : State) (p q : Port) : gapPart ((lampsOff s p).lp q) = gapPart (s.lp q) := by
  obtain ⟨⟨-, others, own⟩, -⟩ := lightsOnly_lampsOff s p
  by_cases same : q = p
  · subst same
    exact (congrArg gapPart own :)
  · rw [others q same]

/-- The notes of dead columns on the pieces that have not begun. -/
def deadNoted (s : State) (p : Port) (dead : List Nat) : State :=
  let t := (s.lp p).cfg.track
  let s := s.modPort p fun x => { x with deadCols := dead }
  ((s.track t).pieces.filter fun y => y.line0.isNone && y.live).foldl (fun s y => diagDead s t y.num (s.lp p).cfg.side dead) s

/-- The lamps of the port give way to the one that its dead columns spare. -/
def lampRecovered (s : State) (p : Port) (dead : List Nat) (t : Track) : State :=
  let third := (s.track t).portsOf.any fun q => (s.lp q).switchedBy.isSome
  let s := (lampsOff s p).modPort p fun x => { x with cfg := { x.cfg with switched := true }, switchedBy := some (recoveryLine x.cfg.offs dead), colLines := [],
                                                      trigs := [], nextPos := (s.track t).encLine + 1 }
  sendSync (s.modTrack t fun x => { x with hold := { x.hold with rate := true }, held := true, rateReq := true,
                                           armedMax := if third then x.armedMax else x.armedMax / 3 })

theorem deadRecovery_eq (s : State) (p : Port) (dead : List Nat) : deadRecovery s p dead = if dead.isEmpty then s
    else if ((deadNoted s p dead).lp p).cfg.switched || !Config.lampsSwitchable p.val then deadNoted s p dead
    else lampRecovered (deadNoted s p dead) p dead (s.lp p).cfg.track := rfl

theorem deadNoted_gapPart (s : State) (p : Port) (dead : List Nat) : gapPart ((deadNoted s p dead).lp p) = gapPart { s.lp p with deadCols := dead } := by
  have ports : (deadNoted s p dead).ports = (s.modPort p fun x => { x with deadCols := dead }).ports :=
    foldl_keeps (fun u : State => u.ports = (s.modPort p fun x => { x with deadCols := dead }).ports) _ (fun u y same => (diagDead_ports u ..).trans same) _ _ rfl
  have lp : (deadNoted s p dead).lp p = (s.modPort p fun x => { x with deadCols := dead }).lp p := congrArg (fun v => v[p.val]) ports
  rw [lp, State.modPort_same]

theorem lampRecovered_gapPart (s : State) (p : Port) (dead : List Nat) (k : Track) : gapPart ((lampRecovered s p dead k).lp p) = gapPart (s.lp p) := by
  have off := lampsOff_gapPart s p p
  unfold lampRecovered
  dsimp only
  rw [sendSync_lp]
  generalize lampsOff s p = u at *
  have ports (v : State) (g : TrackState → TrackState) : (v.modTrack k g).lp p = v.lp p := by cases k <;> rfl
  rw [ports, State.modPort_same]
  exact off

theorem deadRecovery_gapPart {dead : List Nat} (some : dead ≠ []) : gapPart ((deadRecovery s p dead).lp p) = gapPart { s.lp p with deadCols := dead } := by
  rw [deadRecovery_eq, if_neg (by simpa using some)]
  split
  · exact deadNoted_gapPart s p dead
  · exact (lampRecovered_gapPart ..).trans (deadNoted_gapPart s p dead)

theorem deadRecovery_none : deadRecovery s p [] = s := rfl

/-- The set that was being built is queued behind the set in use. -/
def setQueued (s : State) (p : Port) (c : CoefSet) : State := s.modPort p fun x => { x with building := none, queued := some (c, x.strip.lastPos) }

theorem exec_gapUpdateBuilt {c : CoefSet} (built : ((closeGap s p).lp p).building = some c) : exec (.gapUpdateBuilt p) s =
    .next (if ((closeGap s p).lp p).cfg.switched then setQueued (closeGap s p) p c else deadRecovery (setQueued (closeGap s p) p c) p (deadColours c)) := by
  have switched : ((setQueued (closeGap s p) p c).lp p).cfg.switched = ((closeGap s p).lp p).cfg.switched := by
    unfold setQueued
    rw [State.modPort_same]
  rw [← switched]
  change (match ((closeGap s p).lp p).building with | none => Host.Outcome.next (closeGap s p) | some k => _) = _
  rw [built]
  rfl

theorem closeGap_open (none : (s.lp p).strip.stop = none) : closeGap s p = s := by
  unfold closeGap
  rw [none]
  rfl

/-- The port with a set queued, whatever its dead columns then bring. -/
theorem gapUpdateBuilt_queues {c : CoefSet} (built : ((closeGap s p).lp p).building = some c) : ∃ t, exec (.gapUpdateBuilt p) s = .next t ∧ keeps s t ∧
    ∃ dead, gapPart (t.lp p) = ⟨none, some (c, ((closeGap s p).lp p).strip.lastPos), ((closeGap s p).lp p).inUse, dead, ((closeGap s p).lp p).gapDiscards, ((closeGap s p).lp p).strip⟩ ∧
      (((closeGap s p).lp p).cfg.switched = false → deadColours c ≠ [] → dead = deadColours c) := by
  have ran := exec_gapUpdateBuilt built
  refine ⟨_, ran, keeps_of_staysNext (cmd_gapUpdateBuilt p s) ran, ?_⟩
  generalize closeGap s p = u at *
  have queued : (setQueued u p c).lp p = { u.lp p with building := none, queued := some (c, (u.lp p).strip.lastPos) } := State.modPort_same ..
  cases switched : (u.lp p).cfg.switched with
  | true => exact ⟨(u.lp p).deadCols, congrArg gapPart queued, nofun⟩
  | false =>
    rw [if_neg Bool.false_ne_true]
    by_cases dead : deadColours c = []
    · rw [dead, deadRecovery_none]
      exact ⟨(u.lp p).deadCols, congrArg gapPart queued, fun _ no => absurd rfl no⟩
    · exact ⟨deadColours c, by rw [deadRecovery_gapPart dead, queued]; rfl, fun _ _ => rfl⟩

/-- The set that the strip of a gap gives. -/
def gapSet (x : PortState) (k : CoefSet) : CoefSet :=
  let one := fun i => gapColour x.cfg.tol (x.cfg.target.getD i 0) x.strip.n (x.strip.sum.getD i []) (coefCol k i)
  { r := one 0, g := one 1, b := one 2 }

/-- A gap that ends with lines enough and values enough gives the port its new set. -/
theorem gapUpdate_builds {c : CoefSet} (use : (s.lp p).inUse = some c) (lines : (s.lp p).cfg.gapLines ≤ (s.lp p).strip.n)
    (few : ∀ i ∈ [0, 1, 2], 256 * keptCount (coefCol (gapSet (s.lp p) c) i) ≤ (s.lp p).cfg.maxFrac * (coefCol (gapSet (s.lp p) c) i).length) :
    gapUpdate s p = (s.modPort p fun y => { y with strip := { y.strip with start := none, stop := none, n := 0, sum := [] }, gapDiscards := 0,
                                                   building := some (gapSet (s.lp p) c) }).portCnt p 8 := by
  have enough : ([0, 1, 2].any fun i => decide ((s.lp p).cfg.maxFrac * (coefCol (gapSet (s.lp p) c) i).length < 256 * keptCount (coefCol (gapSet (s.lp p) c) i))) = false :=
    List.any_eq_false.mpr fun i mem => by simpa using few i mem
  unfold gapUpdate
  dsimp only
  rw [use]
  dsimp only
  rw [if_neg (by omega)]
  exact if_neg (by rw [Bool.not_eq_true]; exact enough)

/-! ### A restart that resumes -/

/-- Each port of a list is changed alike, the others not at all. -/
theorem foldl_modPort_lp {g : PortState → PortState} (twice : ∀ x, g (g x) = g x) (ps : List Port) (s : State) (q : Port) :
    (ps.foldl (fun s p => s.modPort p g) s).lp q = if q ∈ ps then g (s.lp q) else s.lp q := by
  induction ps generalizing s with
  | nil => exact (if_neg List.not_mem_nil).symm
  | cons p ps ih =>
    rw [List.foldl_cons, ih]
    by_cases same : p = q
    · subst same
      rw [State.modPort_same, twice, ite_self, if_pos List.mem_cons_self]
    · rw [State.modPort_other s same]
      exact if_congr (by rw [List.mem_cons, or_iff_right (Ne.symm same)]) rfl rfl

/-- A port that resumes after a line. -/
def resumed (n : Int) (x : PortState) : PortState := { x with check := [], colLines := [], nextPos := n + 1 }

/-- The note of a restart on a piece. -/
def restartNoted (n sh : Int) (y : Piece) : Piece := { y with restarted := true, diag := addDiag y.diag 7 .front (n - y.line0.getD 0).toNat (toBits sh 32) }

/-- A track that resumes after line `n`. -/
def trackResumed (n sh : Int) (x : TrackState) : TrackState :=
  { x with phase := x.unwrapped - n * x.divisor + sh * x.divisor, encLine := n, highMark := x.position, restart := none, restartBad := false, lastLine := none }

theorem resumeAt_eq (s : State) (k : Track) (n sh : Int) : resumeAt s k n sh =
    let u := s.modTrack k (trackResumed n sh)
    ((u.track k).portsOf.foldl (fun s p => s.modPort p (resumed n)) u).modTrack k fun x => { x with pieces := mapWhere inFlight (restartNoted n sh) x.pieces } := rfl

theorem modTrack_lp (s : State) (k : Track) (g : TrackState → TrackState) (p : Port) : (s.modTrack k g).lp p = s.lp p := by cases k <;> rfl

theorem portsOf_resumed (n sh : Int) (x : TrackState) : (trackResumed n sh x).portsOf = x.portsOf := rfl

theorem resumeAt_shows (s : State) (k : Track) (n sh : Int) : let t := resumeAt s k n sh
    (t.track k).restart = none ∧ (t.track k).encLine = n ∧ (∀ p ∈ (s.track k).portsOf, (t.lp p).nextPos = n + 1) ∧
    (∀ y ∈ (t.track k).pieces, inFlight y = true → y.restarted = true) ∧ { t with ports := s.ports, trackA := s.trackA, trackB := s.trackB } = s := by
  have here : (s.modTrack k (trackResumed n sh)).track k = trackResumed n sh (s.track k) := State.modTrack_same ..
  have frame : { s.modTrack k (trackResumed n sh) with ports := s.ports, trackA := s.trackA, trackB := s.trackB } = s := by cases k <;> rfl
  rw [resumeAt_eq]
  generalize s.modTrack k (trackResumed n sh) = u at *
  have ports : (u.track k).portsOf = (s.track k).portsOf := by rw [here, portsOf_resumed]
  have each := foldl_modPort_lp (g := resumed n) (fun _ => rfl) (u.track k).portsOf u
  have track := foldl_modPort_track (fun p => p) (fun _ => resumed n) (u.track k).portsOf u k
  have rest := foldl_modPort_frame (fun p => p) (fun _ => resumed n) (u.track k).portsOf u
  dsimp only
  generalize (u.track k).portsOf.foldl (fun s p => s.modPort p (resumed n)) u = v at *
  rw [State.modTrack_same, track, here]
  refine ⟨rfl, rfl, fun p mem => ?_, fun y mem flying => ?_, ?_⟩
  · rw [modTrack_lp, each p, if_pos (ports ▸ mem)]
    rfl
  · obtain ⟨x, -, made⟩ := exists_of_mem_mapWhere mem
    by_cases flew : inFlight x = true
    · rw [made, if_pos flew]
      rfl
    · rw [made, if_neg flew] at flying
      exact absurd flying flew
  · have like : { v with ports := s.ports, trackA := s.trackA, trackB := s.trackB } = s :=
      (congrArg (fun w : State => { w with ports := s.ports, trackA := s.trackA, trackB := s.trackB }) rest :).trans frame
    cases k <;> exact like

/-! ### A restart that fails -/

theorem findPiece_discardPiece_other {m : Nat} (st : Status) (other : m ≠ n) : findPiece (discardPiece s k m st) k n = findPiece s k n := by
  have marked := findPiece_modPiece_other (s := s) (k := k) (n := m) (q := k) (m := n) (f := discarded st) (fun _ => rfl) fun same => other (Prod.mk.inj same).2
  cases found : findPiece s k m with
  | none =>
    unfold discardPiece
    rw [found]
  | some y =>
    have pieces := discardPiece_pieces st found
    by_cases live : y.live = true
    · rw [if_pos live, ← modPiece_pieces] at pieces
      rw [← marked]
      unfold findPiece
      rw [pieces]
    · rw [if_neg live] at pieces
      unfold findPiece
      rw [pieces]

/-- The piece is live, or discarded with this status. -/
def liveOrDiscarded (k : Track) (n : Nat) (st : Status) (s : State) : Prop := ∃ z, findPiece s k n = some z ∧ (z.live = true ∨ z.status = st ∧ z.inFold = true)

def discardedAs (k : Track) (n : Nat) (st : Status) (s : State) : Prop := ∃ z, findPiece s k n = some z ∧ z.status = st ∧ z.inFold = true

theorem discardPiece_discardedAs {st : Status} (may : liveOrDiscarded k n st s) : discardedAs k n st (discardPiece s k n st) := by
  obtain ⟨z, found, way⟩ := may
  by_cases live : z.live = true
  · exact ⟨_, discardPiece_found found live, rfl, rfl⟩
  · have same : discardPiece s k n st = s := by
      unfold discardPiece
      rw [found]
      exact if_neg live
    rw [same]
    exact ⟨z, found, way.resolve_left live⟩

theorem discardedAs_may {st : Status} (h : discardedAs k n st s) : liveOrDiscarded k n st s := by
  obtain ⟨z, found, done⟩ := h
  exact ⟨z, found, .inr done⟩

theorem discardPiece_keepsDiscarded {st : Status} (m : Nat) (h : discardedAs k n st s) : discardedAs k n st (discardPiece s k m st) := by
  by_cases same : m = n
  · subst same
    exact discardPiece_discardedAs (discardedAs_may h)
  · unfold discardedAs
    rw [findPiece_discardPiece_other st same]
    exact h

theorem discardPiece_keepsMay {st : Status} (m : Nat) (h : liveOrDiscarded k n st s) : liveOrDiscarded k n st (discardPiece s k m st) := by
  by_cases same : m = n
  · subst same
    exact discardedAs_may (discardPiece_discardedAs h)
  · unfold liveOrDiscarded
    rw [findPiece_discardPiece_other st same]
    exact h

/-- Of pieces discarded one after the other, each that was live is discarded. -/
theorem discardPieces_discardedAs {st : Status} {ps : List Piece} {y : Piece} (mem : y ∈ ps) (found : findPiece s k y.num = some y) (live : y.live = true) :
    discardedAs k y.num st (ps.foldl (fun s p => discardPiece s k p.num st) s) := by
  obtain ⟨before, after, split⟩ := List.append_of_mem mem
  rw [split, List.foldl_append, List.foldl_cons]
  have first : liveOrDiscarded k y.num st (before.foldl (fun s p => discardPiece s k p.num st) s) :=
    foldl_keeps (liveOrDiscarded k y.num st) _ (fun _ (p : Piece) => discardPiece_keepsMay p.num) _ _ ⟨y, found, .inl live⟩
  exact foldl_keeps (discardedAs k y.num st) _ (fun _ (p : Piece) => discardPiece_keepsDiscarded p.num) _ _ (discardPiece_discardedAs first)

/-- The module with its restart given up. -/
def restartGiven (s : State) (k : Track) (st : Status) : State :=
  let e := (s.track k).encLine
  let s := (s.track k).portsOf.foldl (fun s p => s.modPort p (resumed e)) s
  let s := s.modTrack k fun x => { x with restart := none, restartBad := true, frontPos := e, again := some (e + 1) }
  if st = .refeedMismatch then s.portCnt (s.frontPort k) 12 else s

theorem failRestart_eq (s : State) (k : Track) (st : Status) :
    failRestart s k st = (restartPieces s k).foldl (fun s p => discardPiece s k p.num st) (restartGiven s k st) := rfl

theorem restartGiven_shows (s : State) (k : Track) (st : Status) : let t := restartGiven s k st
    t.track k = { s.track k with restart := none, restartBad := true, frontPos := (s.track k).encLine, again := some ((s.track k).encLine + 1) } ∧
    ∀ p ∈ (s.track k).portsOf, (t.lp p).nextPos = (s.track k).encLine + 1 := by
  have each := foldl_modPort_lp (g := resumed (s.track k).encLine) (fun _ => rfl) (s.track k).portsOf s
  have track := foldl_modPort_track (fun p => p) (fun _ => resumed (s.track k).encLine) (s.track k).portsOf s k
  unfold restartGiven
  dsimp only
  generalize (s.track k).portsOf.foldl (fun u p => u.modPort p (resumed (s.track k).encLine)) s = v at *
  have own (g : TrackState → TrackState) : (v.modTrack k g).track k = g (s.track k) := by rw [State.modTrack_same, track]
  have port (g : TrackState → TrackState) (p : Port) (mem : p ∈ (s.track k).portsOf) : ((v.modTrack k g).lp p).nextPos = (s.track k).encLine + 1 := by
    rw [modTrack_lp, each p, if_pos mem]
    rfl
  split
  · exact ⟨(State.portCnt_track ..).trans (own _), port _⟩
  · exact ⟨own _, port _⟩

theorem failRestart_shows (s : State) (k : Track) (st : Status) : let t := failRestart s k st
    (t.track k).restart = none ∧ (t.track k).restartBad = true ∧ (t.track k).encLine = (s.track k).encLine ∧
    (∀ p ∈ (s.track k).portsOf, (t.lp p).nextPos = (s.track k).encLine + 1) ∧
    ∀ y ∈ restartPieces s k, findPiece s k y.num = some y → y.live = true → ∃ z ∈ (t.track k).pieces, z.num = y.num ∧ z.status = st ∧ z.inFold = true := by
  obtain ⟨track, ports⟩ := restartGiven_shows s k st
  rw [failRestart_eq]
  generalize restartGiven s k st = u at *
  have work : Works (fun _ _ => False) u ((restartPieces s k).foldl (fun s p => discardPiece s k p.num st) u) := works_foldl (works_refl u) fun _ _ => works_discardPiece
  have same := works_bare (fun _ _ no => no.elim) work
  have kept := bare_track same k
  rw [track] at kept
  have lp : ∀ p, ((restartPieces s k).foldl (fun s p => discardPiece s k p.num st) u).lp p = u.lp p := fun p => congrArg (fun v => v[p.val]) (bare_ports same)
  refine ⟨(congrArg TrackState.restart kept :), (congrArg TrackState.restartBad kept :), (congrArg TrackState.encLine kept :), fun p mem => ?_, fun y mem found live => ?_⟩
  · rw [lp]
    exact ports p mem
  · have there : findPiece u k y.num = some y := by
      unfold findPiece
      rw [track]
      exact found
    obtain ⟨z, listed, status, inFold⟩ := discardPieces_discardedAs (st := st) mem there live
    obtain ⟨mem, num⟩ := findPiece_mem listed
    exact ⟨z, mem, num, status, inFold⟩

end

end Sys2Proof.Machine
end

section
/-! PROOF. The moves of reservations, and a track's disarming (R54, R67, R79). -/

namespace Sys2Proof.Machine

open Sys2Proof

section
variable {s t u : State} {p q : Port} {k : Track} {n : Nat}

/-! ### What a reservation moves -/

/-- The regions' drain states beside the ports. -/
def stock (s : State) : (Region → Nat) × Vector PortState 4 := (fun g => (s.reg8 g).state, s.ports)

theorem stock_modTile (s : State) (n : Nat) (f : TileSt → TileSt) : stock (s.modTile n f) = stock s := by
  refine Prod.ext (funext fun g => ?_) rfl
  change ((s.modRegion (Fin.ofNat 8 (n / 32)) _).reg8 g).state = _
  by_cases same : Fin.ofNat 8 (n / 32) = g
  · subst same
    rw [State.modRegion_same]
    rfl
  · rw [State.modRegion_other s same]
    rfl

/-- The drain states stay, the port is changed as given and no other. -/
def portOnly (s : State) (p : Port) (x : PortState) (t : State) : Prop :=
  (∀ g, (t.reg8 g).state = (s.reg8 g).state) ∧ t.lp p = x ∧ ∀ q, q ≠ p → t.lp q = s.lp q

theorem portOnly_modPort (same : stock u = stock s) (g : PortState → PortState) : portOnly s p (g (s.lp p)) (u.modPort p g) := by
  have lp (q : Port) : u.lp q = s.lp q := congrArg (fun v : Vector PortState 4 => v[q.val]) (congrArg Prod.snd same)
  refine ⟨fun r => congrFun (congrArg Prod.fst same) r, ?_, fun q other => ?_⟩
  · rw [State.modPort_same, lp]
  · rw [State.modPort_other u other.symm, lp]

theorem releaseTiles_only (s : State) (p : Port) : portOnly s p { s.lp p with reserved := [] } (releaseTiles s p) :=
  portOnly_modPort (foldl_keeps (fun u => stock u = stock s) _ (fun u t kept => (stock_modTile u t.1 _).trans kept) _ _ rfl) fun x => { x with reserved := [] }

theorem tilesTaken_stock (s : State) (p : Port) (ts : List Nat) : stock (ts.foldl (fun s t =>
      (match (s.tile t).job with
        | some j => modJob s j fun x => { x with victim := true }
        | none => s).modTile t fun x => { x with resv := some p }) s) = stock s := by
  refine foldl_keeps (fun u => stock u = stock s) _ (fun u n kept => (stock_modTile ..).trans ?_) _ _ rfl
  split
  · exact kept
  · exact kept

/-- The tiles picked lie in serving regions, and are as many as asked. -/
theorem pickReserved_serving {ts : List Nat} (picked : pickReserved s p n = some ts) :
    n ≤ ts.length ∧ ∀ t ∈ ts, (s.reg8 (Fin.ofNat 8 (t / 32))).state = 0 := by
  unfold pickReserved at picked
  dsimp only at picked
  split at picked
  · exact nomatch picked
  · obtain rfl := Option.some.inj picked
    refine ⟨by rw [List.length_take]; omega, fun t mem => ?_⟩
    have may := (List.mem_filter.mp (mem_sortBy.mp (List.mem_of_mem_take mem))).2
    unfold mayReserve at may
    simp only [Bool.and_eq_true, beq_iff_eq] at may
    exact may.1.1.2

theorem resvDraining_iff : resvDraining s p = true ↔ ∃ x ∈ (s.lp p).reserved, (s.reg8 (Fin.ofNat 8 (x.1 / 32))).state = 1 := by
  unfold resvDraining
  simp only [List.any_eq_true, beq_iff_eq]

theorem resvDraining_serving (serving : ∀ x ∈ (s.lp p).reserved, (s.reg8 (Fin.ofNat 8 (x.1 / 32))).state = 0) : resvDraining s p = false := by
  refine Bool.eq_false_iff.mpr fun drains => ?_
  obtain ⟨x, mem, one⟩ := resvDraining_iff.mp drains
  exact absurd ((serving x mem).symm.trans one) (by decide)

/-- A port's reservation that moves keeps its size and lies in serving regions; nothing of the other ports or of the drain states changes. -/
theorem moveReservation_serving (moved : moveReservation s p = some t) : (∀ g, (t.reg8 g).state = (s.reg8 g).state) ∧ (∀ q, q ≠ p → t.lp q = s.lp q) ∧
    (t.lp p).reserved.length = (s.lp p).reserved.length ∧ resvDraining t p = false := by
  obtain ⟨freed, -, away⟩ := releaseTiles_only s p
  unfold moveReservation at moved
  generalize releaseTiles s p = u at *
  obtain ⟨ts, picked, made⟩ := Option.map_eq_some_iff.mp moved
  obtain ⟨enough, serving⟩ := pickReserved_serving picked
  have only : portOnly u p { u.lp p with reserved := (List.range (s.lp p).reserved.length).map fun i => (ts.getD i 0, b2n (decide (0 < i))) } t :=
    made ▸ portOnly_modPort (tilesTaken_stock u p ts) fun x => { x with reserved := (List.range (s.lp p).reserved.length).map fun i => (ts.getD i 0, b2n (decide (0 < i))) }
  obtain ⟨states, own, others⟩ := only
  refine ⟨fun g => (states g).trans (freed g), fun q other => (others q other).trans (away q other), ?_, resvDraining_serving fun x mem => ?_⟩
  · rw [own]
    change List.length (List.map _ _) = _
    rw [List.length_map, List.length_range]
  · rw [own] at mem
    obtain ⟨i, low, rfl⟩ := List.mem_map.mp mem
    rw [states]
    have inside : i < ts.length := by have := List.mem_range.mp low; omega
    refine serving _ ?_
    rw [List.getD_eq_getElem _ _ inside]
    exact List.getElem_mem inside

/-! ### The reservations of a track -/

/-- A port's reservation moves off the draining regions, if it can. -/
def reservationMoved (s : State) (p : Port) : State := if resvDraining s p then (moveReservation s p).getD s else s

/-- What the moves of reservations keep: the drain states, each reservation's size, and each reservation itself unless it now lies in no draining region. -/
structure ResvKept (s t : State) : Prop where
  states : ∀ g, (t.reg8 g).state = (s.reg8 g).state
  size : ∀ p, (t.lp p).reserved.length = (s.lp p).reserved.length
  kept : ∀ p, resvDraining s p = false → (t.lp p).reserved = (s.lp p).reserved
  moved : ∀ p, (t.lp p).reserved = (s.lp p).reserved ∨ resvDraining t p = false

theorem resvDraining_same (states : ∀ g, (t.reg8 g).state = (s.reg8 g).state) (same : (t.lp p).reserved = (s.lp p).reserved) : resvDraining t p = resvDraining s p := by
  unfold resvDraining
  simp only [states, same]

theorem ResvKept.step (h : ResvKept s u) (p : Port) : ResvKept s (reservationMoved u p) := by
  unfold reservationMoved
  split
  next drains =>
    cases moved : moveReservation u p with
    | none => exact h
    | some t =>
      obtain ⟨states, others, size, clear⟩ := moveReservation_serving moved
      refine ⟨fun g => (states g).trans (h.states g), fun q => ?_, fun q calm => ?_, fun q => ?_⟩
      · by_cases same : q = p
        · rw [same]
          exact size.trans (h.size p)
        · exact (congrArg (fun x : PortState => x.reserved.length) (others q same)).trans (h.size q)
      · have other : q ≠ p := fun same => by
          subst same
          rw [resvDraining_same h.states (h.kept q calm), calm] at drains
          exact Bool.false_ne_true drains
        exact (congrArg PortState.reserved (others q other)).trans (h.kept q calm)
      · by_cases same : q = p
        · rw [same]
          exact .inr clear
        · have like : (t.lp q).reserved = (u.lp q).reserved := congrArg PortState.reserved (others q same)
          exact (h.moved q).imp like.trans fun calm => (resvDraining_same states like).trans calm
  · exact h

theorem reservationsMoved_kept (s : State) (ps : List Port) : ResvKept s (ps.foldl reservationMoved s) :=
  foldl_keeps (ResvKept s) _ (fun _ p h => h.step p) _ _ ⟨fun _ => rfl, fun _ => rfl, fun _ _ => rfl, fun _ => .inl rfl⟩

theorem reservationsMoved_away (s : State) {ps : List Port} (away : p ∉ ps) : (ps.foldl reservationMoved s).lp p = s.lp p := by
  refine foldl_mem_keeps (P := fun u : State => u.lp p = s.lp p) rfl fun u q mem kept => ?_
  unfold reservationMoved
  split
  · cases moved : moveReservation u q with
    | none => exact kept
    | some t => exact ((moveReservation_serving moved).2.1 p fun same => away (same ▸ mem)).trans kept
  · exact kept

theorem settleDrains_lp (s : State) (p : Port) : (settleDrains s).lp p = s.lp p := by
  have frame := (settleDrains_region s).1.1
  generalize settleDrains s = v at *
  exact (congrArg (fun w : State => w.lp p) frame :)

/-- A region that settles is DRAINING no longer, and none begins to drain. -/
theorem settleDrains_calm (calm : resvDraining s p = false) : resvDraining (settleDrains s) p = false := by
  refine Bool.eq_false_iff.mpr fun drains => ?_
  obtain ⟨x, mem, one⟩ := resvDraining_iff.mp drains
  rw [settleDrains_lp] at mem
  rw [(settleDrains_region s).2, settled] at one
  refine absurd (resvDraining_iff.mpr ⟨x, mem, ?_⟩) (by rw [calm]; exact Bool.false_ne_true)
  split at one
  · exact absurd one (by decide : ¬ (2 = 1))
  · exact one

theorem exec_reservationMove (boundary : pageBoundary s k = true) :
    exec (.reservationMove k) s = .next (settleDrains ((s.track k).portsOf.foldl reservationMoved s)) := by
  change execReservationMove k s = _
  unfold execReservationMove
  rw [boundary]
  rfl

theorem reservationMove_moves (boundary : pageBoundary s k = true) : ∃ t, exec (.reservationMove k) s = .next t ∧
    (∀ p, (t.lp p).reserved.length = (s.lp p).reserved.length) ∧
    (∀ p, (p ∉ (s.track k).portsOf ∨ resvDraining s p = false) → (t.lp p).reserved = (s.lp p).reserved) ∧
    (∀ p ∈ (s.track k).portsOf, (t.lp p).reserved = (s.lp p).reserved ∨ resvDraining t p = false) ∧
    (∀ p, (s.track k).portsOf = [p] → (moveReservation s p).isSome = true → resvDraining t p = false) ∧ keeps s t := by
  have ran := exec_reservationMove boundary
  have kept := reservationsMoved_kept s (s.track k).portsOf
  refine ⟨_, ran, fun p => ?_, fun p which => ?_, fun p _ => ?_, fun p one can => ?_, keeps_of_staysNext (cmd_reservationMove k s) ran⟩
  · rw [settleDrains_lp]
    exact kept.size p
  · rw [settleDrains_lp]
    exact which.elim (fun away => by rw [reservationsMoved_away s away]) (kept.kept p)
  · rw [settleDrains_lp]
    exact (kept.moved p).imp_right settleDrains_calm
  · refine settleDrains_calm ?_
    rw [one]
    change resvDraining (reservationMoved s p) p = false
    unfold reservationMoved
    obtain ⟨t, moved⟩ := Option.isSome_iff_exists.mp can
    split
    · rw [moved]
      exact (moveReservation_serving moved).2.2.2
    next calm => exact Bool.eq_false_iff.mpr calm

/-! ### Disarming -/

/-- What disarming leaves of the track and the ports: the track bare, and the ports' arming with their reservations. -/
def arms (s : State) : (Track → TrackState) × (Port → Bool × List (Nat × Nat)) := (fun k => bareTrack (s.track k), fun p => ((s.lp p).armed, (s.lp p).reserved))

theorem arms_of_bare (same : bare t = bare s) : arms t = arms s :=
  Prod.ext (funext fun k => bare_track same k) (funext fun p => congrArg (fun v : Vector PortState 4 => (v[p.val].armed, v[p.val].reserved)) (bare_ports same))

theorem arms_modPort {g : PortState → PortState} (kept : ∀ x, (g x).armed = x.armed ∧ (g x).reserved = x.reserved) : arms (s.modPort p g) = arms s := by
  refine Prod.ext (funext fun k => by cases k <;> rfl) (funext fun q => ?_)
  by_cases same : p = q
  · subst same
    change (((s.modPort p g).lp p).armed, ((s.modPort p g).lp p).reserved) = _
    rw [State.modPort_same, (kept _).1, (kept _).2]
    rfl
  · change (((s.modPort p g).lp q).armed, ((s.modPort p g).lp q).reserved) = _
    rw [State.modPort_other s same]
    rfl

theorem arms_complete {r : RingRef} {h : Hdr} {c : Nat} {st : Status} : arms (complete s r h c st) = arms s :=
  arms_of_bare (works_bare (fun _ _ no => no.elim) (works_complete (E := fun _ _ => False) (works_refl s)))

theorem arms_schedule : arms (schedule s) = arms s :=
  arms_of_bare (works_bare (fun _ _ no => no.elim) (works_schedule (E := fun _ _ => False) (works_refl s)))

theorem arms_lampsOff : arms (lampsOff s p) = arms s := by
  unfold lampsOff
  have dark : Works (fun _ _ => False) s ((s.lp p).lamps.foldl (fun s l => emitPort s (.lamp p l false)) s) := works_foldl (works_refl s) fun _ _ => works_emitPort
  generalize (s.lp p).lamps.foldl (fun s l => emitPort s (.lamp p l false)) s = u at *
  exact (arms_modPort (by exact fun _ => ⟨rfl, rfl⟩)).trans (arms_of_bare (works_bare (fun _ _ no => no.elim) dark))

theorem arms_startCal {r : RingRef} {h : Hdr} {o : CalRunOp} : arms (startCal s r h o) = arms s :=
  arms_lampsOff.trans (arms_modPort (by exact fun _ => ⟨rfl, rfl⟩))

theorem arms_startCals : arms (startCals s) = arms s := by
  refine foldl_keeps (fun u => arms u = arms s) _ (fun u p kept => ?_) _ _ rfl
  split
  · split
    · exact kept
    · refine arms_startCal.trans ?_
      exact (arms_modPort (by exact fun _ => ⟨rfl, rfl⟩)).trans kept
  · exact kept

theorem arms_assignEngines : arms (assignEngines s) = arms s := by
  refine foldl_keeps (fun u => arms u = arms s) _ (fun u p kept => ?_) _ _ rfl
  dsimp only
  split
  · split
    next i _ => exact (arms_modPort (g := fun x => { x with engine := some i }) fun _ => ⟨rfl, rfl⟩).trans kept
    · exact kept
  · exact kept

theorem arms_settleDrains : arms (settleDrains s) = arms s := by
  have frame := (settleDrains_region s).1.1
  generalize settleDrains s = v at *
  exact (congrArg arms frame :)

theorem releaseTiles_track (s : State) (p : Port) (k : Track) : (releaseTiles s p).track k = s.track k := by
  have freed : ((s.lp p).reserved.foldl (fun s t => s.modTile t.1 fun x => { x with resv := none, idleSince := s.now }) s).track k = s.track k :=
    foldl_keeps (fun u : State => u.track k = s.track k) _ (fun u t kept => by cases k <;> exact kept) _ _ rfl
  cases k <;> exact freed

theorem arms_freeEngine : arms (freeEngine s p) = arms s := by
  have apart : arms (s.modPort p fun x => { x with engine := none }) = arms s := arms_modPort (by exact fun _ => ⟨rfl, rfl⟩)
  exact apart

/-- A port's lamps, engine and tiles freed, and the port disarmed. -/
def portDisarmed (s : State) (p : Port) : State := (lampsOff (freeEngine (releaseTiles s p) p) p).modPort p fun x => { x with armed := false }

theorem portDisarmed_arms (s : State) (p : Port) :
    (arms (portDisarmed s p)).1 = (arms s).1 ∧ ∀ q, (arms (portDisarmed s p)).2 q = if q = p then (false, []) else (arms s).2 q := by
  obtain ⟨-, own, others⟩ := releaseTiles_only s p
  have track := releaseTiles_track s p
  have dark : arms (lampsOff (freeEngine (releaseTiles s p) p) p) = arms (releaseTiles s p) := arms_lampsOff.trans arms_freeEngine
  unfold portDisarmed
  generalize releaseTiles s p = u at *
  generalize lampsOff (freeEngine u p) p = v at *
  have port (q : Port) : ((v.lp q).armed, (v.lp q).reserved) = ((u.lp q).armed, (u.lp q).reserved) := congrFun (congrArg Prod.snd dark) q
  refine ⟨funext fun k => ?_, fun q => ?_⟩
  · refine Eq.trans ?_ ((congrFun (congrArg Prod.fst dark) k).trans (congrArg bareTrack (track k)))
    cases k <;> rfl
  · change (((v.modPort p _).lp q).armed, ((v.modPort p _).lp q).reserved) = _
    by_cases same : q = p
    · subst same
      rw [State.modPort_same, if_pos rfl]
      exact Prod.ext rfl ((congrArg Prod.snd (port q)).trans (congrArg PortState.reserved own))
    · rw [State.modPort_other v (Ne.symm same), if_neg same, port q, others q same]
      rfl

theorem portsDisarmed_arms (ps : List Port) (s : State) :
    (arms (ps.foldl portDisarmed s)).1 = (arms s).1 ∧ ∀ q ∈ ps, (arms (ps.foldl portDisarmed s)).2 q = (false, []) := by
  have each : ∀ (ps : List Port) (s : State), (arms (ps.foldl portDisarmed s)).1 = (arms s).1 ∧
      ∀ q, (q ∈ ps ∨ (arms s).2 q = (false, [])) → (arms (ps.foldl portDisarmed s)).2 q = (false, []) := by
    intro ps
    induction ps with
    | nil => exact fun s => ⟨rfl, fun q off => off.resolve_left List.not_mem_nil⟩
    | cons p ps ih =>
      intro s
      obtain ⟨track, port⟩ := portDisarmed_arms s p
      obtain ⟨tracks, ports⟩ := ih (portDisarmed s p)
      refine ⟨tracks.trans track, fun q off => ports q ?_⟩
      rw [port q]
      by_cases same : q = p
      · exact .inr (if_pos same)
      · rw [if_neg same]
        exact off.imp_left fun mem => (List.mem_cons.mp mem).resolve_left same
  exact ⟨(each ps s).1, fun q mem => (each ps s).2 q (.inl mem)⟩

/-- The track that disarming its ports leaves. -/
def trackUnarmed (x : TrackState) : TrackState :=
  { x with armed := false, firstLight := false, front := none, back := none, restart := none, held := false, rested := false, again := none, subDue := [] }

/-- A track without its disarming, held by it. -/
def trackHeld (x : TrackState) : TrackState := { x with disarm := none, arming := none, hold := { x.hold with disarm := true } }

theorem disarmPorts_eq (s : State) (k : Track) : disarmPorts s k = ((s.track k).portsOf.foldl portDisarmed s).modTrack k trackUnarmed := rfl

/-- The arming of a track's plan that a disarming gives up, answered. -/
def armingEnded (s : State) (k : Track) : State := match (s.track k).arming with
  | some (r, h, _) => complete s r h 0x01 .badState
  | none => s

theorem disarmTrack_eq (s : State) (k : Track) (ds : List (RingRef × Hdr)) : disarmTrack s k ds =
    schedule (startCals (settleDrains (assignEngines (ds.foldl (fun s d => complete s d.1 d.2 0x02 .ok) ((armingEnded (disarmPorts s k) k).modTrack k trackHeld))))) := rfl

theorem arms_armingEnded : arms (armingEnded s k) = arms s := by
  unfold armingEnded
  split
  · exact arms_complete
  · rfl

theorem arms_modTrack_ports (s : State) (k : Track) (g : TrackState → TrackState) : (arms (s.modTrack k g)).2 = (arms s).2 := by cases k <;> rfl

theorem arms_modTrack_track (s : State) (k : Track) (g : TrackState → TrackState) : (arms (s.modTrack k g)).1 k = bareTrack (g (s.track k)) :=
  congrArg bareTrack (State.modTrack_same ..)

theorem disarmTrack_arms (s : State) (k : Track) (ds : List (RingRef × Hdr)) :
    (∀ q ∈ (s.track k).portsOf, (arms (disarmTrack s k ds)).2 q = (false, [])) ∧
    (arms (disarmTrack s k ds)).1 k = bareTrack (trackHeld (trackUnarmed (s.track k))) := by
  obtain ⟨tracks, ports⟩ := portsDisarmed_arms (s.track k).portsOf s
  have after : arms (disarmTrack s k ds) = arms ((armingEnded (disarmPorts s k) k).modTrack k trackHeld) := by
    rw [disarmTrack_eq, arms_schedule, arms_startCals, arms_settleDrains, arms_assignEngines]
    exact foldl_keeps (fun u => arms u = _) _ (fun u d kept => arms_complete.trans kept) _ _ rfl
  have ended := arms_armingEnded (s := disarmPorts s k) (k := k)
  rw [after]
  rw [disarmPorts_eq] at ended ⊢
  generalize (s.track k).portsOf.foldl portDisarmed s = v at *
  generalize armingEnded (v.modTrack k trackUnarmed) k = w at *
  refine ⟨fun q mem => ?_, ?_⟩
  · rw [arms_modTrack_ports, ended, arms_modTrack_ports]
    exact ports q mem
  · have own : bareTrack (w.track k) = bareTrack (trackUnarmed (v.track k)) := by
      refine (congrFun (congrArg Prod.fst ended) k).trans (arms_modTrack_track ..)
    have old : bareTrack (v.track k) = bareTrack (s.track k) := congrFun tracks k
    refine (arms_modTrack_track ..).trans ?_
    calc bareTrack (trackHeld (w.track k)) = trackHeld (bareTrack (w.track k)) := rfl
      _ = trackHeld (trackUnarmed (bareTrack (v.track k))) := congrArg trackHeld own
      _ = trackHeld (trackUnarmed (bareTrack (s.track k))) := congrArg (fun x => trackHeld (trackUnarmed x)) old

end

end Sys2Proof.Machine
end

section
/-! PROOF. Gap updates, restarts, page boundaries and disarming (R54 to R57, R67, R79). -/

namespace Sys2Proof.Machine

open Sys2Proof

section
variable {s t : State} {p q : Port} {k : Track} {n : Nat}

/-! ### The check window -/

theorem checkWindow_matches {r : Restart} (back : (s.track k).restart = some r) (whole : r.drop = 0)
    (checked : ((s.track k).portsOf.all fun p => checkWhole (s.lp p)) = true)
    (matched : ((s.track k).portsOf.all fun p => sideMatches (s.lp p) (bestShift (s.lp p))) = true) :
    ∃ sh, exec (.checkWindowCaptured k false) s = .next (resumeAt s k r.N sh) := by
  have all : (((s.track k).portsOf.map fun p => (s.lp p, bestShift (s.lp p))).all fun q => sideMatches q.1 q.2) = true := by
    rw [List.all_map]
    exact matched
  refine ⟨(((s.track k).portsOf.map fun p => (s.lp p, bestShift (s.lp p))).headD (default, 0, 0, 0)).2.1, ?_⟩
  change execCheckWindowCaptured k false s = _
  unfold execCheckWindowCaptured
  rw [back]
  dsimp only
  rw [whole, checked, if_neg (by decide), if_neg Bool.false_ne_true, if_pos all]

theorem checkWindow_fails {r : Restart} {bad : Bool} (back : (s.track k).restart = some r) (whole : r.drop = 0)
    (checked : ((s.track k).portsOf.all fun p => checkWhole (s.lp p)) = true)
    (off : bad = true ∨ ∃ p ∈ (s.track k).portsOf, sideMatches (s.lp p) (bestShift (s.lp p)) = false) :
    exec (.checkWindowCaptured k bad) s =
      .next (failRestart (if bad then logHealth s (HealthEntry.of 14 0) else s) k (if bad then .dramUncorrectable else .refeedMismatch)) := by
  change execCheckWindowCaptured k bad s = _
  unfold execCheckWindowCaptured
  rw [back]
  dsimp only
  rw [whole, checked, if_neg (by decide)]
  cases bad with
  | true => rfl
  | false =>
    obtain ⟨p, mem, differs⟩ := off.resolve_left Bool.false_ne_true
    rw [if_neg Bool.false_ne_true]
    refine if_neg fun all => ?_
    rw [List.all_map] at all
    exact Bool.false_ne_true (differs.symm.trans (List.all_eq_true.mp all p mem))

theorem logHealth_track (s : State) (e : HealthEntry) (k : Track) : (logHealth s e).track k = s.track k := by
  cases k
  · exact logHealth_trackA s e
  · exact logHealth_trackB s e

/-- A restart that fails shows it also when its health entry is written first. -/
theorem failRestart_logged (s : State) (k : Track) (bad : Bool) (e : HealthEntry) (st : Status) : let t := failRestart (if bad then logHealth s e else s) k st
    (t.track k).restart = none ∧ (t.track k).restartBad = true ∧ (t.track k).encLine = (s.track k).encLine ∧
    (∀ p ∈ (s.track k).portsOf, (t.lp p).nextPos = (s.track k).encLine + 1) ∧
    ∀ y ∈ restartPieces s k, findPiece s k y.num = some y → y.live = true → ∃ z ∈ (t.track k).pieces, z.num = y.num ∧ z.status = st ∧ z.inFold = true := by
  cases bad with
  | false => exact failRestart_shows s k st
  | true =>
    have shows := failRestart_shows (logHealth s e) k st
    have track := logHealth_track s e k
    have delta : trackDelta (logHealth s e) k = trackDelta s k := by
      unfold trackDelta
      rw [track]
    have pieces : restartPieces (logHealth s e) k = restartPieces s k := by
      unfold restartPieces
      rw [track, delta]
    have found (n : Nat) : findPiece (logHealth s e) k n = findPiece s k n := by
      unfold findPiece
      rw [track]
    rw [pieces, track] at shows
    simp only [found] at shows
    exact shows

/-! ### A pending disarming -/

theorem scanDisarmGap_ends {ds : List (RingRef × Hdr)} {ns : List Nat} (pending : (s.track k).disarm = some (ds, ns))
    (ended : ∀ n ∈ ns, ∀ y, findPiece s k n = some y → y.T.isSome = true ∨ y.status ≠ .ok ∨ y.posted = true) :
    exec (.scanDisarmGap k) s = .next (s.modTrack k fun x => { x with hold := { x.hold with disarm := true } }) := by
  change execScanDisarmGap k s = _
  unfold execScanDisarmGap
  rw [pending]
  dsimp only
  refine if_pos (List.all_eq_true.mpr fun n mem => ?_)
  cases found : findPiece s k n with
  | none => rfl
  | some y =>
    simp only [Bool.or_eq_true, bne_iff_ne, ne_eq]
    rw [or_assoc]
    exact ended n mem y found

theorem scanDisarmGap_waits {ds : List (RingRef × Hdr)} {ns : List Nat} (pending : (s.track k).disarm = some (ds, ns)) (mem : n ∈ ns)
    (waits : ∃ y, findPiece s k n = some y ∧ y.T = none ∧ y.status = .ok ∧ y.posted = false) : exec (.scanDisarmGap k) s = .next s := by
  obtain ⟨y, found, last, status, posted⟩ := waits
  change execScanDisarmGap k s = _
  unfold execScanDisarmGap
  rw [pending]
  dsimp only
  refine if_neg fun all => ?_
  have here := List.all_eq_true.mp all n mem
  rw [found] at here
  dsimp only at here
  rw [last, status, posted] at here
  exact Bool.false_ne_true here

theorem scanDisarmEffect_waits {ds : List (RingRef × Hdr)} {ns : List Nat} (pending : (s.track k).disarm = some (ds, ns)) (mem : n ∈ ns)
    (apart : (s.track k).hold.twin = false) (waits : ∃ y, findPiece s k n = some y ∧ y.posted = false) : exec (.scanDisarmEffect k) s = .next s := by
  obtain ⟨y, found, posted⟩ := waits
  change execScanDisarmEffect k s = _
  unfold execScanDisarmEffect
  rw [pending]
  dsimp only
  refine if_neg fun all => ?_
  have here := List.all_eq_true.mp (Bool.and_eq_true_iff.mp all).2 n mem
  rw [found] at here
  dsimp only at here
  rw [apart, posted] at here
  exact Bool.false_ne_true here

theorem scanDisarmEffect_disarms {ds : List (RingRef × Hdr)} {ns : List Nat} (pending : (s.track k).disarm = some (ds, ns)) (held : (s.track k).hold.disarm = true)
    (posted : ∀ n ∈ ns, ∀ y, findPiece s k n = some y → y.posted = true ∨ (s.track k).hold.twin = true) :
    exec (.scanDisarmEffect k) s = .next (disarmTrack s k ds) := by
  change execScanDisarmEffect k s = _
  unfold execScanDisarmEffect
  rw [pending]
  dsimp only
  refine if_pos (Bool.and_eq_true_iff.mpr ⟨held, List.all_eq_true.mpr fun n mem => ?_⟩)
  cases found : findPiece s k n with
  | none => rfl
  | some y => exact Bool.or_eq_true_iff.mpr (posted n mem y found)

end

end Sys2Proof.Machine

open Sys2Proof Sys2Proof.Machine

/-- Settles O56: the set a gap leaves is queued by the port's own record; a restart resumes or fails piece by piece; of the moves of reservations the drain states,
the sizes and the calm reservations are an invariant; and disarming leaves each port unarmed and unreserved, whatever it then starts. -/
theorem gapsAndRestarts : Obligations.GapsAndRestarts := by
  intro s
  refine ⟨fun p c shut built => ?_, fun p e c stop use lines few => ?_, fun p c shut built quiet => ?_, fun k r back whole checked matched => ?_,
    fun k r back whole checked bad off => ?_, fun k r back drops bad => ?_, fun k boundary => reservationMove_moves boundary, fun k inside => ?_,
    fun k p boundary only drains => ?_, fun k ds ns pending ended => ?_, fun k ds ns n pending mem waits => scanDisarmGap_waits pending mem waits,
    fun k ds ns n pending mem apart waits => scanDisarmEffect_waits pending mem apart waits, fun k ds ns pending held posted => ?_⟩
  · have same := closeGap_open shut
    obtain ⟨t, ran, kept, dead, part, lamps⟩ := gapUpdateBuilt_queues (p := p) (c := c) (by rw [same]; exact built)
    rw [same] at part lamps
    exact ⟨t, ran, congrArg GapPart.building part, congrArg GapPart.queued part, congrArg GapPart.inUse part,
      fun own any => (congrArg GapPart.deadCols part).trans (lamps own any), kept⟩
  · have closed : closeGap s p = gapUpdate s p := by
      unfold closeGap
      rw [stop]
      rfl
    have part := gapUpdate_builds use lines few
    have lp : (closeGap s p).lp p =
        { s.lp p with strip := { (s.lp p).strip with start := none, stop := none, n := 0, sum := [] }, gapDiscards := 0, building := some (gapSet (s.lp p) c) } := by
      rw [closed, part]
      refine (congrArg (fun v : Vector PortState 4 => v[p.val]) (State.portCnt_ports ..)).trans ?_
      exact State.modPort_same s p _
    obtain ⟨t, ran, kept, dead, shows, -⟩ := gapUpdateBuilt_queues (p := p) (c := gapSet (s.lp p) c) (by rw [lp])
    rw [lp] at shows
    exact ⟨t, ran, congrArg GapPart.building shows, congrArg GapPart.queued shows, (congrArg GapPart.inUse shows).trans use, congrArg GapPart.gapDiscards shows,
      congrArg (fun x => x.strip.start) shows, kept⟩
  · have same := closeGap_open shut
    have ran := exec_gapUpdateBuilt (s := s) (p := p) (c := c) (by rw [same]; exact built)
    rw [same] at ran
    have calm : (if (s.lp p).cfg.switched then setQueued s p c else deadRecovery (setQueued s p c) p (deadColours c)) = setQueued s p c := by
      cases switched : (s.lp p).cfg.switched with
      | true => rfl
      | false =>
        rw [quiet.resolve_right (by rw [switched]; exact Bool.false_ne_true)]
        exact deadRecovery_none (p := p)
    rw [calm] at ran
    exact ⟨_, ran, modPort_only⟩
  · obtain ⟨sh, ran⟩ := checkWindow_matches back whole checked matched
    exact ⟨_, ran, resumeAt_shows s k r.N sh⟩
  · have ran := checkWindow_fails back whole checked off
    obtain ⟨ended, marked, line, ports, pieces⟩ := failRestart_logged s k bad (HealthEntry.of 14 0) (if bad then .dramUncorrectable else .refeedMismatch)
    exact ⟨_, ran, ended, marked, line, ports, pieces, keeps_of_staysNext (cmd_checkWindowCaptured k bad s) ran⟩
  · change execCheckWindowCaptured k bad s = _
    unfold execCheckWindowCaptured
    rw [back]
    exact if_pos (.inl drops)
  · change execReservationMove k s = _
    unfold execReservationMove
    rw [inside]
    rfl
  · have ran := exec_reservationMove boundary
    have moved : (s.track k).portsOf.foldl reservationMoved s = (moveReservation s p).getD s := by
      rw [only]
      change reservationMoved s p = _
      exact if_pos drains
    rw [moved] at ran
    exact ⟨_, ran, rfl, keeps_of_staysNext (cmd_reservationMove k s) ran⟩
  · refine ⟨_, scanDisarmGap_ends pending ended, State.modTrack_same .., ?_⟩
    cases k <;> rfl
  · have ran := scanDisarmEffect_disarms pending held posted
    obtain ⟨ports, track⟩ := disarmTrack_arms s k ds
    have kept := keeps_of_staysNext (cmd_scanDisarmEffect k s) ran
    refine ⟨_, ran, ?_⟩
    generalize disarmTrack s k ds = t at *
    exact ⟨(congrArg TrackState.armed track :), (congrArg TrackState.disarm track :), (congrArg (fun x => x.hold.disarm) track :), (congrArg TrackState.front track :),
      (congrArg TrackState.back track :), fun p mem => Prod.mk.inj (ports p mem), kept⟩
end

section
/-! PROOF. The descriptors FOLD_OPEN and FOLD_CLOSE (R309, R311). -/

namespace Sys2Proof.Machine

open Sys2Proof

section
variable {s : State} {i : RingId} {d : Desc} {h : Hdr} {fl : Nat} {f : FoldSt}

/-! ### A descriptor of a pair with an open fold -/

/-- A pair that is ready but for its fold and the descriptors that run. -/
structure ReadyInFold (s : State) (i : RingId) : Prop where
  enabled : (s.fnOf i.fn).enabled = true
  stage : fetchStage i.fn ≤ s.boot.stage
  device : s.pwr.device = false
  enable : (s.ring (s.ref i)).enable = true
  fault : (s.ring (s.ref i)).fault = false
  fetched : (s.ring (s.ref i)).fetched = []
  unfetched : (s.ring (s.ref i)).unfetched = 0
  held : (s.ring (s.ref i)).held = []
  pegWait : (s.ring (s.ref i)).pegWait = false
  tail : (s.ring (s.ref i)).sqTail = (s.ring (s.ref i)).sqHead
  room : cqRoom s (s.ref i) = true
  still : quiet s = true

/-- A pair without its fold and its running descriptors. -/
def pairIdled (s : State) (i : RingId) : State := s.modRing (s.ref i) fun x => { x with fold := none, running := [] }

theorem pairIdled_ref : (pairIdled s i).ref i = s.ref i := by
  have gen : ((pairIdled s i).ring (s.ref i)).gen = (s.ring (s.ref i)).gen := by
    unfold pairIdled
    rw [State.modRing_same]
  exact congrArg (RingRef.mk i.fn i.pair) gen

theorem pairIdled_quiet (still : quiet (pairIdled s i) = true) : quiet s = true := by
  have queues : (pairIdled s i).queues = s.queues := queues_modRing s (by exact fun _ => ⟨rfl, rfl⟩)
  exact quiet_of_queues queues.symm still

theorem readyInFold (ready : readyFor (pairIdled s i) i = true) : ReadyInFold s i := by
  obtain ⟨enabled, stage, device, idle, room, still⟩ := readyFor_iff.mp ready
  rw [pairIdled_ref] at idle room
  have own : (pairIdled s i).ring (s.ref i) = { s.ring (s.ref i) with fold := none, running := [] } := State.modRing_same ..
  obtain ⟨enable, fault, fetched, unfetched, held, -, pegWait, -, tail⟩ := (idlePair_iff _).mp idle
  unfold cqRoom at room
  rw [own] at enable fault fetched unfetched held pegWait tail room
  exact ⟨(modRing_enabled s _ _ _).symm.trans enabled, stage, device, enable, fault, fetched, unfetched, held, pegWait, tail, room, pairIdled_quiet still⟩

/-- The descriptor taken off the pair's list, its slot of the ring behind it. -/
def takenState (s : State) (i : RingId) : State := s.modRing (s.ref i) fun x => { x with sqTail := x.sqTail + 1, sqHead := x.sqHead + 1 }

theorem submit_inFold (ready : ReadyInFold s i) : submit s i d = pumpAll (announcedState s i d) := by
  have live : ringLive s (s.ref i) = true := by simp [ringLive, ready.enable, ready.fault, ref_gen]
  have none : announced (s.ring (s.ref i)) = 0 := by simp [announced, ready.tail]
  have space : ¬ ringN s (s.ref i) ≤ 0 := Nat.not_le.mpr (Nat.two_pow_pos _)
  unfold submit takeDesc
  simp only [live, none, ready.tail, BitVec.sub_self, BitVec.toNat_zero, modRing_modRing]
  simp only [Bool.not_true, Bool.false_eq_true, if_false, Nat.lt_irrefl, space]
  exact congrArg pumpAll (modRing_congr s _ (by simp only [ready.fetched, ready.unfetched, List.nil_append, Nat.zero_add]))

theorem fetchNow_inFold (ready : ReadyInFold s i) : fetchNow (announcedState s i d) (s.ref i) = fetchedState s i d := by
  have live : ringLive (announcedState s i d) (s.ref i) = true := by simp [ringLive, announcedState, ready.enable, ready.fault, ref_gen]
  have room : cqRoom (announcedState s i d) (s.ref i) = true := by simpa [cqRoom, announcedState] using ready.room
  have may : canFetch (announcedState s i d) (s.ref i) = true := by
    simp only [canFetch, live, room]
    simp [announcedState, unstarted, ready.held, ready.device, ready.stage, ready.enabled]
  unfold fetchNow
  rw [if_pos may, announcedState, modRing_modRing]
  rfl

theorem canStart_inFold (ready : ReadyInFold s i) (fence : d.hdr.fence = false) (limit : heldByLimit s d = false) (bank : waitsBank s d = false) :
    canStart (fetchedState s i d) (s.ref i) d = true := by
  have limit' : heldByLimit (fetchedState s i d) d = false := limit
  have bank' : waitsBank (fetchedState s i d) d = false := bank
  simp only [canStart, limit', bank', fence]
  simp [fetchedState, ringLive, ready.enable, ready.fault, ref_gen, ready.pegWait, ready.device]

theorem taken_inFold (ready : ReadyInFold s i) :
    (fetchedState s i d).modRing (s.ref i) (fun x => { x with fetched := x.fetched.drop 1 }) = takenState s i := by
  rw [fetchedState, modRing_modRing]
  exact modRing_congr s _ (by simp [ready.fetched, ready.unfetched])

/-- What a command's descriptor does on a pair with an open fold, where it leaves none waiting. -/
theorem submit_startsInFold (ready : ReadyInFold s i) (fence : d.hdr.fence = false) (limit : heldByLimit s d = false) (bank : waitsBank s d = false)
    (done : quiet (startDesc (takenState s i) (s.ref i) d) = true) : submit s i d = startDesc (takenState s i) (s.ref i) d := by
  have head : (unstarted ((fetchedState s i d).ring (s.ref i))).head? = some d := by simp [unstarted, fetchedState]
  have pumped (n : Nat) : pumpRing (announcedState s i d) (s.ref i) (n + 1) = startDesc (takenState s i) (s.ref i) d := by
    rw [pumpRing]
    simp only [fetchNow_inFold ready, head, canStart_inFold ready fence limit bank, taken_inFold ready, if_true]
    exact pumpRing_idle _ _ _ (quiet_pair done _)
  rw [submit_inFold ready]
  refine pumpAll_one i (fun q other => ?_) ?_ done
  · rw [announcedState, State.modRing_other _ (Ne.symm other)]
    exact quiet_pair ready.still q
  · rw [ref_announced]
    exact pumped _

/-! ### FOLD_CLOSE of an open fold -/

/-- The fold's first failure, with that of its FOLD_CLOSE. -/
def closeFailure (s : State) (r : RingRef) (f : FoldSt) (d : Desc) : Option (Nat × Nat × Status) := match f.failed, startCheck s r d with
  | some b, _ => some b
  | none, some (st, _) => some (f.members.length, 0x49, st)
  | none, none => none

/-- A fold as its FOLD_CLOSE leaves it. -/
def foldShut (f : FoldSt) (h : Hdr) (fl : Nat) (bad : Option (Nat × Nat × Status)) : FoldSt := { f with closeHdr := some h, hostAbort := bitAt fl 0, failed := bad }

/-- A pair whose open fold is closed. -/
def foldMoved (f : FoldSt) (x : RingPair) : RingPair := { x with fold := none, closed := x.closed ++ [f] }

theorem closeFold_eq (s : State) (r : RingRef) (f : FoldSt) (d : Desc) (fl : Nat) :
    closeFold s r f d fl = checkFold (s.modRing r (foldMoved (foldShut f d.hdr fl (closeFailure s r f d)))) r f.id := rfl

/-- The state in which the descriptor of an open fold is among those that run. -/
def runsInFold (s : State) (i : RingId) (f : FoldSt) (d : Desc) : State :=
  (takenState s i).modRing (s.ref i) fun x => { x with running := x.running ++ [(d.hdr.tag, some f.id)] }

theorem startDesc_closes (opened : (s.ring (s.ref i)).fold = some f) : startDesc (takenState s i) (s.ref i) { hdr := h, op := .foldClose fl } =
    closeFold (runsInFold s i f { hdr := h, op := .foldClose fl }) (s.ref i) f { hdr := h, op := .foldClose fl } fl := by
  have fold : ((takenState s i).ring (s.ref i)).fold = some f := by
    unfold takenState
    rw [State.modRing_same]
    exact opened
  unfold startDesc
  rw [fold]
  rfl

/-- A check of a fold moves the commit queue alone, which keeps what it holds. -/
theorem checkFold_queues (s : State) (r : RingRef) (n : Nat) : (∀ e ∈ s.commitQ, e ∈ (checkFold s r n).commitQ) ∧ { checkFold s r n with commitQ := s.commitQ } = s := by
  have reach (k : FoldKey) : (∀ e ∈ s.commitQ, e ∈ (reachCommit s k).commitQ) ∧ { reachCommit s k with commitQ := s.commitQ } = s := by
    unfold reachCommit
    dsimp only
    split
    · exact ⟨fun _ mem => mem, rfl⟩
    · exact ⟨fun e mem => mem_insertBy.mpr (.inr mem), rfl⟩
  unfold checkFold
  split
  · split
    · exact reach _
    · exact ⟨fun _ mem => mem, rfl⟩
  · exact ⟨fun _ mem => mem, rfl⟩

theorem reachCommit_listed (s : State) (k : FoldKey) : ((reachCommit s k).commitQ.any fun e => e.2 == k) = true := by
  unfold reachCommit
  dsimp only
  split
  next listed => exact listed
  · exact List.any_eq_true.mpr ⟨_, mem_insertBy.mpr (.inl rfl), beq_self_eq_true k⟩

/-- The state of a pair whose open fold a FOLD_CLOSE closes. -/
def shutState (s : State) (i : RingId) (f : FoldSt) (h : Hdr) (fl : Nat) : State :=
  (runsInFold s i f { hdr := h, op := .foldClose fl }).modRing (s.ref i)
    (foldMoved (foldShut f h fl (closeFailure (runsInFold s i f { hdr := h, op := .foldClose fl }) (s.ref i) f { hdr := h, op := .foldClose fl })))

theorem shutState_shows (s : State) (i : RingId) (f : FoldSt) (h : Hdr) (fl : Nat) :
    ((shutState s i f h fl).ring (s.ref i)).fold = none ∧
    ((shutState s i f h fl).ring (s.ref i)).closed = (s.ring (s.ref i)).closed ++
      [foldShut f h fl (closeFailure (runsInFold s i f { hdr := h, op := .foldClose fl }) (s.ref i) f { hdr := h, op := .foldClose fl })] ∧
    ((shutState s i f h fl).ring (s.ref i)).cqTail = (s.ring (s.ref i)).cqTail := by
  unfold shutState
  generalize closeFailure (runsInFold s i f { hdr := h, op := .foldClose fl }) (s.ref i) f { hdr := h, op := .foldClose fl } = bad
  unfold runsInFold takenState
  rw [State.modRing_same, State.modRing_same, State.modRing_same]
  exact ⟨rfl, rfl, rfl⟩

theorem shutState_queues (s : State) (i : RingId) (f : FoldSt) (h : Hdr) (fl : Nat) : (shutState s i f h fl).queues = s.queues := by
  have taken : (takenState s i).queues = s.queues := queues_modRing s (by exact fun _ => ⟨rfl, rfl⟩)
  have runs : (runsInFold s i f { hdr := h, op := .foldClose fl }).queues = (takenState s i).queues := queues_modRing _ (by exact fun _ => ⟨rfl, rfl⟩)
  exact ((queues_modRing _ (by exact fun _ => ⟨rfl, rfl⟩)).trans runs).trans taken

theorem exec_foldClose_shuts (ready : ReadyInFold s i) (opened : (s.ring (s.ref i)).fold = some f) (fence : h.fence = false) :
    exec (.foldClose i h fl) s = .next (checkFold (shutState s i f h fl) (s.ref i) f.id) := by
  have started : startDesc (takenState s i) (s.ref i) { hdr := h, op := .foldClose fl } = checkFold (shutState s i f h fl) (s.ref i) f.id := startDesc_closes opened
  have queues : (checkFold (shutState s i f h fl) (s.ref i) f.id).queues = s.queues := by
    have check := (checkFold_queues (shutState s i f h fl) (s.ref i) f.id).2
    have shut := shutState_queues s i f h fl
    generalize checkFold (shutState s i f h fl) (s.ref i) f.id = t at check ⊢
    generalize shutState s i f h fl = u at check shut
    exact (congrArg State.queues check :).trans shut
  change Host.Outcome.next (submit s i { hdr := h, op := .foldClose fl }) = _
  rw [submit_startsInFold ready fence rfl rfl (by rw [started]; exact quiet_of_queues queues ready.still), started]

/-- A FOLD_CLOSE without a peg passes its checks once the module is up. -/
theorem foldClose_passes {u : State} {r : RingRef} (stage : 6 ≤ u.boot.stage) (peg : h.peg = false) :
    startCheck u r { hdr := h, op := .foldClose fl } = none := by
  have up : stageAllows u r (.foldClose fl) = true := by
    unfold stageAllows
    rw [decide_eq_true stage]
    rfl
  unfold startCheck
  dsimp only
  rw [up, peg]
  simp [known, pfOnly, foldOk, pegOperand, operandRange]

theorem foldClose_shuts (ready : ReadyInFold s i) (opened : (s.ring (s.ref i)).fold = some f) (fence : h.fence = false) :
    ∃ t, exec (.foldClose i h fl) s = .next t ∧ (t.ring (s.ref i)).fold = none ∧
      (t.ring (s.ref i)).closed = (s.ring (s.ref i)).closed ++
        [foldShut f h fl (closeFailure (runsInFold s i f { hdr := h, op := .foldClose fl }) (s.ref i) f { hdr := h, op := .foldClose fl })] ∧
      (∀ e ∈ s.commitQ, e ∈ t.commitQ) ∧ (t.ring (s.ref i)).cqTail = (s.ring (s.ref i)).cqTail ∧ { t with fns := s.fns, commitQ := s.commitQ } = s := by
  have ran := exec_foldClose_shuts (fl := fl) ready opened fence
  obtain ⟨fold, closed, tail⟩ := shutState_shows s i f h fl
  obtain ⟨queued, frame⟩ := checkFold_queues (shutState s i f h fl) (s.ref i) f.id
  have rest : { shutState s i f h fl with fns := s.fns } = s := rfl
  have queue : (shutState s i f h fl).commitQ = s.commitQ := rfl
  generalize shutState s i f h fl = u at *
  generalize checkFold u (s.ref i) f.id = t at *
  have ring : t.ring (s.ref i) = u.ring (s.ref i) := (congrArg (fun v : State => v.ring (s.ref i)) frame :)
  refine ⟨t, ran, by rw [ring, fold], by rw [ring, closed], fun e mem => queued e (queue ▸ mem), by rw [ring, tail], ?_⟩
  rw [queue] at frame
  exact (congrArg (fun v : State => { v with fns := s.fns }) frame :).trans rest

/-- A closed fold whose members have all ended comes to its commit point. -/
theorem foldClose_reaches (ready : ReadyInFold s i) (opened : (s.ring (s.ref i)).fold = some f) (fence : h.fence = false)
    (committed : f.committed = false) (ended : ∀ m ∈ f.members, m.job = none ∨ m.ended.isSome = true) (other : ∀ g ∈ (s.ring (s.ref i)).closed, g.id ≠ f.id) :
    ∀ t, exec (.foldClose i h fl) s = .next t → (t.commitQ.any fun e => e.2 == .host (s.ref i) f.id) = true := by
  intro t ran
  obtain rfl := Host.Outcome.next.inj ((exec_foldClose_shuts ready opened fence).symm.trans ran)
  obtain ⟨-, closed, -⟩ := shutState_shows s i f h fl
  generalize closeFailure (runsInFold s i f { hdr := h, op := .foldClose fl }) (s.ref i) f { hdr := h, op := .foldClose fl } = bad at *
  have found : ((s.ring (s.ref i)).closed ++ [foldShut f h fl bad]).find? (fun g => g.id == f.id) = some (foldShut f h fl bad) := by
    rw [List.find?_append, List.find?_eq_none.mpr fun g mem => by simpa using other g mem]
    simp [foldShut]
  have all : foldEnded (foldShut f h fl bad) = true := List.all_eq_true.mpr fun m mem => by
    rw [Bool.or_eq_true, Option.isNone_iff_eq_none]
    exact ended m mem
  unfold checkFold
  rw [closed, found]
  dsimp only
  rw [if_pos ⟨all, by rw [Bool.not_eq_true]; exact committed⟩]
  exact reachCommit_listed ..

/-! ### FOLD_OPEN, and FOLD_CLOSE of a pair without a fold -/

theorem foldOpen_opens (ready : readyFor s i = true) (may : mayStart s i { hdr := h, op := .foldOpen } = true) : ∃ t, exec (.foldOpen i h) s = .next t ∧
    (∃ f, (t.ring (s.ref i)).fold = some f ∧ f.openHdr = h ∧ f.members = [] ∧ f.failed = none ∧ f.closeHdr = none ∧ f.id = (s.ring (s.ref i)).nextFold) ∧
    (t.ring (s.ref i)).cqTail = (s.ring (s.ref i)).cqTail ∧ { t with fns := s.fns } = s := by
  have ran := descriptorStarts s i { hdr := h, op := .foldOpen } _ rfl ready may
  obtain ⟨own, started⟩ := startedState_ring s i { hdr := h, op := .foldOpen }
  have frame : { startedState s i { hdr := h, op := .foldOpen } with fns := s.fns } = s := rfl
  refine ⟨_, ran, ?_⟩
  change _ ∧ ((startFoldOpen _ _ h).ring _).cqTail = _ ∧ _
  generalize startedState s i { hdr := h, op := .foldOpen } = u at *
  have open_ : (startFoldOpen u (s.ref i) h).ring (s.ref i) = _ := State.modRing_same ..
  refine ⟨⟨_, congrArg RingPair.fold open_, rfl, rfl, rfl, rfl, ?_⟩, ?_, frame⟩
  · exact (congrArg RingPair.nextFold started :)
  · rw [open_]
    exact (congrArg RingPair.cqTail started :)

theorem foldClose_none (ready : readyFor s i = true) (may : mayStart s i { hdr := h, op := .foldClose fl } = true) : ∃ t, exec (.foldClose i h fl) s = .next t ∧
    completedIn s t i h 0x49 .badState [] ∧ { t with fns := s.fns, out := s.out, cnt := s.cnt, pegs := s.pegs } = s :=
  exec_completes (d := { hdr := h, op := .foldClose fl }) rfl ready may rfl

end

end Sys2Proof.Machine
end

section
/-! PROOF. The commits of host folds (R309, R311 to R314). -/

namespace Sys2Proof.Machine

open Sys2Proof

section
variable {s t u : State} {r : RingRef} {n : Nat}

/-! ### Once a fold is committed, it stays so -/

/-- Every closed fold of a number is committed. -/
def foldsCommitted (r : RingRef) (n : Nat) (s : State) : Prop := ∀ g ∈ (s.ring r).closed, g.id = n → g.committed = true

theorem foldsCommitted_iff : foldsCommitted r n s ↔ ∀ g ∈ (s.ring r).closed.map bareFold, g.id = n → g.committed = true :=
  ⟨fun all g mem => by
    obtain ⟨f, there, rfl⟩ := List.mem_map.mp mem
    exact all f there, fun all g mem => all (bareFold g) (List.mem_map_of_mem mem)⟩

theorem foldsCommitted_of_bare (same : bareRing (t.ring r) = bareRing (s.ring r)) (h : foldsCommitted r n s) : foldsCommitted r n t := by
  have closed : (t.ring r).closed.map bareFold = (s.ring r).closed.map bareFold := (congrArg RingPair.closed same :)
  rw [foldsCommitted_iff] at h ⊢
  rw [closed]
  exact h

/-- The further changes of a commit: those that leave a number's folds committed. -/
def Committed (r : RingRef) (n : Nat) (s t : State) : Prop := foldsCommitted r n s → foldsCommitted r n t

theorem committed_fns (same : t.fns = s.fns) : Committed r n s t := fun all g mem => all g (by
  have ring : t.ring r = s.ring r := congrArg (fun v : Vector FnState 16 => v[r.fn.val].rings[r.pair.val]) same
  rwa [← ring])

theorem committed_outer (s t : State) (h : Outer s t) : Committed r n s t := by
  cases h with
  | apart same => exact committed_fns (congrArg State.fns same :)
  | tile => exact committed_fns rfl

theorem committed_granted (s t : State) (h : Granted s t) : Committed r n s t := by
  obtain ⟨_, _, rfl⟩ := h
  exact committed_fns rfl

theorem works_committed (h : Works (Committed r n) s t) (start : foldsCommitted r n s) : foldsCommitted r n t :=
  works_keep (P := foldsCommitted r n) (fun _ _ w k => (work_cases w).elim (fun plain => foldsCommitted_of_bare (bare_ring (work_bare_plain plain) r) k) fun more => more k) h start

theorem works_fns {E : State → State → Prop} (apart : ∀ s t, t.fns = s.fns → E s t) (h : Works E u s) (same : t.fns = s.fns) : Works E u t := h.tail (.extra (apart _ _ same))

/-! ### The parts of a commit -/

section
variable {E : State → State → Prop} (apart : ∀ s t, t.fns = s.fns → E s t)

theorem works_judgeWait {w} (h : Works E u s) : Works E u (judgeWait s w) :=
  have k := h.tail (.waited w.r)
  works_ite (works_postCompl k) (works_ite (works_postCompl k) (h.tail (.aside _ _ _ _ _ _ _ _ _ _ fun _ kept => kept)))

include apart

theorem works_pegArbitrate {sets adds} (h : Works E u s) : Works E u (pegArbitrate s sets adds) :=
  works_foldl (works_foldl (works_foldl (h.tail (.aside _ _ _ _ _ _ _ _ _ _ fun _ kept => kept)) fun _ _ k => works_fns apart k rfl) fun _ _ k => works_fns apart k rfl)
    fun _ _ => works_judgeWait

omit apart in
theorem works_writeTables {low on} (h : Works E u s) : Works E u (writeTables s low on) := works_foldl h fun _ _ => works_writeVia _

omit apart in
theorem works_writeRows {p} (h : Works E u s) : Works E u (writeRows s p) := works_writeTables (works_writePrograms h)

omit apart in
theorem works_writeReport {m} (h : Works E u s) : Works E u (writeReport s m) := by
  unfold writeReport
  split
  · exact works_hostWrite h
  · exact h

theorem works_modPlan {m f} (h : Works E u s) : Works E u (modPlan s m f) := works_fns apart h rfl

theorem works_measure {k f m x} (h : Works E u s) : Works E u (measure s k f m x) := works_fns apart h rfl

theorem works_applySwap {j p c low} (h : Works E u s) : Works E u (applySwap s j p c low) := by
  unfold applySwap
  split
  · exact h
  · dsimp only
    exact works_dropOldModels (works_logHealth (works_writeReport (works_measure apart (works_writeRows (works_modPlan apart (works_models h))))))

theorem works_commitSwap {m} (h : Works E u s) : Works E u (commitSwap s m) := by
  unfold commitSwap
  split
  · split
    · split
      · exact (works_applySwap apart h).tail (.tailor _ _ fun x mem => ⟨x, (List.mem_filter.mp mem).1, rfl⟩)
      · exact h
    · exact h
  · exact h

omit apart in
theorem works_commitRecord {e} (h : Works E u s) : Works E u (commitRecord r n s e) := by
  unfold commitRecord
  split
  · exact works_commitPost h
  · exact h

end

theorem committed_dropFold (s : State) (m : Nat) : Committed r n s (dropFold s r m) := by
  intro all g mem same
  have own : (dropFold s r m).ring r = without m (s.ring r) := State.modRing_same s r (without m)
  rw [own] at mem
  exact all g (List.mem_filter.mp mem).1 same

theorem works_finishFold (h : Works (Committed r n) u s) : Works (Committed r n) u (finishFold s r n) := by
  unfold finishFold
  split
  · exact works_when (fun h => (works_foldCompls h).tail (.extra (committed_dropFold _ _))) h
  · exact h

/-! ### The commit of a host fold -/

theorem commitQ_fold {c : Nat} {f : FoldSt} {q : List (Nat × FoldKey)} (queue : s.commitQ = (c, .host r n) :: q)
    (found : ((s.ring r).closed.find? fun g => g.id == n) = some f) : exec .foldCommit s = .next (serveImages (commitHost { s with commitQ := q } r f)) := by
  change Host.Outcome.next (commitNext s) = _
  unfold commitNext
  rw [queue]
  dsimp only
  rw [found]

theorem commitQ_gone {c : Nat} {q : List (Nat × FoldKey)} (queue : s.commitQ = (c, .host r n) :: q) (gone : ∀ f ∈ (s.ring r).closed, f.id ≠ n) :
    exec .foldCommit s = .next { s with commitQ := q } := by
  have none : ((s.ring r).closed.find? fun g => g.id == n) = none := List.find?_eq_none.mpr fun g mem => by simpa using gone g mem
  change Host.Outcome.next (commitNext s) = _
  unfold commitNext
  rw [queue]
  dsimp only
  rw [none]

theorem foldsCommitted_dropFold (s : State) : foldsCommitted r n (dropFold s r n) := by
  intro g mem same
  have own : (dropFold s r n).ring r = without n (s.ring r) := State.modRing_same s r (without n)
  rw [own] at mem
  exact absurd same (bne_iff_ne.mp (List.mem_filter.mp mem).2)

theorem foldsCommitted_modFold (s : State) {g : FoldSt → FoldSt} (committed : ∀ f, (g f).committed = true) :
    foldsCommitted r n (modFold s r n g) := by
  intro f mem same
  have own : ((modFold s r n g).ring r).closed = mapWhere (fun f => f.id == n) g (s.ring r).closed := congrArg RingPair.closed (State.modRing_same ..)
  rw [own] at mem
  obtain ⟨y, -, made⟩ := exists_of_mem_mapWhere mem
  by_cases hit : (y.id == n) = true
  · rw [made, if_pos hit]
    exact committed y
  · rw [made, if_neg hit] at same
    exact absurd same (by simpa using hit)

/-- What a fold's commit does once its folds are committed. -/
def commitsOn (s : State) (r : RingRef) (f : FoldSt) (sets adds : List (Nat × Word32)) (released : List Nat) : State :=
  let s := (f.members.foldl commitSwap s).chipCnt 27
  let s := ((List.range f.members.length).zip f.members).foldl (commitRecord r f.id) s
  let s := pegArbitrate s sets adds
  let s := released.foldl (fun s id => match findSeq s id with
    | some q => releaseSeq s q
    | none => s) s
  finishFold s r f.id

theorem commitHost_eq (s : State) (r : RingRef) (f : FoldSt) : commitHost s r f = match f.failed with
    | some (i, op, st) => abortFold ((dropSwaps s f).chipCnt 28) r f i op st
    | none =>
      if f.hostAbort then abortFold ((dropSwaps s f).chipCnt 28) r f 0xFFFF 0x49 .ok
      else match runMembers r 0 { s := s, sets := [], adds := [], edits := false, released := [] } f.members with
        | .error (i, op, st) => abortFold ((dropSwaps s f).chipCnt 28) r f i op st
        | .ok g =>
          let s := if g.edits then raiseVersion g.s else g.s
          commitsOn (modFold s r f.id fun f => { f with committed := true, members := f.members.map (swapDetail s) }) r f g.sets g.adds g.released := rfl

theorem commitsOn_committed {f : FoldSt} {sets adds : List (Nat × Word32)} {released : List Nat} (start : foldsCommitted r f.id s) :
    foldsCommitted r f.id (commitsOn s r f sets adds released) := by
  have apart : ∀ s t : State, t.fns = s.fns → Committed r f.id s t := fun _ _ => committed_fns
  have swapped : Works (Committed r f.id) s ((f.members.foldl commitSwap s).chipCnt 27) := works_chipCnt (works_foldl (works_refl s) fun _ _ => works_commitSwap apart)
  refine works_committed (works_finishFold (works_foldl (works_pegArbitrate apart (works_foldl swapped fun _ _ => works_commitRecord)) fun v m h => ?_)) start
  split
  · exact works_releaseSeq h
  · exact h

theorem commitHost_committed {f : FoldSt} : foldsCommitted r f.id (commitHost s r f) := by
  have aborted {v : State} {i op : Nat} {st : Status} : foldsCommitted r f.id (abortFold v r f i op st) := foldsCommitted_dropFold _
  rw [commitHost_eq]
  split
  · exact aborted
  · split
    · exact aborted
    · split
      · exact aborted
      · exact commitsOn_committed (foldsCommitted_modFold _ fun _ => rfl)

theorem foldCommit_commits {c : Nat} {f : FoldSt} {q : List (Nat × FoldKey)} (queue : s.commitQ = (c, .host r n) :: q)
    (found : ((s.ring r).closed.find? fun g => g.id == n) = some f) :
    ∃ t, exec .foldCommit s = .next t ∧ ∀ g ∈ (t.ring r).closed, g.id = n → g.committed = true := by
  obtain rfl : f.id = n := by simpa using List.find?_some found
  exact ⟨_, commitQ_fold queue found, works_committed (works_serveImages committed_granted (works_refl _)) commitHost_committed⟩

end

end Sys2Proof.Machine
end

section
/-! PROOF. Folds of a ring, opened, closed and committed (R309, R311 to R314, R369). -/

namespace Sys2Proof.Machine

open Sys2Proof

section
variable {s t u : State} {r : RingRef} {n : Nat} {h hc : Hdr}

/-! ### The completions of a fold without members -/

/-- The completion of a FOLD_OPEN or a FOLD_CLOSE. -/
def foldCompl (h : Hdr) (op : Nat) (e : Status × List Byte) : Compl := { hdr := h, opcode := op, status := e.1, member := false, arrived := false, detail := e.2 }

/-- Where the completion of a fold stands in host memory, for a tail. -/
def foldEntry (s : State) (r : RingRef) (k : Half) (h : Hdr) (op : Nat) (e : Status × List Byte) : Output :=
  .hostWrite r.fn (cqBase s r + 32 * (k.toNat % ringN s r)) (complBytes (foldCompl h op e) (s.ring r).sqHead (phaseAt k.toNat (ringN s r)))

/-- A pair that takes a completion at once. -/
def takesCompl (s : State) (r : RingRef) : Prop := ringLive s r = true ∧ cqRoom s r = true ∧ (s.ring r).held = []

theorem postCompl_answers (takes : takesCompl s r) (c : Compl) : let t := postCompl s r c
    entryOf s r c ∈ t.out ∧ (∃ n first, t.ring r = moderated n first (answered c.hdr.tag (s.ring r))) ∧ answersOnly s t ∧ t.regs = s.regs := by
  obtain ⟨live, room, held⟩ := takes
  have frame := answersOnly_postCompl s r c
  dsimp only
  rw [postCompl_writes live room held] at frame ⊢
  have sent := writeCompl_sent s r c
  have own := writeCompl_same s r c
  generalize writeCompl s r c = t at *
  exact ⟨sent, own, frame, (congrArg State.regs frame :)⟩

/-- A pair with two free slots still takes a completion after the first. -/
theorem takesCompl_answered {c : Compl} {m : Nat} {first : Option Nat} (takes : takesCompl s r) (two : ((s.ring r).cqTail - (s.ring r).cqHead).toNat + 2 ≤ ringN s r)
    (own : t.ring r = moderated m first (answered c.hdr.tag (s.ring r))) (regs : t.regs = s.regs) : takesCompl t r := by
  obtain ⟨live, -, held⟩ := takes
  have size : ringN t r = ringN s r := congrArg (2 ^ ·) (regGet_congr regs ..)
  refine ⟨?_, ?_, ?_⟩
  · unfold ringLive at live ⊢
    rw [own]
    exact live
  · unfold cqRoom
    rw [own, size]
    refine decide_eq_true (?_ : ((s.ring r).cqTail + 1 - (s.ring r).cqHead).toNat < ringN s r)
    bv_omega
  · rw [own]
    exact held

/-- The pair after the two completions of a fold without members. -/
theorem foldCompls_answers {f : FoldSt} {st : Status} {g : Member → List Byte} {x : List Byte} (live : ringLive s r = true)
    (two : ((s.ring r).cqTail - (s.ring r).cqHead).toNat + 2 ≤ ringN s r) (held : (s.ring r).held = []) (members : f.members = []) (close : f.closeHdr = some hc) :
    let t := foldCompls s r f st g x
    foldEntry s r (s.ring r).cqTail f.openHdr 0x48 (st, x) ∈ t.out ∧ foldEntry s r ((s.ring r).cqTail + 1) hc 0x49 (st, x) ∈ t.out ∧
    (t.ring r).cqTail = (s.ring r).cqTail + 2 ∧ (t.ring r).fold = (s.ring r).fold ∧ (t.ring r).closed = (s.ring r).closed ∧ answersOnly s t := by
  have made : foldCompls s r f st g x = postCompl (postCompl s r (foldCompl f.openHdr 0x48 (st, x))) r (foldCompl hc 0x49 (st, x)) := by
    unfold foldCompls
    rw [members, close]
    rfl
  have takes : takesCompl s r := ⟨live, decide_eq_true (by omega), held⟩
  obtain ⟨first, ⟨m, k, own⟩, frame, regs⟩ := postCompl_answers takes (foldCompl f.openHdr 0x48 (st, x))
  rw [made]
  generalize postCompl s r (foldCompl f.openHdr 0x48 (st, x)) = u at *
  have again := takesCompl_answered takes two own regs
  have told := works_out (E := fun _ _ => False) (fun _ _ no => no.elim) (works_postCompl (r := r) (c := foldCompl hc 0x49 (st, x)) (works_refl u))
  obtain ⟨second, ⟨m', k', own'⟩, frame', -⟩ := postCompl_answers again (foldCompl hc 0x49 (st, x))
  have entry : entryOf u r (foldCompl hc 0x49 (st, x)) = foldEntry s r ((s.ring r).cqTail + 1) hc 0x49 (st, x) := by
    have size : ringN u r = ringN s r := congrArg (2 ^ ·) (regGet_congr regs ..)
    have base : cqBase u r = cqBase s r := regGet_congr regs ..
    unfold entryOf foldEntry
    rw [own, size, base]
    rfl
  generalize postCompl u r (foldCompl hc 0x49 (st, x)) = t at *
  rw [own] at own'
  refine ⟨told _ first, entry ▸ second, ?_, ?_, ?_, answersOnly_trans frame frame'⟩
  · rw [own']
    change (s.ring r).cqTail + 1 + 1 = _
    bv_omega
  · rw [own']
    rfl
  · rw [own']
    rfl

/-! ### A fold without members commits -/

/-- The status and the detail that a fold without members answers with. -/
def foldStatus (f : FoldSt) : Status × List Byte := match f.failed with
  | some (n, op, st) => (.foldAborted, abortDetail n op st)
  | none => if f.hostAbort then (.foldAborted, abortDetail 0xFFFF 0x49 .ok) else (.ok, [])

/-- What the commit of a fold without members has done before its completions: the pair but for its closed folds, and all else but the counters, stand. -/
def foldJudged (s : State) (r : RingRef) (f : FoldSt) (u : State) (f' : FoldSt) : Prop :=
  { u with fns := s.fns, cnt := s.cnt } = s ∧ { u.ring r with closed := (s.ring r).closed } = s.ring r ∧ (∀ g ∈ (u.ring r).closed, g.id = f.id) ∧ u.out = s.out ∧
  f'.members = [] ∧ f'.openHdr = f.openHdr ∧ f'.closeHdr = f.closeHdr

theorem abortFold_none {f : FoldSt} {i op : Nat} {st : Status} (members : f.members = []) :
    abortFold ((dropSwaps s f).chipCnt 28) r f i op st =
      dropFold (foldCompls (s.chipCnt 28) r { f with committed := false } .foldAborted (fun _ => abortDetail i op st) (abortDetail i op st)) r f.id := by
  unfold abortFold dropSwaps discardMembers
  rw [members]
  rfl

theorem foldJudged_aborted {f : FoldSt} (closed : (s.ring r).closed = [f]) (members : f.members = []) : foldJudged s r f (s.chipCnt 28) { f with committed := false } :=
  ⟨rfl, rfl, fun g mem => by
    have mem : g ∈ (s.ring r).closed := mem
    rw [closed] at mem
    rw [List.mem_singleton.mp mem], rfl, members, rfl, rfl⟩

/-- A fold without members, marked committed. -/
def foldMarked (s : State) (r : RingRef) (f : FoldSt) : State := modFold s r f.id fun f => { f with committed := true, members := f.members.map (swapDetail s) }

theorem foldMarked_ring {f : FoldSt} (closed : (s.ring r).closed = [f]) (shut : (s.ring r).fold = none) (members : f.members = []) :
    (foldMarked s r f).ring r = { s.ring r with closed := [{ f with committed := true }] } := by
  refine (State.modRing_same ..).trans ?_
  rw [closed, shut]
  simp [mapWhere, members, shut]

theorem pegArbitrate_none (later : s.pegs.later = []) (waits : s.pegs.waits = []) : pegArbitrate s [] [] = s := by
  rw [pegArbitrate_judges later, waits]
  change { s with pegs := { s.pegs with later := [], waits := [] } } = s
  rw [← later, ← waits]

theorem commitsOn_none {f : FoldSt} (members : f.members = []) (later : s.pegs.later = []) (waits : s.pegs.waits = []) :
    commitsOn s r f [] [] [] = finishFold (s.chipCnt 27) r f.id := by
  unfold commitsOn
  rw [members]
  change finishFold (pegArbitrate (s.chipCnt 27) [] []) r f.id = _
  rw [pegArbitrate_none (s := s.chipCnt 27) later waits]

theorem commitHost_none {f : FoldSt} (closed : (s.ring r).closed = [f]) (shut : (s.ring r).fold = none) (members : f.members = [])
    (later : s.pegs.later = []) (waits : s.pegs.waits = []) (posts : s.basket.committed = []) :
    ∃ u f' g, commitHost s r f = dropFold (foldCompls u r f' (foldStatus f).1 g (foldStatus f).2) r f.id ∧ foldJudged s r f u f' := by
  rw [commitHost_eq, members]
  unfold foldStatus
  cases failed : f.failed with
  | some b => exact ⟨_, _, _, abortFold_none members, foldJudged_aborted closed members⟩
  | none =>
    dsimp only
    by_cases abort : f.hostAbort = true
    · rw [if_pos abort, if_pos abort]
      exact ⟨_, _, _, abortFold_none members, foldJudged_aborted closed members⟩
    · rw [if_neg abort, if_neg abort]
      have own := foldMarked_ring closed shut members
      have ran : commitsOn (foldMarked s r f) r f [] [] [] = finishFold ((foldMarked s r f).chipCnt 27) r f.id := commitsOn_none members later waits
      have empty : (foldMarked s r f).basket.committed = [] := posts
      have frame : { (foldMarked s r f).chipCnt 27 with fns := s.fns, cnt := s.cnt } = s := rfl
      have out : ((foldMarked s r f).chipCnt 27).out = s.out := rfl
      change ∃ u f' g, commitsOn (foldMarked s r f) r f [] [] [] = _ ∧ _
      rw [ran]
      generalize foldMarked s r f = v at *
      have own' : (v.chipCnt 27).ring r = { s.ring r with closed := [{ f with committed := true }] } := own
      have finished : finishFold (v.chipCnt 27) r f.id = dropFold (foldCompls (v.chipCnt 27) r { f with committed := true } .ok (memberDetail (v.chipCnt 27)) []) r f.id := by
        have free : foldPosts (v.chipCnt 27) r f.id = false := by
          unfold foldPosts
          change v.basket.committed.any _ = false
          rw [empty]
          rfl
        unfold finishFold
        rw [own']
        simp [free]
      exact ⟨_, { f with committed := true }, _, finished, frame, by rw [own'], by simp [own'], out, members, rfl, rfl⟩

/-- A fold without members answers its two descriptors and is gone. -/
theorem foldCommit_alone {c : Nat} {f : FoldSt} {q : List (Nat × FoldKey)} (queue : s.commitQ = (c, .host r f.id) :: q) (closed : (s.ring r).closed = [f])
    (shut : (s.ring r).fold = none) (members : f.members = []) (close : f.closeHdr = some hc) (live : ringLive s r = true)
    (two : ((s.ring r).cqTail - (s.ring r).cqHead).toNat + 2 ≤ ringN s r) (held : (s.ring r).held = []) (later : s.pegs.later = []) (waits : s.pegs.waits = [])
    (jobs : s.sched.jobs = []) (posts : s.basket.committed = []) : ∃ t, exec .foldCommit s = .next t ∧
      foldEntry s r (s.ring r).cqTail f.openHdr 0x48 (foldStatus f) ∈ t.out ∧ foldEntry s r ((s.ring r).cqTail + 1) hc 0x49 (foldStatus f) ∈ t.out ∧
      (t.ring r).cqTail = (s.ring r).cqTail + 2 ∧ (t.ring r).closed = [] ∧ t.commitQ = q.filter (fun x => x.2 != .host r f.id) ∧
      { t with commitQ := s.commitQ, fns := s.fns, out := s.out, cnt := s.cnt, pegs := s.pegs } = s := by
  have found : ((s.ring r).closed.find? fun g => g.id == f.id) = some f := by simp [closed]
  have ran := commitQ_fold queue found
  obtain ⟨u, f', g, made, frame, ring, own, -, members', open', close'⟩ := commitHost_none (s := { s with commitQ := q }) (r := r) (f := f) closed shut members later waits posts
  have regs : u.regs = s.regs := (congrArg State.regs frame :)
  have size : ringN u r = ringN s r := congrArg (2 ^ ·) (regGet_congr regs ..)
  have base : cqBase u r = cqBase s r := regGet_congr regs ..
  have tail : (u.ring r).cqTail = (s.ring r).cqTail := (congrArg RingPair.cqTail ring :)
  have live' : ringLive u r = true := by
    unfold ringLive at live ⊢
    rw [← live]
    exact (congrArg (fun x : RingPair => x.enable && !x.fault && x.gen == r.gen) ring :)
  have entry (k : Half) (h : Hdr) (op : Nat) (e : Status × List Byte) : foldEntry u r k h op e = foldEntry s r k h op e := by
    have head : (u.ring r).sqHead = (s.ring r).sqHead := (congrArg RingPair.sqHead ring :)
    unfold foldEntry
    rw [size, base, head]
  have two' : ((u.ring r).cqTail - (u.ring r).cqHead).toNat + 2 ≤ ringN u r := by
    rw [size, tail, show (u.ring r).cqHead = (s.ring r).cqHead from (congrArg RingPair.cqHead ring :)]
    exact two
  obtain ⟨first, second, after, -, still, answers⟩ :=
    foldCompls_answers (f := f') (st := (foldStatus f).1) (g := g) (x := (foldStatus f).2) live' two' ((congrArg RingPair.held ring :).trans held) members' (close'.trans close)
  rw [entry, tail, open'] at first
  rw [entry, tail] at second
  rw [tail] at after
  rw [made] at ran
  generalize foldCompls u r f' (foldStatus f).1 g (foldStatus f).2 = v at *
  have like : { v with fns := s.fns, cnt := s.cnt, out := s.out, pegs := s.pegs } = { s with commitQ := q } :=
    (congrArg (fun w : State => { w with fns := s.fns, cnt := s.cnt, out := s.out, pegs := s.pegs }) answers :).trans
      (congrArg (fun w : State => { w with out := s.out, pegs := s.pegs }) frame :)
  have idle : (dropFold v r f.id).sched.jobs = [] := (congrArg (fun w : State => w.sched.jobs) like :).trans jobs
  rw [serveImages_idle _ idle] at ran
  have pair : (dropFold v r f.id).ring r = without f.id (v.ring r) := State.modRing_same v r (without f.id)
  have commits : v.commitQ = q := (congrArg State.commitQ like :)
  refine ⟨_, ran, first, second, ?_, ?_, ?_, ?_⟩
  · rw [pair]
    exact after
  · rw [pair]
    refine List.filter_eq_nil_iff.mpr fun g mem => ?_
    rw [still] at mem
    simpa using own g mem
  · rw [← commits]
    rfl
  · exact (congrArg (fun w : State => { w with commitQ := s.commitQ }) like :)

/-! ### The commit of a verdict fold -/

theorem commitQ_verdict {c : Nat} {k : Track} {q : List (Nat × FoldKey)} (queue : s.commitQ = (c, .verdict k n) :: q) :
    exec .foldCommit s = .next (match commitVerdict { s with commitQ := q } k n with
      | some u => finishHandover (judgeWindows u)
      | none => s) := by
  change Host.Outcome.next (commitNext s) = _
  unfold commitNext
  rw [queue]
  dsimp only
  generalize commitVerdict { s with commitQ := q } k n = o
  cases o with
  | some u => rfl
  | none =>
    dsimp only
    rw [← queue]

/-- The table after a verdict's entry is the one of the state that it is written in. -/
theorem publishVerdict_table (s : State) (k : Track) (n : Nat) (p : Piece) (st : Status) (line : Nat) :
    (publishVerdict s k n p st line).port.table =
      s.port.table.set (n % 256) (verdictEntry n st (trackNum k) p.companion p.restarted (p.verdict.getD 0xFFFFFFFF) line) (Nat.mod_lt n (by decide)) := by
  have kept : (publishVerdict s k n p st line).fixed = (setEntry s n (verdictEntry n st (trackNum k) p.companion p.restarted (p.verdict.getD 0xFFFFFFFF) line)).fixed := by
    unfold publishVerdict
    dsimp only
    rw [fixed_prunePieces, fixed_pegArbitrate, fixed_countVerdict]
  exact congrArg (fun v => v.2.2) kept

theorem modPiece_firstLight (s : State) (k : Track) (n : Nat) (f : Piece → Piece) : ((modPiece s k n f).track k).firstLight = (s.track k).firstLight := by
  cases k <;> rfl

theorem commitPost_firstLight (s : State) (m : Nat) (p : Post) (k : Track) : ((commitPost s m p).track k).firstLight = (s.track k).firstLight :=
  (congrArg TrackState.firstLight (bare_track (works_bare (fun _ _ no => no.elim) (works_commitPost (E := fun _ _ => False) (k := m) (p := p) (works_refl s))) k) :)

/-- A verdict that commits is written into its entry. -/
theorem commitVerdict_table {k : Track} {p : Piece} (found : findPiece s k n = some p) (light : (s.track k).firstLight = false) (done : commitVerdict s k n = some u) :
    u.port.table[(Fin.ofNat 256 n).val] = verdictEntry n (commitStatus p (pieceLine s k p)) (trackNum k) p.companion p.restarted (p.verdict.getD 0xFFFFFFFF) (pieceLine s k p) := by
  unfold commitVerdict at done
  rw [found] at done
  dsimp only at done
  have free : ((if p.T.isNone = true then (s.freeNat.1 % 2 ^ 32, s.freeNat.2) else (0, s)).2.track k).firstLight = (s.track k).firstLight := by
    split
    · cases k <;> rfl
    · rfl
  generalize (if p.T.isNone = true then (s.freeNat.1 % 2 ^ 32, s.freeNat.2) else (0, s)) = g at *
  split at done
  · exact nomatch done
  · exact nomatch done
  · obtain rfl := Option.some.inj done
    refine (congrArg (fun u : State => u.port.table[(Fin.ofNat 256 n).val]) (if_neg ?_)).trans ?_
    · rw [modPiece_firstLight, commitPost_firstLight]
      change ¬ ((g.2.track k).firstLight = true)
      rw [free, light]
      exact Bool.false_ne_true
    refine (congrArg (fun v : Vector (List Byte) 256 => v[(Fin.ofNat 256 n).val]) (publishVerdict_table ..)).trans ?_
    exact Vector.getElem_set_self ..

theorem foldCommit_publishes {c : Nat} {k : Track} {p : Piece} {q : List (Nat × FoldKey)} (queue : s.commitQ = (c, .verdict k n) :: q) (found : findPiece s k n = some p)
    (light : (s.track k).firstLight = false) (done : (commitVerdict { s with commitQ := q } k n).isSome = true) : ∃ t, exec .foldCommit s = .next t ∧
      t.port.table[(Fin.ofNat 256 n).val] = verdictEntry n (commitStatus p (pieceLine s k p)) (trackNum k) p.companion p.restarted (p.verdict.getD 0xFFFFFFFF) (pieceLine s k p) := by
  obtain ⟨u, made⟩ := Option.isSome_iff_exists.mp done
  have ran := commitQ_verdict queue
  rw [made] at ran
  have track : ({ s with commitQ := q } : State).track k = s.track k := by cases k <;> rfl
  have table := commitVerdict_table (s := { s with commitQ := q }) (by unfold findPiece; rw [track]; exact found) (by rw [track]; exact light) made
  have line : pieceLine { s with commitQ := q } k p = pieceLine s k p := by
    unfold pieceLine
    rw [track]
  rw [line] at table
  have kept : (finishHandover (judgeWindows u)).fixed = u.fixed := (fixed_finishHandover _).trans (fixed_judgeWindows u)
  refine ⟨_, ran, ?_⟩
  rw [show (finishHandover (judgeWindows u)).port.table = u.port.table from congrArg (fun v => v.2.2) kept]
  exact table

end

end Sys2Proof.Machine

open Sys2Proof Sys2Proof.Machine

/-- Settles O34: the folds of a pair are followed through its descriptors; that a number's closed folds are committed is an invariant of all that a commit does after
it; and a fold without members is answered by two completions on a pair with room for both. -/
theorem ringFolds : Obligations.RingFolds := by
  refine ⟨fun s i h => ⟨foldOpen_opens, fun fl => foldClose_none, fun fl f ready opened stage fence => ?shuts, fun fl f ready opened stage peg fence sound committed ended other => ?ends⟩,
    fun s => ⟨fun c r id f q queue found => foldCommit_commits queue found, fun c k n p q queue found light done => foldCommit_publishes queue found light done,
      fun c k n q queue waits => ?waits⟩,
    fun s => ⟨fun none => ?empty, fun c r id q queue gone => commitQ_gone queue gone,
      fun c r f hc q queue closed shut members close live two held later waits jobs posts => foldCommit_alone queue closed shut members close live two held later waits jobs posts⟩⟩
  case shuts =>
    obtain ⟨t, ran, fold, closed, queued, tail, frame⟩ := foldClose_shuts (h := h) (fl := fl) (readyInFold ready) opened fence
    refine ⟨t, ran, fold, ⟨_, closed, fun failed => ?_⟩, queued, tail, frame⟩
    obtain ⟨b, failed⟩ := Option.isSome_iff_exists.mp failed
    unfold closeFailure
    rw [failed]
  case ends =>
    have ready := readyInFold ready
    obtain ⟨t, ran, fold, closed, queued, tail, frame⟩ := foldClose_shuts (h := h) (fl := fl) ready opened fence
    have calm : closeFailure (runsInFold s i f { hdr := h, op := .foldClose fl }) (s.ref i) f { hdr := h, op := .foldClose fl } = none := by
      unfold closeFailure
      rw [sound, foldClose_passes (by exact stage) peg]
    rw [calm, foldShut, ← sound] at closed
    exact ⟨t, ran, fold, closed, foldClose_reaches ready opened fence committed ended other t ran, queued, tail, frame⟩
  case waits =>
    have ran := commitQ_verdict queue
    rw [waits] at ran
    exact ran
  case empty =>
    change Host.Outcome.next (commitNext s) = _
    unfold commitNext
    rw [none]
end

section
/-! PROOF. What the twin's operations leave of its state (R378, R383, R388 to R390). -/

namespace Sys2Proof.Machine

open Sys2Proof

section
variable {s t u : State} {k : Track} {n : Nat}

/-! ### Work that leaves the twin's state -/

/-- A change that leaves the twin's state. -/
def TwinKept (s t : State) : Prop := t.twin = s.twin

theorem works_twin (h : Works TwinKept s t) : t.twin = s.twin :=
  works_same (fun _ _ w => (work_cases w).elim (fun plain => bare_twin (work_bare_plain plain)) id) h

theorem works_twinKept (h : Works TwinKept u s) (same : t.twin = s.twin) : Works TwinKept u t := h.tail (.extra same)

theorem modTrack_twin (s : State) (k : Track) (g : TrackState → TrackState) : (s.modTrack k g).twin = s.twin := by cases k <;> rfl

theorem works_feedJob {sd : Side} (h : Works TwinKept u s) : Works TwinKept u (feedJob s k n sd) := by
  unfold feedJob
  split
  · exact h
  · refine works_unless (fun h => ?_) h
    split
    · exact h
    · exact works_twinKept (works_twinKept (t := (addJob s _).2) h rfl) (modTrack_twin ..)

theorem works_replaySide {m : Nat} {sd : Side} (h : Works TwinKept u s) : Works TwinKept u (replaySide s k n m sd) := by
  unfold replaySide
  split
  · exact h
  · have slipped : Works TwinKept u (modPiece s k n fun y => y.modSide sd fun z => { z with slip := z.slip + m }) := works_twinKept h (modTrack_twin ..)
    exact works_when (fun h => works_feedInput (works_feedJob h)) slipped

theorem works_replayPiece {m : Nat} {y : Piece} (h : Works TwinKept u s) : Works TwinKept u (replayPiece k m s y) :=
  works_ite (works_verdictFold h) (works_ite h (works_ite (works_foldl h fun _ _ => works_replaySide) (works_countN (works_discardPiece h))))

theorem works_takeTrack (h : Works TwinKept u s) : Works TwinKept u (takeTrack s k n) := by
  unfold takeTrack
  exact works_twinKept (works_foldl (works_twinKept h (modTrack_twin ..)) fun _ _ => works_replayPiece) (modTrack_twin ..)

theorem works_stopReading (h : Works TwinKept u s) : Works TwinKept u (stopReading s) :=
  works_foldl (works_twinKept h rfl) fun _ _ h => works_foldl h fun _ _ => works_stopPiece

theorem stopReading_twin (s : State) : (stopReading s).twin = s.twin := works_twin (works_stopReading (works_refl s))

theorem works_regsKept (h : Works (fun s t => t.regs = s.regs) s t) : t.regs = s.regs :=
  works_same (fun _ _ w => (work_cases w).elim (fun plain => bare_regs (work_bare_plain plain)) id) h

theorem stopReading_regs (s : State) : (stopReading s).regs = s.regs := by
  have cut : Works (fun s t : State => t.regs = s.regs) s { s with commitQ := s.commitQ.filter fun e => match e.2 with
    | .verdict _ _ => false
    | .host _ _ => true } := (works_refl s).tail (.extra rfl)
  exact works_regsKept (works_foldl cut fun _ _ h => works_foldl h fun _ _ => works_stopPiece)

/-- With no piece there is nothing to stop reading but the folds of verdicts. -/
theorem stopReading_none (a : s.trackA.pieces = []) (b : s.trackB.pieces = []) : { stopReading s with commitQ := s.commitQ } = s := by
  have none : ∀ q, allTracks.foldl (fun s t => ((s.track t).pieces.filter fun p => !p.posted).foldl (fun s p => stopPiece s t p.num) s) { s with commitQ := q } =
      { s with commitQ := q } := fun q => foldl_fixed _ fun k _ => by
    have pieces : (({ s with commitQ := q } : State).track k).pieces = [] := by
      cases k
      · exact a
      · exact b
    rw [pieces]
    rfl
  exact congrArg (fun v : State => { v with commitQ := s.commitQ }) (none _)

/-! ### Frames sent -/

/-- The twin's state beside the frames that it has sent. -/
def Twin.unsent (x : Twin) : Twin := { x with txSeq := 0, unacked := [] }

theorem sendFrame_unsent (s : State) (ty flags win xfer off : Nat) (payload : List Byte) : (sendFrame s ty flags win xfer off payload).twin.unsent = s.twin.unsent := by
  unfold sendFrame
  split <;> rfl

/-- The frame is among the outputs, where the link is up. -/
theorem sendFrame_sent (up : s.twin.linkUp = true) (ty flags win xfer off : Nat) (payload : List Byte) :
    Output.twinFrame (twinFrame ty flags s.twin.txSeq win xfer off payload) ∈ (sendFrame s ty flags win xfer off payload).out := by
  rw [sendFrame_out up]
  exact List.mem_append_right _ (List.mem_singleton_self _)

theorem sendFrame_told (s : State) (ty flags win xfer off : Nat) (payload : List Byte) : ∀ o ∈ s.out, o ∈ (sendFrame s ty flags win xfer off payload).out := by
  unfold sendFrame
  split
  · exact fun _ mem => mem
  · exact fun _ mem => List.mem_append_left _ mem

/-- A change by frames sent: all but the twin's sending side, the outputs and the counters stands, and the outputs grow. -/
structure FramesSent (s t : State) : Prop where
  frame : { t with twin := s.twin, out := s.out, cnt := s.cnt } = s
  unsent : t.twin.unsent = s.twin.unsent
  told : ∀ o ∈ s.out, o ∈ t.out

theorem FramesSent.refl (s : State) : FramesSent s s := ⟨rfl, rfl, fun _ mem => mem⟩

theorem FramesSent.send (h : FramesSent s t) (ty flags win xfer off : Nat) (payload : List Byte) : FramesSent s (sendFrame t ty flags win xfer off payload) where
  frame := by
    have last := sendFrame_frame t ty flags win xfer off payload
    generalize sendFrame t ty flags win xfer off payload = v at *
    exact (congrArg (fun u : State => { u with twin := s.twin, out := s.out, cnt := s.cnt }) last :).trans h.frame
  unsent := (sendFrame_unsent ..).trans h.unsent
  told := fun o mem => sendFrame_told t ty flags win xfer off payload o (h.told o mem)

theorem FramesSent.foldl {α : Type} {f : State → α → State} (each : ∀ u a, FramesSent s u → FramesSent s (f u a)) (xs : List α) (h : FramesSent s t) :
    FramesSent s (xs.foldl f t) := foldl_keeps (FramesSent s) f each xs t h

/-- A PAIR has been sent. -/
def pairMarked (s : State) : State := { sendFrame s 0x05 0 0 0 0 (pairBytes s) with twin := { (sendFrame s 0x05 0 0 0 0 (pairBytes s)).twin with pairSent := true } }

theorem sendPair_sent (s : State) : FramesSent (pairMarked s) (sendPair s) :=
  FramesSent.foldl (fun _ _ h => h.send 0x04 0 _ 0 0 _) _ (.refl _)

theorem sendPair_frame (s : State) : { sendPair s with twin := s.twin, out := s.out, cnt := s.cnt } = s := by
  have sent := (sendPair_sent s).frame
  have marked : { pairMarked s with twin := s.twin, out := s.out, cnt := s.cnt } = s := sendFrame_frame s 0x05 0 0 0 0 (pairBytes s)
  generalize sendPair s = t at *
  generalize pairMarked s = u at *
  exact (congrArg (fun v : State => { v with twin := s.twin, out := s.out, cnt := s.cnt }) sent :).trans marked

theorem sendPair_twin (s : State) : (sendPair s).twin.unsent = { s.twin.unsent with pairSent := true } :=
  (sendPair_sent s).unsent.trans (congrArg (fun x : Twin => { x with pairSent := true }) (sendFrame_unsent s 0x05 0 0 0 0 (pairBytes s)))

theorem sendPair_told (up : s.twin.linkUp = true) : Output.twinFrame (twinFrame 0x05 0 s.twin.txSeq 0 0 0 (pairBytes s)) ∈ (sendPair s).out :=
  (sendPair_sent s).told _ (sendFrame_sent up 0x05 0 0 0 0 (pairBytes s))

theorem sendSync_sent (s : State) : FramesSent s (sendSync s) := by
  unfold sendSync
  split
  · exact FramesSent.foldl (fun _ _ h => h.send 0x03 0 0 0 0 _) _ (.refl _)
  · exact .refl s

end

end Sys2Proof.Machine
end

section
/-! PROOF. Link, fence, states and roles of the twin (R378, R383, R385, R388 to R390, R393). -/

namespace Sys2Proof.Machine

open Sys2Proof

section
variable {s t u : State} {k : Track} {n : Nat}

/-! ### Taking over -/

/-- The module as it begins to take over. -/
def takesOver (s : State) (fence : Bool) : State := { s with twin := { s.twin with
  state := .takingOver, takeover := true, fenceOut := fence, readyA := false, readyB := false, goodA := none, goodB := none, misses := 0,
  paired := if fence then false else s.twin.paired } }

/-- A track is taken over, or held where the module was not ready for it. -/
def trackTaken (ready : Track → Bool) (from_ : Track → Nat) (s : State) (t : Track) : State :=
  if !(s.track t).armed then s
  else if ready t then takeTrack (logHealth s (HealthEntry.of 21 (from_ t))) t (from_ t)
  else (logHealth s (HealthEntry.of 21 (from_ t))).modTrack t fun x => { x with hold := { x.hold with twin := true } }

def readyOf (s : State) (t : Track) : Bool := match t with | .A => s.twin.readyA | .B => s.twin.readyB

/-- Whether a track that was ready still has pieces to read again. -/
def replaysLeft (s : State) (ready : Track → Bool) : Bool :=
  allTracks.any fun t => (s.track t).armed && ready t && (s.track t).pieces.any fun y => y.line0.isSome && !y.posted

theorem takeOver_eq (s : State) (from_ : Track → Nat) (fence : Bool) : takeOver s from_ fence =
    let v := allTracks.foldl (trackTaken (readyOf s) from_) (takesOver s fence)
    schedule (if replaysLeft v (readyOf s) then v else { v with twin := { v.twin with state := .active } }) := rfl

theorem works_trackTaken {ready : Track → Bool} {from_ : Track → Nat} (h : Works TwinKept u s) : Works TwinKept u (trackTaken ready from_ s k) :=
  works_ite h (works_ite (works_takeTrack (works_logHealth h)) (works_twinKept (works_logHealth h) (modTrack_twin ..)))

theorem takeOver_twin (s : State) (from_ : Track → Nat) (fence : Bool) :
    ∃ st, (st = .active ∨ st = .takingOver) ∧ (takeOver s from_ fence).twin = { (takesOver s fence).twin with state := st } := by
  have taken : (allTracks.foldl (trackTaken (readyOf s) from_) (takesOver s fence)).twin = (takesOver s fence).twin :=
    works_twin (works_foldl (works_refl _) fun _ _ => works_trackTaken)
  have scheduled (v : State) : (schedule v).twin = v.twin := works_twin (works_schedule (works_refl v))
  rw [takeOver_eq]
  generalize allTracks.foldl (trackTaken (readyOf s) from_) (takesOver s fence) = v at *
  dsimp only
  rw [scheduled]
  split
  · exact ⟨.takingOver, .inr rfl, taken⟩
  · exact ⟨.active, .inl rfl, congrArg (fun x : Twin => { x with state := .active }) taken⟩

theorem takeOver_idle (a : s.trackA.armed = false) (b : s.trackB.armed = false) (jobs : s.sched.jobs = []) (from_ : Track → Nat) (fence : Bool) :
    takeOver s from_ fence = { takesOver s fence with twin := { (takesOver s fence).twin with state := .active } } := by
  have unarmed (k : Track) : ((takesOver s fence).track k).armed = false := by
    cases k
    · exact a
    · exact b
  have calm : allTracks.foldl (trackTaken (readyOf s) from_) (takesOver s fence) = takesOver s fence := foldl_fixed _ fun k _ => by
    unfold trackTaken
    rw [unarmed k]
    rfl
  have none : replaysLeft (takesOver s fence) (readyOf s) = false := List.any_eq_false.mpr fun k _ => by
    rw [unarmed k]
    exact Bool.false_ne_true
  rw [takeOver_eq, calm]
  dsimp only
  rw [none]
  exact schedule_idle _ jobs

/-! ### The link comes up -/

/-- A link that has just come up. -/
def linkRaised (s : State) (rate : Bool) : State := { s with twin := { s.twin with
  linkUp := true, rate16 := rate, txSeq := 0, unacked := [], resends := 0, rxSeq := none, partner := [], partnerCount := 0, paired := false, pairSent := false, badXfer := [] } }

theorem exec_twinLinkUp (s : State) (rate : Bool) : exec (.twinLinkUp rate) s = .next (if twinEnabled s then sendPair (linkRaised s rate) else linkRaised s rate) := rfl

theorem twinLinkUp_raises (s : State) (rate : Bool) : ∃ t, exec (.twinLinkUp rate) s = .next t ∧ t.twin.linkUp = true ∧ t.twin.rate16 = rate ∧ t.twin.rxSeq = none ∧
    t.twin.paired = false ∧ t.twin.partner = [] ∧ t.twin.pairSent = twinEnabled s ∧
    (twinEnabled s = true → Output.twinFrame (twinFrame 0x05 0 0 0 0 0 (pairBytes s)) ∈ t.out) := by
  have ran := exec_twinLinkUp s rate
  cases enabled : twinEnabled s with
  | true =>
    rw [if_pos enabled] at ran
    have twin := sendPair_twin (linkRaised s rate)
    refine ⟨_, ran, ?_⟩
    have sent := sendPair_told (s := linkRaised s rate) rfl
    generalize sendPair (linkRaised s rate) = t at *
    exact ⟨(congrArg Twin.linkUp twin :), (congrArg Twin.rate16 twin :), (congrArg Twin.rxSeq twin :), (congrArg Twin.paired twin :), (congrArg Twin.partner twin :),
      (congrArg Twin.pairSent twin :), fun _ => sent⟩
  | false =>
    rw [if_neg (by rw [enabled]; exact Bool.false_ne_true)] at ran
    exact ⟨_, ran, rfl, rfl, rfl, rfl, rfl, rfl, nofun⟩

theorem twinLinkUp_alone (rate : Bool) (off : twinEnabled s = false) : ∃ t, exec (.twinLinkUp rate) s = .next t ∧ t.twin.linkUp = true ∧ t.twin.rate16 = rate ∧
    t.twin.txSeq = 0 ∧ t.twin.unacked = [] ∧ t.twin.rxSeq = none ∧ t.twin.paired = false ∧ { t with twin := s.twin } = s := by
  have ran := exec_twinLinkUp s rate
  rw [if_neg (by rw [off]; exact Bool.false_ne_true)] at ran
  exact ⟨_, ran, rfl, rfl, rfl, rfl, rfl, rfl, rfl⟩

/-! ### Missed heartbeats -/

theorem exec_thirdMiss (enabled : twinEnabled s = true) (heard : s.twin.beat.isSome = true) (third : s.twin.misses = 2) (standby : isStandby s = true)
    (paired : s.twin.paired = true) : exec .heartbeatMissed s = .next (takeOver (missCounted s) (lostFrom (missCounted s)) true) := by
  rw [exec_heartbeatMissed enabled heard, if_pos ⟨by rw [third], standby, paired⟩]

/-! ### The fence -/

/-- A fenced module that has not yet stopped reading. -/
def fences (s : State) : State := { s with twin := { s.twin with
  fenceIn := true, state := .fenced, fenced := true, fenceOut := false, handoverTo := none, readyA := false, readyB := false, goodA := none, goodB := none } }

theorem exec_twinFenceIn (enabled : twinEnabled s = true) : exec (.twinFenceIn true) s = .next (stopReading (fences s)) := by
  change execTwinFenceIn true s = _
  unfold execTwinFenceIn
  dsimp only
  rw [if_pos (by exact enabled)]
  rfl

theorem feedHold_fenced (fenced : s.twin.fenced = true) (k : Track) : feedHold s k = false := if_pos fenced

theorem twinFenceIn_fences (enabled : twinEnabled s = true) : ∃ t, exec (.twinFenceIn true) s = .next t ∧ t.twin.state = .fenced ∧ t.twin.fenced = true ∧
    t.twin.fenceIn = true ∧ t.twin.fenceOut = false ∧ feedHold t .A = false ∧ feedHold t .B = false := by
  have twin := stopReading_twin (fences s)
  refine ⟨_, exec_twinFenceIn enabled, ?_⟩
  generalize stopReading (fences s) = t at *
  have fenced : t.twin.fenced = true := congrArg Twin.fenced twin
  exact ⟨congrArg Twin.state twin, fenced, congrArg Twin.fenceIn twin, congrArg Twin.fenceOut twin, feedHold_fenced fenced .A, feedHold_fenced fenced .B⟩

theorem twinFenceIn_frame (enabled : twinEnabled s = true) (a : s.trackA.pieces = []) (b : s.trackB.pieces = []) (ran : exec (.twinFenceIn true) s = .next t) :
    { t with twin := s.twin, commitQ := s.commitQ } = s := by
  obtain rfl := Host.Outcome.next.inj ((exec_twinFenceIn enabled).symm.trans ran)
  have none := stopReading_none (s := fences s) a b
  generalize stopReading (fences s) = t at *
  exact (congrArg (fun v : State => { v with twin := s.twin }) none :)

/-- A module whose fence is cleared. -/
def unfenced (s : State) : State := { s with twin := { s.twin with fenced := false, state := if twinEnabled s then .standby else .solo, paired := false } }

theorem exec_fenceClear (fenced : s.twin.fenced = true) (released : s.twin.fenceIn = false) :
    exec .fenceClear s = .next (if twinEnabled s && s.twin.linkUp then sendPair (unfenced s) else unfenced s) := by
  change Host.Outcome.next (clearFence s) = _
  unfold clearFence
  rw [if_pos (by rw [fenced, released]; rfl)]
  rfl

theorem fenceClear_clears (fenced : s.twin.fenced = true) (released : s.twin.fenceIn = false) : ∃ t, exec .fenceClear s = .next t ∧ t.twin.fenced = false ∧
    t.twin.state = (if twinEnabled s then .standby else .solo) ∧ t.twin.paired = false ∧ (twinEnabled s = true → s.twin.linkUp = true → t.twin.pairSent = true) := by
  have ran := exec_fenceClear fenced released
  refine ⟨_, ran, ?_⟩
  split
  · have twin := sendPair_twin (unfenced s)
    generalize sendPair (unfenced s) = t at *
    exact ⟨(congrArg Twin.fenced twin :), (congrArg Twin.state twin :), (congrArg Twin.paired twin :), fun _ _ => (congrArg Twin.pairSent twin :)⟩
  next apart => exact ⟨rfl, rfl, rfl, fun enabled up => absurd (by rw [enabled, up]; rfl) apart⟩

theorem fenceClear_alone (fenced : s.twin.fenced = true) (released : s.twin.fenceIn = false) (apart : twinEnabled s = false ∨ s.twin.linkUp = false) :
    exec .fenceClear s = .next (unfenced s) := by
  rw [exec_fenceClear fenced released, if_neg]
  rcases apart with off | down
  · rw [off]
    exact Bool.false_ne_true
  · rw [down, Bool.and_false]
    exact Bool.false_ne_true

end

end Sys2Proof.Machine
end

section
/-! PROOF. Enabling, pairing, taking over and handing over (R383, R385, R388, R393). -/

namespace Sys2Proof.Machine

open Sys2Proof

section
variable {s t u : State} {n : Nat}

/-! ### Enabling and disabling -/

/-- The enable written into its register. -/
def enableSet (s : State) (on : Bool) : State := regSet s 0 0x31000 (regGet s 0 0x31000 / 2 * 2 + b2n on)

/-- A module that becomes a standby by being enabled. -/
def standsBy (s : State) : State := if s.twin.state = .fenced then s else stopReading { s with twin := { s.twin with state := .standby, paired := false } }

/-- A module that is no part of a twin any more. -/
def aloneAgain (s : State) : State :=
  let s := allTracks.foldl (fun s t => setReady s t false none) s
  { s with twin := { s.twin with state := if s.twin.fenced then .fenced else .solo, paired := false, pairSent := false, fenceOut := false, handoverTo := none,
                                 beat := none, misses := 0 } }

theorem exec_twinEnable {on : Bool} (other : twinEnabled s ≠ on) : exec (.twinEnable on) s = .next (if on then
      (if (standsBy (enableSet s true)).twin.linkUp then sendPair (standsBy (enableSet s true)) else standsBy (enableSet s true))
    else aloneAgain (enableSet s false)) := by
  change Host.Outcome.next (setTwinEnable s on) = _
  have differs : ¬ bitAt (regGet s 0 0x31000) 0 = on := other
  unfold setTwinEnable
  dsimp only
  rw [if_neg differs]
  cases on <;> rfl

theorem regGet_lt (s : State) : regGet s 0 0x31000 < 2 ^ 64 := by
  unfold regGet
  split
  next v _ => exact v.isLt
  · decide

theorem enableSet_enabled (s : State) (on : Bool) : twinEnabled (enableSet s on) = on := by
  have small := regGet_lt s
  have low : b2n on ≤ 1 := b2n_le_one on
  have bit : twinEnabled (enableSet s on) = ((regGet s 0 0x31000 / 2 * 2 + b2n on) / 2 ^ 0 % 2 == 1) := by
    unfold twinEnabled enableSet
    rw [regGet_regSet_same s 0 0x31000 (by omega)]
    rfl
  rw [bit]
  have rest : (regGet s 0 0x31000 / 2 * 2 + b2n on) / 2 ^ 0 % 2 = b2n on := by omega
  rw [rest]
  cases on <;> rfl

theorem twinEnabled_regs (same : t.regs = s.regs) : twinEnabled t = twinEnabled s := congrArg (fun v => bitAt v 0) (regGet_congr same 0 0x31000)

theorem standsBy_regs (s : State) : (standsBy s).regs = s.regs := by
  unfold standsBy
  split
  · rfl
  · exact stopReading_regs _

theorem standsBy_twin (s : State) : (standsBy s).twin = if s.twin.state = .fenced then s.twin else { s.twin with state := .standby, paired := false } := by
  unfold standsBy
  split
  · rfl
  · exact stopReading_twin _

theorem twinEnable_on (off : twinEnabled s = false) : ∃ t, exec (.twinEnable true) s = .next t ∧ twinEnabled t = true ∧
    t.twin.state = (if s.twin.state = .fenced then .fenced else .standby) ∧ (s.twin.linkUp = true → t.twin.pairSent = true) := by
  have ran := exec_twinEnable (s := s) (on := true) (by rw [off]; exact Bool.false_ne_true)
  rw [if_pos rfl] at ran
  have enabled : twinEnabled (standsBy (enableSet s true)) = true := (twinEnabled_regs (standsBy_regs _)).trans (enableSet_enabled s true)
  have twin : (standsBy (enableSet s true)).twin = if s.twin.state = .fenced then s.twin else { s.twin with state := .standby, paired := false } := standsBy_twin _
  have state : (standsBy (enableSet s true)).twin.state = if s.twin.state = .fenced then .fenced else .standby := by
    rw [twin]
    split
    next fenced => exact fenced
    · rfl
  have up : (standsBy (enableSet s true)).twin.linkUp = s.twin.linkUp := by
    rw [twin]
    split <;> rfl
  generalize standsBy (enableSet s true) = u at *
  refine ⟨_, ran, ?_⟩
  split
  · have sent := sendPair_twin u
    have regs : (sendPair u).regs = u.regs := (congrArg State.regs (sendPair_frame u) :)
    generalize sendPair u = t at *
    exact ⟨(twinEnabled_regs regs).trans enabled, (congrArg Twin.state sent :).trans state, fun _ => (congrArg Twin.pairSent sent :)⟩
  next down => exact ⟨enabled, state, fun linked => absurd (up.trans linked) down⟩

theorem twinEnable_off (on : twinEnabled s = true) : ∃ t, exec (.twinEnable false) s = .next t ∧ twinEnabled t = false ∧
    t.twin.state = (if s.twin.fenced then .fenced else .solo) ∧ t.twin.paired = false ∧ t.twin.pairSent = false ∧ t.twin.fenceOut = false := by
  have ran := exec_twinEnable (s := s) (on := false) (by rw [on]; exact Bool.false_ne_true.symm)
  rw [if_neg Bool.false_ne_true] at ran
  exact ⟨_, ran, (twinEnabled_regs rfl).trans (enableSet_enabled s false), rfl, rfl, rfl, rfl⟩

theorem twinEnable_alone (off : twinEnabled s = false) (solo : s.twin.state = .solo) (down : s.twin.linkUp = false) (a : s.trackA.pieces = []) (b : s.trackB.pieces = []) :
    ∃ t, exec (.twinEnable true) s = .next t ∧ t.twin.state = .standby ∧ t.twin.paired = false ∧ twinEnabled t = true ∧
      { t with twin := s.twin, regs := s.regs, commitQ := s.commitQ } = s := by
  have ran := exec_twinEnable (s := s) (on := true) (by rw [off]; exact Bool.false_ne_true)
  rw [if_pos rfl] at ran
  have enabled : twinEnabled (standsBy (enableSet s true)) = true := (twinEnabled_regs (standsBy_regs _)).trans (enableSet_enabled s true)
  have twin : (standsBy (enableSet s true)).twin = if s.twin.state = .fenced then s.twin else { s.twin with state := .standby, paired := false } := standsBy_twin _
  rw [if_neg (by rw [solo]; decide)] at twin
  rw [if_neg (by rw [twin, down]; exact Bool.false_ne_true)] at ran
  have stopped : { standsBy (enableSet s true) with commitQ := s.commitQ } = { enableSet s true with twin := { s.twin with state := .standby, paired := false } } := by
    unfold standsBy
    rw [if_neg (by rw [show (enableSet s true).twin.state = .solo from solo]; decide)]
    exact stopReading_none (s := { enableSet s true with twin := { s.twin with state := .standby, paired := false } }) a b
  generalize standsBy (enableSet s true) = t at *
  exact ⟨t, ran, congrArg Twin.state twin, congrArg Twin.paired twin, enabled, (congrArg (fun v : State => { v with twin := s.twin, regs := s.regs }) stopped :)⟩

/-! ### Pairing -/

/-- The conflicts of role and of unit number are logged. -/
def conflictsLogged (s : State) (unit role : Bool) : State :=
  let s := if twinRole s = role then logHealth s (HealthEntry.of 20 0) else s
  if twinUnit s = unit then logHealth s (HealthEntry.of 20 1) else s

theorem conflictsLogged_frame (s : State) (unit role : Bool) :
    { conflictsLogged s unit role with health := s.health, fns := s.fns, out := s.out, cnt := s.cnt, pegs := s.pegs } = s := by
  have logged {c : Prop} [Decidable c] (v : State) (e : HealthEntry) :
      { (if c then logHealth v e else v) with health := v.health, fns := v.fns, out := v.out, cnt := v.cnt, pegs := v.pegs } = v := by
    split
    · exact logHealth_frame v e
    · rfl
  have first := logged (c := twinRole s = role) s (HealthEntry.of 20 0)
  unfold conflictsLogged
  dsimp only
  generalize (if twinRole s = role then logHealth s (HealthEntry.of 20 0) else s) = v at *
  have second := logged (c := twinUnit v = unit) v (HealthEntry.of 20 1)
  generalize (if twinUnit v = unit then logHealth v (HealthEntry.of 20 1) else v) = w at *
  exact (congrArg (fun x : State => { x with health := s.health, fns := s.fns, out := s.out, cnt := s.cnt, pegs := s.pegs }) second :).trans first

/-- A module that is paired. -/
def pairedUp (s : State) : State := { s with twin := { s.twin with paired := true, misses := 0, handoverTo := none } }

/-- What pairing makes of the module: its state, with what that brings. -/
def roleTaken (s : State) (unit role : Bool) (serial : List Byte) : State :=
  if s.twin.state = .fenced then s
  else if becomesActive s unit role serial then sendSync { s with twin := { s.twin with state := .active } }
  else stopReading { s with twin := { s.twin with state := .standby } }

theorem finishPair_eq (s : State) (unit role : Bool) (serial : List Byte) :
    finishPair s unit role serial = roleTaken (pairedUp (conflictsLogged s unit role)) unit role serial := rfl

/-- The state of a twin that has been paired. -/
def pairState (s : State) (unit role : Bool) (serial : List Byte) : TwinState :=
  if s.twin.state = .fenced then .fenced else if becomesActive s unit role serial then .active else .standby

theorem pairState_eq (s : State) (unit role : Bool) (serial : List Byte) : pairState s unit role serial =
    if s.twin.state = .fenced then .fenced
    else if (if twinRole s = role then (if twinUnit s = unit then !lexLe (serial.map BitVec.toNat) ((slice Config.serial 0 16).map BitVec.toNat) else !twinUnit s)
      else twinRole s) then .active else .standby := by
  have rules : becomesActive s unit role serial =
      if twinRole s = role then (if twinUnit s = unit then !lexLe (serial.map BitVec.toNat) ((slice Config.serial 0 16).map BitVec.toNat) else !twinUnit s) else twinRole s := by
    unfold becomesActive
    rw [ite_not, ite_not]
  unfold pairState
  rw [rules]

theorem roleTaken_twin (s : State) (unit role : Bool) (serial : List Byte) :
    (roleTaken s unit role serial).twin.unsent = { s.twin.unsent with state := pairState s unit role serial } := by
  unfold roleTaken pairState
  split
  next fenced => exact congrArg (fun x => { s.twin.unsent with state := x }) fenced
  · split
    · exact (sendSync_sent _).unsent
    · exact congrArg Twin.unsent (stopReading_twin _)

theorem roleTaken_frame (a : s.trackA.pieces = []) (b : s.trackB.pieces = []) (unit role : Bool) (serial : List Byte) :
    { roleTaken s unit role serial with twin := s.twin, out := s.out, cnt := s.cnt, commitQ := s.commitQ } = s := by
  unfold roleTaken
  split
  · rfl
  · split
    · have sent := (sendSync_sent { s with twin := { s.twin with state := .active } }).frame
      generalize sendSync { s with twin := { s.twin with state := .active } } = t at *
      exact (congrArg (fun v : State => { v with twin := s.twin, commitQ := s.commitQ }) sent :)
    · have none := stopReading_none (s := { s with twin := { s.twin with state := .standby } }) a b
      generalize stopReading { s with twin := { s.twin with state := .standby } } = t at *
      exact (congrArg (fun v : State => { v with twin := s.twin, out := s.out, cnt := s.cnt }) none :)

theorem becomesActive_regs (same : t.regs = s.regs) (unit role : Bool) (serial : List Byte) : becomesActive t unit role serial = becomesActive s unit role serial := by
  have r : twinRole t = twinRole s := congrArg (fun v => bitAt v 2) (regGet_congr same 0 0x31000)
  have u : twinUnit t = twinUnit s := congrArg (fun v => bitAt v 1) (regGet_congr same 0 0x31000)
  unfold becomesActive
  rw [r, u]

theorem exec_pair {seq : Half} {unit role : Bool} {serial : List Byte} (next : nextFrame s seq = true) (enabled : twinEnabled s = true) (sent : s.twin.pairSent = true) :
    exec (.pair seq unit role serial) s = .next (roleTaken (pairedUp (conflictsLogged (frameTaken s seq) unit role)) unit role serial) := by
  have regs : (frameTaken s seq).regs = s.regs := (congrArg State.regs (frameTaken_frame s seq) :)
  have enabled' : twinEnabled (frameTaken s seq) = true := (twinEnabled_regs regs).trans enabled
  have sent' : (frameTaken s seq).twin.pairSent = true := by
    rw [frameTaken_twin]
    exact sent
  change Host.Outcome.next (receiveFrame s seq _) = _
  rw [receiveFrame_next next, enabled', sent']
  rfl

/-- The module that a PAIR has paired, before it takes its role. -/
def pairTaken (s : State) (seq : Half) (unit role : Bool) : State := pairedUp (conflictsLogged (frameTaken s seq) unit role)

theorem pairTaken_frame (s : State) (seq : Half) (unit role : Bool) :
    { pairTaken s seq unit role with twin := s.twin, health := s.health, fns := s.fns, out := s.out, cnt := s.cnt, pegs := s.pegs } = s ∧
    (pairTaken s seq unit role).twin = { s.twin with rxSeq := some seq, paired := true, misses := 0, handoverTo := none } := by
  have frame := frameTaken_frame s seq
  have twin := frameTaken_twin s seq
  have logged := conflictsLogged_frame (frameTaken s seq) unit role
  unfold pairTaken pairedUp
  generalize conflictsLogged (frameTaken s seq) unit role = v at *
  generalize frameTaken s seq = w at *
  refine ⟨?_, ?_⟩
  · exact (congrArg (fun x : State => { x with twin := s.twin, health := s.health, fns := s.fns, out := s.out, cnt := s.cnt, pegs := s.pegs }) logged :).trans
      (congrArg (fun x : State => { x with health := s.health, fns := s.fns, pegs := s.pegs }) frame :)
  · have same : v.twin = w.twin := (congrArg State.twin logged :)
    rw [same, twin]

theorem pair_pairs {seq : Half} {unit role : Bool} {serial : List Byte} (next : nextFrame s seq = true) (enabled : twinEnabled s = true) (sent : s.twin.pairSent = true) :
    ∃ t, exec (.pair seq unit role serial) s = .next t ∧ t.twin.paired = true ∧ t.twin.misses = 0 ∧ t.twin.state = pairState s unit role serial := by
  obtain ⟨frame, twin⟩ := pairTaken_frame s seq unit role
  have role_ := roleTaken_twin (pairTaken s seq unit role) unit role serial
  have regs : (pairTaken s seq unit role).regs = s.regs := (congrArg State.regs frame :)
  have state : pairState (pairTaken s seq unit role) unit role serial = pairState s unit role serial := by
    unfold pairState
    rw [twin, becomesActive_regs regs]
  rw [twin, state] at role_
  refine ⟨_, exec_pair next enabled sent, ?_⟩
  change (roleTaken (pairTaken s seq unit role) unit role serial).twin.paired = true ∧ (roleTaken (pairTaken s seq unit role) unit role serial).twin.misses = 0 ∧
    (roleTaken (pairTaken s seq unit role) unit role serial).twin.state = _
  generalize roleTaken (pairTaken s seq unit role) unit role serial = t at *
  exact ⟨(congrArg Twin.paired role_ :), (congrArg Twin.misses role_ :), (congrArg Twin.state role_ :)⟩

theorem pair_frame {seq : Half} {unit role : Bool} {serial : List Byte} (next : nextFrame s seq = true) (enabled : twinEnabled s = true) (sent : s.twin.pairSent = true)
    (a : s.trackA.pieces = []) (b : s.trackB.pieces = []) (ran : exec (.pair seq unit role serial) s = .next t) :
    { t with twin := s.twin, health := s.health, out := s.out, cnt := s.cnt, pegs := s.pegs, fns := s.fns, commitQ := s.commitQ } = s := by
  obtain rfl := Host.Outcome.next.inj ((exec_pair next enabled sent).symm.trans ran)
  obtain ⟨frame, -⟩ := pairTaken_frame s seq unit role
  have trackA : (pairTaken s seq unit role).trackA = s.trackA := (congrArg State.trackA frame :)
  have trackB : (pairTaken s seq unit role).trackB = s.trackB := (congrArg State.trackB frame :)
  have rest := roleTaken_frame (s := pairTaken s seq unit role) (by rw [trackA, a]) (by rw [trackB, b]) unit role serial
  change { roleTaken (pairTaken s seq unit role) unit role serial with
    twin := s.twin, health := s.health, out := s.out, cnt := s.cnt, pegs := s.pegs, fns := s.fns, commitQ := s.commitQ } = s
  generalize roleTaken (pairTaken s seq unit role) unit role serial = t at *
  generalize pairTaken s seq unit role = v at *
  have commits : v.commitQ = s.commitQ := (congrArg State.commitQ frame :)
  rw [commits] at rest
  exact (congrArg (fun x : State => { x with twin := s.twin, health := s.health, out := s.out, cnt := s.cnt, pegs := s.pegs, fns := s.fns }) rest :).trans frame

/-! ### HEALTH and the handover -/

/-- The piece from which a HEALTH hands a track over. -/
def healthFrom (s : State) (a b : Word32) (t : Track) : Nat :=
  let name := fun (n : Word32) => if n = 0xFFFFFFFF then s.nextPiece.toNat else n.toNat
  match t with | .A => name a | .B => name b

theorem exec_health {seq : Half} {cause : Nat} {a b : Word32} (next : nextFrame s seq = true) (standby : isStandby s = true) (paired : s.twin.paired = true)
    (low : 1 ≤ cause) (high : cause ≤ 4) :
    exec (.health seq cause a b) s = .next (takeOver (frameTaken s seq) (healthFrom (frameTaken s seq) a b) (decide (cause ≠ 4))) := by
  have standby' : isStandby (frameTaken s seq) = true := by
    unfold isStandby
    rw [frameTaken_twin]
    exact standby
  have paired' : (frameTaken s seq).twin.paired = true := by
    rw [frameTaken_twin]
    exact paired
  change Host.Outcome.next (receiveFrame s seq _) = _
  rw [receiveFrame_next next, standby', paired', decide_eq_true ⟨low, high⟩]
  rfl

/-- A handover that has been announced to the partner. -/
def handoverSent (s : State) : State :=
  let s := sendHealth s 4 s.nextPiece s.nextPiece
  { s with twin := { s.twin with handoverTo := some s.nextPiece.toNat } }

theorem exec_handover (active : s.twin.state = .active) (none : s.twin.handoverTo = none) (up : s.twin.linkUp = true) (paired : s.twin.paired = true)
    (ready : partnerReady s = true) : exec .handover s = .next (finishHandover (handoverSent s)) := by
  change Host.Outcome.next (startHandover s) = _
  unfold startHandover
  rw [none, if_neg (by decide), if_neg (by rw [active]; decide), if_neg (by rw [up, paired, ready]; decide)]
  rfl

theorem handoverSent_shows (up : s.twin.linkUp = true) (paired : s.twin.paired = true) :
    { handoverSent s with twin := s.twin, out := s.out, cnt := s.cnt } = s ∧ (handoverSent s).twin.state = s.twin.state ∧ (handoverSent s).twin.handoverTo = some s.nextPiece.toNat ∧
    Output.twinFrame (twinFrame 0x02 0 s.twin.txSeq 0 0 0 (leBytes 1 4 ++ zeros 3 ++ leBytes 4 s.nextPiece.toNat ++ leBytes 4 s.nextPiece.toNat)) ∈ (handoverSent s).out := by
  have frame : sendHealth s 4 s.nextPiece s.nextPiece = sendFrame s 0x02 0 0 0 0 (leBytes 1 4 ++ zeros 3 ++ leBytes 4 s.nextPiece.toNat ++ leBytes 4 s.nextPiece.toNat) := if_pos paired
  have sent := sendFrame_sent up 0x02 0 0 0 0 (leBytes 1 4 ++ zeros 3 ++ leBytes 4 s.nextPiece.toNat ++ leBytes 4 s.nextPiece.toNat)
  have rest := sendFrame_frame s 0x02 0 0 0 0 (leBytes 1 4 ++ zeros 3 ++ leBytes 4 s.nextPiece.toNat ++ leBytes 4 s.nextPiece.toNat)
  have twin := sendFrame_unsent s 0x02 0 0 0 0 (leBytes 1 4 ++ zeros 3 ++ leBytes 4 s.nextPiece.toNat ++ leBytes 4 s.nextPiece.toNat)
  unfold handoverSent
  rw [frame]
  generalize sendFrame s 0x02 0 0 0 0 (leBytes 1 4 ++ zeros 3 ++ leBytes 4 s.nextPiece.toNat ++ leBytes 4 s.nextPiece.toNat) = u at *
  have piece : u.nextPiece = s.nextPiece := (congrArg State.nextPiece rest :)
  exact ⟨rest, (congrArg Twin.state twin :), by rw [← piece], sent⟩

theorem finishHandover_cases {m : Nat} (until_ : s.twin.handoverTo = some m) :
    finishHandover s = (if (allTracks.all fun t => (s.track t).pieces.all fun y => y.posted || pieceFrom m y.num) = true
      then { s with twin := { s.twin with state := .standby, handoverTo := none } } else s) := by
  unfold finishHandover
  rw [until_]

theorem handover_hands (active : s.twin.state = .active) (none : s.twin.handoverTo = none) (up : s.twin.linkUp = true) (paired : s.twin.paired = true)
    (ready : partnerReady s = true) : ∃ t, exec .handover s = .next t ∧
      (t.twin.state = .standby ∧ t.twin.handoverTo = .none ∨ t.twin.state = .active ∧ t.twin.handoverTo = some s.nextPiece.toNat) ∧
      Output.twinFrame (twinFrame 0x02 0 s.twin.txSeq 0 0 0 (leBytes 1 4 ++ zeros 3 ++ leBytes 4 s.nextPiece.toNat ++ leBytes 4 s.nextPiece.toNat)) ∈ t.out := by
  obtain ⟨-, state, until_, sent⟩ := handoverSent_shows up paired
  refine ⟨_, exec_handover active none up paired ready, ?_⟩
  rw [finishHandover_cases until_]
  split
  · exact ⟨.inl ⟨rfl, rfl⟩, sent⟩
  · exact ⟨.inr ⟨state.trans active, until_⟩, sent⟩

theorem handover_standsBy (active : s.twin.state = .active) (none : s.twin.handoverTo = none) (up : s.twin.linkUp = true) (paired : s.twin.paired = true)
    (ready : partnerReady s = true) (posted : ∀ k : Track, ∀ y ∈ (s.track k).pieces, y.posted = true) : ∃ t, exec .handover s = .next t ∧ t.twin.state = .standby ∧
      Output.twinFrame (twinFrame 0x02 0 s.twin.txSeq 0 0 0 (leBytes 1 4 ++ zeros 3 ++ leBytes 4 s.nextPiece.toNat ++ leBytes 4 s.nextPiece.toNat)) ∈ t.out ∧
      { t with twin := s.twin, out := s.out, cnt := s.cnt } = s := by
  obtain ⟨frame, -, until_, sent⟩ := handoverSent_shows up paired
  have track (k : Track) : (handoverSent s).track k = s.track k := by
    cases k
    · exact (congrArg State.trackA frame :)
    · exact (congrArg State.trackB frame :)
  have all : (allTracks.all fun t => ((handoverSent s).track t).pieces.all fun y => y.posted || pieceFrom s.nextPiece.toNat y.num) = true :=
    List.all_eq_true.mpr fun k _ => List.all_eq_true.mpr fun y mem => by
      rw [track] at mem
      rw [posted k y mem]
      rfl
  refine ⟨_, exec_handover active none up paired ready, ?_⟩
  rw [finishHandover_cases until_, if_pos all]
  exact ⟨rfl, sent, frame⟩

theorem handover_refused (active : s.twin.state = .active) (none : s.twin.handoverTo = none) (apart : s.twin.paired = false) :
    exec .handover s = .next { s with twin := { s.twin with refused := true } } := by
  change Host.Outcome.next (startHandover s) = _
  unfold startHandover
  rw [none, if_neg (by decide), if_neg (by rw [active]; decide), if_pos (by rw [apart]; simp)]

end

end Sys2Proof.Machine
end

open Sys2Proof Sys2Proof.Machine

/-- Settles O49: reading on, taking a track over and scheduling all leave the twin's state, and frames move its sending side alone; each clause is then read off
the state that its command sets. -/
theorem twinStatesAndRoles : Obligations.TwinStatesAndRoles := by
  refine ⟨fun s => ⟨fun r => twinLinkUp_alone r, twinLinkUp_raises s, fun up => ?down, fun enabled heard third standby paired a b jobs => ?missIdle,
      fun enabled a b => ?fence, fun enabled heard third standby paired => ?miss, twinFenceIn_fences, fun off => ?fenceNote, fenceClear_clears, fun on other => ?enable,
      rfl, fun fenced released apart => ⟨_, fenceClear_alone fenced released apart, rfl, rfl⟩, fun asserted => ?held, rfl, handover_refused, twinEnable_alone⟩,
    fun s => ⟨fun seq unit role serial next enabled sent a b => ?pairAlone, fun seq unit role serial next enabled sent => ?pair,
      fun seq cause a b next standby paired low high => ?health, handover_hands, fun seq cause a b next standby paired low high offA offB jobs => ?healthIdle, handover_standsBy⟩⟩
  case down =>
    have twin := linkDown_twin s
    refine ⟨linkDown s, congrArg Host.Outcome.next (if_pos up), ?_⟩
    generalize linkDown s = t at *
    exact ⟨congrArg Twin.linkUp twin, congrArg Twin.xfers twin, congrArg Twin.readyA twin, congrArg Twin.readyB twin, (congrArg Twin.windows twin :), (congrArg Twin.state twin :)⟩
  case missIdle =>
    have idle := takeOver_idle (s := missCounted s) a b jobs (lostFrom (missCounted s)) true
    exact ⟨_, (exec_thirdMiss enabled heard third standby paired).trans (congrArg Host.Outcome.next idle), rfl, rfl, rfl, rfl⟩
  case fence =>
    obtain ⟨t, ran, state, fenced, asserted, released, holdA, holdB⟩ := twinFenceIn_fences enabled
    exact ⟨t, ran, state, fenced, asserted, released, holdA, holdB, twinFenceIn_frame enabled a b ran⟩
  case miss =>
    obtain ⟨st, way, twin⟩ := takeOver_twin (missCounted s) (lostFrom (missCounted s)) true
    refine ⟨_, exec_thirdMiss enabled heard third standby paired, ?_⟩
    generalize takeOver (missCounted s) (lostFrom (missCounted s)) true = t at *
    rw [twin]
    exact ⟨way, rfl, rfl, rfl⟩
  case fenceNote =>
    change execTwinFenceIn true s = _
    unfold execTwinFenceIn
    dsimp only
    rw [if_neg (by change ¬ (true && twinEnabled s) = true; rw [off]; decide)]
  case enable =>
    cases on with
    | true =>
      obtain ⟨t, ran, enabled, state, sent⟩ := twinEnable_on (Bool.eq_false_of_not_eq_true other)
      exact ⟨t, ran, enabled, state, fun _ => sent, nofun⟩
    | false =>
      obtain ⟨t, ran, enabled, state, paired, sent, fence⟩ := twinEnable_off (Bool.eq_true_of_not_eq_false other)
      exact ⟨t, ran, enabled, state, nofun, fun _ => ⟨paired, sent, fence⟩⟩
  case held =>
    change Host.Outcome.next (clearFence s) = _
    unfold clearFence
    rw [if_neg (by rw [asserted, Bool.not_true, Bool.and_false]; exact Bool.false_ne_true)]
  case pairAlone =>
    obtain ⟨t, ran, paired, misses, state⟩ := pair_pairs (unit := unit) (role := role) (serial := serial) next enabled sent
    refine ⟨t, ran, paired, misses, ?_, pair_frame next enabled sent a b ran⟩
    rw [state, pairState_eq]
  case pair =>
    obtain ⟨t, ran, paired, misses, state⟩ := pair_pairs (unit := unit) (role := role) (serial := serial) next enabled sent
    refine ⟨t, ran, paired, misses, ?_⟩
    rw [state, pairState_eq]
  case health =>
    obtain ⟨st, way, twin⟩ := takeOver_twin (frameTaken s seq) (healthFrom (frameTaken s seq) a b) (decide (cause ≠ 4))
    refine ⟨_, exec_health next standby paired low high, ?_⟩
    generalize takeOver (frameTaken s seq) (healthFrom (frameTaken s seq) a b) (decide (cause ≠ 4)) = t at *
    rw [twin]
    exact ⟨way, rfl, rfl⟩
  case healthIdle =>
    have frame := frameTaken_frame s seq
    have ran := exec_health (a := a) (b := b) next standby paired low high
    generalize frameTaken s seq = u at *
    have idle := takeOver_idle (s := u) ((congrArg (fun v : State => v.trackA.armed) frame :).trans offA) ((congrArg (fun v : State => v.trackB.armed) frame :).trans offB)
      ((congrArg (fun v : State => v.sched.jobs) frame :).trans jobs) (healthFrom u a b) (decide (cause ≠ 4))
    rw [idle] at ran
    exact ⟨_, ran, rfl, rfl, rfl, frame⟩

section
/-! PROOF. What the work on jobs, sequences and models leaves of the loaded plans. -/

namespace Sys2Proof.Machine

open Sys2Proof

section
variable {s t u : State} {n : Nat} {p : PlanRec}

/-! ### The plans beside what the work moves -/

/-- A plan beside the lowerings it keeps for older jobs and its mark of a drain. -/
def corePlan (p : PlanRec) : PlanRec := { p with olds := [], invalid := false }

def corePlans (v : Plans) : Plans := { v with loaded := v.loaded.map corePlan }

/-- A change that leaves the plans but for that. -/
def PlansKept (s t : State) : Prop := corePlans t.plans = corePlans s.plans

theorem plansKept_same (same : t.plans = s.plans) : PlansKept s t := congrArg corePlans same

theorem plansKept_bare (same : bare t = bare s) : PlansKept s t := by
  have plans : ({ t.plans with loaded := t.plans.loaded.map barePlan } : Plans) = { s.plans with loaded := s.plans.loaded.map barePlan } := (congrArg State.plans same :)
  have twice (v : Plans) : corePlans { v with loaded := v.loaded.map barePlan } = corePlans v := by
    unfold corePlans
    rw [List.map_map]
    rfl
  exact (twice t.plans).symm.trans ((congrArg corePlans plans).trans (twice s.plans))

theorem works_plans_kept (h : Works PlansKept s t) : PlansKept s t :=
  works_same (f := fun v => corePlans v.plans) (fun _ _ w => (work_cases w).elim (fun plain => plansKept_bare (work_bare_plain plain)) id) h

theorem works_beside (h : Works PlansKept u s) (same : t.plans = s.plans) : Works PlansKept u t := h.tail (.extra (plansKept_same same))

theorem modTrack_plans (s : State) (k : Track) (g : TrackState → TrackState) : (s.modTrack k g).plans = s.plans := by cases k <;> rfl

/-- A plan is found as it was, but for that. -/
theorem plansKept_find (kept : PlansKept s t) (n : Nat) : (findPlan t n).map corePlan = (findPlan s n).map corePlan := by
  have loaded : t.plans.loaded.map corePlan = s.plans.loaded.map corePlan := congrArg Plans.loaded kept
  have pick (ps : List PlanRec) : (ps.find? fun p => p.handle == n).map corePlan = (ps.map corePlan).find? fun p => p.handle == n :=
    (List.find?_map (p := fun p : PlanRec => p.handle == n) (f := corePlan) (l := ps)).symm
  unfold findPlan
  rw [pick, pick, loaded]

theorem plansKept_found (kept : PlansKept s t) (found : findPlan s n = some p) : ∃ z, findPlan t n = some z ∧ corePlan z = corePlan p := by
  have same := plansKept_find kept n
  rw [found] at same
  exact Option.map_eq_some_iff.mp same

theorem findPlan_plans (same : t.plans = s.plans) : findPlan t n = findPlan s n := by
  unfold findPlan
  rw [same]

/-- Every loaded plan. -/
def eachPlan (Q : PlanRec → Prop) (s : State) : Prop := ∀ p ∈ s.plans.loaded, Q (corePlan p)

theorem eachPlan_kept {Q : PlanRec → Prop} (kept : PlansKept s t) (h : eachPlan Q s) : eachPlan Q t := by
  have loaded : t.plans.loaded.map corePlan = s.plans.loaded.map corePlan := congrArg Plans.loaded kept
  intro p mem
  have there : corePlan p ∈ s.plans.loaded.map corePlan := loaded ▸ List.mem_map_of_mem mem
  obtain ⟨q, mem, same⟩ := List.mem_map.mp there
  rw [← same]
  exact h q mem

theorem findPlan_mem (found : findPlan s n = some p) : p ∈ s.plans.loaded ∧ p.handle = n :=
  ⟨List.mem_of_find?_eq_some found, by simpa using List.find?_some found⟩

/-! ### A plan that is changed -/

theorem find_mapWhere {ps : List PlanRec} {f : PlanRec → PlanRec} {m : Nat} (own : ∀ p, p.handle = m → (f p).handle = m) :
    (mapWhere (fun p => p.handle == m) f ps).find? (fun p => p.handle == n) = if n = m then (ps.find? fun p => p.handle == n).map f else ps.find? fun p => p.handle == n := by
  have handle (p : PlanRec) : (if (p.handle == m) = true then f p else p).handle = p.handle := by
    split
    next hit => exact (own p (by simpa using hit)).trans (by simpa using hit : p.handle = m).symm
    · rfl
  unfold mapWhere
  rw [List.find?_map]
  have same : ((fun p : PlanRec => p.handle == n) ∘ fun p => if (p.handle == m) = true then f p else p) = fun p => p.handle == n := funext fun p => by
    rw [Function.comp, handle]
  rw [same]
  split
  next eq =>
    subst eq
    cases found : ps.find? fun p => p.handle == n with
    | none => rfl
    | some p => exact congrArg some (if_pos (by simpa using List.find?_some found))
  next other =>
    cases found : ps.find? fun p => p.handle == n with
    | none => rfl
    | some p => exact congrArg some (if_neg (by
        have here : p.handle = n := by simpa using List.find?_some found
        simpa [here] using other))

theorem findPlan_modPlan {f : PlanRec → PlanRec} {m : Nat} (own : ∀ p, p.handle = m → (f p).handle = m) :
    findPlan (modPlan s m f) n = if n = m then (findPlan s n).map f else findPlan s n := find_mapWhere own

/-! ### Work on sequences -/

section
variable {E : State → State → Prop} {s₀ : State}

theorem works_addRef {q} (h : Works E s₀ s) : Works E s₀ (addRef s q) := works_pool h

theorem works_erasePage {q} (h : Works E s₀ s) : Works E s₀ (erasePage s q) := works_pool h

theorem works_newSeq {fn pl c pr pc x} (h : Works E s₀ s) : Works E s₀ (newSeq s fn pl c pr pc x).2 := works_pool h

theorem works_leaveOne {q} (h : Works E s₀ s) : Works E s₀ (leaveOne s q) := by
  have dropped (es : List (Nat × PtEntry)) : Works E s₀ (es.foldl (fun s e => match e.2 with | .present pg _ => dropRef s q.plan pg | .absent => s) s) :=
    works_foldl h fun _ e h => by
      split
      · exact works_dropRef h
      · exact h
  exact works_ite (works_pool (dropped _)) (works_modSeq (dropped _))

theorem works_dropIndex {c k id} (h : Works E s₀ s) : Works E s₀ (dropIndex c k s id) := by
  refine works_foldl h fun _ _ h => ?_
  split
  · exact works_when (fun h => works_chipCnt (works_dropOne h)) h
  · exact h

theorem works_dropDown {c m id} (k : Nat) (h : Works E s₀ s) : Works E s₀ (dropDown c m id k s) := by
  induction k generalizing s with
  | zero => exact h
  | succ k ih =>
    unfold dropDown
    exact works_unless (fun h => ih (works_dropIndex h)) h

theorem works_dropIdle {m} (qs : List SeqSt) (h : Works E s₀ s) : Works E s₀ (dropIdle m qs s) := by
  induction qs generalizing s with
  | nil => exact h
  | cons q qs ih =>
    unfold dropIdle
    split
    · exact h
    · split
      · exact ih h
      · exact ih (works_modSeq (works_dropDown _ h))

theorem works_pauseLoop {pl} (k : Nat) (gs : List SeqSt) (h : Works E s₀ s) : Works E s₀ (pauseLoop pl k gs s).2 := by
  induction k generalizing s gs with
  | zero => exact h
  | succ k ih =>
    unfold pauseLoop
    dsimp only
    split
    · exact h
    · split
      · exact h
      · exact works_endSeq (works_chipCnt h)
      · exact ih _ (works_chipCnt (works_modSeq (works_foldl h fun _ _ h => works_chipCnt (works_dropOne h))))

end

theorem works_enterStep {pl q} (h : Works PlansKept u s) : Works PlansKept u (enterStep pl s q) := by
  unfold enterStep
  split
  · exact h
  · dsimp only
    split
    · exact works_beside (works_chipCnt (works_modSeq (works_foldl h fun _ _ h => works_addRef (works_erasePage h)))) (modTrack_plans ..)
    · exact works_chipCnt (works_modSeq (works_foldl h fun _ _ h => works_addRef (works_erasePage h)))

/-! ### A batch step is formed -/

/-- The sequences that leave, and those that have grown too long, are out of the batch. -/
def batchCleared (s : State) (p : PlanRec) : State :=
  let s := (batchSeqs s p.handle).foldl leaveOne s
  ((batchSeqs s p.handle).filter fun q => wantsStep s q && decide (seqLimit p < q.len + q.fresh.length)).foldl (fun s q => endSeq s q .seqTooLong) s

theorem works_batchCleared {E : State → State → Prop} (h : Works E u s) : Works E u (batchCleared s p) :=
  works_foldl (works_foldl h fun _ _ => works_leaveOne) fun _ _ => works_endSeq

/-- Does a sequence join the batch, or has it its seat? -/
def joiningBatch (q : SeqSt) : Bool := q.state == .paused || q.state == .joining || (q.state == .needsRefill && q.joinedAt == 0)

/-- The sequences that go on with their step, and the joins that are admitted. -/
def batchGrows (s : State) (p : PlanRec) : List SeqSt := ((batchSeqs s p.handle).filter (wantsStep s)).filter fun q => !joiningBatch q

def batchNeed (s : State) (p : PlanRec) : Nat := sumNat ((batchGrows s p).map fun q => (needKeys p q).length)

def batchJoins (s : State) (p : PlanRec) : List SeqSt := sortBy joinBefore (((batchSeqs s p.handle).filter (wantsStep s)).filter joiningBatch)

def batchAdmitted (s : State) (p : PlanRec) : List SeqSt :=
  if freePages s < batchNeed s p then []
  else admitJoins p (freePages s - batchNeed s p) (1024 - ((batchSeqs s p.handle).filter fun q => q.state != .joining).length) (batchJoins s p)

/-- The batch has its pages: the joins that wait are counted, idle sequences give up theirs, and a batch that is still too large pauses sequences. -/
def batchRoomed (s : State) (p : PlanRec) : List SeqSt × State :=
  let grow := batchGrows s p
  let g := batchNeed s p
  let adm := batchAdmitted s p
  let free := freePages s
  let s := ((batchJoins s p).filter fun q => !(adm.any fun a => a.id == q.id)).foldl
    (fun s q => (modSeq s q.id fun x => { x with deferred := if x.deferred = 0 then s.now + 1 else x.deferred }).chipCnt 31) s
  let idle := sortBy (fun a b => if ranksAbove b a then true else if ranksAbove a b then false else decide (a.lastStep ≤ b.lastStep))
    (s.pool.seqs.filter fun q => !(grow.any fun x => x.id == q.id) && !q.inStep && !q.entries.isEmpty)
  let s := if free < g then dropIdle g idle s else s
  pauseLoop p (grow.length + 1) grow s

theorem works_batchRoomed {E : State → State → Prop} (h : Works E u s) : Works E u (batchRoomed s p).2 :=
  works_pauseLoop _ _ (works_when (works_dropIdle _) (works_foldl h fun _ _ h => works_chipCnt (works_modSeq h)))

/-- The sequences of the step have entered it. -/
def stepEntered (s : State) (p : PlanRec) : State :=
  let s := batchCleared s p
  ((batchRoomed s p).1 ++ batchAdmitted s p).foldl (enterStep p) (batchRoomed s p).2

theorem works_stepEntered (h : Works PlansKept u s) : Works PlansKept u (stepEntered s p) :=
  works_foldl (works_batchRoomed (works_batchCleared h)) fun _ _ => works_enterStep

/-- The plan counts its step, and the page table its version where the sequences' pages have changed. -/
def stepCounted (before : List (Nat × List (Nat × PtEntry))) (p : PlanRec) (s : State) : State :=
  let s := modPlan s p.handle fun x => { x with batchStep := x.batchStep + 1 }
  (if (s.pool.seqs.map fun q => (q.id, q.entries)) = before then s else raiseVersion s).chipCnt 24

/-- A step is formed of the members that have entered it. -/
def stepFormed (before : List (Nat × List (Nat × PtEntry))) (p : PlanRec) (s : State) : State :=
  let s := stepCounted before p s
  let members := (batchSeqs s p.handle).filter (·.inStep)
  if members.isEmpty then s else (addJob s (stepJob p members s.now)).2

theorem startStep_eq (s : State) (p : PlanRec) : startStep s p = if stepRuns s p.handle || !(batchSeqs s p.handle).any (wantsStep s) then s
    else stepFormed (s.pool.seqs.map fun q => (q.id, q.entries)) p (stepEntered s p) := by
  unfold startStep stepFormed stepCounted stepEntered batchRoomed batchAdmitted batchJoins batchNeed batchGrows batchCleared
  rfl

theorem raiseVersion_plans {c : Prop} [Decidable c] (s : State) : (if c then s else raiseVersion s).plans = s.plans := by
  split <;> rfl

theorem stepFormed_plans (before : List (Nat × List (Nat × PtEntry))) (p : PlanRec) (s : State) :
    (stepFormed before p s).plans = (modPlan s p.handle fun x => { x with batchStep := x.batchStep + 1 }).plans := by
  have counted : (stepCounted before p s).plans = (modPlan s p.handle fun x => { x with batchStep := x.batchStep + 1 }).plans := raiseVersion_plans _
  unfold stepFormed
  generalize stepCounted before p s = v at *
  dsimp only
  split
  · exact counted
  · exact counted

/-! ### What settles after it -/

theorem works_dropSaved {E : State → State → Prop} (h : Works E u s) : Works E u (dropSaved s) := by
  refine works_foldl h fun _ _ h => ?_
  split
  · exact works_ite (works_failJob h) (works_when works_failJob h)
  · exact h

theorem plansKept_granted (s t : State) (h : Granted s t) : PlansKept s t := by
  obtain ⟨_, _, rfl⟩ := h
  rfl

theorem plansKept_invalidate (s : State) : PlansKept s (invalidate s) := by
  have each (p : PlanRec) : corePlan (if p.stale then { p with invalid := true } else p) = corePlan p := by
    split <;> rfl
  change ({ s.plans with loaded := (mapWhere (·.stale) (fun p => { p with invalid := true }) s.plans.loaded).map corePlan } : Plans) = corePlans s.plans
  unfold mapWhere
  rw [List.map_map]
  exact congrArg (fun v => ({ s.plans with loaded := v } : Plans)) (List.map_congr_left fun p _ => each p)

theorem works_drainsSettled (h : Works PlansKept u s) : Works PlansKept u (settleDrains s) := by
  refine works_foldl h fun s g h => ?_
  dsimp only
  split
  · exact (works_beside (t := s.modRegion (Fin.ofNat 8 g) fun x => { x with state := 2 }) h rfl).tail (.extra (plansKept_invalidate _))
  · exact h

theorem works_armsFinished (h : Works PlansKept u s) : Works PlansKept u (finishArms s) := by
  refine works_foldl h fun s t h => ?_
  split
  · exact works_ite (works_complete (works_beside h (modTrack_plans ..))) h
  · exact h

theorem works_settle (h : Works PlansKept u s) : Works PlansKept u (settle s) :=
  works_armsFinished (works_drainsSettled (works_dropSaved (works_serveImages plansKept_granted h)))

theorem startStep_steps {q : PlanRec} (found : findPlan s n = some q) (handle : p.handle = n) (idle : stepRuns s n = false)
    (wants : ((batchSeqs s n).any (wantsStep s)) = true) : ∃ z, findPlan (settle (startStep s p)) n = some z ∧ z.batchStep = q.batchStep + 1 := by
  have made := startStep_eq s p
  rw [if_neg (by rw [handle, idle, wants]; decide)] at made
  obtain ⟨y, there, same⟩ := plansKept_found (works_plans_kept (works_stepEntered (p := p) (works_refl s))) found
  have stepped : findPlan (startStep s p) n = some { y with batchStep := y.batchStep + 1 } := by
    have plans := stepFormed_plans (s.pool.seqs.map fun q => (q.id, q.entries)) p (stepEntered s p)
    rw [← made] at plans
    generalize stepEntered s p = v at there plans
    have counted : findPlan (modPlan v p.handle fun x => { x with batchStep := x.batchStep + 1 }) n = (findPlan v n).map fun x => { x with batchStep := x.batchStep + 1 } :=
      (findPlan_modPlan (by exact fun _ h => h)).trans (if_pos handle.symm)
    exact (findPlan_plans plans).trans (counted.trans (congrArg (Option.map _) there))
  obtain ⟨z, found', core⟩ := plansKept_found (works_plans_kept (works_settle (works_refl (startStep s p)))) stepped
  refine ⟨z, found', ?_⟩
  have one : z.batchStep = y.batchStep + 1 := (congrArg PlanRec.batchStep core :)
  have two : y.batchStep = q.batchStep := (congrArg PlanRec.batchStep same :)
  rw [one, two]

end

end Sys2Proof.Machine
end

section
/-! PROOF. What placing models and loading plans leaves of the plans (R229, R250, R270). -/

namespace Sys2Proof.Machine

open Sys2Proof

section
variable {s t u : State} {n : Nat} {p q : PlanRec}

/-! ### Models -/

theorem storesOnly_foldl {α : Type} {f : State → α → State} (each : ∀ v a, storesOnly v (f v a)) (xs : List α) : storesOnly s (xs.foldl f s) :=
  foldl_keeps (storesOnly s) f (fun v a h => storesOnly_trans h (each v a)) xs s rfl

theorem storesOnly_writeModel (s : State) (low : Lowering) (ways : List Nat) (on : Nat → Bool) : storesOnly s (writeModel s low ways on) :=
  storesOnly_foldl (fun _ _ => storesOnly_writeVia ..) _

theorem storesOnly_writeRows (s : State) (p : PlanRec) : storesOnly s (writeRows s p) :=
  storesOnly_trans (storesOnly_foldl (fun _ _ => storesOnly_foldl (fun _ _ => storesOnly_writeVia ..) _) _) (storesOnly_foldl (fun _ _ => storesOnly_writeVia ..) _)

theorem storesOnly_plans (h : storesOnly s t) : t.plans = s.plans := (congrArg State.plans h :)

theorem storesOnly_sched (h : storesOnly s t) : t.sched = s.sched := (congrArg State.sched h :)

/-- Taking ways gives up models, and nothing else. -/
theorem takeWays_frame {cls k : Nat} {w : List Nat} (ms : List ModelSt) (taken : takeWays s cls k ms = some (w, t)) :
    { t with sched := { t.sched with models := s.sched.models } } = s := by
  have none {u : State} (free : (freeWays u cls k).map (fun w => (w, u)) = some (w, t)) : t = u := by
    obtain ⟨v, -, same⟩ := Option.map_eq_some_iff.mp free
    exact (Prod.mk.inj same).2.symm
  induction ms generalizing s with
  | nil =>
    rw [none taken]
  | cons m ms ih =>
    unfold takeWays at taken
    split at taken
    · rw [(Prod.mk.inj (Option.some.inj taken)).2]
    · have rest := ih taken
      exact (congrArg (fun v : State => { v with sched := { v.sched with models := s.sched.models } }) rest :)

theorem findWays_frame {w : List Nat} (found : findWays s p = some (w, t)) : { t with sched := { t.sched with models := s.sched.models }, cnt := s.cnt } = s := by
  obtain ⟨v, taken, same⟩ := Option.map_eq_some_iff.mp found
  have frame := takeWays_frame _ (taken.trans (congrArg some (Prod.eta v).symm))
  obtain rfl := (Prod.mk.inj same).2
  exact (congrArg (fun x : State => { x with cnt := s.cnt }) frame :)

theorem findWays_plans {w : List Nat} (found : findWays s p = some (w, t)) : t.plans = s.plans := (congrArg State.plans (findWays_frame found) :)

theorem findWays_acct {w : List Nat} (found : findWays s p = some (w, t)) : t.sched.acct = s.sched.acct := (congrArg (fun v : State => v.sched.acct) (findWays_frame found) :)

theorem placeModel_frame (s : State) (p : PlanRec) (w : List Nat) (b : Bool) : (placeModel s p w b).plans = s.plans ∧ (placeModel s p w b).sched.acct = s.sched.acct := by
  have stores := storesOnly_writeModel s p.low w fun _ => true
  unfold placeModel
  generalize writeModel s p.low w (fun _ => true) = v at *
  have plans := storesOnly_plans stores
  have acct : v.sched.acct = s.sched.acct := congrArg Sched.acct (storesOnly_sched stores)
  exact ⟨plans, acct⟩

theorem loadModel_plans (s : State) (p : PlanRec) (w : List Nat) (b : Bool) : (loadModel s p w b).plans = s.plans := by
  have placed := (placeModel_frame s p w b).1
  unfold loadModel
  generalize placeModel s p w b = v at *
  exact placed

theorem modAcct_own (v : State) (f : Fn) (g : Acct → Acct) : (modAcct v f g).sched.acct[f.val] = g v.sched.acct[f.val] := Vector.getElem_set_self ..

/-- A model that is loaded counts its bytes for its function. -/
theorem loadModel_wardBytes (s : State) (p : PlanRec) (w : List Nat) (b : Bool) :
    (loadModel s p w b).sched.acct[p.fn.val].wardBytes = s.sched.acct[p.fn.val].wardBytes + modelBytes p := by
  have placed := (placeModel_frame s p w b).2
  unfold loadModel
  generalize placeModel s p w b = v at *
  dsimp only
  rw [modAcct_own]
  exact congrArg (fun x : Vector Acct 16 => x[p.fn.val].wardBytes + modelBytes p) placed

theorem requestLoad_plans (s : State) (p : PlanRec) (b : Option (RingRef × Hdr × Nat)) : (requestLoad s p b).plans = s.plans := by
  unfold requestLoad
  split <;> rfl

theorem loadIfWays_plans (s : State) (p : PlanRec) : (loadIfWays s p).plans = s.plans := by
  unfold loadIfWays
  split
  · rfl
  · split
    next found => exact (loadModel_plans ..).trans (findWays_plans found)
    · rfl

/-! ### Plans that are placed -/

/-- The plans with records that join them. -/
def plansJoined (v : Plans) (recs : List PlanRec) : Plans := { v with loaded := v.loaded ++ recs, nextHandle := v.nextHandle + recs.length }

theorem rowsWritten_plans (recs : List PlanRec) (s : State) : (recs.foldl writeRows s).plans = s.plans :=
  storesOnly_plans (storesOnly_foldl storesOnly_writeRows recs)

theorem placeLoad_plans (s : State) (p : PlanRec) (q : Option PlanRec) : ∃ l, (placeLoad s p q).plans = { plansJoined s.plans (p :: q.toList) with loading := l } := by
  have rows : ∀ v : State, ((p :: q.toList).foldl writeRows v).plans = v.plans := rowsWritten_plans _
  have placed : ∀ v : State, v.plans = plansJoined s.plans (p :: q.toList) → ∃ l, (match q with
      | none => v
      | some q => if modelBytes q = 0 then v else match findWays v q with
        | some (w, v) => loadModel v q w false
        | none => { requestLoad v q none with plans := { v.plans with loading := some p.handle } }).plans = { plansJoined s.plans (p :: q.toList) with loading := l } := by
    intro v same
    have kept : ∃ l, v.plans = { plansJoined s.plans (p :: q.toList) with loading := l } := ⟨_, same⟩
    cases q with
    | none => exact kept
    | some q =>
      dsimp only
      split
      · exact kept
      · split
        next found => exact ⟨_, (loadModel_plans ..).trans ((findWays_plans found).trans same)⟩
        · exact ⟨_, congrArg (fun x : Plans => { x with loading := some p.handle }) same⟩
  obtain ⟨l, made⟩ := placed ((p :: q.toList).foldl writeRows (takePages { s with plans := plansJoined s.plans (p :: q.toList) } (sumNat ((p :: q.toList).map (·.batchPages))))) (rows _)
  exact ⟨l, (loadIfWays_plans ..).trans made⟩

/-! ### The loader's queue -/

/-- Lowerings that are recorded move the made lowerings alone. -/
def madeOnly (s t : State) : Prop := { t with plans := { t.plans with made := s.plans.made } } = s

theorem madeOnly_recordLow (h : madeOnly s t) (k : List Byte) (l : Lowering) : madeOnly s (recordLow t k l) := by
  unfold recordLow
  split
  · exact h
  · exact h

theorem loadLows_made (s : State) (o : PlanLoadOp) (b : List Byte) (x y : Lowering) : madeOnly s (loadLows s o b x y).1 := by
  have start : madeOnly s s := rfl
  unfold loadLows
  split
  · exact start
  · dsimp only
    split
    · exact madeOnly_recordLow start _ _
    · exact madeOnly_recordLow (madeOnly_recordLow start _ _) _ _

theorem relowerLows_made (s : State) (p : PlanRec) (x y : Lowering) : madeOnly s (relowerLows s p x y).1 := by
  have start : madeOnly s s := rfl
  unfold relowerLows
  dsimp only
  split
  · exact madeOnly_recordLow start _ _
  · exact madeOnly_recordLow (madeOnly_recordLow start _ _) _ _

theorem madeOnly_loaded (h : madeOnly s t) : t.plans.loaded = s.plans.loaded := (congrArg (fun v : State => v.plans.loaded) h :)

theorem madeOnly_loadQ (h : madeOnly s t) : t.plans.loadQ = s.plans.loadQ := (congrArg (fun v : State => v.plans.loadQ) h :)

theorem findPlan_loaded (same : t.plans.loaded = s.plans.loaded) : findPlan t n = findPlan s n := by
  unfold findPlan
  rw [same]

/-- The plans once the next load of the queue is read. -/
def queueNext (v : Plans) : Plans := { v with loadQ := v.loadQ.drop 1, loading := none }

theorem nextInQueue_plans (s : State) : { (nextInQueue s).plans with grant := s.plans.grant } = queueNext s.plans :=
  (startLoad_frame { s with plans := queueNext s.plans }).1

theorem nextInQueue_shows (s : State) : (nextInQueue s).plans.loadQ = s.plans.loadQ.drop 1 ∧ (nextInQueue s).plans.loading = none ∧ (nextInQueue s).plans.loaded = s.plans.loaded := by
  have plans := nextInQueue_plans s
  generalize nextInQueue s = t at *
  exact ⟨(congrArg Plans.loadQ plans :), (congrArg Plans.loading plans :), (congrArg Plans.loaded plans :)⟩

theorem writeReport_plans (s : State) (m : Nat) : (writeReport s m).plans = s.plans := by
  unfold writeReport
  split <;> rfl

/-- A plan is found, and it is ready. -/
def readyPlan (n : Nat) (s : State) : Prop := ∃ z, findPlan s n = some z ∧ z.ready = true

theorem readyPlan_plans (same : t.plans = s.plans) (h : readyPlan n s) : readyPlan n t := by
  obtain ⟨z, found, ready⟩ := h
  exact ⟨z, (findPlan_plans same).trans found, ready⟩

/-- A plan's record marked ready. -/
def readied (x : PlanRec) : PlanRec := { x with ready := true }

theorem findPlan_readied (s : State) (m n : Nat) : findPlan (modPlan s m readied) n = if n = m then (findPlan s n).map readied else findPlan s n :=
  findPlan_modPlan fun _ h => h

theorem readyPlan_readied (m : Nat) (h : readyPlan n s) : readyPlan n (modPlan s m readied) := by
  obtain ⟨z, found, ready⟩ := h
  have there := findPlan_readied s m n
  rw [found] at there
  split at there
  · exact ⟨_, there, rfl⟩
  · exact ⟨z, there, ready⟩

theorem measured_plans (recs : List PlanRec) (s : State) (k : Nat) : (recs.foldl (fun s x => measure s k x.fn.val x.handle x.c.digest) s).plans = s.plans :=
  foldl_keeps (fun v : State => v.plans = s.plans) (fun s x => measure s k x.fn.val x.handle x.c.digest) (fun _ _ h => h) recs s rfl

/-- The records that a load has brought. -/
def loadRecs (s : State) (p : PlanRec) : List PlanRec := p :: (p.comp.bind (findPlan s)).toList

theorem endLoad_plans (s : State) (r : RingRef) (h : Hdr) (p : PlanRec) : (endLoad s r h p).plans =
    ((loadRecs s p).foldl (fun s x => modPlan s x.handle readied) ((loadRecs s p).foldl (fun s x => measure s 6 x.fn.val x.handle x.c.digest) s)).plans :=
  (complete_plans ..).trans (writeReport_plans ..)

/-- A load that ends leaves its plan ready, and the loader's queue to the next. -/
theorem endLoad_ready (r : RingRef) (h : Hdr) (there : (findPlan s p.handle).isSome = true) :
    readyPlan p.handle (endLoad s r h p) ∧ (endLoad s r h p).plans.loadQ = s.plans.loadQ := by
  have plans := endLoad_plans s r h p
  have measured := measured_plans (loadRecs s p) s 6
  generalize endLoad s r h p = t at *
  generalize (loadRecs s p).foldl (fun s x => measure s 6 x.fn.val x.handle x.c.digest) s = v at *
  refine ⟨readyPlan_plans plans ?_, ?_⟩
  · obtain ⟨z, found⟩ := Option.isSome_iff_exists.mp there
    have first : readyPlan p.handle (modPlan v p.handle readied) := by
      have here := findPlan_readied v p.handle p.handle
      rw [if_pos rfl, findPlan_plans measured, found] at here
      exact ⟨_, here, rfl⟩
    exact foldl_keeps (readyPlan p.handle) (fun s x => modPlan s x.handle readied) (fun _ (x : PlanRec) k => readyPlan_readied x.handle k)
      (p.comp.bind (findPlan s)).toList _ first
  · rw [plans, ← measured]
    exact foldl_keeps (fun w : State => w.plans.loadQ = v.plans.loadQ) (fun s x => modPlan s x.handle readied) (fun _ _ k => k) (loadRecs s p) v rfl

/-! ### A relowering -/

theorem remodel_plans (s : State) (p p' : PlanRec) : (remodel s p p').plans = (modPlan s p.handle fun _ => p').plans := by
  unfold remodel
  split
  · rfl
  · dsimp only
    have kept {c : Prop} [Decidable c] (v : State) (ms : List ModelSt) : (if c then v else { v with sched := { v.sched with models := ms } }).plans = v.plans := by
      split <;> rfl
    split
    · exact (loadModel_plans ..).trans (kept ..)
    · split
      next found => exact (loadModel_plans ..).trans ((findWays_plans found).trans (kept ..))
      · exact (requestLoad_plans ..).trans (kept ..)

end

end Sys2Proof.Machine
end

section
/-! PROOF. The loader, the wardrobe and batch steps (R218, R219, R229, R230, R250, R253, R270). -/

namespace Sys2Proof.Machine

open Sys2Proof

section
variable {s t u : State} {n : Nat} {p q : PlanRec}

theorem serveImages_plansKept (s : State) : PlansKept s (serveImages s) := works_plans_kept (works_serveImages plansKept_granted (works_refl s))

/-! ### The loader's queue -/

theorem exec_planLoadComplete {r : RingRef} {h : Hdr} {o : PlanLoadOp} {rest : List (RingRef × Hdr × PlanLoadOp)} (free : s.plans.loading = none)
    (queue : s.plans.loadQ = (r, h, o) :: rest) (b : List Byte) (x y : Lowering) : exec (.planLoadComplete b x y) s =
      match loadPlan (loadLows s o b x y).1 r.fn o b (loadLows s o b x y).2.1 (loadLows s o b x y).2.2 with
      | .error e => .next (nextInQueue (complete (loadLows s o b x y).1 r h 0x20 e.1 e.2))
      | .ok (p, s) => .next (if s.plans.loading.isSome then s else nextInQueue (endLoad s r h p)) := by
  change execPlanLoadComplete b x y s = _
  unfold execPlanLoadComplete
  rw [free, queue] <;> rfl

theorem planLoad_fails (r : RingRef) (h : Hdr) {o : PlanLoadOp} {rest : List (RingRef × Hdr × PlanLoadOp)} (queue : s.plans.loadQ = (r, h, o) :: rest)
    (b : List Byte) (x y : Lowering) (st : Status) (d : List Byte) : let t := nextInQueue (complete (loadLows s o b x y).1 r h 0x20 st d)
      t.plans.loadQ = rest ∧ t.plans.loading = none ∧ t.plans.loaded = s.plans.loaded := by
  have made := loadLows_made s o b x y
  generalize (loadLows s o b x y).1 = v at *
  have answered := complete_plans v r h 0x20 st d
  generalize complete v r h 0x20 st d = w at *
  obtain ⟨loadQ, loading, loaded⟩ := nextInQueue_shows w
  refine ⟨?_, loading, ?_⟩
  · rw [loadQ, answered, madeOnly_loadQ made, queue]
    rfl
  · rw [loaded, answered, madeOnly_loaded made]

/-- A load that passes its checks has placed its plan. -/
theorem loadPlan_placed {fn : Fn} {o : PlanLoadOp} {b : List Byte} {low lowC : Lowering} (passed : loadPlan s fn o b low lowC = .ok (p, u)) :
    u.plans.loadQ = s.plans.loadQ ∧ (findPlan u p.handle).isSome = true := by
  have placed : ∃ q, u = placeLoad s p q := by
    unfold loadPlan at passed
    split at passed
    · exact nomatch passed
    · split at passed
      · exact nomatch passed
      · split at passed
        · exact nomatch passed
        · dsimp only at passed
          split at passed
          · obtain ⟨rfl, rfl⟩ := Prod.mk.inj (Except.ok.inj passed)
            exact ⟨_, rfl⟩
          · split at passed
            · exact nomatch passed
            · obtain ⟨rfl, rfl⟩ := Prod.mk.inj (Except.ok.inj passed)
              exact ⟨_, rfl⟩
  obtain ⟨q, rfl⟩ := placed
  obtain ⟨l, plans⟩ := placeLoad_plans s p q
  generalize placeLoad s p q = v at *
  refine ⟨(congrArg Plans.loadQ plans :), ?_⟩
  unfold findPlan
  rw [plans]
  exact List.find?_isSome.mpr ⟨p, List.mem_append_right _ List.mem_cons_self, beq_self_eq_true _⟩

theorem planLoad_passes (r : RingRef) (h : Hdr) {o : PlanLoadOp} {rest : List (RingRef × Hdr × PlanLoadOp)} (queue : s.plans.loadQ = (r, h, o) :: rest)
    {b : List Byte} {x y : Lowering} (passed : loadPlan (loadLows s o b x y).1 r.fn o b (loadLows s o b x y).2.1 (loadLows s o b x y).2.2 = .ok (p, u)) :
    let t := nextInQueue (endLoad u r h p)
    t.plans.loadQ = rest ∧ t.plans.loading = none ∧ ∃ z, findPlan t p.handle = some z ∧ z.ready = true := by
  have made := loadLows_made s o b x y
  obtain ⟨queued, there⟩ := loadPlan_placed passed
  obtain ⟨⟨z, found, ready⟩, kept⟩ := endLoad_ready r h there
  generalize endLoad u r h p = w at *
  obtain ⟨loadQ, loading, loaded⟩ := nextInQueue_shows w
  refine ⟨?_, loading, z, (findPlan_loaded loaded).trans found, ready⟩
  rw [loadQ, kept, queued, madeOnly_loadQ made, queue]
  rfl

/-! ### Relowering -/

/-- A plan is found stale, with a lowering. -/
def stalePlan (n : Nat) (l : Lowering) (s : State) : Prop := ∃ z, findPlan s n = some z ∧ z.stale = true ∧ z.low = l

def staled (x : PlanRec) : PlanRec := { x with stale := true }

theorem findPlan_staled (s : State) (m n : Nat) : findPlan (modPlan s m staled) n = if n = m then (findPlan s n).map staled else findPlan s n :=
  findPlan_modPlan fun _ h => h

theorem stalePlan_kept {l : Lowering} (kept : PlansKept s t) (h : stalePlan n l s) : stalePlan n l t := by
  obtain ⟨z, found, stale, low⟩ := h
  obtain ⟨y, there, core⟩ := plansKept_found kept found
  have sameStale : y.stale = z.stale := (congrArg PlanRec.stale core :)
  have sameLow : y.low = z.low := (congrArg PlanRec.low core :)
  exact ⟨y, there, sameStale.trans stale, sameLow.trans low⟩

theorem stalePlan_staled {l : Lowering} (m : Nat) (h : stalePlan n l s) : stalePlan n l (modPlan s m staled) := by
  obtain ⟨z, found, stale, low⟩ := h
  have there := findPlan_staled s m n
  rw [found] at there
  split at there
  · exact ⟨_, there, rfl, low⟩
  · exact ⟨z, there, stale, low⟩

/-- A plan marked stale with its companion. -/
def bothStaled (s : State) (p : PlanRec) : State := match p.comp with
  | some q => modPlan (modPlan s p.handle staled) q staled
  | none => modPlan s p.handle staled

theorem staleRelower_eq (s : State) (p : PlanRec) : staleRelower s p =
    if allRegions.any fun g => ((bothStaled s p).reg8 g).state == 2 then invalidate (bothStaled s p) else bothStaled s p := rfl

theorem staleRelower_stale (found : findPlan s n = some p) : stalePlan n p.low (staleRelower s p) := by
  have own : stalePlan n p.low (modPlan s p.handle staled) := by
    have there := findPlan_staled s p.handle n
    rw [if_pos (findPlan_mem found).2.symm, found] at there
    exact ⟨_, there, rfl, rfl⟩
  have both : stalePlan n p.low (bothStaled s p) := by
    unfold bothStaled
    split
    · exact stalePlan_staled _ own
    · exact own
  rw [staleRelower_eq]
  generalize bothStaled s p = v at *
  split
  · exact stalePlan_kept (plansKept_invalidate v) both
  · exact both

theorem newLow_fits {c : Container} {low : Lowering} {f : Fit} {p' : PlanRec} (made : newLow s p c low f = p') :
    p'.handle = p.handle ∧ p'.low = low ∧ p'.revision = p.revision + 1 ∧ p'.stale = false := by
  subst made
  exact ⟨rfl, rfl, rfl, rfl⟩

theorem newCompLow_handle (s : State) (p q : PlanRec) (low : Lowering) : (newCompLow s p q low).handle = q.handle := rfl

/-- What a relowering that fits gives the plan, and that it leaves the companion its number. -/
theorem relower_fits {low lowC : Lowering} {p' : PlanRec} {q' : Option PlanRec} (fits : relower s p p.c low lowC = .ok (p', q')) :
    (p'.handle = p.handle ∧ p'.low = low ∧ p'.revision = p.revision + 1 ∧ p'.stale = false) ∧ ∀ x ∈ q', p.comp = some x.handle := by
  unfold relower at fits
  dsimp only at fits
  split at fits
  · exact nomatch fits
  · split at fits
    · exact nomatch fits
    · split at fits
      · obtain ⟨main, none⟩ := Prod.mk.inj (Except.ok.inj fits)
        refine ⟨newLow_fits main, fun x mem => ?_⟩
        rw [← none] at mem
        exact nomatch mem
      next y found =>
        split at fits
        · exact nomatch fits
        · obtain ⟨main, comp⟩ := Prod.mk.inj (Except.ok.inj fits)
          refine ⟨newLow_fits main, fun x mem => ?_⟩
          rw [← comp] at mem
          obtain ⟨m, named, there⟩ := Option.bind_eq_some_iff.mp found
          rw [named, ← Option.mem_some.mp mem, newCompLow_handle, (findPlan_mem there).2]

/-- A companion that is remodelled beside its plan. -/
def companionRemodelled (s : State) (q' : Option PlanRec) : State := match q' with
  | some q' => match findPlan s q'.handle with
    | some q => remodel s q q'
    | none => s
  | none => s

theorem applyRelower_eq (s : State) (p p' : PlanRec) (q' : Option PlanRec) : applyRelower s p p' q' =
    dropOldModels (logHealth (writeReport ((p' :: q'.toList).foldl writeRows (companionRemodelled (remodel s p p') q')) p'.handle)
      { HealthEntry.of 18 p'.handle with fn := some p'.fn.val }) := rfl

theorem findPlan_remodel (s : State) (p p' : PlanRec) (own : p'.handle = p.handle) :
    findPlan (remodel s p p') n = if n = p.handle then (findPlan s n).map fun _ => p' else findPlan s n :=
  (findPlan_plans (remodel_plans s p p')).trans (findPlan_modPlan fun _ _ => own)

theorem applyRelower_found {p' : PlanRec} {q' : Option PlanRec} (found : findPlan s n = some p) (own : p'.handle = p.handle) (other : ∀ x ∈ q', x.handle ≠ n) :
    ∃ z, findPlan (applyRelower s p p' q') n = some z ∧ corePlan z = corePlan p' := by
  have first : findPlan (remodel s p p') n = some p' := by
    rw [findPlan_remodel s p p' own, if_pos (findPlan_mem found).2.symm, found]
    rfl
  rw [applyRelower_eq]
  generalize remodel s p p' = v at *
  have second : findPlan (companionRemodelled v q') n = some p' := by
    unfold companionRemodelled
    split
    next x =>
      split
      next y there =>
        have handle : y.handle = x.handle := (findPlan_mem there).2
        rw [findPlan_remodel v y x handle.symm, if_neg (by rw [handle]; exact (other x rfl).symm)]
        exact first
      · exact first
    · exact first
  generalize companionRemodelled v q' = w at *
  have rows := rowsWritten_plans (p' :: q'.toList) w
  generalize (p' :: q'.toList).foldl writeRows w = x at *
  have logged : (logHealth (writeReport x p'.handle) { HealthEntry.of 18 p'.handle with fn := some p'.fn.val }).plans = w.plans :=
    (logHealth_plans ..).trans ((writeReport_plans ..).trans rows)
  generalize logHealth (writeReport x p'.handle) { HealthEntry.of 18 p'.handle with fn := some p'.fn.val } = y at *
  exact plansKept_found (works_plans_kept (works_dropOldModels (works_refl y))) ((findPlan_plans logged).trans second)

/-- The head of the relowering queue is taken out. -/
def relowerTaken (s : State) (rest : List Nat) : State := { s with plans := { s.plans with relowerQ := rest } }

theorem exec_relowerComplete {rest : List Nat} (queue : s.plans.relowerQ = n :: rest) (found : findPlan s n = some p) (x y : Lowering) :
    exec (.relowerComplete x y) s =
      match relower (relowerLows (relowerTaken s rest) p x y).1 p p.c (relowerLows (relowerTaken s rest) p x y).2.1 (relowerLows (relowerTaken s rest) p x y).2.2 with
      | .error _ => .next (serveImages (staleRelower (relowerLows (relowerTaken s rest) p x y).1 p))
      | .ok (p', q') => .next (serveImages (applyRelower (relowerLows (relowerTaken s rest) p x y).1 p p' q')) := by
  change execRelowerComplete x y s = _
  unfold execRelowerComplete
  rw [queue]
  dsimp only
  rw [show findPlan { s with plans := { s.plans with relowerQ := rest } } n = some p from found]
  rfl

theorem findPlan_relowerLows (rest : List Nat) (found : findPlan s n = some p) (x y : Lowering) :
    findPlan (relowerLows (relowerTaken s rest) p x y).1 n = some p :=
  (findPlan_loaded (madeOnly_loaded (relowerLows_made (relowerTaken s rest) p x y))).trans found

theorem relower_fails (found : findPlan s n = some p) : stalePlan n p.low (serveImages (staleRelower s p)) :=
  stalePlan_kept (serveImages_plansKept _) (staleRelower_stale found)

theorem relower_passes {low lowC : Lowering} {p' : PlanRec} {q' : Option PlanRec} (found : findPlan s n = some p) (fits : relower s p p.c low lowC = .ok (p', q'))
    (other : p.comp ≠ some n) :
    ∃ z, findPlan (serveImages (applyRelower s p p' q')) n = some z ∧ z.low = low ∧ z.revision = p.revision + 1 ∧ z.stale = false := by
  obtain ⟨⟨own, lowered, counted, fresh⟩, companion⟩ := relower_fits fits
  obtain ⟨y, there, same⟩ := applyRelower_found found own (q' := q') fun x mem eq => other (eq ▸ companion x mem)
  obtain ⟨z, served, core⟩ := plansKept_found (serveImages_plansKept _) there
  have both := core.trans same
  have sameLow : z.low = p'.low := (congrArg PlanRec.low both :)
  have sameRevision : z.revision = p'.revision := (congrArg PlanRec.revision both :)
  have sameStale : z.stale = p'.stale := (congrArg PlanRec.stale both :)
  exact ⟨z, served, sameLow.trans lowered, sameRevision.trans counted, sameStale.trans fresh⟩

/-! ### Unloading -/

theorem dropPlan_plans (s : State) (p : PlanRec) : ∃ v, PlansKept s v ∧ (dropPlan s p).plans.loaded = v.plans.loaded.filter fun x => x.handle != p.handle :=
  ⟨dropModel (closeBatch (scrubModels s p) p.handle) p.handle,
    works_plans_kept (works_dropModel (works_closeBatch (works_scrubModels (works_refl s)))), rfl⟩

theorem eachPlan_dropPlan {Q : PlanRec → Prop} (p : PlanRec) (h : eachPlan Q s) : eachPlan Q (dropPlan s p) := by
  obtain ⟨v, kept, loaded⟩ := dropPlan_plans s p
  intro x mem
  rw [loaded] at mem
  exact eachPlan_kept kept h x (List.mem_filter.mp mem).1

theorem eachPlan_dropped (s : State) (p : PlanRec) : eachPlan (fun x => x.handle ≠ p.handle) (dropPlan s p) := by
  obtain ⟨v, -, loaded⟩ := dropPlan_plans s p
  intro x mem
  rw [loaded] at mem
  exact bne_iff_ne.mp (List.mem_filter.mp mem).2

theorem findPlan_gone (gone : eachPlan (fun x => x.handle ≠ n) s) : findPlan s n = none :=
  List.find?_eq_none.mpr fun x mem => by
    have other : x.handle ≠ n := gone x mem
    simpa using other

theorem eachPlan_plans {Q : PlanRec → Prop} (same : t.plans = s.plans) (h : eachPlan Q s) : eachPlan Q t := eachPlan_kept (plansKept_same same) h

theorem unloadPlan_gone (s : State) (p : PlanRec) (r : RingRef) (h : Hdr) : eachPlan (fun x => x.handle ≠ p.handle) (unloadPlan s p r h) := by
  have dropped : eachPlan (fun x => x.handle ≠ p.handle) ((p.comp.bind (findPlan s)).toList.foldl dropPlan (dropPlan s p)) :=
    foldl_keeps (eachPlan fun x => x.handle ≠ p.handle) dropPlan (fun _ x k => eachPlan_dropPlan x k) _ _ (eachPlan_dropped s p)
  exact eachPlan_plans ((complete_plans ..).trans (measured_plans (p :: (p.comp.bind (findPlan s)).toList) _ 7)) dropped

/-! ### The wardrobe -/

theorem exec_wardrobeLoad {l : LoadReq} (next : nextLoad s = some l) (plan : loadPlanOf s l = some p) (bad : Bool) : exec (.wardrobeLoadComplete l.plan bad) s =
    if bad || p.storeBad then .next (serveImages (loadFailed s p))
    else if (residentModel s p).isSome then .next (serveImages (loadWaitDone (donePins s p .ok)))
    else match findWays s p with
      | some (w, s) => .next (serveImages (loadWaitDone (donePins (loadModel s p w false) p .ok)))
      | none => .next s := by
  change execWardrobeLoadComplete l.plan bad s = _
  unfold execWardrobeLoadComplete
  rw [next]
  dsimp only
  rw [if_neg (fun no => no rfl), plan] <;> rfl

theorem donePins_plans (s : State) (p : PlanRec) (st : Status) : (donePins s p st).plans = s.plans := by
  unfold donePins
  dsimp only
  refine foldl_keeps (fun v : State => v.plans = s.plans) _ (fun v l k => ?_) _ _ rfl
  split
  · refine (complete_plans ..).trans ?_
    split
    · exact k
    · exact k
  · exact k

theorem donePins_acct (s : State) (p : PlanRec) (st : Status) : (donePins s p st).sched.acct = s.sched.acct := by
  unfold donePins
  dsimp only
  refine foldl_keeps (fun v : State => v.sched.acct = s.sched.acct) _ (fun v l k => ?_) _ _ rfl
  split
  · refine (congrArg Sched.acct (postCompl_sched ..)).trans ?_
    split
    · exact k
    · exact k
  · exact k

theorem eachPlan_nextInQueue {Q : PlanRec → Prop} (h : eachPlan Q s) : eachPlan Q (nextInQueue s) := by
  intro x mem
  rw [(nextInQueue_shows s).2.2] at mem
  exact h x mem

theorem eachPlan_loadWaitFails {Q : PlanRec → Prop} (m : Nat) (h : eachPlan Q s) : eachPlan Q (loadWaitFails s m) := by
  unfold loadWaitFails
  split
  · split
    · refine eachPlan_nextInQueue (eachPlan_plans (complete_plans ..) ?_)
      exact foldl_keeps (eachPlan Q) dropPlan (fun _ x k => eachPlan_dropPlan x k) _ s h
    · exact h
  · exact h

/-- The plans of a load that has failed are marked. -/
theorem loadFailed_marks (s : State) (p : PlanRec) : eachPlan (fun x => x.handle = p.handle → x.storeBad = true) (loadFailed s p) := by
  have marked (v : State) : eachPlan (fun x => x.handle = p.handle → x.storeBad = true) (modPlan v p.handle fun x => { x with storeBad := true }) := by
    intro x mem handle
    obtain ⟨y, -, rfl⟩ := exists_of_mem_mapWhere mem
    by_cases hit : (y.handle == p.handle) = true
    · rw [if_pos hit]
      rfl
    · rw [if_neg hit] at handle
      exact absurd (beq_iff_eq.mpr handle) hit
  unfold loadFailed
  dsimp only
  refine eachPlan_loadWaitFails _ (eachPlan_plans (donePins_plans ..) ?_)
  exact eachPlan_kept (works_plans_kept (works_foldl (works_refl _) fun _ _ => works_failJob)) (marked _)

theorem nextInQueue_sched (s : State) : (nextInQueue s).sched = s.sched := (congrArg State.sched (startLoad_frame { s with plans := queueNext s.plans }).2.2 :)

theorem endLoad_sched (s : State) (r : RingRef) (h : Hdr) (p : PlanRec) : (endLoad s r h p).sched = s.sched := by
  have measured : ((loadRecs s p).foldl (fun s x => measure s 6 x.fn.val x.handle x.c.digest) s).sched = s.sched :=
    foldl_keeps (fun v : State => v.sched = s.sched) (fun s (x : PlanRec) => measure s 6 x.fn.val x.handle x.c.digest) (fun _ _ k => k) _ s rfl
  have marked := foldl_keeps (fun v : State => v.sched = s.sched) (fun v (x : PlanRec) => modPlan v x.handle readied) (fun _ _ k => k) (loadRecs s p) _ measured
  have reported (v : State) (m : Nat) : (writeReport v m).sched = v.sched := by
    unfold writeReport
    split <;> rfl
  exact (postCompl_sched ..).trans ((reported ..).trans marked)

theorem loadWaitDone_sched (s : State) : (loadWaitDone s).sched = s.sched := by
  unfold loadWaitDone
  split
  · split
    · split
      · exact (nextInQueue_sched _).trans (endLoad_sched ..)
      · rfl
    · rfl
  · rfl

theorem wardrobeLoad_bytes {w : List Nat} (found : findWays s p = some (w, u)) :
    (serveImages (loadWaitDone (donePins (loadModel u p w false) p .ok))).sched.acct[p.fn.val].wardBytes = s.sched.acct[p.fn.val].wardBytes + modelBytes p := by
  have served := bare_wardBytes (works_bare granted_bare (works_serveImages (E := Granted) (fun _ _ k => k) (works_refl (loadWaitDone (donePins (loadModel u p w false) p .ok))))) p.fn
  have waited : (loadWaitDone (donePins (loadModel u p w false) p .ok)).sched.acct = (loadModel u p w false).sched.acct :=
    (congrArg Sched.acct (loadWaitDone_sched _)).trans (donePins_acct ..)
  rw [served, waited, loadModel_wardBytes, findWays_acct found]

/-! ### The batch -/

theorem works_moveFinal {k : Track} (h : Works PlansKept u s) : Works PlansKept u (moveFinal p k s n) := by
  have ended {v : State} {m : Nat} (h : Works PlansKept u v) : Works PlansKept u (sidesEnded v k m) := by
    unfold sidesEnded
    split
    · exact works_ite h (works_ite (works_beside h (modTrack_plans ..)) (works_verdictFold h))
    · exact h
  unfold moveFinal
  split
  · exact h
  · dsimp only
    refine works_unless (fun h => ended ?_) h
    split
    · exact works_modSeq (works_beside h (modTrack_plans ..))
    · exact works_newSeq (works_beside h (modTrack_plans ..))

theorem works_takeSeqJob {j : Job} (h : Works PlansKept u s) : Works PlansKept u (takeSeqJob p s j) := by
  have refused {st : Status} {m : Nat} : Works PlansKept u (seqRefused s j st m) := works_removeJob (works_reportJob h)
  unfold takeSeqJob
  split
  · dsimp only
    split
    · exact works_beside h rfl
    · split
      · exact refused
      · exact works_ite refused (works_ite h (works_beside h rfl))
  · exact h

/-- The batch's final tokens and its SEQ_STEPs taken. -/
def batchTaken (s : State) (p : PlanRec) (n : Nat) : State :=
  let v := allTracks.foldl (fun s t => (piecesOn s t n).foldl (moveFinal p t) s) s
  (seqJobs v n).foldl (takeSeqJob p) v

theorem batchTaken_plans (s : State) (p : PlanRec) (n : Nat) : PlansKept s (batchTaken s p n) :=
  works_plans_kept (works_foldl (works_foldl (works_refl s) fun _ _ h => works_foldl h fun _ _ => works_moveFinal) fun _ _ => works_takeSeqJob)

theorem exec_batchStepStart (found : findPlan s n = some p) (idle : stepRuns s n = false) (well : s.pwr.device = false) :
    exec (.batchStepStart n) s = .next (settle (startStep (batchTaken s p n) p)) := by
  change execBatchStepStart n s = _
  unfold execBatchStepStart
  rw [found]
  dsimp only
  rw [if_neg (by rw [idle, well]; decide)]
  rfl

theorem batchStep_steps (found : findPlan s n = some p) (idle : stepRuns (batchTaken s p n) n = false)
    (wants : ((batchSeqs (batchTaken s p n) n).any (wantsStep (batchTaken s p n))) = true) :
    ∃ z, findPlan (settle (startStep (batchTaken s p n) p)) n = some z ∧ z.batchStep = p.batchStep + 1 := by
  obtain ⟨q, there, core⟩ := plansKept_found (batchTaken_plans s p n) found
  obtain ⟨z, stepped, one⟩ := startStep_steps (p := p) there (findPlan_mem found).2 idle wants
  have same : q.batchStep = p.batchStep := (congrArg PlanRec.batchStep core :)
  exact ⟨z, stepped, one.trans (congrArg (· + 1) same)⟩

theorem batchTaken_none (jobs : seqJobs s n = []) (pieces : ∀ k, piecesOn s k n = []) : batchTaken s p n = s := by
  have still : allTracks.foldl (fun s t => (piecesOn s t n).foldl (moveFinal p t) s) s = s := foldl_fixed _ fun k _ => by
    rw [pieces k]
    rfl
  unfold batchTaken
  rw [still]
  dsimp only
  rw [jobs]
  rfl

end

end Sys2Proof.Machine

open Sys2Proof Sys2Proof.Machine

/-- Settles O58: the loaded plans, beside the lowerings kept for older jobs and the mark of a drain, are an invariant of the work; each command's change of its plan is
found again after it. -/
theorem loaderAndSteps : Obligations.LoaderAndSteps := by
  refine ⟨fun s => ⟨fun r h o q b x y free queue => ⟨fun e failed => ?fails, fun p u passed one => ?passes, fun p u passed waits => ?waits⟩, fun no b x y => ?noLoad,
      fun n rest x y queue none => ?gone, fun none x y => ?noRelower, fun n rest p x y queue found => ⟨fun e failed => ?stale, fun p' q' fits other => ?fits⟩,
      fun n p r h found asked ready => ?unload, fun n p r h found asked busy => ?stays, fun l p bad next plan failed => ?loadFails,
      fun l p w u next plan well absent found => ?loads, fun l p m next plan well resident => ?resident⟩,
    fun s n => ⟨fun none => ?unknown, fun runs => ?runs, fun p found idle well => ?steps, fun p found idle well jobs pieces => ?quietSteps⟩⟩
  case fails =>
    have ran := exec_planLoadComplete free queue b x y
    rw [failed] at ran
    obtain ⟨loadQ, loading, loaded⟩ := planLoad_fails r h queue b x y e.1 e.2
    exact ⟨_, ran, rfl, loadQ, loading, loaded, keeps_of_staysNext (cmd_planLoadComplete b x y s) ran⟩
  case passes =>
    have ran := exec_planLoadComplete free queue b x y
    rw [passed] at ran
    dsimp only at ran
    rw [one, if_neg (by exact Bool.false_ne_true)] at ran
    obtain ⟨loadQ, loading, ready⟩ := planLoad_passes r h queue passed
    exact ⟨_, ran, rfl, loadQ, loading, ready, keeps_of_staysNext (cmd_planLoadComplete b x y s) ran⟩
  case waits =>
    have ran := exec_planLoadComplete free queue b x y
    rw [passed] at ran
    dsimp only at ran
    rwa [if_pos waits] at ran
  case noLoad =>
    change execPlanLoadComplete b x y s = _
    unfold execPlanLoadComplete
    rcases no with empty | busy
    · rw [empty]
      split
      · contradiction
      · rfl
    · obtain ⟨m, loading⟩ := Option.isSome_iff_exists.mp busy
      rw [loading]
  case gone =>
    change execRelowerComplete x y s = _
    unfold execRelowerComplete
    rw [queue]
    dsimp only
    rw [show findPlan { s with plans := { s.plans with relowerQ := rest } } n = Option.none from none]
  case noRelower =>
    change execRelowerComplete x y s = _
    unfold execRelowerComplete
    rw [none]
  case stale =>
    have ran := exec_relowerComplete queue found x y
    have failed' : relower (relowerLows (relowerTaken s rest) p x y).1 p p.c (relowerLows (relowerTaken s rest) p x y).2.1 (relowerLows (relowerTaken s rest) p x y).2.2 = .error e := failed
    rw [failed'] at ran
    exact ⟨_, ran, rfl, relower_fails (findPlan_relowerLows rest found x y), keeps_of_staysNext (cmd_relowerComplete x y s) ran⟩
  case fits =>
    have ran := exec_relowerComplete queue found x y
    have fits' : relower (relowerLows (relowerTaken s rest) p x y).1 p p.c (relowerLows (relowerTaken s rest) p x y).2.1 (relowerLows (relowerTaken s rest) p x y).2.2 = .ok (p', q') := fits
    rw [fits'] at ran
    exact ⟨_, ran, rfl, relower_passes (findPlan_relowerLows rest found x y) fits' other, keeps_of_staysNext (cmd_relowerComplete x y s) ran⟩
  case unload =>
    have ran : exec (.planUnloadComplete n) s = .next (serveImages (unloadPlan s p r h)) := by
      change execPlanUnloadComplete n s = _
      unfold execPlanUnloadComplete
      rw [found]
      dsimp only
      rw [asked]
      dsimp only
      rw [if_pos ready]
    have gone := eachPlan_kept (serveImages_plansKept _) (unloadPlan_gone s p r h)
    rw [(findPlan_mem found).2] at gone
    exact ⟨_, ran, rfl, findPlan_gone gone, keeps_of_staysNext (cmd_planUnloadComplete n s) ran⟩
  case stays =>
    change execPlanUnloadComplete n s = _
    unfold execPlanUnloadComplete
    rw [found]
    dsimp only
    rw [asked]
    dsimp only
    rw [if_neg (by rw [busy]; exact Bool.false_ne_true)]
  case loadFails =>
    have ran := exec_wardrobeLoad next plan bad
    rw [if_pos (Bool.or_eq_true_iff.mpr failed)] at ran
    have marked := eachPlan_kept (serveImages_plansKept _) (loadFailed_marks s p)
    refine ⟨_, ran, rfl, fun z there => ?_, keeps_of_staysNext (cmd_wardrobeLoadComplete l.plan bad s) ran⟩
    obtain ⟨mem, handle⟩ := findPlan_mem there
    exact marked z mem handle
  case loads =>
    have ran := exec_wardrobeLoad next plan false
    rw [if_neg (by rw [well]; decide), absent, if_neg (by decide), found] at ran
    exact ⟨_, ran, rfl, wardrobeLoad_bytes found, keeps_of_staysNext (cmd_wardrobeLoadComplete l.plan false s) ran⟩
  case resident =>
    have ran := exec_wardrobeLoad next plan false
    rw [if_neg (by rw [well]; decide), resident, if_pos (by rfl)] at ran
    exact ⟨_, ran, rfl, keeps_of_staysNext (cmd_wardrobeLoadComplete l.plan false s) ran⟩
  case unknown =>
    change execBatchStepStart n s = _
    unfold execBatchStepStart
    rw [none]
  case runs =>
    change execBatchStepStart n s = _
    unfold execBatchStepStart
    split
    · rfl
    · exact if_pos (by rw [runs]; rfl)
  case steps =>
    have ran := exec_batchStepStart found idle well
    exact ⟨_, ran, rfl, batchStep_steps found, keeps_of_staysNext (cmd_batchStepStart n s) ran⟩
  case quietSteps =>
    have ran := exec_batchStepStart found idle well
    have still := batchTaken_none (p := p) jobs pieces
    have steps := batchStep_steps found
    rw [still] at ran steps
    exact ⟨_, ran, rfl, steps idle, keeps_of_staysNext (cmd_batchStepStart n s) ran⟩
end

section
/-! PROOF. What the module's work keeps of its jobs and of the tailoring steps, once it is so. -/

namespace Sys2Proof.Machine

open Sys2Proof

/-- A change that keeps a property of the state. -/
def Keeping (P : State → Prop) (s t : State) : Prop := P s → P t

/-- Every job. -/
def eachJob (Q : Job → Prop) (s : State) : Prop := ∀ x ∈ s.sched.jobs, Q x

/-- What a job's admission leaves, a change of the work leaves. -/
def Lasting (Q : Job → Prop) : Prop := ∀ j k, JobKept j k → Q j → Q k

/-- Every job of this number has ended. -/
def jobEnded (n : Nat) (s : State) : Prop := eachJob (fun x => x.id = n → x.state = .done) s

/-- No tailoring step is left of this job. -/
def noTailor (n : Nat) (s : State) : Prop := ∀ x ∈ s.tailor.steps, x.job ≠ n

section
variable {s t : State} {n : Nat} {Q R : Job → Prop}

theorem works_keeping {P : State → Prop} (plain : ∀ s t, Work (fun _ _ => False) s t → P s → P t) (h : Works (Keeping P) s t) (start : P s) : P t :=
  works_keep (fun _ _ w => (work_cases w).elim (plain _ _) id) h start

theorem eachJob_map {g : Job → Job} (kept : ∀ j ∈ s.sched.jobs, Q j → Q (g j)) (h : eachJob Q s) :
    eachJob Q { s with sched := { s.sched with jobs := s.sched.jobs.map g } } := fun x mem => by
  obtain ⟨j, old, rfl⟩ := List.mem_map.mp mem
  exact kept j old (h j old)

theorem eachJob_modJob {f : Job → Job} {m : Nat} (kept : ∀ j, Q j → Q (f j)) (h : eachJob Q s) : eachJob Q (modJob s m f) :=
  eachJob_map (fun j _ old => by split; exacts [kept j old, old]) h

/-- What a change of the jobs of a number gives them, they have. -/
theorem eachJob_changed {f : Job → Job} (made : ∀ j, R (f j)) : eachJob (fun x => x.id = n → R x) (modJob s n f) := fun x mem id => by
  obtain ⟨j, -, rfl⟩ := exists_of_mem_mapWhere mem
  by_cases hit : (j.id == n) = true
  · rw [if_pos hit]
    exact made j
  · rw [if_neg hit] at id
    exact absurd (beq_iff_eq.mpr id) hit

theorem eachJob_jobs (same : t.sched.jobs = s.sched.jobs) (h : eachJob Q s) : eachJob Q t := fun x mem => h x (same ▸ mem)

/-- What is said of no job of the module holds of its jobs. -/
theorem eachJob_unlisted (none : findJob s n = none) : eachJob (fun x => x.id = n → R x) s := fun x mem id => by
  have other := List.find?_eq_none.mp none x mem
  exact absurd (beq_iff_eq.mpr id) other

theorem work_eachJob (lasting : Lasting Q) (h : Work (fun _ _ => False) s t) (each : eachJob Q s) : eachJob Q t := by
  cases h with
  | jobs g kept => exact eachJob_map (fun j mem => lasting j (g j) (kept j mem).1) each
  | unlist m => exact fun x mem => each x (List.mem_filter.mp mem).1
  | hold k => cases k <;> exact each
  | piece k => cases k <;> exact each
  | extra no => exact no.elim
  | aside | books | vector | ring | waited | fold | basket | health | tile | olds | tailor => exact each

theorem works_eachJob (lasting : Lasting Q) (h : Works (Keeping (eachJob Q)) s t) (each : eachJob Q s) : eachJob Q t :=
  works_keeping (fun _ _ => work_eachJob lasting) h each

theorem work_jobEnded (h : Work (fun _ _ => False) s t) (ended : jobEnded n s) : jobEnded n t := by
  cases h with
  | jobs g kept =>
    refine eachJob_map (fun j mem done same => ?_) ended
    have old : j.id = n := (kept j mem).1.id.symm.trans same
    rcases (kept j mem).2 (done old) with still | ⟨k, listed, num, running⟩
    · exact still
    · exact absurd (ended k listed (num.trans old)) running
  | unlist m => exact fun x mem => ended x (List.mem_filter.mp mem).1
  | hold k => cases k <;> exact ended
  | piece k => cases k <;> exact ended
  | extra no => exact no.elim
  | aside | books | vector | ring | waited | fold | basket | health | tile | olds | tailor => exact ended

theorem work_noTailor (h : Work (fun _ _ => False) s t) (gone : noTailor n s) : noTailor n t := by
  cases h with
  | tailor cache steps old =>
    intro x mem
    obtain ⟨y, there, same⟩ := old x mem
    rw [← same]
    exact gone y there
  | hold k => cases k <;> exact gone
  | piece k => cases k <;> exact gone
  | extra no => exact no.elim
  | aside | books | jobs | unlist | vector | ring | waited | fold | basket | health | tile | olds => exact gone

/-! ### Serving the jobs -/

theorem granted_keeping (other : ∀ (j : Job) (k : Nat), Q j → Q { j with staging := k }) (s t : State) (h : Granted s t) : Keeping (eachJob Q) s t := by
  obtain ⟨m, k, rfl⟩ := h
  exact eachJob_modJob fun j => other j k

theorem serveImages_eachJob (lasting : Lasting Q) (other : ∀ (j : Job) (k : Nat), Q j → Q { j with staging := k }) (each : eachJob Q s) : eachJob Q (serveImages s) :=
  works_eachJob lasting (works_serveImages (granted_keeping other) (works_refl s)) each

theorem serveImages_ended (ended : jobEnded n s) : jobEnded n (serveImages s) :=
  works_keeping (fun _ _ => work_jobEnded) (works_serveImages (granted_keeping fun _ _ h => h) (works_refl s)) ended

theorem granted_noTailor (s t : State) (h : Granted s t) : Keeping (noTailor n) s t := by
  obtain ⟨_, _, rfl⟩ := h
  exact id

theorem serveImages_noTailor (gone : noTailor n s) : noTailor n (serveImages s) :=
  works_keeping (fun _ _ => work_noTailor) (works_serveImages granted_noTailor (works_refl s)) gone

theorem findTailor_gone (gone : noTailor n s) : findTailor s n = none :=
  List.find?_eq_none.mpr fun x mem => by simpa using gone x mem

/-! ### Staging is granted -/

def stagingWants (s : State) : List Job := sortBy (fun a b => lexLe (candKey s a) (candKey s b)) (s.sched.jobs.filter wantsStaging)

def grantTo (s : State) (j : Job) : State :=
  if stagingUsed s + stagingNeed s j ≤ stageBytes s then takeCached (modJob s j.id fun x => { x with staging := stagingNeed s j }) j else s

theorem serveImages_eq (s : State) : serveImages s = schedule (giveEngines ((stagingWants s).foldl grantTo s)) := rfl

def stagedAs (n k : Nat) (x : Job) : Prop := x.id = n → x.staging = k

theorem stagedAs_lasting (n k : Nat) : Lasting (stagedAs n k) := fun _ _ kept staged id => kept.staging.trans (staged (kept.id.symm.trans id))

theorem grantTo_staged {j : Job} (fits : stagingUsed s + stagingNeed s j ≤ stageBytes s) : eachJob (stagedAs j.id (stagingNeed s j)) (grantTo s j) := by
  unfold grantTo
  rw [if_pos fits]
  exact works_eachJob (stagedAs_lasting _ _) (works_takeCached (works_refl _)) (eachJob_changed (R := fun x => x.staging = stagingNeed s j) fun _ => rfl)

theorem grantTo_other {j : Job} {k : Nat} (other : j.id ≠ n) (staged : eachJob (stagedAs n k) s) : eachJob (stagedAs n k) (grantTo s j) := by
  unfold grantTo
  split
  · refine works_eachJob (stagedAs_lasting _ _) (works_takeCached (works_refl _)) fun x mem id => ?_
    obtain ⟨y, old, rfl⟩ := exists_of_mem_mapWhere mem
    by_cases hit : (y.id == j.id) = true
    · rw [if_pos hit] at id
      exact absurd ((beq_iff_eq.mp hit).symm.trans id) other
    · rw [if_neg hit] at id ⊢
      exact staged y old id
  · exact staged

theorem serveImages_staged {j : Job} {rest : List Job} (first : stagingWants s = j :: rest) (others : ∀ y ∈ rest, y.id ≠ j.id)
    (fits : stagingUsed s + stagingNeed s j ≤ stageBytes s) : eachJob (stagedAs j.id (stagingNeed s j)) (serveImages s) := by
  rw [serveImages_eq, first]
  exact works_eachJob (stagedAs_lasting _ _) (works_schedule (works_giveEngines (works_refl _)))
    (foldl_mem_keeps (P := eachJob (stagedAs j.id (stagingNeed s j))) (f := grantTo) (xs := rest) (grantTo_staged fits) fun _ y mem => grantTo_other (others y mem))

/-! ### Images that are decoded and encoded -/

/-- A job of this number is decoded, with this note. -/
def decodedAs (n : Nat) (st : Status) (x : Job) : Prop := x.id = n → x.decoded = true ∧ x.note = st

theorem decodedAs_lasting (n : Nat) (st : Status) : Lasting (decodedAs n st) := fun _ _ kept decoded id =>
  have ⟨done, note⟩ := decoded (kept.id.symm.trans id)
  ⟨kept.decoded done, kept.note.trans note⟩

theorem imageDecoded_good {j : Job} {o : ImageReadOp} {pb : List Byte} {r : DecodeResult} (good : r.corrupt = false) :
    eachJob (decodedAs j.id (if r.rowsDecoded < o.height then .truncated else .ok)) (imageDecoded s j o pb r) := by
  unfold imageDecoded
  rw [good, if_neg Bool.false_ne_true]
  exact eachJob_changed (R := fun x => x.decoded = true ∧ x.note = if r.rowsDecoded < o.height then .truncated else .ok) fun _ => ⟨rfl, rfl⟩

theorem imageDecoded_corrupt {j : Job} {o : ImageReadOp} {pb : List Byte} {r : DecodeResult} (image : j.kind = .image o pb) (bad : r.corrupt = true) :
    jobEnded j.id (imageDecoded s j o pb r) := by
  unfold imageDecoded failJob
  rw [if_pos bad, image]
  exact fun x => finishJob_ended _ j _ x

/-- A sample that is decoded whole. -/
theorem sampleDecoded_good {j : Job} {k : Nat} {r : DecodeResult} {tl : TailorSt} {x : SampleSt} (found : findTailor s j.id = some tl)
    (sample : (tl.samples.find? fun y => y.idx == k) = some x) (good : r.corrupt = false) (whole : x.height ≤ r.rowsDecoded) :
    eachJob (fun y => y.id = j.id → y.decoded = true) (sampleDecoded s j k r) := by
  unfold sampleDecoded
  rw [found, Option.bind_some, sample]
  dsimp only
  rw [if_neg (by rw [good]; exact fun no => no.elim Bool.false_ne_true (Nat.not_lt.mpr whole))]
  exact eachJob_changed (R := fun y => y.decoded = true) fun _ => rfl

/-- A job's images of a kind hold a stream. -/
def encodedAs (n k : Nat) (b : List Byte) (x : Job) : Prop := x.id = n → ∀ i ∈ x.images, i.kind = k → i.data = b ∧ i.len = b.length

theorem encodedAs_lasting (n k : Nat) (b : List Byte) : Lasting (encodedAs n k b) := fun _ _ kept encoded id => by
  rw [kept.images]
  exact encoded (kept.id.symm.trans id)

theorem works_reportPost {P : State → Prop} {u : State} {j : Job} {st : Status} {x : List Byte} {p : Post}
    (waits : ∀ v m, Keeping P v (modJob v m fun x => { x with posting := some p, note := st, state := .running })) (h : Works (Keeping P) u s) :
    Works (Keeping P) u (reportPost s j st x p) :=
  works_ite (works_removeJob (works_reportJob (works_setBuilding h))) (h.tail (.extra (waits _ _)))

theorem works_postImage {Q : Job → Prop} {u : State} {j : Job} (posting : ∀ (x : Job) (p : Post) (st : Status), Q x → Q { x with posting := some p, note := st, state := .running })
    (staging : ∀ x : Job, Q x → Q { x with staging := 0, pixels := [] }) (h : Works (Keeping (eachJob Q)) u s) : Works (Keeping (eachJob Q)) u (postImage s j) := by
  unfold postImage
  split
  · refine works_reportPost (fun _ _ => eachJob_modJob fun x => posting x _ _) (Relation.ReflTransGen.tail (works_unless works_chipCnt h) (.extra (eachJob_modJob staging)))
  · exact h

theorem hostEncoded_encoded (s : State) (n k : Nat) (e : Fin 8) (b : List Byte) : eachJob (encodedAs n k b) (hostEncoded s n k e b) := by
  unfold hostEncoded
  split
  next none => exact eachJob_unlisted none
  next j found =>
    dsimp only
    have made (v : State) : eachJob (encodedAs n k b)
        (modJob v n fun x => { x with images := mapWhere (fun i => i.kind == k) (fun i => { i with data := b, len := b.length }) x.images }) :=
      eachJob_changed (R := fun x => ∀ i ∈ x.images, i.kind = k → i.data = b ∧ i.len = b.length) fun x i mem kind => by
        obtain ⟨y, -, rfl⟩ := exists_of_mem_mapWhere mem
        by_cases hit : (y.kind == k) = true
        · rw [if_pos hit]
          exact ⟨rfl, rfl⟩
        · rw [if_neg hit] at kind
          exact absurd (beq_iff_eq.mpr kind) hit
    have posted (v : State) (j : Job) (each : eachJob (encodedAs n k b) v) : eachJob (encodedAs n k b) (postImage v j) :=
      works_eachJob (encodedAs_lasting n k b) (works_postImage (by exact fun _ _ _ h => h) (by exact fun _ h => h) (works_refl v)) each
    split
    · split
      · exact posted _ _ (made _)
      · exact made _
    · exact made _

end

end Sys2Proof.Machine
end

section
/-! PROOF. Codec engines, staging and the tailoring commit (R287, R339, R343, R355, R359). -/

namespace Sys2Proof.Machine

open Sys2Proof

section
variable {s t u : State} {n k : Nat} {p : PlanRec} {j : Job} {tl : TailorSt} {e : Fin 8}

/-! ### A tailoring step ends -/

theorem endTailor_ended (s : State) (j : Job) (st : Status) (d : List Byte) : jobEnded j.id (endTailor s j st d) :=
  serveImages_ended fun x => finishJob_ended _ j _ x

theorem endMemberTailor_ended (s : State) (j : Job) (st : Status) (d : List Byte) : jobEnded j.id (endMemberTailor s j st d) :=
  serveImages_ended fun x => finishJob_ended _ j _ x

/-- The step of a job is dropped. -/
def tailorDropped (s : State) (n : Nat) : State := { s with tailor := { s.tailor with steps := s.tailor.steps.filter fun x => x.job != n } }

theorem tailorDropped_gone (s : State) (n : Nat) : noTailor n (tailorDropped s n) := fun _ mem => bne_iff_ne.mp (List.mem_filter.mp mem).2

theorem endTailor_gone (s : State) (j : Job) (st : Status) (d : List Byte) : noTailor j.id (endTailor s j st d) :=
  serveImages_noTailor (works_keeping (fun _ _ => work_noTailor) (works_finishJob (works_refl _)) (tailorDropped_gone (reportJob s j st d none) j.id))

theorem endMemberTailor_gone {st : Status} {d : List Byte} (gone : noTailor n s) : noTailor n (endMemberTailor s j st d) :=
  serveImages_noTailor (works_keeping (fun _ _ => work_noTailor) (works_finishJob (works_reportJob (works_refl s))) gone)

theorem endTailor_plans (s : State) (j : Job) (st : Status) (d : List Byte) : PlansKept s (endTailor s j st d) :=
  works_plans_kept (works_endTailor plansKept_granted (works_refl s))

theorem endMemberTailor_plans (s : State) (j : Job) (st : Status) (d : List Byte) : PlansKept s (endMemberTailor s j st d) :=
  works_plans_kept (works_serveImages plansKept_granted (works_finishJob (works_reportJob (works_refl s))))

/-! ### The swap of a plan's lowering -/

theorem prepWays_plans {w : List Nat} (found : prepWays s p = some (w, t)) : t.plans = s.plans := by
  obtain ⟨v, taken, same⟩ := Option.map_eq_some_iff.mp found
  have frame := takeWays_frame _ (taken.trans (congrArg some (Prod.eta v).symm))
  obtain rfl := (Prod.mk.inj same).2
  exact (congrArg State.plans frame :)

theorem prepareSwap_plans {low : Lowering} {c : Container} (made : prepareSwap s tl p low = .ok (c, u)) : u.plans = s.plans := by
  unfold prepareSwap at made
  dsimp only at made
  split at made
  · exact nomatch made
  · split at made
    · obtain ⟨-, rfl⟩ := Prod.mk.inj (Except.ok.inj made)
      rfl
    · split at made
      · exact nomatch made
      next ways =>
        obtain ⟨-, rfl⟩ := Prod.mk.inj (Except.ok.inj made)
        exact (loadModel_plans ..).trans (prepWays_plans ways)

/-- The prepared model of a job takes the place of the plan's model. -/
def swapModelled (s : State) (job h rev : Nat) : State :=
  { s with sched := { s.sched with models := (s.sched.models.filter fun m => !(m.plan == h && m.revision == rev)).map fun m =>
      if m.plan = h ∧ m.revision = prepRevision job then { m with revision := rev } else m } }

theorem applySwap_eq {h job : Nat} (found : findPlan s h = some p) (c : Container) (low : Lowering) :
    applySwap s job h c low =
      let p' := newLow s p c low (swapFit s p c low)
      dropOldModels (logHealth (writeReport (measure (writeRows (modPlan (swapModelled s job h p'.revision) h fun _ => p') p') 8 p.fn.val h (digest32 (tailoredBytes c))) h)
        { HealthEntry.of 18 h with fn := some p.fn.val }) := by
  unfold applySwap
  rw [found]
  rfl

theorem applySwap_found {job : Nat} (found : findPlan s n = some p) (c : Container) (low : Lowering) :
    ∃ z, findPlan (applySwap s job n c low) n = some z ∧ z.revision = p.revision + 1 ∧ z.low = low := by
  rw [applySwap_eq found]
  have own : (newLow s p c low (swapFit s p c low)).handle = n := (findPlan_mem found).2
  have lowered : (newLow s p c low (swapFit s p c low)).revision = p.revision + 1 ∧ (newLow s p c low (swapFit s p c low)).low = low := ⟨rfl, rfl⟩
  dsimp only
  generalize newLow s p c low (swapFit s p c low) = p' at *
  have first : findPlan (modPlan (swapModelled s job n p'.revision) n fun _ => p') n = some p' :=
    (findPlan_modPlan (by exact fun _ _ => own)).trans ((if_pos rfl).trans (congrArg (Option.map _) found))
  generalize modPlan (swapModelled s job n p'.revision) n (fun _ => p') = v at *
  have written : (writeRows v p').plans = v.plans := storesOnly_plans (storesOnly_writeRows v p')
  generalize writeRows v p' = w at *
  have logged : (logHealth (writeReport (measure w 8 p.fn.val n (digest32 (tailoredBytes c))) n) { HealthEntry.of 18 n with fn := some p.fn.val }).plans = v.plans :=
    (logHealth_plans ..).trans ((writeReport_plans ..).trans written)
  generalize logHealth (writeReport (measure w 8 p.fn.val n (digest32 (tailoredBytes c))) n) { HealthEntry.of 18 n with fn := some p.fn.val } = y at *
  obtain ⟨z, there, core⟩ := plansKept_found (works_plans_kept (works_dropOldModels (works_refl y))) ((findPlan_plans logged).trans first)
  have revision : z.revision = p'.revision := (congrArg PlanRec.revision core :)
  have low' : z.low = p'.low := (congrArg PlanRec.low core :)
  exact ⟨z, there, revision.trans lowered.1, low'.trans lowered.2⟩

/-! ### The commit of a tailoring step -/

theorem exec_tailoringCommit_waits (step : findTailor s n = some tl) (job : findJob s n = some j) (waits : tl.updated = false ∨ tl.prep.isSome = true) (x : Lowering) :
    exec (.tailoringCommit n x) s = .next s := by
  change execTailoringCommit n x s = _
  unfold execTailoringCommit
  rw [step, job]
  dsimp only
  rw [if_pos (by rcases waits with no | held; exacts [by rw [no]; rfl, by rw [held, Bool.or_true]])]

theorem exec_tailoringCommit (step : findTailor s n = some tl) (job : findJob s n = some j) (updated : tl.updated = true) (free : tl.prep = none)
    (found : findPlan s tl.plan = some p) (x : Lowering) : exec (.tailoringCommit n x) s = match prepareSwap s tl p x with
      | .error e => if j.member then .next (endMemberTailor (tailorDropped s n) j e (tailorAbort s tl e)) else .next (endTailor (s.chipCnt 28) j .foldAborted (tailorAbort s tl e))
      | .ok (c, u) =>
        if j.member then
          let held := match j.ring with | some r => (foldOfJob u r n).isSome | none => false
          .next (endMemberTailor (if held then modTailor u n fun y => { y with prep := some (c, x) } else dropPrepared (modTailor u n fun y => { y with prep := some (c, x) }) n) j
            (tailorStatus tl) (tailorDetail u tl (stepLoss tl)))
        else .next (endTailor ((applySwap u n p.handle c x).chipCnt 26) j (tailorStatus tl) (tailorDetail ((applySwap u n p.handle c x).chipCnt 26) tl (stepLoss tl))) := by
  change execTailoringCommit n x s = _
  unfold execTailoringCommit
  rw [step, job]
  dsimp only
  rw [if_neg (by rw [updated, free]; decide), found]
  rfl

theorem prepared_plans {b : Bool} {f : TailorSt → TailorSt} : (if b then modTailor u n f else dropPrepared (modTailor u n f) n).plans = u.plans := by
  cases b <;> rfl

/-- What a commit leaves whose plan takes its new lowering. -/
theorem tailoringCommit_ok {x : Lowering} {c : Container} (step : findTailor s n = some tl) (job : findJob s n = some j) (updated : tl.updated = true)
    (free : tl.prep = none) (found : findPlan s tl.plan = some p) (made : prepareSwap s tl p x = .ok (c, u)) :
    ∃ v, exec (.tailoringCommit n x) s = .next v ∧ jobEnded n v ∧
      (j.member = false → findTailor v n = none ∧ (∃ z, findPlan v tl.plan = some z ∧ z.revision = p.revision + 1 ∧ z.low = x) ∧
        v = endTailor ((applySwap u n p.handle c x).chipCnt 26) j (tailorStatus tl) (tailorDetail ((applySwap u n p.handle c x).chipCnt 26) tl (stepLoss tl))) ∧
      (j.member = true → ∃ z, findPlan v tl.plan = some z ∧ z.revision = p.revision ∧ z.low = p.low) := by
  have ran := exec_tailoringCommit step job updated free found x
  rw [made] at ran
  dsimp only at ran
  have there : findPlan u tl.plan = some p := (findPlan_plans (prepareSwap_plans made)).trans found
  have own := findJob_id job
  cases member : j.member with
  | false =>
    rw [member, if_neg Bool.false_ne_true] at ran
    obtain ⟨z, swapped, revision, low⟩ := applySwap_found (job := n) there c x
    rw [← (findPlan_mem found).2] at swapped
    obtain ⟨y, kept, core⟩ := plansKept_found (endTailor_plans ((applySwap u n p.handle c x).chipCnt 26) j (tailorStatus tl)
      (tailorDetail ((applySwap u n p.handle c x).chipCnt 26) tl (stepLoss tl))) swapped
    have sameRevision : y.revision = z.revision := (congrArg PlanRec.revision core :)
    have sameLow : y.low = z.low := (congrArg PlanRec.low core :)
    refine ⟨_, ran, own ▸ endTailor_ended _ _ _ _, fun _ => ⟨findTailor_gone (own ▸ endTailor_gone _ _ _ _), ⟨y, ?_, sameRevision.trans revision, sameLow.trans low⟩, rfl⟩, nofun⟩
    rw [← (findPlan_mem found).2]
    exact kept
  | true =>
    rw [member, if_pos rfl] at ran
    refine ⟨_, ran, own ▸ endMemberTailor_ended _ _ _ _, nofun, fun _ => ?_⟩
    obtain ⟨z, kept, core⟩ := plansKept_found (endMemberTailor_plans _ j (tailorStatus tl) (tailorDetail u tl (stepLoss tl))) ((findPlan_plans prepared_plans).trans there)
    exact ⟨z, kept, (congrArg PlanRec.revision core :), (congrArg PlanRec.low core :)⟩

/-- What a commit leaves whose plan cannot take its new lowering. -/
theorem tailoringCommit_error {x : Lowering} {st : Status} (step : findTailor s n = some tl) (job : findJob s n = some j) (updated : tl.updated = true)
    (free : tl.prep = none) (found : findPlan s tl.plan = some p) (failed : prepareSwap s tl p x = .error st) :
    ∃ v, exec (.tailoringCommit n x) s = .next v ∧ jobEnded n v ∧ findTailor v n = none ∧
      (j.member = false → v = endTailor (s.chipCnt 28) j .foldAborted (tailorAbort s tl st)) := by
  have ran := exec_tailoringCommit step job updated free found x
  rw [failed] at ran
  dsimp only at ran
  have own := findJob_id job
  cases member : j.member with
  | false =>
    rw [member, if_neg Bool.false_ne_true] at ran
    exact ⟨_, ran, own ▸ endTailor_ended _ _ _ _, findTailor_gone (own ▸ endTailor_gone _ _ _ _), fun _ => rfl⟩
  | true =>
    rw [member, if_pos rfl] at ran
    exact ⟨_, ran, own ▸ endMemberTailor_ended _ _ _ _, findTailor_gone (endMemberTailor_gone (tailorDropped_gone s n)), nofun⟩

/-! ### An engine that has decoded or encoded for a job -/

theorem setEngine_free (s : State) (e : Fin 8) : (setEngine s e.val .free).engines[e.val] = .free := by
  unfold setEngine
  simp only [Nat.mod_eq_of_lt e.isLt, Vector.getElem_set_self]

theorem exec_decodeDone_unlisted (engine : s.engines[e.val] = .decode n k) (none : findJob s n = none) (r : DecodeResult) :
    exec (.codecDecodeDone e r) s = .next (serveImages (setEngine s e.val .free)) := by
  change execCodecDecodeDone e r s = _
  unfold execCodecDecodeDone
  rw [engine]
  dsimp only
  rw [show findJob (setEngine s e.val .free) n = Option.none from none]

theorem exec_decodeDone_image {o : ImageReadOp} {pb : List Byte} (engine : s.engines[e.val] = .decode n k) (found : findJob s n = some j) (image : j.kind = .image o pb)
    (r : DecodeResult) : exec (.codecDecodeDone e r) s = .next (serveImages (imageDecoded (countCodec (setEngine s e.val .free) e (decodeBusy o)) j o pb r)) := by
  change execCodecDecodeDone e r s = _
  unfold execCodecDecodeDone
  rw [engine]
  dsimp only
  rw [show findJob (setEngine s e.val .free) n = some j from found]
  dsimp only
  rw [image]

theorem exec_decodeDone_sample (engine : s.engines[e.val] = .decode n k) (found : findJob s n = some j) (other : ∀ o pb, j.kind ≠ .image o pb) (r : DecodeResult) :
    exec (.codecDecodeDone e r) s = .next (serveImages (sampleDecoded (countCodec (setEngine s e.val .free) e 0) j k r)) := by
  change execCodecDecodeDone e r s = _
  unfold execCodecDecodeDone
  rw [engine]
  dsimp only
  rw [show findJob (setEngine s e.val .free) n = some j from found]
  dsimp only
  split
  next o pb image => exact absurd image (other o pb)
  · rfl

theorem exec_encodeDone (engine : s.engines[e.val] = .encode n k) (b : List Byte) :
    exec (.codecEncodeDone e b) s = .next (serveImages (hostEncoded (setEngine s e.val .free) n k e b)) := by
  change execCodecEncodeDone e b s = _
  unfold execCodecEncodeDone
  rw [engine]

/-- An engine that is set free in a module with no job. -/
theorem setEngine_idle (s : State) (e : Fin 8) (idle : s.sched.jobs = []) : ∃ t, serveImages (setEngine s e.val .free) = t ∧ t.engines[e.val] = .free ∧ { t with engines := s.engines } = s :=
  ⟨_, serveImages_idle (setEngine s e.val .free) idle, setEngine_free s e, rfl⟩

/-! ### A side's image -/

/-- A piece with one more image, of this kind and stream unless it was dropped. -/
def imaged (y : Piece) (k : Nat) (b : List Byte) (z : Piece) : Prop :=
  z.num = y.num ∧ z.images.length = y.images.length + 1 ∧ ∃ i, z.images.getLast? = some i ∧ i.kind = k ∧ (i.data = b ∨ i.dropped = true)

/-- A track has such a piece. -/
def hasImaged (q : Track) (y : Piece) (k : Nat) (b : List Byte) (s : State) : Prop := ∃ z ∈ (s.track q).pieces, imaged y k b z

theorem hasImaged_modPiece {q : Track} {y : Piece} {b : List Byte} {m : Nat} {f : Piece → Piece} (kept : ∀ z, imaged y k b z → imaged y k b (f z))
    (h : hasImaged q y k b s) : hasImaged q y k b (modPiece s q m f) := by
  obtain ⟨z, mem, made⟩ := h
  unfold hasImaged
  rw [modPiece_pieces]
  refine ⟨_, List.mem_map_of_mem mem, ?_⟩
  dsimp only
  split
  · exact kept z made
  · exact made

theorem hasImaged_setBuilding {q : Track} {y : Piece} {b : List Byte} {key m : Nat} (h : hasImaged q y k b s) : hasImaged q y k b (setBuilding s key m) := by
  obtain ⟨z, mem, made⟩ := h
  have same := bare_track (works_bare (E := fun _ _ => False) (fun _ _ no => no.elim) (works_setBuilding (k := key) (n := m) (works_refl s))) q
  have pieces : ((setBuilding s key m).track q).pieces.map barePiece = (s.track q).pieces.map barePiece := (congrArg TrackState.pieces same :)
  obtain ⟨x, there, eq⟩ := List.mem_map.mp (pieces ▸ List.mem_map_of_mem mem)
  have num : x.num = z.num := (congrArg Piece.num eq :)
  have images : x.images = z.images := (congrArg Piece.images eq :)
  refine ⟨x, there, ?_⟩
  unfold imaged at *
  rwa [num, images]

/-- Images that are dropped of a piece keep their number and their kinds. -/
theorem imaged_dropped {y z : Piece} {b : List Byte} {d : Nat} (h : imaged y k b z) :
    imaged y k b { z with drops := d, images := mapWhere (fun i => decide (i.kind < d)) dropImage z.images } := by
  obtain ⟨num, length, i, last, kind, data⟩ := h
  refine ⟨num, (List.length_map _).trans length, ?_⟩
  unfold mapWhere
  dsimp only
  rw [List.getLast?_map, last]
  refine ⟨_, rfl, ?_⟩
  dsimp only
  split
  · exact ⟨kind, .inr rfl⟩
  · exact ⟨kind, data⟩

theorem hasImaged_buildPiece {q : Track} {y : Piece} {b : List Byte} {m : Nat} (h : hasImaged q y k b s) : hasImaged q y k b (buildPiece s q m) := by
  unfold buildPiece
  split
  · exact h
  · split
    · exact h
    · exact hasImaged_setBuilding (hasImaged_modPiece (fun _ => imaged_dropped) h)

theorem modTrack_engines (s : State) (q : Track) (g : TrackState → TrackState) : (s.modTrack q g).engines = s.engines := by cases q <;> rfl

theorem setBuilding_engines (s : State) (key m : Nat) : (setBuilding s key m).engines = s.engines :=
  (congrArg State.engines marksOnly_basketMarks.1 :)

theorem buildPiece_engines (s : State) (q : Track) (m : Nat) : (buildPiece s q m).engines = s.engines := by
  unfold buildPiece
  split
  · rfl
  · split
    · rfl
    · exact (setBuilding_engines ..).trans (modTrack_engines ..)

theorem sideEncode_mem {q : Port} {y : Piece} (due : sideEncode s q = some (y, k)) : y ∈ (s.track (s.lp q).cfg.track).pieces := by
  obtain ⟨x, mem, some⟩ := List.exists_of_findSome?_eq_some due
  obtain ⟨_, -, same⟩ := Option.map_eq_some_iff.mp some
  rw [← (Prod.mk.inj same).1]
  exact mem

theorem sideEncoded_joins {q : Port} {y : Piece} (due : sideEncode s q = some (y, k)) (e : Fin 8) (b : List Byte) :
    hasImaged (s.lp q).cfg.track y k b (sideEncoded s q e b) ∧ (sideEncoded s q e b).engines = s.engines := by
  have mem := sideEncode_mem due
  have joined (v : State) (i : Image) (same : v.track (s.lp q).cfg.track = s.track (s.lp q).cfg.track) (kind : i.kind = k) (data : i.data = b) :
      hasImaged (s.lp q).cfg.track y k b (modPiece v (s.lp q).cfg.track y.num fun y => { y with images := y.images ++ [i] }) := by
    unfold hasImaged
    rw [modPiece_pieces, same]
    refine ⟨_, mem_mapWhere_hit mem (beq_self_eq_true _), rfl, List.length_append, i, List.getLast?_concat .., kind, .inl data⟩
  unfold sideEncoded
  rw [due]
  dsimp only
  exact ⟨hasImaged_buildPiece (joined _ _ rfl rfl rfl), (buildPiece_engines ..).trans (modTrack_engines ..)⟩

end

end Sys2Proof.Machine

open Sys2Proof Sys2Proof.Machine

/-- Settles O59: what a job's admission leaves of it, and the jobs that have ended, are invariants of the work; each command's change of its job, its image or its plan
is found again after it. -/
theorem codecEvents : Obligations.CodecEvents := by
  refine fun s => ⟨fun j rest first others fits => ?grants, ?serves, fun idle => ?idle, fun e n k r j o pb engine found image => ?image,
    fun e n k r j tl x engine found other step sample good whole => ?sample, fun e n k r engine none => ?unlisted, fun e n k r engine none idle => ?quiet,
    fun e n k b engine => ?encoded, fun e n k b engine none idle => ?quietEncoded, fun e p b y k engine due => ?side, fun e r b free => ?free,
    fun n x t j step job waits => ?waits, fun n x t j p c u step job updated free found made => ?commits, fun n x t j p st step job updated free found failed => ?aborts⟩
  case grants => exact ⟨_, rfl, serveImages_staged first others fits, keeps_of_staysNext (cmd_stagingGrant s) rfl⟩
  case serves => exact ⟨_, rfl, rfl, keeps_of_staysNext (cmd_stagingGrant s) rfl⟩
  case idle => exact congrArg Host.Outcome.next (serveImages_idle s idle)
  case image =>
    have ran := exec_decodeDone_image engine found image r
    obtain rfl := findJob_id found
    exact ⟨_, ran, rfl, fun bad => serveImages_ended (imageDecoded_corrupt image bad),
      fun good => serveImages_eachJob (decodedAs_lasting _ _) (by exact fun _ _ h => h) (imageDecoded_good good), keeps_of_staysNext (cmd_codecDecodeDone e r s) ran⟩
  case sample =>
    have ran := exec_decodeDone_sample engine found other r
    obtain rfl := findJob_id found
    have lasting : Lasting fun y => y.id = j.id → y.decoded = true := fun _ _ kept decoded id => kept.decoded (decoded (kept.id.symm.trans id))
    exact ⟨_, ran, serveImages_eachJob lasting (by exact fun _ _ h => h) (sampleDecoded_good step sample good whole), keeps_of_staysNext (cmd_codecDecodeDone e r s) ran⟩
  case unlisted =>
    have ran := exec_decodeDone_unlisted engine none r
    exact ⟨_, ran, rfl, keeps_of_staysNext (cmd_codecDecodeDone e r s) ran⟩
  case quiet =>
    obtain ⟨t, served, shown⟩ := setEngine_idle s e idle
    exact ⟨t, (exec_decodeDone_unlisted engine none r).trans (congrArg Host.Outcome.next served), shown⟩
  case encoded =>
    have ran := exec_encodeDone engine b
    exact ⟨_, ran, rfl, serveImages_eachJob (encodedAs_lasting n k b) (by exact fun _ _ h => h) (hostEncoded_encoded _ n k e b), keeps_of_staysNext (cmd_codecEncodeDone e b s) ran⟩
  case quietEncoded =>
    obtain ⟨t, served, shown⟩ := setEngine_idle s e idle
    have nobody : hostEncoded (setEngine s e.val .free) n k e b = setEngine s e.val .free := by
      unfold hostEncoded
      rw [show findJob (setEngine s e.val .free) n = Option.none from none]
    exact ⟨t, (exec_encodeDone engine b).trans (congrArg Host.Outcome.next ((congrArg serveImages nobody).trans served)), shown⟩
  case side =>
    have ran : exec (.codecEncodeDone e b) s = .next (sideEncoded s p e b) := by
      change execCodecEncodeDone e b s = _
      unfold execCodecEncodeDone
      rw [engine]
    obtain ⟨⟨z, mem, num, images⟩, engines⟩ := sideEncoded_joins due e b
    exact ⟨_, ran, rfl, ⟨z, mem, num, images⟩, engines, keeps_of_staysNext (cmd_codecEncodeDone e b s) ran⟩
  case free =>
    constructor
    · change execCodecDecodeDone e r s = _
      unfold execCodecDecodeDone
      rw [free]
    · change execCodecEncodeDone e b s = _
      unfold execCodecEncodeDone
      rw [free]
  case waits => exact exec_tailoringCommit_waits step job waits x
  case commits =>
    obtain ⟨v, ran, ended, alone, member⟩ := tailoringCommit_ok step job updated free found made
    exact ⟨v, ran, keeps_of_staysNext (cmd_tailoringCommit n x s) ran, ended, alone, member⟩
  case aborts =>
    obtain ⟨v, ran, ended, gone, alone⟩ := tailoringCommit_error step job updated free found failed
    exact ⟨v, ran, keeps_of_staysNext (cmd_tailoringCommit n x s) ran, ended, gone, alone⟩
end
